-- ==== Sys2Proof/Word.lean ====
section
/-! DEFINITION. The word types of the Adulo Q4800 (00_scope R2 to R4) and the bit numbering that every file shares. -/

namespace Sys2Proof

/-- One byte, the smallest addressable unit (R3). -/
abbrev Byte := BitVec 8

/-- A 32-bit register or instruction word. -/
abbrev Word := BitVec 32

/-- A 64-bit value: a register pair, a latch entry, a lane mask. -/
abbrev Dword := BitVec 64

/-- One bit for each lane of a group of at most 64 lanes (R8); bit i is lane i (R3). -/
abbrev LaneMask := BitVec 64

end Sys2Proof
end

