-- ==== Sys2Proof/Config.lean ====
section
/-! DEFINITION. What the device fixes and the spec leaves open. Every constant is opaque: nothing in the model knows its value, so a claim holds whatever it is. -/

namespace Sys2Proof.Config

/-- FREE VALUE (log 5): which of several moves that are open at once comes next. Applied to the free-value counter of the state. -/
opaque pick : Nat → Nat

/-- FREE VALUE (log 4): how much each clock advances after a step, in cycles of a cluster or in nanoseconds. Applied to the free-value counter. -/
opaque elapse : Nat → Nat

/-- FREE VALUE (log 56): the stations of a loop of the fabric in their cyclic order, as the capability list records them, where they are such as
19 R368 demands. -/
opaque anyLoops : Nat → List Nat

/-- Loops as 19 R368 demands them: 40 loops of 8 to 16 of the 48 stations, none twice on a loop, and one for every pair of stations. -/
def goodLoops (f : Nat → List Nat) : Bool :=
  (List.range 40).all (fun l => decide (8 ≤ (f l).length) && decide ((f l).length ≤ 16) && decide (f l).Nodup && (f l).all (· < 48))
    && (List.range 48).all fun a => (List.range 48).all fun b => (List.range 40).any fun l => (f l).contains a && (f l).contains b

/-- Loops that meet the demand: the stations in six groups of eight, and for every two groups a loop of both. -/
def plainLoops (l : Nat) : List Nat :=
  let pairs := (List.range 6).flatMap fun a => ((List.range 6).filter (a < ·)).map fun b => (a, b)
  let p := pairs.getD (l % 15) (0, 1)
  (List.range 8).map (8 * p.1 + ·) ++ (List.range 8).map (8 * p.2 + ·)

/-- The stations of a loop of the fabric in their cyclic order: free among the loops that 19 R368 admits. -/
def loopStations (l : Nat) : List Nat := if goodLoops anyLoops then anyLoops l else plainLoops l

/-- FREE VALUE (log 64): the address in HBM, in units of 256 bytes, that a save takes for the spill part of an image (13 R279, R281). -/
opaque imageSpill : Nat → BitVec 40

/-- FREE VALUE (log 64): a byte of an image area behind the header: by the team whose image stands there, and the offset (13 R281). -/
opaque imageByte : Nat → Nat → BitVec 8

/-- FREE VALUE (log 9): the hash of a word address that indexes the spill filter, fixed by the device (14 R298). -/
opaque spillHash : Nat → Nat

/-- FREE VALUE (log 10): SHAKE256 of a byte string, 32 bytes out (16 R328, 20 R390). -/
opaque shake256 : List Byte → List Byte

/-- FREE VALUE (log 10): the signature that key index makes over a byte string (20 R390). -/
opaque sign : Nat → List Byte → List Byte

/-- FREE VALUE (log 10): whether a firmware image carries a valid signature (20 R390). -/
opaque signatureOk : List Byte → Bool

/-- FREE VALUE (log 32): the communicators that a list in memory names, from its bytes: for each its ranks, a group of the launch by team
index × 1024 + team lane offset or none for an Ethernet peer. The spec gives the list no layout (16 Table 16-1 COMM). -/
opaque communicators : List Byte → List (List (Option Nat))

/-- FREE VALUE (log 38): the version that a firmware image names (20 R390). -/
opaque imageVersion : List Byte → Nat

/-- FREE VALUE (log 38): the Ultra Ethernet options in force, as a die's capability entry 0x0006 holds them (20 Table 20-4). -/
opaque etherOptions : Nat → List Byte
/-- FREE VALUE (log 38): the PTP options in force, as capability entry 0x0007 holds them (20 Table 20-4). -/
opaque ptpOptions : Nat → List Byte

/-- FREE VALUE (log 38): the digest of the firmware of a version (20 Table 20-4). -/
opaque firmwareDigest : Nat → List Byte

/-- FREE VALUE (log 10): the identity public key of a die, and the device serial (20 R390, Table 20-4). -/
opaque identityKey : Nat → List Byte
/-- FREE VALUE (log 10): the device serial. -/
opaque serial : List Byte

/-- FREE VALUE (log 10): a record public key of a die, by its number, and its certificate (20 R390, Table 20-4). -/
opaque recordKey : Nat → Nat → List Byte

end Sys2Proof.Config
end

