-- ==== Sys2Proof/Syntax.lean ====
section
/-! DEFINITION. The instruction set: one constructor for each row of spec/opcode_table.json, the 152 encoded words first
(03 Tables 3-6 and 3-7), then the 106 events of the device (95_what_each_step_holds.md). A field of a word is a bit vector of the
width Table 3-2 gives it; W is a Bool. The chain bit C belongs to the packet (R35, R37) and is no field here. The operands of
an event name what it acts on: a group key, an operation, a request, a cluster key, a die. -/

namespace Sys2Proof

/-- Every row of the table of operations and events. -/
inductive Instr where
  /- Control flow (03 Table 3-6, 08 Table 8-1). -/
  /-- `NOP` (R36, R42). -/
  | nop
  /-- `BRA` (R159). -/
  | bra (disp : BitVec 16)
  /-- `BANY` (R159). -/
  | bany (p : BitVec 3) (disp : BitVec 16)
  /-- `BALL` (R159). -/
  | ball (p : BitVec 3) (disp : BitVec 16)
  /-- `BNONE` (R159). -/
  | bnone (p : BitVec 3) (disp : BitVec 16)
  /-- `BDIV` (R160). -/
  | bdiv (p : BitVec 3) (jb : BitVec 5) (disp : BitVec 16)
  /-- `JOIN` (R164). -/
  | join (bound : BitVec 16)
  /-- `CALL` (R168). -/
  | call (disp : BitVec 16)
  /-- `RET` (R169). -/
  | ret
  /-- `LOOP` (R167). -/
  | loop (g : BitVec 7) (disp : BitVec 16)
  /-- `JMPF` (R172). -/
  | jmpf (slot : BitVec 7) (seg : BitVec 8) (blk : BitVec 5)
  /-- `CFETCH` (R171). -/
  | cfetch (slot : BitVec 7) (a : BitVec 8)
  /-- `TRAP` (R174). -/
  | trap (code : BitVec 16)
  /-- `EXIT` (R174). -/
  | exit
  /-- `ERET` (R181). -/
  | eret
  /- Vector integer words (06 Table 6-3). -/
  /-- `MOV` (R112). -/
  | mov (w : Bool) (d : BitVec 7) (a : BitVec 8)
  /-- `MOVI` (R113). -/
  | movi (w : Bool) (d : BitVec 7) (imm : BitVec 16)
  /-- `MOVHI` (R113). -/
  | movhi (w : Bool) (d : BitVec 7) (imm : BitVec 16)
  /-- `IADD` (R112). -/
  | iadd (w : Bool) (d : BitVec 7) (a b : BitVec 8)
  /-- `IADDI` (R112). -/
  | iaddi (w : Bool) (d : BitVec 7) (a imm : BitVec 8)
  /-- `ISUB` (R112). -/
  | isub (w : Bool) (d : BitVec 7) (a b : BitVec 8)
  /-- `IMUL` (R112). -/
  | imul (w : Bool) (d : BitVec 7) (a b : BitVec 8)
  /-- `IMULH` (R112). -/
  | imulh (w : Bool) (d : BitVec 7) (a b : BitVec 8)
  /-- `IMULHU` (R112). -/
  | imulhu (w : Bool) (d : BitVec 7) (a b : BitVec 8)
  /-- `IMAD` (R112). -/
  | imad (w : Bool) (d : BitVec 7) (a b : BitVec 8)
  /-- `IADD64` (R112). -/
  | iadd64 (w : Bool) (d : BitVec 7) (a b : BitVec 8)
  /-- `LEA` (R112). -/
  | lea (w : Bool) (d : BitVec 7) (a b : BitVec 8)
  /-- `AND` (R112). -/
  | and (w : Bool) (d : BitVec 7) (a b : BitVec 8)
  /-- `OR` (R112). -/
  | or (w : Bool) (d : BitVec 7) (a b : BitVec 8)
  /-- `XOR` (R112). -/
  | xor (w : Bool) (d : BitVec 7) (a b : BitVec 8)
  /-- `ANDN` (R112). -/
  | andn (w : Bool) (d : BitVec 7) (a b : BitVec 8)
  /-- `SHL` (R114). -/
  | shl (w : Bool) (d : BitVec 7) (a b : BitVec 8)
  /-- `SHR` (R114). -/
  | shr (w : Bool) (d : BitVec 7) (a b : BitVec 8)
  /-- `SAR` (R114). -/
  | sar (w : Bool) (d : BitVec 7) (a b : BitVec 8)
  /-- `SHLI` (R114). -/
  | shli (w : Bool) (d : BitVec 7) (a imm : BitVec 8)
  /-- `SHRI` (R114). -/
  | shri (w : Bool) (d : BitVec 7) (a imm : BitVec 8)
  /-- `SARI` (R114). -/
  | sari (w : Bool) (d : BitVec 7) (a imm : BitVec 8)
  /-- `IMIN` (R112). -/
  | imin (w : Bool) (d : BitVec 7) (a b : BitVec 8)
  /-- `IMAX` (R112). -/
  | imax (w : Bool) (d : BitVec 7) (a b : BitVec 8)
  /-- `UMIN` (R112). -/
  | umin (w : Bool) (d : BitVec 7) (a b : BitVec 8)
  /-- `UMAX` (R112). -/
  | umax (w : Bool) (d : BitVec 7) (a b : BitVec 8)
  /-- `IABS` (R112). -/
  | iabs (w : Bool) (d : BitVec 7) (a : BitVec 8)
  /-- `BFE` (R115). -/
  | bfe (w : Bool) (d : BitVec 7) (a b : BitVec 8)
  /- Float words (06 Table 6-4, R118 to R121). -/
  /-- `FADD` (R116). -/
  | fadd (w : Bool) (d : BitVec 7) (a b : BitVec 8)
  /-- `FSUB` (R116). -/
  | fsub (w : Bool) (d : BitVec 7) (a b : BitVec 8)
  /-- `FMUL` (R116). -/
  | fmul (w : Bool) (d : BitVec 7) (a b : BitVec 8)
  /-- `FFMA` (R116). -/
  | ffma (w : Bool) (d : BitVec 7) (a b : BitVec 8)
  /-- `FMIN` (R116). -/
  | fmin (w : Bool) (d : BitVec 7) (a b : BitVec 8)
  /-- `FMAX` (R116). -/
  | fmax (w : Bool) (d : BitVec 7) (a b : BitVec 8)
  /-- `HADD2` (R116). -/
  | hadd2 (w : Bool) (d : BitVec 7) (a b : BitVec 8)
  /-- `HMUL2` (R116). -/
  | hmul2 (w : Bool) (d : BitVec 7) (a b : BitVec 8)
  /-- `HFMA2` (R116). -/
  | hfma2 (w : Bool) (d : BitVec 7) (a b : BitVec 8)
  /-- `BADD2` (R116). -/
  | badd2 (w : Bool) (d : BitVec 7) (a b : BitVec 8)
  /-- `BMUL2` (R116). -/
  | bmul2 (w : Bool) (d : BitVec 7) (a b : BitVec 8)
  /-- `BFMA2` (R116). -/
  | bfma2 (w : Bool) (d : BitVec 7) (a b : BitVec 8)
  /-- `FRCP` (R118). -/
  | frcp (w : Bool) (d : BitVec 7) (a : BitVec 8)
  /-- `FRSQ` (R118). -/
  | frsq (w : Bool) (d : BitVec 7) (a : BitVec 8)
  /-- `FEXP2` (R118). -/
  | fexp2 (w : Bool) (d : BitVec 7) (a : BitVec 8)
  /-- `FLOG2` (R118). -/
  | flog2 (w : Bool) (d : BitVec 7) (a : BitVec 8)
  /-- `CVT` (R119). -/
  | cvt (w : Bool) (d : BitVec 7) (a imm : BitVec 8)
  /-- `FSCALE` (R120). -/
  | fscale (w : Bool) (d : BitVec 7) (a b : BitVec 8)
  /-- `QSCALE` (R120). -/
  | qscale (w : Bool) (d : BitVec 7) (a b : BitVec 8)
  /-- `FRND` (R121). -/
  | frnd (w : Bool) (d : BitVec 7) (a imm : BitVec 8)
  /- Predicate and mask words (06 R122 to R127). -/
  /-- `ICMP` (R122). -/
  | icmp (cond : BitVec 4) (p : BitVec 3) (a b : BitVec 8)
  /-- `UCMP` (R122). -/
  | ucmp (cond : BitVec 4) (p : BitVec 3) (a b : BitVec 8)
  /-- `FCMP` (R122). -/
  | fcmp (cond : BitVec 4) (p : BitVec 3) (a b : BitVec 8)
  /-- `PLOP` (R123). -/
  | plop (f : BitVec 4) (p a b : BitVec 3)
  /-- `SEL` (R124). -/
  | sel (w : Bool) (d : BitVec 7) (a b : BitVec 8)
  /-- `VOTE` (R125). -/
  | vote (w : Bool) (d : BitVec 7) (a : BitVec 3) (mode : BitVec 2)
  /-- `MSET` (R126). -/
  | mset (a : BitVec 3) (mode : BitVec 2)
  /-- `PMOV_GET` (R127). -/
  | pmovGet (d : BitVec 7)
  /-- `PMOV_PUT` (R127). -/
  | pmovPut (a : BitVec 8)
  /- Dot and cross-lane words (07 R131 to R136). -/
  /-- `DOT8W` (R131). -/
  | dot8w (w : Bool) (d : BitVec 7) (a b : BitVec 8)
  /-- `DOT8I` (R131). -/
  | dot8i (w : Bool) (d : BitVec 7) (a b : BitVec 8)
  /-- `DOT4W` (R131). -/
  | dot4w (w : Bool) (d : BitVec 7) (a b : BitVec 8)
  /-- `DOT4I` (R131). -/
  | dot4i (w : Bool) (d : BitVec 7) (a b : BitVec 8)
  /-- `SHFL` (R133). -/
  | shfl (w : Bool) (d : BitVec 7) (a b : BitVec 8)
  /-- `SHFLX` (R134). -/
  | shflx (w : Bool) (d : BitVec 7) (a imm : BitVec 8)
  /-- `QXCH` (R135). -/
  | qxch (w : Bool) (d : BitVec 7) (a imm : BitVec 8)
  /-- `LRED` (R136). -/
  | lred (w : Bool) (d : BitVec 7) (a imm : BitVec 8)
  /- Width, region and identity words (07 R137 to R141). -/
  /-- `SPLIT` (R139). -/
  | split (d : BitVec 7) (f : BitVec 8)
  /-- `FUSE` (R139). -/
  | fuse (d : BitVec 7)
  /-- `REGION` (R141). -/
  | region (idx : BitVec 5)
  /-- `RDID` (R137). -/
  | rdid (w : Bool) (d : BitVec 7) (sel : BitVec 8)
  /-- `MRD` (R138). -/
  | mrd (w : Bool) (d : BitVec 7) (a b : BitVec 8)
  /-- `STRD` (R138). -/
  | strd (w : Bool) (d : BitVec 7)
  /- Group-wide words (07 Table 7-12). -/
  /-- `GMOV` (R153). -/
  | gmov (w : Bool) (d : BitVec 7) (a : BitVec 8)
  /-- `GMOVI` (R153). -/
  | gmovi (w : Bool) (d : BitVec 7) (imm : BitVec 16)
  /-- `GMOVHI` (R153). -/
  | gmovhi (w : Bool) (d : BitVec 7) (imm : BitVec 16)
  /-- `GADD` (R153). -/
  | gadd (w : Bool) (d : BitVec 7) (a b : BitVec 8)
  /-- `GADDI` (R153). -/
  | gaddi (w : Bool) (d : BitVec 7) (a imm : BitVec 8)
  /-- `GSUB` (R153). -/
  | gsub (w : Bool) (d : BitVec 7) (a b : BitVec 8)
  /-- `GMUL` (R153). -/
  | gmul (w : Bool) (d : BitVec 7) (a b : BitVec 8)
  /-- `GAND` (R153). -/
  | gand (w : Bool) (d : BitVec 7) (a b : BitVec 8)
  /-- `GOR` (R153). -/
  | gor (w : Bool) (d : BitVec 7) (a b : BitVec 8)
  /-- `GXOR` (R153). -/
  | gxor (w : Bool) (d : BitVec 7) (a b : BitVec 8)
  /-- `GSHIFT` (R154). -/
  | gshift (w : Bool) (d : BitVec 7) (a b : BitVec 8)
  /-- `GCMP` (R153). -/
  | gcmp (cond : BitVec 4) (p : BitVec 3) (a b : BitVec 8)
  /-- `GMINMAX` (R153). -/
  | gminmax (w : Bool) (d : BitVec 7) (a b : BitVec 8)
  /-- `GADD64` (R153). -/
  | gadd64 (w : Bool) (d : BitVec 7) (a b : BitVec 8)
  /-- `GBCAST` (R155). -/
  | gbcast (w : Bool) (d : BitVec 7) (a b : BitVec 8)
  /-- `VBCAST` (R155). -/
  | vbcast (w : Bool) (d : BitVec 7) (a : BitVec 8)
  /- Memory, atomic, transaction and ordering words (10, 14 R292, 17 R338). -/
  /-- `LDG` (R206). -/
  | ldg (sz : BitVec 2) (d a : BitVec 7) (off : BitVec 8)
  /-- `STG` (R206). -/
  | stg (sz : BitVec 2) (d a : BitVec 7) (off : BitVec 8)
  /-- `LDS` (R206). -/
  | lds (sz : BitVec 2) (d a : BitVec 7) (off : BitVec 8)
  /-- `STS` (R206). -/
  | sts (sz : BitVec 2) (d a : BitVec 7) (off : BitVec 8)
  /-- `LDV` (R206). -/
  | ldv (sz : BitVec 2) (d a : BitVec 7) (off : BitVec 8)
  /-- `STV` (R206). -/
  | stv (sz : BitVec 2) (d a : BitVec 7) (off : BitVec 8)
  /-- `ATOMG` (R211). -/
  | atomg (aop : BitVec 4) (sz : Bool) (d a : BitVec 7) (off : BitVec 5)
  /-- `ATOMS` (R211). -/
  | atoms (aop : BitVec 4) (sz : Bool) (d a : BitVec 7) (off : BitVec 5)
  /-- `ATOMV` (R211). -/
  | atomv (aop : BitVec 4) (sz : Bool) (d a : BitVec 7) (off : BitVec 5)
  /-- `TXB` (R216). -/
  | txb (d : BitVec 7) (n : BitVec 8)
  /-- `TXE` (R218). -/
  | txe (d : BitVec 7)
  /-- `TXA` (R219). -/
  | txa (code : BitVec 8)
  /-- `FENCE` (R222). -/
  | fence (scope : BitVec 3) (kind : BitVec 2) (paths : BitVec 9)
  /-- `TFENCE` (R223). -/
  | tfence (scope : BitVec 3)
  /-- `WAITU` (R292). -/
  | waitu (cmp : BitVec 3) (sp : BitVec 2) (sz : Bool) (d a : BitVec 7)
  /-- `WAITC` (R338). -/
  | waitc (path : BitVec 7) (a : BitVec 8)
  /- Engine words (07 R145, 10 R227, R228, 12). -/
  /-- `MMA` (R145). -/
  | mma (g : BitVec 7) (a : BitVec 8) (an : BitVec 3) (tb : BitVec 5)
  /-- `COPY` (R227). -/
  | copy (g : BitVec 7) (wup : Bool) (win : BitVec 3) (dsp ssp : BitVec 2)
  /-- `GATHER` (R228). -/
  | gather (g : BitVec 7) (a : BitVec 8) (sx : Bool) (esz : BitVec 2) (vault scat : Bool)
  /-- `COLL` (R270). -/
  | coll (g : BitVec 7) (n : BitVec 8)
  /-- `LAUNCH` (R260). -/
  | launch (g : BitVec 7)
  /-- `MSEND` (R263). -/
  | msend (g : BitVec 7) (n : BitVec 8)
  /- X secondaries (03 Table 3-7). -/
  /-- `POPC` (R112). -/
  | popc (w : Bool) (d : BitVec 7) (a : BitVec 8)
  /-- `CLZ` (R112). -/
  | clz (w : Bool) (d : BitVec 7) (a : BitVec 8)
  /-- `BREV` (R112). -/
  | brev (w : Bool) (d : BitVec 7) (a : BitVec 8)
  /-- `BFI` (R115). -/
  | bfi (w : Bool) (d : BitVec 7) (a : BitVec 8)
  /-- `YIELD` (R174). -/
  | yield
  /-- `SETPL` (R175). -/
  | setpl (d : BitVec 7) (a : BitVec 8)
  /-- `RDCLK` (R177). -/
  | rdclk (d : BitVec 7)
  /-- `RDSYNC` (R177). -/
  | rdsync (d : BitVec 7)
  /-- `RDPROG` (R177). -/
  | rdprog (d : BitVec 7)
  /-- `RDNRG` (R177). -/
  | rdnrg (d : BitVec 7)
  /-- `CKPT` (R178). -/
  | ckpt (d : BitVec 7)
  /-- `VIEW` (R142). -/
  | view (v : BitVec 7) (a : BitVec 8)
  /-- `SFMT` (R143). -/
  | sfmt (k : BitVec 3) (a : BitVec 8)
  /-- `GANG` (R144). -/
  | gang (d : BitVec 7) (a : BitVec 8)
  /-- `PIN` (R224). -/
  | pin (d : BitVec 7) (a : BitVec 8)
  /-- `UNPIN` (R224). -/
  | unpin (d : BitVec 7) (a : BitVec 8)
  /-- `MSR` (R180). -/
  | msr (n : BitVec 7) (a : BitVec 8)
  /-- `MRS` (R180). -/
  | mrs (d : BitVec 7) (a : BitVec 8)
  /-- `BARI` (R342). -/
  | bari (a : BitVec 8)
  /-- `BARA` (R342). -/
  | bara (d : BitVec 7) (a : BitVec 8)
  /-- `BARX` (R342). -/
  | barx (a : BitVec 8)
  /-- `BARW` (R305). -/
  | barw (d : BitVec 7) (a : BitVec 8)
  /-- `STAGEA` (R269). -/
  | stagea (d : BitVec 7) (a : BitVec 8)
  /-- `STAGER` (R269). -/
  | stager (a : BitVec 8)
  /-- `RINGADV` (R267). -/
  | ringadv (k : BitVec 7) (a : BitVec 8)
  /-- `LQRD` (R261). -/
  | lqrd (d : BitVec 7)
  /-- `L1WB` (R225). -/
  | l1wb (a : BitVec 8)
  /-- `L1INV` (R225). -/
  | l1inv (a : BitVec 8)
  /- Events of groups and strands. -/
  /-- `GROUP_END` (R174). -/
  | groupEnd (g : Nat)
  /-- `STRAND_MERGE` (R87, R163). -/
  | strandMerge (g lo hi : Nat)
  /-- `JOIN_DEADLINE` (R164). -/
  | joinDeadline (g st : Nat)
  /-- `SWITCH_HOLD_BREAK` (R91). -/
  | switchHoldBreak (cl q : Nat)
  /-- `FUSE_WAIT_TIMEOUT` (R99). -/
  | fuseWaitTimeout (g : Nat)
  /- Events of the memory system. -/
  /-- `LOAD_WRITEBACK` (R207). -/
  | loadWriteback (op : Nat)
  /-- `STORE_ACK` (R209). -/
  | storeAck (op : Nat)
  /-- `ATOMIC_STEP` (R212). -/
  | atomicStep (op addr : Nat)
  /-- `ATOMIC_RETURN` (R214). -/
  | atomicReturn (op : Nat)
  /-- `PAGE_WALK_COMPLETE` (R313). -/
  | pageWalkComplete (walk : Nat)
  /-- `SECTOR_FILL_ARRIVAL` (R191). -/
  | sectorFillArrival (req : Nat)
  /-- `L2_FILL_ARRIVAL` (R194). -/
  | l2FillArrival (req : Nat)
  /-- `L1_WRITEBACK_ARRIVAL` (R193). -/
  | l1WritebackArrival (req : Nat)
  /-- `DIRECTORY_INVALIDATION` (R193). -/
  | directoryInvalidation (req : Nat)
  /-- `INVALIDATION_ACK` (R307). -/
  | invalidationAck (req : Nat)
  /-- `REMOTE_EVICTION_NOTICE` (R307). -/
  | remoteEvictionNotice (die line : Nat)
  /-- `WRITE_ACK_RECEIPT` (R404). -/
  | writeAckReceipt (req : Nat)
  /-- `FENCE_COMPLETE` (R222). -/
  | fenceComplete (g : Nat)
  /-- `TXE_COMMIT` (R218). -/
  | txeCommit (op : Nat)
  /-- `PIN_RESULT` (R224). -/
  | pinResult (op : Nat)
  /-- `CFETCH_LANDING` (R171). -/
  | cfetchLanding (op : Nat)
  /- Events of the engines. -/
  /-- `ENGINE_QUEUE_ADMIT` (R226). -/
  | engineQueueAdmit (op : Nat)
  /-- `COPY_CHUNK_LANDING` (R227). -/
  | copyChunkLanding (op : Nat)
  /-- `GATHER_ELEMENT_LANDING` (R228). -/
  | gatherElementLanding (op : Nat)
  /-- `COLL_CHUNK` (R270). -/
  | collChunk (op : Nat) (late : List Nat) (peers : List (List Byte))
  /-- `MSEND_DELIVERY` (R264). -/
  | msendDelivery (op team : Nat)
  /-- `MSEND_RETRY` (R264). -/
  | msendRetry (op team : Nat)
  /-- `MMA_RENDEZVOUS_OPEN` (R150). -/
  | mmaRendezvousOpen (r : Nat)
  /-- `MMA_RESULT_WRITE` (R151). -/
  | mmaResultWrite (op : Nat)
  /-- `MMA_ABSENT_TIMEOUT` (R149). -/
  | mmaAbsentTimeout (r : Nat)
  /- Events of the monitors and the barriers. -/
  /-- `WAITU_WAKE` (R295). -/
  | waituWake (e : Nat)
  /-- `WAITU_TIMEOUT` (R293). -/
  | waituTimeout (e : Nat)
  /-- `SPILL_WALK` (R298). -/
  | spillWalk (slice : Nat)
  /-- `SCRATCHPAD_MONITOR_WAKE` (R304). -/
  | scratchpadMonitorWake (g : Nat)
  /-- `SCRATCHPAD_MONITOR_EXPIRY` (R304). -/
  | scratchpadMonitorExpiry (g : Nat)
  /-- `BARRIER_ABANDON_MARK` (R401). -/
  | barrierAbandonMark (team : Nat)
  /-- `LAUNCH_POLICY_APPLY` (R355). -/
  | launchPolicyApply (launch : Nat)
  /- Events of the fabric. -/
  /-- `FABRIC_PROMOTION` (R372). -/
  | fabricPromotion (req : Nat)
  /-- `WRITEBACK_FLIT_OFFER` (R374). -/
  | writebackFlitOffer (req : Nat)
  /- Command packets and the life of a quotation. -/
  /-- `QUEUE_PACKET_TAKE` (R253). -/
  | queuePacketTake (q : Nat)
  /-- `QUOTE` (R323). -/
  | quote (pk : Nat)
  /-- `ACCEPT` (R330). -/
  | accept (pk : Nat)
  /-- `DECLINE` (R330). -/
  | decline (pk : Nat)
  /-- `LAUNCH_PACKET` (R254). -/
  | launchPacket (pk : Nat)
  /-- `WAIT_PACKET` (R255). -/
  | waitPacket (pk : Nat)
  /-- `WAIT_PACKET_SATISFIED` (R255). -/
  | waitPacketSatisfied (pk : Nat)
  /-- `WAIT_PAGE_TIMEOUT` (R288). -/
  | waitPageTimeout (pk : Nat)
  /-- `SIGNAL_PACKET` (R255). -/
  | signalPacket (pk : Nat)
  /-- `COPY_PACKET` (R255). -/
  | copyPacket (pk : Nat)
  /-- `TIMESTAMP_PACKET` (R255). -/
  | timestampPacket (pk : Nat)
  /-- `CHECKPOINT_PACKET` (R357). -/
  | checkpointPacket (pk : Nat)
  /-- `ROLLBACK_PACKET` (R361). -/
  | rollbackPacket (pk : Nat)
  /-- `QUOTATION_EXPIRY` (R20). -/
  | quotationExpiry (qi : Nat)
  /-- `ACCEPTED_VALIDITY_EXPIRY` (R330). -/
  | acceptedValidityExpiry (qi : Nat)
  /-- `QUEUE_SLOT_SWAP` (R273). -/
  | queueSlotSwap (q : Nat) (slot : Option Nat)
  /- Placement, saving and the end of a launch. -/
  /-- `COHORT_PLACEMENT` (R275). -/
  | cohortPlacement (launch : Nat)
  /-- `CHILD_PLACEMENT` (R393). -/
  | childPlacement (team : Nat)
  /-- `CHILD_COMPLETION` (R260). -/
  | childCompletion (launch : Nat)
  /-- `LAUNCH_COMPLETION` (R257). -/
  | launchCompletion (launch : Nat)
  /-- `PREEMPTION_DECISION` (R283). -/
  | preemptionDecision (launch : Nat)
  /-- `DRAIN_WATCHDOG` (R284). -/
  | drainWatchdog (team : Nat)
  /-- `TEAM_SAVE` (R284). -/
  | teamSave (team : Nat)
  /-- `TEAM_RESTORE` (R282). -/
  | teamRestore (team : Nat)
  /- Power, counters and privileged registers of a cluster. -/
  /-- `LEVEL_CHANGE_COMPLETE` (R377). -/
  | levelChangeComplete (cl : Nat)
  /-- `PRIMER_WINDOW` (R378). -/
  | primerWindow (cl : Nat)
  /-- `DUTY_WINDOW_SLIDE` (R348). -/
  | dutyWindowSlide (cl : Nat)
  /-- `ENERGY_METER_FOLD` (R346). -/
  | energyMeterFold (cl : Nat)
  /-- `TMAX_CHECK` (R347). -/
  | tmaxCheck (launch : Nat)
  /- Checkpoints, pairs and errors. -/
  /-- `CKI_EXPIRY` (R357). -/
  | ckiExpiry (launch : Nat)
  /-- `INTERVAL_CLOSE` (R360). -/
  | intervalClose
  /-- `PAIR_COMPARISON` (R366). -/
  | pairComparison (g : Nat)
  /- Bring-up, reset and management requests. -/
  /-- `CREATEQ` (R252). -/
  | createq (die : Nat)
  /-- `DESTROYQ` (R389). -/
  | destroyq (die : Nat)
  /-- `SETCAP` (R22). -/
  | setcap (die : Nat)
  /-- `SETREGIONS` (R389). -/
  | setregions (die : Nat)
  /-- `UNDERCOAT` (R362). -/
  | undercoat (die : Nat)
  /-- `FWUPDATE` (R390). -/
  | fwupdate (die : Nat)
  /-- `ATTEST` (R390). -/
  | attest (die : Nat)
  /-- `SETFILTER` (R386). -/
  | setfilter (die : Nat)
  /-- `MAILBOX_BADREQ` (R389). -/
  | mailboxBadreq (die : Nat)
  /-- `SCRUB` (R287). -/
  | scrub (unit : Nat)
  /-- `UNDERCOAT_DONE` (R362). -/
  | undercoatDone
  /-- `TRANSLATION_EVENT_SERVED` (R288). -/
  | translationEventServed (pk : Nat) (mapped : Bool)
  /-- `WRITE_TO_MEMORY_COMPLETE` (R222). -/
  | writeToMemoryComplete (req : Nat)
  /- What only the outside brings. -/
  /-- `HOST_WRITE` (R249). -/
  | hostWrite (pa : Nat) (bytes : List Byte)
  /-- `HOST_READ` (R249). -/
  | hostRead (pa n : Nat)
  /-- `INGRESS_FRAME` (R272). -/
  | ingressFrame (die port : Nat) (mac : BitVec 48) (ethertype udp : BitVec 16) (frame : List Byte)
  /-- `ETHERNET_EGRESS` (R249). -/
  | ethernetEgress (port pa n : Nat)
  /-- `PTP_MESSAGE` (R387). -/
  | ptpMessage (port : Nat) (offset : Int)
  /-- `SYNC_LOCK_CHANGE` (R387). -/
  | syncLockChange (locked : Bool)
  /-- `NO_MASTER_HEARD` (R387). -/
  | noMasterHeard
  /-- `EVENT_MESSAGE_TRANSMISSION` (R387). -/
  | eventMessageTransmission (port : Nat)
  /-- `FUNCTION_READY` (R384). -/
  | functionReady (die bit : Nat)
  /-- `FUNCTION_RESET` (R384). -/
  | functionReset (die bit : Nat)
  /-- `POWER_ON_RESET` (R9). -/
  | powerOnReset
  /-- `DEVICE_RESET` (R390). -/
  | deviceReset
  /-- `ECC_UNCORRECTABLE` (R353). -/
  | eccUncorrectable (pa : Nat)
  /-- `DROOP_DETECT` (R380). -/
  | droopDetect (cl : Nat)
  /-- `DROOP_RECOVERY` (R380). -/
  | droopRecovery (cl ns : Nat)
  /-- `THERMAL_EVENT` (R24). -/
  | thermalEvent (cl lvl : Nat)
  /-- `POWER_CAP_REACHED` (R23). -/
  | powerCapReached (draw : Nat)
  /-- `DUTY_CLEAR` (R348). -/
  | dutyClear (cl : Nat) (v : Word)
  /-- `SRAMSPLIT_WRITE` (R186). -/
  | sramsplitWrite (cl : Nat) (v : Word)
  /-- `INJ_WRITE` (R400). -/
  | injWrite (cl : Nat) (v : Word)
  /-- `RESERVATION_REVOKED` (R332). -/
  | reservationRevoked (die qi : Nat)
  /-- `UNDERCOAT_RESTORE` (R362). -/
  | undercoatRestore
  deriving DecidableEq, Repr

end Sys2Proof
end

