-- ==== Sys2Proof/WellFormed.lean ====
section
/-! DEFINITION. Which words are instructions: the conditions of 03 Table 3-8 that a word shows by itself. The conditions that
need the state (a register outside the declared space, a role, a mode) are checked at issue, in Machine/Operands.lean. -/

namespace Sys2Proof

/-- Why a word is no instruction. Each of them raises ILLEGAL (R60). -/
inductive WordError where
  /-- A primary opcode that is not assigned, or opcode 0 with another bit set (R36, R58). -/
  | opcode
  /-- A secondary of format X that is not assigned (R59). -/
  | secondary
  /-- A bit that must be zero is set, W on a word that is no register word among them (R41, R49). -/
  | reservedBit
  /-- A code or an immediate outside the range the entry allows (Tables 3-3 to 3-6a). -/
  | code
  /-- A register number that is odd where a pair is meant, or out of its range (R51). -/
  | register
  /-- A latch field with a bit set in [6:3], or a latch where the entry allows none (R50). -/
  | latchField
  deriving DecidableEq, Repr

namespace WordError

/-- The error, unless the condition holds. -/
def need (e : WordError) (c : Bool) : Option WordError := if c then none else some e

end WordError

namespace Field

/-- A coded field is within its table. -/
def coded (c : Bool) : Option WordError := WordError.need .code c
/-- A register number is within its range. -/
def register (c : Bool) : Option WordError := WordError.need .register c
/-- A register number is even (R51). -/
def evenReg (d : BitVec 7) : Option WordError := register (d.toNat % 2 == 0)
/-- An 8-bit field names a register and no latch. -/
def plainReg (a : BitVec 8) : Option WordError := WordError.need .latchField (a.toNat < 128)
/-- A latch field has bits [6:3] zero (R50). -/
def latchOk (a : BitVec 8) : Bool := a.toNat < 128 || a.toNat < 136
/-- A lane source of 32 bits (R50). -/
def vField (a : BitVec 8) : Option WordError := WordError.need .latchField (latchOk a)
/-- A lane source of 64 bits: an even pair or a latch (R51). -/
def vPair (a : BitVec 8) : Option WordError :=
  (vField a).or (register (128 ≤ a.toNat || a.toNat % 2 == 0))
/-- A group-wide source of 32 bits (R50). Which latch it names is checked at issue. -/
def gField (a : BitVec 8) : Option WordError := vField a
/-- A group-wide source of 64 bits. -/
def gPair (a : BitVec 8) : Option WordError := vPair a
/-- A pair of G registers named by an even field below 127, no latch. -/
def gPairReg (a : BitVec 8) : Option WordError := (plainReg a).or (register (a.toNat % 2 == 0))
/-- Alignment of D in format M (Table 3-3). -/
def accessReg (sz : BitVec 2) (d : BitVec 7) : Option WordError :=
  register (if sz == 0 then true else if sz == 2 then d.toNat % 4 == 0 else d.toNat % 2 == 0)
/-- AOP and SZ of format A (Table 3-4). -/
def atomCode (aop : BitVec 4) (sz : Bool) : Bool := aop.toNat ≤ 9 || (aop.toNat ≤ 12 && !sz)
/-- Alignment of D in format A (Table 3-4). -/
def atomReg (aop : BitVec 4) (sz : Bool) (d : BitVec 7) : Option WordError :=
  register (if aop == 9 then (if sz then d.toNat % 4 == 0 else d.toNat % 2 == 0)
    else !sz || d.toNat % 2 == 0)

end Field

open Field in
/-- The first condition of Table 3-8 that the instruction breaks by its fields alone, if any. Events have no fields to check. -/
def Instr.check : Instr → Option WordError
  | .nop => none
  | .bra _ => none
  | .bany _ _ => none
  | .ball _ _ => none
  | .bnone _ _ => none
  | .bdiv _ jb _ => coded (jb != 0)
  | .join _ => none
  | .call _ => none
  | .ret => none
  | .loop _ disp => coded (disp == 0 || disp.msb)
  | .jmpf slot _ _ => coded (slot.toNat < 64)
  | .cfetch slot a => (coded (slot.toNat < 64)).or (gPairReg a)
  | .trap _ => none
  | .exit => none
  | .eret => none
  | .mov _ _ a => vField a
  | .movi _ _ _ => none
  | .movhi _ _ _ => none
  | .iadd _ _ a b => (vField a).or (vField b)
  | .iaddi _ _ a _ => vField a
  | .isub _ _ a b => (vField a).or (vField b)
  | .imul _ _ a b => (vField a).or (vField b)
  | .imulh _ _ a b => (vField a).or (vField b)
  | .imulhu _ _ a b => (vField a).or (vField b)
  | .imad _ _ a b => (vField a).or (vField b)
  | .iadd64 _ d a b => ((evenReg d).or (vPair a)).or (vPair b)
  | .lea _ d a b => ((evenReg d).or (vPair a)).or (vField b)
  | .and _ _ a b => (vField a).or (vField b)
  | .or _ _ a b => (vField a).or (vField b)
  | .xor _ _ a b => (vField a).or (vField b)
  | .andn _ _ a b => (vField a).or (vField b)
  | .shl _ _ a b => (vField a).or (vField b)
  | .shr _ _ a b => (vField a).or (vField b)
  | .sar _ _ a b => (vField a).or (vField b)
  | .shli _ _ a imm => (vField a).or (coded (imm.toNat < 32))
  | .shri _ _ a imm => (vField a).or (coded (imm.toNat < 32))
  | .sari _ _ a imm => (vField a).or (coded (imm.toNat < 32))
  | .imin _ _ a b => (vField a).or (vField b)
  | .imax _ _ a b => (vField a).or (vField b)
  | .umin _ _ a b => (vField a).or (vField b)
  | .umax _ _ a b => (vField a).or (vField b)
  | .iabs _ _ a => vField a
  | .bfe _ _ a b => (vField a).or (vField b)
  | .fadd _ _ a b => (vField a).or (vField b)
  | .fsub _ _ a b => (vField a).or (vField b)
  | .fmul _ _ a b => (vField a).or (vField b)
  | .ffma _ _ a b => (vField a).or (vField b)
  | .fmin _ _ a b => (vField a).or (vField b)
  | .fmax _ _ a b => (vField a).or (vField b)
  | .hadd2 _ _ a b => (vField a).or (vField b)
  | .hmul2 _ _ a b => (vField a).or (vField b)
  | .hfma2 _ _ a b => (vField a).or (vField b)
  | .badd2 _ _ a b => (vField a).or (vField b)
  | .bmul2 _ _ a b => (vField a).or (vField b)
  | .bfma2 _ _ a b => (vField a).or (vField b)
  | .frcp _ _ a => vField a
  | .frsq _ _ a => vField a
  | .fexp2 _ _ a => vField a
  | .flog2 _ _ a => vField a
  | .cvt _ _ a imm => ((vField a).or (coded (imm.toNat / 16 % 8 ≤ 4))).or (coded (imm.toNat < 128 || imm.toNat % 16 == 4 || imm.toNat % 16 == 6))
  | .fscale _ _ a b => (vField a).or (vField b)
  | .qscale _ _ a b => (vField a).or (vField b)
  | .frnd _ _ a imm => (vField a).or (coded (imm.toNat ≤ 4))
  | .icmp cond _ a b => ((vField a).or (vField b)).or (coded (cond.toNat ≤ 5))
  | .ucmp cond _ a b => ((vField a).or (vField b)).or (coded (cond.toNat ≤ 5))
  | .fcmp cond _ a b => ((vField a).or (vField b)).or (coded (cond.toNat ≤ 13))
  | .plop _ _ _ _ => none
  | .sel _ _ a b => (vField a).or (vField b)
  | .vote _ d _ mode => register (mode != 0 || d.toNat % 2 == 0)
  | .mset a mode => (coded (mode.toNat ≤ 2)).or (coded (mode != 2 || a == 0))
  | .pmovGet _ => none
  | .pmovPut a => vField a
  | .dot8w _ _ a b => (vField a).or (vField b)
  | .dot8i _ _ a b => (vField a).or (vField b)
  | .dot4w _ _ a b => (vField a).or (vField b)
  | .dot4i _ _ a b => (vField a).or (vField b)
  | .shfl _ _ a b => (vField a).or (vField b)
  | .shflx _ _ a imm => (vField a).or (coded (imm.toNat < 192))
  | .qxch _ _ a imm => (vField a).or (coded (imm.toNat ≤ 6))
  | .lred _ _ a imm => ((vField a).or (coded (imm.toNat < 48))).or (coded (imm.toNat % 16 ≤ 10))
  | .split _ f => coded (f == 2 || f == 4 || f == 8 || f == 16)
  | .fuse _ => none
  | .region _ => none
  | .rdid _ _ sl => coded (sl.toNat ≤ 10)
  | .mrd _ d a b => ((evenReg d).or (coded (b.toNat ≤ 3))).or (coded (if b == 3 then a.toNat < 8 else a == 0))
  | .strd _ _ => none
  | .gmov _ _ a => gField a
  | .gmovi _ _ _ => none
  | .gmovhi _ _ _ => none
  | .gadd _ _ a b => (gField a).or (gField b)
  | .gaddi _ _ a _ => gField a
  | .gsub _ _ a b => (gField a).or (gField b)
  | .gmul _ _ a b => (gField a).or (gField b)
  | .gand _ _ a b => (gField a).or (gField b)
  | .gor _ _ a b => (gField a).or (gField b)
  | .gxor _ _ a b => (gField a).or (gField b)
  | .gshift _ _ a b => (gField a).or (gField b)
  | .gcmp cond _ a b => ((gField a).or (gField b)).or (coded (cond.toNat ≤ 9))
  | .gminmax _ d a b => ((evenReg d).or (gField a)).or (gField b)
  | .gadd64 _ d a b => ((evenReg d).or (gPair a)).or (gPair b)
  | .gbcast _ _ a b => (plainReg a).or (gField b)
  | .vbcast _ _ a => gField a
  | .ldg sz d a _ => (accessReg sz d).or (evenReg a)
  | .stg sz d a _ => ((coded (sz != 3)).or (accessReg sz d)).or (evenReg a)
  | .lds sz d _ _ => accessReg sz d
  | .sts sz d _ _ => (coded (sz != 3)).or (accessReg sz d)
  | .ldv sz d a _ => (accessReg sz d).or (evenReg a)
  | .stv sz d a _ => ((coded (sz != 3)).or (accessReg sz d)).or (evenReg a)
  | .atomg aop sz d a _ => ((coded (atomCode aop sz)).or (atomReg aop sz d)).or (evenReg a)
  | .atoms aop sz d _ _ => (coded (atomCode aop sz)).or (atomReg aop sz d)
  | .atomv aop sz d a _ => ((coded (atomCode aop sz)).or (atomReg aop sz d)).or (evenReg a)
  | .txb _ n => coded (n != 0)
  | .txe _ => none
  | .txa _ => none
  | .fence scope kind paths => ((coded (scope.toNat ≤ 4)).or (coded (kind != 0))).or (coded (paths != 0))
  | .tfence scope => coded (scope.toNat ≤ 4)
  | .waitu _ sp _ d a => ((coded (sp != 3)).or (register (a.toNat % 2 == 0 && a.toNat ≤ 122))).or (register (d.toNat ≤ 126))
  | .waitc path a => (coded (path.toNat ≤ 8)).or (gField a)
  | .mma g a _ _ => ((register (g.toNat ≤ 123)).or (plainReg a)).or (register (a.toNat < 32))
  | .copy g _ _ dsp ssp => ((register (g.toNat ≤ 114)).or (coded (dsp != 3))).or (coded (ssp != 3))
  | .gather g a _ _ _ _ => (register (g.toNat ≤ 123)).or (vField a)
  | .coll g _ => register (g.toNat ≤ 120)
  | .launch g => register (g.toNat ≤ 116)
  | .msend g _ => register (g.toNat ≤ 124)
  | .popc _ _ a => vField a
  | .clz _ _ a => vField a
  | .brev _ _ a => vField a
  | .bfi _ _ a => (vField a).or (register (a.toNat % 2 == 0))
  | .yield => none
  | .setpl _ a => gField a
  | .rdclk d => evenReg d
  | .rdsync d => evenReg d
  | .rdprog d => evenReg d
  | .rdnrg d => evenReg d
  | .ckpt _ => none
  | .view v a => (coded (v.toNat ≤ 2)).or (gField a)
  | .sfmt _ a => gPair a
  | .gang _ a => gPair a
  | .pin _ a => gPairReg a
  | .unpin _ a => gPairReg a
  | .msr _ a => gField a
  | .mrs _ a => gField a
  | .bari a => (plainReg a).or (register (a.toNat ≤ 125))
  | .bara _ a => (plainReg a).or (register (a.toNat ≤ 126))
  | .barx a => (plainReg a).or (register (a.toNat ≤ 126))
  | .barw d a => ((plainReg a).or (register (a.toNat ≤ 125))).or (register (d.toNat ≤ 126))
  | .stagea d a => ((plainReg a).or (register (a.toNat ≤ 125))).or (evenReg d)
  | .stager a => (plainReg a).or (register (a.toNat ≤ 125))
  | .ringadv k a => (plainReg a).or (coded (k != 0))
  | .lqrd d => evenReg d
  | .l1wb a => gPairReg a
  | .l1inv a => gPairReg a
  | .groupEnd _ => none
  | .strandMerge _ _ _ => none
  | .joinDeadline _ _ => none
  | .switchHoldBreak _ _ => none
  | .fuseWaitTimeout _ => none
  | .loadWriteback _ => none
  | .storeAck _ => none
  | .atomicStep _ _ => none
  | .atomicReturn _ => none
  | .pageWalkComplete _ => none
  | .sectorFillArrival _ => none
  | .l2FillArrival _ => none
  | .l1WritebackArrival _ => none
  | .directoryInvalidation _ => none
  | .invalidationAck _ => none
  | .remoteEvictionNotice _ _ => none
  | .writeAckReceipt _ => none
  | .fenceComplete _ => none
  | .txeCommit _ => none
  | .pinResult _ => none
  | .cfetchLanding _ => none
  | .engineQueueAdmit _ => none
  | .copyChunkLanding _ => none
  | .gatherElementLanding _ => none
  | .collChunk _ _ _ => none
  | .msendDelivery _ _ => none
  | .msendRetry _ _ => none
  | .mmaRendezvousOpen _ => none
  | .mmaResultWrite _ => none
  | .mmaAbsentTimeout _ => none
  | .waituWake _ => none
  | .waituTimeout _ => none
  | .spillWalk _ => none
  | .scratchpadMonitorWake _ => none
  | .scratchpadMonitorExpiry _ => none
  | .barrierAbandonMark _ => none
  | .launchPolicyApply _ => none
  | .fabricPromotion _ => none
  | .writebackFlitOffer _ => none
  | .queuePacketTake _ => none
  | .quote _ => none
  | .accept _ => none
  | .decline _ => none
  | .launchPacket _ => none
  | .waitPacket _ => none
  | .waitPacketSatisfied _ => none
  | .waitPageTimeout _ => none
  | .signalPacket _ => none
  | .copyPacket _ => none
  | .timestampPacket _ => none
  | .checkpointPacket _ => none
  | .rollbackPacket _ => none
  | .quotationExpiry _ => none
  | .acceptedValidityExpiry _ => none
  | .queueSlotSwap _ _ => none
  | .cohortPlacement _ => none
  | .childPlacement _ => none
  | .childCompletion _ => none
  | .launchCompletion _ => none
  | .preemptionDecision _ => none
  | .drainWatchdog _ => none
  | .teamSave _ => none
  | .teamRestore _ => none
  | .powerCapReached _ => none
  | .levelChangeComplete _ => none
  | .primerWindow _ => none
  | .droopDetect _ => none
  | .droopRecovery _ _ => none
  | .thermalEvent _ _ => none
  | .dutyWindowSlide _ => none
  | .dutyClear _ _ => none
  | .sramsplitWrite _ _ => none
  | .injWrite _ _ => none
  | .energyMeterFold _ => none
  | .tmaxCheck _ => none
  | .ckiExpiry _ => none
  | .intervalClose => none
  | .pairComparison _ => none
  | .eccUncorrectable _ => none
  | .hostWrite _ _ => none
  | .hostRead _ _ => none
  | .ingressFrame _ _ _ _ _ _ => none
  | .ptpMessage _ _ => none
  | .syncLockChange _ => none
  | .noMasterHeard => none
  | .eventMessageTransmission _ => none
  | .ethernetEgress _ _ _ => none
  | .functionReady _ _ => none
  | .functionReset _ _ => none
  | .powerOnReset => none
  | .deviceReset => none
  | .createq _ => none
  | .destroyq _ => none
  | .setcap _ => none
  | .setregions _ => none
  | .undercoat _ => none
  | .fwupdate _ => none
  | .attest _ => none
  | .setfilter _ => none
  | .mailboxBadreq _ => none
  | .scrub _ => none
  | .undercoatDone => none
  | .undercoatRestore => none
  | .reservationRevoked _ _ => none
  | .translationEventServed _ _ => none
  | .writeToMemoryComplete _ => none

/-- The instruction breaks no condition of Table 3-8 by its fields. -/
abbrev Instr.WellFormed (i : Instr) : Prop := i.check = none

end Sys2Proof
end

