-- ==== Sys2Proof/Decode.lean ====
section
/-! DEFINITION. The decoder of instruction words, total on all 2^32 words and refusing by name, and after it the encoder. Both are
written from the layouts of 03 Table 3-2 and the opcodes of Tables 3-6 and 3-7. -/

namespace Sys2Proof

/-- The field of width k whose lowest bit is bit lo of the word. -/
def fld (k n lo : Nat) : BitVec k := BitVec.ofNat k (n / 2 ^ lo)

/-- Bit lo of the word. -/
def bit (n lo : Nat) : Bool := n / 2 ^ lo % 2 == 1

/-- The instruction, unless a bit that must be zero is set (R49). -/
def zero (c : Bool) (i : Instr) : Except WordError Instr := if c then .ok i else .error .reservedBit

/-- The words of opcode 0x7F, by their secondary (Table 3-7). -/
def decodeSecondary (n : Nat) : Except WordError Instr :=
  match n % 256 with
  | 0x01 => .ok (.popc (bit n 23) (fld 7 n 16) (fld 8 n 8))
  | 0x02 => .ok (.clz (bit n 23) (fld 7 n 16) (fld 8 n 8))
  | 0x03 => .ok (.brev (bit n 23) (fld 7 n 16) (fld 8 n 8))
  | 0x04 => .ok (.bfi (bit n 23) (fld 7 n 16) (fld 8 n 8))
  | 0x10 => zero (n / 2 ^ 8 % 65536 == 0) (.yield)
  | 0x11 => zero (n / 2 ^ 23 % 2 == 0) (.setpl (fld 7 n 16) (fld 8 n 8))
  | 0x12 => zero (n / 2 ^ 8 % 256 == 0 && n / 2 ^ 23 % 2 == 0) (.rdclk (fld 7 n 16))
  | 0x13 => zero (n / 2 ^ 8 % 256 == 0 && n / 2 ^ 23 % 2 == 0) (.rdsync (fld 7 n 16))
  | 0x14 => zero (n / 2 ^ 8 % 256 == 0 && n / 2 ^ 23 % 2 == 0) (.rdprog (fld 7 n 16))
  | 0x15 => zero (n / 2 ^ 8 % 256 == 0 && n / 2 ^ 23 % 2 == 0) (.rdnrg (fld 7 n 16))
  | 0x16 => zero (n / 2 ^ 8 % 256 == 0 && n / 2 ^ 23 % 2 == 0) (.ckpt (fld 7 n 16))
  | 0x17 => zero (n / 2 ^ 23 % 2 == 0) (.view (fld 7 n 16) (fld 8 n 8))
  | 0x18 => zero (n / 2 ^ 19 % 32 == 0) (.sfmt (fld 3 n 16) (fld 8 n 8))
  | 0x19 => zero (n / 2 ^ 23 % 2 == 0) (.gang (fld 7 n 16) (fld 8 n 8))
  | 0x1A => zero (n / 2 ^ 23 % 2 == 0) (.pin (fld 7 n 16) (fld 8 n 8))
  | 0x1B => zero (n / 2 ^ 23 % 2 == 0) (.unpin (fld 7 n 16) (fld 8 n 8))
  | 0x1C => zero (n / 2 ^ 23 % 2 == 0) (.msr (fld 7 n 16) (fld 8 n 8))
  | 0x1D => zero (n / 2 ^ 23 % 2 == 0) (.mrs (fld 7 n 16) (fld 8 n 8))
  | 0x20 => zero (n / 2 ^ 16 % 256 == 0) (.bari (fld 8 n 8))
  | 0x21 => zero (n / 2 ^ 23 % 2 == 0) (.bara (fld 7 n 16) (fld 8 n 8))
  | 0x22 => zero (n / 2 ^ 16 % 256 == 0) (.barx (fld 8 n 8))
  | 0x23 => zero (n / 2 ^ 23 % 2 == 0) (.barw (fld 7 n 16) (fld 8 n 8))
  | 0x24 => zero (n / 2 ^ 23 % 2 == 0) (.stagea (fld 7 n 16) (fld 8 n 8))
  | 0x25 => zero (n / 2 ^ 16 % 256 == 0) (.stager (fld 8 n 8))
  | 0x26 => zero (n / 2 ^ 23 % 2 == 0) (.ringadv (fld 7 n 16) (fld 8 n 8))
  | 0x27 => zero (n / 2 ^ 8 % 256 == 0 && n / 2 ^ 23 % 2 == 0) (.lqrd (fld 7 n 16))
  | 0x30 => zero (n / 2 ^ 16 % 256 == 0) (.l1wb (fld 8 n 8))
  | 0x31 => zero (n / 2 ^ 16 % 256 == 0) (.l1inv (fld 8 n 8))
  | _ => .error .secondary

/-- The words of opcode 0x47, by their B field (R127). -/
def decodePmov (n : Nat) : Except WordError Instr :=
  match n % 256 with
  | 0 => zero (n / 2 ^ 8 % 256 == 0 && n / 2 ^ 23 % 2 == 0) (.pmovGet (fld 7 n 16))
  | 1 => zero (n / 2 ^ 16 % 256 == 0) (.pmovPut (fld 8 n 8))
  | _ => .error .code

/-- Control, integer and float words: opcodes 0x00 to 0x3F (Table 3-6). -/
def decodeLow (op n : Nat) : Except WordError Instr :=
  match op with
  | 0x00 => if n == 0 then .ok .nop else .error .opcode
  | 0x01 => zero (n / 2 ^ 16 % 256 == 0) (.bra (fld 16 n 0))
  | 0x02 => zero (n / 2 ^ 16 % 32 == 0) (.bany (fld 3 n 21) (fld 16 n 0))
  | 0x03 => zero (n / 2 ^ 16 % 32 == 0) (.ball (fld 3 n 21) (fld 16 n 0))
  | 0x04 => zero (n / 2 ^ 16 % 32 == 0) (.bnone (fld 3 n 21) (fld 16 n 0))
  | 0x05 => .ok (.bdiv (fld 3 n 21) (fld 5 n 16) (fld 16 n 0))
  | 0x06 => zero (n / 2 ^ 16 % 256 == 0) (.join (fld 16 n 0))
  | 0x07 => zero (n / 2 ^ 16 % 256 == 0) (.call (fld 16 n 0))
  | 0x08 => zero (n % 16777216 == 0) (.ret)
  | 0x09 => zero (n / 2 ^ 23 % 2 == 0) (.loop (fld 7 n 16) (fld 16 n 0))
  | 0x0A => zero (n / 2 ^ 5 % 8 == 0 && n / 2 ^ 23 % 2 == 0) (.jmpf (fld 7 n 16) (fld 8 n 8) (fld 5 n 0))
  | 0x0B => zero (n % 256 == 0 && n / 2 ^ 23 % 2 == 0) (.cfetch (fld 7 n 16) (fld 8 n 8))
  | 0x0C => zero (n / 2 ^ 16 % 256 == 0) (.trap (fld 16 n 0))
  | 0x0D => zero (n % 16777216 == 0) (.exit)
  | 0x0E => zero (n % 16777216 == 0) (.eret)
  | 0x10 => zero (n % 256 == 0) (.mov (bit n 23) (fld 7 n 16) (fld 8 n 8))
  | 0x11 => .ok (.movi (bit n 23) (fld 7 n 16) (fld 16 n 0))
  | 0x12 => .ok (.movhi (bit n 23) (fld 7 n 16) (fld 16 n 0))
  | 0x13 => .ok (.iadd (bit n 23) (fld 7 n 16) (fld 8 n 8) (fld 8 n 0))
  | 0x14 => .ok (.iaddi (bit n 23) (fld 7 n 16) (fld 8 n 8) (fld 8 n 0))
  | 0x15 => .ok (.isub (bit n 23) (fld 7 n 16) (fld 8 n 8) (fld 8 n 0))
  | 0x16 => .ok (.imul (bit n 23) (fld 7 n 16) (fld 8 n 8) (fld 8 n 0))
  | 0x17 => .ok (.imulh (bit n 23) (fld 7 n 16) (fld 8 n 8) (fld 8 n 0))
  | 0x18 => .ok (.imulhu (bit n 23) (fld 7 n 16) (fld 8 n 8) (fld 8 n 0))
  | 0x19 => .ok (.imad (bit n 23) (fld 7 n 16) (fld 8 n 8) (fld 8 n 0))
  | 0x1A => .ok (.iadd64 (bit n 23) (fld 7 n 16) (fld 8 n 8) (fld 8 n 0))
  | 0x1B => .ok (.lea (bit n 23) (fld 7 n 16) (fld 8 n 8) (fld 8 n 0))
  | 0x1C => .ok (.and (bit n 23) (fld 7 n 16) (fld 8 n 8) (fld 8 n 0))
  | 0x1D => .ok (.or (bit n 23) (fld 7 n 16) (fld 8 n 8) (fld 8 n 0))
  | 0x1E => .ok (.xor (bit n 23) (fld 7 n 16) (fld 8 n 8) (fld 8 n 0))
  | 0x1F => .ok (.andn (bit n 23) (fld 7 n 16) (fld 8 n 8) (fld 8 n 0))
  | 0x20 => .ok (.shl (bit n 23) (fld 7 n 16) (fld 8 n 8) (fld 8 n 0))
  | 0x21 => .ok (.shr (bit n 23) (fld 7 n 16) (fld 8 n 8) (fld 8 n 0))
  | 0x22 => .ok (.sar (bit n 23) (fld 7 n 16) (fld 8 n 8) (fld 8 n 0))
  | 0x23 => .ok (.shli (bit n 23) (fld 7 n 16) (fld 8 n 8) (fld 8 n 0))
  | 0x24 => .ok (.shri (bit n 23) (fld 7 n 16) (fld 8 n 8) (fld 8 n 0))
  | 0x25 => .ok (.sari (bit n 23) (fld 7 n 16) (fld 8 n 8) (fld 8 n 0))
  | 0x26 => .ok (.imin (bit n 23) (fld 7 n 16) (fld 8 n 8) (fld 8 n 0))
  | 0x27 => .ok (.imax (bit n 23) (fld 7 n 16) (fld 8 n 8) (fld 8 n 0))
  | 0x28 => .ok (.umin (bit n 23) (fld 7 n 16) (fld 8 n 8) (fld 8 n 0))
  | 0x29 => .ok (.umax (bit n 23) (fld 7 n 16) (fld 8 n 8) (fld 8 n 0))
  | 0x2A => zero (n % 256 == 0) (.iabs (bit n 23) (fld 7 n 16) (fld 8 n 8))
  | 0x2B => .ok (.bfe (bit n 23) (fld 7 n 16) (fld 8 n 8) (fld 8 n 0))
  | 0x2C => .ok (.fadd (bit n 23) (fld 7 n 16) (fld 8 n 8) (fld 8 n 0))
  | 0x2D => .ok (.fsub (bit n 23) (fld 7 n 16) (fld 8 n 8) (fld 8 n 0))
  | 0x2E => .ok (.fmul (bit n 23) (fld 7 n 16) (fld 8 n 8) (fld 8 n 0))
  | 0x2F => .ok (.ffma (bit n 23) (fld 7 n 16) (fld 8 n 8) (fld 8 n 0))
  | 0x30 => .ok (.fmin (bit n 23) (fld 7 n 16) (fld 8 n 8) (fld 8 n 0))
  | 0x31 => .ok (.fmax (bit n 23) (fld 7 n 16) (fld 8 n 8) (fld 8 n 0))
  | 0x32 => .ok (.hadd2 (bit n 23) (fld 7 n 16) (fld 8 n 8) (fld 8 n 0))
  | 0x33 => .ok (.hmul2 (bit n 23) (fld 7 n 16) (fld 8 n 8) (fld 8 n 0))
  | 0x34 => .ok (.hfma2 (bit n 23) (fld 7 n 16) (fld 8 n 8) (fld 8 n 0))
  | 0x35 => .ok (.badd2 (bit n 23) (fld 7 n 16) (fld 8 n 8) (fld 8 n 0))
  | 0x36 => .ok (.bmul2 (bit n 23) (fld 7 n 16) (fld 8 n 8) (fld 8 n 0))
  | 0x37 => .ok (.bfma2 (bit n 23) (fld 7 n 16) (fld 8 n 8) (fld 8 n 0))
  | 0x38 => zero (n % 256 == 0) (.frcp (bit n 23) (fld 7 n 16) (fld 8 n 8))
  | 0x39 => zero (n % 256 == 0) (.frsq (bit n 23) (fld 7 n 16) (fld 8 n 8))
  | 0x3A => zero (n % 256 == 0) (.fexp2 (bit n 23) (fld 7 n 16) (fld 8 n 8))
  | 0x3B => zero (n % 256 == 0) (.flog2 (bit n 23) (fld 7 n 16) (fld 8 n 8))
  | 0x3C => .ok (.cvt (bit n 23) (fld 7 n 16) (fld 8 n 8) (fld 8 n 0))
  | 0x3D => .ok (.fscale (bit n 23) (fld 7 n 16) (fld 8 n 8) (fld 8 n 0))
  | 0x3E => .ok (.qscale (bit n 23) (fld 7 n 16) (fld 8 n 8) (fld 8 n 0))
  | 0x3F => .ok (.frnd (bit n 23) (fld 7 n 16) (fld 8 n 8) (fld 8 n 0))
  | _ => .error .opcode

/-- Opcodes 0x40 to 0x7F (Table 3-6). -/
def decodeHigh (op n : Nat) : Except WordError Instr :=
  match op with
  | 0x40 => zero (n / 2 ^ 23 % 2 == 0) (.icmp (fld 4 n 19) (fld 3 n 16) (fld 8 n 8) (fld 8 n 0))
  | 0x41 => zero (n / 2 ^ 23 % 2 == 0) (.ucmp (fld 4 n 19) (fld 3 n 16) (fld 8 n 8) (fld 8 n 0))
  | 0x42 => zero (n / 2 ^ 23 % 2 == 0) (.fcmp (fld 4 n 19) (fld 3 n 16) (fld 8 n 8) (fld 8 n 0))
  | 0x43 => zero (n / 2 ^ 3 % 32 == 0 && n / 2 ^ 11 % 32 == 0 && n / 2 ^ 23 % 2 == 0) (.plop (fld 4 n 19) (fld 3 n 16) (fld 3 n 8) (fld 3 n 0))
  | 0x44 => .ok (.sel (bit n 23) (fld 7 n 16) (fld 8 n 8) (fld 8 n 0))
  | 0x45 => zero (n / 2 ^ 2 % 64 == 0 && n / 2 ^ 11 % 32 == 0) (.vote (bit n 23) (fld 7 n 16) (fld 3 n 8) (fld 2 n 0))
  | 0x46 => zero (n / 2 ^ 2 % 64 == 0 && n / 2 ^ 11 % 8192 == 0) (.mset (fld 3 n 8) (fld 2 n 0))
  | 0x47 => decodePmov n
  | 0x48 => .ok (.dot8w (bit n 23) (fld 7 n 16) (fld 8 n 8) (fld 8 n 0))
  | 0x49 => .ok (.dot8i (bit n 23) (fld 7 n 16) (fld 8 n 8) (fld 8 n 0))
  | 0x4A => .ok (.dot4w (bit n 23) (fld 7 n 16) (fld 8 n 8) (fld 8 n 0))
  | 0x4B => .ok (.dot4i (bit n 23) (fld 7 n 16) (fld 8 n 8) (fld 8 n 0))
  | 0x4C => .ok (.shfl (bit n 23) (fld 7 n 16) (fld 8 n 8) (fld 8 n 0))
  | 0x4D => .ok (.shflx (bit n 23) (fld 7 n 16) (fld 8 n 8) (fld 8 n 0))
  | 0x4E => .ok (.qxch (bit n 23) (fld 7 n 16) (fld 8 n 8) (fld 8 n 0))
  | 0x4F => .ok (.lred (bit n 23) (fld 7 n 16) (fld 8 n 8) (fld 8 n 0))
  | 0x50 => zero (n / 2 ^ 8 % 256 == 0 && n / 2 ^ 23 % 2 == 0) (.split (fld 7 n 16) (fld 8 n 0))
  | 0x51 => zero (n % 65536 == 0 && n / 2 ^ 23 % 2 == 0) (.fuse (fld 7 n 16))
  | 0x52 => zero (n / 2 ^ 5 % 524288 == 0) (.region (fld 5 n 0))
  | 0x53 => zero (n / 2 ^ 8 % 256 == 0) (.rdid (bit n 23) (fld 7 n 16) (fld 8 n 0))
  | 0x54 => .ok (.mrd (bit n 23) (fld 7 n 16) (fld 8 n 8) (fld 8 n 0))
  | 0x55 => zero (n % 65536 == 0) (.strd (bit n 23) (fld 7 n 16))
  | 0x58 => zero (n % 256 == 0) (.gmov (bit n 23) (fld 7 n 16) (fld 8 n 8))
  | 0x59 => .ok (.gmovi (bit n 23) (fld 7 n 16) (fld 16 n 0))
  | 0x5A => .ok (.gmovhi (bit n 23) (fld 7 n 16) (fld 16 n 0))
  | 0x5B => .ok (.gadd (bit n 23) (fld 7 n 16) (fld 8 n 8) (fld 8 n 0))
  | 0x5C => .ok (.gaddi (bit n 23) (fld 7 n 16) (fld 8 n 8) (fld 8 n 0))
  | 0x5D => .ok (.gsub (bit n 23) (fld 7 n 16) (fld 8 n 8) (fld 8 n 0))
  | 0x5E => .ok (.gmul (bit n 23) (fld 7 n 16) (fld 8 n 8) (fld 8 n 0))
  | 0x5F => .ok (.gand (bit n 23) (fld 7 n 16) (fld 8 n 8) (fld 8 n 0))
  | 0x60 => .ok (.gor (bit n 23) (fld 7 n 16) (fld 8 n 8) (fld 8 n 0))
  | 0x61 => .ok (.gxor (bit n 23) (fld 7 n 16) (fld 8 n 8) (fld 8 n 0))
  | 0x62 => .ok (.gshift (bit n 23) (fld 7 n 16) (fld 8 n 8) (fld 8 n 0))
  | 0x63 => zero (n / 2 ^ 23 % 2 == 0) (.gcmp (fld 4 n 19) (fld 3 n 16) (fld 8 n 8) (fld 8 n 0))
  | 0x64 => .ok (.gminmax (bit n 23) (fld 7 n 16) (fld 8 n 8) (fld 8 n 0))
  | 0x65 => .ok (.gadd64 (bit n 23) (fld 7 n 16) (fld 8 n 8) (fld 8 n 0))
  | 0x66 => .ok (.gbcast (bit n 23) (fld 7 n 16) (fld 8 n 8) (fld 8 n 0))
  | 0x67 => zero (n % 256 == 0) (.vbcast (bit n 23) (fld 7 n 16) (fld 8 n 8))
  | 0x68 => .ok (.ldg (fld 2 n 22) (fld 7 n 15) (fld 7 n 8) (fld 8 n 0))
  | 0x69 => .ok (.stg (fld 2 n 22) (fld 7 n 15) (fld 7 n 8) (fld 8 n 0))
  | 0x6A => .ok (.lds (fld 2 n 22) (fld 7 n 15) (fld 7 n 8) (fld 8 n 0))
  | 0x6B => .ok (.sts (fld 2 n 22) (fld 7 n 15) (fld 7 n 8) (fld 8 n 0))
  | 0x6C => .ok (.ldv (fld 2 n 22) (fld 7 n 15) (fld 7 n 8) (fld 8 n 0))
  | 0x6D => .ok (.stv (fld 2 n 22) (fld 7 n 15) (fld 7 n 8) (fld 8 n 0))
  | 0x6E => .ok (.atomg (fld 4 n 20) (bit n 19) (fld 7 n 12) (fld 7 n 5) (fld 5 n 0))
  | 0x6F => .ok (.atoms (fld 4 n 20) (bit n 19) (fld 7 n 12) (fld 7 n 5) (fld 5 n 0))
  | 0x70 => .ok (.atomv (fld 4 n 20) (bit n 19) (fld 7 n 12) (fld 7 n 5) (fld 5 n 0))
  | 0x71 => zero (n / 2 ^ 8 % 256 == 0 && n / 2 ^ 23 % 2 == 0) (.txb (fld 7 n 16) (fld 8 n 0))
  | 0x72 => zero (n % 65536 == 0 && n / 2 ^ 23 % 2 == 0) (.txe (fld 7 n 16))
  | 0x73 => zero (n / 2 ^ 8 % 65536 == 0) (.txa (fld 8 n 0))
  | 0x74 => zero (n / 2 ^ 9 % 512 == 0 && n / 2 ^ 23 % 2 == 0) (.fence (fld 3 n 20) (fld 2 n 18) (fld 9 n 0))
  | 0x75 => zero (n % 1048576 == 0 && n / 2 ^ 23 % 2 == 0) (.tfence (fld 3 n 20))
  | 0x76 => zero (n % 16 == 0) (.waitu (fld 3 n 21) (fld 2 n 19) (bit n 18) (fld 7 n 11) (fld 7 n 4))
  | 0x77 => zero (n % 256 == 0 && n / 2 ^ 23 % 2 == 0) (.waitc (fld 7 n 16) (fld 8 n 8))
  | 0x78 => zero (n / 2 ^ 23 % 2 == 0) (.mma (fld 7 n 16) (fld 8 n 8) (fld 3 n 5) (fld 5 n 0))
  | 0x79 => zero (n / 2 ^ 8 % 256 == 0 && n / 2 ^ 23 % 2 == 0) (.copy (fld 7 n 16) (bit n 7) (fld 3 n 4) (fld 2 n 2) (fld 2 n 0))
  | 0x7A => zero (n / 2 ^ 5 % 8 == 0 && n / 2 ^ 23 % 2 == 0) (.gather (fld 7 n 16) (fld 8 n 8) (bit n 4) (fld 2 n 2) (bit n 1) (bit n 0))
  | 0x7B => zero (n / 2 ^ 8 % 256 == 0 && n / 2 ^ 23 % 2 == 0) (.coll (fld 7 n 16) (fld 8 n 0))
  | 0x7C => zero (n % 65536 == 0 && n / 2 ^ 23 % 2 == 0) (.launch (fld 7 n 16))
  | 0x7D => zero (n / 2 ^ 8 % 256 == 0 && n / 2 ^ 23 % 2 == 0) (.msend (fld 7 n 16) (fld 8 n 0))
  | 0x7F => decodeSecondary n
  | _ => .error .opcode

/-- The instruction that a 32-bit word stands for, its chain bit apart. A word of no instruction is refused by name. Whether the
fields are within range is `Instr.check`. -/
def decodeFields (w : Word) : Except WordError Instr :=
  let n := w.toNat
  let op := n / 2 ^ 24 % 128
  if op < 64 then decodeLow op n else decodeHigh op n

/-- Bit 31 of a word, its chain bit C (R35). -/
def chainBit (w : Word) : Bool := w.msb

/-- Decoding with the conditions of Table 3-8 that the word shows by itself: each word is an instruction with all its fields within
range, or is refused (R60). -/
def decode (w : Word) : Except WordError Instr :=
  match decodeFields w with
  | .error e => .error e
  | .ok i => match i.check with
    | some e => .error e
    | none => .ok i

/-- The instruction that the decoder reads from a word of nbits bits of the table; every word of this hardware has 32 bits. -/
def decodeTableWord (nbits w : Nat) : Option Instr :=
  if nbits ≤ 32 then
    match decodeFields (BitVec.ofNat 32 (w % 2 ^ nbits)) with
    | .ok i => some i
    | .error _ => none
  else none

/-- The value x placed with its lowest bit at bit lo. -/
def put (x lo : Nat) : Nat := x * 2 ^ lo

/-- The bits [30:0] of an instruction's word; an event has no word. -/
def encodeBits : Instr → Option Nat
  | .nop => some (0x00000000)
  | .bra disp => some (0x01000000 + put disp.toNat 0)
  | .bany p disp => some (0x02000000 + put p.toNat 21 + put disp.toNat 0)
  | .ball p disp => some (0x03000000 + put p.toNat 21 + put disp.toNat 0)
  | .bnone p disp => some (0x04000000 + put p.toNat 21 + put disp.toNat 0)
  | .bdiv p jb disp => some (0x05000000 + put p.toNat 21 + put jb.toNat 16 + put disp.toNat 0)
  | .join bound => some (0x06000000 + put bound.toNat 0)
  | .call disp => some (0x07000000 + put disp.toNat 0)
  | .ret => some (0x08000000)
  | .loop g disp => some (0x09000000 + put g.toNat 16 + put disp.toNat 0)
  | .jmpf slot seg blk => some (0x0A000000 + put slot.toNat 16 + put seg.toNat 8 + put blk.toNat 0)
  | .cfetch slot a => some (0x0B000000 + put slot.toNat 16 + put a.toNat 8)
  | .trap code => some (0x0C000000 + put code.toNat 0)
  | .exit => some (0x0D000000)
  | .eret => some (0x0E000000)
  | .mov w d a => some (0x10000000 + put w.toNat 23 + put d.toNat 16 + put a.toNat 8)
  | .movi w d imm => some (0x11000000 + put w.toNat 23 + put d.toNat 16 + put imm.toNat 0)
  | .movhi w d imm => some (0x12000000 + put w.toNat 23 + put d.toNat 16 + put imm.toNat 0)
  | .iadd w d a b => some (0x13000000 + put w.toNat 23 + put d.toNat 16 + put a.toNat 8 + put b.toNat 0)
  | .iaddi w d a imm => some (0x14000000 + put w.toNat 23 + put d.toNat 16 + put a.toNat 8 + put imm.toNat 0)
  | .isub w d a b => some (0x15000000 + put w.toNat 23 + put d.toNat 16 + put a.toNat 8 + put b.toNat 0)
  | .imul w d a b => some (0x16000000 + put w.toNat 23 + put d.toNat 16 + put a.toNat 8 + put b.toNat 0)
  | .imulh w d a b => some (0x17000000 + put w.toNat 23 + put d.toNat 16 + put a.toNat 8 + put b.toNat 0)
  | .imulhu w d a b => some (0x18000000 + put w.toNat 23 + put d.toNat 16 + put a.toNat 8 + put b.toNat 0)
  | .imad w d a b => some (0x19000000 + put w.toNat 23 + put d.toNat 16 + put a.toNat 8 + put b.toNat 0)
  | .iadd64 w d a b => some (0x1A000000 + put w.toNat 23 + put d.toNat 16 + put a.toNat 8 + put b.toNat 0)
  | .lea w d a b => some (0x1B000000 + put w.toNat 23 + put d.toNat 16 + put a.toNat 8 + put b.toNat 0)
  | .and w d a b => some (0x1C000000 + put w.toNat 23 + put d.toNat 16 + put a.toNat 8 + put b.toNat 0)
  | .or w d a b => some (0x1D000000 + put w.toNat 23 + put d.toNat 16 + put a.toNat 8 + put b.toNat 0)
  | .xor w d a b => some (0x1E000000 + put w.toNat 23 + put d.toNat 16 + put a.toNat 8 + put b.toNat 0)
  | .andn w d a b => some (0x1F000000 + put w.toNat 23 + put d.toNat 16 + put a.toNat 8 + put b.toNat 0)
  | .shl w d a b => some (0x20000000 + put w.toNat 23 + put d.toNat 16 + put a.toNat 8 + put b.toNat 0)
  | .shr w d a b => some (0x21000000 + put w.toNat 23 + put d.toNat 16 + put a.toNat 8 + put b.toNat 0)
  | .sar w d a b => some (0x22000000 + put w.toNat 23 + put d.toNat 16 + put a.toNat 8 + put b.toNat 0)
  | .shli w d a imm => some (0x23000000 + put w.toNat 23 + put d.toNat 16 + put a.toNat 8 + put imm.toNat 0)
  | .shri w d a imm => some (0x24000000 + put w.toNat 23 + put d.toNat 16 + put a.toNat 8 + put imm.toNat 0)
  | .sari w d a imm => some (0x25000000 + put w.toNat 23 + put d.toNat 16 + put a.toNat 8 + put imm.toNat 0)
  | .imin w d a b => some (0x26000000 + put w.toNat 23 + put d.toNat 16 + put a.toNat 8 + put b.toNat 0)
  | .imax w d a b => some (0x27000000 + put w.toNat 23 + put d.toNat 16 + put a.toNat 8 + put b.toNat 0)
  | .umin w d a b => some (0x28000000 + put w.toNat 23 + put d.toNat 16 + put a.toNat 8 + put b.toNat 0)
  | .umax w d a b => some (0x29000000 + put w.toNat 23 + put d.toNat 16 + put a.toNat 8 + put b.toNat 0)
  | .iabs w d a => some (0x2A000000 + put w.toNat 23 + put d.toNat 16 + put a.toNat 8)
  | .bfe w d a b => some (0x2B000000 + put w.toNat 23 + put d.toNat 16 + put a.toNat 8 + put b.toNat 0)
  | .fadd w d a b => some (0x2C000000 + put w.toNat 23 + put d.toNat 16 + put a.toNat 8 + put b.toNat 0)
  | .fsub w d a b => some (0x2D000000 + put w.toNat 23 + put d.toNat 16 + put a.toNat 8 + put b.toNat 0)
  | .fmul w d a b => some (0x2E000000 + put w.toNat 23 + put d.toNat 16 + put a.toNat 8 + put b.toNat 0)
  | .ffma w d a b => some (0x2F000000 + put w.toNat 23 + put d.toNat 16 + put a.toNat 8 + put b.toNat 0)
  | .fmin w d a b => some (0x30000000 + put w.toNat 23 + put d.toNat 16 + put a.toNat 8 + put b.toNat 0)
  | .fmax w d a b => some (0x31000000 + put w.toNat 23 + put d.toNat 16 + put a.toNat 8 + put b.toNat 0)
  | .hadd2 w d a b => some (0x32000000 + put w.toNat 23 + put d.toNat 16 + put a.toNat 8 + put b.toNat 0)
  | .hmul2 w d a b => some (0x33000000 + put w.toNat 23 + put d.toNat 16 + put a.toNat 8 + put b.toNat 0)
  | .hfma2 w d a b => some (0x34000000 + put w.toNat 23 + put d.toNat 16 + put a.toNat 8 + put b.toNat 0)
  | .badd2 w d a b => some (0x35000000 + put w.toNat 23 + put d.toNat 16 + put a.toNat 8 + put b.toNat 0)
  | .bmul2 w d a b => some (0x36000000 + put w.toNat 23 + put d.toNat 16 + put a.toNat 8 + put b.toNat 0)
  | .bfma2 w d a b => some (0x37000000 + put w.toNat 23 + put d.toNat 16 + put a.toNat 8 + put b.toNat 0)
  | .frcp w d a => some (0x38000000 + put w.toNat 23 + put d.toNat 16 + put a.toNat 8)
  | .frsq w d a => some (0x39000000 + put w.toNat 23 + put d.toNat 16 + put a.toNat 8)
  | .fexp2 w d a => some (0x3A000000 + put w.toNat 23 + put d.toNat 16 + put a.toNat 8)
  | .flog2 w d a => some (0x3B000000 + put w.toNat 23 + put d.toNat 16 + put a.toNat 8)
  | .cvt w d a imm => some (0x3C000000 + put w.toNat 23 + put d.toNat 16 + put a.toNat 8 + put imm.toNat 0)
  | .fscale w d a b => some (0x3D000000 + put w.toNat 23 + put d.toNat 16 + put a.toNat 8 + put b.toNat 0)
  | .qscale w d a b => some (0x3E000000 + put w.toNat 23 + put d.toNat 16 + put a.toNat 8 + put b.toNat 0)
  | .frnd w d a imm => some (0x3F000000 + put w.toNat 23 + put d.toNat 16 + put a.toNat 8 + put imm.toNat 0)
  | .icmp cond p a b => some (0x40000000 + put cond.toNat 19 + put p.toNat 16 + put a.toNat 8 + put b.toNat 0)
  | .ucmp cond p a b => some (0x41000000 + put cond.toNat 19 + put p.toNat 16 + put a.toNat 8 + put b.toNat 0)
  | .fcmp cond p a b => some (0x42000000 + put cond.toNat 19 + put p.toNat 16 + put a.toNat 8 + put b.toNat 0)
  | .plop f p a b => some (0x43000000 + put f.toNat 19 + put p.toNat 16 + put a.toNat 8 + put b.toNat 0)
  | .sel w d a b => some (0x44000000 + put w.toNat 23 + put d.toNat 16 + put a.toNat 8 + put b.toNat 0)
  | .vote w d a mode => some (0x45000000 + put w.toNat 23 + put d.toNat 16 + put a.toNat 8 + put mode.toNat 0)
  | .mset a mode => some (0x46000000 + put a.toNat 8 + put mode.toNat 0)
  | .pmovGet d => some (0x47000000 + put d.toNat 16)
  | .pmovPut a => some (0x47000001 + put a.toNat 8)
  | .dot8w w d a b => some (0x48000000 + put w.toNat 23 + put d.toNat 16 + put a.toNat 8 + put b.toNat 0)
  | .dot8i w d a b => some (0x49000000 + put w.toNat 23 + put d.toNat 16 + put a.toNat 8 + put b.toNat 0)
  | .dot4w w d a b => some (0x4A000000 + put w.toNat 23 + put d.toNat 16 + put a.toNat 8 + put b.toNat 0)
  | .dot4i w d a b => some (0x4B000000 + put w.toNat 23 + put d.toNat 16 + put a.toNat 8 + put b.toNat 0)
  | .shfl w d a b => some (0x4C000000 + put w.toNat 23 + put d.toNat 16 + put a.toNat 8 + put b.toNat 0)
  | .shflx w d a imm => some (0x4D000000 + put w.toNat 23 + put d.toNat 16 + put a.toNat 8 + put imm.toNat 0)
  | .qxch w d a imm => some (0x4E000000 + put w.toNat 23 + put d.toNat 16 + put a.toNat 8 + put imm.toNat 0)
  | .lred w d a imm => some (0x4F000000 + put w.toNat 23 + put d.toNat 16 + put a.toNat 8 + put imm.toNat 0)
  | .split d f => some (0x50000000 + put d.toNat 16 + put f.toNat 0)
  | .fuse d => some (0x51000000 + put d.toNat 16)
  | .region idx => some (0x52000000 + put idx.toNat 0)
  | .rdid w d sl => some (0x53000000 + put w.toNat 23 + put d.toNat 16 + put sl.toNat 0)
  | .mrd w d a b => some (0x54000000 + put w.toNat 23 + put d.toNat 16 + put a.toNat 8 + put b.toNat 0)
  | .strd w d => some (0x55000000 + put w.toNat 23 + put d.toNat 16)
  | .gmov w d a => some (0x58000000 + put w.toNat 23 + put d.toNat 16 + put a.toNat 8)
  | .gmovi w d imm => some (0x59000000 + put w.toNat 23 + put d.toNat 16 + put imm.toNat 0)
  | .gmovhi w d imm => some (0x5A000000 + put w.toNat 23 + put d.toNat 16 + put imm.toNat 0)
  | .gadd w d a b => some (0x5B000000 + put w.toNat 23 + put d.toNat 16 + put a.toNat 8 + put b.toNat 0)
  | .gaddi w d a imm => some (0x5C000000 + put w.toNat 23 + put d.toNat 16 + put a.toNat 8 + put imm.toNat 0)
  | .gsub w d a b => some (0x5D000000 + put w.toNat 23 + put d.toNat 16 + put a.toNat 8 + put b.toNat 0)
  | .gmul w d a b => some (0x5E000000 + put w.toNat 23 + put d.toNat 16 + put a.toNat 8 + put b.toNat 0)
  | .gand w d a b => some (0x5F000000 + put w.toNat 23 + put d.toNat 16 + put a.toNat 8 + put b.toNat 0)
  | .gor w d a b => some (0x60000000 + put w.toNat 23 + put d.toNat 16 + put a.toNat 8 + put b.toNat 0)
  | .gxor w d a b => some (0x61000000 + put w.toNat 23 + put d.toNat 16 + put a.toNat 8 + put b.toNat 0)
  | .gshift w d a b => some (0x62000000 + put w.toNat 23 + put d.toNat 16 + put a.toNat 8 + put b.toNat 0)
  | .gcmp cond p a b => some (0x63000000 + put cond.toNat 19 + put p.toNat 16 + put a.toNat 8 + put b.toNat 0)
  | .gminmax w d a b => some (0x64000000 + put w.toNat 23 + put d.toNat 16 + put a.toNat 8 + put b.toNat 0)
  | .gadd64 w d a b => some (0x65000000 + put w.toNat 23 + put d.toNat 16 + put a.toNat 8 + put b.toNat 0)
  | .gbcast w d a b => some (0x66000000 + put w.toNat 23 + put d.toNat 16 + put a.toNat 8 + put b.toNat 0)
  | .vbcast w d a => some (0x67000000 + put w.toNat 23 + put d.toNat 16 + put a.toNat 8)
  | .ldg sz d a off => some (0x68000000 + put sz.toNat 22 + put d.toNat 15 + put a.toNat 8 + put off.toNat 0)
  | .stg sz d a off => some (0x69000000 + put sz.toNat 22 + put d.toNat 15 + put a.toNat 8 + put off.toNat 0)
  | .lds sz d a off => some (0x6A000000 + put sz.toNat 22 + put d.toNat 15 + put a.toNat 8 + put off.toNat 0)
  | .sts sz d a off => some (0x6B000000 + put sz.toNat 22 + put d.toNat 15 + put a.toNat 8 + put off.toNat 0)
  | .ldv sz d a off => some (0x6C000000 + put sz.toNat 22 + put d.toNat 15 + put a.toNat 8 + put off.toNat 0)
  | .stv sz d a off => some (0x6D000000 + put sz.toNat 22 + put d.toNat 15 + put a.toNat 8 + put off.toNat 0)
  | .atomg aop sz d a off => some (0x6E000000 + put aop.toNat 20 + put sz.toNat 19 + put d.toNat 12 + put a.toNat 5 + put off.toNat 0)
  | .atoms aop sz d a off => some (0x6F000000 + put aop.toNat 20 + put sz.toNat 19 + put d.toNat 12 + put a.toNat 5 + put off.toNat 0)
  | .atomv aop sz d a off => some (0x70000000 + put aop.toNat 20 + put sz.toNat 19 + put d.toNat 12 + put a.toNat 5 + put off.toNat 0)
  | .txb d n => some (0x71000000 + put d.toNat 16 + put n.toNat 0)
  | .txe d => some (0x72000000 + put d.toNat 16)
  | .txa code => some (0x73000000 + put code.toNat 0)
  | .fence scope kind paths => some (0x74000000 + put scope.toNat 20 + put kind.toNat 18 + put paths.toNat 0)
  | .tfence scope => some (0x75000000 + put scope.toNat 20)
  | .waitu cmp sp sz d a => some (0x76000000 + put cmp.toNat 21 + put sp.toNat 19 + put sz.toNat 18 + put d.toNat 11 + put a.toNat 4)
  | .waitc path a => some (0x77000000 + put path.toNat 16 + put a.toNat 8)
  | .mma g a an tb => some (0x78000000 + put g.toNat 16 + put a.toNat 8 + put an.toNat 5 + put tb.toNat 0)
  | .copy g wup win dsp ssp => some (0x79000000 + put g.toNat 16 + put wup.toNat 7 + put win.toNat 4 + put dsp.toNat 2 + put ssp.toNat 0)
  | .gather g a sx esz vault scat => some (0x7A000000 + put g.toNat 16 + put a.toNat 8 + put sx.toNat 4 + put esz.toNat 2 + put vault.toNat 1 + put scat.toNat 0)
  | .coll g n => some (0x7B000000 + put g.toNat 16 + put n.toNat 0)
  | .launch g => some (0x7C000000 + put g.toNat 16)
  | .msend g n => some (0x7D000000 + put g.toNat 16 + put n.toNat 0)
  | .popc w d a => some (0x7F000001 + put w.toNat 23 + put d.toNat 16 + put a.toNat 8)
  | .clz w d a => some (0x7F000002 + put w.toNat 23 + put d.toNat 16 + put a.toNat 8)
  | .brev w d a => some (0x7F000003 + put w.toNat 23 + put d.toNat 16 + put a.toNat 8)
  | .bfi w d a => some (0x7F000004 + put w.toNat 23 + put d.toNat 16 + put a.toNat 8)
  | .yield => some (0x7F000010)
  | .setpl d a => some (0x7F000011 + put d.toNat 16 + put a.toNat 8)
  | .rdclk d => some (0x7F000012 + put d.toNat 16)
  | .rdsync d => some (0x7F000013 + put d.toNat 16)
  | .rdprog d => some (0x7F000014 + put d.toNat 16)
  | .rdnrg d => some (0x7F000015 + put d.toNat 16)
  | .ckpt d => some (0x7F000016 + put d.toNat 16)
  | .view v a => some (0x7F000017 + put v.toNat 16 + put a.toNat 8)
  | .sfmt k a => some (0x7F000018 + put k.toNat 16 + put a.toNat 8)
  | .gang d a => some (0x7F000019 + put d.toNat 16 + put a.toNat 8)
  | .pin d a => some (0x7F00001A + put d.toNat 16 + put a.toNat 8)
  | .unpin d a => some (0x7F00001B + put d.toNat 16 + put a.toNat 8)
  | .msr n a => some (0x7F00001C + put n.toNat 16 + put a.toNat 8)
  | .mrs d a => some (0x7F00001D + put d.toNat 16 + put a.toNat 8)
  | .bari a => some (0x7F000020 + put a.toNat 8)
  | .bara d a => some (0x7F000021 + put d.toNat 16 + put a.toNat 8)
  | .barx a => some (0x7F000022 + put a.toNat 8)
  | .barw d a => some (0x7F000023 + put d.toNat 16 + put a.toNat 8)
  | .stagea d a => some (0x7F000024 + put d.toNat 16 + put a.toNat 8)
  | .stager a => some (0x7F000025 + put a.toNat 8)
  | .ringadv k a => some (0x7F000026 + put k.toNat 16 + put a.toNat 8)
  | .lqrd d => some (0x7F000027 + put d.toNat 16)
  | .l1wb a => some (0x7F000030 + put a.toNat 8)
  | .l1inv a => some (0x7F000031 + put a.toNat 8)
  | .groupEnd _ => none
  | .strandMerge _ _ _ => none
  | .joinDeadline _ _ => none
  | .switchHoldBreak _ _ => none
  | .fuseWaitTimeout _ => none
  | .loadWriteback _ => none
  | .storeAck _ => none
  | .atomicStep _ _ => none
  | .atomicReturn _ => none
  | .pageWalkComplete _ => none
  | .sectorFillArrival _ => none
  | .l2FillArrival _ => none
  | .l1WritebackArrival _ => none
  | .directoryInvalidation _ => none
  | .invalidationAck _ => none
  | .remoteEvictionNotice _ _ => none
  | .writeAckReceipt _ => none
  | .fenceComplete _ => none
  | .txeCommit _ => none
  | .pinResult _ => none
  | .cfetchLanding _ => none
  | .engineQueueAdmit _ => none
  | .copyChunkLanding _ => none
  | .gatherElementLanding _ => none
  | .collChunk _ _ _ => none
  | .msendDelivery _ _ => none
  | .msendRetry _ _ => none
  | .mmaRendezvousOpen _ => none
  | .mmaResultWrite _ => none
  | .mmaAbsentTimeout _ => none
  | .waituWake _ => none
  | .waituTimeout _ => none
  | .spillWalk _ => none
  | .scratchpadMonitorWake _ => none
  | .scratchpadMonitorExpiry _ => none
  | .barrierAbandonMark _ => none
  | .launchPolicyApply _ => none
  | .fabricPromotion _ => none
  | .writebackFlitOffer _ => none
  | .queuePacketTake _ => none
  | .quote _ => none
  | .accept _ => none
  | .decline _ => none
  | .launchPacket _ => none
  | .waitPacket _ => none
  | .waitPacketSatisfied _ => none
  | .waitPageTimeout _ => none
  | .signalPacket _ => none
  | .copyPacket _ => none
  | .timestampPacket _ => none
  | .checkpointPacket _ => none
  | .rollbackPacket _ => none
  | .quotationExpiry _ => none
  | .acceptedValidityExpiry _ => none
  | .queueSlotSwap _ _ => none
  | .cohortPlacement _ => none
  | .childPlacement _ => none
  | .childCompletion _ => none
  | .launchCompletion _ => none
  | .preemptionDecision _ => none
  | .drainWatchdog _ => none
  | .teamSave _ => none
  | .teamRestore _ => none
  | .powerCapReached _ => none
  | .levelChangeComplete _ => none
  | .primerWindow _ => none
  | .droopDetect _ => none
  | .droopRecovery _ _ => none
  | .thermalEvent _ _ => none
  | .dutyWindowSlide _ => none
  | .dutyClear _ _ => none
  | .sramsplitWrite _ _ => none
  | .injWrite _ _ => none
  | .energyMeterFold _ => none
  | .tmaxCheck _ => none
  | .ckiExpiry _ => none
  | .intervalClose => none
  | .pairComparison _ => none
  | .eccUncorrectable _ => none
  | .hostWrite _ _ => none
  | .hostRead _ _ => none
  | .ingressFrame _ _ _ _ _ _ => none
  | .ptpMessage _ _ => none
  | .syncLockChange _ => none
  | .noMasterHeard => none
  | .eventMessageTransmission _ => none
  | .ethernetEgress _ _ _ => none
  | .functionReady _ _ => none
  | .functionReset _ _ => none
  | .powerOnReset => none
  | .deviceReset => none
  | .createq _ => none
  | .destroyq _ => none
  | .setcap _ => none
  | .setregions _ => none
  | .undercoat _ => none
  | .fwupdate _ => none
  | .attest _ => none
  | .setfilter _ => none
  | .mailboxBadreq _ => none
  | .scrub _ => none
  | .undercoatDone => none
  | .undercoatRestore => none
  | .reservationRevoked _ _ => none
  | .translationEventServed _ _ => none
  | .writeToMemoryComplete _ => none

/-- The instruction has a word: it is none of the device's events. -/
def Instr.isWord (i : Instr) : Bool := (encodeBits i).isSome

/-- The word of an instruction with chain bit c. An event has none, and `NOP` none with its chain bit set (R36). -/
def encode (c : Bool) (i : Instr) : Option Word :=
  if c = true ∧ i = .nop then none else (encodeBits i).map fun n => BitVec.ofNat 32 (n + put c.toNat 31)

end Sys2Proof
end

