-- ==== Sys2Proof/Machine/Tab.lean ====
section
/-! DEFINITION. Sparse data by key in one canonical form: a list of keys and values, keys strictly rising, no entry equal to what an
unlisted key reads as. Memory, register files and every table of the machine are kept this way, so that equal contents are
equal data. -/

namespace Sys2Proof

/-- Values by key, in canonical form (`Tab.wf`). -/
abbrev Tab (V : Type) := List (Nat × V)

/-- The value at a key; d is what an unlisted key reads as. -/
def Tab.get {V : Type} (d : V) (k : Nat) : Tab V → V
  | [] => d
  | (a, v) :: t => if a = k then v else Tab.get d k t

/-- The table without a key. -/
def Tab.erase {V : Type} (k : Nat) : Tab V → Tab V
  | [] => []
  | (a, v) :: t => if a = k then Tab.erase k t else (a, v) :: Tab.erase k t

/-- The table with a value at a key. Writing the default removes the entry. -/
def Tab.set {V : Type} [DecidableEq V] (d : V) (k : Nat) (v : V) : Tab V → Tab V
  | [] => if v = d then [] else [(k, v)]
  | (a, w) :: t =>
    if k < a then (if v = d then (a, w) :: Tab.erase k t else (k, v) :: (a, w) :: t)
    else if k = a then (if v = d then Tab.erase k t else (k, v) :: t)
    else (a, w) :: Tab.set d k v t

/-- Every key of the table is above b. -/
def Tab.above {V : Type} (b : Nat) : Tab V → Bool
  | [] => true
  | (a, _) :: t => decide (b < a) && Tab.above b t

/-- Keys strictly rise and no entry holds the default. -/
def Tab.wf {V : Type} [DecidableEq V] (d : V) : Tab V → Bool
  | [] => true
  | (a, v) :: t => decide (v ≠ d) && Tab.above a t && Tab.wf d t

/-- The keys of a table, rising. -/
def Tab.keys {V : Type} (t : Tab V) : List Nat := t.map Prod.fst

/-- The table with the value at a key changed by f. -/
def Tab.update {V : Type} [DecidableEq V] (d : V) (k : Nat) (f : V → V) (t : Tab V) : Tab V :=
  Tab.set d k (f (Tab.get d k t)) t

/-- The first key whose value meets the condition, with its value. -/
def Tab.find {V : Type} (p : Nat → V → Bool) : Tab V → Option (Nat × V)
  | [] => none
  | (a, v) :: t => if p a v then some (a, v) else Tab.find p t

/-- A key above every key in use. -/
def Tab.fresh {V : Type} : Tab V → Nat
  | [] => 1
  | (a, _) :: t => max (a + 1) (Tab.fresh t)

end Sys2Proof
end

