-- ==== Sys2Proof/Machine/State.lean ====
section
/-! DEFINITION. The state of the machine: everything the spec names, as plain data, with the machine after reset, the faults and the
refusals. Every table is a `Tab` whose default is the record of an absent thing (live = false, a free entry, a byte 0x00). -/

namespace Sys2Proof.Machine

/-- Bytes by physical address: a list of `Host.Cell` in canonical form. An unlisted address reads 0x00 (DESIGN CHOICE, log 2). -/
abbrev Memory := Tab Byte

/-- Who stops the machine, and what for. -/
inductive Fault where
  /-- Raised by HOST_READ, HOST_WRITE and ETHERNET_EGRESS for an address in a hole of Table 9-2 (09 R184), which holds nothing. Safe: the
  machine stops where the spec gives no effect. -/
  | hole (pa : Nat)
  deriving DecidableEq, Repr

/-- An instruction without a meaning. -/
inductive Refusal where
  /-- Raised by an arm of `exec` whose instruction has no meaning yet, under its mnemonic. Safe. -/
  | notModelled (mnemonic : String)
  deriving DecidableEq, Repr

/-- The traps of Table 3-9, TRAP and the pair mismatch (03 R62, 18 R354). ALIGN at fetch and SEGMENT share one priority. -/
inductive TrapKind where
  | illegal | segment | alignFetch | latch | limit | depth | engmask | engwidth | format | alignData | transl | perm | poison
  | trapWord | mismatch
  deriving DecidableEq, Repr

/-- A trap as it is reported (18 Table 18-1): the word and the lane of R63, IMM, ADDR, and the restart point. -/
structure TrapReport where
  kind : TrapKind
  word : Nat := 0
  lane : Option Nat := none
  imm : Nat := 0
  addr : Nat := 0
  pc : Word := 0
  deriving DecidableEq, Repr

/-- The role of a group (24 R397). -/
inductive Role where
  | copy | matrix | vector | mixed
  deriving DecidableEq, Repr

/-! ### Strands -/

/-- An entry of the call-return stack (08 R168). -/
structure RetEntry where
  slot : Nat
  blk : Nat
  pk : Nat
  seg : Nat
  deriving DecidableEq, Repr

/-- How a strand is parked (08 R164, R174, R179). -/
inductive Park where
  /-- The strand issues. -/
  | running
  /-- Parked at a JOIN until missing strands arrive or the cluster's clock reaches the deadline. -/
  | join (deadline : Nat)
  /-- Parked at EXIT for good. -/
  | exit
  /-- Parked at CKPT until the close has committed. -/
  | ckpt
  deriving DecidableEq, Repr

/-- A strand (05 R86). PC is a code address (03 R47), so that an address from data stands as it was loaded. -/
structure Strand where
  live : Bool := false
  pc : Word := 0
  /-- Member set. -/
  members : LaneMask := 0
  exm : LaneMask := 0
  /-- Reconvergence stack, top first, entries of Table 8-2. -/
  rstack : List (BitVec 128) := []
  /-- Call-return stack, top first. -/
  calls : List RetEntry := []
  /-- Current SEG (08 R170). -/
  seg : Nat := 0
  /-- Trip count of each limit-table entry (08 R166). -/
  trips : Tab Nat := []
  /-- Level vote 0 L, 1 M, 2 H, 3 withdrawn (08 R175). -/
  vote : Nat := 3
  /-- When the vote was cast, for R176. -/
  voteAt : Nat := 0
  park : Park := .running
  /-- Operations that must complete before the next LS or EN word, after strands met (11 R243). -/
  drain : List Nat := []
  /-- The 16 words of the fetch block that the strand runs, once a packet of it has issued: a landing in the slot changes what the strand
  fetches next (08 R171). -/
  block : List Word := []
  deriving DecidableEq, Repr

/-! ### Groups -/

/-- Transaction state (10 Table 10-6). -/
structure Tx where
  isOpen : Bool := false
  /-- Its `TXE` has issued: the group's later words are outside it (11 R248). -/
  committing : Bool := false
  /-- Doom code: 0, or the status the transaction will end with. -/
  doom : Nat := 0
  /-- A log has overflowed: loads read as outside, stores are discarded (10 R217). -/
  full : Bool := false
  count : Nat := 0
  pc : Option Word := none
  /-- Read log: sector number (PA / 64) and its bytes as read. -/
  reads : List (Nat × List Byte) := []
  /-- Write log: byte address and byte; `wlines` are the lines it covers. -/
  writes : Tab (Option Byte) := []
  wlines : List Nat := []
  deriving DecidableEq, Repr

/-- A FENCE or TFENCE under way (10 R222, R223). -/
structure Fence where
  scope : Nat
  kind : Nat
  paths : Nat
  /-- TFENCE. -/
  translation : Bool
  /-- The write-backs of the release set have been sent. -/
  released : Bool
  /-- Operations that must complete first. -/
  ops : List Nat
  /-- Write-back requests the release waits for. -/
  wbs : List Nat
  /-- A `TFENCE` that waits for the walks in flight (15 R314). -/
  dropping : Bool := false
  deriving DecidableEq, Repr

/-- A wait that a word has opened: where its status goes, whether the timeout was capped, the packet and the word, the address watched, the
operation that counts it, and the outcome (code, value) once decided. -/
structure WaitRec where
  d : Nat
  capped : Bool := false
  strand : Nat := 0
  word : Nat := 0
  pc : Word := 0
  addr : Nat := 0
  /-- The physical address that a `WAITU` on a slice reads. -/
  pa : Nat := 0
  op : Nat := 0
  outcome : Option (Nat × Word) := none
  deriving DecidableEq, Repr

/-- Why a group issues nothing (10 R222, 17 R338, 14 R293, R304, 07 R140, 08 R178). -/
inductive Wait where
  | none
  /-- A TLB miss: the packet is not accepted until the walk ends (03 R43). -/
  | walk (id : Nat)
  /-- An engine queue is full (10 R226). -/
  | engine (op : Nat)
  /-- WAITC: the path's counter must be at most t. -/
  | counter (path t : Nat)
  /-- WAITU on a slice table: the slice, and whether its entry is spilled. -/
  | monitor (slice : Nat) (spilled : Bool) (r : WaitRec)
  /-- WAITU.S (kind 0), BARW (1) or STAGEA (2), with the buffer that a STAGEA returns. -/
  | scratch (kind : Nat) (buffer : Word) (r : WaitRec)
  /-- Parked in FUSE until the deadline of the cluster's clock. -/
  | fuse (d deadline : Nat)
  /-- The status of a FUSE has been given, and its strand has still to move on. -/
  | fuseOver
  /-- Parked at CKPT until the close commits. -/
  | ckpt (d : Nat)
  /-- A group of a paired launch that has reached a comparison point (18 R366). -/
  | compare
  deriving DecidableEq, Repr

/-- An operation outstanding on a path, oldest first; the path counter is the number of entries not yet retired (17 R336). -/
structure PathOp where
  path : Nat
  op : Nat
  done : Bool
  /-- Strand that issued it (11 R243). -/
  strand : Nat
  deriving DecidableEq, Repr

/-- An entry of the forwarding queue of a left group (18 R364): the value of each lane, poison where it was found. -/
structure Forward where
  /-- The load that has still to give the value; 0 once it is there. -/
  op : Nat := 0
  /-- The value is that of a `WAITU` which has still to end. -/
  wait : Bool := false
  vals : Tab Nat
  /-- Lanes that found poison. -/
  poison : LaneMask := 0
  deriving DecidableEq, Repr

/-- Where a group stands: its place on the device and in its team. -/
structure Place where
  launch : Nat := 0
  team : Nat := 0
  /-- Team lane offset. -/
  off : Nat := 0
  width : Nat := 0
  role : Role := .vector
  /-- 0 unpaired or left team, 1 right team (18 R363). -/
  side : Nat := 0
  /-- Class of the launch: 0 DL, 1 RND, 2 LRN, 3 BLK. -/
  cls : Nat := 3
  /-- Privileged mode: Lysoux firmware (03 R61). -/
  priv : Bool := false
  /-- Bytes of lane register space, `.regs`. -/
  regs : Nat := 0
  /-- `.depth`. -/
  depth : Nat := 0
  /-- Context: quotation-table index, 0xFFF for firmware. -/
  qidx : Nat := 0
  deriving DecidableEq, Repr

/-- A bypass latch (05 R89). -/
structure Latch where
  /-- uid of the group that wrote it; 0 when empty. -/
  owner : Nat := 0
  width : Nat := 0
  /-- Bits held per lane, 32 or 64. -/
  bits : Nat := 0
  wide : Bool := false
  /-- Group-wide content: the value of key 0 belongs to every lane. -/
  shared : Bool := false
  vals : Tab Dword := []
  deriving DecidableEq, Repr

/-- A packet that has issued, and of which a word waits to be accepted (03 R43): its strand, the latches of its quarter and the group's lost
marks as it read them in its issue cycle (03 R39). -/
structure Flight where
  strand : Nat
  latches : Tab Latch
  lost : BitVec 8
  deriving DecidableEq, Repr

/-- A leaf that a TLB holds (15 R312): the page's first address, its size in bits, the entry. -/
structure TlbEntry where
  qidx : Nat
  va : Nat
  bits : Nat
  pte : BitVec 128
  /-- Model field for least-recently-used replacement. -/
  use : Nat
  deriving DecidableEq, Repr

/-- A group (05 Table 5-1). -/
structure Group where
  live : Bool := false
  /-- Model field: serial number, the identity that latches record as their owner. -/
  uid : Nat := 0
  place : Place := {}
  hlp : LaneMask := 0
  vwv : Word := 0
  vwt : Word := 0
  vwa : Word := 0
  /-- Lane register spaces: byte b of lane i at key i × 1024 + b. -/
  lanes : Tab Byte := []
  g : Tab Word := []
  p : Tab LaneMask := []
  gp : BitVec 8 := 0
  strands : Tab Strand := []
  /-- Strand pointer (05 R87). -/
  sptr : Nat := 0
  gang : Dword := 0
  /-- Region set: bit n is Vn (05 R93). -/
  region : BitVec 128 := 0
  /-- Lost mark of each latch for this group (05 R91, R97). -/
  lost : BitVec 8 := 0
  paths : List PathOp := []
  progress : Dword := 0
  sig : Dword := 0xFFFFFFFFFFFFFFFF
  tx : Tx := {}
  /-- Release set: L1 line numbers, oldest first (10 R221), and when each of them entered it (23 R396). -/
  release : List Nat := []
  relAt : Tab Nat := []
  fence : Option Fence := none
  wait : Wait := .none
  /-- Its last packet, while a word of it waits to be accepted. -/
  flight : Option Flight := none
  /-- Operations that must complete before the next packet, after a broken switch hold (05 R91). -/
  awaits : List Nat := []
  /-- Packets of other groups in flight that must be accepted before it: the group, and the packets that it had retired. -/
  awaitsFlight : List (Nat × Dword) := []
  /-- Groups that must issue a packet before this one, after YIELD (08 R174). -/
  yielded : List Nat := []
  halt : Option TrapReport := none
  /-- Every strand at EXIT: the group has ended and waits to release its slot (08 R174). -/
  ended : Bool := false
  /-- Lines changed by completed ATOMG words, for a SYS release (11 R243). -/
  atomLines : List Nat := []
  /-- Lines that have left the release set since the last SYS release, written back for another reason: that release sees them in memory
  (11 Table 11-6). -/
  sent : List Nat := []
  /-- Forwarding queue of the pair (18 R364). -/
  fwd : List Forward := []
  /-- Vault stores of a left team that wait for a comparison (18 R365), oldest first: the bytes of each, with their addresses. -/
  heldVault : List (List (Nat × Byte)) := []
  /-- Digest of the request that waits for a comparison (18 R366). -/
  digest : Option Dword := none
  /-- The comparison was equal: the waiting word goes on. -/
  approved : Bool := false
  /-- What it holds back stands in the way of a store or a fill: a comparison is forced (18 R365). -/
  pressed : Bool := false
  /-- Operations of the right partner that take the results of those this group executes (18 R366). -/
  mirrors : List Nat := []
  /-- Pages (VA / 65536) whose walk failed for the packet that waits (15 R311). -/
  noPage : List Nat := []
  /-- Leaves that walks have brought for the packet that waits and that the cluster's TLB had no place for (16 R332). -/
  spare : List TlbEntry := []
  deriving DecidableEq, Repr

/-! ### Quarters and clusters -/

/-- A switch hold in force (05 R91). -/
structure Hold where
  group : Nat
  strand : Nat
  /-- The first W packet of the run. -/
  first : Word
  packets : Nat
  /-- Cluster cycle of the last W packet. -/
  since : Nat
  /-- Latches that the run has written. -/
  latches : BitVec 8
  deriving DecidableEq, Repr

/-- A quarter. -/
structure Quarter where
  latches : Tab Latch := []
  /-- Round-robin pointer over the 16 slots (13 R277). -/
  rr : Nat := 0
  hold : Option Hold := none
  deriving DecidableEq, Repr

/-- A line of L1 (09 R190). -/
structure L1Line where
  live : Bool := false
  /-- Valid bit of each sector. -/
  valid : BitVec 4 := 0
  /-- Dirty bit of each byte. -/
  dirty : BitVec 256 := 0
  /-- Bytes held back by a paired launch (18 R365): the uid of the left group that wrote each, 0 for none. -/
  held : Tab Nat := []
  poison : BitVec 4 := 0
  data : Tab Byte := []
  owner : Nat := 0
  use : Nat := 0
  deriving DecidableEq, Repr

/-- A slot of the instruction store (08 R170, 09 R198). -/
structure IStore where
  landed : Bool := false
  /-- Launch the slot is bound to, and whether it is bound. -/
  bound : Bool := false
  launch : Nat := 0
  /-- Where its contents came from (08 R173). -/
  source : Option Nat := none
  /-- The 512 words. -/
  words : Tab Word := []
  deriving DecidableEq, Repr

/-- An entry of the scratchpad monitor (14 Table 14-4). -/
structure ScrEntry where
  v : Bool := false
  opnd : Dword := 0
  saddr : Nat := 0
  cmp : Nat := 0
  sz : Bool := false
  kind : Nat := 0
  expc : Nat := 0
  team : Nat := 0
  deriving DecidableEq, Repr

/-- The power state of a cluster (19 R376, R377, R380). -/
structure Power where
  /-- Level of the clock: 0 L, 1 M, 2 H. -/
  level : Nat := 0
  /-- Level asked for; a change is to come while it differs. -/
  target : Nat := 0
  /-- Converter ratio: 0 for 1/2, 1 for 2/3, 2 for 3/4. -/
  ratio : Nat := 0
  boosting : Bool := false
  stretching : Bool := false
  /-- Level the controller holds the cluster at or below (01 R23). -/
  ceiling : Nat := 2
  /-- Level that a thermal or supply event forces the cluster to, floors notwithstanding (01 R24). -/
  forced : Nat := 2
  /-- Device time at which the present 100 ns window began. -/
  windowAt : Nat := 0
  /-- Dynamic energy of the last 100 ns in 10⁻⁴ pJ, under 8192 times its ns of device time plus its context's index; what a context drew
  before it fell stands at its index plus 4096 (19 R378). -/
  window : Tab Nat := []
  /-- Contexts whose groups on the cluster were all parked after the last step (19 R378). -/
  parked : List Nat := []
  /-- Device time at which the boost or the stretch under way began (19 R380). -/
  droopAt : Nat := 0
  /-- Energy per 100 ns by which each context's power fell in this window (19 R379). -/
  falls : Tab Nat := []
  /-- Energy per 100 ns of the primer ramp. -/
  primer : Nat := 0
  deriving DecidableEq, Repr

/-- A cluster. -/
structure Cluster where
  quarters : Tab Quarter := []
  /-- SRAMSPLIT (09 Table 9-3). -/
  sramsplit : Word := 0x664
  /-- DUTY (17 Table 17-6). -/
  duty : Dword := 0
  /-- Boosts and stretches still within their windows: when and how long. -/
  boosts : List (Nat × Nat) := []
  stretches : List (Nat × Nat) := []
  /-- INJ (24 Table 24-1). -/
  inj : Word := 0
  power : Power := {}
  /-- Cycles since power-on above those that every cluster has counted (08 R177). -/
  clk : Dword := 0
  tlb : List TlbEntry := []
  /-- L1 lines by line number PA / 256. -/
  l1 : Tab L1Line := []
  /-- Instruction store: the slots bound on this cluster, at key launch × 64 + slot (08 R170). -/
  istore : Tab IStore := []
  /-- Injections of the last microsecond: device time, loop, context (19 R373). -/
  flits : List (Nat × Nat × Nat) := []
  /-- Scratchpad monitor, by resident-group slot. -/
  scr : Tab ScrEntry := []
  /-- Copy and gather engine queues: operations, oldest first (10 R226). -/
  copyQ : List Nat := []
  gatherQ : List Nat := []
  /-- Contexts that the copy and the gather engine have served last (16 R327). -/
  copyTurn : Nat := 0
  gatherTurn : Nat := 0
  /-- Energy meters by context, in 10⁻⁴ pJ (17 R346). -/
  meters : Tab Nat := []
  /-- Team whose saved image occupies the image area (13 R281). -/
  imageArea : Option Nat := none
  deriving DecidableEq, Repr

/-! ### Operations in flight -/

/-- One lane's access: lane, effective address, physical address or scratchpad offset. -/
structure Acc where
  lane : Nat
  ea : Nat
  pa : Nat
  deriving DecidableEq, Repr

/-- A COPY command (10 Table 10-10). -/
structure CopyCmd where
  src : Nat
  dst : Nat
  ssp : Nat
  dsp : Nat
  x : Nat
  y : Nat
  z : Nat
  srow : Nat
  splane : Nat
  drow : Nat
  dplane : Nat
  barrier : Option Nat
  status : Nat
  win : Option (Nat × Dword)
  deriving DecidableEq, Repr

/-- A GATHER command (10 R228): the lanes in order with their element addresses and scratchpad addresses. -/
structure GatherCmd where
  scat : Bool
  vault : Bool
  size : Nat
  elems : List (Nat × Nat)
  barrier : Option Nat
  status : Nat
  deriving DecidableEq, Repr

/-- A COLL command (12 Table 12-10). -/
structure CollCmd where
  src : Nat
  dst : Nat
  n : Nat
  oper : Nat
  fmt : Nat
  root : Nat
  comm : Nat
  retry : Nat
  status : Nat
  /-- A contribution has failed to arrive. -/
  late : Bool
  /-- Number of the collective in its launch, under which its record stands. -/
  id : Nat := 0
  deriving DecidableEq, Repr

/-- An MSEND command (12 Table 12-7): payload read at acceptance, and for each destination still open the tries made. -/
structure SendCmd where
  mask : Nat
  ring : Nat
  tag : Nat
  payload : List Byte
  /-- Poison marks of its words. -/
  marks : List Bool
  retry : Nat
  /-- Team, tries so far, and whether the delivery waits 64 cycles for its next try. -/
  pending : List (Nat × Nat × Bool)
  refused : Nat
  out : Nat
  deriving DecidableEq, Repr

/-- An MMA word (07 R145). -/
structure MmaCmd where
  an : Nat
  ta : Nat
  tb : Nat
  cmd : Word
  bias : Nat
  table : Nat
  scale : Nat
  status : Nat
  /-- Quarters of B that the member holds, and its member number. -/
  held : List Nat
  idx : Nat
  rdv : Nat
  /-- The D tile computed when the rendezvous opened: the 32 words of each lane. -/
  out : Tab Nat
  opened : Bool
  /-- Model field: when it opened, by the counter of steps (07 R151). -/
  turn : Nat := 0
  deriving DecidableEq, Repr

/-- What an operation does. -/
inductive OpKind where
  | none
  /-- A load: space 0 global, 1 vault, 2 scratchpad, 3 global past L1 (10 R217); bytes per lane; lanes still to be read; their scales. -/
  | load (space size : Nat) (accs scales : List Acc)
  /-- A store: STG and STS are in place already; STV writes its lanes when the vault acknowledges. -/
  | store (space size : Nat) (accs : List Acc)
  /-- An atomic: its lanes; each operand, the compare value of a CAS below its new value; words still to be stepped. -/
  | atomic (space aop size : Nat) (accs : List Acc) (opnds : Tab Nat) (left : List Nat)
  /-- The right team's part in an operation that the left team executes (18 R366). -/
  | mirror
  | cfetch (slot addr : Nat)
  /-- A `TXE`: status register, and operations and write-backs that come before the commit. -/
  | commit (d : Nat) (before wbs : List Nat)
  | pin (d line : Nat) (unpin : Bool)
  | l1maint (line : Nat)
  | copy (c : CopyCmd)
  | gather (c : GatherCmd)
  | coll (c : CollCmd)
  | send (c : SendCmd)
  | mma (c : MmaCmd)
  deriving DecidableEq, Repr

/-- An operation that a word has issued and that has not completed. -/
structure Op where
  live : Bool := false
  kind : OpKind := .none
  /-- Key and uid of the issuing group; cluster, team and context for what outlives it. -/
  group : Nat := 0
  uid : Nat := 0
  cluster : Nat := 0
  team : Nat := 0
  qidx : Nat := 0
  /-- PC of the packet and word within it. -/
  pc : Word := 0
  word : Nat := 0
  path : Nat := 0
  /-- Bytes of the lane space still to be written: first byte and count (03 R39). -/
  dst : List (Nat × Nat) := []
  /-- Bytes of the lane space that no later word may write until the operation ends (07 R148). -/
  src : List (Nat × Nat) := []
  /-- G registers still to be written. -/
  gdst : List Nat := []
  /-- Lanes that take the result, and helper lanes among them. -/
  mask : LaneMask := 0
  hlp : LaneMask := 0
  /-- Values taken so far, by lane (the bytes as a number). -/
  vals : Tab Nat := []
  /-- Lanes that have found poison. -/
  poisoned : LaneMask := 0
  /-- Helper lanes that have found poison and receive 0 (10 R207). -/
  blank : LaneMask := 0
  /-- Pages (VA / 65536) whose walk has failed for an engine (10 R226). -/
  noPage : List Nat := []
  /-- Requests in flight for this operation. -/
  reqs : List Nat := []
  /-- Engine position: the next chunk or element, and bytes landed. -/
  pos : Nat := 0
  landed : Nat := 0
  accepted : Bool := true
  /-- The operation of the right partner that takes the results; 0 for none. -/
  mirror : Nat := 0
  deriving DecidableEq, Repr

/-- A queue of the fabric that a request waits in (19 R368 to R375). -/
inductive Leg where
  /-- At a station of a die for a free slot of a loop. -/
  | inject (die station loop : Nat)
  /-- At the link from one die to another. -/
  | port (src dst : Nat)
  /-- Passing the slice of its own die on the way to another (11 R239). -/
  | pass (key : Nat)
  /-- In the input queue of a slice. -/
  | slice (key : Nat)
  /-- In the queue of a memory controller: its die and station. -/
  | memory (die station : Nat)
  deriving DecidableEq, Repr

/-- A sector that an outstanding fill of a slice is to bring: who asked for it, the bytes of memory that it pays for, and its request (0 for an
engine or a walk). -/
structure Want where
  sector : Nat
  cluster : Nat
  qidx : Nat
  bytes : Nat
  req : Nat
  deriving DecidableEq, Repr

/-- What a request in flight asks for. -/
inductive ReqKind where
  | none
  /-- A sector fill for a cluster's L1, with the bytes and the poison mark once the slice has answered. -/
  | fill (cluster sector : Nat) (data : Option (List Byte × Bool))
  /-- A slice's fill of a line, from memory or from the home slice: die of the slice that asks, line, sectors wanted (09 R194). -/
  | l2fill (die line : Nat) (wants : List Want)
  /-- An atomic's step on one word, on its way to the home slice. -/
  | atom (addr : Nat)
  /-- A write-back on its way to the home slice: line, byte mask, bytes, owner tag, poison marks, SYS. -/
  | wb (line : Nat) (mask : BitVec 256) (data : Tab Byte) (owner : Nat) (poison : BitVec 4) (sys : Bool)
  /-- An invalidation on its way to a die. -/
  | inv (line die : Nat)
  /-- An acknowledgement of an invalidation on its way home. -/
  | invAck (line die : Nat)
  /-- A stamped write whose invalidations are not all acknowledged, or whose bytes must still reach memory. -/
  | stamped (line : Nat) (waits : List Nat) (sys : Bool)
  /-- An acknowledgement on its way to the writer. -/
  | ack
  /-- A line's dirty bytes on their way to memory. -/
  | memWrite (line : Nat)
  deriving DecidableEq, Repr

/-- A request in flight with its tag (19 Table 19-1). -/
structure Req where
  live : Bool := false
  kind : ReqKind := .none
  /-- Cluster that sent it, and operation it serves. -/
  cluster : Nat := 0
  op : Nat := 0
  dl : Bool := false
  slk : Nat := 0
  pro : Bool := false
  xs : Bool := false
  /-- Rounds waited at the present queue. -/
  age : Nat := 0
  qidx : Nat := 0
  /-- The queues still ahead of it, the present one first. -/
  legs : List Leg := []
  /-- Device time at which it joined the present queue. -/
  since : Nat := 0
  /-- A write-back flit that has circled its loop (19 R374). -/
  circled : Bool := false
  /-- The buffer of the slice holds it. -/
  offered : Bool := false
  /-- The station that injected it last, and a number that grows with each injection: what a link keeps in order (19 R375). -/
  src : Nat := 0
  seq : Nat := 0
  deriving DecidableEq, Repr

/-- A page walk in flight (15 R313): die, context, page, who waits. -/
structure Walk where
  live : Bool := false
  die : Nat := 0
  qidx : Nat := 0
  root : Nat := 0
  va : Nat := 0
  /-- Clusters whose TLB takes the result, and engine operations that wait for it. -/
  clusters : List Nat := []
  ops : List Nat := []
  /-- A TFENCE has started: the result is discarded (15 R314). -/
  stale : Bool := false
  deriving DecidableEq, Repr

/-! ### Slices, directory, monitors -/

/-- A line of an L2 slice (09 R192). -/
structure L2Line where
  live : Bool := false
  valid : BitVec 4 := 0
  dirty : BitVec 256 := 0
  poison : BitVec 4 := 0
  data : Tab Byte := []
  owner : Nat := 0
  way : Nat := 0
  use : Nat := 0
  /-- Contexts that have pinned it (09 R199). -/
  pins : List Nat := []
  deriving DecidableEq, Repr

/-- A slice monitor entry (14 Table 14-2). -/
structure MonEntry where
  v : Bool := false
  opnd : Dword := 0
  /-- Physical address of the watched word. -/
  waddr : Nat := 0
  cmp : Nat := 0
  sz : Bool := false
  tgt : Nat := 0
  rsv : Bool := false
  qidx : Nat := 0
  exp : Nat := 0
  /-- Group key for TGT 0; group index and team for TGT 1; event or queue for TGT 2. -/
  who : Nat := 0
  team : Nat := 0
  deriving DecidableEq, Repr

/-- A directory entry (14 Table 14-5), by line number. -/
structure DirEntry where
  v : Bool := false
  pres : BitVec 4 := 0
  pend : BitVec 4 := 0
  use : Nat := 0
  deriving DecidableEq, Repr

/-- An L2 slice. -/
structure Slice where
  /-- Sequence counter (11 R237). -/
  seq : BitVec 48 := 0
  lines : Tab L2Line := []
  /-- Lines that a commit has locked: the line and the operation (10 R218). -/
  locks : List (Nat × Nat) := []
  dir : Tab DirEntry := []
  mon : Tab MonEntry := []
  filter : Tab Bool := []
  /-- The slice's chain of the spill list (14 R298). -/
  spill : List MonEntry := []
  /-- Miss table: requests of kind l2fill, at most 64 (09 R194). -/
  misses : List Nat := []
  /-- Write-back buffer: requests, at most 16 (09 R195). -/
  wbuf : List Nat := []
  /-- A walk of the chain is due. -/
  walkDue : Bool := false
  deriving DecidableEq, Repr

/-! ### Teams and launches -/

/-- A pending-launch record (12 Table 12-5). -/
structure LaunchRec where
  child : Nat
  groups : Nat
  nargs : Nat
  counter : Nat
  args : List Word
  deriving DecidableEq, Repr

/-- A rendezvous of a gang (07 R149). -/
structure Rdv where
  live : Bool := false
  team : Nat := 0
  gang : Dword := 0
  ifmt : Nat := 0
  /-- Offsets of the members that have joined, and the operations among theirs that have not ended. -/
  who : List Nat := []
  joined : List Nat := []
  /-- Cluster cycle of the first join. -/
  since : Nat := 0
  opened : Bool := false
  /-- The status that every member gets once it has failed. -/
  failed : Nat := 0
  deriving DecidableEq, Repr

/-- What phase of its life a team is in (13 R279 to R286). -/
inductive TeamPhase where
  /-- Not yet placed. -/
  | waiting
  | running
  /-- Drained for a launch, with the watchdog in device time. -/
  | draining (watchdog req : Nat)
  | saving
  | saved
  | discarded
  | done
  deriving DecidableEq, Repr

/-- What a save records (13 Table 13-2): the groups with their slots, the engine operations, the instruction-store sources, the monitor
entries of the scratchpad. -/
structure SavedTeam where
  /-- Each group with its quarter. -/
  groups : List (Nat × Group) := []
  /-- Engine operations, each under the key that the group records name it by. -/
  ops : List (Nat × Op) := []
  /-- Bound instruction-store slots that hold a segment, with the address that the contents came from; none for a child's own image. -/
  istore : List (Nat × Option Nat) := []
  /-- BYTES of the image header: its length in bytes. -/
  bytes : Nat := 0
  /-- Scratchpad monitor entries by group index. -/
  scr : List (Nat × ScrEntry) := []
  /-- Slice monitor entries by group index, with their slices. -/
  mons : List (Nat × Nat × MonEntry) := []
  scratch : Tab Byte := []
  poison : Tab Bool := []
  windows : Tab Dword := []
  pend : List LaunchRec := []
  seqs : Tab Nat := []
  gone : List (Nat × Nat) := []
  /-- Its rendezvous, under the keys that the operations name them by (07 R149, R152). -/
  rdvs : List (Nat × Rdv) := []
  /-- The header of a discarded team, which starts from its fresh image (13 R279, 18 R360). -/
  fresh : Bool := false
  deriving DecidableEq, Repr

/-- A team (01 R19). -/
structure Team where
  live : Bool := false
  launch : Nat := 0
  /-- Index within the launch, cohort, index within the cohort. -/
  index : Nat := 0
  cohort : Nat := 0
  inCohort : Nat := 0
  lanes : Nat := 0
  cluster : Nat := 0
  phase : TeamPhase := .waiting
  side : Nat := 0
  /-- The other team of a glove pair. -/
  partner : Nat := 0
  /-- Rounded scratchpad size and its base in the cluster's portion (09 R188). -/
  size : Nat := 0
  sbase : Nat := 0
  scratch : Tab Byte := []
  /-- Poison mark of each 4-byte word. -/
  poison : Tab Bool := []
  windows : Tab Dword := []
  pend : List LaunchRec := []
  /-- Messages accepted from this team at each destination team (12 R262). -/
  seqs : Tab Nat := []
  restartable : Bool := false
  /-- RUN of the image header. -/
  run : Bool := false
  image : Option SavedTeam := none
  /-- Image of the last boundary (18 R360). -/
  boundary : Option SavedTeam := none
  /-- The team has done what forbids a discard (13 R284). -/
  marked : Bool := false
  /-- Service time since its last fresh start, ns. -/
  service : Nat := 0
  /-- The write-backs of the DEV release that a save waits for, once they have been sent (13 R284). -/
  wbs : Option (List Nat) := none
  /-- NEXT of the image header: where its spill part stands in HBM (13 R279). -/
  spill : Nat := 0
  /-- Barrier objects still to be marked abandoned, each with the cycle in which its mark is due, in the order of these cycles (24 R401). -/
  marks : List (Nat × Nat) := []
  /-- Offsets and widths of the groups that have ended. -/
  gone : List (Nat × Nat) := []
  deriving DecidableEq, Repr

/-- A segment of an image (15 Table 15-6). -/
structure Segment where
  num : Nat
  slot : Nat
  code : List Word
  liveness : List Dword
  regions : List (BitVec 128)
  deriving DecidableEq, Repr

/-- A limit-table entry. -/
structure Limit where
  n : Nat
  arg : Option Nat
  seg : Nat
  blk : Nat
  deriving DecidableEq, Repr

/-- A range after binding: base, length, permissions. -/
structure Range where
  base : Nat
  len : Nat
  rd : Bool
  wr : Bool
  wait : Bool
  vault : Bool
  deriving DecidableEq, Repr

/-- A synchronisation object: kind 0 barrier, 1 ring, 2 stage; base; operands. -/
structure Sync where
  kind : Nat
  base : Nat
  ops : List Nat
  deriving DecidableEq, Repr

/-- An Ebgan image as the front end reads it (15 R315, R316). -/
structure Image where
  rolea : Role := .vector
  roleb : Role := .vector
  roff : Nat := 0
  wmin : Nat := 4
  wmax : Nat := 4
  wlaunch : Nat := 4
  depth : Nat := 0
  team : Nat := 1
  cohort : Nat := 1
  regs : Nat := 64
  vwv : Nat := 0
  vwt : Nat := 0
  vwa : Nat := 0
  scratch : Nat := 0
  entrySeg : Nat := 0
  entryBlk : Nat := 0
  gang : Dword := 0
  slots : Dword := 0
  segs : List Segment := []
  limits : List Limit := []
  /-- Segment, block, packet and bound. -/
  waitb : List (Nat × Nat × Nat × Nat) := []
  retry : List (Nat × Nat × Nat × Nat) := []
  ranges : List (BitVec 256) := []
  /-- Children: offset of the image and largest group count. -/
  children : List (Nat × Nat) := []
  comms : List (Nat × Bool) := []
  relocs : List (Nat × Nat × Nat) := []
  syncs : List Sync := []
  data : List Byte := []
  bytes : List Byte := []
  deriving DecidableEq, Repr

/-- A collective of a launch: its communicator, what its first rank gave for operation, format and N, the ranks that have joined, the result
and whether a contribution was late of each chunk that has landed anywhere, and whether a rank has differed (12 R270). -/
structure CollRec where
  id : Nat
  comm : Nat
  oper : Nat
  fmt : Nat
  n : Nat
  joined : List Nat := []
  done : List (List (Byte × Bool) × Bool) := []
  failed : Bool := false
  deriving DecidableEq, Repr

/-- A launch (01 R19, R20). -/
structure Launch where
  live : Bool := false
  qidx : Nat := 0
  /-- Parent launch and index in its child table. -/
  parent : Option Nat := none
  child : Nat := 0
  /-- Completion counter of a child (12 R260). -/
  counter : Nat := 0
  /-- Packet that started it. -/
  packet : Nat := 0
  queue : Nat := 0
  die : Nat := 0
  cls : Nat := 3
  img : Nat := 0
  image : Image := {}
  root : Nat := 0
  ldb : Nat := 0
  reca : Nat := 0
  args : List Word := []
  ranges : List Range := []
  comm : Nat := 0
  /-- Communicators: a rank by team index × 1024 + team lane offset, none for an Ethernet peer. -/
  ranks : List (List (Option Nat)) := []
  /-- Collectives that ranks have begun, and at the boundary (12 R270, 18 R361). -/
  colls : List CollRec := []
  collsAt : List CollRec := []
  cohorts : Nat := 1
  placed : Nat := 0
  /-- Groups asked for by a child launch (22 R392). -/
  groups : Nat := 0
  paired : Bool := false
  prot : Bool := false
  rst : Bool := false
  excl : Bool := false
  policy : Nat := 0
  rtry : Nat := 3
  rollbacks : Nat := 0
  /-- Rollbacks since the last close (18 R356). -/
  sinceClose : Nat := 0
  halts : Nat := 0
  first : Option TrapReport := none
  /-- The policy of a halt is still to be applied, and the cycle in which it is due (24 R401). -/
  policyDue : Bool := false
  policyAt : Nat := 0
  /-- Device time of the first halt whose policy is due, and whether a device cause made it (18 R361). -/
  haltAt : Nat × Bool := (0, false)
  /-- A rollback has not yet brought back every team: the time from which it counts, and whether against the device (18 R361). -/
  rolledAt : Option (Nat × Bool) := none
  /-- Outcome so far (12 Table 12-4a OUT). -/
  out : Nat := 0
  /-- Interval current at its start, and the boundary's interval. -/
  interval0 : Nat := 0
  boundary : Nat := 0
  /-- Device time of its last boundary, for CKI. -/
  boundaryAt : Nat := 0
  started : Bool := false
  /-- A child of a protected launch has ended, and whether it had at the boundary (18 R355). -/
  finished : Bool := false
  finishedAt : Bool := false
  /-- Cohorts placed at the boundary (24 R398). -/
  placedAt : Nat := 0
  /-- Release sets of its groups that have ended: clusters and lines (11 R246). -/
  rset : List (Nat × Nat) := []
  /-- How far its release has come, and the requests that it waits for (11 R246). -/
  stage : Nat := 0
  wbs : List Nat := []
  /-- Bytes of the writable vault ranges at the boundary, by physical address, and the words of them that were poisoned (18 R358, R353). -/
  vault : List (Nat × Byte) := []
  vaultMarks : List Nat := []
  /-- Acquire field of the packet that started it. -/
  acqe : Bool := false
  acqs : Nat := 0
  deriving DecidableEq, Repr

/-! ### Queues, packets, quotations -/

/-- A command queue (12 R252, R256): the descriptor stands in memory. -/
structure Queue where
  live : Bool := false
  die : Nat := 0
  /-- Physical address of the descriptor. -/
  desc : Nat := 0
  root : Nat := 0
  cls : Nat := 3
  /-- Queue slot of the front end (13 R273). -/
  slot : Option Nat := none
  stopped : Bool := false
  /-- TAIL as last read, for the monitor wait of R303. -/
  tail : Word := 0
  /-- The monitor wait on TAIL has been hit (14 R303). -/
  hit : Bool := false
  /-- Packets taken and not completed, oldest first. -/
  packets : List Nat := []
  deriving DecidableEq, Repr

/-- A command packet that has been taken (12 Table 12-3). -/
structure Packet where
  live : Bool := false
  queue : Nat := 0
  die : Nat := 0
  seq : Word := 0
  type : Nat := 0
  cpa : Nat := 0
  acqe : Bool := false
  acqs : Nat := 0
  rele : Bool := false
  rels : Nat := 0
  ord : Bool := false
  /-- LEN of the packet. -/
  len : Nat := 1
  /-- The packet still stands at HEAD (13 R288). -/
  atHead : Bool := false
  body : List Byte := []
  started : Bool := false
  /-- A LAUNCH whose first cohort has no place yet: it has not started (13 R273, R283). -/
  placing : Bool := false
  /-- WAIT: the word's translation is held, and the word watched at this physical address (12 R256). CHECKPOINT and ROLLBACK: the close or the images are awaited. -/
  watching : Bool := false
  pa : Nat := 0
  /-- A translation event is pending since this time. -/
  eventAt : Option Nat := none
  deriving DecidableEq, Repr

/-- State of a quotation-table entry. -/
inductive QState where
  | free | quoted | accepted | running | done
  deriving DecidableEq, Repr

/-- The share of a plan on one die (16 Table 16-8). -/
structure Share where
  die : Nat
  cmask : BitVec 128
  floor : Nat
  cap : Nat
  excl : Bool
  maxc : Nat
  fabs : Nat
  hbmt : Nat
  lpt : Nat
  ways : Nat
  /-- Monitor entries held, and the slices they are held in (14 R291). -/
  mon : Nat
  slices : BitVec 32
  lslot : Nat
  tlbe : Nat
  pinq : Nat
  dust : Nat
  pwr : Nat
  deriving DecidableEq, Repr

/-- A quotation-table entry (16 Table 16-7), with what the QUOTE body named and the plan. -/
structure QEntry where
  state : QState := .free
  digest : List Byte := []
  ddl : Nat := 0
  vdl : Nat := 0
  tmax : Nat := 0
  emax : Nat := 0
  qslot : Nat := 0
  qdie : Nat := 0
  cls : Nat := 0
  lvl : Nat := 0
  pair : Bool := false
  prot : Bool := false
  rst : Bool := false
  excl : Bool := false
  brc : Nat := 0
  party : Nat := 0
  tstart : Nat := 0
  svc : Nat := 0
  /-- NRG in nJ (17 R346). -/
  nrg : Nat := 0
  reca : Nat := 0
  /-- QUOTE body kept for the launch. -/
  img : Nat := 0
  root : Nat := 0
  ldb : Nat := 0
  cohn : Nat := 0
  val : Nat := 0
  cki : Nat := 0
  rls : Nat := 0
  comm : Nat := 0
  args : List Word := []
  maxc : Nat := 0
  /-- Issue cycles of live DL reservations that the walk has counted on each quarter (16 Table 16-4, R330). -/
  dl : List Nat := []
  plan : List Share := []
  /-- Breach causes logged, code and device time, at most four. -/
  causes : List (Nat × Nat) := []
  /-- Service time stands still (13 R274). -/
  paused : Bool := false
  /-- Time in ns from halts to relaunches that counts against the device, and against the caller (18 R361, 16 R334). -/
  deviceTime : Nat := 0
  callerTime : Nat := 0
  /-- Core time the walk charged to a team in ns, and for each group, by offset, the packets it charged (13 R283). -/
  tteam : Nat := 0
  qpackets : List (Nat × Nat) := []
  /-- Issue cycles quoted on each quarter of a cluster (16 Table 16-4). -/
  issue : List Nat := []
  /-- The same of each child, by its index in the child table. -/
  kids : List (Nat × Nat × List (Nat × Nat)) := []
  deriving DecidableEq, Repr

/-- A reservation-table entry of one die (16 Table 16-8): the share and its context. -/
structure REntry where
  live : Bool := false
  qidx : Nat := 0
  share : Option Share := none
  /-- L2 ways granted in the die's slices. -/
  wayMask : Nat := 0
  deriving DecidableEq, Repr

/-! ### Dies, reliability, time -/

/-- A stream filter of a port (20 R386). -/
structure Filter where
  live : Bool := false
  mac : BitVec 48 := 0
  ethertype : BitVec 16 := 0
  /-- The filter matches a UDP port and no MAC address. -/
  byPort : Bool := false
  udp : BitVec 16 := 0
  /-- Physical address of the ingress ring descriptor. -/
  ring : Nat := 0
  deriving DecidableEq, Repr

/-- Front end and firmware of a die. -/
structure Die where
  fepc : Word := 0
  fcause : Word := 0
  fvec : Word := 0
  fev : Word := 0
  /-- Readiness word (20 Table 20-2). -/
  ready : Dword := 0
  /-- Capability list, 60 KiB. -/
  caps : Tab Byte := []
  /-- Root of the firmware's address space (15 R308). -/
  fwRoot : Nat := 0
  disabled : BitVec 128 := 0
  fwSite : Nat := 0
  /-- Mailbox slots and descriptor (20 Table 20-1). -/
  mailbox : Tab Byte := []
  mbHead : Word := 0
  mbTail : Word := 0
  tlb : List TlbEntry := []
  filters : Tab Filter := []
  /-- Queue slot whose LAUNCH packet each class has started last (13 R273). -/
  turns : Tab Nat := []
  /-- Operator overhead meter, 10⁻⁴ pJ (17 R346). -/
  overhead : Nat := 0
  /-- Record key: next leaf and keys used (20 R390). -/
  leaf : Nat := 0
  keys : Nat := 0
  /-- Spill list region (14 R298), undercoat region. -/
  spillBase : Nat := 0
  deriving DecidableEq, Repr

/-- An undo record of the dust sheet (18 R358). -/
structure UndoRec where
  line : Nat
  qidx : Nat
  interval : Nat
  seq : Nat
  bytes : List Byte
  poison : BitVec 4
  /-- The launch that it was logged for has given way to another one under the same index (24 R398). -/
  spent : Bool := false
  deriving DecidableEq, Repr

/-- The dust-sheet part of one HBM stack. -/
structure Dust where
  /-- Newest first. -/
  recs : List UndoRec := []
  fill : Nat := 0
  requested : Bool := false
  deriving DecidableEq, Repr

/-- Module-wide reliability state (18 R357 to R362). -/
structure Reliability where
  interval : Nat := 0
  unrecoverable : Bool := false
  closeDue : Bool := false
  /-- A close has stopped the protected launches (18 R360), how far its write-backs have come, and the requests that they wait for. -/
  closing : Bool := false
  stage : Nat := 0
  wbs : List Nat := []
  /-- Physical base of the undercoat region, if set. -/
  undercoat : Option Nat := none
  undercoatBusy : Bool := false
  undercoatTaken : Bool := false
  /-- The dust sheet as the undercoat holds it (18 R362). -/
  coatDust : Tab Dust := []
  deriving DecidableEq, Repr

/-- PTP and device time (20 R387, R388). -/
structure Ptp where
  stepped : Bool := false
  locked : Bool := false
  master : Bool := false
  /-- Port chosen by best-master selection. -/
  port : Nat := 0
  offset : Int := 0
  /-- Offset still to be slewed. -/
  slew : Int := 0
  /-- The offset lies within 50 ns, and the device time since which it lies there, or beyond (20 R387). -/
  near : Bool := false
  since : Nat := 0
  deriving DecidableEq, Repr

/-- What the outside has seen (model field, log 8). -/
structure Outside where
  /-- Host reads: address and bytes, newest first. -/
  reads : List (Nat × List Byte) := []
  /-- Host writes acknowledged. -/
  writes : Nat := 0
  /-- Egress: port and bytes, newest first. -/
  egress : List (Nat × List Byte) := []
  /-- PTP event messages sent: port, and the seconds and nanoseconds of the timestamp. -/
  sent : List (Nat × Nat × Nat) := []
  deriving DecidableEq, Repr

/-- What the words of one packet read (03 R39): the group and the latches of its quarter as they stand before the packet. -/
structure IssueView where
  group : Group
  latches : Tab Latch
  deriving DecidableEq, Repr

/-- The move under way (model field, log 6). -/
structure Cursor where
  /-- Group, strand and word of the packet. -/
  group : Nat := 0
  strand : Nat := 0
  word : Nat := 0
  view : Option IssueView := none
  /-- The trap that the word has raised. -/
  trap : Option TrapReport := none
  /-- The word missed a TLB and its packet has no effect yet. -/
  miss : Bool := false
  /-- A BR word has set the strand's PC. -/
  moved : Bool := false
  deriving DecidableEq, Repr

/-- The machine. -/
structure State where
  cur : Cursor := {}
  /-- Groups by resident slot: ((die × 128 + site) × 4 + quarter) × 16 + slot. -/
  groups : Tab Group := []
  clusters : Tab Cluster := []
  /-- Cycles that every cluster's clock has counted whether or not the cluster has a record; its own are counted above these (08 R177). -/
  quiet : Dword := 0
  teams : Tab Team := []
  launches : Tab Launch := []
  ops : Tab Op := []
  reqs : Tab Req := []
  walks : Tab Walk := []
  rdvs : Tab Rdv := []
  /-- Slices by die × 32 + number. -/
  slices : Tab Slice := []
  dies : Tab Die := []
  /-- HBM, LPDDR6 and vault bytes by physical address. -/
  mem : Memory := []
  /-- Poison marks: sectors of global memory by PA / 64. -/
  sectorPoison : Tab Bool := []
  /-- Poison marks of vault words by PA / 4. -/
  vaultPoison : Tab Bool := []
  queues : Tab Queue := []
  packets : Tab Packet := []
  quotes : Tab QEntry := []
  /-- Reservations by die × 4096 + quotation index. -/
  resv : Tab REntry := []
  dust : Tab Dust := []
  rel : Reliability := {}
  ptp : Ptp := {}
  /-- Device time in ns (20 R388). -/
  time : Dword := 0
  /-- Power cap in W (01 R22). -/
  cap : Nat := 5200
  /-- Firmware image that the next reset applies, and the firmware version. -/
  staged : Option (List Byte) := none
  fwVersion : Nat := 0
  fwFloor : Nat := 0
  outside : Outside := {}
  /-- What the outside brings, in the order it may come (log 5). -/
  inputs : List Instr := []
  /-- Model field: counter that free values are applied to (log 4). -/
  free : Nat := 0
  /-- Model field: next serial number of a group. -/
  nextUid : Nat := 1
  deriving DecidableEq, Repr

/-- A die after power-on: sites 121 to 127 disabled and site 120 the firmware's (DESIGN CHOICE, log 7). -/
def resetDie : Die :=
  { disabled := BitVec.ofNat 128 (2 ^ 128 - 2 ^ 121), fwSite := 120 }

/-- The machine right after power-on reset. -/
def State.reset : State :=
  { dies := [(0, resetDie), (1, resetDie), (2, resetDie), (3, resetDie)] }

end Sys2Proof.Machine
end

