-- ==== Sys2Proof/Machine/Ops.lean ====
section
/-! DEFINITION. The named operations: keys and accessors, lane registers and G registers, bytes of memory, energy, halting a group and
taking a trap, the return from one. -/

namespace Sys2Proof.Machine

/-- The outcome of a step of this machine. -/
abbrev Outcome := Host.Outcome State Fault Refusal

/-! ### Keys -/

/-- Key of a cluster (01 R14): 128 × die + site. -/
def clusterKey (die site : Nat) : Nat := die * 128 + site
/-- Key of a resident-group slot. -/
def groupKey (cl q slot : Nat) : Nat := (cl * 4 + q) * 16 + slot
/-- Cluster of a group key. -/
def clusterOf (gk : Nat) : Nat := gk / 64
/-- Quarter of a group key. -/
def quarterOf (gk : Nat) : Nat := gk / 16 % 4
/-- Slot within the quarter of a group key. -/
def slotOf (gk : Nat) : Nat := gk % 16
/-- Die of a cluster key. -/
def dieOf (cl : Nat) : Nat := cl / 128
/-- Site of a cluster key. -/
def siteOf (cl : Nat) : Nat := cl % 128

/-! ### Accessors -/

/-- The group in a slot; a vacant one has live = false. -/
def State.group (s : State) (gk : Nat) : Group := s.groups.get {} gk
/-- The state with a group replaced. -/
def State.setGroup (s : State) (gk : Nat) (g : Group) : State := { s with groups := s.groups.set {} gk g }
/-- The state with a group changed. -/
def State.modGroup (s : State) (gk : Nat) (f : Group → Group) : State := s.setGroup gk (f (s.group gk))
/-- A cluster. -/
def State.cluster (s : State) (cl : Nat) : Cluster := s.clusters.get {} cl
/-- The state with a cluster replaced. -/
def State.setCluster (s : State) (cl : Nat) (c : Cluster) : State := { s with clusters := s.clusters.set {} cl c }
/-- The state with a cluster changed. -/
def State.modCluster (s : State) (cl : Nat) (f : Cluster → Cluster) : State := s.setCluster cl (f (s.cluster cl))
/-- A team. -/
def State.team (s : State) (t : Nat) : Team := s.teams.get {} t
/-- The state with a team replaced. -/
def State.setTeam (s : State) (t : Nat) (v : Team) : State := { s with teams := s.teams.set {} t v }
/-- The state with a team changed. -/
def State.modTeam (s : State) (t : Nat) (f : Team → Team) : State := s.setTeam t (f (s.team t))
/-- A launch. -/
def State.launch (s : State) (l : Nat) : Launch := s.launches.get {} l
/-- The state with a launch replaced. -/
def State.setLaunch (s : State) (l : Nat) (v : Launch) : State := { s with launches := s.launches.set {} l v }
/-- The state with a launch changed. -/
def State.modLaunch (s : State) (l : Nat) (f : Launch → Launch) : State := s.setLaunch l (f (s.launch l))
/-- An operation in flight. -/
def State.op (s : State) (k : Nat) : Op := s.ops.get {} k
/-- The state with an operation replaced. -/
def State.setOp (s : State) (k : Nat) (v : Op) : State := { s with ops := s.ops.set {} k v }
/-- A request in flight. -/
def State.req (s : State) (k : Nat) : Req := s.reqs.get {} k
/-- The state with a request replaced. -/
def State.setReq (s : State) (k : Nat) (v : Req) : State := { s with reqs := s.reqs.set {} k v }
/-- A slice. -/
def State.slice (s : State) (k : Nat) : Slice := s.slices.get {} k
/-- The state with a slice replaced. -/
def State.setSlice (s : State) (k : Nat) (v : Slice) : State := { s with slices := s.slices.set {} k v }
/-- The state with a slice changed. -/
def State.modSlice (s : State) (k : Nat) (f : Slice → Slice) : State := s.setSlice k (f (s.slice k))
/-- A die. -/
def State.die (s : State) (k : Nat) : Die := s.dies.get {} k
/-- The state with a die replaced. -/
def State.setDie (s : State) (k : Nat) (v : Die) : State := { s with dies := s.dies.set {} k v }
/-- The state with a die changed. -/
def State.modDie (s : State) (k : Nat) (f : Die → Die) : State := s.setDie k (f (s.die k))
/-- A quotation-table entry. -/
def State.quote (s : State) (k : Nat) : QEntry := s.quotes.get {} k
/-- The state with a quotation-table entry replaced. -/
def State.setQuote (s : State) (k : Nat) (v : QEntry) : State := { s with quotes := s.quotes.set {} k v }
/-- The state with a quotation-table entry changed. -/
def State.modQuote (s : State) (k : Nat) (f : QEntry → QEntry) : State := s.setQuote k (f (s.quote k))
/-- A quarter of a cluster. -/
def State.quarter (s : State) (cl q : Nat) : Quarter := (s.cluster cl).quarters.get {} q
/-- The state with a quarter changed. -/
def State.modQuarter (s : State) (cl q : Nat) (f : Quarter → Quarter) : State :=
  s.modCluster cl fun c => { c with quarters := c.quarters.update {} q f }

/-- The strand of a group. -/
def Group.strand (g : Group) (k : Nat) : Strand := g.strands.get {} k
/-- The group with a strand replaced. -/
def Group.setStrand (g : Group) (k : Nat) (v : Strand) : Group := { g with strands := g.strands.set {} k v }
/-- Numbers of the live strands, rising. -/
def Group.liveStrands (g : Group) : List Nat := (List.range 4).filter fun k => (g.strand k).live

/-- The group whose packet is moving, as it stands. -/
def State.me (s : State) : Group := s.group s.cur.group
/-- The moving group as its packet reads it: before any word of the packet has written (R39). -/
def State.seen (s : State) : Group := match s.cur.view with | some v => v.group | none => s.me
/-- The latches of the moving group's quarter, as its packet reads them. -/
def State.seenLatch (s : State) (k : Nat) : Latch :=
  match s.cur.view with
  | some v => v.latches.get {} k
  | none => (s.quarter (clusterOf s.cur.group) (quarterOf s.cur.group)).latches.get {} k
/-- The moving strand, as its packet reads it. -/
def State.str (s : State) : Strand := s.seen.strand s.cur.strand
/-- The state with the moving group changed. -/
def State.modMe (s : State) (f : Group → Group) : State := s.modGroup s.cur.group f
/-- The state with the moving strand changed. -/
def State.modStr (s : State) (f : Strand → Strand) : State :=
  s.modMe fun g => g.setStrand s.cur.strand (f (g.strand s.cur.strand))
/-- Cluster of the moving group. -/
def State.myCluster (s : State) : Nat := clusterOf s.cur.group
/-- Cycles of a cluster's clock. -/
def State.clk (s : State) (cl : Nat) : Nat := (s.quiet + (s.cluster cl).clk).toNat

/-! ### Code addresses (03 R47) -/

/-- Slot of a code address. -/
def pcSlot (w : Word) : Nat := w.toNat / 2048 % 64
/-- Block of a code address. -/
def pcBlk (w : Word) : Nat := w.toNat / 64 % 32
/-- Packet index of a code address: offsets 0 and 4 name packet 0. -/
def pcPk (w : Word) : Nat := (w.toNat % 64 - 4) / 12
/-- A packet offset. -/
def pcOffOk (off : Nat) : Bool := off == 0 || off == 4 || off == 16 || off == 28 || off == 40 || off == 52
/-- A valid code address. -/
def pcValid (w : Word) : Bool := decide (w.toNat < 131072) && pcOffOk (w.toNat % 64)
/-- A valid code address that names a block start. -/
def pcBlockStart (w : Word) : Bool := decide (w.toNat < 131072) && w.toNat % 64 == 0
/-- The code address of a packet. -/
def pcOf (slot blk pk : Nat) : Word := BitVec.ofNat 32 (slot * 2048 + blk * 64 + 4 + 12 * pk)
/-- Two code addresses name one packet. -/
def pcSame (a b : Word) : Bool :=
  a == b || (pcValid a && pcValid b && a.toNat / 64 == b.toNat / 64 && pcPk a == pcPk b)

/-! ### Numbers and bytes -/

/-- A number from bytes, lowest first (00 R3). -/
def leNat : List Byte → Nat
  | [] => 0
  | b :: t => b.toNat + 256 * leNat t
/-- The n low bytes of a number, lowest first. -/
def toBytes : Nat → Nat → List Byte
  | 0, _ => []
  | n + 1, v => BitVec.ofNat 8 v :: toBytes n (v / 256)
/-- n bytes of a table from a key up, as a number. -/
def Tab.readLe (t : Tab Byte) (a : Nat) : Nat → Nat
  | 0 => 0
  | n + 1 => (Tab.get 0 a t).toNat + 256 * Tab.readLe t (a + 1) n
/-- A table with n bytes of a number written from a key up. -/
def Tab.writeLe (t : Tab Byte) (a : Nat) : Nat → Nat → Tab Byte
  | 0, _ => t
  | n + 1, v => Tab.writeLe (Tab.set 0 a (BitVec.ofNat 8 v) t) (a + 1) n (v / 256)
/-- A table with bytes written from a key up. -/
def Tab.writeList (t : Tab Byte) (a : Nat) : List Byte → Tab Byte
  | [] => t
  | b :: l => Tab.writeList (Tab.set 0 a b t) (a + 1) l
/-- n bytes of a table from a key up. -/
def Tab.readList (t : Tab Byte) (a n : Nat) : List Byte := (List.range n).map fun i => Tab.get 0 (a + i) t

/-- Bits [hi:lo] of a number. -/
def bits (n hi lo : Nat) : Nat := n / 2 ^ lo % 2 ^ (hi + 1 - lo)
/-- The two's complement value of the low w bits. -/
def sint (w n : Nat) : Int := if n % 2 ^ w < 2 ^ (w - 1) then (n % 2 ^ w : Nat) else (n % 2 ^ w : Nat) - (2 ^ w : Nat)
/-- The number of 1 bits of a mask. -/
def popcount (m : LaneMask) : Nat := ((List.range 64).filter fun i => m.getLsbD i).length
/-- The lanes of a mask, rising. -/
def lanesOf (m : LaneMask) : List Nat := (List.range 64).filter fun i => m.getLsbD i
/-- The mask of lanes 0 to w − 1. -/
def fullMask (w : Nat) : LaneMask := BitVec.ofNat 64 (2 ^ w - 1)

/-! ### Lane registers, G registers, predicates -/

/-- First byte of Vn in the lane space (05 R82). -/
def Group.vAt (g : Group) (n : Nat) : Nat := g.vwv.toNat + 4 * n
/-- First byte of Tn. -/
def Group.tAt (g : Group) (n : Nat) : Nat := g.vwt.toNat + 32 * n
/-- First byte of An. -/
def Group.aAt (g : Group) (n : Nat) : Nat := g.vwa.toNat + 128 * n
/-- n bytes of a lane's space as a number. -/
def Group.readLane (g : Group) (lane b n : Nat) : Nat := Tab.readLe g.lanes (lane * 1024 + b) n
/-- The group with n bytes of a lane's space written. -/
def Group.writeLane (g : Group) (lane b n v : Nat) : Group :=
  { g with lanes := Tab.writeLe g.lanes (lane * 1024 + b) n v }
/-- Register Vn of a lane. -/
def Group.vreg (g : Group) (lane n : Nat) : Word := BitVec.ofNat 32 (g.readLane lane (g.vAt n) 4)
/-- The pair V(n+1):V(n) of a lane. -/
def Group.vpair (g : Group) (lane n : Nat) : Dword := BitVec.ofNat 64 (g.readLane lane (g.vAt n) 8)
/-- Register G(n). -/
def Group.greg (g : Group) (n : Nat) : Word := g.g.get 0 n
/-- The pair G(n+1):G(n). -/
def Group.gpair (g : Group) (n : Nat) : Dword := g.greg (n + 1) ++ g.greg n
/-- The group with G(n) written. -/
def Group.setG (g : Group) (n : Nat) (v : Word) : Group := { g with g := g.g.set 0 n v }
/-- The group with a pair of G registers written, low word first. -/
def Group.setGPair (g : Group) (n : Nat) (v : Dword) : Group :=
  (g.setG n (v.truncate 32)).setG (n + 1) ((v >>> 32).truncate 32)
/-- Predicate Pn. -/
def Group.pred (g : Group) (n : Nat) : LaneMask := g.p.get 0 n
/-- The group with Pn replaced. -/
def Group.setPred (g : Group) (n : Nat) (v : LaneMask) : Group := { g with p := g.p.set 0 n v }
/-- The group with Pn written in the lanes of a mask alone (05 R85). -/
def Group.writePred (g : Group) (n : Nat) (mask v : LaneMask) : Group :=
  g.setPred n ((g.pred n &&& ~~~ mask) ||| (v &&& mask))
/-- Bit GPn. -/
def Group.gpred (g : Group) (n : Nat) : Bool := g.gp.getLsbD n
/-- The group with GPn written. -/
def Group.setGPred (g : Group) (n : Nat) (v : Bool) : Group :=
  { g with gp := if v then g.gp ||| ((1 : BitVec 8) <<< n) else g.gp &&& ~~~ ((1 : BitVec 8) <<< n) }
/-- The group with n bytes written in every lane of a list, all together (05 R83). -/
def Group.writeLanes (g : Group) (b n : Nat) (f : Nat → Nat) : List Nat → Group
  | [] => g
  | i :: t => (g.writeLane i b n (f i)).writeLanes b n f t

/-! ### Memory -/

/-- The canonical form of memory. -/
def Memory.wf (m : Memory) : Bool := Tab.wf 0 m
/-- The byte at a physical address. -/
def State.memByte (s : State) (pa : Nat) : Byte := s.mem.get 0 pa
/-- The state with a byte of memory written. -/
def State.setMemByte (s : State) (pa : Nat) (b : Byte) : State := { s with mem := s.mem.set 0 pa b }
/-- The state with bytes of memory written. -/
def State.writeMem (s : State) (pa : Nat) (l : List Byte) : State := { s with mem := Tab.writeList s.mem pa l }
/-- n bytes of memory. -/
def State.readMem (s : State) (pa n : Nat) : List Byte := Tab.readList s.mem pa n

/-- What a physical address is (09 Table 9-2). -/
inductive Region where
  | hbm (stack : Nat) | dustSheet (stack : Nat) | lpddr (channel : Nat) | vault (die n : Nat) | imageArea | device | hole
  deriving DecidableEq, Repr

/-- The region of a physical address (09 Table 9-2); GB are powers of 1,000 (00 R4). -/
def regionOf (pa : Nat) : Region :=
  if pa < 0x030000000000 then
    if pa % 0x2000000000 < 93000000000 then .hbm (pa / 0x2000000000)
    else if pa % 0x2000000000 < 96000000000 then .dustSheet (pa / 0x2000000000) else .hole
  else if pa < 0x040000000000 then .hole
  else if pa < 0x070000000000 then
    if (pa - 0x040000000000) % 0x1000000000 < 64000000000 then .lpddr ((pa - 0x040000000000) / 0x1000000000) else .hole
  else if pa < 0x080000000000 then .hole
  else if pa < 0x080200000000 then
    let w := (pa - 0x080000000000) / 0x4000000
    let o := (pa - 0x080000000000) % 0x4000000
    if o < 0x2A00000 then .vault (w / 32) (w % 32) else if o < 0x3000000 then .imageArea else .hole
  else if pa < 0x0F0000000000 then .hole
  else if pa < 0x100000000000 then .device
  else .hole

/-- Home die of a line of global memory (09 Table 9-2). -/
def homeDie (pa : Nat) : Nat :=
  match regionOf pa with
  | .hbm k => k / 6
  | .dustSheet k => k / 6
  | .lpddr c => c / 12
  | .vault d _ => d
  | _ => 0
/-- Slice number of a line (09 R185). -/
def sliceNo (pa : Nat) : Nat := (bits pa 12 8) ^^^ (bits pa 17 13)
/-- Set of a line within its slice (09 R185). -/
def setNo (pa : Nat) : Nat := bits pa 24 13
/-- Key of the home slice. -/
def homeSlice (pa : Nat) : Nat := homeDie pa * 32 + sliceNo pa
/-- Global memory: HBM or LPDDR6 for programs. -/
def isGlobal (pa : Nat) : Bool := match regionOf pa with | .hbm _ => true | .lpddr _ => true | _ => false
/-- A vault address for programs. -/
def isVault (pa : Nat) : Bool := match regionOf pa with | .vault _ _ => true | _ => false

/-- Poison mark of the 64-byte sector of a global address, in memory. -/
def State.memPoison (s : State) (pa : Nat) : Bool := s.sectorPoison.get false (pa / 64)
/-- The state with a sector's mark in memory set or cleared. -/
def State.setMemPoison (s : State) (sector : Nat) (b : Bool) : State :=
  { s with sectorPoison := s.sectorPoison.set false sector b }

/-! ### Energy (17 R346): unit 10⁻⁴ pJ -/

/-- The dynamic factor of a level, in hundredths (00 R6). -/
def levelFactor (lvl : Nat) : Nat := if lvl == 0 then 56 else if lvl == 1 then 100 else 127
/-- The highest vote among strands, none when every vote is withdrawn (08 R175). -/
def Group.vote (g : Group) : Option Nat :=
  (g.liveStrands.map fun k => (g.strand k).vote).foldl (fun m v => if v == 3 then m else some (max v (m.getD 0))) none
/-- Groups resident on a cluster, with their keys. -/
def State.groupsOn (s : State) (cl : Nat) : List (Nat × Group) := s.groups.filter fun e => e.2.live && clusterOf e.1 == cl
/-- The level that a quotation caps a context's vote at; firmware has no reservation. -/
def State.levelCap (s : State) (qidx : Nat) : Nat := if qidx == 0xFFF then 2 else (s.quote qidx).lvl
/-- A context's vote on a cluster, capped (08 R175). -/
def State.contextVote (s : State) (cl qidx : Nat) : Option Nat :=
  (s.groupsOn cl).foldl (fun m e => if e.2.place.qidx == qidx then
    match e.2.vote with | some v => some (max (min v (s.levelCap qidx)) (m.getD 0)) | none => m else m) none
/-- The highest level floor that a DL reservation holds on a cluster (08 R175, 16 Table 16-8). -/
def State.levelFloor (s : State) (cl : Nat) : Nat :=
  s.resv.foldl (fun m (k, e) => if k / 4096 == dieOf cl && e.live && (s.quote e.qidx).cls == 0 then
    match e.share with | some h => if h.cmask.getLsbD (siteOf cl) then max m h.floor else m | none => m else m) 0
/-- The level that votes and floors give a cluster (08 R175). -/
def State.wantedLevel (s : State) (cl : Nat) : Nat :=
  (s.groupsOn cl).foldl (fun m e => max m ((s.contextVote cl e.2.place.qidx).getD 0)) (s.levelFloor cl)
/-- A vote that has been cast: its capped level, when it was cast, and the context. -/
structure Cast where
  lvl : Nat
  at' : Nat
  qidx : Nat
  deriving DecidableEq, Repr

/-- A vote comes before another: higher, or cast earlier at the same level. -/
def Cast.above (c d : Cast) : Bool := decide (d.lvl < c.lvl) || (c.lvl == d.lvl && decide (c.at' < d.at'))

/-- The context whose vote set the level of a cluster: the highest capped vote, among equal ones the earliest cast (08 R176). A level that no
vote reaches, such as a floor's, has none. DESIGN CHOICE: of equal votes cast at one nanosecond the first by group key and strand number
counts (log 72). -/
def State.levelSetter (s : State) (cl : Nat) : Option Nat :=
  let casts := (s.groupsOn cl).flatMap fun e => e.2.liveStrands.filterMap fun k =>
    let st := e.2.strand k
    if st.vote == 3 then none
    else some { lvl := min st.vote (s.levelCap e.2.place.qidx), at' := st.voteAt, qidx := e.2.place.qidx : Cast }
  match casts.foldl (fun (m : Option Cast) c => match m with
    | none => some c
    | some d => if c.above d then some c else m) none with
  | some c => if (s.cluster cl).power.level ≤ c.lvl then some c.qidx else none
  | none => none

/-- The entries of a window of 100 ns that still count. -/
def recent (now : Nat) (w : Tab Nat) : Tab Nat := w.filter fun e => decide (now < e.1 / 8192 + 100)

/-- Energy added to one meter of a cluster. -/
def State.addMeter (s : State) (cl qidx e : Nat) : State :=
  let now := s.time.toNat
  s.modCluster cl fun c =>
    { c with meters := c.meters.update 0 qidx (· + e)
             power := { c.power with window := (recent now c.power.window).update 0 (now * 8192 + qidx) (· + e) } }

/-- The state with energy charged to a context's meter on a cluster, scaled by the cluster's level. What the context spends beyond its own
capped vote goes to the context whose vote set the level (08 R176). -/
def State.charge (s : State) (cl qidx amount : Nat) : State :=
  let lvl := (s.cluster cl).power.level
  let e := amount * levelFactor lvl / 100
  let own := amount * levelFactor (min lvl ((s.contextVote cl qidx).getD 0)) / 100
  match s.levelSetter cl with
  | some x => if x == qidx then s.addMeter cl qidx e else (s.addMeter cl qidx own).addMeter cl x (e - own)
  | none => s.addMeter cl qidx e
/-- Energy charged to the moving group's context. -/
def State.chargeMe (s : State) (amount : Nat) : State := s.charge s.myCluster s.me.place.qidx amount
/-- Energy charged to a die's operator overhead meter. -/
def State.chargeOverhead (s : State) (die amount : Nat) : State :=
  s.modDie die fun d => { d with overhead := d.overhead + amount }

/-- Energy of n bytes of memory behind L2. -/
def tierCost (pa n : Nat) : Nat := match regionOf pa with | .lpddr _ => n * 280000 | _ => n * 190000
/-- Energy added to a meter of a cluster at the factor of the cluster's level (00 R6). -/
def State.addScaled (s : State) (cl qidx amount : Nat) : State :=
  s.addMeter cl qidx (amount * levelFactor (s.cluster cl).power.level / 100)
/-- Energy of a write-back of a line's bytes from a slice, charged to its owner tag: on a cluster where the context has a team, or, where the
tag names no live context, to the die's overhead meter (09 R200). The level is that cluster's; of a slice's own write-back without a live
context it is M, for no cluster is concerned (DESIGN CHOICE, log 83). -/
def State.chargeTag (s : State) (die qidx amount : Nat) : State :=
  match s.teams.find fun _ t => t.live && (s.launch t.launch).qidx == qidx with
  | some (_, t) => if (s.quote qidx).state == .running then s.addScaled t.cluster qidx amount else s.chargeOverhead die amount
  | none => if qidx == 0xFFF then s.addScaled (clusterKey die (s.die die).fwSite) 0xFFF amount else s.chargeOverhead die amount
/-- Energy of a write-back that a cluster has sent, at that cluster's level (00 R6): to the owner tag's meter there, or, where the tag names no
live context, to the overhead meter of its die (09 R200). -/
def State.chargeWb (s : State) (cl qidx amount : Nat) : State :=
  if qidx == 0xFFF || (s.quote qidx).state == .running then s.addScaled cl qidx amount
  else s.chargeOverhead (dieOf cl) (amount * levelFactor (s.cluster cl).power.level / 100)

/-! ### Path counters (17 R336) -/

/-- The value of a path's counter: operations issued and not yet retired. -/
def Group.counter (g : Group) (path : Nat) : Nat := (g.paths.filter fun o => o.path == path).length
/-- Drop completed operations that head their path. -/
def retirePaths (path : Nat) : List PathOp → List PathOp
  | [] => []
  | o :: t => if o.path == path then (if o.done then retirePaths path t else o :: t) else o :: retirePaths path t
/-- The group with an operation of a path completed: the counter falls when the oldest one completes, and the first fall that meets the
condition of a `WAITC` ends its wait (17 R338). -/
def Group.completeOp (g : Group) (path op : Nat) : Group :=
  let g := { g with paths := retirePaths path (g.paths.map fun (o : PathOp) => if o.op == op then { o with done := true } else o) }
  match g.wait with
  | .counter p t => if g.counter p ≤ t then { g with wait := .none } else g
  | _ => g
/-- The group with an operation of a strand added to a path. -/
def Group.raise (g : Group) (path op k : Nat) : Group :=
  { g with paths := g.paths ++ [{ path := path, op := op, done := false, strand := k }] }
/-- Operations that a strand has issued and that have not completed. -/
def Group.openOps (g : Group) (k : Nat) : List Nat := (g.paths.filter fun o => !o.done && o.strand == k).map PathOp.op
/-- Path codes of Table 3-6a. -/
def pGLOB : Nat := 0
/-- SCR. -/
def pSCR : Nat := 1
/-- VLT. -/
def pVLT : Nat := 2
/-- CODE. -/
def pCODE : Nat := 3
/-- COPY. -/
def pCOPY : Nat := 4
/-- GATH. -/
def pGATH : Nat := 5
/-- MMA. -/
def pMMA : Nat := 6
/-- COLL. -/
def pCOLL : Nat := 7
/-- MSG. -/
def pMSG : Nat := 8

/-- An operation of the moving group put at a key. It raises its path. -/
def State.placeOp (s : State) (k : Nat) (o : Op) : State :=
  let o := { o with live := true, group := s.cur.group, uid := s.me.uid, cluster := s.myCluster, team := s.me.place.team,
                    qidx := s.me.place.qidx, pc := s.str.pc, word := s.cur.word }
  { s with ops := s.ops.set {} k o }.modMe fun g => g.raise o.path k s.cur.strand
/-- The state with a new operation of the moving group, and its key. -/
def State.newOp (s : State) (o : Op) : State × Nat := (s.placeOp s.ops.fresh o, s.ops.fresh)

/-- A word of the moving group that completes as it issues: its counter rises, and it falls once the older operations of the path have
completed (17 R336). -/
def State.pulse (s : State) (path : Nat) : State :=
  s.modMe fun g => (g.raise path 0 s.cur.strand).completeOp path 0

/-- The group that issued an operation is still the one in its slot. -/
def State.opAlive (s : State) (o : Op) : Bool :=
  o.live && (s.group o.group).live && (s.group o.group).uid == o.uid

/-- The state with an operation ended: its path completes and its record goes. -/
def State.endOp (s : State) (k : Nat) : State :=
  let o := s.op k
  let s := s.setOp k {}
  if s.opAlive o then s.modGroup o.group fun g => g.completeOp o.path k else s

/-- A new request in flight, and its key. -/
def State.newReq (s : State) (r : Req) : State × Nat :=
  let k := s.reqs.fresh
  ({ s with reqs := s.reqs.set {} k { r with live := true } }, k)

/-! ### Scratchpad (09 R188, 18 R353) -/

/-- The image of a launch, as placed. -/
def State.imageOf (s : State) (l : Nat) : Image := (s.launch l).image
/-- The first byte of the team control block (12 R259). -/
def Team.tcb (t : Team) : Nat := t.size - 16
/-- n bytes of a team's scratchpad as a number. -/
def Team.read (t : Team) (a n : Nat) : Nat := Tab.readLe t.scratch a n
/-- The team with n bytes of its scratchpad written. -/
def Team.write (t : Team) (a n v : Nat) : Team := { t with scratch := Tab.writeLe t.scratch a n v }
/-- A poison mark on any word that n bytes from a touch. -/
def Team.poisoned (t : Team) (a n : Nat) : Bool :=
  (List.range ((a + n - 1) / 4 + 1 - a / 4)).any fun i => t.poison.get false (a / 4 + i)

/-! ### Comparing a watched word (03 R55) -/

/-- The wait condition of format W: memory value CMP operand, on 32 or 64 bits. -/
def waitCond (cmp : Nat) (sz : Bool) (v o : Nat) : Bool :=
  let w := if sz then 64 else 32
  let v := v % 2 ^ w
  let o := o % 2 ^ w
  match cmp with
  | 0 => v == o
  | 1 => v != o
  | 2 => decide (sint w v < sint w o)
  | 3 => decide (sint w o ≤ sint w v)
  | 4 => decide (v < o)
  | 5 => decide (o ≤ v)
  | 6 => v &&& o != 0
  | _ => v &&& o == 0

/-! ### The home slice (09 R192 to R195, 11 R236 to R239) -/

/-- Sector number of a byte of a line. -/
def sectorOf (i : Nat) : Nat := i / 64
/-- The mask of one sector of a line. -/
def sectorMask (k : Nat) : BitVec 256 := BitVec.ofNat 256 ((2 ^ 64 - 1) * 2 ^ (64 * k))
/-- The mask covers a whole sector. -/
def coversSector (m : BitVec 256) (k : Nat) : Bool := m &&& sectorMask k == sectorMask k
/-- The byte positions of a mask. -/
def bytesOf (m : BitVec 256) : List Nat := (List.range 256).filter fun i => m.getLsbD i

/-- The poison marks of the sectors that a byte mask touches. -/
def touched (mask : BitVec 256) (poison : BitVec 4) : BitVec 4 :=
  (List.range 4).foldl (fun m k => if mask &&& sectorMask k != 0 && poison.getLsbD k then m ||| (1#4 <<< k) else m) 0

/-- An L2 line. -/
def Slice.line (x : Slice) (l : Nat) : L2Line := x.lines.get {} l
/-- The line's byte stands in the slice. -/
def L2Line.has (l : L2Line) (i : Nat) : Bool := l.live && (l.valid.getLsbD (sectorOf i) || l.dirty.getLsbD i)
/-- A byte of global memory as its home slice has it: in the slice, or in memory. -/
def State.homeByte (s : State) (pa : Nat) : Byte :=
  let l := (s.slice (homeSlice pa)).line (pa / 256)
  if l.has (pa % 256) then l.data.get 0 (pa % 256) else s.memByte pa
/-- n bytes of global memory at the home slice. -/
def State.homeBytes (s : State) (pa n : Nat) : List Byte := (List.range n).map fun i => s.homeByte (pa + i)
/-- The poison mark of a sector at its home slice. -/
def State.homePoison (s : State) (pa : Nat) : Bool :=
  let l := (s.slice (homeSlice pa)).line (pa / 256)
  let k := sectorOf (pa % 256)
  if l.live && (l.valid.getLsbD k || l.poison.getLsbD k) then l.poison.getLsbD k
  else if l.live && coversSector l.dirty k then false else s.memPoison pa

/-- Write a line's dirty bytes to memory from its home slice; the line keeps its data and is clean. A copy away from home is clean at all times
(09 R192). -/
def State.flushLine (s : State) (key l : Nat) : State :=
  let x := s.slice key
  let ln := x.line l
  if ln.live && ln.dirty != 0 && homeSlice (l * 256) == key then
    let m := (bytesOf ln.dirty).foldl (fun m i => m.set 0 (l * 256 + i) (ln.data.get 0 i)) s.mem
    let sp := (List.range 4).foldl (fun sp k =>
      if ln.dirty &&& sectorMask k == 0 then sp else Tab.set false (l * 4 + k) (ln.poison.getLsbD k) sp) s.sectorPoison
    let whole := fun k => ln.valid.getLsbD k || coversSector ln.dirty k
    let v := (List.range 4).foldl (fun v k => if whole k then v ||| (1#4 <<< k) else v) 0#4
    let s := { s with mem := m, sectorPoison := sp }
    let s := s.chargeTag (key / 32) ln.owner (tierCost (l * 256) (bytesOf ln.dirty).length)
    s.setSlice key { x with lines := x.lines.set {} l { ln with dirty := 0, valid := v } }
  else s

/-- Ways that a context may allocate in on a die's slices (09 R199). -/
def State.waysOf (s : State) (die qidx : Nat) : List Nat :=
  let r := s.resv.get {} (die * 4096 + qidx)
  let taken := s.resv.foldl (fun m (k, e) => if k / 4096 == die && e.live then m ||| e.wayMask else m) 0
  if r.live && r.wayMask != 0 then (List.range 16).filter fun w => r.wayMask.testBit w
  else (List.range 16).filter fun w => !taken.testBit w

/-- Lines of a slice that stand in the set of a line. -/
def Slice.sameSet (x : Slice) (l : Nat) : List (Nat × L2Line) :=
  x.lines.filter fun e => setNo (e.1 * 256) == setNo (l * 256) && e.2.live

/-- The entry with the least recent use, of a non-empty choice. -/
def leastUsed : List (Nat × L2Line) → Option (Nat × L2Line)
  | [] => none
  | e :: t => match leastUsed t with
    | none => some e
    | some f => if e.2.use ≤ f.2.use then some e else some f

/-- The victim of a set: the least recently used line without a pin in the ways given (09 R199; the policy is log 57's). -/
def victimIn (ways : List Nat) (here : List (Nat × L2Line)) : Option (Nat × L2Line) :=
  leastUsed (here.filter fun e => e.2.pins.isEmpty && ways.contains e.2.way)

/-- The slice has a line, or a place for it in the ways of a context: a free way, or a victim. -/
def State.hasPlace (s : State) (key l qidx : Nat) : Bool :=
  let x := s.slice key
  let ways := s.waysOf (key / 32) qidx
  let here := x.sameSet l
  (x.line l).live || (ways.any fun w => !here.any fun e => e.2.way == w) || (victimIn ways here).isSome

/-- A place for a line in a slice (09 R195, R199): a dirty victim goes to memory. The line is there afterwards, unless pins hold every way of
the context in its set. -/
def State.allocLine (s : State) (key l qidx : Nat) : State :=
  let x := s.slice key
  if (x.line l).live then s
  else
    let ways := s.waysOf (key / 32) qidx
    let here := x.sameSet l
    let used := here.map fun e => e.2.way
    let fresh := fun (s : State) (w : Nat) => s.modSlice key fun x =>
      { x with lines := x.lines.set {} l { live := true, way := w, use := s.free } }
    match ways.find? fun w => !used.contains w with
    | some w => fresh s w
    | none =>
      match victimIn ways here with
      | none => s
      | some (v, e) =>
        let s := s.flushLine key v
        fresh (s.modSlice key fun x => { x with lines := x.lines.set {} v {} }) e.way

/-- The stack of an HBM line. -/
def hbmStack (pa : Nat) : Option Nat := match regionOf pa with | .hbm k => some k | _ => none

/-- Undo logging (18 R358, 17 R349): the first write of a protected launch to an HBM line in the interval logs the old 256 bytes. -/
def State.logUndo (s : State) (l qidx : Nat) : State :=
  let q := s.quote qidx
  match hbmStack (l * 256) with
  | none => s
  | some k =>
    let d := s.dust.get {} k
    if q.state == .running && q.prot
        && !(d.recs.any fun r => r.line == l && r.qidx == qidx && r.interval == s.rel.interval && !r.spent) then
      if d.fill < 9375000 then
        let r : UndoRec := { line := l, qidx := qidx, interval := s.rel.interval, seq := d.fill,
                             bytes := s.homeBytes (l * 256) 256,
                             poison := BitVec.ofNat 4 ((List.range 4).foldl (fun n j =>
                               if s.homePoison (l * 256 + 64 * j) then n + 2 ^ j else n) 0) }
        let fill := d.fill + 1
        let ask := decide (7031250 ≤ fill) && !d.requested
        { s with
          dust := s.dust.set {} k { recs := r :: d.recs, fill := fill, requested := d.requested || ask }
          rel := { s.rel with closeDue := s.rel.closeDue || ask
                              unrecoverable := s.rel.unrecoverable || decide (9375000 ≤ fill) } }
      else { s with rel := { s.rel with unrecoverable := true } }
    else s

/-- The status word of a wait (Table 14-3). -/
def waitStatus (r : WaitRec) (code : Nat) : Nat := code + if r.capped then 256 else 0

/-- The group that a decided `WAITU` wakes: its status and value in their pair, and in the place that a left group has kept for them in its
forwarding queue (14 R293, 18 R364). Poison that the wait consumed goes to the queue alone. -/
def Group.wake (g : Group) (r : WaitRec) (code : Nat) (v : Word) : Group :=
  let st := waitStatus r code
  let put := fun (e : Forward) => if e.wait then
      { e with wait := false, vals := Tab.set 0 1 v.toNat (Tab.set 0 0 st []), poison := if code == 3 then 1 else 0 }
    else e
  let g := { g with wait := .none, fwd := g.fwd.map put }
  if code == 3 then g else g.setGPair r.d (v ++ BitVec.ofNat 32 st)

/-- The group that a decided wait in the scratchpad wakes: a `WAITU.S` (kind 0) and a `BARW` (1) get their status and the value, a `STAGEA` (2) the
buffer address, or TIMEOUT (14 R304, R305, 12 R269). -/
def Group.wakeScratch (g : Group) (kind : Nat) (buf : Word) (r : WaitRec) (code : Nat) (v : Word) : Group :=
  if kind == 0 then g.wake r code v
  else if kind == 2 then { (g.setG r.d (if code == 0 then buf else 0)).setG (r.d + 1) (if code == 0 then 0 else 1) with wait := .none }
  else { g.setGPair r.d (v ++ BitVec.ofNat 32 (waitStatus r code)) with wait := .none }

/-- A decided wait handed to the group that waits, or into its saved record (14 R294, R301). Code 3 stands for consumed poison. -/
def State.decideWait (s : State) (e : MonEntry) (code v : Nat) : State :=
  let put := fun (g : Group) => match g.wait with
    | .monitor sl sp r => { g with wait := .monitor sl sp { r with outcome := some (code, BitVec.ofNat 32 v) } }
    | _ => g
  match e.tgt with
  | 0 => s.modGroup e.who put
  | 1 => s.modTeam e.team fun t =>
      { t with run := true
               image := t.image.map fun i =>
                 { i with groups := i.groups.mapIdx fun n p => if n == e.who then (p.1, put p.2) else p } }
  | _ => { s with queues := s.queues.update {} e.who fun q => { q with hit := true } }

/-- The watched word as it stands at its ordering point, with its poison mark. -/
def State.watched (s : State) (pa : Nat) (sz : Bool) : Nat × Bool :=
  let n := if sz then 8 else 4
  if isVault pa then
    (Tab.readLe s.mem pa n, (List.range (n / 4)).any fun i => s.vaultPoison.get false (pa / 4 + i))
  else (leNat (s.homeBytes pa n), s.homePoison pa)

/-- The energy of an evaluation goes to the waiter (14 R295); the front end's and firmware's to the die. -/
def State.chargeEval (s : State) (key : Nat) (e : MonEntry) : State := match e.tgt with
  | 0 => s.charge (clusterOf e.who) e.qidx 30000
  | 1 => s.charge (s.team e.team).cluster e.qidx 30000
  | _ => s.chargeOverhead (key / 32) 30000

/-- Evaluate one entry; true when it is decided. -/
def State.monHit (s : State) (e : MonEntry) : Option (Nat × Nat) :=
  let (v, p) := s.watched e.waddr e.sz
  if p then some (3, v)
  else if waitCond e.cmp e.sz v e.opnd.toNat then some (0, v) else none

/-- A write of 4-byte words, given by number (PA / 4), evaluates the entries that watch one of them (14 R294), and asks for a walk of the
chain when none was resident and the filter bit is set (14 R298). -/
def State.evalWords (s : State) (key : Nat) (ws : List Nat) : State :=
  let x := s.slice key
  let touches := fun (e : MonEntry) => e.v && ws.any fun w => w == e.waddr / 4 || (e.sz && w == e.waddr / 4 + 1)
  let hits := x.mon.filter fun (_, e) => touches e
  let s := hits.foldl (fun s (k, e) =>
    let s := s.chargeEval key e
    match s.monHit e with
    | some (c, v) => (s.modSlice key fun x => { x with mon := x.mon.set {} k {} }).decideWait e c v
    | none => s) s
  if hits.isEmpty
      && ws.any fun w => x.filter.get false (Config.spillHash (w * 4) % 8192) || x.filter.get false (Config.spillHash (w / 2 * 8) % 8192) then
    s.modSlice key fun x => { x with walkDue := true }
  else s
/-- A write of bytes [pa, pa + n) evaluates the entries that watch its words. -/
def State.evalMon (s : State) (key pa n : Nat) : State :=
  s.evalWords key ((List.range ((pa + n + 3) / 4 - pa / 4)).map (pa / 4 + ·))

/-- Other dies that the directory names as holding a line. -/
def State.holders (s : State) (l : Nat) : List Nat :=
  let e := (s.slice (homeSlice (l * 256))).dir.get {} l
  if e.v then (List.range 4).filter fun d => e.pres.getLsbD d else []

/-- Drop a die's clean copy of a line (11 R238, R239); a pinned copy keeps its pin (10 R224). -/
def State.dropCopy (s : State) (die l : Nat) : State :=
  if die == homeDie (l * 256) then s
  else s.modSlice (die * 32 + sliceNo (l * 256)) fun x =>
    let ln := x.line l
    if !ln.live then x
    else if ln.pins.isEmpty then { x with lines := x.lines.set {} l {} }
    else { x with lines := x.lines.set {} l { ln with valid := 0, dirty := 0 } }

/-- The numbers (PA / 4) of the words of a line that a byte mask touches. -/
def maskWords (l : Nat) (mask : BitVec 256) : List Nat :=
  (List.range 64).filterMap fun i => if (mask >>> (4 * i)) &&& 15 == 0 then none else some (l * 64 + i)

/-- Bytes of a line written to memory past a slice whose set holds pins only (log 57). -/
def State.pastSlice (s : State) (l : Nat) (mask : BitVec 256) (data : Tab Byte) (marks : BitVec 4) (owner : Nat) : State :=
  let m := (bytesOf mask).foldl (fun m i => m.set 0 (l * 256 + i) (data.get 0 i)) s.mem
  let sp := (List.range 4).foldl (fun sp k =>
    if mask &&& sectorMask k == 0 then sp else Tab.set false (l * 4 + k) (marks.getLsbD k) sp) s.sectorPoison
  { s with mem := m, sectorPoison := sp }.chargeTag (homeDie (l * 256)) owner (tierCost (l * 256) (bytesOf mask).length)

/-- One write at the home slice of a line (09 R193, 11 R237): merged by its mask, stamped with the next tag, logged, and its words
evaluated. The caller sees to the invalidations. -/
def State.stampLine (s : State) (l : Nat) (mask : BitVec 256) (data : Tab Byte) (poison : BitVec 4) (owner : Nat) : State :=
  let key := homeSlice (l * 256)
  let s := s.logUndo l owner
  let s := s.allocLine key l owner
  let old := fun k => s.homePoison (l * 256 + 64 * k)
  let marks := (List.range 4).foldl (fun m k =>
    let b := poison.getLsbD k || (old k && !coversSector mask k)
    if b then m ||| (1#4 <<< k) else m) 0#4
  let there := ((s.slice key).line l).live
  let s := s.modSlice key fun x =>
    let ln := x.line l
    let own := if ln.dirty == 0 then owner else ln.owner
    let d := (bytesOf mask).foldl (fun d i => d.set 0 i (data.get 0 i)) ln.data
    { x with seq := x.seq + 1
             lines := if there then x.lines.set {} l
               { ln with dirty := ln.dirty ||| mask, poison := marks, data := d, owner := own, use := s.free } else x.lines }
  let s := if there then s else s.pastSlice l mask data marks owner
  s.evalWords key (maskWords l mask)

/-- A write whose copies on other dies are gone in the same step: engines, the front end, the host, commits, replay. It happens where 11 R244
says that such a write has landed, once every other copy has been invalidated; no read in between could tell (11 R238; DEDUCED, log 91). A die
whose invalidation is on its way keeps its PEND bit until it has acknowledged (14 R307). -/
def State.homeWrite (s : State) (l : Nat) (mask : BitVec 256) (data : Tab Byte) (poison : BitVec 4) (owner : Nat) : State :=
  let e := (s.slice (homeSlice (l * 256))).dir.get {} l
  let dies := if e.v then (List.range 4).filter fun d => (e.pres ||| e.pend).getLsbD d else []
  let s := s.stampLine l mask data poison owner
  let s := dies.foldl (fun s d => s.dropCopy d l) s
  s.modSlice (homeSlice (l * 256)) fun x =>
    let e := x.dir.get {} l
    if e.v then { x with dir := x.dir.set {} l (if e.pend == 0 then {} else { e with pres := 0 }) } else x

/-! ### Fields of descriptors in memory that software does not write (00 R9, R10) -/

/-- Bits of a line that name bytes from a physical address up, where they lie in it. -/
def lineBits (l pa : Nat) (is : List Nat) : BitVec 256 :=
  if pa / 256 == l then is.foldl (fun m i => m ||| (1#256 <<< (pa % 256 + i))) 0#256 else 0#256

/-- Bytes of a line that a store does not change: of a command queue's descriptor HEAD, of an ingress ring's TAIL, DROP and reserved bytes (12
Tables 12-2, 12-11); and for all but firmware the fields that firmware sets as well. -/
def State.fixedMask (s : State) (l : Nat) (fw : Bool) : BitVec 256 :=
  let head := (List.range 4).map (16 + ·)
  let set := List.range 16 ++ (List.range 8).map (24 + ·)
  let ro := List.range 16 ++ (List.range 5).map (20 + ·)
  let m := s.queues.foldl (fun m e => if e.2.live then m ||| lineBits l e.2.desc (if fw then head else head ++ set) else m) 0#256
  s.dies.foldl (fun m d => d.2.filters.foldl (fun m f =>
    if f.2.live then m ||| lineBits l f.2.ring (if fw then ro else ro ++ set) else m) m) m

/-- The bytes of a store by a context, as far as it may change them. -/
def State.mayStore (s : State) (l : Nat) (mask : BitVec 256) (owner : Nat) : BitVec 256 := mask &&& ~~~ s.fixedMask l (owner == 0xFFF)

/-- The data of a store as far as it may stand: the reserved bits [197:192] of a command queue's descriptor stay zero (00 R10, 12 Table
12-2). -/
def State.mayData (s : State) (l : Nat) (data : Tab Byte) : Tab Byte :=
  s.queues.foldl (fun d e =>
    if e.2.live && (e.2.desc + 24) / 256 == l then d.update 0 ((e.2.desc + 24) % 256) (· &&& 0xC0) else d) data

/-- Bytes stored from outside: those that software does not write stay as they are. -/
def State.keepFixed (s : State) (pa : Nat) (bs : List Byte) : List Byte :=
  bs.zipIdx.map fun e =>
    let a := pa + e.2
    if (s.fixedMask (a / 256) false).getLsbD (a % 256) then s.homeByte a else e.1

/-! ### Vault writes (09 R196, 18 R353) -/

/-- Bytes put into a vault: a word written whole takes the mark that the write brings, another keeps its own as well. -/
def State.vaultPut (s : State) (pa : Nat) (bs : List Byte) (mark : Bool) : State :=
  let n := bs.length
  let words := (List.range ((pa + n + 3) / 4 - pa / 4)).map fun i => pa / 4 + i
  let pz := words.foldl (fun p w =>
    let whole := decide (pa ≤ w * 4) && decide (w * 4 + 4 ≤ pa + n)
    Tab.set false w (mark || (!whole && Tab.get false w p)) p) s.vaultPoison
  { s.writeMem pa bs with vaultPoison := pz }

/-- The slice that watches a word and orders its writes: the home slice of a global line, the slice of a vault's bay (14 R290). -/
def orderKey (pa : Nat) : Nat := match regionOf pa with | .vault d n => d * 32 + n | _ => homeSlice pa
/-- Bytes written to a vault, and the entries of the bay's slice that watch them evaluated (14 R290, R294). -/
def State.vaultWrite (s : State) (pa : Nat) (bs : List Byte) (mark : Bool) : State :=
  (s.vaultPut pa bs mark).evalMon (orderKey pa) pa bs.length

/-- Bytes written at the home slices of their lines, line by line. -/
def State.globalWrite (s : State) (pa : Nat) (bs : List Byte) (owner : Nat) (poison : Bool) : State :=
  let n := bs.length
  let first := pa / 256
  let last := (pa + n - 1) / 256
  (List.range (last + 1 - first)).foldl (fun s i =>
    let l := first + i
    let lo := max pa (l * 256) - l * 256
    let hi := min (pa + n) (l * 256 + 256) - l * 256
    let mask : BitVec 256 := BitVec.ofNat 256 ((2 ^ (hi - lo) - 1) * 2 ^ lo)
    let data := Tab.writeList [] lo ((bs.drop (l * 256 + lo - pa)).take (hi - lo))
    let pz : BitVec 4 := if poison then BitVec.ofNat 4 ((List.range 4).foldl (fun m k =>
      if mask &&& sectorMask k == 0 then m else m + 2 ^ k) 0) else 0
    s.homeWrite l mask data pz owner) s

/-- A write performed at SYS scope by the front end, firmware or the host: at the home slice, and in memory. Vaults, image areas and the dust
sheet are not among what they change (09 Table 9-1; log 51): the write leaves them alone. -/
def State.sysWrite (s : State) (pa : Nat) (bs : List Byte) (owner : Nat) : State :=
  if bs.isEmpty || !isGlobal pa then s
  else
    let s := s.globalWrite pa bs owner false
    let s := (List.range ((pa + bs.length - 1) / 256 + 1 - pa / 256)).foldl (fun s i =>
      s.flushLine (homeSlice ((pa / 256 + i) * 256)) (pa / 256 + i)) s
    s.writeMem pa bs

/-- A little-endian field of a record the front end writes. -/
def field (n v : Nat) : List Byte := toBytes n v

/-! ### Scratchpad writes (12 R259, 14 R304, 18 R353, 24 R400) -/

/-- The 32 bits of a barrier object's word 0 hold the phase in bit 31 (17 Table 17-2). -/
def barrierPhase (w0 : Nat) : Bool := w0.testBit 31

/-- Hand a decided scratchpad wait to its group. -/
def State.decideScratch (s : State) (gk code v : Nat) : State :=
  s.modGroup gk fun g => match g.wait with
    | .scratch k b r => { g with wait := .scratch k b { r with outcome := some (code, BitVec.ofNat 32 v) } }
    | _ => g

/-- The condition of a scratchpad-monitor entry on the team's scratchpad: none while it is not met. -/
def scrHit (t : Team) (e : ScrEntry) : Option (Nat × Nat) :=
  let n := if e.kind == 0 && e.sz then 8 else 4
  let v := t.read e.saddr n
  if t.poisoned e.saddr n then some (3, v)
  else if e.kind == 0 then (if waitCond e.cmp e.sz v e.opnd.toNat then some (0, v) else none)
  else if barrierPhase v == e.opnd.getLsbD 0 then some (0, v) else none

/-- A write of bytes [a, a + n) of a team's scratchpad evaluates the cluster's monitor entries. -/
def State.evalScr (s : State) (team a n : Nat) : State :=
  let t := s.team team
  let cl := t.cluster
  (s.cluster cl).scr.foldl (fun s (k, e) =>
    let w := if e.kind == 0 then (if e.sz then 8 else 4) else 4
    if e.v && e.team == team && decide (a < e.saddr + w) && decide (e.saddr < a + n) then
      let s := s.charge cl (s.launch t.launch).qidx 30000
      match scrHit t e with
      | some (c, v) => (s.modCluster cl fun x => { x with scr := x.scr.set {} k {} }).decideScratch (cl * 64 + k) c v
      | none => s
    else s) s

/-- The word that INJ names, as an offset of the team's scratchpad, while ARM is 1. -/
def injWord (c : Cluster) (t : Team) : Option Nat :=
  let w := (c.inj.toNat / 4 % 2 ^ 18) * 4
  if c.inj.getLsbD 31 && decide (t.sbase ≤ w) && decide (w < t.sbase + t.size) then some (w - t.sbase) else none

/-- Bytes put into a team's scratchpad. `taking` says that the write takes injected poison (24 R400); `mark` is the poison mark it brings. -/
def State.scrPut (s : State) (team a : Nat) (bs : List Byte) (taking mark : Bool) : State :=
  let t := s.team team
  let n := bs.length
  let words := (List.range ((a + n + 3) / 4 - a / 4)).map fun i => a / 4 + i
  let inj := if taking then injWord (s.cluster t.cluster) t else none
  let hit := match inj with | some w => words.contains (w / 4) | none => false
  let pz := words.foldl (fun p w =>
    let b := mark || (hit && inj == some (w * 4))
    let whole := decide (a ≤ w * 4) && decide (w * 4 + 4 ≤ a + n)
    Tab.set false w (b || (!whole && Tab.get false w p)) p) t.poison
  let s := s.setTeam team { t with scratch := Tab.writeList t.scratch a bs, poison := pz }
  if hit then s.modCluster t.cluster fun c => { c with inj := c.inj &&& 0x7FFFFFFF } else s

/-- Bytes written to a team's scratchpad, and the monitor entries that watch them evaluated. -/
def State.scrWrite (s : State) (team a : Nat) (bs : List Byte) (taking mark : Bool) : State :=
  (s.scrPut team a bs taking mark).evalScr team a bs.length

/-- The bytes of a scratchpad that only their own operations write: barrier objects (17 R335, R339), what Tables 12-6 and 12-9 give as RO in
ring and stage descriptors, and the FILL and DRAIN objects of a stage ring (00 R9, R10, 12 R251). -/
def Image.fixed (i : Image) : List (Nat × Nat) := i.syncs.filterMap fun y =>
  if y.kind == 0 then some (y.base, 16) else if y.kind == 1 then some (y.base, 12)
  else if y.kind == 2 then some (y.base, 16 + 32 * y.ops.headD 0) else none

/-- The team of an image has a control block: the kernel declares a child, a ring or a stage ring (12 R259). -/
def Image.hasTcb (i : Image) : Bool := !i.children.isEmpty || i.syncs.any fun y => y.kind != 0

/-- The bytes of a team's scratchpad that a store or an engine does not change: those of its image's objects, and the team control block
(12 R259). -/
def State.fixedScr (s : State) (team : Nat) : List (Nat × Nat) :=
  let t := s.team team
  let i := s.imageOf t.launch
  if i.hasTcb then (t.tcb, 16) :: i.fixed else i.fixed

/-- Bytes on their way into a team's scratchpad, those that may not change as they stand there. -/
def State.scrKeep (s : State) (team a : Nat) (bs : List Byte) : List Byte :=
  let ro := s.fixedScr team
  let keep := fun (e : Byte × Nat) =>
    if ro.any fun r => decide (r.1 ≤ a + e.2) && decide (a + e.2 < r.1 + r.2) then (s.team team).scratch.get 0 (a + e.2) else e.1
  if ro.isEmpty then bs else bs.zipIdx.map keep

/-- Bytes that software or an engine stores into a team's scratchpad: those that it may not write stay as they are. -/
def State.scrStore (s : State) (team a : Nat) (bs : List Byte) (mark : Bool) : State :=
  s.scrPut team a (s.scrKeep team a bs) true mark

/-- The bytes of one store word, an address and its bytes for each lane: ONE write, that takes injected poison once (10 R208, 24 R400). -/
def State.scrStores (s : State) (team : Nat) (l : List (Nat × List Byte)) : State :=
  let c := (s.team team).cluster
  let t := l.foldl (fun t e => t.scrPut team e.1 (s.scrKeep team e.1 e.2) false false) s
  match injWord (s.cluster c) (s.team team) with
  | some w =>
    if l.any fun e => decide (e.1 < w + 4) && decide (w < e.1 + e.2.length) then
      (t.modTeam team fun x => { x with poison := x.poison.set false (w / 4) true }).modCluster c fun x =>
        { x with inj := x.inj &&& 0x7FFFFFFF }
    else t
  | none => t

/-! ### Barrier objects (17 R339 to R341) -/

/-- One port step on a barrier object: da arrivals and db bytes. -/
def State.barrierUpdate (s : State) (team a da db : Nat) : State :=
  let t := s.team team
  let w0 := t.read a 4
  let w1 := t.read (a + 4) 4
  let exa := w1 % 2048
  let exb := t.read (a + 12) 4
  let arr := min (w0 % 2048 + da) 2047
  let byt := min (t.read (a + 8) 4 + db) (2 ^ 32 - 1)
  let met := decide (exa ≤ arr) && decide (exb ≤ byt)
  let ph := if met then !barrierPhase w0 else barrierPhase w0
  let arr := if met then arr - exa else arr
  let byt := if met then byt - exb else byt
  let w0' := arr + (w0 / 2 ^ 30 % 2) * 2 ^ 30 + (if ph then 2 ^ 31 else 0)
  s.scrWrite team a (toBytes 4 w0' ++ toBytes 4 exa ++ toBytes 4 byt ++ toBytes 4 exb) false false

/-- A number put into a rising list. -/
def insertNat (n : Nat) : List Nat → List Nat
  | [] => [n]
  | a :: t => if n ≤ a then n :: a :: t else a :: insertNat n t
/-- Numbers in rising order. -/
def sortNat (l : List Nat) : List Nat := l.foldr insertNat []

/-- The barrier objects that a launch's image declares, FILL and DRAIN of its stage rings among them, rising (17 R344). -/
def Image.barriers (i : Image) : List Nat :=
  (i.syncs.flatMap fun y =>
    if y.kind == 0 then [y.base]
    else if y.kind == 2 then
      (List.range (y.ops.headD 0)).flatMap fun k => [y.base + 16 + 32 * k, y.base + 32 + 32 * k]
    else []) |> sortNat

/-! ### Breaches (16 R334) -/

/-- The party at fault of a cause: 1 caller, 2 operator, 3 device (16 Table 16-9). -/
def causeParty (c : Nat) : Nat := if c ≤ 3 then 1 else if c ≤ 6 then 2 else 3

/-- A cause put among those logged: by time, and by code within one cycle (16 R334). -/
def insertCause (c : Nat × Nat) : List (Nat × Nat) → List (Nat × Nat)
  | [] => [c]
  | a :: t => if c.2 == a.2 && decide (c.1 < a.1) then c :: a :: t else a :: insertCause c t

/-- Log a cause with its device time, up to four; the first names the party. -/
def State.logCause (s : State) (qidx code : Nat) : State :=
  s.modQuote qidx fun q =>
    if q.state == .running then
      let cs := (insertCause (code, s.time.toNat) q.causes).take 4
      let first := (cs.headD (code, 0)).1
      { q with causes := cs, brc := first, party := causeParty first }
    else q

/-- The MASK and DIES of the command queue whose descriptor stands at an address (12 Table 12-2). -/
def State.maskAt (s : State) (desc : Nat) : Nat × Nat :=
  (leNat (s.homeBytes desc 16), bits (leNat (s.homeBytes (desc + 24) 2)) 9 6)
/-- What a write to a line has done to the masks of the queues: one that has changed is cause 0x05 for the queue's running launches (16 Table 16-9).
`t` is the state before the write. -/
def State.noteMasks (s t : State) (l : Nat) : State :=
  s.queues.foldl (fun s e =>
    if e.2.live && e.2.desc / 256 == l && s.maskAt e.2.desc != t.maskAt e.2.desc then
      s.launches.foldl (fun s x => if x.2.live && x.2.queue == e.1 then s.logCause x.2.qidx 5 else s) s
    else s) s

/-- The breach checks of a figure that has been passed: with no cause logged it gives its own code (16 R334). -/
def State.checkFigures (s : State) (qidx : Nat) : State :=
  let q := s.quote qidx
  if q.state == .running && q.causes.isEmpty then
    let t := if q.cls == 0 then s.time.toNat - q.tstart else q.svc
    if q.tmax < t then s.logCause qidx 0x0B else if q.emax * 1000 < q.nrg then s.logCause qidx 0x0C else s
  else s

/-- A cluster's meter of a context folded into NRG, the remainder kept in the meter (17 R346). -/
def State.foldMeter (s : State) (cl qidx : Nat) : State :=
  let e := (s.cluster cl).meters.get 0 qidx
  let s := s.modCluster cl fun c => { c with meters := c.meters.set 0 qidx (e % 10000000) }
  if (s.quote qidx).state == .free && qidx != 0xFFF then s
  else s.modQuote qidx fun q => { q with nrg := q.nrg + e / 10000000 }

/-! ### Primer operations (19 R378, R379) -/

/-- The permitted fall of dynamic energy per 100 ns at a level, in 10⁻⁴ pJ: 2% of the maximum dynamic power of Table 19-2. -/
def fallStep (lvl : Nat) : Nat := if lvl == 0 then 20160000 else if lvl == 1 then 72000000 else 114300000
/-- The energy of a ramp after a fall by w per 100 ns. -/
def rampEnergy (w r : Nat) : Nat := let n := w / r; n * w - r * (n * (n + 1) / 2)
/-- The part of a context in the one ramp of a window. -/
def rampShare (falls : Tab Nat) (r qidx : Nat) : Nat :=
  let sum := falls.foldl (fun n e => n + e.2) 0
  if sum == 0 then 0 else rampEnergy sum r * falls.get 0 qidx / sum

/-- The dynamic energy that a context drew on a cluster over the last 100 ns, at most what the maximum dynamic power gives: 50 times 2% of it
(19 R378, R379). -/
def Power.drawn (p : Power) (now qidx : Nat) : Nat :=
  min (50 * fallStep p.level) ((recent now p.window).foldl (fun n e => if e.1 % 8192 == qidx then n + e.2 else n) 0)
/-- What a context has drawn counts for no later fall of it. -/
def Power.spentBy (p : Power) (qidx : Nat) : Tab Nat :=
  p.window.foldl (fun t e => t.update 0 (if e.1 % 8192 == qidx then e.1 + 4096 else e.1) (· + e.2)) []

/-- A context's dynamic power on a cluster falls: the energy of the ramp is charged at once, divided among the contexts that fell in the
same window of 100 ns, which begins with the first of them (19 R378, R379). -/
def State.fall (s : State) (cl qidx : Nat) : State :=
  let p := (s.cluster cl).power
  let w := p.drawn s.time.toNat qidx
  if w == 0 then s
  else
    let r := fallStep p.level
    let falls := p.falls.update 0 qidx (· + w)
    let s := falls.foldl (fun s e => s.modCluster cl fun c =>
      { c with meters := c.meters.update 0 e.1 (· + (rampShare falls r e.1 - rampShare p.falls r e.1)) }) s
    s.modCluster cl fun c =>
      { c with power := { c.power with
        window := c.power.spentBy qidx, falls := falls, primer := c.power.primer + w
        windowAt := if p.primer == 0 && p.falls.isEmpty then s.time.toNat else p.windowAt } }

/-! ### Levels (08 R175, 01 R23, R24) -/

/-- A step of a level change is under way: clock and ratio differ, and not for a boost. -/
def Power.changing (p : Power) : Bool := !p.boosting && p.level != p.ratio
/-- A change to the level asked for begins, unless one is under way or the supply is boosted: upward the converter switches first and the clock
follows, downward the clock moves first; the cluster runs at the lower clock (19 R377). -/
def Power.begin (p : Power) : Power :=
  if p.boosting || p.level != p.ratio then p
  else if p.level < p.target then { p with ratio := p.target } else { p with level := p.target }

/-- The level asked of a cluster's converter: what votes and floors give, held down by the controller but not below a floor, and by a
thermal or supply event. -/
def State.retarget (s : State) (cl : Nat) : State :=
  let want := s.wantedLevel cl
  let floor := s.levelFloor cl
  s.modCluster cl fun c =>
    { c with power := { c.power with target := min c.power.forced (max floor (min c.power.ceiling want)) }.begin }

/-! ### Fetch blocks (03 R44) -/

/-- The instruction-store slot that a group runs from. -/
def State.islot (s : State) (gk slot : Nat) : IStore :=
  (s.cluster (clusterOf gk)).istore.get {} ((s.group gk).place.launch * 64 + slot)
/-- Word i of a fetch block of a group's code. -/
def State.codeWord (s : State) (gk slot blk i : Nat) : Word := (s.islot gk slot).words.get 0 (blk * 16 + i)
/-- The header of a fetch block. -/
def State.header (s : State) (gk slot blk : Nat) : Word := s.codeWord gk slot blk 0
/-- LV of a header. -/
def hdrLV (h : Word) : Nat := bits h.toNat 31 24
/-- SEG of a header. -/
def hdrSEG (h : Word) : Nat := bits h.toNat 23 16
/-- NP of a header. -/
def hdrNP (h : Word) : Nat := bits h.toNat 15 13
/-- LIM of a header. -/
def hdrLIM (h : Word) : Nat := bits h.toNat 7 0

/-- A strand sent to a code address from data: its current SEG becomes that of the target block's header (03 R47). -/
def State.goData (s : State) (gk k : Nat) (pc : Word) : State :=
  s.modGroup gk fun g =>
    g.setStrand k { g.strand k with pc := pc, seg := hdrSEG (s.header gk (pcSlot pc) (pcBlk pc)), block := [] }

/-! ### Locks of a commit (10 R218) -/

/-- Every lock that an operation holds is released. -/
def State.unlock (s : State) (op : Nat) : State :=
  s.slices.foldl (fun s e =>
    if e.2.locks.any fun x => x.2 == op then s.modSlice e.1 fun x => { x with locks := x.locks.filter fun y => y.2 != op } else s) s
/-- A transaction that has lost its logs. -/
def Tx.discard (t : Tx) : Tx := { t with reads := [], writes := [], wlines := [] }
/-- The logs of a group's transaction are discarded, and a commit under way releases its locks (10 R218, R220). -/
def State.discardTx (s : State) (gk : Nat) : State :=
  let s := s.ops.foldl (fun s e => match e.2.kind with
    | .commit .. => if e.2.live && e.2.group == gk && e.2.uid == (s.group gk).uid then s.unlock e.1 else s
    | _ => s) s
  s.modGroup gk fun g => { g with tx := g.tx.discard }

/-! ### Halting a group and taking a trap (03 R62, 18 R352, R354, 08 R181) -/

/-- Code of a trap: its priority in Table 3-9, 11 for TRAP, 12 for a pair mismatch (18 Table 18-1). -/
def TrapKind.code : TrapKind → Nat
  | .illegal => 1
  | .segment => 2
  | .alignFetch => 2
  | .latch => 3
  | .limit => 4
  | .depth => 4
  | .engmask => 5
  | .engwidth => 5
  | .format => 6
  | .alignData => 7
  | .transl => 8
  | .perm => 9
  | .poison => 10
  | .trapWord => 11
  | .mismatch => 12

/-- log2 of a group width. -/
def widthLog (w : Nat) : Nat := if w ≤ 4 then 2 else if w ≤ 8 then 3 else if w ≤ 16 then 4 else if w ≤ 32 then 5 else 6

/-- The fault entry of a halt (18 Table 18-1). -/
def faultEntry (s : State) (g : Group) (r : TrapReport) : List Byte :=
  let t := s.team g.place.team
  field 1 r.kind.code ++ field 1 g.place.side ++ field 2 t.index ++ field 2 g.place.off ++ field 1 (widthLog g.place.width)
    ++ field 1 r.word ++ field 1 (match r.lane with | some l => l | none => 0xFF)
    ++ field 1 (pcSlot r.pc) ++ field 1 (pcBlk r.pc) ++ field 1 (pcPk r.pc)
    ++ field 4 r.imm ++ field 8 r.addr ++ field 8 s.time.toNat

/-- The members that a gang register lists, as team lane offsets (05 Table 5-9). -/
def gangMembers (v : Dword) : List Nat :=
  (List.range (bits v.toNat 63 61)).map fun k => bits v.toNat (5 * k + 4) (5 * k) * 32

/-- The gang register without IDX. -/
def gangKey (v : Dword) : Dword := v &&& ~~~ (0x1C00000000000000 : Dword)

/-- A listed member exists: a w32 group at its offset, or one that has ended there (R104, R149). -/
def State.memberThere (s : State) (team off : Nat) : Bool :=
  (s.groups.keys.any fun k =>
      let g := s.group k
      g.live && g.place.team == team && g.place.off == off && g.place.width == 32)
    || (s.team team).gone.contains (off, 32)

/-- A listed member has halted or exited. -/
def State.memberGone (s : State) (team off : Nat) : Bool :=
  (s.groups.keys.any fun k =>
      let g := s.group k
      g.live && g.place.team == team && g.place.off == off && (g.halt.isSome || g.ended))
    || (s.team team).gone.contains (off, 32)

/-- A rendezvous that has failed is forgotten once no listed member can still join it. -/
def State.sweepRdv (s : State) (k : Nat) : State :=
  let r := s.rdvs.get {} k
  if r.failed != 0 && (gangMembers r.gang).all fun m => r.who.contains m || s.memberGone r.team m || !s.memberThere r.team m then
    { s with rdvs := s.rdvs.set {} k {} }
  else s

/-- A member joins a rendezvous no more. -/
def State.passRdv (s : State) (k off : Nat) : State :=
  { s with rdvs := s.rdvs.update {} k fun r => { r with who := r.who ++ [off] } }

/-- A rendezvous ends with a status for every member that waits in it (07 R149). It stays, failed, until each listed member has joined. -/
def State.failRdv (s : State) (k code : Nat) : State :=
  let r := s.rdvs.get {} k
  let s := r.joined.foldl (fun s o =>
    match (s.op o).kind with
    | .mma c =>
      let x := s.op o
      let s := if s.opAlive x then s.modGroup x.group fun g => g.setG c.status (BitVec.ofNat 32 code) else s
      s.endOp o
    | _ => s) s
  { s with rdvs := s.rdvs.set {} k { r with failed := code, joined := [] } }.sweepRdv k

/-- A group abandons every rendezvous that lists it and has not opened (07 R149). -/
def State.abandonRdvs (s : State) (g : Group) : State :=
  s.rdvs.foldl (fun s (k, r) =>
    if r.live && r.team == g.place.team && !r.opened && (gangMembers r.gang).contains g.place.off then
      let s := s.passRdv k g.place.off
      if r.failed == 0 then s.failRdv k 1 else s.sweepRdv k
    else s) s

/-- A group whose gang register names another gang joins none of the old gang's failed rendezvous any more (07 R149). -/
def State.leaveGang (s : State) (g : Group) : State :=
  s.rdvs.foldl (fun s (k, r) =>
    if r.live && r.failed != 0 && r.team == g.place.team && gangKey r.gang == gangKey g.gang
        && (gangMembers r.gang).contains g.place.off then (s.passRdv k g.place.off).sweepRdv k
    else s) s

/-- The slot of the group that starts at a team lane offset of a team, with a given width. -/
def State.groupAt (s : State) (team off width side : Nat) : Option Nat :=
  (s.groups.find fun _ g => g.live && g.place.team == team && g.place.off == off && g.place.width == width
    && g.place.side == side).map Prod.fst

/-- The buddy's offset for FUSE (05 R99, "Changing width"); none where the offset is no multiple of the width. -/
def buddyOff (off w : Nat) : Option Nat :=
  if off % (2 * w) == 0 then some (off + w) else if off % (2 * w) == w then some (off - w) else none

/-- The slot of the buddy of a group, in its team and quarter. -/
def State.buddy (s : State) (gk : Nat) : Option Nat :=
  let g := s.group gk
  match buddyOff g.place.off g.place.width with
  | none => none
  | some o => match s.groupAt g.place.team o g.place.width g.place.side with
    | some k => if k / 16 == gk / 16 && !(s.group k).ended then some k else none
    | none => none

/-- A partner parked in FUSE with a group receives a status (05 R99, 07 R140, 08 R174). -/
def State.endFuse (s : State) (gk : Nat) (code : Nat) : State :=
  match s.buddy gk with
  | none => s
  | some k => s.modGroup k fun p => match p.wait with
    | .fuse d _ => { p.setG d (BitVec.ofNat 32 code) with wait := .fuseOver }
    | _ => p

/-- The entries of a slice that are not a group's, in the table and in the chain. -/
def Slice.without (x : Slice) (p : MonEntry → Bool) : Slice :=
  { x with mon := x.mon.filter fun e => !p e.2, spill := x.spill.filter fun e => !p e }

/-- Free the monitor entries of a group without a status (18 R352). -/
def State.freeWaits (s : State) (gk : Nat) : State :=
  match (s.group gk).wait with
  | .monitor sl _ _ => s.modSlice sl fun x => x.without fun e => e.tgt == 0 && e.who == gk
  | .scratch _ _ _ => s.modCluster (clusterOf gk) fun c => { c with scr := c.scr.set {} (gk % 64) {} }
  | _ => s

/-- The bytes a group holds back in its cluster's L1 are invalidated without write-back (18 R367). -/
def L1Line.discardHeld (l : L1Line) (uid : Nat) : L1Line :=
  let mine := (l.held.filter fun e => e.2 == uid).map Prod.fst
  { l with dirty := mine.foldl (fun d i => d &&& ~~~ (1#256 <<< i)) l.dirty
           held := mine.foldl (fun h i => h.set 0 i 0) l.held
           valid := mine.foldl (fun v i => v &&& ~~~ (1#4 <<< sectorOf i)) l.valid }

/-- Discard the held stores of a group (18 R352, R367). -/
def State.discardHeld (s : State) (gk : Nat) : State :=
  let u := (s.group gk).uid
  let s := s.modCluster (clusterOf gk) fun c =>
    { c with l1 := c.l1.foldl (fun t (k, l) => if l.held.isEmpty then t else Tab.set {} k (l.discardHeld u) t) c.l1 }
  s.modGroup gk fun g => { g with heldVault := [] }

/-- The launch whose packet a launch runs under: a child's parent, or itself (12 R260). -/
def State.rootLaunch (s : State) (l : Nat) : Nat := (s.launch l).parent.getD l

/-- A mark put among those that are due, behind every one that is due no later (24 R401). -/
def dueIn (m : Nat × Nat) : List (Nat × Nat) → List (Nat × Nat)
  | [] => [m]
  | x :: t => if m.1 < x.1 then m :: x :: t else x :: dueIn m t

/-- A group halts with a report: its waits are freed, its rendezvous abandoned, its partner in FUSE told, its team's barriers due to be
marked, its logs and held stores discarded; the launch counts the halt, takes the fault entry and has its policy due. -/
def State.halt (s : State) (gk : Nat) (r : TrapReport) : State :=
  let g := s.group gk
  let marks := (s.imageOf g.place.launch).barriers
  let root := s.rootLaunch g.place.launch
  let l := s.launch root
  let s := s.freeWaits gk
  let s := s.abandonRdvs g
  let s := s.endFuse gk 7
  let s := s.discardHeld gk
  let s := (s.discardTx gk).modGroup gk fun g =>
    { g with halt := some r, wait := .none, flight := none, fence := none, yielded := [], digest := none, pressed := false }
  let now := s.clk (clusterOf gk)
  let s := s.modTeam g.place.team fun t => { t with marks := (marks.zipIdx).foldl (fun m b => dueIn (now + 96 + b.2, b.1) m) t.marks }
  let s := if l.live && decide (l.halts < 32) then
      s.sysWrite (l.reca + 0x1C00 + 32 * l.halts) (faultEntry s g r) 0xFFF else s
  let s := s.modLaunch root fun l =>
    if !l.live then l
    else { l with
      halts := l.halts + 1, first := l.first.orElse fun _ => some r
      policyDue := true, policyAt := if l.policyDue then l.policyAt else now + 200
      haltAt := if l.policyDue then l.haltAt else (s.time.toNat, r.kind == .poison || r.kind == .mismatch) }
  s.logCause g.place.qidx (if r.kind == .poison || r.kind == .mismatch then 7 else 1)

/-- The firmware cluster of a die resets (08 R181): its groups go, its cluster starts anew, and the readiness word reports the reset. -/
def State.resetFirmware (s : State) (die : Nat) : State :=
  let cl := clusterKey die (s.die die).fwSite
  let s := { s with groups := s.groups.filter fun e => clusterOf e.1 != cl }
  let s := s.modCluster cl fun c => { clk := c.clk, sramsplit := c.sramsplit, duty := c.duty, inj := c.inj }
  s.modDie die fun d =>
    { d with fev := 0
             ready := (d.ready &&& ~~~ (0xFFFF000000000080 : Dword)) ||| (((d.ready >>> 48) + 1) <<< 48) }

/-- TAKING A TRAP. A group of firmware saves its restart point and the code, sets FEV and goes to FVEC, or resets its cluster when FEV
is set or FVEC names no block start; any other group halts. -/
def State.takeTrap (s : State) (gk strand : Nat) (r : TrapReport) : State :=
  let s := { s with cur := { s.cur with trap := some r } }
  let g := s.group gk
  if g.place.priv then
    let die := dieOf (clusterOf gk)
    let d := s.die die
    if d.fev != 0 then s.resetFirmware die
    else
      let s := (s.discardTx gk).setDie die { d with fepc := r.pc, fcause := BitVec.ofNat 32 r.kind.code, fev := 1 }
      if pcBlockStart d.fvec then
        s.goData gk strand d.fvec
      else s.resetFirmware die
  else s.halt gk r

/-- The moving word traps: the report names its packet and its word. -/
def State.trapWord (s : State) (kind : TrapKind) (lane : Option Nat := none) (imm addr : Nat := 0) : State :=
  s.takeTrap s.cur.group s.cur.strand
    { kind := kind, word := s.cur.word, lane := lane, imm := imm, addr := addr, pc := s.str.pc }

/-- RETURN FROM A TRAP (08 R181): the strand goes to FEPC and FEV becomes 0. -/
def State.returnTrap (s : State) : State :=
  let die := dieOf s.myCluster
  let pc := (s.die die).fepc
  let s := s.modDie die fun d => { d with fev := 0 }
  let s := { s with cur := { s.cur with moved := true } }
  s.goData s.cur.group s.cur.strand pc

end Sys2Proof.Machine
end

