-- ==== Sys2Proof/Machine/Operands.lean ====
section
/-! DEFINITION. The operand forms: what each word names, reads and writes; source fields in the V and G spaces and in the latches;
the traps ILLEGAL and LATCH of issue; the result of a word in its registers and its latch. -/

namespace Sys2Proof.Machine

/-- The pipes of an issue slot (03 R38). -/
inductive Pipe where
  | va | vb | g | ls | en | br | none
  deriving DecidableEq, Repr

/-- Registers of a lane in one of the three views: first register and how many (05 R82). -/
inductive LaneReg where
  | v (n count : Nat) | t (n count : Nat) | a (n count : Nat)
  deriving DecidableEq, Repr

/-- What a word names. Source fields carry whether they are read as 64 bits. -/
structure Uses where
  pipe : Pipe := .none
  /-- Source fields of lane operands (R50). -/
  vsrc : List (BitVec 8 × Bool) := []
  /-- Source fields of group-wide operands (R50). -/
  gsrc : List (BitVec 8 × Bool) := []
  /-- Lane registers read without a source field. -/
  vread : List LaneReg := []
  /-- Destination in the lane space. -/
  vdst : List LaneReg := []
  gread : List Nat := []
  gwrite : List Nat := []
  pwrite : List Nat := []
  gpwrite : List Nat := []
  /-- The word writes EXM. -/
  exm : Bool := false
  /-- W = 1. -/
  wbit : Bool := false
  /-- A register word of R41. -/
  regWord : Bool := false
  /-- PMOV, which R41 names among the words that write predicates. -/
  predWord : Bool := false
  /-- A solo word of R40. -/
  solo : Bool := false
  deriving DecidableEq, Repr

/-- Registers of one access (Table 3-3): an element load writes two. -/
def accessRegs (sz : BitVec 2) : Nat := if sz == 0 then 1 else if sz == 2 then 4 else 2
/-- Registers of D in an atomic (Table 3-4). -/
def atomRegs (aop : BitVec 4) (sz : Bool) : Nat := (if sz then 2 else 1) * (if aop == 9 then 2 else 1)
/-- n registers from the first. -/
def regRun (first n : Nat) : List Nat := (List.range n).map (first + ·)

/-- What each word names (the entries of 06, 07, 08, 10, 12, 14 and 17). An event names nothing. -/
def usesOf : Instr → Uses
  | .nop => {}
  | .bra _ => { pipe := .br }
  | .bany _ _ => { pipe := .br }
  | .ball _ _ => { pipe := .br }
  | .bnone _ _ => { pipe := .br }
  | .bdiv _ _ _ => { pipe := .br, solo := true }
  | .join _ => { pipe := .br, solo := true }
  | .call _ => { pipe := .br }
  | .ret => { pipe := .br }
  | .loop g _ => { pipe := .br, gread := [g.toNat], gwrite := [g.toNat] }
  | .jmpf _ _ _ => { pipe := .br }
  | .cfetch _ a => { pipe := .ls, gread := regRun a.toNat 2 }
  | .trap _ => { pipe := .br, solo := true }
  | .exit => { pipe := .br, solo := true }
  | .eret => { pipe := .br, solo := true }
  | .mov w d a => { pipe := .va, regWord := true, wbit := w, vsrc := [(a, false)], vdst := [.v d.toNat 1] }
  | .movi w d _ => { pipe := .va, regWord := true, wbit := w, vdst := [.v d.toNat 1] }
  | .movhi w d _ => { pipe := .va, regWord := true, wbit := w, vdst := [.v d.toNat 1] }
  | .iadd w d a b => { pipe := .va, regWord := true, wbit := w, vsrc := [(a, false), (b, false)], vdst := [.v d.toNat 1] }
  | .iaddi w d a _ => { pipe := .va, regWord := true, wbit := w, vsrc := [(a, false)], vdst := [.v d.toNat 1] }
  | .isub w d a b => { pipe := .va, regWord := true, wbit := w, vsrc := [(a, false), (b, false)], vdst := [.v d.toNat 1] }
  | .imul w d a b => { pipe := .va, regWord := true, wbit := w, vsrc := [(a, false), (b, false)], vdst := [.v d.toNat 1] }
  | .imulh w d a b => { pipe := .va, regWord := true, wbit := w, vsrc := [(a, false), (b, false)], vdst := [.v d.toNat 1] }
  | .imulhu w d a b => { pipe := .va, regWord := true, wbit := w, vsrc := [(a, false), (b, false)], vdst := [.v d.toNat 1] }
  | .imad w d a b => { pipe := .va, regWord := true, wbit := w, vsrc := [(a, false), (b, false)], vread := [.v d.toNat 1], vdst := [.v d.toNat 1] }
  | .iadd64 w d a b => { pipe := .va, regWord := true, wbit := w, vsrc := [(a, true), (b, true)], vdst := [.v d.toNat 2] }
  | .lea w d a b => { pipe := .va, regWord := true, wbit := w, vsrc := [(a, true), (b, false)], vdst := [.v d.toNat 2] }
  | .and w d a b => { pipe := .va, regWord := true, wbit := w, vsrc := [(a, false), (b, false)], vdst := [.v d.toNat 1] }
  | .or w d a b => { pipe := .va, regWord := true, wbit := w, vsrc := [(a, false), (b, false)], vdst := [.v d.toNat 1] }
  | .xor w d a b => { pipe := .va, regWord := true, wbit := w, vsrc := [(a, false), (b, false)], vdst := [.v d.toNat 1] }
  | .andn w d a b => { pipe := .va, regWord := true, wbit := w, vsrc := [(a, false), (b, false)], vdst := [.v d.toNat 1] }
  | .shl w d a b => { pipe := .va, regWord := true, wbit := w, vsrc := [(a, false), (b, false)], vdst := [.v d.toNat 1] }
  | .shr w d a b => { pipe := .va, regWord := true, wbit := w, vsrc := [(a, false), (b, false)], vdst := [.v d.toNat 1] }
  | .sar w d a b => { pipe := .va, regWord := true, wbit := w, vsrc := [(a, false), (b, false)], vdst := [.v d.toNat 1] }
  | .shli w d a _ => { pipe := .va, regWord := true, wbit := w, vsrc := [(a, false)], vdst := [.v d.toNat 1] }
  | .shri w d a _ => { pipe := .va, regWord := true, wbit := w, vsrc := [(a, false)], vdst := [.v d.toNat 1] }
  | .sari w d a _ => { pipe := .va, regWord := true, wbit := w, vsrc := [(a, false)], vdst := [.v d.toNat 1] }
  | .imin w d a b => { pipe := .va, regWord := true, wbit := w, vsrc := [(a, false), (b, false)], vdst := [.v d.toNat 1] }
  | .imax w d a b => { pipe := .va, regWord := true, wbit := w, vsrc := [(a, false), (b, false)], vdst := [.v d.toNat 1] }
  | .umin w d a b => { pipe := .va, regWord := true, wbit := w, vsrc := [(a, false), (b, false)], vdst := [.v d.toNat 1] }
  | .umax w d a b => { pipe := .va, regWord := true, wbit := w, vsrc := [(a, false), (b, false)], vdst := [.v d.toNat 1] }
  | .iabs w d a => { pipe := .va, regWord := true, wbit := w, vsrc := [(a, false)], vdst := [.v d.toNat 1] }
  | .bfe w d a b => { pipe := .va, regWord := true, wbit := w, vsrc := [(a, false), (b, false)], vdst := [.v d.toNat 1] }
  | .fadd w d a b => { pipe := .va, regWord := true, wbit := w, vsrc := [(a, false), (b, false)], vdst := [.v d.toNat 1] }
  | .fsub w d a b => { pipe := .va, regWord := true, wbit := w, vsrc := [(a, false), (b, false)], vdst := [.v d.toNat 1] }
  | .fmul w d a b => { pipe := .va, regWord := true, wbit := w, vsrc := [(a, false), (b, false)], vdst := [.v d.toNat 1] }
  | .ffma w d a b => { pipe := .va, regWord := true, wbit := w, vsrc := [(a, false), (b, false)], vread := [.v d.toNat 1], vdst := [.v d.toNat 1] }
  | .fmin w d a b => { pipe := .va, regWord := true, wbit := w, vsrc := [(a, false), (b, false)], vdst := [.v d.toNat 1] }
  | .fmax w d a b => { pipe := .va, regWord := true, wbit := w, vsrc := [(a, false), (b, false)], vdst := [.v d.toNat 1] }
  | .hadd2 w d a b => { pipe := .va, regWord := true, wbit := w, vsrc := [(a, false), (b, false)], vdst := [.v d.toNat 1] }
  | .hmul2 w d a b => { pipe := .va, regWord := true, wbit := w, vsrc := [(a, false), (b, false)], vdst := [.v d.toNat 1] }
  | .hfma2 w d a b => { pipe := .va, regWord := true, wbit := w, vsrc := [(a, false), (b, false)], vread := [.v d.toNat 1], vdst := [.v d.toNat 1] }
  | .badd2 w d a b => { pipe := .va, regWord := true, wbit := w, vsrc := [(a, false), (b, false)], vdst := [.v d.toNat 1] }
  | .bmul2 w d a b => { pipe := .va, regWord := true, wbit := w, vsrc := [(a, false), (b, false)], vdst := [.v d.toNat 1] }
  | .bfma2 w d a b => { pipe := .va, regWord := true, wbit := w, vsrc := [(a, false), (b, false)], vread := [.v d.toNat 1], vdst := [.v d.toNat 1] }
  | .frcp w d a => { pipe := .vb, regWord := true, wbit := w, vsrc := [(a, false)], vdst := [.v d.toNat 1] }
  | .frsq w d a => { pipe := .vb, regWord := true, wbit := w, vsrc := [(a, false)], vdst := [.v d.toNat 1] }
  | .fexp2 w d a => { pipe := .vb, regWord := true, wbit := w, vsrc := [(a, false)], vdst := [.v d.toNat 1] }
  | .flog2 w d a => { pipe := .vb, regWord := true, wbit := w, vsrc := [(a, false)], vdst := [.v d.toNat 1] }
  | .cvt w d a _ => { pipe := .vb, regWord := true, wbit := w, vsrc := [(a, false)], vdst := [.v d.toNat 1] }
  | .fscale w d a b => { pipe := .vb, regWord := true, wbit := w, vsrc := [(a, false), (b, false)], vdst := [.v d.toNat 1] }
  | .qscale w d a b => { pipe := .vb, regWord := true, wbit := w, vsrc := [(a, false), (b, false)], vdst := [.v d.toNat 1] }
  | .frnd w d a _ => { pipe := .vb, regWord := true, wbit := w, vsrc := [(a, false)], vdst := [.v d.toNat 1] }
  | .icmp _ p a b => { pipe := .va, vsrc := [(a, false), (b, false)], pwrite := [p.toNat] }
  | .ucmp _ p a b => { pipe := .va, vsrc := [(a, false), (b, false)], pwrite := [p.toNat] }
  | .fcmp _ p a b => { pipe := .va, vsrc := [(a, false), (b, false)], pwrite := [p.toNat] }
  | .plop _ p _ _ => { pipe := .va, pwrite := [p.toNat] }
  | .sel w d a b => { pipe := .va, regWord := true, wbit := w, vsrc := [(a, false), (b, false)], vdst := [.v d.toNat 1] }
  | .vote w d _ mode => { pipe := .g, regWord := true, wbit := w, gwrite := if mode == 0 then [d.toNat, d.toNat + 1] else [d.toNat] }
  | .mset _ _ => { pipe := .br, exm := true }
  | .pmovGet d => { pipe := .va, vdst := [.v d.toNat 1], predWord := true }
  | .pmovPut a => { pipe := .va, vsrc := [(a, false)], pwrite := [0, 1, 2, 3, 4, 5, 6, 7] }
  | .dot8w w d a b => { pipe := .vb, regWord := true, wbit := w, vsrc := [(a, false), (b, false)], vread := [.v d.toNat 1], vdst := [.v d.toNat 1] }
  | .dot8i w d a b => { pipe := .vb, regWord := true, wbit := w, vsrc := [(a, false), (b, false)], vread := [.v d.toNat 1], vdst := [.v d.toNat 1] }
  | .dot4w w d a b => { pipe := .vb, regWord := true, wbit := w, vsrc := [(a, false), (b, false)], vread := [.v d.toNat 1], vdst := [.v d.toNat 1] }
  | .dot4i w d a b => { pipe := .vb, regWord := true, wbit := w, vsrc := [(a, false), (b, false)], vread := [.v d.toNat 1], vdst := [.v d.toNat 1] }
  | .shfl w d a b => { pipe := .vb, regWord := true, wbit := w, vsrc := [(a, false), (b, false)], vdst := [.v d.toNat 1] }
  | .shflx w d a _ => { pipe := .vb, regWord := true, wbit := w, vsrc := [(a, false)], vdst := [.v d.toNat 1] }
  | .qxch w d a _ => { pipe := .vb, regWord := true, wbit := w, vsrc := [(a, false)], vdst := [.v d.toNat 1] }
  | .lred w d a _ => { pipe := .vb, regWord := true, wbit := w, vsrc := [(a, false)], vdst := [.v d.toNat 1] }
  | .split d _ => { pipe := .br, solo := true, gwrite := [d.toNat] }
  | .fuse d => { pipe := .br, solo := true, gwrite := [d.toNat] }
  | .region _ => { pipe := .ls }
  | .rdid w d _ => { pipe := .va, regWord := true, wbit := w, vdst := [.v d.toNat 1] }
  | .mrd w d _ _ => { pipe := .g, regWord := true, wbit := w, gwrite := [d.toNat, d.toNat + 1] }
  | .strd w d => { pipe := .g, regWord := true, wbit := w, gwrite := [d.toNat] }
  | .gmov w d a => { pipe := .g, regWord := true, wbit := w, gsrc := [(a, false)], gwrite := [d.toNat] }
  | .gmovi w d _ => { pipe := .g, regWord := true, wbit := w, gwrite := [d.toNat] }
  | .gmovhi w d _ => { pipe := .g, regWord := true, wbit := w, gwrite := [d.toNat] }
  | .gadd w d a b => { pipe := .g, regWord := true, wbit := w, gsrc := [(a, false), (b, false)], gwrite := [d.toNat] }
  | .gaddi w d a _ => { pipe := .g, regWord := true, wbit := w, gsrc := [(a, false)], gwrite := [d.toNat] }
  | .gsub w d a b => { pipe := .g, regWord := true, wbit := w, gsrc := [(a, false), (b, false)], gwrite := [d.toNat] }
  | .gmul w d a b => { pipe := .g, regWord := true, wbit := w, gsrc := [(a, false), (b, false)], gwrite := [d.toNat] }
  | .gand w d a b => { pipe := .g, regWord := true, wbit := w, gsrc := [(a, false), (b, false)], gwrite := [d.toNat] }
  | .gor w d a b => { pipe := .g, regWord := true, wbit := w, gsrc := [(a, false), (b, false)], gwrite := [d.toNat] }
  | .gxor w d a b => { pipe := .g, regWord := true, wbit := w, gsrc := [(a, false), (b, false)], gwrite := [d.toNat] }
  | .gshift w d a b => { pipe := .g, regWord := true, wbit := w, gsrc := [(a, false), (b, false)], gwrite := [d.toNat] }
  | .gcmp _ p a b => { pipe := .g, gsrc := [(a, false), (b, false)], gpwrite := [p.toNat] }
  | .gminmax w d a b => { pipe := .g, regWord := true, wbit := w, gsrc := [(a, false), (b, false)], gwrite := [d.toNat, d.toNat + 1] }
  | .gadd64 w d a b => { pipe := .g, regWord := true, wbit := w, gsrc := [(a, true), (b, true)], gwrite := [d.toNat, d.toNat + 1] }
  | .gbcast w d a b => { pipe := .g, regWord := true, wbit := w, vread := [.v a.toNat 1], gsrc := [(b, false)], gwrite := [d.toNat] }
  | .vbcast w d a => { pipe := .g, regWord := true, wbit := w, gsrc := [(a, false)], vdst := [.v d.toNat 1] }
  | .ldg sz d a _ => { pipe := .ls, vread := [.v a.toNat 2], vdst := [.v d.toNat (accessRegs sz)] }
  | .stg sz d a _ => { pipe := .ls, vread := [.v a.toNat 2, .v d.toNat (accessRegs sz)] }
  | .lds sz d a _ => { pipe := .ls, vread := [.v a.toNat 1], vdst := [.v d.toNat (accessRegs sz)] }
  | .sts sz d a _ => { pipe := .ls, vread := [.v a.toNat 1, .v d.toNat (accessRegs sz)] }
  | .ldv sz d a _ => { pipe := .ls, vread := [.v a.toNat 2], vdst := [.v d.toNat (accessRegs sz)] }
  | .stv sz d a _ => { pipe := .ls, vread := [.v a.toNat 2, .v d.toNat (accessRegs sz)] }
  | .atomg aop sz d a _ => { pipe := .ls, vread := [.v a.toNat 2, .v d.toNat (atomRegs aop sz)], vdst := [.v d.toNat (if sz then 2 else 1)] }
  | .atoms aop sz d a _ => { pipe := .ls, vread := [.v a.toNat 1, .v d.toNat (atomRegs aop sz)], vdst := [.v d.toNat (if sz then 2 else 1)] }
  | .atomv aop sz d a _ => { pipe := .ls, vread := [.v a.toNat 2, .v d.toNat (atomRegs aop sz)], vdst := [.v d.toNat (if sz then 2 else 1)] }
  | .txb d _ => { pipe := .ls, gwrite := [d.toNat] }
  | .txe d => { pipe := .ls, gwrite := [d.toNat] }
  | .txa _ => { pipe := .ls }
  | .fence _ _ _ => { pipe := .ls }
  | .tfence _ => { pipe := .ls }
  | .waitu _ _ _ d a => { pipe := .ls, gread := regRun a.toNat 5, gwrite := [d.toNat, d.toNat + 1] }
  | .waitc _ a => { pipe := .ls, gsrc := [(a, false)] }
  | .mma g a an _ => { pipe := .en, gread := regRun g.toNat 4, gwrite := [g.toNat + 4], vread := [.t a.toNat 1, .a an.toNat 1], vdst := [.a an.toNat 1] }
  | .copy g wup _ _ _ => { pipe := .en, gread := regRun g.toNat 11 ++ (if wup then regRun (g.toNat + 12) 2 else []), gwrite := [g.toNat + 11] }
  | .gather g a _ _ _ _ => { pipe := .en, vsrc := [(a, false)], gread := regRun g.toNat 4, gwrite := [g.toNat + 4] }
  | .coll g _ => { pipe := .en, gread := regRun g.toNat 7, gwrite := [g.toNat + 7] }
  | .launch g => { pipe := .en, gread := regRun g.toNat 11, gwrite := [g.toNat + 11] }
  | .msend g _ => { pipe := .en, gread := regRun g.toNat 3, gwrite := [g.toNat + 3] }
  | .popc w d a => { pipe := .va, regWord := true, wbit := w, vsrc := [(a, false)], vdst := [.v d.toNat 1] }
  | .clz w d a => { pipe := .va, regWord := true, wbit := w, vsrc := [(a, false)], vdst := [.v d.toNat 1] }
  | .brev w d a => { pipe := .va, regWord := true, wbit := w, vsrc := [(a, false)], vdst := [.v d.toNat 1] }
  | .bfi w d a => { pipe := .va, regWord := true, wbit := w, vsrc := [(a, true)], vread := [.v d.toNat 1], vdst := [.v d.toNat 1] }
  | .yield => { pipe := .br, solo := true }
  | .setpl d a => { pipe := .g, gsrc := [(a, false)], gwrite := [d.toNat] }
  | .rdclk d => { pipe := .g, gwrite := [d.toNat, d.toNat + 1] }
  | .rdsync d => { pipe := .g, gwrite := [d.toNat, d.toNat + 1] }
  | .rdprog d => { pipe := .g, gwrite := [d.toNat, d.toNat + 1] }
  | .rdnrg d => { pipe := .g, gwrite := [d.toNat, d.toNat + 1] }
  | .ckpt d => { pipe := .br, solo := true, gwrite := [d.toNat] }
  | .view _ a => { pipe := .g, gsrc := [(a, false)] }
  | .sfmt _ a => { pipe := .g, gsrc := [(a, true)] }
  | .gang d a => { pipe := .g, gsrc := [(a, true)], gwrite := [d.toNat] }
  | .pin d a => { pipe := .ls, gread := regRun a.toNat 2, gwrite := [d.toNat] }
  | .unpin d a => { pipe := .ls, gread := regRun a.toNat 2, gwrite := [d.toNat] }
  | .msr n a => { pipe := .g, gsrc := [(a, false)], gread := [n.toNat] }
  | .mrs d a => { pipe := .g, gsrc := [(a, false)], gwrite := [d.toNat] }
  | .bari a => { pipe := .ls, gread := regRun a.toNat 3 }
  | .bara d a => { pipe := .ls, gread := regRun a.toNat 2, gwrite := [d.toNat] }
  | .barx a => { pipe := .ls, gread := regRun a.toNat 2 }
  | .barw d a => { pipe := .ls, gread := regRun a.toNat 3, gwrite := [d.toNat, d.toNat + 1] }
  | .stagea d a => { pipe := .ls, gread := regRun a.toNat 3, gwrite := [d.toNat, d.toNat + 1] }
  | .stager a => { pipe := .ls, gread := regRun a.toNat 2 }
  | .ringadv _ a => { pipe := .ls, gread := [a.toNat] }
  | .lqrd d => { pipe := .g, gwrite := [d.toNat, d.toNat + 1] }
  | .l1wb a => { pipe := .ls, gread := regRun a.toNat 2 }
  | .l1inv a => { pipe := .ls, gread := regRun a.toNat 2 }
  | .groupEnd _ => {}
  | .strandMerge _ _ _ => {}
  | .joinDeadline _ _ => {}
  | .switchHoldBreak _ _ => {}
  | .fuseWaitTimeout _ => {}
  | .loadWriteback _ => {}
  | .storeAck _ => {}
  | .atomicStep _ _ => {}
  | .atomicReturn _ => {}
  | .pageWalkComplete _ => {}
  | .sectorFillArrival _ => {}
  | .l2FillArrival _ => {}
  | .l1WritebackArrival _ => {}
  | .directoryInvalidation _ => {}
  | .invalidationAck _ => {}
  | .remoteEvictionNotice _ _ => {}
  | .writeAckReceipt _ => {}
  | .fenceComplete _ => {}
  | .txeCommit _ => {}
  | .pinResult _ => {}
  | .cfetchLanding _ => {}
  | .engineQueueAdmit _ => {}
  | .copyChunkLanding _ => {}
  | .gatherElementLanding _ => {}
  | .collChunk _ _ _ => {}
  | .msendDelivery _ _ => {}
  | .msendRetry _ _ => {}
  | .mmaRendezvousOpen _ => {}
  | .mmaResultWrite _ => {}
  | .mmaAbsentTimeout _ => {}
  | .waituWake _ => {}
  | .waituTimeout _ => {}
  | .spillWalk _ => {}
  | .scratchpadMonitorWake _ => {}
  | .scratchpadMonitorExpiry _ => {}
  | .barrierAbandonMark _ => {}
  | .launchPolicyApply _ => {}
  | .fabricPromotion _ => {}
  | .writebackFlitOffer _ => {}
  | .queuePacketTake _ => {}
  | .quote _ => {}
  | .accept _ => {}
  | .decline _ => {}
  | .launchPacket _ => {}
  | .waitPacket _ => {}
  | .waitPacketSatisfied _ => {}
  | .waitPageTimeout _ => {}
  | .signalPacket _ => {}
  | .copyPacket _ => {}
  | .timestampPacket _ => {}
  | .checkpointPacket _ => {}
  | .rollbackPacket _ => {}
  | .quotationExpiry _ => {}
  | .acceptedValidityExpiry _ => {}
  | .queueSlotSwap _ _ => {}
  | .cohortPlacement _ => {}
  | .childPlacement _ => {}
  | .childCompletion _ => {}
  | .launchCompletion _ => {}
  | .preemptionDecision _ => {}
  | .drainWatchdog _ => {}
  | .teamSave _ => {}
  | .teamRestore _ => {}
  | .powerCapReached _ => {}
  | .levelChangeComplete _ => {}
  | .primerWindow _ => {}
  | .droopDetect _ => {}
  | .droopRecovery _ _ => {}
  | .thermalEvent _ _ => {}
  | .dutyWindowSlide _ => {}
  | .dutyClear _ _ => {}
  | .sramsplitWrite _ _ => {}
  | .injWrite _ _ => {}
  | .energyMeterFold _ => {}
  | .tmaxCheck _ => {}
  | .ckiExpiry _ => {}
  | .intervalClose => {}
  | .pairComparison _ => {}
  | .eccUncorrectable _ => {}
  | .hostWrite _ _ => {}
  | .hostRead _ _ => {}
  | .ingressFrame _ _ _ _ _ _ => {}
  | .ptpMessage _ _ => {}
  | .syncLockChange _ => {}
  | .noMasterHeard => {}
  | .eventMessageTransmission _ => {}
  | .ethernetEgress _ _ _ => {}
  | .functionReady _ _ => {}
  | .functionReset _ _ => {}
  | .powerOnReset => {}
  | .deviceReset => {}
  | .createq _ => {}
  | .destroyq _ => {}
  | .setcap _ => {}
  | .setregions _ => {}
  | .undercoat _ => {}
  | .fwupdate _ => {}
  | .attest _ => {}
  | .setfilter _ => {}
  | .mailboxBadreq _ => {}
  | .scrub _ => {}
  | .undercoatDone => {}
  | .undercoatRestore => {}
  | .reservationRevoked _ _ => {}
  | .translationEventServed _ _ => {}
  | .writeToMemoryComplete _ => {}

/-- Bytes of the lane space that registers occupy: first byte and count. -/
def LaneReg.bytes (g : Group) : LaneReg → Nat × Nat
  | .v n c => (g.vAt n, 4 * c)
  | .t n c => (g.tAt n, 32 * c)
  | .a n c => (g.aAt n, 128 * c)
/-- Register numbers stay within their view (R51). -/
def LaneReg.inView : LaneReg → Bool
  | .v n c => decide (n + c ≤ 128)
  | .t n c => decide (n + c ≤ 32)
  | .a n c => decide (n + c ≤ 8)
/-- The registers lie in their view and in the declared space (R51), which is at most the 1,024 bytes of the lane space (05 R81). -/
def LaneReg.ok (g : Group) (r : LaneReg) : Bool :=
  r.inView && decide ((r.bytes g).1 + (r.bytes g).2 ≤ min g.place.regs 1024)

/-- A field names a latch. -/
def isLatch (f : BitVec 8) : Bool := f.msb
/-- The number of the latch or of the register that a field names. -/
def fieldNo (f : BitVec 8) : Nat := if f.msb then f.toNat % 8 else f.toNat

/-- The register that a lane source field names. -/
def srcReg (p : BitVec 8 × Bool) : LaneReg := .v (fieldNo p.1) (if p.2 then 2 else 1)

/-- Every lane register that a word names lies in its view and in the declared space, and every G register exists (R51). -/
def Uses.inSpace (u : Uses) (g : Group) : Bool :=
  (u.vsrc.all fun p => isLatch p.1 || (srcReg p).ok g) && (u.vread.all fun r => r.ok g) && (u.vdst.all fun r => r.ok g)
    && (u.gread ++ u.gwrite).all fun n => decide (n < 128)

/-- A latch may be read as an operand of the size: the group's own result, not lost, not wide, not narrower (R50). -/
def latchOpen (g : Group) (k : Nat) (l : Latch) (wide : Bool) : Bool :=
  l.owner != 0 && l.owner == g.uid && !g.lost.getLsbD k && !l.wide && decide ((if wide then 64 else 32) ≤ l.bits)

/-- Every latch that a word reads may be read (R50). -/
def Uses.latchesOpen (u : Uses) (s : State) : Bool :=
  (u.vsrc.all fun p => !isLatch p.1 || latchOpen s.seen (fieldNo p.1) (s.seenLatch (fieldNo p.1)) p.2)
    && u.gsrc.all fun p => !isLatch p.1
      || ((fieldNo p.1 == 2 || fieldNo p.1 == 6) && latchOpen s.seen (fieldNo p.1) (s.seenLatch (fieldNo p.1)) p.2)

/-- A privileged word (R61). -/
def isPrivileged : Instr → Bool
  | .eret => true
  | .msr _ _ => true
  | .mrs _ _ => true
  | _ => false

/-- The word is an instruction that a group may issue: Table 3-8 by its fields, by the register space and by privilege. -/
def legalIn (i : Instr) (g : Group) : Bool :=
  i.check.isNone && (usesOf i).inSpace g && (!isPrivileged i || g.place.priv)
/-- The word is an instruction that the moving group may issue. -/
def legal (i : Instr) (s : State) : Bool := legalIn i s.seen

/-- ISSUE OF A WORD: ILLEGAL, then LATCH, then what the word does. -/
def issue (i : Instr) (s : State) (k : State → Outcome) : Outcome :=
  if !legal i s then .next (s.trapWord .illegal)
  else if !(usesOf i).latchesOpen s then .next (s.trapWord .latch)
  else k s

/-! ### Source values -/

/-- The entry of a latch for a lane; a group-wide latch gives its value to every lane (R50). -/
def Latch.val (l : Latch) (lane : Nat) : Dword := l.vals.get 0 (if l.shared then 0 else lane)
/-- A 32-bit lane source (R107). -/
def State.src (s : State) (f : BitVec 8) (lane : Nat) : Word :=
  if isLatch f then ((s.seenLatch (fieldNo f)).val lane).truncate 32 else s.seen.vreg lane (fieldNo f)
/-- A 64-bit lane source (R107). -/
def State.src64 (s : State) (f : BitVec 8) (lane : Nat) : Dword :=
  if isLatch f then (s.seenLatch (fieldNo f)).val lane else s.seen.vpair lane (fieldNo f)
/-- A 32-bit group-wide source (R50). -/
def State.gsrc (s : State) (f : BitVec 8) : Word :=
  if isLatch f then ((s.seenLatch (fieldNo f)).val 0).truncate 32 else s.seen.greg (fieldNo f)
/-- A 64-bit group-wide source. -/
def State.gsrc64 (s : State) (f : BitVec 8) : Dword :=
  if isLatch f then (s.seenLatch (fieldNo f)).val 0 else s.seen.gpair (fieldNo f)
/-- The third source: the destination register (R107). -/
def State.dreg (s : State) (d : BitVec 7) (lane : Nat) : Word := s.seen.vreg lane d.toNat

/-! ### Results (R89, R107) -/

/-- Latches L0 to L3, the most recent of VA, VB, G and LS. -/
def Pipe.latchNo : Pipe → Nat
  | .va => 0
  | .vb => 1
  | .g => 2
  | _ => 3

/-- A result enters its pipe's most-recent latch; what was there moves to the second. The group's lost marks move with it. -/
def State.enterLatch (s : State) (gk : Nat) (r : Nat) (l : Latch) : State :=
  let s := s.modQuarter (clusterOf gk) (quarterOf gk) fun q =>
    { q with latches := (q.latches.set {} (r + 4) (q.latches.get {} r)).set {} r l }
  s.modGroup gk fun g =>
    let b := g.lost.getLsbD r
    let x := g.lost &&& ~~~ ((1 : BitVec 8) <<< r) &&& ~~~ ((1 : BitVec 8) <<< (r + 4))
    { g with lost := if b then x ||| ((1 : BitVec 8) <<< (r + 4)) else x }

/-- A per-lane latch content: f in the lanes of the mask, zero elsewhere. -/
def laneLatch (g : Group) (bits : Nat) (wide : Bool) (mask : LaneMask) (f : Nat → Nat) : Latch :=
  { owner := g.uid, width := g.place.width, bits := bits, wide := wide
    vals := (lanesOf mask).foldl (fun t i => t.set 0 i (BitVec.ofNat 64 (f i))) [] }
/-- A group-wide latch content. -/
def sharedLatch (g : Group) (bits : Nat) (v : Dword) : Latch :=
  { owner := g.uid, width := g.place.width, bits := bits, shared := true, vals := Tab.set 0 0 v [] }

/-- A lane word's result: n bytes of f in every lane of EXM unless W is set, and the pipe's latch either way. -/
def State.laneResult (s : State) (pipe : Pipe) (w : Bool) (d n : Nat) (f : Nat → Nat) : State :=
  let m := s.str.exm
  let b := s.seen.vAt d
  let s' := if w then s else s.modMe fun g => g.writeLanes b n f (lanesOf m)
  s'.enterLatch s.cur.group pipe.latchNo (laneLatch s.me (8 * n) false m f)

/-- A lane word: issue, its energy by the lanes of EXM (R109), its result. `f` gives a lane's result from the state before the packet. -/
def laneWord (i : Instr) (pipe : Pipe) (w : Bool) (d : BitVec 7) (n cost : Nat) (f : State → Nat → Nat) (s : State) : Outcome :=
  issue i s fun s => .next ((s.chargeMe (cost * popcount s.str.exm)).laneResult pipe w d.toNat n (f s))

/-- A group-wide result of 32 bits: G(d) unless W is set, and L2 (R153). -/
def State.gResult (s : State) (w : Bool) (d : Nat) (v : Word) : State :=
  let s' := if w then s else s.modMe fun g => g.setG d v
  s'.enterLatch s.cur.group 2 (sharedLatch s.me 32 (v.zeroExtend 64))
/-- A group-wide result of 64 bits: the pair at G(d) unless W is set, and L2 whole. -/
def State.gResult64 (s : State) (w : Bool) (d : Nat) (v : Dword) : State :=
  let s' := if w then s else s.modMe fun g => g.setGPair d v
  s'.enterLatch s.cur.group 2 (sharedLatch s.me 64 v)

/-- Class figures of Table 6-2 and Table 7-2 in 10⁻⁴ pJ. -/
def eVA1 : Nat := 5500
/-- VA2. -/
def eVA2 : Nat := 11000
/-- VB1. -/
def eVB1 : Nat := 14000
/-- G1 and BR1. -/
def eG1 : Nat := 30000

/-- A group-wide word of 32 bits. -/
def groupWord (i : Instr) (w : Bool) (d : BitVec 7) (f : State → Word) (s : State) : Outcome :=
  issue i s fun s => .next ((s.chargeMe eG1).gResult w d.toNat (f s))
/-- A group-wide word of 64 bits. -/
def groupWord64 (i : Instr) (w : Bool) (d : BitVec 7) (f : State → Dword) (s : State) : Outcome :=
  issue i s fun s => .next ((s.chargeMe eG1).gResult64 w d.toNat (f s))

end Sys2Proof.Machine
end

