-- ==== Sys2Proof/Machine/Fetch.lean ====
section
/-! DEFINITION. Fetch blocks, packets and the flow of a strand from packet to packet: entering a block, back-edges, the checks of a
packet at issue, and what holds a packet back (03 R37 to R48, 08 R160 to R169). -/

namespace Sys2Proof.Machine

/-! ### Moving a strand -/

/-- Fields of a reconvergence entry (08 Table 8-2). -/
def rsDeferred (e : BitVec 128) : Bool := e.getLsbD 31
/-- CD. -/
def rsCD (e : BitVec 128) : Nat := bits e.toNat 30 24
/-- RSLOT. -/
def rsSlot (e : BitVec 128) : Nat := bits e.toNat 23 18
/-- RBLK. -/
def rsBlk (e : BitVec 128) : Nat := bits e.toNat 17 13
/-- DBLK. -/
def rsDBlk (e : BitVec 128) : Nat := bits e.toNat 12 8
/-- DPK. -/
def rsDPk (e : BitVec 128) : Nat := bits e.toNat 7 5
/-- LANES. -/
def rsLanes (e : BitVec 128) : LaneMask := e.extractLsb' 64 64
/-- A Rejoin entry. -/
def rejoinEntry (slot blk cd : Nat) (lanes : LaneMask) : BitVec 128 :=
  BitVec.ofNat 128 (lanes.toNat * 2 ^ 64 + cd * 2 ^ 24 + slot * 2 ^ 18 + blk * 2 ^ 13)
/-- A Deferred entry. -/
def deferredEntry (slot blk cd : Nat) (lanes : LaneMask) (dblk dpk : Nat) : BitVec 128 :=
  BitVec.ofNat 128 (lanes.toNat * 2 ^ 64 + 2 ^ 31 + cd * 2 ^ 24 + slot * 2 ^ 18 + blk * 2 ^ 13 + dblk * 2 ^ 8 + dpk * 2 ^ 5)

/-- Counts of the limits whose head block is entered become zero, but for the limit that governs the back-edge taken (08 R166). -/
def resetTrips (lims : List Limit) (seg blk : Nat) (skip : Option Nat) (t : Tab Nat) : Tab Nat :=
  (lims.zipIdx).foldl (fun t (l, i) =>
    if i != 0 && l.seg == seg && l.blk == blk && some i != skip then t.set 0 i 0 else t) t

/-- Entering the block where the PC stands: trip counts restart, matching reconvergence entries are popped; a Deferred entry switches to
its side (08 R162). At most `fuel` entries are popped. -/
def Strand.enter (lims : List Limit) (skip : Option Nat) : Nat → Strand → Strand
  | 0, st => { st with trips := resetTrips lims st.seg (pcBlk st.pc) skip st.trips }
  | fuel + 1, st =>
    let st := { st with trips := resetTrips lims st.seg (pcBlk st.pc) skip st.trips }
    match st.rstack with
    | [] => st
    | e :: t =>
      if rsSlot e == pcSlot st.pc && rsBlk e == pcBlk st.pc && rsCD e == st.calls.length then
        if rsDeferred e then
          Strand.enter lims none fuel { st with rstack := t, exm := rsLanes e, pc := pcOf (rsSlot e) (rsDBlk e) (rsDPk e) }
        else Strand.enter lims skip fuel { st with rstack := t, exm := st.exm ||| (rsLanes e &&& st.members) }
      else st

/-- The limits of a group's image. -/
def State.limitsOf (s : State) (gk : Nat) : List Limit := (s.imageOf (s.group gk).place.launch).limits

/-- A strand transferred to a packet of a block, entering the block (08 R162). -/
def State.enterAt (s : State) (gk k : Nat) (pc : Word) (skip : Option Nat) : State :=
  let lims := s.limitsOf gk
  s.modGroup gk fun g =>
    let st := { g.strand k with pc := pc, block := [] }
    g.setStrand k (st.enter lims skip st.rstack.length)

/-- A strand transferred to packet 0 of a block, entering it. -/
def State.enterBlock (s : State) (gk k slot blk : Nat) (skip : Option Nat) : State := s.enterAt gk k (pcOf slot blk 0) skip

/-- The fetch block that a strand runs: as it was fetched, or, where no packet of it has issued yet, as its slot holds it (08 R171). -/
def State.blockOf (s : State) (gk : Nat) (st : Strand) : List Word :=
  if st.block.isEmpty then (List.range 16).map (s.codeWord gk (pcSlot st.pc) (pcBlk st.pc)) else st.block
/-- The header of that block. -/
def State.headOf (s : State) (gk : Nat) (st : Strand) : Word := (s.blockOf gk st).headD 0

/-- Block and packet index of the packet after the one at a strand's PC (03 R45); past the last block, block 32. -/
def State.nextAt (s : State) (gk : Nat) (st : Strand) : Nat × Nat :=
  if pcPk st.pc + 1 < hdrNP (s.headOf gk st) then (pcBlk st.pc, pcPk st.pc + 1) else (pcBlk st.pc + 1, 0)

/-- A strand on to the packet after the one at its PC. Past block 31 of its slot SEGMENT is raised, the packet in full effect (03 R45). -/
def State.fallThrough (s : State) (gk k : Nat) : State :=
  let st := (s.group gk).strand k
  let pc := st.pc
  let slot := pcSlot pc
  let blk := pcBlk pc
  if pcPk pc + 1 < hdrNP (s.headOf gk st) then
    s.modGroup gk fun g => g.setStrand k { g.strand k with pc := pcOf slot blk (pcPk pc + 1) }
  else if blk < 31 then s.enterBlock gk k slot (blk + 1) none
  else s.takeTrap gk k { kind := .segment, pc := pc }

/-- The moving strand falls through to its next packet. -/
def State.fallMe (s : State) : State := s.fallThrough s.cur.group s.cur.strand

/-- The trip limit t of a limit entry (02 R30): n, or the launch argument capped. An argument that the launch does not have counts as 0 (DESIGN
CHOICE, log 62: the spec refuses the QUOTE of such an image, and is silent on a child whose LAUNCH record gives fewer arguments). -/
def limitOf (l : Launch) (e : Limit) : Nat :=
  match e.arg with
  | none => e.n
  | some k => min (l.args.getD k 0).toNat e.n

/-- The limit entry that governs back-edges of the block that a strand runs; none when LIM is 0 (03 R48). -/
def State.limOf (s : State) (gk : Nat) (st : Strand) : Nat := hdrLIM (s.headOf gk st)

/-- A back-edge from the block at the strand's PC may be taken (08 R166). -/
def State.backEdgeOk (s : State) (gk : Nat) (st : Strand) : Bool :=
  let j := s.limOf gk st
  let l := s.launch (s.group gk).place.launch
  j != 0 && match l.image.limits[j]? with
    | none => false
    | some e => decide (st.trips.get 0 j + 1 + 1 ≤ limitOf l e)

/-- Count the moving strand's back-edge. -/
def State.countBackEdge (s : State) : State :=
  let j := s.limOf s.cur.group s.str
  s.modStr fun st => { st with trips := st.trips.set 0 j (st.trips.get 0 j + 1) }

/-- The block that a branch names, DISP16 blocks from its own, within the slot (03 R46). -/
def branchTarget (pc : Word) (disp : BitVec 16) : Option Nat :=
  let t : Int := (pcBlk pc : Int) + disp.toInt
  if 0 ≤ t && t < 32 then some t.toNat else none

/-- The packet of the moving word must wait: the word has no effect yet. -/
def State.missed (s : State) : State := { s with cur := { s.cur with miss := true } }

/-- The moving strand has been transferred by a BR word. -/
def State.moved (s : State) : State := { s with cur := { s.cur with moved := true } }

/-- What stops a branch: SEGMENT for a target outside the slot, whether the branch is taken or not (R46), LIMIT for a back-edge that is taken
and may not be (R166). -/
def branchTrap (s : State) (taken : Bool) (disp : BitVec 16) : Option TrapKind :=
  match branchTarget s.str.pc disp with
  | none => some .segment
  | some _ => if taken && (disp == 0 || disp.msb) && !s.backEdgeOk s.cur.group s.str then some .limit else none

/-- The moving strand at the block that a taken branch names, its back-edge counted. -/
def branchGo (s : State) (disp : BitVec 16) : State :=
  let pc := s.str.pc
  let b := (branchTarget pc disp).getD 0
  if disp == 0 || disp.msb then
    (s.countBackEdge.enterBlock s.cur.group s.cur.strand (pcSlot pc) b (some (s.limOf s.cur.group s.str))).moved
  else (s.enterBlock s.cur.group s.cur.strand (pcSlot pc) b none).moved

/-! ### JOIN -/

/-- Strands missing at a JOIN of strand k (08 R164). -/
def Group.missing (g : Group) (k : Nat) : List Nat :=
  let st := g.strand k
  g.liveStrands.filter fun j =>
    j != k && (g.strand j).park != .exit
      && (g.strand j).rstack.any fun e => rsSlot e == pcSlot st.pc && rsBlk e == pcBlk st.pc && rsCD e == st.calls.length

/-- A JOIN completes: the strand runs on at the next packet, and issues no LS or EN word before the operations that it has issued
have completed (11 R243). -/
def State.completeJoin (s : State) (gk k : Nat) : State :=
  let s := s.modGroup gk fun g => g.setStrand k { g.strand k with park := .running, drain := g.openOps k }
  s.fallThrough gk k

/-- The first strand that is parked at a JOIN where nobody is missing any more. -/
def Group.joinable (g : Group) : Option Nat :=
  (List.range 4).find? fun k => (g.strand k).live && (g.missing k).isEmpty && match (g.strand k).park with
    | .join _ => true
    | _ => false

/-- Strands parked at a JOIN where nobody is missing any more complete it. -/
def State.settleJoins (s : State) (gk : Nat) : State :=
  (List.range 4).foldl (fun s k =>
    let g := s.group gk
    match (g.strand k).park with
    | .join _ => if (g.strand k).live && (g.missing k).isEmpty then s.completeJoin gk k else s
    | _ => s) s

/-- Two strands stand at one PC with equal stacks (05 R87, 08 R163). -/
def mergeable (a b : Strand) : Bool :=
  a.live && b.live && pcSame a.pc b.pc && a.rstack == b.rstack && a.calls == b.calls && a.seg == b.seg

/-- The first pair of strands of a group that can merge, in strand order. -/
def Group.mergePair (g : Group) : Option (Nat × Nat) :=
  if g.flight.isSome then none else [(0, 1), (0, 2), (0, 3), (1, 2), (1, 3), (2, 3)].find? fun (a, b) => mergeable (g.strand a) (g.strand b)

/-! ### A packet -/

/-- What the fetch at a strand's PC finds: a trap with its restart point, if any (03 R45 to R47, 08 R170); nothing within a block that it has
fetched. A code address from data that names a packet at index NP or above raises ILLEGAL there (DESIGN CHOICE, log 62). DESIGN CHOICE: code
of firmware, for which the spec gives no liveness table, is not checked against one (R45; log 79). -/
def State.fetchTrap (s : State) (gk k : Nat) : Option TrapReport :=
  let g := s.group gk
  let st := g.strand k
  let pc := st.pc
  if !st.block.isEmpty then none
  else if !pcValid pc then some { kind := .alignFetch, pc := pc }
  else if !(s.islot gk (pcSlot pc)).landed then some { kind := .segment, pc := pc }
  else
    let h := s.header gk (pcSlot pc) (pcBlk pc)
    let np := hdrNP h
    let l := s.launch g.place.launch
    let live := (l.image.segs.find? fun x => x.num == hdrSEG h).elim 0 fun x => x.liveness.length
    if np == 0 || decide (6 ≤ np) || bits h.toNat 12 8 != 0 || (l.live && decide (live < hdrLV h + np)) then
      some { kind := .illegal, pc := pcOf (pcSlot pc) (pcBlk pc) 0 }
    else if hdrSEG h != st.seg then some { kind := .segment, pc := pc }
    else if np ≤ pcPk pc then some { kind := .illegal, pc := pc }
    else none

/-- The three words of the packet at a strand's PC. -/
def State.packetWords (s : State) (gk : Nat) (st : Strand) : List Word :=
  let b := s.blockOf gk st
  (List.range 3).map fun j => b.getD (1 + 3 * pcPk st.pc + j) 0
/-- A strand keeps the block that its packet was fetched from. -/
def State.keepBlock (s : State) (gk k : Nat) : State :=
  s.modGroup gk fun g => g.setStrand k { g.strand k with block := s.blockOf gk (g.strand k) }

/-- Number of words in the chain that starts at word 0 (03 R37). -/
def chainLen (ws : List Word) : Nat :=
  if !chainBit (ws.getD 0 0) then 1 else if !chainBit (ws.getD 1 0) then 2 else 3

/-- The instructions of a chain, or its lowest word that is none that the group may issue (R63). -/
def decodeChain (g : Group) : Nat → List Word → Except Nat (List Instr)
  | _, [] => .ok []
  | j, w :: t =>
    match decodeFields w with
    | .error _ => .error j
    | .ok i => if !legalIn i g then .error j else match decodeChain g (j + 1) t with
      | .error e => .error e
      | .ok l => .ok (i :: l)

/-- Two lists have an element in common. -/
def meet (a b : List Nat) : Bool := a.any fun x => b.contains x
/-- Two byte ranges have a byte in common. -/
def overlap (a b : Nat × Nat) : Bool := decide (a.1 < b.1 + b.2) && decide (b.1 < a.1 + a.2)
/-- Some range of one list overlaps one of the other. -/
def overlaps (a b : List (Nat × Nat)) : Bool := a.any fun x => b.any fun y => overlap x y

/-- Bytes of the lane space that a word writes. -/
def Uses.laneWrites (u : Uses) (g : Group) : List (Nat × Nat) :=
  if u.wbit then [] else u.vdst.map fun r => r.bytes g
/-- Bytes of the lane space that a word reads. -/
def Uses.laneReads (u : Uses) (g : Group) : List (Nat × Nat) :=
  ((u.vsrc.filter fun p => !isLatch p.1).map fun p => (srcReg p).bytes g) ++ u.vread.map fun r => r.bytes g
/-- G registers that a word writes. -/
def Uses.gWrites (u : Uses) : List Nat := if u.wbit then [] else u.gwrite
/-- G registers that a word reads. -/
def Uses.gReads (u : Uses) : List Nat :=
  (u.gsrc.filter fun p => !isLatch p.1).flatMap (fun p => if p.2 then [fieldNo p.1, fieldNo p.1 + 1] else [fieldNo p.1]) ++ u.gread

/-- Two words of one packet write a common destination (03 R39). -/
def sameDest (g : Group) (a b : Uses) : Bool :=
  overlaps (a.laneWrites g) (b.laneWrites g) || meet a.gWrites b.gWrites || meet a.pwrite b.pwrite || meet a.gpwrite b.gpwrite
    || (a.exm && b.exm)

/-- Every two words of a list stand in a relation that must not hold. -/
def anyPair (r : Uses → Uses → Bool) : List Uses → Bool
  | [] => false
  | u :: t => t.any (r u) || anyPair r t

/-- The instructions of the packet, or the word with which it raises ILLEGAL under R37, R39, R40 and R41: word 0 for what belongs to the packet
and not to one word (DESIGN CHOICE, log 62). -/
def packetInstrs (g : Group) (ws : List Word) : Except Nat (List Instr) :=
  let n := chainLen ws
  let chain := ws.take n
  if chainBit (ws.getD 2 0) || (ws.drop n).any (· != 0) || (chain.drop 1).any (· == 0) then .error 0
  else match decodeChain g 0 chain with
    | .error j => .error j
    | .ok is =>
      let us := is.map usesOf
      if anyPair (fun a b => a.pipe == b.pipe || sameDest g a b) us then .error 0
      else if decide (1 < n) && us.any Uses.solo then .error 0
      else if us.any Uses.wbit && us.any (fun u => !u.regWord) then .error 0
      else .ok is

/-! ### What holds a packet back (03 R39, R43, 05 R90, 10 R222, 11 R243, 17 R336) -/

/-- Path that a word raises (10 R205, 17 R336). -/
def pathOf : Instr → Option Nat
  | .ldg .. => some 0
  | .stg .. => some 0
  | .atomg .. => some 0
  | .txb .. => some 0
  | .txe .. => some 0
  | .txa .. => some 0
  | .pin .. => some 0
  | .unpin .. => some 0
  | .l1wb .. => some 0
  | .l1inv .. => some 0
  | .lds .. => some 1
  | .sts .. => some 1
  | .atoms .. => some 1
  | .bari .. => some 1
  | .bara .. => some 1
  | .barx .. => some 1
  | .barw .. => some 1
  | .stagea .. => some 1
  | .stager .. => some 1
  | .ringadv .. => some 1
  | .ldv .. => some 2
  | .stv .. => some 2
  | .atomv .. => some 2
  | .cfetch .. => some 3
  | .copy .. => some 4
  | .gather .. => some 5
  | .mma .. => some 6
  | .coll .. => some 7
  | .msend .. => some 8
  | _ => none

/-- The operations of a group in flight. -/
def State.opsOf (s : State) (gk : Nat) : List (Nat × Op) :=
  s.ops.filter fun (_, o) => o.live && o.group == gk && o.uid == (s.group gk).uid

/-- A word must wait for an earlier operation of its group (03 R39, 07 R148). -/
def Uses.held (u : Uses) (g : Group) (ops : List (Nat × Op)) : Bool :=
  ops.any fun (_, o) =>
    overlaps (u.laneReads g ++ u.laneWrites g) o.dst || overlaps (u.laneWrites g) o.src || meet (u.gReads ++ u.gWrites) o.gdst

/-- Latches that a word writes, as the bits L0 to L7 (05 Table 5-3): the pipe's most recent, and the second, which takes its contents. -/
def Uses.latchBits (u : Uses) : BitVec 8 :=
  let two := fun (p : Nat) => ((0x11 : BitVec 8) <<< p)
  if (u.pipe == .va || u.pipe == .vb || u.pipe == .g) && u.regWord then two u.pipe.latchNo
  else if u.pipe == .ls && !u.vdst.isEmpty then two 3 else 0
/-- Latches that a word reads. -/
def Uses.latchReads (u : Uses) : List Nat := (u.vsrc ++ u.gsrc).filterMap fun p => if isLatch p.1 then some (fieldNo p.1) else none

/-- Loads and atomics of a quarter in flight: what they bring enters L3. -/
def State.lsOps (s : State) (gk : Nat) : List Nat :=
  (s.ops.filter fun (_, o) => o.live && o.group / 16 == gk / 16 && match o.kind with
    | .load .. => true
    | .atomic .. => true
    | _ => false).map Prod.fst

/-- The groups of a quarter, but for one, with a packet that has issued and has not been accepted (03 R43), and that writes a latch: the
group, and its packet by the packets retired before it. -/
def State.latchFlights (s : State) (gk n : Nat) : List (Nat × Dword) :=
  ((s.groups.filter fun e => e.1 / 16 == gk / 16 && e.1 != gk && e.2.live && e.2.halt.isNone && match e.2.flight with
    | none => false
    | some f => match packetInstrs e.2 (s.packetWords e.1 (e.2.strand f.strand)) with
      | .error _ => false
      | .ok is => is.any fun i => (usesOf i).latchBits.getLsbD n).map fun e => (e.1, e.2.progress))

/-- A word reads a latch whose contents an earlier word of the quarter has still to write: a load or an atomic in flight, or a word of another
group's packet that waits to be accepted (05 R90). -/
def State.latchBusy (s : State) (gk : Nat) (u : Uses) : Bool :=
  u.latchReads.any fun n => (n % 4 == 3 && !(s.lsOps gk).isEmpty) || !(s.latchFlights gk n).isEmpty

/-! The command word of `MMA` (07 Table 7-8), and the quarters that a member holds. -/

/-- IFMT. -/
def mmaIfmt (c : Nat) : Nat := c % 4
/-- T registers per quarter of B and of A. -/
def mmaS (c : Nat) : Nat := if 2 ≤ mmaIfmt c then 2 else 1
/-- The quarters of B that member idx of a gang of cnt holds, rising (R146). -/
def quartersOf (cnt idx : Nat) : List Nat := (List.range 4).filter fun q => q % min cnt 4 + 1 == idx
/-- CNT of a gang register. -/
def gangCnt (v : Dword) : Nat := bits v.toNat 63 61
/-- IDX. -/
def gangIdx (v : Dword) : Nat := bits v.toNat 60 58

/-- Bytes of the lane space that an `MMA` reads as tiles A and B. -/
def mmaSpans (g : Group) : Instr → List (Nat × Nat)
  | .mma n a _ tb =>
    let sp := mmaS (g.greg n.toNat).toNat
    [(g.tAt (fieldNo a), 32 * sp), (g.tAt tb.toNat, 32 * sp * (quartersOf (gangCnt g.gang) (gangIdx g.gang)).length)]
  | _ => []

/-- SPLIT and FUSE wait for every register write in flight (07 R139). -/
def isWidthWord : Instr → Bool
  | .split .. => true
  | .fuse .. => true
  | _ => false

/-- A packet that a broken run waits for is still in flight. -/
def State.flightOpen (s : State) (e : Nat × Dword) : Bool :=
  let g := s.group e.1
  g.live && g.halt.isNone && g.flight.isSome && g.progress == e.2

/-- Something holds the packet of these instructions back. -/
def State.packetHeld (s : State) (gk k : Nat) (is : List Instr) : Bool :=
  let g := s.group gk
  let ops := s.opsOf gk
  let us := is.map usesOf
  let memory := us.any fun u => u.pipe == .ls || u.pipe == .en
  us.any (fun u => u.held g ops) || g.awaits.any (fun k => (s.op k).live) || g.awaitsFlight.any s.flightOpen || us.any (s.latchBusy gk)
    || (memory && (g.fence.isSome || (g.strand k).drain.any fun o => (s.op o).live))
    || (is.any fun i => overlaps (mmaSpans g i) (ops.flatMap fun e => e.2.dst))
    || (is.any isWidthWord && ops.any fun (_, o) => !o.dst.isEmpty || !o.gdst.isEmpty)
    || is.any fun i => match pathOf i with
      | some p => decide (255 ≤ g.counter p)
      | none => false

/-- The sources of the next packet of a strand that are still awaited: operations whose results it reads or that its destinations wait for,
the tiles of an `MMA` among them, loads and atomics of the quarter before a latch of pipe LS, and other groups' packets in flight before a
latch (03 R39, 05 R90, R91). -/
def State.holdingOps (s : State) (gk k : Nat) : List Nat × List (Nat × Dword) :=
  let g := s.group gk
  match packetInstrs g (s.packetWords gk (g.strand k)) with
  | .error _ => ([], [])
  | .ok is =>
    let us := is.map usesOf
    let own := ((s.opsOf gk).filter fun o => us.any (fun u => u.held g [o]) || is.any fun i => overlaps (mmaSpans g i) o.2.dst).map Prod.fst
    let reads := us.flatMap Uses.latchReads
    (own ++ (if reads.any (· % 4 == 3) then s.lsOps gk else []), reads.flatMap (s.latchFlights gk))

/-- Nothing that the group waits for keeps its next packet: no wait, no packet that is not accepted yet (R43). -/
def Group.waitOver (g : Group) : Bool := g.wait == .none && g.flight.isNone

/-- A group that had to let others go first (08 R174). -/
def State.yieldOver (s : State) (g : Group) : Bool :=
  g.yielded.all fun k => let o := s.group k; !o.live || o.halt.isSome || o.ended

/-- The partner of a group in a paired launch. -/
def State.partner (s : State) (gk : Nat) : Option Nat :=
  let p := (s.group gk).place
  if (s.launch p.launch).paired then s.groupAt (s.team p.team).partner p.off p.width (1 - p.side) else none

/-- A group waits in a `WAITU`, whose value its partner still lacks. -/
def Group.inWaitu (g : Group) : Bool := match g.wait with
  | .monitor .. => true
  | .scratch k _ _ => k == 0
  | _ => false

/-- The right group of a pair has come as far as the left one, or stands at the `WAITU` in which the left one waits (18 R364, R366). -/
def Group.caughtUp (l r : Group) : Bool := decide (l.progress ≤ r.progress) || (l.inWaitu && r.progress + 1 == l.progress)

/-- The groups of a pair whose left one a comparison is forced upon issue nothing more where they stand at one packet (18 R365). -/
def State.pressedStop (s : State) (gk : Nat) : Bool := match s.partner gk with
  | none => false
  | some p =>
    let l := s.group (if (s.group gk).place.side == 0 then gk else p)
    l.pressed && l.halt.isNone && decide ((s.group p).progress ≤ (s.group gk).progress)

/-- A group issues nothing while its team is being saved, and while a close has stopped its protected launch, and before a comparison that is
forced on its pair; a group of a pair goes on as far as its partner has come (13 R284, 18 R360, R365, R366, log 36). -/
def State.stopped (s : State) (gk : Nat) : Bool :=
  let g := s.group gk
  let t := s.team g.place.team
  let l := s.launch g.place.launch
  let behind := match s.partner gk with
    | some p => decide (g.progress < (s.group p).progress)
    | none => false
  ((t.phase == .saving || (s.rel.closing && l.prot && l.live)) && !behind) || s.pressedStop gk

/-- A strand's next packet can issue in this cycle (13 R277). -/
def State.strandReady (s : State) (gk k : Nat) : Bool :=
  let g := s.group gk
  let st := g.strand k
  g.live && !s.stopped gk && g.halt.isNone && !g.ended && g.waitOver && s.yieldOver g && g.mergePair.isNone && g.joinable.isNone && st.live
    && st.park == .running
    && ((s.fetchTrap gk k).isSome
      || match packetInstrs g (s.packetWords gk st) with
        | .error _ => true
        | .ok is => !s.packetHeld gk k is)

/-- The strand that takes the group's turn: the first ready one at or after the strand pointer (05 R87). -/
def State.nextStrand (s : State) (gk : Nat) : Option Nat :=
  ((List.range 4).map fun i => ((s.group gk).sptr + i) % 4).find? fun k => s.strandReady gk k

/-- The group that a quarter issues from (13 R277): the holder of a switch hold, else the first ready DL group at or after the pointer,
else the first ready group. -/
def State.nextGroup (s : State) (cl q : Nat) : Option (Nat × Nat) :=
  let qq := s.quarter cl q
  let ring := (List.range 16).map fun i => groupKey cl q ((qq.rr + i) % 16)
  let cand := match qq.hold with
    | some h => [h.group]
    | none => ring
  let ready := cand.filterMap fun gk => (s.nextStrand gk).map fun k => (gk, k)
  (ready.find? fun (gk, _) => (s.group gk).place.cls == 0).orElse fun _ => ready.head?

end Sys2Proof.Machine
end

