-- ==== Sys2Proof/Machine/Fabric.lean ====
section
/-! DEFINITION. The loop fabric: stations, routes, the tags of requests, and the order in which the queues of stations, links, slices and
memory controllers serve them (19 R368 to R375, 11 R239). -/

namespace Sys2Proof.Machine

/-! ### Stations and routes (R368, R369)

Stations of a die, in the order R368 lists them: bays 0 to 31, HBM controllers 32 to 37, LPDDR6 controller groups 38 and 39, Ethernet ports
40 to 43, die-to-die ports 44 to 46, the front end 47 (DESIGN CHOICE of numbers, log 56). -/

/-- Station of a cluster: its bay. -/
def bayOf (cl : Nat) : Nat := siteOf cl / 4
/-- Station of the memory controller that holds an address. -/
def controllerOf (pa : Nat) : Nat := match regionOf pa with
  | .hbm k => 32 + k % 6
  | .dustSheet k => 32 + k % 6
  | .lpddr c => 38 + c % 12 / 6
  | _ => 32
/-- Station of a die's port to another die. -/
def portTo (die other : Nat) : Nat := 44 + if other < die then other else other - 1

/-- Hops from a station to another on a loop that visits both. -/
def loopHops (l a b : Nat) : Option Nat :=
  let st := Config.loopStations l
  if st.contains a && st.contains b then some ((st.idxOf b + st.length - st.idxOf a) % st.length) else none

/-- The loop from a station to another: the fewest hops, a tie to the lower number (R369). -/
def loopFor (a b : Nat) : Nat :=
  (((List.range 40).foldl (fun (m : Option (Nat × Nat)) l => match loopHops l a b, m with
    | none, _ => m
    | some h, none => some (h, l)
    | some h, some (g, _) => if h < g then some (h, l) else m) none).map Prod.snd).getD 0

/-- A ride between two stations of a die; none where they are one. -/
def ride (die a b : Nat) : List Leg := if a == b then [] else [.inject die a (loopFor a b)]
/-- From a station of a die to a station of a die: a ride, or two with the link between them (R375). -/
def way (src a dst b : Nat) : List Leg :=
  if src == dst then ride src a b else ride src a (portTo src dst) ++ .port src dst :: ride dst (portTo dst src) b

/-- Energy of a byte on a way: 1.0 pJ for each traversal of a loop, 2.0 pJ for a link (R369, R375; unit 10⁻⁴ pJ). -/
def legsCost (legs : List Leg) : Nat := legs.foldl (fun n l => match l with
  | .inject .. => n + 10000
  | .port .. => n + 20000
  | _ => n) 0

/-- The loops on which the paths of a die's bays run: from them to every slice and back, and from the slices to the memory controllers and the
ports of the other dies; the home of a line is not known to the walk of a quotation (16 R406). -/
def loopsOn (bays : List Nat) : List Nat :=
  let pairs := (bays.flatMap fun a => (List.range 32).map fun n => (a, n))
    ++ (List.range 32).flatMap fun n => [32, 33, 34, 35, 36, 37, 44, 45, 46].map fun c => (n, c)
  ((pairs.filter fun p => p.1 != p.2).flatMap fun p => [loopFor p.1 p.2, loopFor p.2 p.1]).eraseDups

/-- The way of a cluster's request to the home slice of a line: a remote line's passes the slice of its own die first (11 R239). -/
def toHome (cl l : Nat) : List Leg :=
  let key := homeSlice (l * 256)
  let n := key % 32
  let die := dieOf cl
  (if key / 32 == die then ride die (bayOf cl) n else ride die (bayOf cl) n ++ .pass (die * 32 + n) :: way die n (key / 32) n) ++ [.slice key]
/-- The way of a cluster's fill request to the slice of its own die. -/
def toSlice (cl l : Nat) : List Leg :=
  let n := sliceNo (l * 256)
  ride (dieOf cl) (bayOf cl) n ++ [.slice (dieOf cl * 32 + n)]
/-- The way back from a slice to a cluster (25 Table 25-1). -/
def toCluster (key cl : Nat) : List Leg := way (key / 32) (key % 32) (dieOf cl) (bayOf cl)
/-- The way from the home slice of a line to its memory controller. -/
def toMemory (l : Nat) : List Leg :=
  let key := homeSlice (l * 256)
  let c := controllerOf (l * 256)
  ride (key / 32) (key % 32) c ++ [.memory (key / 32) c]
/-- The way of a slice's fill: to memory at home, to the home slice elsewhere. -/
def fillWay (die l : Nat) : List Leg :=
  let key := homeSlice (l * 256)
  if key / 32 == die then toMemory l else way die (key % 32) (key / 32) (key % 32) ++ [.slice key]

/-! ### Tags (R370 to R373) -/

/-- Ready groups of the moving group's quarter at issue; 0 where no group of the cluster is moving. -/
def State.slack (s : State) (cl : Nat) : Nat :=
  let base := s.cur.group / 16 * 16
  if s.cur.view.isSome && clusterOf s.cur.group == cl then
    ((List.range 16).filter fun i => (s.nextStrand (base + i)).isSome).length
  else 0

/-- One more injection on a loop would take a context above its share, counting 256 bytes for each of the last microsecond's flits (log 56);
a context without a reservation has none (R373). -/
def State.beyond (s : State) (cl qidx loop : Nat) : Bool :=
  let r := s.resv.get {} (dieOf cl * 4096 + qidx)
  match r.live, r.share with
  | true, some h =>
    let n := ((s.cluster cl).flits.filter fun f => decide (s.time.toNat < f.1 + 1000) && f.2.1 == loop && f.2.2 == qidx).length
    decide (h.fabs * 2000 < 256 * (n + 1))
  | _, _ => true

/-- A request leaves a cluster, or a slice on behalf of one, with its tag. A tag that names no live entry is of no class. -/
def State.send (s : State) (kind : ReqKind) (cl op qidx : Nat) (legs : List Leg) : State × Nat :=
  let q := s.quote qidx
  s.newReq { kind := kind, cluster := cl, op := op, qidx := qidx, dl := qidx != 0xFFF && q.state != .free && q.cls == 0
             slk := s.slack cl
             xs := !(s.resv.get {} (dieOf cl * 4096 + qidx)).live, legs := legs, since := s.time.toNat }

/-- The request stands at the station of the cluster that sent it. -/
def Req.atSource (r : Req) : Bool := match r.legs with
  | .inject d a _ :: _ => d == dieOf r.cluster && a == bayOf r.cluster
  | _ => false
/-- XS of a request: metered where it waits at its own station, as tagged elsewhere (R373). -/
def State.xsOf (s : State) (r : Req) : Bool := match r.legs with
  | .inject _ _ l :: _ => if r.atSource then s.beyond r.cluster r.qidx l else r.xs
  | _ => r.xs
/-- AGE: rounds waited at the present queue, revolutions of the loop at a station (a station each 0.5 ns), services elsewhere. -/
def State.rounds (s : State) (r : Req) : Nat := match r.legs with
  | .inject _ _ l :: _ => min 255 ((s.time.toNat - r.since) * 2 / (Config.loopStations l).length)
  | _ => min 255 r.age

/-- PRO: a request is promoted once it has waited 64 rounds at its queue, whether or not the bit stands in its tag yet (R372). -/
def State.promoted (s : State) (r : Req) : Bool := r.pro || decide (64 ≤ s.rounds r)

/-- The sort key of R371: promoted, oldest first; then DL, XS, SLK, AGE and the source cluster's site; then the source die (25 R403). -/
def State.rank (s : State) (k : Nat) : List Nat :=
  let r := s.req k
  if s.promoted r then [0, r.since, dieOf r.cluster, siteOf r.cluster, k]
  else [1, if r.dl then 0 else 1, if s.xsOf r then 1 else 0, r.slk, 255 - s.rounds r, siteOf r.cluster, dieOf r.cluster, k]

/-- Lexicographic order of keys. -/
def keyBefore : List Nat → List Nat → Bool
  | a :: s, b :: t => decide (a < b) || (a == b && keyBefore s t)
  | _, _ => false

/-- A request is the first at its present queue among those that may be served there (R371). -/
def State.first (s : State) (able : Nat → Bool) (k : Nat) : Bool :=
  able k && s.reqs.all fun e => e.1 == k || e.2.legs.head? != (s.req k).legs.head? || !able e.1 || keyBefore (s.rank k) (s.rank e.1)

/-- The station where a request leaves its last loop. -/
def Req.goal (r : Req) : Nat := match r.legs.getLast? with
  | some (.slice key) => key % 32
  | some (.memory _ c) => c
  | _ => match r.kind with
    | .inv l _ => sliceNo (l * 256)
    | .invAck l _ => sliceNo (l * 256)
    | _ => bayOf r.cluster

/-- No earlier request of the same cluster to the same slice waits at the same queue (11 R239, R369), and none that one station injected
earlier for the same station waits at the same link (R375). -/
def State.inOrder (s : State) (k : Nat) : Bool :=
  let r := s.req k
  let link := match r.legs with
    | .port .. :: _ => true
    | _ => false
  r.live && !(s.reqs.any fun e => e.2.live && e.2.legs.head? == r.legs.head?
    && ((decide (e.1 < k) && e.2.cluster == r.cluster && e.2.legs.getLast? == r.legs.getLast?)
      || (link && decide (e.2.seq < r.seq) && e.2.src == r.src && e.2.goal == r.goal)))

/-- The service of a request at a queue is a round for those that wait there. -/
def State.ageAt (s : State) (h : Option Leg) : State :=
  { s with reqs := s.reqs.map fun e => if e.2.legs.head? == h && h.isSome then (e.1, { e.2 with age := min 255 (e.2.age + 1) }) else e }

/-- A request turned into another that sets out now. -/
def Req.turn (r : Req) (now : Nat) (kind : ReqKind) (legs : List Leg) : Req := { r with kind := kind, legs := legs, age := 0, since := now }

/-- A die's clean copy of the sectors that a mask names goes (11 R239). -/
def State.dropSectors (s : State) (die l : Nat) (mask : BitVec 256) : State :=
  if die == homeDie (l * 256) then s
  else s.modSlice (die * 32 + sliceNo (l * 256)) fun x =>
    let ln := x.line l
    if !ln.live then x
    else
      let v := (List.range 4).foldl (fun v k => if mask &&& sectorMask k == 0 then v else v &&& ~~~ (1#4 <<< k)) ln.valid
      if v == 0 && ln.pins.isEmpty then { x with lines := x.lines.set {} l {} }
      else { x with lines := x.lines.set {} l { ln with valid := v } }

/-- A request may leave the queue of a station, of a link, or of the slice it passes. -/
def State.hopOpen (s : State) (k : Nat) : Bool :=
  match (s.req k).live, (s.req k).legs with
  | true, .inject .. :: _ => s.first s.inOrder k
  | true, .port .. :: _ => s.first s.inOrder k
  | true, .pass _ :: _ => s.inOrder k
  | _, _ => false

/-- A request leaves that queue for the next: a station meters its own clusters, and the slice of the die drops its copy of the sectors that
a write-back or an atomic names. -/
def State.hop (s : State) (k : Nat) : State :=
  let r := s.req k
  let now := s.time.toNat
  let next := { r with legs := r.legs.tail, xs := s.xsOf r, age := 0, since := now }
  let next := match r.legs with
    | .inject _ a _ :: _ => { next with src := a, seq := s.free }
    | _ => next
  let s := s.setReq k next
  match r.legs with
  | .inject _ _ l :: _ =>
    if r.atSource then s.modCluster r.cluster fun c =>
      { c with flits := (now, l, r.qidx) :: c.flits.filter fun f => decide (now < f.1 + 1000) }
    else s
  | .port a b :: _ => s.ageAt (some (.port a b))
  | .pass key :: _ => match r.kind with
    | .wb l m .. => s.dropSectors (key / 32) l m
    | .atom a => s.dropSectors (key / 32) (a / 256) (sectorMask (sectorOf (a % 256)))
    | _ => s
  | _ => s

end Sys2Proof.Machine
end

