-- ==== Sys2Proof/Machine/Translate.lean ====
section
/-! DEFINITION. Translation: page-table walks, the TLBs, and the checks that a lane's access meets at acceptance (10 R202 to R205,
15 R308 to R314). -/

namespace Sys2Proof.Machine

/-! ### What holds a home slice back -/

/-- The home slice answers no read of the line: invalidations of a stamped write are not all acknowledged, or a commit other than `op`
holds its lock (11 R238, 10 R218). -/
def State.lineBusy (s : State) (l op : Nat) : Bool :=
  let x := s.slice (homeSlice (l * 256))
  (x.dir.get {} l).pend != 0 || x.locks.any fun e => e.1 == l && e.2 != op

/-! ### Routes and their energy (09 Table 9-5), unit 10⁻⁴ pJ -/

/-- Energy of n bytes between a cluster and a slice or vault beyond the level's own: loop traversals and the die-to-die link. -/
def routeCost (cl pa n : Nat) : Nat :=
  if homeDie pa != dieOf cl then n * 40000 else if orderKey pa % 32 == siteOf cl / 4 then 0 else n * 10000
/-- Energy of n bytes of a vault access. -/
def vaultCost (cl pa n : Nat) : Nat :=
  if homeDie pa == dieOf cl && orderKey pa % 32 == siteOf cl / 4 then n * 20000
  else if homeDie pa == dieOf cl then n * 35000 else n * 55000
/-- Energy of n bytes of an L2 slice with the route to it. -/
def sliceCost (cl pa n : Nat) : Nat := n * 38000 + routeCost cl pa n
/-- The home slice has the sector of an address. -/
def State.homeHas (s : State) (pa : Nat) : Bool :=
  let ln := (s.slice (homeSlice pa)).line (pa / 256)
  let k := sectorOf (pa % 256)
  ln.live && (ln.valid.getLsbD k || coversSector ln.dirty k)

/-- Sectors of a line from memory into its home slice: bytes already dirty stay, and so does the mark of a sector wholly dirty
(09 R194, R201). -/
def State.fillHome (s : State) (l qidx : Nat) (ks : List Nat) : State :=
  let key := homeSlice (l * 256)
  let s := s.allocLine key l qidx
  if !((s.slice key).line l).live then s
  else s.modSlice key fun x =>
    let ln := x.line l
    let fresh := fun (i : Nat) => ks.contains (sectorOf i) && !ln.has i
    let data := (List.range 256).foldl (fun d i => if fresh i then d.set 0 i (s.memByte (l * 256 + i)) else d) ln.data
    let pz := ks.foldl (fun m k =>
      if s.homePoison (l * 256 + 64 * k) then m ||| (1#4 <<< k) else m &&& ~~~ (1#4 <<< k)) ln.poison
    let v := ks.foldl (fun v k => v ||| (1#4 <<< k)) ln.valid
    { x with lines := x.lines.set {} l { ln with valid := v, data := data, poison := pz, use := s.free } }

/-- The outstanding fill of a line by a slice of a die, with the sectors it is to bring (09 R194). -/
def State.fillOf (s : State) (die l : Nat) : Option (Nat × List Want) :=
  s.reqs.findSome? fun e => match e.2.kind with
    | .l2fill d l' ws => if d == die && l' == l then some (e.1, ws) else none
    | _ => none

/-- A miss of a sector can be served: it joins the entry of its line, or takes a free one of the 64. -/
def State.fillOpen (s : State) (die sector : Nat) : Bool :=
  match s.fillOf die (sector / 4) with
  | some (_, ws) => !ws.any fun w => w.sector == sector
  | none => decide ((s.slice (die * 32 + sliceNo (sector * 64))).misses.length < 64)

/-- A sector that the slice of a die lacks is asked for: it joins the outstanding fill of its line, or takes an entry of the miss table
(09 R194). It pays for a number of bytes of memory. -/
def State.askFill (s : State) (die sector cl qidx bytes req : Nat) : State :=
  let w : Want := { sector := sector, cluster := cl, qidx := qidx, bytes := bytes, req := req }
  let key := die * 32 + sliceNo (sector * 64)
  if !s.fillOpen die sector then s
  else match s.fillOf die (sector / 4) with
    | some (k, ws) => let r := s.req k; s.setReq k { r with kind := .l2fill die (sector / 4) (ws ++ [w]) }
    | none =>
      let (s, r) := s.send (.l2fill die (sector / 4) [w]) cl 0 qidx (fillWay die (sector / 4))
      s.modSlice key fun x => { x with misses := x.misses ++ [r] }

/-- The sectors of pieces of global memory that their home slices lack and have a place for in the ways of a context: one that they cannot
keep is read in memory (log 57). -/
def State.lacking (s : State) (qidx : Nat) (l : List (Nat × Nat)) : List Nat :=
  (l.flatMap fun (a, n) => ((List.range ((a + n - 1) / 64 + 1 - a / 64)).map (a / 64 + ·)).filter fun k =>
    isGlobal (k * 64) && !s.homeHas (k * 64) && s.hasPlace (homeSlice (k * 64)) (k / 4) qidx).eraseDups

/-- The home slices are asked for sectors that a read at home lacks; each pays for a number of bytes. -/
def State.wantHome (s : State) (cl qidx bytes : Nat) (secs : List Nat) : State :=
  secs.foldl (fun s k => s.askFill (homeDie (k * 64)) k cl qidx bytes 0) s

/-! ### Page-table entries (15 R309, R310) -/

/-- First address of the frame of a leaf, or of the next table. -/
def pteFrame (e : BitVec 128) : Nat := bits e.toNat 47 16 * 65536
/-- Address of the next table. -/
def pteTable (e : BitVec 128) : Nat := bits e.toNat 47 9 * 512
/-- A leaf's element format. -/
def pteFmt (e : BitVec 128) : Nat := bits e.toNat 87 84
/-- A leaf's geometry. -/
def pteGeo (e : BitVec 128) : Nat := bits e.toNat 83 81
/-- A leaf's row length exponent. -/
def pteRl (e : BitVec 128) : Nat := bits e.toNat 80 77
/-- A leaf's scale-plane base. -/
def pteSpb (e : BitVec 128) : Nat := bits e.toNat 127 88 * 256
/-- Bits of a page that a leaf of a level maps. -/
def levelBits (lvl : Nat) : Nat := if lvl == 0 then 16 else if lvl == 1 then 21 else 30
/-- Bits of a table at a level. -/
def tableBits (lvl : Nat) : Nat := if lvl == 0 then 9 else 13

/-- A frame or a table may lie at an address. -/
def frameOk (pa : Nat) : Bool := match regionOf pa with | .hbm _ => true | .lpddr _ => true | .vault _ _ => true | .device => true | _ => false
/-- A table may lie at an address: where its reads have a home. -/
def tableOk (pa : Nat) : Bool := isGlobal pa || isVault pa

/-- The entry is a leaf that its level permits, whole and with a frame that may stand. -/
def leafOk (e : BitVec 128) (lvl : Nat) : Bool :=
  e.getLsbD 0 && e.getLsbD 1 && decide (lvl ≤ 2) && bits e.toNat 76 48 == 0 && bits e.toNat 15 6 == 0
    && pteFrame e % 2 ^ levelBits lvl == 0 && frameOk (pteFrame e) && frameOk (pteFrame e + 2 ^ levelBits lvl - 1)
/-- The entry names a table of the level below that may stand. -/
def tablePtrOk (e : BitVec 128) (lvl : Nat) : Bool :=
  e.getLsbD 0 && !e.getLsbD 1 && bits e.toNat 8 2 == 0 && bits e.toNat 127 48 == 0
    && pteTable e % 2 ^ tableBits (lvl - 1) == 0 && tableOk (pteTable e) && tableOk (pteTable e + 2 ^ tableBits (lvl - 1) - 1)

/-- Address of the entry that a level of a walk reads. -/
def entryAddr (table lvl va : Nat) : Nat :=
  table + 16 * (if lvl == 0 then bits va 20 16 else bits va (20 + 9 * lvl) (12 + 9 * lvl))

/-- An entry as its ordering point has it, and whether it is poisoned. -/
def State.entryAt (s : State) (pa : Nat) : BitVec 128 × Bool :=
  if isVault pa then
    (BitVec.ofNat 128 (leNat (s.readMem pa 16)), (List.range 4).any fun i => s.vaultPoison.get false (pa / 4 + i))
  else (BitVec.ofNat 128 (leNat (s.homeBytes pa 16)), s.homePoison pa)

/-- A WALK from the table of a level: the entries it reads, and the leaf with the size of its page where there is one (15 R308). -/
def State.walkTable (s : State) (va : Nat) : Nat → Nat → List Nat × Option (BitVec 128 × Nat)
  | 0, table =>
    let a := entryAddr table 0 va
    let (e, p) := s.entryAt a
    ([a], if !p && leafOk e 0 then some (e, 16) else none)
  | lvl + 1, table =>
    let a := entryAddr table (lvl + 1) va
    let (e, p) := s.entryAt a
    if p then ([a], none)
    else if leafOk e (lvl + 1) then ([a], some (e, levelBits (lvl + 1)))
    else if tablePtrOk e (lvl + 1) then
      let (r, x) := s.walkTable va lvl (pteTable e)
      (a :: r, x)
    else ([a], none)

/-- A walk from a root. -/
def State.walkRoot (s : State) (root va : Nat) : List Nat × Option (BitVec 128 × Nat) :=
  if root % 8192 == 0 && tableOk root && tableOk (root + 8191) then s.walkTable va 4 root else ([], none)

/-- The root of a context's address space (15 R308). -/
def State.rootOf (s : State) (die qidx : Nat) : Nat := if qidx == 0xFFF then (s.die die).fwRoot else (s.quote qidx).root

/-- The energy of a walk, charged to the context on a cluster (15 R313). -/
def State.chargeWalk (s : State) (cl qidx : Nat) (reads : List Nat) : State :=
  reads.foldl (fun s a =>
    s.charge cl qidx ((if isVault a then vaultCost cl a 16 else sliceCost cl a 16) + 30000)) s

/-! ### TLBs (15 R312) -/

/-- The entry covers an address of a context. -/
def TlbEntry.covers (e : TlbEntry) (qidx va : Nat) : Bool := e.qidx == qidx && e.va == va / 2 ^ e.bits * 2 ^ e.bits
/-- The physical address of an address that the entry covers. -/
def TlbEntry.pa (e : TlbEntry) (va : Nat) : Nat := pteFrame e.pte + va % 2 ^ e.bits

/-- Sets of a part of a cluster TLB. -/
def tlbSets (bits : Nat) : Nat := if bits == 16 then 128 else if bits == 21 then 32 else 16
/-- Ways of a part of a cluster TLB. -/
def tlbWays (bits : Nat) : Nat := if bits == 30 then 8 else 12

/-- The entry with the least recent use. -/
def oldestEntry : List TlbEntry → Option TlbEntry
  | [] => none
  | e :: t => match oldestEntry t with
    | none => some e
    | some f => if e.use ≤ f.use then some e else some f

/-- An entry put into a TLB: `here` are the entries of its set, `mayGo` those that may be its victim. Of a full set the least recently used of
those that may go goes; where none may, the new entry is not kept (16 R332). -/
def tlbInsert (here mayGo : TlbEntry → Bool) (ways : Nat) (e : TlbEntry) (l : List TlbEntry) : List TlbEntry :=
  let l := l.filter fun x => !(x.qidx == e.qidx && x.bits == e.bits && x.va == e.va)
  let set := l.filter here
  if set.length < ways then e :: l
  else match oldestEntry (set.filter mayGo) with
    | some v => e :: l.filter (· != v)
    | none => l

/-- An entry is held for its context by a reservation: the context has no more entries in the TLB than its TLBE (16 R332). -/
def State.tlbHeld (s : State) (die : Nat) (l : List TlbEntry) (x : TlbEntry) : Bool :=
  match ((s.resv.get {} (die * 4096 + x.qidx)).share) with
  | some h => decide ((l.filter fun y => y.qidx == x.qidx).length ≤ h.tlbe)
  | none => false

/-- A leaf put into a cluster's TLB: its set in the part of its page size; entries held for another context stay (log 58). -/
def State.tlbFill (s : State) (cl : Nat) (e : TlbEntry) : State :=
  let set := fun (x : TlbEntry) => x.va / 2 ^ x.bits % tlbSets x.bits
  s.modCluster cl fun c =>
    { c with tlb := tlbInsert (fun x => x.bits == e.bits && set x == set e) (fun x => x.qidx == e.qidx || !s.tlbHeld (dieOf cl) c.tlb x)
                      (tlbWays e.bits) e c.tlb }
/-- A leaf put into a die-level TLB: 2,048 sets of 16 ways, by page number, for pages of every size (the spec gives no index; log 11). -/
def State.dieTlbFill (s : State) (die : Nat) (e : TlbEntry) : State :=
  s.modDie die fun d =>
    { d with tlb := tlbInsert (fun x => x.va / 2 ^ x.bits % 2048 == e.va / 2 ^ e.bits % 2048) (fun _ => true) 16 e d.tlb }

/-- A leaf handed to the groups that wait for a walk and whose cluster's TLB had no place for it, for the packet that waits (16 R332). -/
def State.handLeaf (s : State) (k : Nat) (e : TlbEntry) : State :=
  s.groups.foldl (fun s x =>
    if x.2.live && x.2.wait == .walk k && !(s.cluster (clusterOf x.1)).tlb.any fun y => y.qidx == e.qidx && y.va == e.va && y.bits == e.bits then
      s.modGroup x.1 fun g => { g with spare := e :: g.spare }
    else s) s

/-- The entry of a cluster's TLB for an address. -/
def State.tlbHit (s : State) (cl qidx va : Nat) : Option TlbEntry := (s.cluster cl).tlb.find? fun e => e.covers qidx va

/-- Mark the entries that cover addresses of a context as used. -/
def State.tlbUse (s : State) (cl qidx : Nat) (vas : List Nat) : State :=
  s.modCluster cl fun c =>
    { c with tlb := c.tlb.map fun e => if vas.any fun va => e.covers qidx va then { e with use := s.free } else e }

/-- Mark the entries of a die-level TLB that cover an address of a context as used. -/
def State.dieTlbUse (s : State) (die qidx va : Nat) : State :=
  s.modDie die fun d => { d with tlb := d.tlb.map fun e => if e.covers qidx va then { e with use := s.free } else e }

/-! ### What an access finds at acceptance -/

/-- A translation of a group's address as it stands. -/
inductive Look where
  | page (e : TlbEntry) (pa : Nat)
  | fail
  | miss
  deriving DecidableEq, Repr

/-- The moving group's translation of an address. A page whose walk has failed for the waiting packet is unmapped (15 R311). -/
def State.look (s : State) (va : Nat) : Look :=
  if 2 ^ 57 ≤ va then .fail
  else match (s.tlbHit s.myCluster s.seen.place.qidx va).orElse fun _ => s.me.spare.find? fun e => e.covers s.seen.place.qidx va with
    | some e => .page e (e.pa va)
    | none => if s.me.noPage.contains (va / 65536) then .fail else .miss

/-- What an access needs of its page. -/
structure Need where
  vault : Bool := false
  rd : Bool := false
  wr : Bool := false
  deriving DecidableEq, Repr

/-- The page permits the access (10 R203, 15 R310). -/
def pageOk (priv : Bool) (n : Need) (e : TlbEntry) (pa : Nat) : Bool :=
  (priv || !e.pte.getLsbD 4) && (!n.rd || e.pte.getLsbD 2) && (!n.wr || e.pte.getLsbD 3) && isVault pa == n.vault

/-- n bytes lie in one range that the image declares; firmware declares none (10 R203). -/
def State.declared (s : State) (va n : Nat) : Bool :=
  s.seen.place.priv || (s.launch s.seen.place.launch).ranges.any fun r => decide (r.base ≤ va) && decide (va + n ≤ r.base + r.len)

/-- What the lanes of a word find. -/
inductive Access where
  | trap (k : TrapKind) (lane addr : Nat)
  | miss (va : Nat)
  | ok (l : List (Acc × TlbEntry))
  deriving DecidableEq, Repr

/-- The first lane of a list that meets a condition, as a trap. -/
def firstTrap (k : TrapKind) (p : Nat × Nat → Bool) (l : List (Nat × Nat)) : Option Access :=
  (l.find? p).map fun e => .trap k e.1 e.2

/-- The address may be accessed with what the word needs; `extra` is FORMAT's condition on the page of an element load. -/
def State.laneOk (s : State) (n : Need) (size : Nat) (extra : TlbEntry → Bool) (va : Nat) : Bool :=
  va % size == 0 && match s.look va with
    | .page e pa => extra e && pageOk s.seen.place.priv n e pa && s.declared va size
    | _ => false

/-- ACCEPTANCE of a word's lanes (lane, effective address) in the order of R62: FORMAT, ALIGN, TRANSL, PERM, each at its lowest lane; a
miss of any lane comes before TRANSL and PERM, and before FORMAT where the word has one. Lanes of `soft` are helper lanes of a load: they
raise nothing, and drop out where they would trap. -/
def State.access (s : State) (n : Need) (size : Nat) (elem : Bool) (extra : TlbEntry → Bool) (hard soft : List (Nat × Nat)) : Access :=
  let extra := fun (t : TlbEntry) => !elem || extra t
  let at' := fun (e : Nat × Nat) => s.look e.2
  let format := firstTrap .format (fun e => match at' e with | .page t _ => !extra t | _ => false) hard
  let align := firstTrap .alignData (fun e => e.2 % size != 0) hard
  let missing := (hard ++ soft).find? fun e => at' e == .miss
  let transl := firstTrap .transl (fun e => at' e == .fail) hard
  let perm := firstTrap .perm (fun e => !s.laneOk n size extra e.2) hard
  let good := (hard ++ soft.filter fun e => s.laneOk n size extra e.2).filterMap fun e => match at' e with
    | .page t pa => some ({ lane := e.1, ea := e.2, pa := pa }, t)
    | _ => none
  let early := if elem then (if missing.isSome then none else format.orElse fun _ => align) else align
  match early with
  | some t => t
  | none => match missing with
    | some e => .miss e.2
    | none => match transl.orElse fun _ => perm with
      | some t => t
      | none => .ok good

/-- Clusters and dies whose TLBs a `TFENCE` of a group reaches: a test on clusters, and one on dies for the die-level TLBs (R223). -/
def tfenceReach (g : Group) (cl scope : Nat) : (Nat → Bool) × (Nat → Bool) :=
  if !g.place.priv || decide (scope < 2) then ((· == cl), fun _ => false)
  else if scope == 2 then ((fun c => dieOf c == dieOf cl), (· == dieOf cl))
  else ((fun _ => true), fun _ => true)

/-- A `TFENCE` that waits for the walks in flight for a TLB of the cluster or its die holds back new ones (15 R314). -/
def State.walkBarred (s : State) (cl : Nat) : Bool :=
  s.groups.any fun e => match e.2.fence with
    | some f => f.dropping && let r := tfenceReach e.2 (clusterOf e.1) f.scope; r.1 cl || r.2 (dieOf cl)
    | none => false

/-- A number in a list. -/
def addTo (n : Nat) (l : List Nat) : List Nat := if l.contains n then l else l ++ [n]

/-- A walk of a page for a cluster, and for an engine's operation (0 for none): it joins one under way on the die, or starts one (15 R313).
Its key. -/
def State.joinWalk (s : State) (cl qidx va op : Nat) : State × Nat :=
  let die := dieOf cl
  let ops := fun (l : List Nat) => if op == 0 then l else addTo op l
  match s.walks.find fun _ w => w.live && !w.stale && w.die == die && w.qidx == qidx && w.va / 65536 == va / 65536 with
  | some (k, w) => ({ s with walks := s.walks.set {} k { w with clusters := addTo cl w.clusters, ops := ops w.ops } }, k)
  | none =>
    let k := s.walks.fresh
    ({ s with walks := s.walks.set {} k { live := true, die := die, qidx := qidx, root := s.rootOf die qidx, va := va, clusters := [cl]
                                          ops := ops [] } }, k)

/-- The moving group waits for the walk of a page. -/
def State.askWalk (s : State) (va : Nat) : State :=
  if s.walkBarred s.myCluster then s.missed
  else
    let (s, k) := s.missed.joinWalk s.myCluster s.me.place.qidx va 0
    s.modMe fun g => { g with wait := .walk k }

/-- An engine's translation of an address, through its cluster's TLB and the die-level TLB; on a miss its operation waits for a walk
(10 R226, 15 R313). -/
def State.engineLook (s : State) (op : Nat) (o : Op) (va : Nat) : State × Look :=
  let die := dieOf o.cluster
  if 2 ^ 57 ≤ va then (s, .fail)
  else match s.tlbHit o.cluster o.qidx va with
    | some e => (s.tlbUse o.cluster o.qidx [va], .page e (e.pa va))
    | none => match (s.die die).tlb.find? fun e => e.covers o.qidx va with
      | some e => ((s.dieTlbUse die o.qidx va).tlbFill o.cluster { e with use := s.free }, .page e (e.pa va))
      | none =>
        if o.noPage.contains (va / 65536) then (s, .fail)
        else if s.walkBarred o.cluster then (s, .miss)
        else ((s.joinWalk o.cluster o.qidx va op).1, .miss)

/-- Go on with what the access found. -/
def State.onAccess (s : State) (a : Access) (k : State → List (Acc × TlbEntry) → State) : State :=
  match a with
  | .trap t lane addr => s.trapWord t (some lane) 0 addr
  | .miss va => s.askWalk va
  | .ok l => k (s.tlbUse s.myCluster s.seen.place.qidx (l.map fun e => e.1.ea)) l

/-- The groups that wait for a walk are ready again; where it failed, its page is unmapped for their packet, and for the engines' operations
that wait for it. -/
def State.endWalk (s : State) (k : Nat) (failed : Bool) : State :=
  let w := s.walks.get {} k
  let s := { s with walks := s.walks.set {} k {} }
  let s := if failed then w.ops.foldl (fun s o =>
      let x := s.op o
      if x.live then s.setOp o { x with noPage := (w.va / 65536) :: x.noPage } else s) s else s
  s.groups.foldl (fun s e =>
    if e.2.live && e.2.wait == .walk k then
      s.modGroup e.1 fun g =>
        { g with wait := .none, noPage := if failed then (w.va / 65536) :: g.noPage else g.noPage }
    else s) s

/-- A walk has one of the 16 engines of its die: they serve in arrival order (15 R313). -/
def State.walkEngine (s : State) (k : Nat) : Bool :=
  decide ((s.walks.filter fun e => e.2.live && e.2.die == (s.walks.get {} k).die && decide (e.1 < k)).length < 16)

/-- PAGE_WALK_COMPLETE (R310 to R314): the die-level TLB answers, or the walk of the tables as they stand. The leaf enters the TLBs; a
stale walk leaves nothing, and its groups ask again. An entry that its home slice lacks is filled first, and one that the slice may not yet
answer holds the walk. -/
def execPageWalkComplete (walk : Nat) (s : State) : Outcome :=
  let w := s.walks.get {} walk
  if !w.live then .next s
  else if w.stale then .next (s.endWalk walk false)
  else
    let fill := fun (s : State) (e : TlbEntry) =>
      (w.clusters.foldl (fun s cl => s.tlbFill cl { e with use := s.free }) s).handLeaf walk e
    match (s.die w.die).tlb.find? fun e => e.covers w.qidx w.va with
    | some e => .next ((fill (s.dieTlbUse w.die w.qidx w.va) e).endWalk walk false)
    | none =>
      let (r, x) := s.walkRoot w.root w.va
      let lack := s.lacking w.qidx (r.map fun a => (a, 16))
      if !s.walkEngine walk || r.any fun a => isGlobal a && s.lineBusy (a / 256) 0 then .next s
      else if !lack.isEmpty then .next (s.wantHome (w.clusters.headD 0) w.qidx 16 lack)
      else
        let s := s.chargeWalk (w.clusters.headD 0) w.qidx r
        match x with
        | none => .next (s.endWalk walk true)
        | some (pte, b) =>
          let e : TlbEntry := { qidx := w.qidx, va := w.va / 2 ^ b * 2 ^ b, bits := b, pte := pte, use := s.free }
          .next ((fill (s.dieTlbFill w.die e) e).endWalk walk false)

end Sys2Proof.Machine
end

