-- ==== Sys2Proof/Machine/Caches.lean ====
section
/-! DEFINITION. The caches: L1 of a cluster, fills, write-backs with their stamps, invalidations and acknowledgements, and the writes to
memory (09 R190 to R195, 11 R236 to R239, 14 R306, R307). -/

namespace Sys2Proof.Machine

/-! ### L1 (09 R190, R191) -/

/-- A line of a cluster's L1. -/
def State.l1Line (s : State) (cl l : Nat) : L1Line := (s.cluster cl).l1.get {} l
/-- The state with a line of L1 replaced. -/
def State.setL1 (s : State) (cl l : Nat) (v : L1Line) : State := s.modCluster cl fun c => { c with l1 := c.l1.set {} l v }

/-- L1 holds the byte of the line: valid or dirty. -/
def L1Line.has (ln : L1Line) (i : Nat) : Bool := ln.live && (ln.valid.getLsbD (sectorOf i) || ln.dirty.getLsbD i)
/-- A load of the byte from L1 would consume poison: a wholly dirty sector carries no mark (10 R208). -/
def L1Line.tainted (ln : L1Line) (i : Nat) : Bool := ln.poison.getLsbD (sectorOf i) && !coversSector ln.dirty (sectorOf i)
/-- The bytes of a line that a paired launch holds back (18 R365). -/
def L1Line.heldMask (ln : L1Line) : BitVec 256 := ln.held.foldl (fun m e => m ||| (1#256 <<< e.1)) 0#256

/-- n bytes of L1 at a physical address, with their poison; none unless L1 holds them all. -/
def State.l1Read (s : State) (cl pa n : Nat) : Option (Nat × Bool) :=
  let ln := s.l1Line cl (pa / 256)
  let o := pa % 256
  let is := (List.range n).map (o + ·)
  if is.all ln.has then some (Tab.readLe ln.data o n, is.any ln.tainted) else none

/-- Sets of a cluster's L1. -/
def l1Sets (c : Cluster) : Nat := 64 * bits c.sramsplit.toNat 3 0
/-- Lines of L1 in the set of a line: the line number modulo the set count (log 12). -/
def Cluster.l1Set (c : Cluster) (l : Nat) : List (Nat × L1Line) :=
  c.l1.filter fun e => e.2.live && e.1 % max 1 (l1Sets c) == l % max 1 (l1Sets c)
/-- The least recently used line without held bytes. -/
def l1Victim : List (Nat × L1Line) → Option (Nat × L1Line)
  | [] => none
  | e :: t => match l1Victim t with
    | none => if e.2.held.isEmpty then some e else none
    | some f => if e.2.held.isEmpty && decide (e.2.use ≤ f.2.use) then some e else some f
/-- A line of L1 may be allocated: it is there, or its set has room or a victim. -/
def Cluster.l1Room (c : Cluster) (l : Nat) : Bool :=
  (c.l1.get {} l).live || decide ((c.l1Set l).length < 8) || (l1Victim (c.l1Set l)).isSome

/-- A comparison is forced on a group (18 R365). -/
def State.pressGroup (s : State) (gk : Nat) : State := s.modGroup gk fun g => { g with pressed := true }

/-- A line finds the ways of its set held: a comparison is forced on each group that holds bytes there (18 R365). -/
def State.press (s : State) (cl l : Nat) : State :=
  let who := ((s.cluster cl).l1Set l).flatMap fun e => e.2.held.map Prod.snd
  (s.groupsOn cl).foldl (fun s e => if who.contains e.2.uid && !e.2.pressed then s.pressGroup e.1 else s) s

/-- A line leaves a group's release set; a later SYS release of the group sees that it stands in memory (11 Table 11-6; log 75). -/
def Group.dropLine (g : Group) (l : Nat) : Group :=
  { g with release := g.release.filter (· != l), sent := if g.sent.contains l then g.sent else g.sent ++ [l] }

/-- A line drops from every release set of the cluster, those of groups that have ended among them (10 R221, 11 R246). -/
def State.dropRelease (s : State) (cl l : Nat) : State :=
  let s := (s.groupsOn cl).foldl (fun s e => if e.2.release.contains l then s.modGroup e.1 (·.dropLine l) else s) s
  let one := fun (e : Nat × Launch) => (e.1, { e.2 with rset := e.2.rset.filter (· != (cl, l)) })
  if s.launches.any fun e => e.2.rset.contains (cl, l) then { s with launches := s.launches.map one } else s

/-- Fills that a slice has answered for sectors of a list, on the clusters of a condition, are answered again: they stand in the slice. -/
def State.refill (s : State) (whose : Nat → Bool) (sectors : Nat → Bool) : State :=
  let one := fun (e : Nat × Req) => match e.2.kind with
    | .fill cl sec (some _) =>
      if whose cl && sectors sec then (e.1, { e.2 with kind := .fill cl sec none, legs := [.slice (dieOf cl * 32 + sliceNo (sec * 64))] }) else e
    | _ => e
  { s with reqs := s.reqs.map one }

/-- The sectors that a mask covers whole lose their marks (10 R208). -/
def uncovered (m : BitVec 256) (p : BitVec 4) : BitVec 4 :=
  (List.range 4).foldl (fun p k => if coversSector m k then p &&& ~~~ (1#4 <<< k) else p) p

/-- A clean sector of L1 goes. -/
def L1Line.dropClean (ln : L1Line) (ks : List Nat) : L1Line :=
  let v := ks.foldl (fun v k => v &&& ~~~ (1#4 <<< k)) ln.valid
  let p := ks.foldl (fun p k => if ln.dirty &&& sectorMask k == 0 then p &&& ~~~ (1#4 <<< k) else p) ln.poison
  if v == 0 && ln.dirty == 0 then {} else { ln with valid := v, poison := p }

/-- A clean copy of a sector that a cluster holds, and a fill of it on its way, give way to what a slice has: after a read of the sector past
L1, no later load of the cluster reads an older value (11 R236; log 76). -/
def State.freshen (s : State) (cl sec : Nat) : State :=
  let ln := s.l1Line cl (sec / 4)
  let s := if ln.live then s.setL1 cl (sec / 4) (ln.dropClean [sec % 4]) else s
  s.refill (· == cl) (· == sec)

/-- A WRITE-BACK of a line of L1 leaves: its dirty bytes that are not held, their dirty bits cleared, and the line drops from every release
set. A sector that it covers whole carries no mark, and fills of the cluster on their way bring the line's bytes as they stand after it. The
request's key, 0 where there was nothing to send (09 R191, 10 R208, R221, 11 R236, R239). DESIGN CHOICE: bytes that a left group of a pair
holds back stay, whatever word asks for the write-back, an atomic of the pair on those bytes included: it steps on the value at the home
slice or the vault (10 R211 against 18 R365; log 77). -/
def State.writeBack (s : State) (cl l op : Nat) (sys : Bool) : State × Nat :=
  let ln := s.l1Line cl l
  let m := ln.dirty &&& ~~~ ln.heldMask
  if !ln.live || m == 0 then (s, 0)
  else
    let data := (bytesOf m).foldl (fun d i => Tab.set 0 i (ln.data.get 0 i) d) []
    let s := s.setL1 cl l { ln with dirty := ln.dirty &&& ~~~ m, poison := uncovered m ln.poison }
    let s := s.dropRelease cl l
    let s := s.refill (· == cl) fun sec => sec / 4 == l && m &&& sectorMask (sec % 4) != 0
    s.send (.wb l m data ln.owner (touched m (uncovered m ln.poison)) sys) cl op ln.owner (toHome cl l)

/-- The whole lines of a list written back, with the requests that went out. -/
def State.writeBacks (s : State) (cl : Nat) (sys : Bool) : List Nat → State × List Nat
  | [] => (s, [])
  | l :: t =>
    let (s, r) := s.writeBack cl l 0 sys
    let (s, rs) := s.writeBacks cl sys t
    (s, if r == 0 then rs else r :: rs)

/-- A place for a line in L1; a dirty victim is written back. -/
def State.l1Alloc (s : State) (cl l : Nat) : State :=
  let c := s.cluster cl
  if (c.l1.get {} l).live then s
  else
    let fresh := fun (s : State) => s.setL1 cl l { live := true, use := s.free }
    if (c.l1Set l).length < 8 then fresh s
    else match l1Victim (c.l1Set l) with
      | none => s
      | some (v, _) => fresh (((s.writeBack cl v 0 false).1).setL1 cl v {})

/-- Bytes stored into L1: the line allocated without a fill, the bytes dirty, the owner named by the first of them (09 R191, R200). Bytes that
the context does not write stay as they are (00 R9, R10). -/
def State.l1Store (s : State) (cl pa n v qidx held : Nat) : State :=
  let l := pa / 256
  let s := s.l1Alloc cl l
  let ln := s.l1Line cl l
  let ro := s.fixedMask l (qidx == 0xFFF)
  let is := ((List.range n).map (pa % 256 + ·)).filter fun i => !ro.getLsbD i
  s.setL1 cl l { ln with
    data := s.mayData l (is.foldl (fun d i => d.set 0 i (BitVec.ofNat 8 (v / 256 ^ (i - pa % 256)))) ln.data)
    dirty := is.foldl (fun d i => d ||| (1#256 <<< i)) ln.dirty
    held := is.foldl (fun h i => h.set 0 i held) ln.held
    owner := if ln.dirty == 0 then qidx else ln.owner, use := s.free }

/-- A fill of a sector merged into L1: bytes already dirty keep their values (09 R191). -/
def L1Line.merge (ln : L1Line) (k : Nat) (bs : List Byte) (poison : Bool) : L1Line :=
  let bit := 1#4 <<< k
  { ln with
    valid := ln.valid ||| bit
    poison := if poison then ln.poison ||| bit else ln.poison &&& ~~~ bit
    data := (bs.zipIdx).foldl (fun d e => if ln.dirty.getLsbD (64 * k + e.2) then d else d.set 0 (64 * k + e.2) e.1) ln.data }

/-- The acquire part of a fence on a cluster's L1: every clean sector goes, dirty bytes stay (10 R222). -/
def State.acquireL1 (s : State) (cl : Nat) : State :=
  let s := s.modCluster cl fun c =>
    { c with l1 := c.l1.keys.foldl (fun t k => t.update {} k (·.dropClean [0, 1, 2, 3])) c.l1 }
  s.refill (· == cl) fun _ => true

/-- The L1 copies of the sectors that a landing writes go on every cluster of the home die (10 R227). -/
def State.dropL1Copies (s : State) (pa n : Nat) : State :=
  let die := homeDie pa
  let secs := (List.range ((pa + n - 1) / 64 + 1 - pa / 64)).map (pa / 64 + ·)
  let drop := fun (t : Tab L1Line) (k : Nat) =>
    if (t.get {} (k / 4)).live then t.set {} (k / 4) ((t.get {} (k / 4)).dropClean [k % 4]) else t
  let one := fun (e : Nat × Cluster) =>
    if dieOf e.1 == die then (e.1, { e.2 with l1 := secs.foldl drop e.2.l1 }) else e
  let s := { s with clusters := s.clusters.map one }
  s.refill (fun cl => dieOf cl == die) secs.contains

/-! ### Results of an operation that has been issued -/

/-- A lane's data and its scale are known: the values stand under the lane, and under the lane plus 64 for a scale. A helper lane that finds
poison in either consumes none and receives 0 (10 R207). -/
def Op.take (o : Op) (key v : Nat) (poison : Bool) : Op :=
  let bit := 1#64 <<< (key % 64)
  let soft := o.hlp.getLsbD (key % 64)
  { o with vals := o.vals.set 0 key v
           poisoned := if poison && !soft then o.poisoned ||| bit else o.poisoned
           blank := if poison && soft then o.blank ||| bit else o.blank }
/-- The values of an operation with 0 in the helper lanes that found poison. -/
def Op.blanked (o : Op) : Op := { o with vals := (lanesOf o.blank).foldl (fun t i => (t.set 0 i 0).set 0 (i + 64) 0) o.vals }

/-- The lanes of a load whose bytes stand in a sector take them from L1. -/
def State.takeLanes (s : State) (cl k sector : Nat) : State :=
  let o := s.op k
  match o.kind with
  | .load _ size accs scales =>
    let grab := fun (n off : Nat) (o : Op) (a : Acc) =>
      if a.pa / 64 == sector then match s.l1Read cl a.pa n with
        | some (v, p) => o.take (a.lane + off) v p
        | none => o
      else o
    s.setOp k (scales.foldl (grab 2 64) (accs.foldl (grab size 0) o))
  | _ => s

/-- The request has left the operation that it served. -/
def State.dropOpReq (s : State) (k req : Nat) : State :=
  let o := s.op k
  if o.live then s.setOp k { o with reqs := o.reqs.filter (· != req) } else s

/-! ### Fills -/

/-- A write-back or an atomic step of a cluster of the die is on its way to a line (11 R239). -/
def State.passing (s : State) (p : Nat → Bool) (l : Nat) : Bool :=
  (s.reqs.any fun e => match e.2.kind with
    | .wb l' _ _ _ _ _ => l' == l && p e.2.cluster
    | _ => false)
  || s.ops.any fun e => match e.2.kind with
    | .atomic 0 _ _ _ _ left => p e.2.cluster && left.any fun a => a / 256 == l
    | _ => false

/-- A write-back of the cluster to the line is on its way. -/
def State.wbAhead (s : State) (cl l : Nat) : Bool :=
  s.reqs.any fun e => match e.2.kind with
    | .wb l' _ _ _ _ _ => l' == l && e.2.cluster == cl
    | _ => false

/-- The slice of a die holds a sector: the home slice under its valid bit or wholly dirty, another as a clean copy. -/
def State.sliceHas (s : State) (die sector : Nat) : Bool :=
  if homeDie (sector * 64) == die then s.homeHas (sector * 64)
  else
    let ln := (s.slice (die * 32 + sliceNo (sector * 64))).line (sector / 4)
    ln.live && ln.valid.getLsbD (sector % 4)
/-- A sector as the slice of a die has it, with its mark. -/
def State.sliceSector (s : State) (die sector : Nat) : List Byte × Bool :=
  if homeDie (sector * 64) == die then (s.homeBytes (sector * 64) 64, s.homePoison (sector * 64))
  else
    let ln := (s.slice (die * 32 + sliceNo (sector * 64))).line (sector / 4)
    (Tab.readList ln.data (sector % 4 * 64) 64, ln.poison.getLsbD (sector % 4))

/-- A request that stands in the input queue of a slice, or at a memory controller, can be served: its line may be read, and what it needs
is there or can be asked for (09 R194, 11 R238, R239). A write-back is offered to the slice's own buffer instead (19 R374). -/
def State.servable (s : State) (k : Nat) : Bool :=
  let r := s.req k
  match r.live, r.kind with
  | true, .fill cl sec none =>
    !s.passing (· == cl) (sec / 4) && !(homeDie (sec * 64) == dieOf cl && s.lineBusy (sec / 4) 0)
      && (s.sliceHas (dieOf cl) sec || s.fillOpen (dieOf cl) sec)
  | true, .atom a =>
    !s.wbAhead r.cluster (a / 256) && !s.lineBusy (a / 256) 0 && (s.homeHas a || s.fillOpen (homeDie a) (a / 64))
  | true, .l2fill die l ws =>
    let lack := s.lacking r.qidx (ws.map fun w => (w.sector * 64, 64))
    homeDie (l * 256) == die || (!s.lineBusy l 0 && (lack.isEmpty || lack.any fun k => s.fillOpen (homeDie (l * 256)) k))
  | _, .wb .. => false
  | live, _ => live

/-- A request has reached the end of its way and is the next to be served there: at the slice, at a memory controller (19 R371). -/
def State.served (s : State) (k : Nat) : Bool := (s.req k).legs.length == 1 && s.first s.servable k

/-- Energy of a sector that a slice gives a cluster of its die: the slice, and the ride between them. -/
def hitCost (cl sec : Nat) : Nat := 64 * (38000 + legsCost (toCluster (dieOf cl * 32 + sliceNo (sec * 64)) cl))

/-- A fill is answered: the sector sets out for its cluster. -/
def State.answerFill (s : State) (k cl sec : Nat) (v : List Byte × Bool) : State :=
  s.setReq k ((s.req k).turn s.time.toNat (.fill cl sec (some v)) (toCluster (dieOf cl * 32 + sliceNo (sec * 64)) cl))

/-- SECTOR_FILL_ARRIVAL (R191, R194, R200). First the slice of the cluster's die answers, once no write-back of the cluster to the line is
ahead of the request and the line may be read; then the sector arrives in L1, the load takes its bytes, and fills of the sector that were
answered before are answered again (11 R236; log 13). Where every way is held, the sector waits for the comparison that it forces (18 R365). -/
def execSectorFillArrival (req : Nat) (s : State) : Outcome :=
  let r := s.req req
  match r.live, r.kind with
  | true, .fill cl sec none =>
    let die := dieOf cl
    if !s.served req then .next s
    else if s.sliceHas die sec then
      .next (((s.charge cl r.qidx (hitCost cl sec)).ageAt r.legs.head?).answerFill req cl sec (s.sliceSector die sec))
    else .next (s.askFill die sec cl r.qidx 64 req)
  | true, .fill cl sec (some (bs, p)) =>
    if !r.legs.isEmpty then .next s
    else if !(s.cluster cl).l1Room (sec / 4) then .next (s.press cl (sec / 4))
    else
      let s := (s.setReq req {}).dropOpReq r.op req
      let t := (s.l1Alloc cl (sec / 4))
      let t := t.setL1 cl (sec / 4) { (t.l1Line cl (sec / 4)).merge (sec % 4) bs p with live := true, use := s.free }
      .next ((t.takeLanes cl r.op sec).refill (· == cl) (· == sec))
  | _, _ => .next s

/-- The least recently used entry of a directory set. -/
def leastDir : List (Nat × DirEntry) → Option (Nat × DirEntry)
  | [] => none
  | e :: t => match leastDir t with
    | none => some e
    | some f => if e.2.use ≤ f.2.use then some e else some f
/-- The victim of a full directory set, the least recently used entry; none while that entry waits for its acknowledgements (14 R307). -/
def dirVictim (l : List (Nat × DirEntry)) : Option (Nat × DirEntry) := (leastDir l).filter fun e => e.2.pres != 0

/-- Set of a line in the directory (14 R306). -/
def dirSet (l : Nat) : Nat := (bits (l * 256) 18 8) ^^^ (bits (l * 256) 29 19)

/-- Invalidations of a line leave for the dies in PRES, which moves into PEND (14 R307), for a request of a cluster. -/
def State.sendInvs (s : State) (l cl qidx : Nat) : State :=
  let key := homeSlice (l * 256)
  let dies := s.holders l
  let s := s.modSlice key fun x =>
    let e := x.dir.get {} l
    if e.v then { x with dir := x.dir.set {} l { e with pend := e.pend ||| e.pres, pres := 0 } } else x
  dies.foldl (fun s d => (s.send (.inv l d) cl 0 qidx (way (key / 32) (key % 32) d (key % 32))).1) s

/-- The clean copy of a sector in a slice away from home. -/
def State.installCopy (s : State) (die sec qidx : Nat) (bs : List Byte) (p : Bool) : State :=
  let key := die * 32 + sliceNo (sec * 64)
  (s.allocLine key (sec / 4) qidx).modSlice key fun x => if !(x.line (sec / 4)).live then x else
    let ln := x.line (sec / 4)
    let bit := 1#4 <<< (sec % 4)
    { x with lines := x.lines.set {} (sec / 4) { ln with
        valid := ln.valid ||| bit, data := Tab.writeList ln.data (sec % 4 * 64) bs
        poison := if p then ln.poison ||| bit else ln.poison &&& ~~~ bit, use := s.free } }

/-- Fills of clusters of a die that wait in its slice for a sector that has just come take it, where no write-back of theirs is on its way;
each is charged for the slice and for the ride to its cluster (R200, 19 R369). -/
def State.deliverFills (s : State) (die sec : Nat) (v : List Byte × Bool) : State :=
  s.reqs.foldl (fun s e => match e.2.kind with
    | .fill cl sec' none =>
      if dieOf cl == die && sec' == sec && e.2.legs == [.slice (die * 32 + sliceNo (sec * 64))] && !s.passing (· == cl) (sec / 4) then
        (s.charge cl e.2.qidx (hitCost cl sec)).answerFill e.1 cl sec v
      else s
    | _ => s) s

/-- The fill of a slice is over: its entry of the miss table is free. -/
def State.endFill (s : State) (req die l : Nat) : State :=
  (s.setReq req {}).modSlice (die * 32 + sliceNo (l * 256)) fun x => { x with misses := x.misses.filter (· != req) }

/-- The fill of a home line is there: the sectors that are still lacking come from memory, and those who asked pay for them and for the ride
from the memory controller (R200, 19 R369). -/
def State.homeFilled (s : State) (l qidx : Nat) (ws : List Want) : State :=
  let lack := ws.filter fun w => !s.homeHas (w.sector * 64)
  (lack.foldl (fun s w => s.charge w.cluster w.qidx (tierCost (l * 256) w.bytes + w.bytes * legsCost (toMemory l))) s).fillHome l qidx (lack.map fun w => w.sector % 4)

/-- The fill of a remote line is there: each sector is delivered, and installed as a copy with the die in the directory, unless a write of
the die to the line is on its way (R192, R239, 14 R307). -/
def State.remoteFilled (s : State) (die l qidx : Nat) (ws : List Want) : State :=
  let install := !s.passing (dieOf · == die) l
  let s := ws.foldl (fun s w =>
    let v := s.sliceSector (homeDie (l * 256)) w.sector
    let s := (s.charge w.cluster w.qidx (64 * legsCost (fillWay die l))).deliverFills die w.sector v
    if install then s.installCopy die w.sector qidx v.1 v.2 else s) s
  if install && ((s.slice (die * 32 + sliceNo (l * 256))).line l).live then s.modSlice (homeSlice (l * 256)) fun x =>
    let e := x.dir.get {} l
    { x with dir := x.dir.set {} l { e with v := true, pres := e.pres ||| (1#4 <<< die), use := s.free } }
  else s

/-- L2_FILL_ARRIVAL (R192, R194, R307). At home the sectors come from memory. Away from home they come from the home slice, which fills
itself first where it lacks one and names the die in its directory; a full directory set first sheds its victim's copies. -/
def execL2FillArrival (req : Nat) (s : State) : Outcome :=
  let r := s.req req
  match r.live && s.served req, r.kind with
  | true, .l2fill die l ws =>
    let home := homeDie (l * 256)
    let t := s.ageAt r.legs.head?
    if home == die then
      let t := t.homeFilled l r.qidx ws
      let t := if ((t.slice (homeSlice (l * 256))).line l).live then t
        else ws.foldl (fun t w => t.deliverFills die w.sector (t.sliceSector die w.sector)) t
      .next (t.endFill req die l)
    else
      let x := s.slice (homeSlice (l * 256))
      let here := x.dir.filter fun d => d.2.v && dirSet d.1 == dirSet l
      let lack := ws.filter fun w => (s.lacking r.qidx [(w.sector * 64, 64)]).contains w.sector
      if !lack.isEmpty then .next (lack.foldl (fun s w => s.askFill home w.sector w.cluster r.qidx w.bytes 0) s)
      else if !(x.dir.get {} l).v && decide (16 ≤ here.length) then
        match dirVictim here with
        | some (v, _) => .next (s.sendInvs v r.cluster r.qidx)
        | none => .next s
      else .next ((t.remoteFilled die l r.qidx ws).endFill req die l)
  | _, _ => .next s

/-! ### Write-backs, invalidations, acknowledgements -/

/-- The write-backs at a slice that its buffer has not taken. -/
def State.atBuffer (s : State) (key : Nat) : List (Nat × Req) :=
  s.reqs.filter fun e => match e.2.kind with
    | .wb l _ _ _ _ _ => homeSlice (l * 256) == key && !e.2.offered && e.2.legs.length == 1
    | _ => false

/-- A write-back gives way to another that its slice has not taken: to an earlier one of its cluster; to a flit that has circled if it has
not or is younger; and, of two that have not circled, to the one that R371 puts first (11 R239, 19 R374, 25 R403). -/
def State.mustCircle (s : State) (req : Nat) (l : Nat) : Bool :=
  let r := s.req req
  let ws := s.atBuffer (homeSlice (l * 256))
  let ahead := fun (k : Nat) (q : Req) => ws.any fun e => e.2.cluster == q.cluster && decide (e.1 < k)
  ahead req r || ws.any fun e => e.1 != req && !ahead e.1 e.2
    && (e.2.circled && (!r.circled || decide (e.1 < req)) || (!e.2.circled && !r.circled && keyBefore (s.rank e.1) (s.rank req)))

/-- The line of a write-back; 0 for another request. -/
def Req.wbLine (r : Req) : Nat := match r.kind with
  | .wb l .. => l
  | _ => 0

/-- WRITEBACK_FLIT_OFFER (R195, R374, R403): the slice's write-back buffer takes the flit that is first in its order while it has a free entry
of its 16; with none free the flit circles. -/
def execWritebackFlitOffer (req : Nat) (s : State) : Outcome :=
  let r := s.req req
  match r.live && !r.offered && r.legs == [.slice (homeSlice (r.wbLine * 256))], r.kind with
  | true, .wb l _ _ _ _ _ =>
    let key := homeSlice (l * 256)
    if 16 ≤ (s.slice key).wbuf.length then .next (s.setReq req { r with circled := true })
    else if s.mustCircle req l then .next s
    else .next ((s.setReq req { r with offered := true, legs := [] }).modSlice key fun x => { x with wbuf := x.wbuf ++ [req] })
  | _, _ => .next s

/-- The answer to the writer sets out from the home slice. -/
def Req.acked (r : Req) (now l : Nat) : Req := r.turn now .ack (toCluster (homeSlice (l * 256)) r.cluster)
/-- What follows the last acknowledgement of a stamped write: the bytes to memory for a SYS release, then the answer to the writer
(10 R222). -/
def Req.settle (r : Req) (now l : Nat) (sys : Bool) : Req := if sys then r.turn now (.memWrite l) (toMemory l) else r.acked now l

/-- A stamped write of a request: its invalidations leave, and it waits for them (09 R193, 14 R307). -/
def State.placeWrite (s : State) (req l : Nat) (sys : Bool) : State :=
  let s := s.sendInvs l (s.req req).cluster (s.req req).qidx
  let r := s.req req
  let pend := ((s.slice (homeSlice (l * 256))).dir.get {} l).pend
  let waits := (List.range 4).filter fun d => pend.getLsbD d
  s.setReq req (if waits.isEmpty then r.settle s.time.toNat l sys else r.turn s.time.toNat (.stamped l waits sys) [])

/-- L1_WRITEBACK_ARRIVAL (R193, R195, R403): its owner tag pays for its bytes at the level they write and for their way (R200, 19 R369, R375);
the write-back at the head of the buffer is merged by its mask, stamped, logged and evaluated,
and its invalidations leave. A line that a commit has locked holds it. -/
def execL1WritebackArrival (req : Nat) (s : State) : Outcome :=
  let r := s.req req
  match r.live && r.offered, r.kind with
  | true, .wb l m data owner poison sys =>
    let key := homeSlice (l * 256)
    if ((s.slice key).locks.any fun e => e.1 == l) || (s.slice key).wbuf.head? != some req then .next s
    else
      let s := s.chargeWb r.cluster owner ((38000 + legsCost (toHome r.cluster l)) * (bytesOf m).length)
      let s := (s.stampLine l (s.mayStore l m owner) (s.mayData l data) poison owner).noteMasks s l
      let s := s.modSlice key fun x => { x with wbuf := x.wbuf.filter (· != req) }
      .next (s.placeWrite req l sys)
  | _, _ => .next s

/-- DIRECTORY_INVALIDATION (R193, R224): the die's slice drops its clean copy, keeps a pin, and acknowledges. -/
def execDirectoryInvalidation (req : Nat) (s : State) : Outcome :=
  let r := s.req req
  match r.live && r.legs.isEmpty, r.kind with
  | true, .inv l d =>
    let key := homeSlice (l * 256)
    .next ((s.dropCopy d l).setReq req (r.turn s.time.toNat (.invAck l d) (way d (key % 32) (key / 32) (key % 32))))
  | _, _ => .next s

/-- Stamped writes to a line no longer wait for a die. -/
def State.ackStamped (s : State) (l d : Nat) : State :=
  let one := fun (e : Nat × Req) => match e.2.kind with
    | .stamped l' waits sys =>
      if l' == l then
        let w := waits.filter (· != d)
        (e.1, if w.isEmpty then e.2.settle s.time.toNat l sys else { e.2 with kind := .stamped l w sys })
      else e
    | _ => e
  { s with reqs := s.reqs.map one }

/-- INVALIDATION_ACK (R193, R238, R307): the die's PEND bit clears, an entry without bits is freed, and writes that waited for it go on. -/
def execInvalidationAck (req : Nat) (s : State) : Outcome :=
  let r := s.req req
  match r.live && r.legs.isEmpty, r.kind with
  | true, .invAck l d =>
    let s := (s.setReq req {}).modSlice (homeSlice (l * 256)) fun x =>
      let e := x.dir.get {} l
      let p := e.pend &&& ~~~ (1#4 <<< d)
      { x with dir := x.dir.set {} l (if p == 0 && e.pres == 0 then {} else { e with pend := p }) }
    .next (s.ackStamped l d)
  | _, _ => .next s

/-- REMOTE_EVICTION_NOTICE (R193, R307): a die that holds no copy of a line any more is struck from the line's PRES. -/
def execRemoteEvictionNotice (die line : Nat) (s : State) : Outcome :=
  let key := homeSlice (line * 256)
  let e := (s.slice key).dir.get {} line
  if e.v && e.pres.getLsbD die && !((s.slice (die * 32 + sliceNo (line * 256))).line line).live then
    let p := e.pres &&& ~~~ (1#4 <<< die)
    .next (s.modSlice key fun x => { x with dir := x.dir.set {} line (if p == 0 && e.pend == 0 then {} else { e with pres := p }) })
  else .next s

/-- WRITE_TO_MEMORY_COMPLETE (R222): every dirty byte of the line stands in memory, and the writer is answered. -/
def execWriteToMemoryComplete (req : Nat) (s : State) : Outcome :=
  let r := s.req req
  match r.live && s.served req, r.kind with
  | true, .memWrite l => .next (((s.ageAt r.legs.head?).flushLine (homeSlice (l * 256)) l).setReq req (r.acked s.time.toNat l))
  | _, _ => .next s

/-- FABRIC_PROMOTION (19 R372): a request that has waited 64 rounds at its present queue is promoted. -/
def execFabricPromotion (req : Nat) (s : State) : Outcome :=
  let r := s.req req
  if r.live && !r.legs.isEmpty && decide (64 ≤ s.rounds r) then .next (s.setReq req { r with pro := true }) else .next s

end Sys2Proof.Machine
end

