-- ==== Sys2Proof/Machine/Control.lean ====
section
/-! DEFINITION. Control flow: branches, the division and the meeting of strands, loops, calls, overlays, ending and yielding
(08 R157 to R174), and the events of groups and strands. -/

namespace Sys2Proof.Machine

/-- A word of pipe BR: issue, what stops it, its energy BR1 (R158), its effect. -/
def brWord (i : Instr) (trap : State → Option TrapKind) (go : State → State) (s : State) : Outcome :=
  issue i s fun s => match trap s with
    | some k => .next (s.trapWord k)
    | none => .next (go (s.chargeMe eG1))

/-- Nothing stops the word. -/
def noTrap (_ : State) : Option TrapKind := none

/-- The lanes that a group-wide test looks at: EXM without helper lanes (R103, R159). -/
def State.act (s : State) : LaneMask := s.str.exm &&& ~~~ s.seen.hlp

/-- A branch taken when a condition holds. -/
def condBranch (i : Instr) (taken : State → Bool) (disp : BitVec 16) (s : State) : Outcome :=
  brWord i (fun s => branchTrap s (taken s) disp)
    (fun s => if taken s then branchGo s disp else s.fallMe.moved) s

/-- `NOP` issues nothing by itself (R42). -/
def execNop (s : State) : Outcome := issue .nop s .next

/-- `BRA` (R159). -/
def execBra (disp : BitVec 16) (s : State) : Outcome := condBranch (.bra disp) (fun _ => true) disp s

/-- `BANY` (R159). -/
def execBany (p : BitVec 3) (disp : BitVec 16) (s : State) : Outcome :=
  condBranch (.bany p disp) (fun s => s.seen.pred p.toNat &&& s.act != 0) disp s

/-- `BALL` (R159). -/
def execBall (p : BitVec 3) (disp : BitVec 16) (s : State) : Outcome :=
  condBranch (.ball p disp) (fun s => s.seen.pred p.toNat &&& s.act == s.act) disp s

/-- `BNONE` (R159). -/
def execBnone (p : BitVec 3) (disp : BitVec 16) (s : State) : Outcome :=
  condBranch (.bnone p disp) (fun s => s.seen.pred p.toNat &&& s.act == 0) disp s

/-! ### BDIV (R160) -/

/-- The taken side. -/
def State.divT (s : State) (p : BitVec 3) : LaneMask := s.str.exm &&& s.seen.pred p.toNat
/-- The other side. -/
def State.divN (s : State) (p : BitVec 3) : LaneMask := s.str.exm &&& ~~~ s.seen.pred p.toNat

/-- What stops a `BDIV`: SEGMENT for a reconvergence block beyond the slot (R57) or a target outside it (R46), LIMIT for a taken back-edge,
DEPTH without the stack entries it needs. -/
def bdivTrap (p : BitVec 3) (jb : BitVec 5) (disp : BitVec 16) (s : State) : Option TrapKind :=
  if 32 ≤ pcBlk s.str.pc + jb.toNat then some .segment
  else match branchTrap s (s.divT p != 0) disp with
    | some k => some k
    | none =>
      if s.divT p == 0 || s.divN p == 0 then none
      else
        let need := if s.seen.liveStrands.length < 4 then 1 else 2
        if 8 < s.str.rstack.length + need then some .depth else none

/-- The lowest free strand number. -/
def Group.freeStrand (g : Group) : Nat := ((List.range 4).find? fun k => !(g.strand k).live).getD 0

/-- `BDIV` with both sides inhabited. A back-edge is counted before the new strand copies the counts (log 21). -/
def bdivSplit (p : BitVec 3) (jb : BitVec 5) (disp : BitVec 16) (s : State) : State :=
  let st := s.str
  let pc := st.pc
  let t := s.divT p
  let n := s.divN p
  let r := pcBlk pc + jb.toNat
  let b := (branchTarget pc disp).getD 0
  let back := disp == 0 || disp.msb
  let skip := if back then some (s.limOf s.cur.group st) else none
  let s := if back then s.countBackEdge else s
  let e := rejoinEntry (pcSlot pc) r st.calls.length st.exm
  if s.me.liveStrands.length < 4 then
    let j := s.me.freeStrand
    let s := s.modMe fun g =>
      let st := { g.strand s.cur.strand with rstack := e :: st.rstack }
      (g.setStrand s.cur.strand { st with members := st.members &&& ~~~ t, exm := n }).setStrand j
        { st with members := t, exm := t }
    (s.enterBlock s.cur.group j (pcSlot pc) b skip).fallMe.moved
  else
    let (nb, npk) := s.nextAt s.cur.group st
    let d := deferredEntry (pcSlot pc) r st.calls.length n nb npk
    let s := s.modStr fun st => { st with rstack := d :: e :: st.rstack, exm := t }
    (s.enterBlock s.cur.group s.cur.strand (pcSlot pc) b skip).moved

/-- `BDIV` (R160). -/
def execBdiv (p : BitVec 3) (jb : BitVec 5) (disp : BitVec 16) (s : State) : Outcome :=
  brWord (.bdiv p jb disp) (bdivTrap p jb disp)
    (fun s => if s.divT p == 0 then s.fallMe.moved
      else if s.divN p == 0 then branchGo s disp else bdivSplit p jb disp s) s

/-! ### JOIN and the end of a group (R164, R165, R174) -/

/-- A group ends once every strand is parked at `EXIT`: it abandons its rendezvous, and a partner in `FUSE` has none. -/
def State.settleEnd (s : State) (gk : Nat) : State :=
  let g := s.group gk
  if g.live && !g.ended && g.mergePair.isNone && g.liveStrands.all fun k => (g.strand k).park == .exit then
    ((s.modGroup gk fun g => { g with ended := true, approved := false }).abandonRdvs g).endFuse gk 1
  else s

/-- An empty strand dissolves: its lanes join the lowest-numbered strand that remains (R165). -/
def State.dissolve (s : State) (gk k : Nat) : State :=
  let g := s.group gk
  let m := (g.strand k).members
  let s := match g.liveStrands.find? (· != k) with
    | none => s
    | some j => s.modGroup gk fun g =>
      (g.setStrand j { g.strand j with members := (g.strand j).members ||| m }).setStrand k {}
  ((s.settleJoins gk).settleEnd gk).retarget (clusterOf gk)

/-- `JOIN` (R164, R165). -/
def execJoin (bound : BitVec 16) (s : State) : Outcome :=
  brWord (.join bound) noTrap (fun s =>
    let g := s.seen
    let k := s.cur.strand
    if s.str.exm == 0 && decide (1 < g.liveStrands.length) then (s.dissolve s.cur.group k).moved
    else if (g.missing k).isEmpty || bound == 0 then (s.completeJoin s.cur.group k).moved
    else (s.modStr fun st => { st with park := .join (s.clk s.myCluster + bound.toNat) }).moved) s

/-- `TRAP` (R174). The trapping packet has no effect and is charged nothing (DESIGN CHOICE, log 62: 08 R158 charges each word of pipe BR, 08 R182
gives a trapping packet no effect). -/
def execTrap (code : BitVec 16) (s : State) : Outcome :=
  issue (.trap code) s fun s => .next (s.trapWord .trapWord none code.toNat)

/-- `EXIT` (R174). -/
def execExit (s : State) : Outcome :=
  brWord .exit noTrap (fun s =>
    ((s.modStr fun st => { st with park := .exit }).settleJoins s.cur.group |>.settleEnd s.cur.group).moved) s

/-- `ERET` (R181). -/
def execEret (s : State) : Outcome :=
  brWord .eret (fun s => if (s.die (dieOf s.myCluster)).fev == 0 then some .illegal else none) (fun s => s.returnTrap) s

/-- `YIELD` (R174): the other groups of the quarter that are ready now go first. -/
def execYield (s : State) : Outcome :=
  brWord .yield noTrap (fun s =>
    let base := s.cur.group / 16 * 16
    let others := ((List.range 16).map (base + ·)).filter fun k => k != s.cur.group && (s.nextStrand k).isSome
    (s.modMe fun g => { g with yielded := others }).fallMe.moved) s

/-! ### Loops, calls and overlays (R166 to R172) -/

/-- `LOOP` (R167). -/
def execLoop (g : BitVec 7) (disp : BitVec 16) (s : State) : Outcome :=
  let v := fun (s : State) => s.seen.greg g.toNat - 1
  brWord (.loop g disp) (fun s => branchTrap s (v s != 0) disp)
    (fun s =>
      let s' := s.modMe fun x => x.setG g.toNat (v s)
      if v s != 0 then branchGo s' disp else s'.fallMe.moved) s

/-- `CALL` (R168). It is no back-edge, whatever its displacement (R166; log 20). -/
def execCall (disp : BitVec 16) (s : State) : Outcome :=
  brWord (.call disp)
    (fun s => match branchTarget s.str.pc disp with
      | none => some .segment
      | some _ => if s.seen.place.depth ≤ s.str.calls.length then some .depth else none)
    (fun s =>
      let pc := s.str.pc
      let (nb, npk) := s.nextAt s.cur.group s.str
      let s := s.modStr fun st => { st with calls := { slot := pcSlot pc, blk := nb, pk := npk, seg := st.seg } :: st.calls }
      (s.enterBlock s.cur.group s.cur.strand (pcSlot pc) ((branchTarget pc disp).getD 0) none).moved) s

/-- What stops a `RET` (R162, R169): an entry past block 31 names no packet (log 20). -/
def retTrap (s : State) : Option TrapKind :=
  let st := s.str
  match st.calls with
  | [] => some .depth
  | e :: _ =>
    if 32 ≤ e.blk then some .segment
    else if !s.backEdgeOk s.cur.group st then some .limit
    else match st.rstack.head? with
      | none => none
      | some r => if st.calls.length - 1 < rsCD r then some .depth else none

/-- `RET` (R169). -/
def execRet (s : State) : Outcome :=
  brWord .ret retTrap (fun s =>
    match s.str.calls with
    | [] => s
    | e :: t =>
      let lim := s.limOf s.cur.group s.str
      let s := s.countBackEdge.modStr fun st => { st with calls := t, seg := e.seg }
      (s.enterAt s.cur.group s.cur.strand (pcOf e.slot e.blk e.pk) (some lim)).moved) s

/-- `JMPF` (R46, R172). The checks of the target are made at its fetch, with the transfer in full effect (Table 3-9). -/
def execJmpf (slot : BitVec 7) (seg : BitVec 8) (blk : BitVec 5) (s : State) : Outcome :=
  let back := fun (s : State) => decide (slot.toNat * 32 + blk.toNat ≤ pcSlot s.str.pc * 32 + pcBlk s.str.pc)
  brWord (.jmpf slot seg blk) (fun s => if back s && !s.backEdgeOk s.cur.group s.str then some .limit else none)
    (fun s =>
      let s' := if back s then s.countBackEdge else s
      let s' := s'.modStr fun st => { st with seg := seg.toNat }
      (s'.enterBlock s.cur.group s.cur.strand slot.toNat blk.toNat
        (if back s then some (s.limOf s.cur.group s.str) else none)).moved) s

/-! ### Events of groups and strands -/

/-- The merged strand (R87, R163). DESIGN CHOICE: of equal votes it keeps the time at which the lower-numbered strand cast its own (log 80), and
where both are parked at one `JOIN` while a third is missing, the earlier deadline (log 81). -/
def mergeStrands (a b : Strand) : Strand :=
  let trips := b.trips.keys.foldl (fun t k => t.set 0 k (max (b.trips.get 0 k) (t.get 0 k))) a.trips
  let hi := fun (v : Nat) => if v == 3 then 0 else v + 1
  let park := match a.park, b.park with
    | .exit, _ => .exit
    | _, .exit => .exit
    | .join x, .join y => .join (min x y)
    | .join x, _ => .join x
    | _, .join y => .join y
    | p, _ => p
  { a with members := a.members ||| b.members, exm := a.exm ||| b.exm, trips := trips, park := park
           vote := if hi a.vote < hi b.vote then b.vote else a.vote
           voteAt := if hi a.vote < hi b.vote then b.voteAt else a.voteAt }

/-- STRAND_MERGE: the two strands become one, which keeps the lower number (R87, R163); a `JOIN` where nobody is missing any more
completes; the operations under way come before the strand's next LS or EN word (11 R243). -/
def execStrandMerge (g lo hi : Nat) (s : State) : Outcome :=
  let x := s.group g
  if x.live && decide (lo < hi) && decide (hi < 4) && mergeable (x.strand lo) (x.strand hi) then
    let s := s.modGroup g fun x =>
      { (x.setStrand lo { mergeStrands (x.strand lo) (x.strand hi) with drain := x.openOps lo ++ x.openOps hi }).setStrand hi {} with
        paths := x.paths.map fun o => if o.strand == hi then { o with strand := lo } else o }
    .next ((s.settleJoins g).settleEnd g)
  else .next s

/-- JOIN_DEADLINE: a strand parked at a `JOIN` whose deadline has come goes on with the lanes it holds (R164). -/
def execJoinDeadline (g st : Nat) (s : State) : Outcome :=
  match ((s.group g).strand st).park with
  | .join d =>
    if (s.group g).live && decide (d ≤ s.clk (clusterOf g)) then .next (s.completeJoin g st) else .next s
  | _ => .next s

/-- SWITCH_HOLD_BREAK: 32 cycles after the last W packet of the run its latches are lost, the strand is back at the first W packet, and
the packets of the run no longer count (05 R91, 17 R345); one of them that is still in flight has not acted and issues again with them. -/
def execSwitchHoldBreak (cl q : Nat) (s : State) : Outcome :=
  match (s.quarter cl q).hold with
  | some h =>
    if h.since + 32 ≤ s.clk cl then
      let (awaits, flights) := s.holdingOps h.group h.strand
      let s := s.modQuarter cl q fun x => { x with hold := none }
      .next (s.modGroup h.group fun g =>
        let late := (g.flight.map Flight.strand) == some h.strand
        { g.setStrand h.strand { g.strand h.strand with pc := h.first, block := [] } with
          progress := g.progress - BitVec.ofNat 64 (if late then h.packets - 1 else h.packets), flight := if late then none else g.flight, lost := g.lost ||| h.latches, awaits := awaits
          awaitsFlight := flights })
    else .next s
  | none => .next s

end Sys2Proof.Machine
end

