-- ==== Sys2Proof/Machine/System.lean ====
section
/-! DEFINITION. System words: the level vote, the clocks and meters, the checkpoint request and the privileged registers (08 R175 to R181),
with the events of the privileged registers of a cluster. -/

namespace Sys2Proof.Machine

/-! ### Glove pairs: values that the left group forwards (18 R364) -/

/-- The launch of the moving group is paired. -/
def State.pairedMe (s : State) : Bool := (s.launch s.me.place.launch).paired
/-- The moving group is of a right team. -/
def State.rightMe (s : State) : Bool := s.pairedMe && s.me.place.side == 1
/-- The moving group is of a left team. -/
def State.leftMe (s : State) : Bool := s.pairedMe && s.me.place.side == 0

/-- Packets that a group has come to, one that waits in `FUSE` not counted as retired. -/
def Group.at' (g : Group) : Dword := match g.wait with
  | .fuse .. => g.progress - 1
  | _ => g.progress
/-- A group of a pair may change its width: its partner has come to the same packet, and every value that the left one has forwarded has been
taken (18 R364; log 82). A partner that has halted, or that has changed its width already, holds nothing back. -/
def State.pairEven (s : State) (gk : Nat) : Bool := match s.partner gk with
  | none => true
  | some p => (s.group p).halt.isSome || ((s.group p).at' == (s.group gk).at' && (s.group p).fwd.isEmpty && (s.group gk).fwd.isEmpty)

/-- The value of an entry of the forwarding queue is still to come. -/
def Forward.open' (e : Forward) : Bool := e.op != 0 || e.wait

/-- A value that differs between the sides of a pair: the left group forwards what it reads, its queue holding at most 256; the right
group takes the next entry. -/
def forwarded (s : State) (v : Nat) (k : State → Nat → State) : State :=
  match s.partner s.cur.group with
  | none => if s.pairedMe then s.missed else k s v
  | some p =>
    if s.seen.place.side == 0 then
      if 256 ≤ s.me.fwd.length then s.missed
      else k (s.modMe fun g => { g with fwd := g.fwd ++ [{ vals := Tab.set 0 0 v [] }] }) v
    else match (s.group p).fwd with
      | e :: t => if e.open' then s.missed else k (s.modGroup p fun g => { g with fwd := t }) (e.vals.get 0 0)
      | [] => s.missed

/-! ### Words that a transaction forbids (10 R217) -/

/-- The moving group issues inside an open transaction. -/
def State.inTx (s : State) : Bool := s.me.tx.isOpen && !s.me.tx.committing
/-- Doom an open transaction; the first code stays. -/
def State.doomMe (s : State) (code : Nat) : State :=
  s.modMe fun g => { g with tx := { g.tx with doom := if g.tx.doom == 0 then code else g.tx.doom } }
/-- A word that a transaction forbids: it dooms the transaction and has no other effect (10 R217). DESIGN CHOICE: an EN word with a zero EXM in
an open transaction dooms it likewise and raises no ENGMASK, which 05 R88 and 10 R226 raise at issue (log 89). -/
def unlessTx (s : State) (k : State → State) : State := if s.inTx then s.doomMe 4 else k s

/-! ### Reading the machine (R177) -/

/-- The value in pJ of the issuing context's meter: NRG and the part that this cluster has not folded (17 R346). -/
def State.energyRead (s : State) : Nat :=
  let q := s.seen.place.qidx
  (s.quote q).nrg * 1000 + (s.cluster s.myCluster).meters.get 0 q / 10000

/-- A reading of 64 bits that a pair forwards. -/
def readWord (i : Instr) (d : BitVec 7) (f : State → Nat) (s : State) : Outcome :=
  issue i s fun s => .next (forwarded s (f s) fun s v => (s.chargeMe eG1).gResult64 false d.toNat (BitVec.ofNat 64 v))

/-- `RDCLK` (R177). -/
def execRdclk (d : BitVec 7) (s : State) : Outcome := readWord (.rdclk d) d (fun s => s.clk s.myCluster) s
/-- `RDSYNC` (R177, 20 R388). -/
def execRdsync (d : BitVec 7) (s : State) : Outcome := readWord (.rdsync d) d (fun s => s.time.toNat) s
/-- `RDPROG` (R177, 17 R345). -/
def execRdprog (d : BitVec 7) (s : State) : Outcome := groupWord64 (.rdprog d) false d (fun s => s.seen.progress) s
/-- `RDNRG` (R177). -/
def execRdnrg (d : BitVec 7) (s : State) : Outcome := readWord (.rdnrg d) d State.energyRead s

/-- `SETPL` (R175): the vote, and the level that the cluster will reach. -/
def execSetpl (d : BitVec 7) (a : BitVec 8) (s : State) : Outcome :=
  issue (.setpl d a) s fun s =>
    let v := (s.gsrc a).toNat % 4
    let t := ((s.chargeMe eG1).modStr fun st => { st with vote := v, voteAt := s.time.toNat }).retarget s.myCluster
    .next (t.gResult false d.toNat (BitVec.ofNat 32 (t.wantedLevel s.myCluster)))

/-- `CKPT` (R178): NOTPROT for a launch that is not protected; otherwise a close is asked for and the group parks until it commits. -/
def execCkpt (d : BitVec 7) (s : State) : Outcome :=
  brWord (.ckpt d) noTrap (fun s =>
    if s.inTx then (s.doomMe 4).fallMe.moved
    else if (s.launch s.seen.place.launch).prot then
      let s := s.modMe fun g => { g with wait := .ckpt d.toNat }
      let s := s.modStr fun st => { st with park := .ckpt }
      { s with rel := { s.rel with closeDue := true } }.moved
    else (s.modMe fun g => g.setG d.toNat 1).fallMe.moved) s

/-! ### Privileged registers (R180) -/

/-- A cluster holds no group, resident or saved in place, no engine operation and no scratchpad-monitor entry (09 R187). A team is saved in
place where the cluster's image area holds its image (13 R281; log 65). -/
def State.emptyCluster (s : State) (cl : Nat) : Bool :=
  (s.groupsOn cl).isEmpty && (s.cluster cl).scr.isEmpty
    && !(s.ops.any fun e => e.2.live && e.2.cluster == cl)
    && !(s.teams.any fun e => e.2.live && e.2.cluster == cl && match e.2.phase with
      | .running => true
      | .draining .. => true
      | .saving => true
      | .saved => (s.cluster cl).imageArea == some e.1
      | _ => false)

/-- Every dirty byte of a cluster's L1 is written back, and L1 is empty (09 R187). -/
def State.flushL1 (s : State) (cl : Nat) : State :=
  (s.writeBacks cl false (s.cluster cl).l1.keys).1.modCluster cl fun c => { c with l1 := [] }

/-- A value of SRAMSPLIT that may stand (09 Table 9-3). -/
def splitOk (v : Word) : Bool :=
  let r := bits v.toNat 11 8
  let c := bits v.toNat 7 4
  let l := bits v.toNat 3 0
  r + c + l == 16 && decide (4 ≤ r) && decide (r ≤ 8) && decide (2 ≤ c) && decide (c ≤ 8) && decide (1 ≤ l) && decide (l ≤ 4)

/-- A write of SRAMSPLIT (09 R186, R187): discarded unless the fields fit and the cluster is empty. -/
def State.writeSplit (s : State) (cl : Nat) (v : Word) : State :=
  if splitOk v && s.emptyCluster cl then (s.flushL1 cl).modCluster cl fun c => { c with sramsplit := v &&& 0xFFF } else s

/-- A write of DUTY: OVER and EXH are cleared by a 1 (17 Table 17-6). -/
def State.writeDuty (s : State) (cl : Nat) (v : Word) : State :=
  s.modCluster cl fun c => { c with duty := c.duty &&& ~~~ ((v &&& 0x30000000).zeroExtend 64) }

/-- A write of INJ (24 Table 24-1). -/
def State.writeInj (s : State) (cl : Nat) (v : Word) : State := s.modCluster cl fun c => { c with inj := v &&& 0x800FFFFC }

/-- A privileged register as firmware of a die reads it; the low 32 bits of a wider one (log 26). -/
def State.readPriv (s : State) (die n : Nat) : Word :=
  let d := s.die die
  if n == 1 then d.fepc else if n == 2 then d.fcause else if n == 3 then d.fvec else if n == 4 then d.fev
  else if 0x10000 ≤ n && n < 0x10200 then (s.cluster (n - 0x10000)).sramsplit
  else if 0x20000 ≤ n && n < 0x20200 then (s.cluster (n - 0x20000)).duty.truncate 32
  else if 0x30000 ≤ n && n < 0x30018 then BitVec.ofNat 32 (s.dust.get {} (n - 0x30000)).fill
  else if 0x40000 ≤ n && n < 0x40200 then (s.cluster (n - 0x40000)).inj
  else 0

/-- A write to a privileged register; an unassigned number takes none (R180, Table 8-3). -/
def State.writePriv (s : State) (die n : Nat) (v : Word) : State :=
  if n == 1 then s.modDie die fun d => { d with fepc := v }
  else if n == 3 then s.modDie die fun d => { d with fvec := v }
  else if 0x10000 ≤ n && n < 0x10200 then s.writeSplit (n - 0x10000) v
  else if 0x20000 ≤ n && n < 0x20200 then s.writeDuty (n - 0x20000) v
  else if 0x40000 ≤ n && n < 0x40200 then s.writeInj (n - 0x40000) v
  else s

/-- `MRS` (R180). -/
def execMrs (d : BitVec 7) (a : BitVec 8) (s : State) : Outcome :=
  groupWord (.mrs d a) false d (fun s => s.readPriv (dieOf s.myCluster) (s.gsrc a).toNat) s

/-- `MSR` (R180). It changes no G register. -/
def execMsr (n : BitVec 7) (a : BitVec 8) (s : State) : Outcome :=
  issue (.msr n a) s fun s =>
    .next ((s.chargeMe eG1).writePriv (dieOf s.myCluster) (s.seen.greg n.toNat).toNat (s.gsrc a))

/-- SRAMSPLIT_WRITE (09 R186). -/
def execSramsplitWrite (cl : Nat) (v : Word) (s : State) : Outcome := .next (s.writeSplit cl v)
/-- DUTY_CLEAR (17 R348). -/
def execDutyClear (cl : Nat) (v : Word) (s : State) : Outcome := .next (s.writeDuty cl v)
/-- INJ_WRITE (24 R400). -/
def execInjWrite (cl : Nat) (v : Word) (s : State) : Outcome := .next (s.writeInj cl v)

end Sys2Proof.Machine
end

