-- ==== Sys2Proof/Machine/Window.lean ====
section
/-! DEFINITION. The die windows of the front ends as an address reads and writes them (20 R383, Table 20-1). -/

namespace Sys2Proof.Machine

/-- Die of an address of the device range. -/
def winDie (pa : Nat) : Nat := (pa - 0x0F0000000000) / 0x4000000000
/-- Offset within the die window. -/
def winOff (pa : Nat) : Nat := (pa - 0x0F0000000000) % 0x4000000000
/-- Physical address of the mailbox of a die. -/
def mailboxPa (die : Nat) : Nat := 0x0F0000000000 + die * 0x4000000000 + 0x10000

/-- The mailbox descriptor, in the layout of Table 12-2: MASK, HEAD, TAIL, DIES, CLS and SZLG, BASE. -/
def mailboxDesc (die : Nat) (d : Die) : List Byte :=
  field 16 0 ++ field 4 d.mbHead.toNat ++ field 4 d.mbTail.toNat ++ field 2 0x6000 ++ field 6 (mailboxPa die)

/-- A byte of a die window. -/
def State.winByte (s : State) (pa : Nat) : Byte :=
  let die := winDie pa
  let o := winOff pa
  let d := s.die die
  if 4 ≤ die then 0
  else if o < 8 then (field 8 d.ready.toNat).getD o 0
  else if 0x1000 ≤ o && o < 0x10000 then d.caps.get 0 (o - 0x1000)
  else if 0x10000 ≤ o && o < 0x20000 then d.mailbox.get 0 (o - 0x10000)
  else if 0x20000 ≤ o && o < 0x20020 then (mailboxDesc die d).getD (o - 0x20000) 0
  else 0

/-- A word with one byte replaced. -/
def setByte (w : Word) (i : Nat) (b : Byte) : Word :=
  BitVec.ofNat 32 (leNat ((field 4 w.toNat).set i b))

/-- A byte written to a die window: the mailbox and the TAIL of its descriptor take it, anything else discards it. -/
def State.setWinByte (s : State) (pa : Nat) (b : Byte) : State :=
  let die := winDie pa
  let o := winOff pa
  if 4 ≤ die then s
  else if 0x10000 ≤ o && o < 0x20000 then s.modDie die fun d => { d with mailbox := d.mailbox.set 0 (o - 0x10000) b }
  else if 0x20014 ≤ o && o < 0x20018 then s.modDie die fun d => { d with mbTail := setByte d.mbTail (o - 0x20014) b }
  else s

/-- n bytes of a die window. -/
def State.winRead (s : State) (pa n : Nat) : List Byte := (List.range n).map fun i => s.winByte (pa + i)
/-- Bytes written to a die window. -/
def State.winWrite (s : State) (pa : Nat) : List Byte → State
  | [] => s
  | b :: t => State.winWrite (s.setWinByte pa b) (pa + 1) t

end Sys2Proof.Machine
end

