-- ==== Sys2Proof/Machine/Memory.lean ====
section
/-! DEFINITION. Loads and stores: `LDG`, `STG`, `LDS`, `STS`, `LDV`, `STV`, with the element loads, the transactional forms and the paired
forms, and the events that complete them; `CFETCH` (10 R202 to R210, R217, 04 R74 to R78, 17 R350, 18 R364, R365, 08 R171). -/

namespace Sys2Proof.Machine

/-! ### Signatures (17 R350) -/

/-- One bit of the CRC of ECMA-182. -/
def crcBit (c : Dword) : Dword := if c.msb then (c <<< 1) ^^^ 0x42F0E1EBA9EA3693 else c <<< 1
/-- One byte of it. -/
def crcByte (c : Dword) (b : Byte) : Dword :=
  (List.range 8).foldl (fun c _ => crcBit c) (c ^^^ ((b.zeroExtend 64) <<< 56))
/-- The CRC over bytes in order. -/
def crc64 (c : Dword) (bs : List Byte) : Dword := bs.foldl crcByte c

/-- A lane's store folded into a signature: its words in ascending address, each with its address, data, mask of 4 bytes, and the lane. -/
def signLane (sig : Dword) (lane addr size v : Nat) : Dword :=
  (List.range (size / 4)).foldl (fun c j =>
    crc64 c (field 8 (addr + 4 * j) ++ field 4 (v / 2 ^ (32 * j)) ++ field 1 15 ++ field 1 lane ++ field 2 0)) sig

/-- A store's lanes (lane, address, value) folded into the group's signature, in a paired launch. -/
def State.signStore (s : State) (size : Nat) (l : List (Nat × Nat × Nat)) : State :=
  if s.pairedMe then
    s.modMe fun g => { g with sig := l.foldl (fun c (lane, a, v) => signLane c lane a size v) g.sig }
  else s

/-! ### Addresses and orders -/

/-- Bytes of an access (03 Table 3-3). -/
def accessSize (sz : BitVec 2) : Nat := if sz == 1 then 8 else if sz == 2 then 16 else 4
/-- A 64-bit effective address (R202). -/
def State.ea (s : State) (a : BitVec 7) (off lane : Nat) : Nat := ((s.seen.vpair lane a.toNat).toNat + off) % 2 ^ 64
/-- A scratchpad effective address (R202). -/
def State.eaScr (s : State) (a : BitVec 7) (off lane : Nat) : Nat := ((s.seen.vreg lane a.toNat).toNat + off) % 2 ^ 32

/-- Lanes of EXM that are not helper lanes, with their addresses. -/
def State.hardLanes (s : State) (f : Nat → Nat) : List (Nat × Nat) := (lanesOf s.act).map fun i => (i, f i)
/-- Helper lanes of EXM with their addresses. -/
def State.softLanes (s : State) (f : Nat → Nat) : List (Nat × Nat) := (lanesOf (s.str.exm &&& s.seen.hlp)).map fun i => (i, f i)

/-- The bytes that a load of some accesses reads in its own space, its scales among them where they stand there. -/
def loadPieces (size : Nat) (accs scales : List Acc) : List (Nat × Nat) :=
  (accs.map fun a => (a.pa, size)) ++ scales.map fun a => (a.pa, 2)

/-- Bytes of an operation that have still to be read or written at their ordering point in a space (0 global, 1 vault, 2 scratchpad). The
scales of an `LDV.E` stand in global memory (10 R209). -/
def Op.pending (o : Op) (space : Nat) : List (Nat × Nat) :=
  match o.kind with
  | .load sp size accs scales =>
    if sp == 1 && space == 1 then accs.map fun a => (a.pa, size)
    else if sp == 1 && space == 0 && !o.reqs.isEmpty then scales.map fun a => (a.pa, 2)
    else if space == 0 && (sp == 3 || (sp == 0 && !o.reqs.isEmpty)) then loadPieces size accs scales
    else []
  | .store sp size accs => if sp == 1 && space == 1 then accs.map fun a => (a.pa, size) else []
  | .atomic sp _ size _ _ left => if sp == space then left.map fun a => (a, size) else []
  | _ => []

/-- An earlier operation of the moving group that touches one of the bytes has not performed: the pair keeps its order (11 R240). -/
def State.mustWait (s : State) (space : Nat) (l : List (Nat × Nat)) : Bool :=
  (s.opsOf s.cur.group).any fun e => overlaps l (e.2.pending space)

/-! ### Element loads (04 R74 to R78) -/

/-- Bits of an element of a format code; 0 for NONE and reserved codes. -/
def fmtBits (f : Nat) : Nat :=
  if f == 1 || f == 3 || f == 4 then 8 else if f == 2 || f == 5 || f == 6 then 4 else if f == 7 || f == 8 then 16 else 0
/-- Rows of a block of a geometry code; 0 for a reserved one. -/
def geoH (g : Nat) : Nat := if g ≤ 2 then 1 else if g == 3 then 8 else if g == 4 then 16 else if g == 5 then 4 else 0
/-- Columns of a block of a geometry code. -/
def geoW (g : Nat) : Nat :=
  if g == 0 then 16 else if g == 1 then 32 else if g == 2 then 64 else if g == 3 then 8 else if g == 4 then 16 else 32
/-- A page or window of n bytes may be decoded (R77). -/
def formatOk (f g rl n : Nat) : Bool :=
  fmtBits f != 0 && geoH g != 0 && decide (geoW g ≤ 2 ^ rl) && n * 8 / fmtBits f % (geoH g * 2 ^ rl) == 0
/-- The block of the element at a byte offset (R75). -/
def blockNo (f g rl off : Nat) : Nat :=
  let e := off * 8 / fmtBits f
  let n := 2 ^ rl
  e / n / geoH g * (n / geoW g) + e % n / geoW g
/-- A page may be decoded. -/
def pageFormat (e : TlbEntry) : Bool := formatOk (pteFmt e.pte) (pteGeo e.pte) (pteRl e.pte) (2 ^ e.bits)
/-- Where the scale of the element at an address of a page stands. -/
def pageScale (e : TlbEntry) (va : Nat) : Nat :=
  pteSpb e.pte + 2 * blockNo (pteFmt e.pte) (pteGeo e.pte) (pteRl e.pte) (va % 2 ^ e.bits)

/-- The lowest-numbered format window of a team that holds an address: base, length in bytes, and value (R78). -/
def Team.window (t : Team) (a : Nat) : Option Dword :=
  ((List.range 8).map fun k => t.windows.get 0 k).find? fun w =>
    let base := bits w.toNat 51 40 * 256
    decide (base ≤ a) && decide (a < base + bits w.toNat 39 28 * 256)
/-- A window may be decoded. -/
def windowFormat (w : Dword) : Bool :=
  formatOk (bits w.toNat 27 24) (bits w.toNat 23 21) (bits w.toNat 20 17) (bits w.toNat 39 28 * 256)
/-- Where the scale of the element at an address of a window stands. -/
def windowScale (w : Dword) (a : Nat) : Nat :=
  bits w.toNat 63 52 * 256
    + 2 * blockNo (bits w.toNat 27 24) (bits w.toNat 23 21) (bits w.toNat 20 17) (a - bits w.toNat 51 40 * 256)

/-! ### Issuing a load -/

/-- The operation of a load: its destination and the latch content at its write-back. -/
def loadOp (s : State) (space path size : Nat) (sz : BitVec 2) (d : BitVec 7) (accs scales : List Acc) : Op :=
  { kind := .load space size accs scales, path := path, dst := [(s.seen.vAt d.toNat, 4 * accessRegs sz)]
    mask := s.str.exm, hlp := s.seen.hlp }

/-- Fills for the sectors of a list that a load still lacks. -/
def State.askSectors (s : State) (k : Nat) : List Nat → State
  | [] => s
  | sec :: t =>
    let (s, r) := s.send (.fill s.myCluster sec none) s.myCluster k s.me.place.qidx (toSlice s.myCluster (sec / 4))
    let o := s.op k
    (s.setOp k { o with reqs := o.reqs ++ [r] }).askSectors k t

/-- The pieces of a load that it reads through L1: key, address and bytes. Of a vault load they are its scales, which stand in global memory
(04 R74; log 60). -/
def Op.l1Pieces (o : Op) : List (Nat × Nat × Nat) := match o.kind with
  | .load sp size accs scales =>
    (if sp == 1 then [] else accs.map fun a => (a.lane, a.pa, size)) ++ scales.map fun a => (a.lane + 64, a.pa, 2)
  | _ => []

/-- The lanes of a load take from L1 what L1 has, or what the front end answers for a die window; the sectors that are missing are asked for
(09 R191, 20 R383). -/
def State.startGlobal (s : State) (k : Nat) : State :=
  let o := s.op k
  match o.kind with
  | .load .. =>
    let cl := s.myCluster
    let all := o.l1Pieces
    let device := fun (pa : Nat) => regionOf pa == .device
    let hit := fun (pa n : Nat) => if device pa then some (leNat (s.winRead pa n), false) else s.l1Read cl pa n
    let o' := all.foldl (fun o (key, pa, n) => match hit pa n with
      | some (v, p) => o.take key v p
      | none => o) o
    let hits := all.filter fun e => !device e.2.1 && (hit e.2.1 e.2.2).isSome
    let missing := ((all.filter fun e => (hit e.2.1 e.2.2).isNone).map fun e => e.2.1 / 64).eraseDups
    let s := (s.setOp k o').chargeMe (11000 * hits.foldl (fun n e => n + e.2.2) 0)
    let s := (hits.map fun e => e.2.1 / 256).eraseDups.foldl (fun s l => s.setL1 cl l { s.l1Line cl l with use := s.free }) s
    s.askSectors k missing
  | _ => s

/-- A byte as a transaction reads it: its write log, else the home slice (R217). -/
def State.txByte (s : State) (gk pa : Nat) : Byte := ((s.group gk).tx.writes.get none pa).getD (s.homeByte pa)

/-- The transaction of the moving group reads through its logs. -/
def State.txReads (s : State) : Bool := s.inTx && !s.me.tx.full

/-- A transaction whose log has overflowed: CAPACITY, unless it is doomed already (R217). -/
def Tx.overflow (t : Tx) : Tx := { t with full := true, doom := if t.doom == 0 then 2 else t.doom }

/-- A sector enters the read log of a group's transaction; the 65th dooms it. -/
def State.logRead (s : State) (gk sec : Nat) : State :=
  let t := (s.group gk).tx
  if t.full || t.reads.any fun e => e.1 == sec then s
  else if 64 ≤ t.reads.length then s.modGroup gk fun g => { g with tx := g.tx.overflow }
  else s.modGroup gk fun g => { g with tx := { g.tx with reads := g.tx.reads ++ [(sec, s.homeBytes (sec * 64) 64)] } }

/-- The lanes of a transactional load take their bytes; each sector that comes from a slice enters the read log. A die window is read past
it (20 R383). -/
def State.takeTx (s : State) (k : Nat) : State :=
  let o := s.op k
  match o.kind with
  | .load 3 size accs scales =>
    let all := (accs.map fun a => (a.lane, a.pa, size)) ++ scales.map fun a => (a.lane + 64, a.pa, 2)
    let logged := fun (pa n : Nat) => (List.range n).all fun i => ((s.group o.group).tx.writes.get none (pa + i)).isSome
    let o' := all.foldl (fun o (key, pa, n) =>
      if regionOf pa == .device then o.take key (leNat (s.winRead pa n)) false
      else o.take key (leNat ((List.range n).map fun i => s.txByte o.group (pa + i))) (!logged pa n && s.homePoison pa)) o
    let secs := ((all.filter fun e => isGlobal e.2.1 && !logged e.2.1 e.2.2).map fun e => e.2.1 / 64).eraseDups
    secs.foldl (fun s sec =>
      ((s.logRead o.group sec).charge o.cluster o.qidx (sliceCost o.cluster (sec * 64) 64)).freshen o.cluster sec) (s.setOp k o')
  | _ => s

/-- The scratchpad lanes of a load take their bytes at the port. -/
def State.startScratch (s : State) (k : Nat) : State :=
  let o := s.op k
  match o.kind with
  | .load _ size accs scales =>
    let t := s.team o.team
    let all := (accs.map fun a => (a.lane, a.pa, size)) ++ scales.map fun a => (a.lane + 64, a.pa, 2)
    let o' := all.foldl (fun o (key, a, n) =>
      let p := t.poisoned a n
      o.take key (t.read a n) p) o
    (s.setOp k o').chargeMe (6000 * all.foldl (fun n e => n + e.2.2) 0)
  | _ => s

/-- A right group's load takes the next entry of its partner's forwarding queue (18 R364). -/
def State.takeForward (s : State) (p : Nat) (o : Op) : State :=
  match (s.group p).fwd with
  | e :: t =>
    if e.open' then s.missed
    else
      let s := s.modGroup p fun g => { g with fwd := t }
      (s.newOp { o with vals := e.vals, poisoned := e.poison }).1
  | [] => s.missed

/-- Sectors of a right group's transactional load enter its read log, as they enter the left one's: the digest of its `TXE` names them
(18 R366). -/
def State.logPieces (s : State) (l : List (Nat × Nat)) : State :=
  let gk := s.cur.group
  let logged := fun (e : Nat × Nat) => (List.range e.2).all fun i => ((s.group gk).tx.writes.get none (e.1 + i)).isSome
  ((l.filter fun e => isGlobal e.1 && !logged e).map fun e => e.1 / 64).eraseDups.foldl (fun s sec => s.logRead gk sec) s

/-- A load of global or vault memory is issued (R206, R207, R217). It waits for earlier operations on the same bytes, and in a pair for its
partner (log 82), for room in the forwarding queue or for the value. -/
def State.issueLoad (s : State) (space path size : Nat) (sz : BitVec 2) (d : BitVec 7) (accs scales : List Acc) : State :=
  let tx := space == 0 && s.txReads
  let o := loadOp s (if tx then 3 else space) path size sz d accs scales
  let go := fun (s : State) =>
    let (s, k) := s.newOp o
    (if tx then s else s.startGlobal k, k)
  if s.mustWait space (accs.map fun a => (a.pa, size)) || s.mustWait 0 (scales.map fun a => (a.pa, 2)) then s.missed
  else match s.partner s.cur.group with
    | none => if s.pairedMe then s.missed else (go s).1
    | some p =>
      if s.rightMe then
        let t := s.takeForward p { o with kind := .load 2 size accs [] }
        if tx && !t.cur.miss then t.logPieces (loadPieces size accs scales) else t
      else if 256 ≤ s.me.fwd.length then s.missed
      else
        let (s, k) := go s
        s.modMe fun g => { g with fwd := g.fwd ++ [{ op := k, vals := [] }] }

/-- A load through pages. -/
def pageLoad (i : Instr) (vault : Bool) (path : Nat) (sz : BitVec 2) (d a : BitVec 7) (off : BitVec 8) (s : State) : Outcome :=
  issue i s fun s =>
    let size := accessSize sz
    let elem := sz == 3
    let ea := s.ea a (off.toNat * size)
    .next (s.onAccess (s.access { vault := vault, rd := true } size elem pageFormat (s.hardLanes ea) (s.softLanes ea)) fun s l =>
      s.issueLoad (if vault then 1 else 0) path size sz d (l.map Prod.fst)
        (if elem then l.map fun e => { lane := e.1.lane, ea := e.1.ea, pa := pageScale e.2 e.1.ea } else []))

/-- `LDG` (R206). -/
def execLdg (sz : BitVec 2) (d a : BitVec 7) (off : BitVec 8) (s : State) : Outcome := pageLoad (.ldg sz d a off) false pGLOB sz d a off s
/-- `LDV` (R206). -/
def execLdv (sz : BitVec 2) (d a : BitVec 7) (off : BitVec 8) (s : State) : Outcome := pageLoad (.ldv sz d a off) true pVLT sz d a off s

/-- A store or an atomic may not touch the bytes: a declared barrier object or the team control block (12 R259, 17 R339). -/
def guarded (img : Image) (t : Team) (a n : Nat) : Bool :=
  (img.barriers.any fun b => overlap (a, n) (b, 16)) || (img.hasTcb && overlap (a, n) (t.tcb, 16))

/-- What a scratchpad access of a lane finds: FORMAT, ALIGN or PERM, in this order (R203, R204, R78). `img` is the image for a store or an
atomic. -/
def scrTrap (t : Team) (img : Option Image) (size : Nat) (elem : Bool) (a : Nat) : Option TrapKind :=
  let bad := elem && match t.window a with
    | some w => !windowFormat w
    | none => true
  let scale := elem && match t.window a with
    | some w => decide (t.size < windowScale w a + 2)
    | none => false
  let guard := match img with
    | some i => guarded i t a size
    | none => false
  if bad then some .format
  else if a % size != 0 then some .alignData
  else if decide (t.size < a + size) || scale || guard then some .perm else none

/-- The trap of the highest priority among lanes, at its lowest lane. -/
def firstScrTrap (t : Team) (img : Option Image) (size : Nat) (elem : Bool) (l : List (Nat × Nat)) : Option (TrapKind × Nat × Nat) :=
  [TrapKind.format, .alignData, .perm].findSome? fun k =>
    (l.find? fun e => scrTrap t img size elem e.2 == some k).map fun e => (k, e.1, e.2)

/-- The moving group's image. -/
def State.myImage (s : State) : Image := s.imageOf s.seen.place.launch
/-- The moving group's team. -/
def State.myTeam (s : State) : Team := s.team s.seen.place.team

/-- `LDS` (R206, R189): the lanes read at the scratchpad port. -/
def execLds (sz : BitVec 2) (d a : BitVec 7) (off : BitVec 8) (s : State) : Outcome :=
  issue (.lds sz d a off) s fun s =>
    let size := accessSize sz
    let elem := sz == 3
    let ea := s.eaScr a (off.toNat * size)
    match firstScrTrap s.myTeam none size elem (s.hardLanes ea) with
    | some (k, lane, addr) => .next (s.trapWord k (some lane) 0 addr)
    | none =>
      let l := s.hardLanes ea ++ (s.softLanes ea).filter fun e => scrTrap s.myTeam none size elem e.2 == none
      let accs : List Acc := l.map fun e => { lane := e.1, ea := e.2, pa := e.2 }
      let scales : List Acc := if elem then l.filterMap fun e => (s.myTeam.window e.2).map fun w =>
        { lane := e.1, ea := e.2, pa := windowScale w e.2 } else []
      if s.mustWait 2 (accs.map fun a => (a.pa, size)) then .next s.missed
      else
        let (s, k) := s.newOp (loadOp s 2 pSCR size sz d accs scales)
        .next (s.startScratch k)

/-! ### Completion of a load -/

/-- The strand that issued an operation. -/
def Group.opStrand (g : Group) (k : Nat) : Nat := ((g.paths.find? fun o => o.op == k).map PathOp.strand).getD 0

/-- A result of an operation given to the group that issued it, and to the right partner where the pair executes it once (18 R366). -/
def State.give (s : State) (k : Nat) (f : Group → Group) : State :=
  let o := s.op k
  let s := if s.opAlive o then s.modGroup o.group f else s
  let m := s.op o.mirror
  if o.mirror != 0 && s.opAlive m then s.modGroup m.group f else s

/-- An operation ends, and its mirror with it. -/
def State.finish (s : State) (k : Nat) : State :=
  let m := (s.op k).mirror
  let s := s.endOp k
  if m != 0 then s.endOp m else s

/-- Values of an operation written to its lanes, n bytes each, with L3 (05 R89). -/
def State.landLanes (s : State) (k n : Nat) (wide : Bool) (f : Nat → Nat) : State :=
  let o := s.op k
  let b := (o.dst.headD (0, 0)).1
  let s := s.modGroup o.group fun g => g.writeLanes b n f (lanesOf o.mask)
  s.enterLatch o.group 3 (laneLatch (s.group o.group) (min 64 (8 * n)) wide o.mask f)

/-- The group halts with POISON at the packet of an operation; the report names the lowest lane that consumed it (18 R353). -/
def State.poisonHalt (s : State) (k : Nat) (lane : Option Nat) (addr : Nat) : State :=
  let o := s.op k
  let st := (s.group o.group).opStrand k
  (s.endOp k).takeTrap o.group st { kind := .poison, word := o.word, lane := lane, addr := addr, pc := o.pc }

/-- A group takes no more results. -/
def State.opGone (s : State) (o : Op) : Bool := !s.opAlive o || (s.group o.group).halt.isSome

/-- The bytes of a vault as a left group sees them: its queued stores come first (18 R365). -/
def State.vaultByte (s : State) (gk pa : Nat) : Byte :=
  match (((s.group gk).heldVault.flatten).reverse.find? fun e => e.1 == pa) with
  | some e => e.2
  | none => s.memByte pa

/-- The lanes of a vault load take their bytes at the vault; the scales of an `LDV.E` have come through L1 (log 60). -/
def State.takeVault (s : State) (k : Nat) : State :=
  let o := s.op k
  match o.kind with
  | .load 1 size accs _ =>
    let read := fun (a n : Nat) => leNat ((List.range n).map fun i => s.vaultByte o.group (a + i))
    let tainted := fun (a : Nat) => (List.range (size / 4)).any fun i => s.vaultPoison.get false (a / 4 + i)
    let o := accs.foldl (fun o a =>
      let p := tainted a.pa
      o.take a.lane (read a.pa size) p) o
    accs.foldl (fun s a => s.charge o.cluster o.qidx (vaultCost o.cluster a.pa size)) (s.setOp k o)
  | _ => s

/-- The entry of the forwarding queue that a left load fills. -/
def State.forwardLoad (s : State) (k : Nat) (o : Op) : State :=
  s.modGroup o.group fun g => { g with fwd := g.fwd.map fun e =>
    if e.op == k then { op := 0, vals := o.vals, poison := o.poisoned } else e }

/-- The bytes that a load reads at home slices as it completes: those of a transactional load. -/
def Op.homeReads (o : Op) : List (Nat × Nat) := match o.kind with
  | .load 3 size accs scales => loadPieces size accs scales
  | _ => []

/-- Those bytes may not be read yet: a line is not to be read, or a write-back of the cluster to it is on its way. -/
def State.homeHeld (s : State) (o : Op) : Bool :=
  o.homeReads.any fun e => s.lineBusy (e.1 / 256) 0 || s.wbAhead o.cluster (e.1 / 256)

/-- LOAD_WRITEBACK (R207, R209): with every byte there, all lanes are written together, or none where a lane consumed poison. Sectors that
are read at a home slice and are not there are filled first. -/
def execLoadWriteback (op : Nat) (s : State) : Outcome :=
  let o := s.op op
  match o.live && o.reqs.isEmpty, o.kind with
  | true, .load _ size accs _ =>
    let lack := s.lacking o.qidx o.homeReads
    if s.opGone o then .next (s.endOp op)
    else if s.homeHeld o then .next s
    else if !lack.isEmpty then .next (s.wantHome o.cluster o.qidx 64 lack)
    else
      let s := (s.takeVault op).takeTx op
      let s := s.setOp op (s.op op).blanked
      let o := s.op op
      let s := s.forwardLoad op o
      match (lanesOf o.poisoned).head? with
      | some lane =>
        .next (s.poisonHalt op (some lane) (((accs.find? fun a => a.lane == lane).map Acc.ea).getD 0))
      | none =>
        let n := (o.dst.headD (0, 0)).2
        let f := fun (i : Nat) => o.vals.get 0 i + o.vals.get 0 (i + 64) * 2 ^ 32
        .next ((s.landLanes op n (decide (8 < size)) f).endOp op)
  | _, _ => .next s

/-! ### Stores -/

/-- The data of a store's lane. -/
def State.storeVal (s : State) (d : BitVec 7) (size lane : Nat) : Nat := s.seen.readLane lane (s.seen.vAt d.toNat) size

/-- The oldest lines of a group's release set beyond n are written back and drop (R221, 23 R396). -/
def State.shedRelease (s : State) (gk n : Nat) : State :=
  let r := (s.group gk).release
  (r.take (r.length - n)).foldl (fun s old =>
    ((s.writeBack (clusterOf gk) old 0 false).1).modGroup gk fun g => { g with release := g.release.filter (· != old) }) s

/-- A line enters a group's release set; a 65th writes back the oldest first (R221). -/
def State.noteReleaseOf (s : State) (gk l : Nat) : State :=
  if (s.group gk).release.contains l then s
  else (s.shedRelease gk 63).modGroup gk fun g => { g with release := g.release ++ [l], relAt := g.relAt.set 0 l (s.free + 1) }
/-- A line enters the moving group's release set. -/
def State.noteRelease (s : State) (l : Nat) : State := s.noteReleaseOf s.cur.group l

/-- Lanes of an `STG` into L1, one after the other; none when a line finds every candidate way held (18 R365). -/
def State.storeLanes (s : State) (size held : Nat) : List (Acc × Nat) → Option State
  | [] => some s
  | (a, v) :: t =>
    if regionOf a.pa == .device then (s.winWrite a.pa (toBytes size v)).storeLanes size held t
    else if (s.cluster s.myCluster).l1Room (a.pa / 256) then
      ((s.l1Store s.myCluster a.pa size v s.me.place.qidx held).noteRelease (a.pa / 256)).storeLanes size held t
    else none

/-- A byte range enters the write log of the transaction; a 17th line dooms it (R217). -/
def State.logWrite (s : State) (pa size v : Nat) : State :=
  let t := s.me.tx
  if t.full then s
  else if !t.wlines.contains (pa / 256) && decide (16 ≤ t.wlines.length) then s.modMe fun g => { g with tx := g.tx.overflow }
  else s.modMe fun g => { g with tx := { g.tx with
    wlines := if g.tx.wlines.contains (pa / 256) then g.tx.wlines else g.tx.wlines ++ [pa / 256]
    writes := ((toBytes size v).zipIdx).foldl (fun w e => w.set none (pa + e.2) (some e.1)) g.tx.writes } }

/-- The moving group's team has done what forbids a discard (13 R284). -/
def State.markMe (s : State) : State :=
  let t := s.me.place.team
  if (s.team t).live then s.modTeam t fun x => { x with marked := true } else s

/-- A comparison that a release asks for: the word waits for it (18 R366). -/
def State.askCompare (s : State) : State := s.missed.modMe fun g => { g with wait := .compare }

/-- The left partner of the moving group has gone past the packet, so that a comparison which the packet's store forces there finds the same
stores signed on both sides (18 R366; log 67). -/
def State.leftPast (s : State) : Bool := match s.partner s.cur.group with
  | some p => let l := s.group p; decide (s.me.progress < l.progress) || l.halt.isSome || l.ended
  | none => false

/-- `STG` with its lanes checked (R208, R217). A line that finds every way held forces the comparison of those that hold them, and waits (18
R365). -/
def State.issueStg (s : State) (size : Nat) (d : BitVec 7) (accs : List Acc) : State :=
  let l := accs.map fun a => (a, s.storeVal d size a.lane)
  let signed := fun (s : State) => s.signStore size (l.map fun e => (e.1.lane, e.1.ea, e.2))
  let op := fun (s : State) => (s.newOp { kind := .store 0 size [], path := pGLOB }).1
  let done := fun (s : State) => (op s).markMe
  if s.mustWait 0 (accs.map fun a => (a.pa, size)) then s.missed
  else if s.inTx then op (signed (l.foldl (fun s e => s.logWrite e.1.pa size e.2) s))
  else if s.rightMe then (if s.leftPast then done (signed s) else s.missed)
  else match s.storeLanes size (if s.leftMe then s.me.uid else 0) l with
    | none => l.foldl (fun s e => if isGlobal e.1.pa then s.press s.myCluster (e.1.pa / 256) else s) s.missed
    | some t => done (signed (t.chargeMe (11000 * (size * l.length))))

/-- `STG` (R206). -/
def execStg (sz : BitVec 2) (d a : BitVec 7) (off : BitVec 8) (s : State) : Outcome :=
  issue (.stg sz d a off) s fun s =>
    let size := accessSize sz
    let ea := s.ea a (off.toNat * size)
    .next (s.onAccess (s.access { wr := true } size false (fun _ => true) (s.hardLanes ea) []) fun s l =>
      s.issueStg size d (l.map Prod.fst))

/-- `STS` (R206): the lanes write at the scratchpad port, and then the entries that watch their words are evaluated. -/
def execSts (sz : BitVec 2) (d a : BitVec 7) (off : BitVec 8) (s : State) : Outcome :=
  issue (.sts sz d a off) s fun s =>
    let size := accessSize sz
    let lanes := s.hardLanes (s.eaScr a (off.toNat * size))
    match firstScrTrap s.myTeam (some s.myImage) size false lanes with
    | some (k, lane, addr) => .next (s.trapWord k (some lane) 0 addr)
    | none =>
      if s.mustWait 2 (lanes.map fun e => (e.2, size)) then .next s.missed
      else
        let team := s.seen.place.team
        let s := s.signStore size (lanes.map fun e => (e.1, e.2, s.storeVal d size e.1))
        let t := s.scrStores team (lanes.map fun e => (e.2, toBytes size (s.storeVal d size e.1)))
        let t := lanes.foldl (fun t e => t.evalScr team e.2 size) t
        .next ((t.newOp { kind := .store 2 size [], path := pSCR }).1.chargeMe (6000 * (size * lanes.length)))

/-- `STV` with its lanes checked: written at the vault's acknowledgement; a left group's stores wait in the queue of 32 of its cluster, and
a 33rd forces the comparison of those that fill it (18 R365). -/
def State.issueStv (s : State) (size : Nat) (d : BitVec 7) (accs : List Acc) : State :=
  let vals := accs.map fun a => (a, s.storeVal d size a.lane)
  let signed := fun (s : State) => (s.signStore size (vals.map fun e => (e.1.lane, e.1.ea, e.2))).markMe
  let queued : Nat := (s.groupsOn s.myCluster).foldl (fun n e => n + e.2.heldVault.length) 0
  let idle : Op := { kind := .store 0 size [], path := pVLT }
  if s.mustWait 1 (accs.map fun a => (a.pa, size)) then s.missed
  else if s.rightMe then (if s.leftPast then ((signed s).newOp idle).1 else s.missed)
  else if s.leftMe then
    if 32 ≤ queued then (s.groupsOn s.myCluster).foldl (fun s e => if e.2.heldVault.isEmpty then s else s.pressGroup e.1) s.missed
    else
      let bs := vals.flatMap fun e => ((toBytes size e.2).zipIdx).map fun b => (e.1.pa + b.2, b.1)
      (((signed s).modMe fun g => { g with heldVault := g.heldVault ++ [bs] }).newOp idle).1
  else
    ((signed s).newOp { kind := .store 1 size accs, path := pVLT
                        vals := vals.foldl (fun t e => t.set 0 e.1.lane e.2) [] }).1

/-- `STV` (R206). -/
def execStv (sz : BitVec 2) (d a : BitVec 7) (off : BitVec 8) (s : State) : Outcome :=
  issue (.stv sz d a off) s fun s =>
    let size := accessSize sz
    let ea := s.ea a (off.toNat * size)
    .next (s.onAccess (s.access { vault := true, wr := true } size false (fun _ => true) (s.hardLanes ea) []) fun s l =>
      s.issueStv size d (l.map Prod.fst))

/-- STORE_ACK (R206, R209): an `STG` or `STS` completes; an `STV` is written at the vault, its watched words are evaluated, and it
completes. -/
def execStoreAck (op : Nat) (s : State) : Outcome :=
  let o := s.op op
  match o.live, o.kind with
  | true, .store 1 size accs =>
    let t := accs.foldl (fun t a => t.vaultPut a.pa (toBytes size (o.vals.get 0 a.lane)) false) s
    let t := accs.foldl (fun t a => (t.evalMon (orderKey a.pa) a.pa size).charge o.cluster o.qidx (vaultCost o.cluster a.pa size)) t
    .next (t.endOp op)
  | true, .store _ _ _ => .next (s.endOp op)
  | _, _ => .next s

/-! ### CFETCH (08 R171) -/

/-- A group-wide word at one global or vault address: acceptance with ALIGN, TRANSL and PERM, none of them at a lane; `pin` marks the words
that need no declared range beyond the byte they name. -/
def State.oneAccess (s : State) (n : Need) (align size va : Nat) (k : State → Nat → State) : State :=
  if va % align != 0 then s.trapWord .alignData none 0 va
  else match s.look va with
    | .miss => s.askWalk va
    | .fail => s.trapWord .transl none 0 va
    | .page e pa =>
      if pageOk s.seen.place.priv n e pa && s.declared va size then k (s.tlbUse s.myCluster s.seen.place.qidx [va]) pa
      else s.trapWord .perm none 0 va

/-- The launch declares an instruction-store slot; firmware may name any (15 Table 15-5 SLOTS). -/
def State.slotDeclared (s : State) (slot : Nat) : Bool :=
  s.seen.place.priv || (s.imageOf s.seen.place.launch).slots.getLsbD slot

/-- `CFETCH` (08 R171). A segment image crosses no page, for it is aligned on its own size. -/
def execCfetch (slot : BitVec 7) (a : BitVec 8) (s : State) : Outcome :=
  issue (.cfetch slot a) s fun s => .next (unlessTx s fun s =>
    let va := (s.seen.gpair a.toNat).toNat
    s.oneAccess { rd := true } 2048 2048 va fun s pa =>
      if s.slotDeclared slot.toNat then
        (s.newOp { kind := .cfetch slot.toNat pa, path := pCODE, pos := va }).1
      else s.trapWord .perm none 0 va)

/-- CFETCH_LANDING (08 R171): the 2,048 bytes from their homes, filled where a slice lacks them, or from a die window (20 R383), replace the
slot at once, or poison empties it and halts the group. The fetch of a group that is gone lands nowhere. -/
def execCfetchLanding (op : Nat) (s : State) : Outcome :=
  let o := s.op op
  match o.live, o.kind with
  | true, .cfetch slot pa =>
    let lack := s.lacking o.qidx [(pa, 2048)]
    if !s.opAlive o then .next (s.endOp op)
    else if (List.range 8).any fun i => isGlobal pa && s.lineBusy (pa / 256 + i) 0 then .next s
    else if !lack.isEmpty then .next (s.wantHome o.cluster o.qidx 64 lack)
    else
      let l := (s.group o.group).place.launch
      let key := l * 64 + slot
      let bytes := fun (a n : Nat) => if isGlobal pa then s.homeBytes a n else s.winRead a n
      let bad := isGlobal pa && (List.range 32).any fun i => s.homePoison (pa + 64 * i)
      let words := (List.range 512).foldl (fun t i => Tab.set 0 i (BitVec.ofNat 32 (leNat (bytes (pa + 4 * i) 4))) t) []
      let s := s.charge o.cluster o.qidx (sliceCost o.cluster pa 2048 + 12288000)
      let s := s.modCluster o.cluster fun c =>
        { c with istore := c.istore.update {} key fun x =>
          if bad then { x with landed := false, words := [] }
          else { x with landed := true, bound := true, launch := l, source := some o.pos, words := words } }
      .next (if bad && !s.opGone o then s.poisonHalt op none o.pos else s.endOp op)
  | _, _ => .next s

end Sys2Proof.Machine
end

