-- ==== Sys2Proof/Machine/Numbers.lean ====
section
/-! DEFINITION. Number formats and arithmetic (chapter 04): values, one rounding, the NaN rules, conversions, the transcendentals, exact
sums. Encodings are natural numbers; every exact value is an integer times a power of two. -/

namespace Sys2Proof.Machine

/-- A binary float format: exponent bits and fraction bits (04 Table 4-1). -/
structure Fmt where
  ebits : Nat
  frac : Nat
  deriving DecidableEq, Repr

/-- F32. -/
def f32 : Fmt := ⟨8, 23⟩
/-- F16. -/
def f16 : Fmt := ⟨5, 10⟩
/-- B16. -/
def b16 : Fmt := ⟨8, 7⟩
/-- W8. -/
def w8 : Fmt := ⟨4, 3⟩
/-- W4. -/
def w4 : Fmt := ⟨2, 1⟩

/-- The exponent bias. -/
def Fmt.bias (f : Fmt) : Nat := 2 ^ (f.ebits - 1) - 1
/-- Weight of the sign bit. -/
def Fmt.signW (f : Fmt) : Nat := 2 ^ (f.ebits + f.frac)
/-- The encoding of +∞ in the IEEE formats. -/
def Fmt.infMag (f : Fmt) : Nat := (2 ^ f.ebits - 1) * 2 ^ f.frac
/-- The exponent of the smallest non-zero value. -/
def Fmt.emin (f : Fmt) : Int := 1 - (f.bias : Int) - (f.frac : Int)

/-- A value: a NaN by its sign and event code (R67), an infinity, or ± m × 2^e. -/
inductive Val where
  | nan (s : Bool) (code : Nat)
  | inf (s : Bool)
  | fin (s : Bool) (m : Nat) (e : Int)
  deriving DecidableEq, Repr

/-- The value is a NaN. -/
def Val.isNan : Val → Bool
  | .nan _ _ => true
  | _ => false

/-- ± m × 2^e of an exponent field and a fraction field. -/
def Fmt.finite (f : Fmt) (s : Bool) (ex fr : Nat) : Val :=
  if ex == 0 then .fin s fr f.emin else .fin s (2 ^ f.frac + fr) (f.emin + (ex : Int) - 1)

/-- The value of an encoding of F32, F16 or B16. -/
def Fmt.val (f : Fmt) (x : Nat) : Val :=
  let s := x / f.signW % 2 == 1
  let ex := x / 2 ^ f.frac % 2 ^ f.ebits
  let fr := x % 2 ^ f.frac
  if ex == 2 ^ f.ebits - 1 then (if fr == 0 then .inf s else .nan s (fr % 64)) else f.finite s ex fr

/-- The value of an encoding of W8 or W4; the single NaN reads as NARROW_NAN (R65, R68). -/
def Fmt.narrow (f : Fmt) (x : Nat) : Val :=
  let x := x % (2 * f.signW)
  if x == f.signW then .nan false 7
  else f.finite (x / f.signW == 1) (x / 2 ^ f.frac % 2 ^ f.ebits) (x % 2 ^ f.frac)

/-- A NaN of the device (R67, R68). -/
def Fmt.nanBits (f : Fmt) (s : Bool) (code : Nat) : Nat :=
  (if s then f.signW else 0) + f.infMag + 2 ^ (f.frac - 1) + code

/-! ### Rounding (R70) -/

/-- Whether a magnitude is raised by one unit: its parity, whether the rest is below, at or above the half, and whether it is exact. -/
def roundsUp (mode : Nat) (s odd : Bool) (half : Ordering) (exact : Bool) : Bool :=
  match mode with
  | 0 => half == .gt || (half == .eq && odd)
  | 1 => false
  | 2 => !exact && !s
  | 3 => !exact && s
  | _ => half != .lt

/-- m × 2^e as a multiple of 2^q, rounded; sticky stands for a positive rest below the last bit of m. -/
def roundAt (mode : Nat) (s : Bool) (m : Nat) (e q : Int) (sticky : Bool) : Nat :=
  if q < e then m * 2 ^ (e - q).toNat + (if roundsUp mode s false .lt (!sticky) then 1 else 0)
  else
    let p := 2 ^ (q - e).toNat
    let n := m / p
    let r := m % p
    let half := if 2 * r < p then .lt else if 2 * r == p then (if sticky then .gt else .eq) else Ordering.gt
    n + (if roundsUp mode s (n % 2 == 1) half (r == 0 && !sticky) then 1 else 0)

/-- The encoding of ± m × 2^e without its sign, rounded with an unbounded exponent above. -/
def Fmt.roundMag (f : Fmt) (mode : Nat) (s : Bool) (m : Nat) (e : Int) (sticky : Bool) : Nat :=
  if m == 0 && !sticky then 0
  else
    let q := max ((Nat.log2 m : Int) + e - (f.frac : Int)) f.emin
    let n := roundAt mode s m e q sticky
    if n < 2 ^ f.frac then n else (q - f.emin + 1).toNat * 2 ^ f.frac + (n - 2 ^ f.frac)

/-- A magnitude with its sign; overflow follows IEEE 754 under the mode (R71). -/
def Fmt.pack (f : Fmt) (mode : Nat) (s : Bool) (mag : Nat) : Nat :=
  let sgn := if s then f.signW else 0
  if mag < f.infMag then sgn + mag
  else if mode == 1 || (mode == 2 && s) || (mode == 3 && !s) then sgn + (f.infMag - 1) else sgn + f.infMag

/-- A value rounded once to F32, F16 or B16. -/
def Fmt.round (f : Fmt) (mode : Nat) : Val → Nat
  | .nan s c => f.nanBits s c
  | .inf s => (if s then f.signW else 0) + f.infMag
  | .fin s m e => f.pack mode s (f.roundMag mode s m e false)

/-- A value rounded to W8 or W4 and saturated (R69). -/
def Fmt.roundNarrow (f : Fmt) (mode : Nat) (v : Val) : Nat :=
  let top := f.signW - 1
  match v with
  | .nan _ _ => f.signW
  | .inf s => (if s then f.signW else 0) + top
  | .fin s m e =>
    let mag := min (f.roundMag mode s m e false) top
    if mag == 0 then 0 else (if s then f.signW else 0) + mag

/-- A value rounded to an integer. -/
def Val.toInt (mode : Nat) : Val → Int
  | .nan _ _ => 0
  | .inf s => if s then -(2 ^ 200 : Nat) else (2 ^ 200 : Nat)
  | .fin s m e => let n : Int := roundAt mode s m e 0 false; if s then -n else n

/-- An integer saturated to a range, in two's complement of 32 bits (R69, R71). -/
def saturate (lo hi : Int) (n : Int) : Nat := (max lo (min hi n) % (2 ^ 32 : Nat)).toNat

/-! ### Exact operations -/

/-- The negative. -/
def Val.neg : Val → Val
  | .nan s c => .nan s c
  | .inf s => .inf !s
  | .fin s m e => .fin (!s) m e

/-- The exact product: ZERO_INF for 0 × ∞ (R67). -/
def Val.mul : Val → Val → Val
  | .nan s c, _ => .nan s c
  | _, .nan s c => .nan s c
  | .inf s, .inf t => .inf (s != t)
  | .inf s, .fin t m _ => if m == 0 then .nan false 2 else .inf (s != t)
  | .fin t m _, .inf s => if m == 0 then .nan false 2 else .inf (s != t)
  | .fin s m e, .fin t n d => .fin (s != t) (m * n) (e + d)

/-- A signed multiple of 2^q. -/
def scaled (s : Bool) (m : Nat) (e q : Int) : Int :=
  let n : Int := (m * 2 ^ (e - q).toNat : Nat)
  if s then -n else n

/-- The exact sum: INVALID for ∞ − ∞; a zero sum is −0 only when both operands are (R116). -/
def Val.add : Val → Val → Val
  | .nan s c, _ => .nan s c
  | _, .nan s c => .nan s c
  | .inf s, .inf t => if s == t then .inf s else .nan false 1
  | .inf s, .fin _ _ _ => .inf s
  | .fin _ _ _, .inf s => .inf s
  | .fin s m e, .fin t n d =>
    let q := min e d
    let x := scaled s m e q + scaled t n d q
    .fin (if x == 0 then s && t else decide (x < 0)) x.natAbs q

/-- The first NaN of a list of values. -/
def firstNan (l : List Val) : Option Val := l.find? Val.isNan

/-- An operation on sources in the order A, B, C: a source NaN comes before any event (R68). -/
def Fmt.op (f : Fmt) (srcs : List Val) (r : Val) : Nat := f.round 0 ((firstNan srcs).getD r)

/-- a + b. -/
def Fmt.add (f : Fmt) (a b : Nat) : Nat := f.op [f.val a, f.val b] ((f.val a).add (f.val b))
/-- a − b. -/
def Fmt.sub (f : Fmt) (a b : Nat) : Nat := f.op [f.val a, f.val b] ((f.val a).add (f.val b).neg)
/-- a × b. -/
def Fmt.mul (f : Fmt) (a b : Nat) : Nat := f.op [f.val a, f.val b] ((f.val a).mul (f.val b))
/-- a × b + c, rounded once. -/
def Fmt.fma (f : Fmt) (a b c : Nat) : Nat := f.op [f.val a, f.val b, f.val c] (((f.val a).mul (f.val b)).add (f.val c))

/-- The place of an encoding in the order of values, −0 below +0. -/
def Fmt.key (f : Fmt) (x : Nat) : Int := let m : Int := (x % f.signW : Nat); if x / f.signW % 2 == 1 then -m - 1 else m
/-- The lesser of two, or the first NaN. -/
def Fmt.min (f : Fmt) (a b : Nat) : Nat :=
  match firstNan [f.val a, f.val b] with
  | some n => f.round 0 n
  | none => if f.key a ≤ f.key b then a else b
/-- The greater of two, or the first NaN. -/
def Fmt.max (f : Fmt) (a b : Nat) : Nat :=
  match firstNan [f.val a, f.val b] with
  | some n => f.round 0 n
  | none => if f.key a ≤ f.key b then b else a

/-- The relations of two F32 values for FCMP: less, equal, and either a NaN. -/
def f32Rel (a b : Nat) : Bool × Bool × Bool :=
  let z := fun x => if x % 2 ^ 31 == 0 then (0 : Int) else f32.key x
  let un := (f32.val a).isNan || (f32.val b).isNan
  (!un && decide (z a < z b), !un && z a == z b, un)

/-- An operation in each half of a packed word (R116). -/
def packed (g : Nat → Nat → Nat → Nat) (a b d : Nat) : Nat :=
  let h := fun (x : Nat) => x / 2 ^ 16
  g (a % 2 ^ 16) (b % 2 ^ 16) (d % 2 ^ 16) + 2 ^ 16 * g (h a) (h b) (h d)

/-! ### Conversions (R71, R119 to R121) -/

/-- `CVT` of index and rounding code, with OVN (04 Table 4-6). An infinity in the source stays an infinity in every
mode, with OVN or without (DESIGN CHOICE, log entry 62: 04 R71 speaks of magnitudes above the largest finite value and
names no infinity). -/
def convert (ix mode : Nat) (ovn : Bool) (x : Nat) : Nat :=
  let v := f32.val x
  let toHalf := fun (f : Fmt) => match v with
    | .fin s m e =>
      let mag := f.roundMag mode s m e false
      if ovn && decide (f.infMag ≤ mag) then f.nanBits false 4 else f.pack mode s mag
    | w => f.round mode w
  let whole := fun (lo hi : Int) => match v with
    | .nan _ _ => 0
    | w => saturate lo hi (w.toInt mode)
  match ix with
  | 0 => whole (-2147483648) 2147483647
  | 1 => whole 0 4294967295
  | 2 => if x / 2 ^ 31 == 1 then f32.round mode (.fin true (2 ^ 32 - x) 0) else f32.round mode (.fin false x 0)
  | 3 => f32.round mode (.fin false x 0)
  | 4 => toHalf f16
  | 5 => f32.round 0 (f16.val (x % 2 ^ 16))
  | 6 => toHalf b16
  | 7 => f32.round 0 (b16.val (x % 2 ^ 16))
  | 8 => w8.roundNarrow mode v
  | 9 => f32.round 0 (w8.narrow (x % 256))
  | 10 => w4.roundNarrow mode v
  | 11 => f32.round 0 (w4.narrow (x % 16))
  | 12 => whole (-128) 127
  | 13 => whole 0 255
  | 14 => whole (-8) 7
  | _ => whole 0 15

/-- a × 2^n, one rounding (R120). Beyond 1,000 either way the outcome no longer changes. -/
def fscale (a : Nat) (n : Int) : Nat :=
  match f32.val a with
  | .fin s m e => if m == 0 then a else f32.round 0 (.fin s m (e + max (-1000) (min 1000 n)))
  | .inf _ => a
  | v => f32.round 0 v

/-- a × s, where s is a B16 (R120). -/
def qscale (a s : Nat) : Nat :=
  let v := f32.val a
  let w := b16.val (s % 2 ^ 16)
  f32.op [v, w] (v.mul w)

/-- a rounded to an integral F32, with its sign (R121). -/
def frnd (mode a : Nat) : Nat :=
  match f32.val a with
  | .fin s m e => if m == 0 then a else f32.round 0 (.fin s (roundAt mode s m e 0 false) 0)
  | .inf _ => a
  | v => f32.round 0 v

/-! ### Transcendentals (R72, R118) -/

/-- The integer square root, bit by bit from bit k − 1 down; r is what is known of the root. -/
def isqrtFrom (n : Nat) : Nat → Nat → Nat
  | 0, r => r
  | k + 1, r => let c := r + 2 ^ k; isqrtFrom n k (if c * c ≤ n then c else r)

/-- 1 / x (R72). -/
def frcp (x : Nat) : Nat :=
  match f32.val x with
  | .inf s => if s then 2 ^ 31 else 0
  | .fin s m e =>
    if m == 0 then f32.round 0 (.inf s)
    else
      let k := Nat.log2 m + 64
      f32.pack 0 s (f32.roundMag 0 s (2 ^ k / m) (-e - (k : Int)) (2 ^ k % m != 0))
  | v => f32.round 0 v

/-- 1 / √x (R72). -/
def frsq (x : Nat) : Nat :=
  match f32.val x with
  | .nan s c => f32.round 0 (.nan s c)
  | .inf s => if s then f32.nanBits false 3 else 0
  | .fin s m e =>
    if m == 0 then f32.round 0 (.inf s)
    else if s then f32.nanBits false 3
    else
      let (m, e) := if e % 2 == 0 then (m, e) else (2 * m, e - 1)
      let n := 2 ^ 256 / m
      let r := isqrtFrom n 130 0
      f32.pack 0 false (f32.roundMag 0 false r (-(e / 2) - 128) (r * r * m != 2 ^ 256))

/-- ⌊ln 2 × 2^320⌋. -/
def ln2 : Nat := 0xb17217f7d1cf79abc9e3b39803f2f6af40f343267298b62d8a0d175b8baafa2be7b876206debac98

/-- The Taylor sum of e^t in units of 2^−320: term and sum so far, and how many terms are left. -/
def expFrom (t : Nat) : Nat → Nat → Nat → Nat → Nat
  | 0, _, _, acc => acc
  | n + 1, k, term, acc =>
    let term := term * t / 2 ^ 320 / k
    expFrom t n (k + 1) term (acc + term)

/-- 2^x (R72). 2^x is irrational for a finite x that is no integer, so 320 bits of it and a rest decide the rounding. -/
def fexp2 (x : Nat) : Nat :=
  match f32.val x with
  | .nan s c => f32.round 0 (.nan s c)
  | .inf s => if s then 0 else f32.infMag
  | .fin s m e =>
    if 8 < (Nat.log2 m : Int) + e then (if s then 0 else f32.infMag)
    else
      let v := scaled s m (max e (-320)) (-320)
      let n := v / (2 ^ 320 : Nat)
      let r := (v % (2 ^ 320 : Nat)).toNat
      if r == 0 then f32.round 0 (.fin false 1 n)
      else
        let t := r * ln2 / 2 ^ 320
        f32.pack 0 false (f32.roundMag 0 false (expFrom t 80 1 (2 ^ 320) (2 ^ 320)) (n - 320) true)

/-- Bits of log₂ y for y in [1, 2) in units of 2^−192, by squaring. -/
def log2From : Nat → Nat → Nat → Nat
  | 0, _, acc => acc
  | n + 1, y, acc =>
    let z := y * y / 2 ^ 192
    if 2 ^ 193 ≤ z then log2From n (z / 2) (2 * acc + 1) else log2From n z (2 * acc)

/-- log₂ x (R72). It is irrational unless x is a power of two, so 150 bits behind the point and a rest decide the rounding. -/
def flog2 (x : Nat) : Nat :=
  match f32.val x with
  | .nan s c => f32.round 0 (.nan s c)
  | .inf s => if s then f32.nanBits false 3 else f32.infMag
  | .fin s m e =>
    if m == 0 then f32.round 0 (.inf true)
    else if s then f32.nanBits false 3
    else
      let k := Nat.log2 m
      let n : Int := (k : Int) + e
      if m == 2 ^ k then f32.round 0 (.fin (decide (n < 0)) n.natAbs 0)
      else
        let fr := log2From 150 (m * 2 ^ (192 - k)) 0
        let v : Int := n * (2 ^ 150 : Nat) + (fr : Int)
        if 0 ≤ v then f32.pack 0 false (f32.roundMag 0 false v.toNat (-150) true)
        else f32.pack 0 true (f32.roundMag 0 true (-v - 1).toNat (-150) true)

/-! ### Sums (R73, R131, R136) -/

/-- The exact sum of values: the first NaN, else the sum; −0 only when every one is −0. -/
def exactSum (l : List Val) : Val := (firstNan l).getD (l.foldl Val.add (.fin true 0 0))

/-- One chunk of products a × b added to an F32 accumulator (R73). Sources A, B, C and then new events (R68): a NaN operand of the chunk comes
before the accumulator's NaN, and that one before the NaN of a new event of the chunk. -/
def accumulate (acc : Nat) (chunk : List (Val × Val)) : Nat :=
  let s := exactSum (chunk.map fun p => p.1.mul p.2)
  let born := match chunk.find? fun p => (p.1.mul p.2).isNan with
    | some p => p.1.isNan || p.2.isNan
    | none => false
  f32.op (if born then [s, f32.val acc] else [f32.val acc, s]) ((f32.val acc).add s)

/-- Field k of width w of a number. -/
def elem (x w k : Nat) : Nat := x / 2 ^ (w * k) % 2 ^ w

/-- A dot word of narrow floats: n elements of width w. -/
def dotW (f : Fmt) (n w a b d : Nat) : Nat :=
  accumulate d ((List.range n).map fun k => (f.narrow (elem a w k), f.narrow (elem b w k)))

/-- Two's complement of w bits. -/
def signed (w x : Nat) : Int := if x % 2 ^ w < 2 ^ (w - 1) then (x % 2 ^ w : Nat) else (x % 2 ^ w : Nat) - (2 ^ w : Nat)

/-- A dot word of integers, modulo 2^32. -/
def dotI (n w a b d : Nat) : Nat :=
  (((List.range n).foldl (fun s k => s + signed w (elem a w k) * signed w (elem b w k)) (d : Int)) % (2 ^ 32 : Nat)).toNat

end Sys2Proof.Machine
end

