-- ==== Sys2Proof/Machine/Atomics.lean ====
section
/-! DEFINITION. Atomics: `ATOMG`, `ATOMS`, `ATOMV`, their steps at the ordering points and their return; what a glove pair executes once
(10 R211 to R214, 11 R247, 18 R366). -/

namespace Sys2Proof.Machine

/-! ### What a pair executes once (18 R366) -/

/-- The digest of a request: the CRC over the word and its parameters in the order given, each of four bytes. -/
def requestDigest (i : Instr) (params : List Nat) : Dword :=
  crc64 (BitVec.allOnes 64) (field 4 ((encodeBits i).getD 0) ++ params.flatMap fun v => field 4 v)

/-- An operation with side effects: alone it is issued as it is; in a pair it waits for the comparison of its digest, the right group takes
part with an operation that only receives results, and the left group issues it. `go` takes the key of that operation, 0 for none. -/
def State.once (s : State) (digest : Dword) (mirror : Op) (go : State → Nat → State) : State :=
  match s.partner s.cur.group with
  | none => if s.pairedMe then s.missed else go s 0
  | some p =>
    if !s.me.approved then s.missed.modMe fun g => { g with wait := .compare, digest := some digest }
    else if s.me.place.side == 1 then
      let (s, k) := s.markMe.newOp { mirror with kind := .mirror }
      (s.modMe fun g => { g with approved := false }).modGroup p fun g => { g with mirrors := g.mirrors ++ [k] }
    else match s.me.mirrors with
      | [] => s.missed
      | k :: t => go (s.modMe fun g => { g with approved := false, mirrors := t }) k

/-! ### Operations (10 Table 10-3) -/

/-- Op(m, x) on values of w bits; for CAS x holds the compare value below the new one. -/
def atomOp (aop w m x : Nat) : Nat :=
  let s := fun (v : Nat) => sint w v
  if aop == 0 then (m + x) % 2 ^ w
  else if aop == 1 then (if s x < s m then x else m)
  else if aop == 2 then (if s m < s x then x else m)
  else if aop == 3 then min m x
  else if aop == 4 then max m x
  else if aop == 5 then m &&& x
  else if aop == 6 then m ||| x
  else if aop == 7 then m ^^^ x
  else if aop == 8 then x
  else if aop == 9 then (if m == x % 2 ^ w then x / 2 ^ w % 2 ^ w else m)
  else if aop == 10 then f32.add m x
  else if aop == 11 then f32.min m x
  else f32.max m x

/-- The lanes of one word in ascending order: each takes the value that the lower ones have left (R212). -/
def atomFold (aop size : Nat) (opnds : Tab Nat) : List Nat → Nat → Tab Nat → Nat × Tab Nat
  | [], m, old => (m, old)
  | i :: t, m, old => atomFold aop size opnds t (atomOp aop (8 * size) m (opnds.get 0 i)) (old.set 0 i m)

/-! ### Issue -/

/-- Bytes of an atomic. -/
def atomSize (sz : Bool) : Nat := if sz then 8 else 4

/-- The operation of an atomic over its lanes. -/
def atomicOp (s : State) (space path : Nat) (aop : BitVec 4) (sz : Bool) (d : BitVec 7) (accs : List Acc) : Op :=
  let size := atomSize sz
  { kind := .atomic space aop.toNat size accs
      (accs.foldl (fun t a => Tab.set 0 a.lane (s.storeVal d (4 * atomRegs aop sz) a.lane) t) []) (accs.map Acc.pa).eraseDups
    path := path, dst := [(s.seen.vAt d.toNat, size)], mask := s.str.exm, hlp := s.seen.hlp }

/-- Before the requests of an `ATOMG` leave, L1 writes back the dirty bytes of the sectors it names and drops those sectors (R211). The
write-back takes the line's other dirty bytes along, for it drops the line from every release set (R221; log 74). -/
def State.clearSectors (s : State) (secs : List Nat) : State :=
  secs.foldl (fun s sec =>
    let cl := s.myCluster
    let s := if (s.l1Line cl (sec / 4)).dirty &&& sectorMask (sec % 4) == 0 then s else (s.writeBack cl (sec / 4) 0 false).1
    s.freshen cl sec) s

/-- The request of an operation for each of its global words sets out for the word's home slice (R211, 11 R239). -/
def State.sendAtoms (s : State) (k : Nat) : List Nat → State
  | [] => s
  | a :: t =>
    let (s, r) := s.send (.atom a) s.myCluster k s.me.place.qidx (toHome s.myCluster (a / 256))
    let o := s.op k
    (s.setOp k { o with reqs := o.reqs ++ [r] }).sendAtoms k t

/-- Parameters of an atomic's digest: the lanes in ascending order, each with its address and its operand. -/
def atomParams (s : State) (d : BitVec 7) (n : Nat) (accs : List Acc) : List Nat :=
  accs.flatMap fun a => [a.ea, a.ea / 2 ^ 32] ++ (List.range (n / 4)).map fun j => s.storeVal d n a.lane / 2 ^ (32 * j)

/-- An atomic of global memory or of a vault. -/
def pageAtomic (i : Instr) (vault : Bool) (path : Nat) (aop : BitVec 4) (sz : Bool) (d a : BitVec 7) (off : BitVec 5) (s : State) : Outcome :=
  issue i s fun s => .next (unlessTx s fun s =>
    let size := atomSize sz
    let n := 4 * atomRegs aop sz
    let space := if vault then 1 else 0
    let ea := s.ea a (off.toNat * size)
    s.onAccess (s.access { vault := vault, rd := true, wr := true } size false (fun _ => true) (s.hardLanes ea) []) fun s l =>
      let accs := l.map Prod.fst
      let o := atomicOp s space path aop sz d accs
      if s.mustWait space (accs.map fun a => (a.pa, size)) then s.missed
      else s.once (requestDigest i (atomParams s d n accs)) o fun s k =>
        let words := (accs.map Acc.pa).eraseDups.filter isGlobal
        let s := if vault then s else s.clearSectors (words.map (· / 64)).eraseDups
        let (s, k) := s.markMe.newOp { o with mirror := k }
        if vault then s else s.sendAtoms k words)

/-- `ATOMG` (R211). -/
def execAtomg (aop : BitVec 4) (sz : Bool) (d a : BitVec 7) (off : BitVec 5) (s : State) : Outcome :=
  pageAtomic (.atomg aop sz d a off) false pGLOB aop sz d a off s

/-- `ATOMV` (R211). -/
def execAtomv (aop : BitVec 4) (sz : Bool) (d a : BitVec 7) (off : BitVec 5) (s : State) : Outcome :=
  pageAtomic (.atomv aop sz d a off) true pVLT aop sz d a off s

/-- `ATOMS` (R211). In a pair it is executed once and steps on the left team's scratchpad; the words that it writes are written in the right
team's as well, as those that an engine lands are (18 R364, R366; log 14). -/
def execAtoms (aop : BitVec 4) (sz : Bool) (d a : BitVec 7) (off : BitVec 5) (s : State) : Outcome :=
  issue (.atoms aop sz d a off) s fun s => .next (unlessTx s fun s =>
    let size := atomSize sz
    let lanes := s.hardLanes (s.eaScr a (off.toNat * size))
    match firstScrTrap s.myTeam (some s.myImage) size false lanes with
    | some (k, lane, addr) => s.trapWord k (some lane) 0 addr
    | none =>
      let accs : List Acc := lanes.map fun e => { lane := e.1, ea := e.2, pa := e.2 }
      if s.mustWait 2 (accs.map fun a => (a.pa, size)) then s.missed
      else
        let o := atomicOp s 2 pSCR aop sz d accs
        s.once (requestDigest (.atoms aop sz d a off) (atomParams s d (4 * atomRegs aop sz) accs)) o fun s k =>
          (s.markMe.newOp { o with mirror := k }).1)

/-! ### Steps -/

/-- The teams that an operation acts in: its own, and its partner where a pair executes it once (18 R366). -/
def State.teamsOf (s : State) (o : Op) : List Nat := if o.mirror == 0 then [o.team] else [o.team, (s.op o.mirror).team]

/-- The value and the poison mark of a word at its ordering point. -/
def State.pointRead (s : State) (team space a n : Nat) : Nat × Bool :=
  if space == 2 then ((s.team team).read a n, (s.team team).poisoned a n)
  else if regionOf a == .device then (leNat (s.winRead a n), false)
  else s.watched a (n == 8)

/-- One write of a word at its ordering point. Of a global word the invalidations leave, and its request waits for them and is acknowledged
(09 R193, 25 R404). -/
def State.pointWrite (s : State) (k space a n v req : Nat) : State :=
  let o := s.op k
  if space == 2 then (s.teamsOf o).foldl (fun s t => (s.scrStore t a (toBytes n v) false).evalScr t a n) s
  else if space == 1 then s.vaultWrite a (toBytes n v) false
  else if regionOf a == .device then s.winWrite a (toBytes n v)
  else
    let l := a / 256
    let m : BitVec 256 := BitVec.ofNat 256 ((2 ^ n - 1) * 2 ^ (a % 256))
    ((s.stampLine l (s.mayStore l m o.qidx) (s.mayData l (Tab.writeLe [] (a % 256) n v)) 0 o.qidx).noteMasks s l).placeWrite req l false

/-- The request of an operation for a word, 0 for a word without one. -/
def State.atomReq (s : State) (op a : Nat) : Nat := (((s.op op).reqs.find? fun r => (s.req r).kind == .atom a)).getD 0

/-- Energy of a step: 3 pJ and the word at its level (R214). -/
def atomCost (o : Op) (space a size : Nat) : Nat :=
  30000 + if space == 2 then 6000 * size else if space == 1 then vaultCost o.cluster a size else sliceCost o.cluster a size

/-- ATOMIC_STEP (R211 to R213): all lanes that name one word, as one indivisible step of read and write at its ordering point. The step of
a global word comes when its request is served at the home slice: after the write-backs that its cluster sent before it, and once the
line may be read; a sector that the slice lacks is filled first. -/
def execAtomicStep (op addr : Nat) (s : State) : Outcome :=
  let o := s.op op
  match o.live, o.kind with
  | true, .atomic space aop size accs opnds left =>
    if !left.contains addr then .next s
    else if space == 0 && isGlobal addr && !s.served (s.atomReq op addr) then .next s
    else if space == 0 && !(s.lacking o.qidx [(addr, size)]).isEmpty then .next (s.wantHome o.cluster o.qidx 64 [addr / 64])
    else
      let req := if space == 0 && isGlobal addr then s.atomReq op addr else 0
      let s := s.ageAt (s.req req).legs.head?
      let (m, p) := s.pointRead o.team space addr size
      let lanes := (accs.filter fun a => a.pa == addr).map Acc.lane
      let (m', old) := atomFold aop size opnds lanes m []
      let o' := lanes.foldl (fun o i => o.take i (old.get 0 i) p) { o with kind := .atomic space aop size accs opnds (left.filter (· != addr)) }
      let s := (s.setOp op o').charge o.cluster o.qidx (atomCost o space addr size)
      .next (s.pointWrite op space addr size m' req)
  | _, _ => .next s

/-- ATOMIC_RETURN (R211, R214): with every step acknowledged the old values are written to D in every lane together, a helper lane
receiving 0, in both groups of a pair; poison in an old value halts instead (R231). -/
def execAtomicReturn (op : Nat) (s : State) : Outcome :=
  let o := s.op op
  match o.live && o.reqs.isEmpty, o.kind with
  | true, .atomic space _ size accs _ [] =>
    let ks := if o.mirror == 0 then [op] else [op, o.mirror]
    let lane := (lanesOf o.poisoned).head?
    let addr := ((accs.find? fun a => some a.lane == lane).map Acc.ea).getD 0
    let lines := if space == 0 then (accs.map fun a => a.pa / 256).eraseDups else []
    .next (ks.foldl (fun s k =>
      if s.opGone (s.op k) then s.endOp k
      else match lane with
        | some l => s.poisonHalt k (some l) addr
        | none =>
          let s := (s.landLanes k size false fun i => o.vals.get 0 i).endOp k
          s.modGroup (o.group) fun g => { g with atomLines := g.atomLines ++ lines.filter fun l => !g.atomLines.contains l }) s)
  | _, _ => .next s

end Sys2Proof.Machine
end

