-- ==== Sys2Proof/Machine/Engines.lean ====
section
/-! DEFINITION. The copy engine, the gather engine and collectives: `COPY`, `GATHER`, `COLL`, with the events that move their data
(10 R226 to R230, 12 R270, 24 R399). -/

namespace Sys2Proof.Machine

/-! ### Issue and the engine queues (R226) -/

/-- ENGMASK: EXM is not the whole group, it holds more than one strand, or its role does not permit the engine. -/
def State.engMask (s : State) (roles : List Role) : Bool :=
  s.str.exm != fullMask s.seen.place.width || decide (1 < s.seen.liveStrands.length) || !roles.contains s.seen.place.role

/-- The queue of an engine: the copy engine's, or the gather engine's. -/
def Cluster.engineQ (c : Cluster) (copy : Bool) : List Nat := if copy then c.copyQ else c.gatherQ
/-- The cluster with the queue of an engine replaced. -/
def Cluster.setEngineQ (c : Cluster) (copy : Bool) (l : List Nat) : Cluster :=
  if copy then { c with copyQ := l } else { c with gatherQ := l }

/-- The place that the moving group holds, or waits for, in an engine's queue. -/
def State.ticket (s : State) (path : Nat) : Option Nat :=
  ((s.opsOf s.cur.group).find? fun e => !e.2.accepted && e.2.path == path).map Prod.fst

/-- The key under which the moving group's command enters an engine's queue. Where the queue is full, the group waits. -/
def State.withSlot (s : State) (copy : Bool) (path : Nat) (go : State → Nat → State) : State :=
  let wait := fun (s : State) (k : Nat) => s.missed.modMe fun g => { g with wait := .engine k }
  let q := (s.cluster s.myCluster).engineQ copy
  if s.rightMe then go s 0
  else match s.ticket path with
    | some k => if q.contains k then go s k else wait s k
    | none =>
      let k := s.ops.fresh
      if q.length < 16 then go s k
      else wait { s with ops := s.ops.set {} k { live := true, group := s.cur.group, uid := s.me.uid, cluster := s.myCluster
                                                 team := s.me.place.team, path := path, accepted := false } } k

/-- The command that an engine serves next: the oldest of the context whose turn it is, in rising order of the quotation-table index (16 R327;
log 78). -/
def State.engineHead (s : State) (cl : Nat) (copy : Bool) : Option Nat :=
  let c := s.cluster cl
  let q := c.engineQ copy
  let turn := if copy then c.copyTurn else c.gatherTurn
  let later := q.filter fun k => decide (turn < (s.op k).qidx)
  let pool := if later.isEmpty then q else later
  match pool with
  | [] => none
  | a :: t =>
    let next := t.foldl (fun m k => min m (s.op k).qidx) (s.op a).qidx
    pool.find? fun k => (s.op k).qidx == next
/-- An engine has served a context. -/
def State.engineServed (s : State) (cl : Nat) (copy : Bool) (qidx : Nat) : State :=
  s.modCluster cl fun c => if copy then { c with copyTurn := qidx } else { c with gatherTurn := qidx }

/-- A command put into an engine's queue under its key. -/
def State.enqueue (s : State) (copy : Bool) (k : Nat) (o : Op) : State :=
  (s.placeOp k o).modCluster s.myCluster fun c =>
    if (c.engineQ copy).contains k then c else c.setEngineQ copy (c.engineQ copy ++ [k])

/-- ENGINE_QUEUE_ADMIT (R226): the oldest waiting word takes the entry that has freed, and its group goes on to be accepted. The place of a
group that has halted since is given up. -/
def execEngineQueueAdmit (op : Nat) (s : State) : Outcome :=
  let o := s.op op
  let copy := o.path == pCOPY
  let q := (s.cluster o.cluster).engineQ copy
  if !o.live || o.accepted then .next s
  else if s.opGone o then
    .next ((s.setOp op {}).modCluster o.cluster fun c => c.setEngineQ copy ((c.engineQ copy).filter (· != op)))
  else if q.contains op || decide (16 ≤ q.length)
      || (s.ops.any fun e => e.2.live && !e.2.accepted && e.2.cluster == o.cluster && e.2.path == o.path && decide (e.1 < op)
        && !q.contains e.1) then .next s
  else .next ((s.modCluster o.cluster fun c => c.setEngineQ copy (q ++ [op])).modGroup o.group fun g => { g with wait := .none })

/-! ### What the engines read and write (R226) -/

/-- A byte with the poison mark of its sector or word. -/
abbrev Marked := Byte × Bool

/-- n bytes from an address, cut where a 64 KiB page ends; n is at most 64 KiB. -/
def cutPages (a n : Nat) : List (Nat × Nat) :=
  let first := min n (65536 - a % 65536)
  if first == n then [(a, n)] else [(a, first), (a + first, n - first)]

/-- What an engine finds of a range: a walk is under way, the code TRANSL or PERM of the status, or its pieces by physical address or
scratchpad offset. -/
inductive Reach where
  | wait
  | fault (code : Nat)
  | ok (l : List (Nat × Nat))
  deriving DecidableEq, Repr

/-- The pieces of a range in a space (0 global, 1 vault, 2 scratchpad) for an operation under its key. -/
def State.pieces (s : State) (op : Nat) (o : Op) (sp a n : Nat) (wr : Bool) : State × Reach :=
  if sp == 2 then (s, .ok [(a, n)])
  else (cutPages a n).foldl (fun (r : State × Reach) p =>
    match r.2 with
    | .ok l => match r.1.engineLook op o p.1 with
      | (s, .miss) => (s, .wait)
      | (s, .fail) => (s, .fault 1)
      | (s, .page e pa) =>
        if pageOk (o.qidx == 0xFFF) { vault := sp == 1, rd := !wr, wr := wr } e pa then (s, .ok (l ++ [(pa, p.2)]))
        else (s, .fault 2)
    | _ => r) (s, .ok [])

/-- A line of a piece of global memory is not to be read or written now. -/
def State.pieceBusy (s : State) (l : List (Nat × Nat)) : Bool :=
  l.any fun (a, n) => isGlobal a && (List.range ((a + n - 1) / 256 + 1 - a / 256)).any fun i => s.lineBusy (a / 256 + i) 0

/-- A vault store that the group issued before an engine's command has not been acknowledged and touches a piece of the vault: the command
waits for it (11 R240 note 3, log 61). -/
def State.storesAhead (s : State) (op : Nat) (sp : Nat) (l : List (Nat × Nat)) : Bool :=
  sp == 1 && s.ops.any fun e => e.2.live && e.2.uid == (s.op op).uid && decide (e.1 < op) && match e.2.kind with
    | .store 1 size accs => overlaps l (accs.map fun a => (a.pa, size))
    | _ => false

/-- The 64-byte parts of a range. -/
def sectorParts (a n : Nat) : List (Nat × Nat) :=
  (List.range ((a + n - 1) / 64 + 1 - a / 64)).map fun i =>
    let lo := max a ((a / 64 + i) * 64)
    (lo, min (a + n) ((a / 64 + i + 1) * 64) - lo)

/-- A piece read at the home slice, at the vault, or at the scratchpad port of a team. -/
def State.readPiece (s : State) (o : Op) (sp a n : Nat) : State × List Marked :=
  let is := List.range n
  if sp == 2 then
    let t := s.team o.team
    (s.charge o.cluster o.qidx (6000 * n), is.map fun i => (t.scratch.get 0 (a + i), t.poison.get false ((a + i) / 4)))
  else if sp == 1 then
    (s.charge o.cluster o.qidx (vaultCost o.cluster a n), is.map fun i => (s.memByte (a + i), s.vaultPoison.get false ((a + i) / 4)))
  else if isGlobal a then
    ((sectorParts a n).foldl (fun s p => s.charge o.cluster o.qidx (sliceCost o.cluster p.1 p.2)) s,
      is.map fun i => (s.homeByte (a + i), s.homePoison (a + i)))
  else (s, (s.winRead a n).map fun b => (b, false))

/-- A mark in one of some bytes. -/
def anyMark (l : List Marked) : Bool := l.any Prod.snd

/-- Bytes landed at the home slices of their lines, one stamp a line, each sector with the mark of the bytes that reach it; the L1 copies of
the home die go (R227). -/
def State.landGlobal (s : State) (a : Nat) (l : List Marked) (owner : Nat) : State :=
  let n := l.length
  let lines := (List.range ((a + n - 1) / 256 + 1 - a / 256)).map (a / 256 + ·)
  let s := lines.foldl (fun s ln =>
    let lo := max a (ln * 256) - ln * 256
    let hi := min (a + n) (ln * 256 + 256) - ln * 256
    let part := (l.drop (ln * 256 + lo - a)).take (hi - lo)
    let mask : BitVec 256 := BitVec.ofNat 256 ((2 ^ (hi - lo) - 1) * 2 ^ lo)
    let pz := (part.zipIdx).foldl (fun (m : BitVec 4) e => if e.1.2 then m ||| (1#4 <<< sectorOf (lo + e.2)) else m) 0
    (s.homeWrite ln (s.mayStore ln mask owner) (s.mayData ln (Tab.writeList [] lo (part.map Prod.fst))) pz owner).noteMasks s ln) s
  s.dropL1Copies a n

/-- The 4-byte words of a run of bytes that starts at a multiple of 4, with their marks. -/
def markedWords (l : List Marked) : List (Nat × List Byte × Bool) :=
  (List.range ((l.length + 3) / 4)).map fun i =>
    let w := (l.drop (4 * i)).take 4
    (4 * i, w.map Prod.fst, anyMark w)

/-- Bytes landed in the scratchpad of a team: word by word with their marks, then the watching entries evaluated. -/
def State.landScratch (s : State) (team a : Nat) (l : List Marked) : State :=
  if (s.team team).live then
    ((markedWords l).foldl (fun s w => s.scrStore team (a + w.1) w.2.1 w.2.2) s).evalScr team a l.length
  else s

/-- Bytes landed in a vault. -/
def State.landVault (s : State) (a : Nat) (l : List Marked) : State :=
  ((markedWords l).foldl (fun s w => s.vaultPut (a + w.1) w.2.1 w.2.2) s).evalMon (orderKey a) a l.length

/-- A piece written. -/
def State.writePiece (s : State) (o : Op) (sp a : Nat) (l : List Marked) : State :=
  let n := l.length
  if sp == 2 then ((s.teamsOf o).foldl (fun s t => s.landScratch t a l) s).charge o.cluster o.qidx (6000 * n)
  else if sp == 1 then (s.landVault a l).charge o.cluster o.qidx (vaultCost o.cluster a n)
  else if isGlobal a then
    (sectorParts a n).foldl (fun s p => s.charge o.cluster o.qidx (sliceCost o.cluster p.1 p.2)) (s.landGlobal a l o.qidx)
  else s.winWrite a (l.map Prod.fst)

/-- The pieces of a range read in order. -/
def State.readPieces (s : State) (o : Op) (sp : Nat) : List (Nat × Nat) → State × List Marked
  | [] => (s, [])
  | (a, n) :: t =>
    let (s, x) := s.readPiece o sp a n
    let (s, y) := s.readPieces o sp t
    (s, x ++ y)

/-- Bytes written over the pieces of a range in order. -/
def State.writePieces (s : State) (o : Op) (sp : Nat) : List (Nat × Nat) → List Marked → State
  | [], _ => s
  | (a, n) :: t, l => (s.writePiece o sp a (l.take n)).writePieces o sp t (l.drop n)

/-- Landed bytes credited to the barrier object of a command (17 R340). An address that is no declared object takes no credit (log 15). -/
def State.credit (s : State) (o : Op) (barrier : Option Nat) (n : Nat) : State :=
  match barrier with
  | none => s
  | some b => (s.teamsOf o).foldl (fun s t =>
      if (s.team t).live && (s.imageOf (s.team t).launch).barriers.contains b then s.barrierUpdate t b 0 n else s) s

/-- An engine's command ends with its status: the register is written, then the counter falls, and the queue entry frees (Table 10-12). -/
def State.endEngine (s : State) (op : Nat) (copy : Bool) (reg code landed : Nat) : State :=
  let v := BitVec.ofNat 32 (code * 2 ^ 28 + landed % 2 ^ 28)
  let s := s.give op fun g => g.setG reg v
  let s := s.modCluster (s.op op).cluster fun c => c.setEngineQ copy ((c.engineQ copy).filter (· != op))
  s.finish op

/-! ### COPY (R227) -/

/-- The parameters of a `COPY`. -/
def copyCmd (g : Group) (n : Nat) (wup : Bool) (win dsp ssp : Nat) : CopyCmd :=
  let r := fun (i : Nat) => (g.greg (n + i)).toNat
  let adr := fun (sp i : Nat) => if sp == 2 then r i else r i + 2 ^ 32 * r (i + 1)
  { src := adr ssp 0, dst := adr dsp 2, ssp := ssp, dsp := dsp, x := r 4 % 2 ^ 24, y := r 5 % 2 ^ 16, z := r 5 / 2 ^ 16
    srow := r 6, splane := r 7, drow := r 8, dplane := r 9
    barrier := if r 10 == 0xFFFFFFFF then none else some (r 10), status := n + 11
    win := if wup then some (win, (g.gpair (n + 12)) &&& ~~~ (0x1FFFF : Dword)) else none }

/-- Bytes from the lowest to the highest of the source box. -/
def CopyCmd.srcLen (c : CopyCmd) : Nat := c.x + (c.y - 1) * c.srow + (c.z - 1) * c.splane
/-- Bytes from the lowest to the highest of the destination box. -/
def CopyCmd.dstLen (c : CopyCmd) : Nat := c.x + (c.y - 1) * c.drow + (c.z - 1) * c.dplane

/-- FORMAT of a `COPY` (Table 10-11). Global and vault addresses stand in one address space. -/
def CopyCmd.bad (c : CopyCmd) (g4 : Nat) : Bool :=
  decide (2 ^ 24 ≤ g4) || c.x == 0 || c.y == 0 || c.z == 0 || decide (2 ^ 36 < c.x * c.y * c.z) || (c.win.isSome && c.dsp != 2)
    || ((c.ssp == 2) == (c.dsp == 2) && overlap (c.src, c.srcLen) (c.dst, c.dstLen))
/-- ALIGN of a `COPY`. -/
def CopyCmd.misaligned (c : CopyCmd) : Bool :=
  [c.src, c.dst, c.x, c.srow, c.splane, c.drow, c.dplane].any (· % 4 != 0) || match c.barrier with
    | some b => b % 16 != 0
    | none => false
/-- A box lies in one declared range, or in the team's scratchpad. -/
def State.boxOk (s : State) (sp a n : Nat) : Bool := if sp == 2 then decide (a + n ≤ s.myTeam.size) else s.declared a n

/-- `COPY` (R226, R227, R229). -/
def execCopy (g : BitVec 7) (wup : Bool) (win : BitVec 3) (dsp ssp : BitVec 2) (s : State) : Outcome :=
  issue (.copy g wup win dsp ssp) s fun s => .next (unlessTx s fun s =>
    let c := copyCmd s.seen g.toNat wup win.toNat dsp.toNat ssp.toNat
    if s.engMask [.copy, .mixed] then s.trapWord .engmask
    else if c.bad (s.seen.greg (g.toNat + 4)).toNat then s.trapWord .format
    else if c.misaligned then s.trapWord .alignData
    else if !s.boxOk c.ssp c.src c.srcLen || !s.boxOk c.dsp c.dst c.dstLen then s.trapWord .perm
    else
      let o : Op := { kind := .copy c, path := pCOPY, gdst := [c.status] }
      let params := ((List.range 11) ++ if wup then [12, 13] else []).map fun i => (s.seen.greg (g.toNat + i)).toNat
      s.withSlot true pCOPY fun s k => s.once (requestDigest (.copy g wup win dsp ssp) params) o fun s m =>
        let s := if c.dsp == 2 then s else s.markMe
        (s.enqueue true k { o with mirror := m }).chargeMe 120000)

/-- Chunks of a row. -/
def CopyCmd.perRow (c : CopyCmd) : Nat := (c.x + 255) / 256
/-- Chunk i of the box in its order: source, destination and length (R227). -/
def CopyCmd.chunk (c : CopyCmd) (i : Nat) : Nat × Nat × Nat :=
  let row := i / c.perRow
  let x := i % c.perRow * 256
  (c.src + row / c.y * c.splane + row % c.y * c.srow + x, c.dst + row / c.y * c.dplane + row % c.y * c.drow + x, min 256 (c.x - x))

/-- COPY_CHUNK_LANDING (R227): the next chunk of the command that the engine serves is read whole, lands, and is credited; after
the last one the window is written, then the status, then COPY falls. A page that is unmapped or forbids the access ends the command. -/
def execCopyChunkLanding (op : Nat) (s : State) : Outcome :=
  let o := s.op op
  match o.live && o.accepted && s.engineHead o.cluster true == some op, o.kind with
  | true, .copy c =>
    let (a, b, n) := c.chunk o.pos
    let (s1, src) := s.pieces op o c.ssp a n false
    let (s2, dst) := s1.pieces op o c.dsp b n true
    match src, dst with
    | .fault e, _ => .next (s1.endEngine op true c.status e (o.landed / 256))
    | .wait, _ => .next { s with walks := s1.walks }
    | _, .fault e => .next (s2.endEngine op true c.status e (o.landed / 256))
    | _, .wait => .next { s with walks := s2.walks }
    | .ok sl, .ok dl =>
      let lack := if c.ssp == 0 then s.lacking o.qidx sl else []
      if (c.ssp == 0 && s.pieceBusy sl) || (c.dsp == 0 && s.pieceBusy dl) || s.storesAhead op c.ssp sl || s.storesAhead op c.dsp dl then .next s
      else if !lack.isEmpty then .next (s.wantHome o.cluster o.qidx 64 lack)
      else
        let (s3, data) := s2.readPieces o c.ssp sl
        let s4 := (s3.writePieces o c.dsp dl data).credit o c.barrier n
        let s5 := (s4.engineServed o.cluster true o.qidx).setOp op { s4.op op with pos := o.pos + 1, landed := o.landed + n }
        if o.pos + 1 < c.perRow * c.y * c.z then .next s5
        else
          let s6 := match c.win with
            | some (k, v) => (s5.teamsOf o).foldl (fun (s : State) t => s.modTeam t fun x => { x with windows := x.windows.set 0 k v }) s5
            | none => s5
          .next (s6.endEngine op true c.status 0 ((o.landed + n) / 256))
  | _, _ => .next s

/-! ### GATHER (R228) -/

/-- Bytes of an element. -/
def gatherSize (esz : BitVec 2) : Nat := if esz == 0 then 4 else if esz == 1 then 8 else if esz == 2 then 16 else 64

/-- The elements of a `GATHER`: for each active lane its address and its scratchpad address. -/
def gatherElems (s : State) (n e : Nat) (a : BitVec 8) (sx : Bool) : List (Nat × Nat) :=
  let base := (s.seen.gpair n).toNat
  (lanesOf s.act).map fun i =>
    let ix := s.src a i
    let off : Int := if sx then ix.toInt * e else (ix.toNat * e : Nat)
    ((((base : Int) + off) % (2 ^ 64 : Nat)).toNat, (s.seen.greg (n + 2)).toNat + i * e)

/-- `GATHER` (R226, R228, R229). A barrier address that is no multiple of 16 raises ALIGN, as in Table 10-10. -/
def execGather (g : BitVec 7) (a : BitVec 8) (sx : Bool) (esz : BitVec 2) (vault scat : Bool) (s : State) : Outcome :=
  issue (.gather g a sx esz vault scat) s fun s => .next (unlessTx s fun s =>
    let n := g.toNat
    let e := gatherSize esz
    let el := gatherElems s n e a sx
    let bar := (s.seen.greg (n + 3)).toNat
    let lane := fun (p : Nat × Nat → Bool) => ((lanesOf s.act).zip el).find? fun x => p x.2
    let trap := fun (k : TrapKind) (x : Nat × Nat × Nat) => s.trapWord k (some x.1) 0 x.2.1
    if s.engMask [.copy, .vector, .mixed] then s.trapWord .engmask
    else match lane (fun x => x.1 % e != 0) with
      | some x => trap .alignData x
      | none =>
        if (s.seen.greg (n + 2)).toNat % e != 0 || (bar != 0xFFFFFFFF && bar % 16 != 0) then s.trapWord .alignData
        else match lane (fun x => !s.declared x.1 e || decide (s.myTeam.size < x.2 + e)) with
          | some x => trap .perm x
          | none =>
            let c : GatherCmd := { scat := scat, vault := vault, size := e, elems := el
                                   barrier := if bar == 0xFFFFFFFF then none else some bar, status := n + 4 }
            let o : Op := { kind := .gather c, path := pGATH, gdst := [c.status] }
            let params := ((List.range 4).map fun i => (s.seen.greg (n + i)).toNat) ++ (lanesOf s.act).map fun i => (s.src a i).toNat
            s.withSlot false pGATH fun s k => s.once (requestDigest (.gather g a sx esz vault scat) params) o fun s m =>
              (if scat then s.markMe else s).enqueue false k { o with mirror := m })

/-- GATHER_ELEMENT_LANDING (R228): the next element of the command that the engine serves; after the last one the status is
written and GATH falls. -/
def execGatherElementLanding (op : Nat) (s : State) : Outcome :=
  let o := s.op op
  match o.live && o.accepted && s.engineHead o.cluster false == some op, o.kind with
  | true, .gather c =>
    match c.elems[o.pos]? with
    | none => .next (s.endEngine op false c.status 0 o.pos)
    | some (va, sa) =>
      let sp := if c.vault then 1 else 0
      let (s1, r) := s.pieces op o sp va c.size c.scat
      match r with
      | .fault e => .next (s1.endEngine op false c.status e o.pos)
      | .wait => .next { s with walks := s1.walks }
      | .ok l =>
        let lack := if c.scat || c.vault then [] else s.lacking o.qidx l
        if s.pieceBusy l || s.storesAhead op sp l then .next s
        else if !lack.isEmpty then .next (s.wantHome o.cluster o.qidx 64 lack)
        else
          let (s2, data) := if c.scat then s1.readPiece o 2 sa c.size else s1.readPieces o sp l
          let s3 := if c.scat then s2.writePieces o sp l data else s2.writePiece o 2 sa data
          let s4 := (s3.credit o c.barrier c.size).charge o.cluster o.qidx 30000
          let s5 := (s4.engineServed o.cluster false o.qidx).setOp op { s4.op op with pos := o.pos + 1, landed := o.landed + c.size }
          if o.pos + 1 < c.elems.length then .next s5 else .next (s5.endEngine op false c.status 0 (o.pos + 1))
  | _, _ => .next s

/-! ### COLL (12 R270) -/

/-- The parameters of a `COLL`. -/
def collCmd (g : Group) (n retry : Nat) : CollCmd :=
  let r := fun (i : Nat) => (g.greg (n + i)).toNat
  { src := (g.gpair n).toNat, dst := (g.gpair (n + 2)).toNat, n := r 4, oper := r 5 % 16, fmt := r 5 / 16 % 16, root := r 5 / 256 % 256
    comm := r 6 % 16, retry := retry, status := n + 7, late := false }

/-- Bytes of an element. -/
def CollCmd.size (c : CollCmd) : Nat := if c.fmt == 2 then 2 else 4
/-- The group of a rank: of its team's left side; a rank that stands nowhere has no group. -/
def State.rankGroup (s : State) (launch r : Nat) : Nat :=
  ((s.groups.find fun _ g => g.live && g.place.launch == launch && g.place.side == 0 && g.place.off == r % 1024
    && (s.team g.place.team).index == r / 1024).map Prod.fst).getD (2 ^ 32)
/-- The ranks of a communicator of a launch, as group keys. -/
def State.ranksOf (s : State) (launch comm : Nat) : List (Option Nat) :=
  ((s.launch launch).ranks.getD comm []).map fun r => r.map (s.rankGroup launch)

/-- The record of a collective. -/
def Launch.coll (l : Launch) (id : Nat) : Option CollRec := l.colls.find? fun r => r.id == id

/-- A rank joins the oldest collective of its communicator that it has not joined, or begins one (R270). The collective's number. -/
def State.joinColl (s : State) (launch rank : Nat) (c : CollCmd) : State × Nat :=
  let l := s.launch launch
  match l.colls.find? fun r => r.comm == c.comm && !r.joined.contains rank with
  | some r =>
    let r' := { r with joined := rank :: r.joined, failed := r.failed || r.oper != c.oper || r.fmt != c.fmt || r.n != c.n }
    (s.setLaunch launch { l with colls := l.colls.map fun x => if x.id == r.id then r' else x }, r.id)
  | none =>
    let id := l.colls.foldl (fun m x => max m (x.id + 1)) 1
    let r : CollRec := { id := id, comm := c.comm, oper := c.oper, fmt := c.fmt, n := c.n, joined := [rank] }
    (s.setLaunch launch { l with colls := l.colls ++ [r] }, id)

/-- `COLL` (R270). A communicator that the table does not hold, or that does not name the group, raises PERM as `LAUNCH` does for a child;
a root beyond the ranks of a BCAST, FORMAT. -/
def execColl (g : BitVec 7) (n : BitVec 8) (s : State) : Outcome :=
  issue (.coll g n) s fun s => .next (unlessTx s fun s =>
    let c := collCmd s.seen g.toNat n.toNat
    let r := fun (i : Nat) => (s.seen.greg (g.toNat + i)).toNat
    let ranks := s.ranksOf s.seen.place.launch c.comm
    let me := if s.rightMe then (s.partner s.cur.group).getD s.cur.group else s.cur.group
    if s.engMask [.copy, .mixed] then s.trapWord .engmask
    else if c.n == 0 || decide (2 ^ 28 < c.n) || decide (2 ^ 16 ≤ r 5) || decide (16 ≤ r 6) || decide (3 < c.oper) || decide (2 < c.fmt)
        || (c.oper == 3 && !ranks.isEmpty && decide (ranks.length ≤ c.root)) then s.trapWord .format
    else if c.src % 4 != 0 || c.dst % 4 != 0 then s.trapWord .alignData
    else if !s.declared c.src (c.n * c.size) || !s.declared c.dst (c.n * c.size) || !ranks.contains (some me) then
      s.trapWord .perm
    else
      let o : Op := { kind := .coll c, path := pCOLL, gdst := [c.status] }
      s.once (requestDigest (.coll g n) ((List.range 7).map r)) o fun s m =>
        let (s, id) := s.joinColl s.seen.place.launch (ranks.idxOf (some me)) c
        (s.markMe.newOp { o with kind := .coll { c with id := id }, mirror := m }).1)

/-- The `COLL` of a rank of a launch in a collective. -/
def State.collOf (s : State) (launch id gk : Nat) : Option (Nat × Op × CollCmd) :=
  s.ops.findSome? fun (k, o) => match o.kind with
    | .coll c => if o.live && o.group == gk && (s.team o.team).launch == launch && c.id == id then some (k, o, c) else none
    | _ => none

/-- Two elements folded (R270). -/
def collFold (oper fmt x y : Nat) : Nat :=
  let f := if fmt == 2 then b16 else f32
  if fmt == 1 then
    (if oper == 0 then (x + y) % 2 ^ 32 else if oper == 1 then (if sint 32 x ≤ sint 32 y then x else y)
      else if sint 32 x ≤ sint 32 y then y else x)
  else if oper == 0 then f.add x y else if oper == 1 then f.min x y else f.max x y
/-- The value that stands for a missing contribution: the LIMIT NaN, or 0x8000_0000. -/
def collLimit (fmt : Nat) : Nat := if fmt == 1 then 0x80000000 else if fmt == 2 then b16.nanBits false 6 else f32.nanBits false 6

/-- An element of a contribution. -/
def elemAt (w : Nat) (l : List Marked) (i : Nat) : Nat := leNat (((l.drop (w * i)).take w).map Prod.fst)
/-- Its mark. -/
def markAt (w : Nat) (l : List Marked) (i : Nat) : Bool := anyMark ((l.drop (w * i)).take w)

/-- The result of a chunk of m elements from the contributions in rank order, none where one is missing. -/
def collResult (c : CollCmd) (m : Nat) (xs : List (Option (List Marked))) : List Marked :=
  let w := c.size
  let need := if c.oper == 3 then (xs.drop c.root).take 1 else xs
  (List.range m).flatMap fun i =>
    let v := if need.any Option.isNone then collLimit c.fmt
      else match need.filterMap fun x => x.map fun l => elemAt w l i with
        | [] => collLimit c.fmt
        | a :: t => t.foldl (collFold c.oper c.fmt) a
    let mk := need.any fun x => x.any fun l => markAt w l i
    (toBytes w v).map fun b => (b, mk)

/-- Elements of the chunk at a position: 64 KiB of destination. -/
def CollCmd.chunkElems (c : CollCmd) (pos : Nat) : Nat := min (65536 / c.size) (c.n - pos * (65536 / c.size))

/-- A record that no rank is to join any more and no operation runs under goes. -/
def State.sweepColl (s : State) (launch id : Nat) : State :=
  let l := s.launch launch
  let done' := fun (r : CollRec) =>
    (((l.ranks.getD r.comm []).zipIdx).all fun e => e.1.isNone || r.joined.contains e.2) && !s.ops.any fun e => match e.2.kind with
      | .coll c => e.2.live && (s.team e.2.team).launch == launch && c.id == id
      | _ => false
  if l.colls.any fun r => r.id == id && done' r then s.setLaunch launch { l with colls := l.colls.filter fun r => r.id != id } else s

/-- A `COLL` ends with its status. -/
def State.endColl (s : State) (k reg code chunks : Nat) : State :=
  let o := s.op k
  let id := match o.kind with
    | .coll c => c.id
    | _ => 0
  (((s.give k fun g => g.setG reg (BitVec.ofNat 32 (code * 2 ^ 28 + chunks % 2 ^ 28))).finish k)).sweepColl (s.team o.team).launch id

/-- The result of the next chunk of a collective put into its record. -/
def State.recordChunk (s : State) (launch id : Nat) (out : List Marked) (late : Bool) : State :=
  s.modLaunch launch fun l =>
    { l with colls := l.colls.map fun r => if r.id == id then { r with done := r.done ++ [(out, late)] } else r }

/-- COLL_CHUNK (R270): one chunk of a collective, for every rank of the device that stands at it. `late` names the ranks whose contribution
has not arrived within the retries, `peers` the contributions of the Ethernet peers in rank order. A rank that has neither arrived nor
is late holds the chunk. A rank that was late and comes then receives what the others have received. Where a rank differs in operation,
format or N, every rank receives MISMATCH; that a peer differs, the front end says by a contribution of another length (log 63). -/
def execCollChunk (op : Nat) (late : List Nat) (peers : List (List Byte)) (s : State) : Outcome :=
  let o := s.op op
  match o.live, o.kind with
  | true, .coll c =>
    let launch := (s.team o.team).launch
    let ranks := (s.ranksOf launch c.comm).zipIdx
    let opOf := fun (r : Option Nat × Nat) => r.1.bind fun gk => s.collOf launch c.id gk
    let ops := ranks.filterMap opOf
    let m := c.chunkElems o.pos
    let n := m * c.size
    let off := o.pos * 65536
    let peerNo := fun (k : Nat) => ((ranks.take k).filter fun r => r.1.isNone).length
    let there := ranks.all fun r => late.contains r.2 || match r.1 with
      | some _ => (opOf r).isSome
      | none => !(peers.getD (peerNo r.2) []).isEmpty
    let peerOther := ranks.any fun r => r.1.isNone && !late.contains r.2 && (peers.getD (peerNo r.2) []).length != n
    let failAll := fun (s : State) =>
      ops.foldl (fun s e => s.endColl e.1 e.2.2.status 4 e.2.1.pos) (s.modLaunch launch fun l =>
        { l with colls := l.colls.map fun r => if r.id == c.id then { r with failed := true } else r })
    let known := ((s.launch launch).coll c.id).bind fun r => r.done[o.pos]?
    if ((s.launch launch).coll c.id).any CollRec.failed then .next (failAll s)
    else if known.isNone && !there then .next s
    else if known.isNone && peerOther then .next (if o.pos == 0 then failAll s else s)
    else
      let here := ops.filter fun e => e.2.1.pos == o.pos
      let reach := fun (s : State) (e : Nat × Op × CollCmd) =>
        let (s1, src) := s.pieces e.1 e.2.1 0 (e.2.2.src + off) n false
        let (s2, dst) := s1.pieces e.1 e.2.1 0 (e.2.2.dst + off) n true
        (s2, src, dst)
      let fault := here.findSome? fun e => match reach s e with
        | (t, .fault x, _) => some (t, e, x)
        | (t, _, .fault x) => some (t, e, x)
        | _ => none
      match fault with
      | some (t, e, x) => .next (t.endColl e.1 e.2.2.status x o.pos)
      | none =>
        let places := fun (e : Nat × Op × CollCmd) => match reach s e with
          | (_, .ok a, .ok b) => (a, b)
          | _ => ([], [])
        let waits := here.filter fun e => match reach s e with
          | (_, .ok _, .ok _) => false
          | _ => true
        let lack := if known.isSome then [] else here.filter fun e => !(s.lacking e.2.1.qidx (places e).1).isEmpty
        if !waits.isEmpty then .next (waits.foldl (fun t e => { t with walks := (reach t e).1.walks }) s)
        else if here.any fun e => (known.isNone && s.pieceBusy (places e).1) || s.pieceBusy (places e).2 then .next s
        else if !lack.isEmpty then
          .next (lack.foldl (fun t e => t.wantHome e.2.1.cluster e.2.1.qidx 64 (t.lacking e.2.1.qidx (places e).1)) s)
        else
          let contrib := fun (r : Option Nat × Nat) =>
            if late.contains r.2 then none
            else match r.1 with
              | none => some ((peers.getD (peerNo r.2) []).map fun b => (b, false))
              | some _ => (opOf r).map fun e => (s.readPieces e.2.1 0 (match reach s e with
                | (_, .ok a, _) => a
                | _ => [])).2
          let (out, lt) := known.getD (collResult c m (ranks.map contrib), !late.isEmpty)
          let s1 := if known.isSome then here.foldl (fun t e => (reach t e).1) s
            else (here.foldl (fun t e => ((reach t e).1.readPieces e.2.1 0 (places e).1).1) s).recordChunk launch c.id out lt
          let s2 := here.foldl (fun t e => t.writePieces e.2.1 0 (places e).2 out) s1
          .next (here.foldl (fun t e =>
            let lt := e.2.2.late || lt
            if (o.pos + 1) * (65536 / c.size) < c.n then
              t.setOp e.1 { e.2.1 with pos := o.pos + 1, landed := e.2.1.landed + n, kind := .coll { e.2.2 with late := lt } }
            else t.endColl e.1 e.2.2.status (if lt then 3 else 0) (o.pos + 1)) s2)
  | _, _ => .next s

end Sys2Proof.Machine
end

