-- ==== Sys2Proof/Machine/Matrix.lean ====
section
/-! DEFINITION. The gang matrix word `MMA`: its rendezvous, the tiles, and the events that open it, write its results and end it
(07 R145 to R152). -/

namespace Sys2Proof.Machine

/-! ### The command word (Table 7-8) -/

/-- ACC. -/
def mmaAcc (c : Nat) : Bool := c.testBit 2
/-- BIAS. -/
def mmaBias (c : Nat) : Bool := c.testBit 3
/-- ACT. -/
def mmaAct (c : Nat) : Bool := c.testBit 4
/-- REQ. -/
def mmaReq (c : Nat) : Bool := c.testBit 5
/-- OFMT. -/
def mmaOfmt (c : Nat) : Nat := bits c 8 6
/-- ORND. -/
def mmaOrnd (c : Nat) : Nat := bits c 11 9
/-- K. -/
def mmaK (c : Nat) : Nat := if mmaIfmt c == 1 then 128 else 64


/-! ### Tiles (Table 7-7) -/

/-- Element (row or column r, index k) of a tile that starts at a T register of a group. -/
def tileElem (g : Group) (ifmt treg r k : Nat) : Val :=
  let b := g.tAt treg
  match ifmt with
  | 0 => w8.narrow (g.readLane (2 * r + k / 32) (b + k % 32) 1)
  | 1 => w4.narrow (elem (g.readLane (2 * r + k / 64) (b + k % 64 / 2) 1) 4 (k % 2))
  | 2 => f16.val (g.readLane (2 * r + k / 32) (b + 2 * (k % 32)) 2)
  | _ => b16.val (g.readLane (2 * r + k / 32) (b + 2 * (k % 32)) 2)

/-- A member as it stands when the rendezvous opens: the one whose word opens it as its packet reads it (03 R39). -/
def State.tileGroup (s : State) (gk : Nat) : Group := if s.cur.view.isSome && s.cur.group == gk then s.seen else s.group gk

/-- The member that holds a quarter, among the operations of a rendezvous, with its command. -/
def State.holderOf (s : State) (ops : List Nat) (q : Nat) : Option (Group × MmaCmd) :=
  ops.findSome? fun k => match (s.op k).kind with
    | .mma c => if c.held.contains q then some (s.tileGroup (s.op k).group, c) else none
    | _ => none

/-- Column n of B, by its index k. -/
def State.bElem (s : State) (ops : List Nat) (n k : Nat) : Val :=
  match s.holderOf ops (n / 16) with
  | some (g, c) => tileElem g (mmaIfmt c.cmd.toNat) (c.tb + mmaS c.cmd.toNat * c.held.idxOf (n / 16)) (n % 16) k
  | none => .fin false 0 0

/-- A value of a row of scratchpad numbers, and its poison mark. -/
def Team.entry (t : Team) (a n : Nat) : Nat × Bool := (t.read a n, t.poisoned a n)

/-- Element (r, n) of the result of a member (R150), before it is packed. A bias or a table value under poison gives the POISON NaN. -/
def mmaElem (g : Group) (t : Team) (c : MmaCmd) (col : Nat → Val) (r n : Nat) : Nat :=
  let cmd := c.cmd.toNat
  let d := g.readLane (2 * r + n / 32) (g.aAt c.an + 4 * (n % 32)) 4
  let (bv, bp) := t.entry (c.bias + 4 * n) 4
  let acc := if mmaAcc cmd && mmaBias cmd then f32.add d bv else if mmaAcc cmd then d else if mmaBias cmd then bv else 0
  let acc := (List.range (mmaK cmd / 32)).foldl (fun acc j => accumulate acc ((List.range 32).map fun i =>
    (tileElem g (mmaIfmt cmd) c.ta r (32 * j + i), col (32 * j + i)))) acc
  let (tv, tp) := t.entry (c.table + 2 * (acc / 2 ^ 24)) 2
  let acc := if mmaAct cmd then qscale acc tv else acc
  let acc := if (mmaBias cmd && bp) || (mmaAct cmd && tp) then f32.nanBits false 5 else acc
  if mmaReq cmd then
    let ix := match mmaOfmt cmd with | 0 => 8 | 1 => 12 | 2 => 4 | _ => 6
    convert ix (mmaOrnd cmd) false (qscale acc c.scale)
  else acc

/-- Bits of an element of D as it is written. -/
def mmaWidth (cmd : Nat) : Nat := if mmaReq cmd then (if mmaOfmt cmd ≤ 1 then 8 else 16) else 32

/-- The 128 bytes of a lane of D, as a number. -/
def mmaLane (g : Group) (t : Team) (c : MmaCmd) (col : Nat → Nat → Val) (lane : Nat) : Nat :=
  let w := mmaWidth c.cmd.toNat
  (List.range 32).foldl (fun x i =>
    x + mmaElem g t c (col (lane % 2 * 32 + i)) (lane / 2) (lane % 2 * 32 + i) % 2 ^ w * 2 ^ (w * i)) 0

/-! ### Issue (R148) -/

/-- FORMAT of a command: reserved bits and codes, odd T registers, registers beyond the space, rows outside the scratchpad. The register after Ta,
which F16 and B16 tiles take and the word does not name, gives FORMAT too where it leaves the space (DESIGN CHOICE, log 62). -/
def mmaBad (g : Group) (t : Team) (ta tb quarters : Nat) (cmd bias table scale : Nat) : Bool :=
  let s := mmaS cmd
  let row := fun (a n : Nat) => decide (a % 4 != 0) || decide (t.size < a + n)
  decide (2 ^ 12 ≤ cmd) || decide (5 ≤ mmaOrnd cmd) || decide (4 ≤ mmaOfmt cmd) || decide (2 ^ 16 ≤ scale)
    || (s == 2 && (ta % 2 == 1 || tb % 2 == 1))
    || decide (g.place.regs < g.tAt ta + 32 * s)
    || (quarters != 0 && (decide (32 < tb + s * quarters) || decide (g.place.regs < g.tAt tb + 32 * s * quarters)))
    || (mmaBias cmd && row bias 256) || (mmaAct cmd && row table 512)

/-- A rendezvous may open: every listed member has joined it. -/
def Rdv.full (r : Rdv) : Bool := r.live && !r.opened && r.failed == 0 && (gangMembers r.gang).all fun m => r.who.contains m

/-- A rendezvous that every member has joined opens: each member computes its tile from what registers and scratchpad hold now (R149, R150). -/
def State.openRdv (s : State) (r : Nat) : State :=
  let x := s.rdvs.get {} r
  if x.full then
    let col := fun (n k : Nat) => s.bElem x.joined n k
    let s' := x.joined.foldl (fun t k => match (s.op k).kind with
      | .mma c =>
        let g := s.tileGroup (s.op k).group
        let out := (List.range 32).foldl (fun (o : Tab Nat) lane => o.set 0 lane (mmaLane g (s.team g.place.team) c col lane)) []
        t.setOp k { s.op k with kind := .mma { c with out := out, opened := true, turn := s.free } }
      | _ => t) s
    { s' with rdvs := s'.rdvs.set {} r { x with opened := true } }
  else s

/-- The rendezvous that a member with a gang register joins, of those not opened that list it and that it has not joined: the oldest one of its own
gang, failed or not, else the oldest one that waits. -/
def State.rdvFor (s : State) (team off : Nat) (gang : Dword) : Option (Nat × Rdv) :=
  let mine := fun (r : Rdv) => r.live && !r.opened && r.team == team && (gangMembers r.gang).contains off && !r.who.contains off
  (s.rdvs.find fun _ r => mine r && gangKey r.gang == gangKey gang).orElse fun _ => s.rdvs.find fun _ r => mine r && r.failed == 0

/-- A member joins (R149): its status at once where the rendezvous has failed or fails by its join; the rendezvous opens with its last member. -/
def State.joinRdv (s : State) (op : Nat) : State :=
  match (s.op op).kind with
  | .mma c =>
    let g := s.group (s.op op).group
    let team := g.place.team
    let off := g.place.off
    let (k, r) := match s.rdvFor team off g.gang with
      | some e => e
      | none => (s.rdvs.fresh, { live := true, team := team, gang := g.gang, ifmt := mmaIfmt c.cmd.toNat,
                                 since := s.clk (clusterOf (s.op op).group) })
    let r := { r with who := r.who ++ [off], joined := r.joined ++ [op] }
    let s := (s.setOp op { s.op op with kind := .mma { c with rdv := k } })
    let s := { s with rdvs := s.rdvs.set {} k r }
    let own := (gangMembers g.gang)[gangIdx g.gang - 1]?
    if r.failed != 0 then s.failRdv k r.failed
    else if (gangMembers r.gang).any fun m => s.memberGone team m then s.failRdv k 1
    else if gangKey g.gang != gangKey r.gang || r.ifmt != mmaIfmt c.cmd.toNat || gangIdx g.gang == 0 || own != some off then
      s.failRdv k 3
    else s.openRdv k
  | _ => s

/-- `MMA` (R145, R148). -/
def execMma (g : BitVec 7) (a : BitVec 8) (an : BitVec 3) (tb : BitVec 5) (s : State) : Outcome :=
  issue (.mma g a an tb) s fun s => .next (unlessTx s fun s =>
    let x := s.seen
    let n := g.toNat
    let ta := fieldNo a
    let cmd := x.greg n
    let held := quartersOf (gangCnt x.gang) (gangIdx x.gang)
    let sp := mmaS cmd.toNat
    let bSpan := (x.tAt tb.toNat, 32 * sp * held.length)
    let aSpan := (x.tAt ta, 32 * sp)
    if s.str.exm != fullMask x.place.width || decide (1 < x.liveStrands.length) || x.place.role != .matrix then
      s.trapWord .engmask
    else if x.place.width != 32 || gangCnt x.gang == 0
        || (gangMembers x.gang).any fun m => !s.memberThere x.place.team m then s.trapWord .engwidth
    else if mmaBad x s.myTeam ta tb.toNat held.length cmd.toNat (x.greg (n + 1)).toNat (x.greg (n + 2)).toNat (x.greg (n + 3)).toNat then
      s.trapWord .format
    else
      let c : MmaCmd := { an := an.toNat, ta := ta, tb := tb.toNat, cmd := cmd, bias := (x.greg (n + 1)).toNat
                          table := (x.greg (n + 2)).toNat, scale := (x.greg (n + 3)).toNat, status := n + 4
                          held := held, idx := gangIdx x.gang, rdv := 0, out := [], opened := false }
      let (s, k) := s.newOp { kind := .mma c, path := pMMA, dst := [(x.aAt an.toNat, 128)], src := [aSpan, bSpan], gdst := [n + 4] }
      s.joinRdv k)

/-! ### The rendezvous and its results -/

/-- MMA_RENDEZVOUS_OPEN (R149, R150). -/
def execMmaRendezvousOpen (r : Nat) (s : State) : Outcome := .next (s.openRdv r)

/-- Energy of a member (Table 7-10). -/
def mmaCost (c : MmaCmd) : Nat :=
  let cmd := c.cmd.toNat
  (if mmaIfmt cmd == 0 then 72089600 else if mmaIfmt cmd == 1 then 78643200 else 170393600)
    + 24576000 + (if mmaAcc cmd then 24576000 else 0) + c.held.length * mmaS cmd * 6144000
    + (if mmaBias cmd then 1536000 else 0) + (if mmaAct cmd then 17920000 else 0) + (if mmaReq cmd then 5632000 else 0)

/-- The arrays serve members that stand on one quarter in the order of opening and of member number (R151): no earlier one is left. -/
def State.mmaTurn (s : State) (op : Nat) (c : MmaCmd) : Bool :=
  !(s.ops.any fun (_, o) => o.live && o.group / 16 == (s.op op).group / 16 && match o.kind with
    | .mma d => d.opened && (decide (d.turn < c.turn) || (d.turn == c.turn && decide (d.idx < c.idx)))
    | _ => false)

/-- MMA_RESULT_WRITE (R151): D is written in all elements at once, the status reads 0, the word ends. No latch is written. -/
def execMmaResultWrite (op : Nat) (s : State) : Outcome :=
  let o := s.op op
  match o.live, o.kind with
  | true, .mma c =>
    if c.opened && s.mmaTurn op c then
      let s := if s.opAlive o then (s.modGroup o.group fun g =>
          (g.writeLanes (o.dst.headD (0, 0)).1 128 (fun i => c.out.get 0 i) (List.range 32)).setG c.status 0).charge
            o.cluster o.qidx (mmaCost c) else s
      let s := s.endOp op
      let r := s.rdvs.get {} c.rdv
      let left := r.joined.filter (· != op)
      .next { s with rdvs := s.rdvs.set {} c.rdv (if left.isEmpty then {} else { r with joined := left }) }
    else .next s
  | _, _ => .next s

/-- MMA_ABSENT_TIMEOUT: 4,096 cycles after the first member joined (Table 7-9). -/
def execMmaAbsentTimeout (r : Nat) (s : State) : Outcome :=
  let x := s.rdvs.get {} r
  match x.joined with
  | o :: _ =>
    if x.live && !x.opened && x.failed == 0 && !x.full && decide (x.since + 4096 ≤ s.clk (s.op o).cluster) then .next (s.failRdv r 2)
    else .next s
  | [] => .next s

end Sys2Proof.Machine
end

