-- ==== Sys2Proof/Machine/Messages.lean ====
section
/-! DEFINITION. Child launches and messages: `LAUNCH` with the pending-launch queue, `MSEND` with its deliveries into receiver rings and
into saved images (12 R259 to R266, 22 R392, R395). -/

namespace Sys2Proof.Machine

/-! ### The pending-launch queue (R259, R260) -/

/-- The free count stands in word 0 of the team control block, written by the front end at the scratchpad port. -/
def State.noteFree (s : State) (team : Nat) : State :=
  let t := s.team team
  s.scrWrite team t.tcb (field 4 (4 - t.pend.length)) false false

/-- A record pushed on the queue of a team. -/
def State.pushRec (s : State) (team : Nat) (r : LaunchRec) : State :=
  (s.modTeam team fun t => { t with pend := t.pend ++ [r] }).noteFree team

/-- `LAUNCH` (R260). A group count of 0 or more than 8 arguments raises FORMAT. -/
def execLaunch (g : BitVec 7) (s : State) : Outcome :=
  issue (.launch g) s fun s => .next (unlessTx s fun s =>
    let r := fun (i : Nat) => (s.seen.greg (g.toNat + i)).toNat
    let w := r 0
    let n := bits w 19 16
    let groups := bits w 15 8
    let child := s.myImage.children[w % 16]?
    let counter := (s.seen.gpair (g.toNat + 1)).toNat
    if s.engMask [.vector, .mixed] then s.trapWord .engmask
    else if bits w 7 4 != 0 || decide (2 ^ 20 ≤ w) || groups == 0 || decide (8 < n) || (match child with
        | some c => decide (c.2 < groups)
        | none => false) then s.trapWord .format
    else if counter % 4 != 0 then s.trapWord .alignData none 0 counter
    else if child.isNone || !s.declared counter 4 then s.trapWord .perm none 0 counter
    else
      let rec' : LaunchRec := { child := w % 16, groups := groups, nargs := n, counter := counter
                                args := (List.range n).map fun j => s.seen.greg (g.toNat + 3 + j) }
      s.once (requestDigest (.launch g) ((List.range 11).map r)) { kind := .mirror } fun s m =>
        let ks := [s.cur.group] ++ (if m == 0 then [] else [(s.op m).group])
        let teams := [s.me.place.team] ++ (if m == 0 then [] else [(s.op m).team])
        let full := decide (4 ≤ (s.team s.me.place.team).pend.length)
        let s := if full then s else teams.foldl (fun s t => s.pushRec t rec') s.markMe
        let s := (if m == 0 then s else s.endOp m).chargeMe 30000
        let v : Word := if full then 1 else 0
        ks.foldl (fun s k => (s.modGroup k fun x => x.setG (g.toNat + 11) v).enterLatch k 2
          (sharedLatch (s.group k) 32 (v.zeroExtend 64))) s)

/-! ### MSEND (R263) -/

/-- The receiver rings of an image in their order, each with its base, slots and slot size (R262). -/
def Image.rings (i : Image) : List Sync := i.syncs.filter fun y => y.kind == 1

/-- The teams of a cohort of a launch, of one side, by their index in it. -/
def State.cohortTeam (s : State) (launch cohort side k : Nat) : Option Nat :=
  (s.teams.find fun _ t => t.live && t.launch == launch && t.cohort == cohort && t.side == side && t.inCohort == k).map Prod.fst
/-- How many teams a cohort has. -/
def State.cohortSize (s : State) (launch cohort : Nat) : Nat :=
  (s.teams.filter fun e => e.2.live && e.2.launch == launch && e.2.cohort == cohort && e.2.side == 0).length

/-- The parameters of a message. -/
def sendCmd (s : State) (n retry : Nat) (dests : List Nat) : SendCmd :=
  let r := fun (i : Nat) => (s.seen.greg (n + i)).toNat
  let len := bits (r 1) 15 8 * 16
  let t := s.myTeam
  { mask := r 0, ring := r 1 % 8, tag := r 1 / 2 ^ 16, payload := Tab.readList t.scratch (r 2) len
    marks := (List.range (len / 4)).map fun i => t.poison.get false (r 2 / 4 + i)
    retry := retry, pending := dests.map fun d => (d, 0, false), refused := 0, out := n + 3 }

/-- `MSEND` (R263): the payload is read as the word is accepted. -/
def execMsend (g : BitVec 7) (n : BitVec 8) (s : State) : Outcome :=
  issue (.msend g n) s fun s => .next (unlessTx s fun s =>
    let r := fun (i : Nat) => (s.seen.greg (g.toNat + i)).toNat
    let t := s.myTeam
    let len := bits (r 1) 15 8 * 16
    let size := s.cohortSize t.launch t.cohort
    let ring := s.myImage.rings[r 1 % 8]?
    let dests := (List.range 32).filter fun k => (r 0).testBit k
    if s.engMask [.copy, .vector, .mixed] then s.trapWord .engmask
    else if r 0 == 0 || bits (r 1) 7 3 != 0 || len == 0 || decide (256 < len) || (match ring with
        | some y => decide (y.ops.getD 1 0 < len + 16)
        | none => false) then s.trapWord .format
    else if r 2 % 16 != 0 then s.trapWord .alignData none 0 (r 2)
    else if (dests.any fun k => decide (size ≤ k)) || ring.isNone || decide (t.size < r 2 + len) then s.trapWord .perm none 0 (r 2)
    else
      let o : Op := { kind := .none, path := pMSG, gdst := [g.toNat + 3] }
      s.once (requestDigest (.msend g n) ((List.range 3).map r)) o fun s m =>
        let keys := dests.filterMap fun k => s.cohortTeam t.launch t.cohort t.side k
        let (s, _) := s.newOp { o with kind := .send (sendCmd s g.toNat n.toNat keys), mirror := m }
        s.markMe.chargeMe 120000)

/-- An earlier message of the sender to the ring of a team is still open: this one waits behind it (R264). -/
def State.behind (s : State) (op team : Nat) (o : Op) (c : SendCmd) : Bool :=
  s.ops.any fun (k, x) => x.live && decide (k < op) && x.team == o.team && match x.kind with
    | .send d => d.ring == c.ring && d.pending.any fun p => p.1 == team
    | _ => false

/-- The header and payload of a message: tag, length and the sender's index; its sequence number to the destination (R262). -/
def messageBytes (c : SendCmd) (sender seq : Nat) : List Byte :=
  field 4 (c.tag * 2 ^ 16 + c.payload.length / 16 * 256 + sender % 32) ++ field 4 seq ++ field 8 0 ++ c.payload

/-- A slot of a ring for the next message: its address, and TAIL; none where the ring is full (R264). -/
def ringSlot (read : Nat → Nat) (b : Nat) : Option (Nat × Nat) :=
  let w := read b
  let nlg := w % 16
  let slg := w / 16 % 16
  let tail := read (b + 8)
  let head := read (b + 12)
  if (tail + 2 ^ 32 - head) % 2 ^ 32 < 2 ^ nlg then some (read (b + 4) + tail % 2 ^ nlg * 2 ^ slg, tail) else none

/-- A message written into the ring of a team: the slot's bytes, then TAIL. -/
def State.deliver (s : State) (team b slot tail : Nat) (bs : List Byte) (marks : List Bool) : State :=
  let l : List Marked := (bs.take 16).map (fun x => (x, false)) ++ ((bs.drop 16).zipIdx).map fun e => (e.1, marks.getD (e.2 / 4) false)
  (s.landScratch team slot l).scrWrite team (b + 8) (field 4 ((tail + 1) % 2 ^ 32)) false false

/-- A decided entry of a saved team's scratchpad: its status goes into the group record (R266). -/
def SavedTeam.decide (i : SavedTeam) (e : Nat × ScrEntry) (code v : Nat) : SavedTeam :=
  let put := fun (g : Group) => match g.wait with
    | .scratch k b w => { g with wait := .scratch k b { w with outcome := some (code, BitVec.ofNat 32 v) } }
    | _ => g
  { i with scr := i.scr.filter (· != e), groups := i.groups.mapIdx fun n p => if n == e.1 then (p.1, put p.2) else p }

/-- The entries of a saved team that watch a word of some spans of its scratchpad. -/
def SavedTeam.watching (i : SavedTeam) (spans : List (Nat × Nat)) : List (Nat × ScrEntry) :=
  i.scr.filter fun e => spans.any fun w => overlap w (e.2.saddr, if e.2.kind == 0 && e.2.sz then 8 else 4)

/-- A write into the image of a saved team evaluates the entries that watch what it has written; true where one is decided (R266). -/
def SavedTeam.wake (i : SavedTeam) (spans : List (Nat × Nat)) : SavedTeam × Bool :=
  let t : Team := { scratch := i.scratch, poison := i.poison }
  (i.watching spans).foldl (fun (r : SavedTeam × Bool) e => match scrHit t e.2 with
    | none => r
    | some (code, v) => (r.1.decide e code v, true)) (i, false)

/-- The first entry of a saved team whose expiry the clock of the cluster that saved it has passed (R266, 14 R304). -/
def State.expired (s : State) (team : Nat) : Option (SavedTeam × Nat × ScrEntry) :=
  let t := s.team team
  match t.phase, t.image with
  | .saved, some i => (i.scr.find? fun e => decide (e.2.expc ≤ s.clk t.cluster)).map fun e => (i, e)
  | _, _ => none

/-- Its TIMEOUT is written into the image, and RUN is set (R266, 14 R301). -/
def State.expireImage (s : State) (team : Nat) : State :=
  match s.expired team with
  | none => s
  | some (i, e) =>
    let v := Tab.readLe i.scratch e.2.saddr 4
    s.modTeam team fun t => { t with image := some (i.decide e 1 v), run := true }

/-- A message written into the image of a saved team. -/
def State.deliverImage (s : State) (team b slot tail : Nat) (bs : List Byte) (marks : List Bool) : State :=
  let spans := [(slot, bs.length), (b + 8, 4)]
  let t := s.team team
  let n := (t.image.map fun i => (i.watching spans).length).getD 0
  (s.charge t.cluster (s.launch t.launch).qidx (30000 * n)).modTeam team fun t => match t.image with
    | none => t
    | some i =>
      let words := (List.range (bs.length / 4)).map fun k => (slot / 4 + k, decide (4 ≤ k) && marks.getD (k - 4) false)
      let i := { i with scratch := Tab.writeLe (Tab.writeList i.scratch slot bs) (b + 8) 4 (tail + 1)
                        poison := words.foldl (fun p (w : Nat × Bool) => Tab.set false w.1 w.2 p) i.poison }
      let (i, run) := i.wake spans
      { t with image := some i, run := t.run || run }

/-- The teams that a delivery to a team reaches: in a paired launch both sides. -/
def State.sides (s : State) (team : Nat) : List Nat :=
  if (s.launch (s.team team).launch).paired then [team, (s.team team).partner] else [team]

/-- The message ends for a destination; with the last one MSG falls and the refused mask is written (R263). -/
def State.settleSend (s : State) (op team : Nat) (c : SendCmd) (refused : Bool) : State :=
  let o := s.op op
  let c := { c with pending := c.pending.filter fun p => p.1 != team
                    refused := if refused then c.refused ||| 2 ^ (s.team team).inCohort else c.refused }
  if c.pending.isEmpty then (s.give op fun g => g.setG c.out (BitVec.ofNat 32 c.refused)).finish op
  else s.setOp op { o with kind := .send c }

/-- One try of a delivery (R264, R266). -/
def State.trySend (s : State) (op team : Nat) (c : SendCmd) (tries : Nat) : State :=
  let o := s.op op
  let t := s.team team
  let l := s.launch t.launch
  let b := ((l.image.rings[c.ring]?).map Sync.base).getD 0
  let again := if c.retry ≤ tries then s.settleSend op team c true
    else s.setOp op { o with kind := .send { c with pending := c.pending.map fun p => if p.1 == team then (team, tries + 1, true) else p } }
  let bs := messageBytes c (s.team o.team).inCohort ((s.team o.team).seqs.get 0 team)
  let done := fun (s : State) =>
    let s := s.modTeam o.team fun x => { x with seqs := x.seqs.update 0 team (· + 1) }
    let n := bs.length
    let far := decide (siteOf t.cluster / 4 != siteOf o.cluster / 4)
    (s.charge o.cluster o.qidx (12000 * n + if far then 10000 * n else 0)).settleSend op team c false
  if !t.live || !l.live then s.settleSend op team c true
  else match t.phase with
    | .discarded => s.settleSend op team c true
    | .done => s.settleSend op team c true
    | .saving => again
    | .waiting => again
    | .saved => match t.image with
      | none => again
      | some i => match ringSlot (fun a => Tab.readLe i.scratch a 4) b with
        | none => again
        | some (slot, tail) => done ((s.sides team).foldl (fun s x => s.deliverImage x b slot tail bs c.marks) s)
    | _ => match ringSlot (fun a => t.read a 4) b with
      | none => again
      | some (slot, tail) => done ((s.sides team).foldl (fun s x => s.deliver x b slot tail bs c.marks) s)

/-- MSEND_DELIVERY (R264, R266): the first try of a message at a destination. -/
def execMsendDelivery (op team : Nat) (s : State) : Outcome :=
  let o := s.op op
  match o.live, o.kind with
  | true, .send c => match c.pending.find? fun p => p.1 == team with
    | some (_, tries, false) => if s.behind op team o c then .next s else .next (s.trySend op team c tries)
    | _ => .next s
  | _, _ => .next s

/-- MSEND_RETRY (R264): the next try, 64 fabric cycles after the last. -/
def execMsendRetry (op team : Nat) (s : State) : Outcome :=
  let o := s.op op
  match o.live, o.kind with
  | true, .send c => match c.pending.find? fun p => p.1 == team with
    | some (_, tries, true) => if s.behind op team o c then .next s else .next (s.trySend op team c tries)
    | _ => .next s
  | _, _ => .next s

end Sys2Proof.Machine
end

