-- ==== Sys2Proof/Machine/Images.lean ====
section
/-! DEFINITION. The Ebgan image: reading it from memory, the layout of a team's groups, and the checks at QUOTE (15 R315 to R320, 05 R103 to
R105, 24 R397). -/

namespace Sys2Proof.Machine

/-- Bytes by offset from the start of an image. -/
abbrev Reader := Nat → Byte

/-- An image may lie at an address. -/
def memoryAt (pa : Nat) : Bool := isGlobal pa || isVault pa
/-- n bytes of an image as a number. -/
def rdN (rd : Reader) (off n : Nat) : Nat := leNat ((List.range n).map fun i => rd (off + i))
/-- n bytes of an image. -/
def rdList (rd : Reader) (off n : Nat) : List Byte := (List.range n).map fun i => rd (off + i)
/-- The image that stands at a physical address, as the home slices and vaults have it. -/
def State.imageAt (s : State) (img : Nat) : Reader := fun i => if isVault (img + i) then s.memByte (img + i) else s.homeByte (img + i)

/-! ### The directory (R315) -/

/-- Entry sizes of the ten sections, in the order of the directory. -/
def sectionSizes : List Nat := [16, 8, 8, 8, 32, 16, 8, 16, 16, 1]
/-- Offset and count of section k. -/
def sectionAt (rd : Reader) (k : Nat) : Nat × Nat := (rdN rd (0x30 + 8 * k) 4, rdN rd (0x34 + 8 * k) 4)
/-- Offset and size in bytes of the sections that hold anything. -/
def sectionSpans (rd : Reader) : List (Nat × Nat) :=
  (sectionSizes.zipIdx.map fun (sz, k) => ((sectionAt rd k).1, (sectionAt rd k).2 * sz)).filter fun p => p.2 != 0
/-- Entries of section k as numbers. -/
def entriesOf (rd : Reader) (k : Nat) : List Nat :=
  let (off, n) := sectionAt rd k
  let sz := sectionSizes.getD k 1
  (List.range n).map fun i => rdN rd (off + sz * i) sz

/-- A segment's code, as long as a slot; one word of the reader at a time. -/
def codeAt (rd : Reader) (off : Nat) : List Word := (List.range 512).map fun i => BitVec.ofNat 32 (rdN rd (off + 4 * i) 4)
/-- Word i of a segment's code. -/
def Segment.word (g : Segment) (i : Nat) : Word := g.code.getD i 0
/-- The header of block b. -/
def Segment.header (g : Segment) (b : Nat) : Word := g.word (16 * b)
/-- The blocks of a segment: those whose header is not zero (a zero header marks the unused rest of the 2 KiB; log 30). -/
def Segment.blocks (g : Segment) : List Nat := (List.range 32).filter fun b => g.header b != 0
/-- The three words of a packet. -/
def Segment.packet (g : Segment) (b p : Nat) : List Word := (List.range 3).map fun j => g.word (16 * b + 1 + 3 * p + j)
/-- Entries of a segment's liveness table: one per packet (15 R316). -/
def Segment.count (code : List Word) : Nat :=
  (List.range 32).foldl (fun n b => n + hdrNP (code.getD (16 * b) 0)) 0

/-- Where the objects of an image start: sections, code, liveness and region tables. -/
def objectStarts (rd : Reader) : List Nat :=
  (sectionSpans rd).map Prod.fst ++ (entriesOf rd 0).flatMap fun e => [bits e 63 32, bits e 95 64] ++ (if bits e 23 16 == 0 then [] else [bits e 127 96])
/-- The first object that starts above an offset. -/
def nextStart (rd : Reader) (off : Nat) : Option Nat := ((objectStarts rd).filter fun x => decide (off < x)).min?

/-- A segment from its SEGD entry: its liveness table holds an entry per packet, at most to the next object of the image (log 30). -/
def segmentOf (rd : Reader) (e : Nat) : Segment :=
  let code := codeAt rd (bits e 63 32)
  let live := bits e 95 64
  let n := match nextStart rd live with
    | some x => min (Segment.count code) ((x - live) / 8)
    | none => Segment.count code
  { num := bits e 7 0, slot := bits e 15 8, code := code
    liveness := (List.range n).map fun i => BitVec.ofNat 64 (rdN rd (live + 8 * i) 8)
    regions := (List.range (bits e 23 16)).map fun i => BitVec.ofNat 128 (rdN rd (bits e 127 96 + 16 * i) 16) }

/-- Bytes that an image spans without its children. -/
def ownLength (rd : Reader) : Nat :=
  let ends := (sectionSpans rd).map (fun p => p.1 + p.2) ++ (entriesOf rd 0).flatMap fun e =>
    let g := segmentOf rd e
    [bits e 63 32 + 2048, bits e 95 64 + 8 * g.liveness.length, bits e 127 96 + 16 * bits e 23 16]
  ends.foldl max 128
/-- Bytes that an image spans: its children's images stand within it (Table 15-6 CHILD). -/
def imageLength (rd : Reader) : Nat :=
  (entriesOf rd 5).foldl (fun m e => max m (bits e 63 0 + ownLength fun o => rd (bits e 63 0 + o))) (ownLength rd)

/-- A role code. -/
def roleOf (n : Nat) : Role := if n == 0 then .copy else if n == 1 then .matrix else if n == 2 then .vector else .mixed

/-- An image as the tables of Tables 15-5 and 15-6 give it. -/
def readImage (rd : Reader) : Image :=
  let u := rdN rd
  let key := fun (e : Nat) => (bits e 7 0, bits e 12 8, bits e 15 13)
  { rolea := roleOf (u 0x07 1 % 4), roleb := roleOf (if u 0x1E 2 == 0 then u 0x07 1 % 4 else u 0x07 1 / 4 % 4), roff := u 0x1E 2
    wmin := 2 ^ u 0x08 1, wmax := 2 ^ u 0x09 1, wlaunch := 2 ^ u 0x0A 1, depth := u 0x0B 1, team := u 0x0C 2, cohort := u 0x0E 1
    regs := u 0x10 2 * 64, vwv := u 0x12 2, vwt := u 0x14 2, vwa := u 0x16 2, scratch := u 0x18 4
    entrySeg := u 0x1C 1, entryBlk := u 0x1D 1, gang := BitVec.ofNat 64 (u 0x20 8), slots := BitVec.ofNat 64 (u 0x28 8)
    segs := (entriesOf rd 0).map (segmentOf rd)
    limits := (entriesOf rd 1).map fun e =>
      { n := bits e 15 0, arg := if e.testBit 23 then some (bits e 22 16) else none, seg := bits e 39 32, blk := bits e 44 40 }
    waitb := (entriesOf rd 2).map fun e => let k := key e; (k.1, k.2.1, k.2.2, bits e 63 32)
    retry := (entriesOf rd 3).map fun e => let k := key e; (k.1, k.2.1, k.2.2, bits e 39 32)
    ranges := (entriesOf rd 4).map fun e => BitVec.ofNat 256 e
    children := (entriesOf rd 5).map fun e => (bits e 63 0, bits e 71 64)
    comms := (entriesOf rd 6).map fun e => (bits e 15 0, e.testBit 16)
    relocs := (entriesOf rd 7).map fun e => (bits e 31 0, bits e 39 32, bits e 127 64)
    syncs := (entriesOf rd 8).map fun e => { kind := bits e 7 0, base := bits e 63 32, ops := (List.range 4).map fun i => bits e (79 + 16 * i) (64 + 16 * i) }
    data := rdList rd (sectionAt rd 9).1 (sectionAt rd 9).2
    bytes := rdList rd 0 (imageLength rd) }

/-! ### The groups of a team (05 R103, 24 R397) -/

/-- The smallest width of w4 to w64 that is at least n. -/
def widthFor (n : Nat) : Nat := if n ≤ 4 then 4 else if n ≤ 8 then 8 else if n ≤ 16 then 16 else if n ≤ 32 then 32 else 64
/-- Groups of a team. -/
def Image.groups (i : Image) : Nat := (i.team + i.wlaunch - 1) / i.wlaunch
/-- Offset, width and helper lanes of each group of a team. -/
def Image.layout (i : Image) : List (Nat × Nat × LaneMask) :=
  (List.range i.groups).map fun k =>
    let r := i.team - i.wlaunch * (i.groups - 1)
    if k + 1 < i.groups || r == i.wlaunch then (k * i.wlaunch, i.wlaunch, 0#64)
    else let w := widthFor (max i.wmin r); (k * i.wlaunch, w, fullMask w &&& ~~~ fullMask r)
/-- Offsets and widths of n full groups, the last team of a child launch (22 R392). -/
def Image.layoutOf (i : Image) (n : Nat) : List (Nat × Nat × LaneMask) := (List.range n).map fun k => (k * i.wlaunch, i.wlaunch, 0#64)
/-- Role of the group at an offset. -/
def Image.roleAt (i : Image) (off : Nat) : Role := if i.roff != 0 && i.roff ≤ off then i.roleb else i.rolea
/-- Quarter of the group at an offset (13 R276). -/
def Image.quarterAt (i : Image) (off : Nat) : Nat := off / i.wmax % 4
/-- Scratchpad of a team in whole steps (09 R188). -/
def Image.size (i : Image) : Nat := (i.scratch + 4095) / 4096 * 4096
/-- The segment of a number. -/
def Image.seg (i : Image) (n : Nat) : Option Segment := i.segs.find? fun g => g.num == n
/-- The slot that a segment's code has at first, or its number where it has none. -/
def Segment.home (g : Segment) : Nat := if g.slot == 0xFF then g.num else g.slot

/-- A group with the views and the registers of a fresh image, for the checks of operands, which leave privilege out (Table 15-8). -/
def Image.probe (i : Image) : Group :=
  { vwv := BitVec.ofNat 32 i.vwv, vwt := BitVec.ofNat 32 i.vwt, vwa := BitVec.ofNat 32 i.vwa, place := { regs := i.regs, priv := true } }

/-! ### The checks of Table 15-8 (R320) -/

/-- Two spans of bytes have a byte in common. -/
def spansMeet : List (Nat × Nat) → Bool
  | [] => false
  | p :: t => t.any (fun q => overlap p q) || spansMeet t

/-- 0x01: the magic number and the version, and sections within the image that do not overlap. -/
def check01 (rd : Reader) (img : Nat) : Bool :=
  let spans := sectionSpans rd
  let all := (0, 128) :: spans ++ (entriesOf rd 0).flatMap fun e => [(bits e 63 32, 2048)]
  rdN rd 0 4 != 0x4E474245 || rdN rd 4 2 != 1
    || ((List.range 10).any fun k => let (o, n) := sectionAt rd k; (n == 0 && o != 0) || o % 64 != 0)
    || ((entriesOf rd 0).any fun e => bits e 63 32 % 2048 != 0)
    || spansMeet all || !(memoryAt img && memoryAt (img + imageLength rd - 1))

/-- 0x02: a header field outside its range, or an ENTRY that names no block. -/
def check02 (rd : Reader) (i : Image) : Bool :=
  let u := rdN rd
  let role := u 0x07 1
  let cnt := bits i.gang.toNat 63 61
  let members := gangMembers i.gang
  let nums := i.segs.map Segment.num
  let entry := match i.seg i.entrySeg with
    | some g => decide (i.entryBlk < 32) && g.header i.entryBlk != 0
    | none => false
  u 0x06 1 == 0 || decide (64 < u 0x06 1) || i.segs.length != u 0x06 1 || nums.any (fun n => decide (63 < n)) || !nums.Nodup
    || i.segs.any (fun g => g.slot != 0xFF && (decide (63 < g.slot) || !i.slots.getLsbD g.slot))
    || decide (16 ≤ role) || (i.roff == 0 && role / 4 != 0) || i.roff % i.wlaunch != 0 || decide (i.team ≤ i.roff)
    || [0x08, 0x09, 0x0A].any (fun o => decide (u o 1 < 2) || decide (6 < u o 1)) || decide (i.wlaunch < i.wmin) || decide (i.wmax < i.wlaunch)
    || decide (64 < i.depth) || i.team == 0 || decide (1024 < i.team) || i.cohort == 0 || decide (32 < i.cohort) || u 0x0F 1 != 0
    || i.regs == 0 || decide (1024 < i.regs)
    || i.vwv % 4 != 0 || i.vwt % 32 != 0 || i.vwa % 128 != 0 || [i.vwv, i.vwt, i.vwa].any (fun v => decide (1024 ≤ v))
    || cnt == 1 || cnt == 7 || bits i.gang.toNat 60 30 != 0 || members.any (fun m => decide (i.team ≤ m)) || !entry

/-- 0x03: a block header that fails R45, or whose SEG is not its segment's number. -/
def check03 (i : Image) : Bool :=
  i.segs.any fun g => g.blocks.any fun b =>
    let h := g.header b
    hdrNP h == 0 || decide (6 ≤ hdrNP h) || bits h.toNat 12 8 != 0 || hdrSEG h != g.num || decide (g.liveness.length < hdrLV h + hdrNP h)

/-- The packets of a segment: block, packet and its three words. -/
def Segment.packets (g : Segment) : List (Nat × Nat × List Word) :=
  g.blocks.flatMap fun b => (List.range (hdrNP (g.header b))).map fun p => (b, p, g.packet b p)

/-- The words of a packet as instructions; none where it raises ILLEGAL under Table 3-8, apart from privilege. -/
def packetOk (i : Image) (g : Segment) (ws : List Word) : Option (List Instr) :=
  match packetInstrs i.probe ws with
  | .error _ => none
  | .ok is =>
    let region := is.all fun x => match x with
      | .region k => decide (k.toNat < g.regions.length)
      | _ => true
    if is.all (fun x => x.check.isNone && (usesOf x).inSpace i.probe) && region then some is else none

/-- 0x04. -/
def check04 (i : Image) : Bool := i.segs.any fun g => g.packets.any fun p => (packetOk i g p.2.2).isNone

/-- A block of the image exists. -/
def Image.hasBlock (i : Image) (seg blk : Nat) : Bool := match i.seg seg with | some g => decide (blk < 32) && g.header blk != 0 | none => false

/-- 0x05: a LIM that names no limit, or a limit whose head block does not exist. -/
def check05 (i : Image) : Bool :=
  (i.segs.any fun g => g.blocks.any fun b => match hdrLIM (g.header b) with
    | 0 => false
    | j => match i.limits[j]? with
      | none => true
      | some l => l.n == 0 && l.arg.isNone)
    || (i.limits.drop 1).any fun l => (l.n != 0 || l.arg.isSome) && !i.hasBlock l.seg l.blk

/-- 0x06: a liveness table that is too short, or a region entry of more than 32 registers or beyond `.regs`. What the entries of a liveness
table say is not tested (05 R405). -/
def check06 (i : Image) : Bool :=
  i.segs.any fun g => (g.blocks.any fun b => decide (g.liveness.length < hdrLV (g.header b) + hdrNP (g.header b)))
    || g.regions.any fun r =>
      let regs := (List.range 128).filter fun n => r.getLsbD n
      decide (32 < regs.length) || regs.any fun n => decide (i.regs < i.vwv + 4 * n + 4)

/-- The entry of a packet in WAITB or RETRY. -/
def keyed (l : List (Nat × Nat × Nat × Nat)) (seg b p : Nat) : Option Nat :=
  (l.find? fun e => e.1 == seg && e.2.1 == b && e.2.2.1 == p).map fun e => e.2.2.2

/-- 0x07: waits without a bound, retry fields that differ from their entries. -/
def check07 (i : Image) : Bool :=
  i.segs.any fun g => g.packets.any fun (b, p, ws) =>
    ((packetOk i g ws).getD []).any fun x =>
      let retry := fun (n : BitVec 8) => keyed i.retry g.num b p != some n.toNat
      match x with
      | .waitu .. => (keyed i.waitb g.num b p).isNone
      | .barw .. => (keyed i.waitb g.num b p).isNone
      | .stagea .. => (keyed i.waitb g.num b p).isNone
      | .txb _ n => retry n
      | .msend _ n => retry n
      | .coll _ n => retry n
      | _ => false

/-- Fields of a RANGE entry (Table 15-6). -/
def rangeBA (r : BitVec 256) : Bool := r.getLsbD 131
/-- LA. -/
def rangeLA (r : BitVec 256) : Bool := r.getLsbD 132
/-- VAULT. -/
def rangeVault (r : BitVec 256) : Bool := r.getLsbD 133
/-- WAIT. -/
def rangeWait (r : BitVec 256) : Bool := r.getLsbD 130
/-- Length or cap. -/
def rangeLen (r : BitVec 256) : Nat := bits r.toNat 127 64
/-- Base or argument index of its pair. -/
def rangeBase (r : BitVec 256) : Nat := bits r.toNat 63 0
/-- Argument index of the length. -/
def rangeLenArg (r : BitVec 256) : Nat := bits r.toNat 142 136

/-- 0x08. -/
def check08 (i : Image) : Bool :=
  decide (62 < i.ranges.length) || i.ranges.any fun r =>
    rangeLen r == 0 || bits r.toNat 255 143 != 0 || bits r.toNat 135 134 != 0 || (rangeBA r && decide (31 < rangeBase r))
      || (rangeLA r && decide (31 < rangeLenArg r))

/-- 0x0B: a relocation whose field lies outside code and data, whose kind does not fit the opcode there, or is unknown. -/
def check0B (rd : Reader) (i : Image) : Bool :=
  i.relocs.any fun (off, kind, _) =>
    let n := if kind == 1 || kind == 2 then 4 else 8
    let inside := fun (o m : Nat) => decide (o ≤ off) && decide (off + n ≤ o + m)
    let code := (entriesOf rd 0).any fun e => inside (bits e 63 32) 2048
    let data := let (o, m) := sectionAt rd 9; inside o m
    let op := match decodeFields (BitVec.ofNat 32 (rdN rd off 4)) with
      | .ok (.movi ..) => kind == 1
      | .ok (.gmovi ..) => kind == 1
      | .ok (.movhi ..) => kind == 2
      | .ok (.gmovhi ..) => kind == 2
      | _ => false
    decide (3 < kind) || !(code || data) || ((kind == 1 || kind == 2) && !(op && code && off % 4 == 0))

/-- The scratchpad bytes of a synchronisation object (17 R343, 12 R262, R268). -/
def Sync.spans (y : Sync) : List (Nat × Nat) :=
  let n := y.ops.getD 0 0
  let sz := y.ops.getD 1 0
  if y.kind == 0 then [(y.base, 16)]
  else if y.kind == 1 then [(y.base, 16), ((y.base + 16 + sz - 1) / sz * sz, n * sz)]
  else [(y.base, 16 + 32 * n), ((y.base + 16 + 32 * n + 255) / 256 * 256, n * sz)]

/-- 0x0C: objects that overlap or lie beyond SCRATCH. -/
def check0C (i : Image) : Bool :=
  let spans := i.syncs.flatMap Sync.spans
  spansMeet spans || spans.any fun p => decide (i.scratch < p.1 + p.2)

/-- The checks of an image but those of its children and of its communicators: the code of the first that fails, 0 for none. -/
def checkBody (rd : Reader) (img : Nat) : Nat :=
  let i := readImage rd
  if check01 rd img then 1 else if check02 rd i then 2 else if check03 i then 3 else if check04 i then 4 else if check05 i then 5
  else if check06 i then 6 else if check07 i then 7 else if check08 i then 8 else 0

/-- The checks that come after those of children and communicators. -/
def checkRest (rd : Reader) (i : Image) : Nat := if check0B rd i then 0x0B else if check0C i then 0x0C else 0

/-- 0x09: a child that is no valid image or holds a child table. -/
def check09 (rd : Reader) (img : Nat) (i : Image) : Bool :=
  i.children.any fun (off, _) =>
    let c : Reader := fun k => rd (off + k)
    let ci := readImage c
    checkBody c (img + off) != 0 || !ci.children.isEmpty || checkRest c ci != 0

/-- Check(image) of R323: the first failing check of Table 15-8 in its order, 0 for none. `counts` are the rank counts of the QUOTE's
communicators. -/
def checkImage (rd : Reader) (img : Nat) (counts : List Nat) : Nat :=
  let i := readImage rd
  let b := checkBody rd img
  if b != 0 then b else if check09 rd img i then 9
  else if i.comms.zipIdx.any (fun c => counts[c.2]? != some c.1.1) then 0x0A
  else checkRest rd i

end Sys2Proof.Machine
end

