-- ==== Sys2Proof/Machine/Fits.lean ====
section
/-! DEFINITION. Whether a team fits on a cluster, and what it needs there: register and scratchpad portions, the split, instruction-store slots,
the resident slots and lane contexts of each quarter (09 R186 to R188, 13 R275, R276, 08 R170). -/

namespace Sys2Proof.Machine

/-- The groups that a team is to have: offset, width, helper lanes. -/
abbrev Layout := List (Nat × Nat × LaneMask)

/-- Lane contexts of a team. -/
def Layout.lanes (l : Layout) : Nat := l.foldl (fun n e => n + e.2.1) 0

/-- A team stands on its cluster. -/
def Team.resident (t : Team) : Bool := match t.phase with
  | .running => t.live
  | .draining .. => t.live
  | .saving => t.live
  | _ => false
/-- The teams that stand on a cluster. -/
def State.teamsOn (s : State) (cl : Nat) : List (Nat × Team) := s.teams.filter fun e => e.2.resident && e.2.cluster == cl

/-- Bytes of a cluster's register portion. -/
def regPortion (split : Word) : Nat := bits split.toNat 11 8 * 131072
/-- Bytes of its scratchpad portion. -/
def scrPortion (split : Word) : Nat := bits split.toNat 7 4 * 131072
/-- Bytes of registers in use. -/
def State.regsUsed (s : State) (cl : Nat) : Nat :=
  (s.teamsOn cl).foldl (fun n e => n + e.2.lanes * (s.imageOf e.2.launch).regs) 0

/-- The lowest base in a scratchpad portion where a size fits beside what stands there. DESIGN CHOICE: a team's scratchpad is one contiguous
range, where 09 R188 asks only that its size fits in the free portion (log 90). -/
def lowestBase (portion size : Nat) (taken : List (Nat × Nat)) : Option Nat :=
  let bases := 0 :: sortNat (taken.map fun p => p.1 + p.2)
  bases.find? fun b => decide (b + size ≤ portion) && taken.all fun p => size == 0 || p.2 == 0 || !overlap (b, size) p
/-- The base of a new team's scratchpad on a cluster. -/
def State.freeBase (s : State) (cl size : Nat) : Option Nat :=
  lowestBase (scrPortion (s.cluster cl).sramsplit) size ((s.teamsOn cl).map fun e => (e.2.sbase, e.2.size))

/-- Slots that an image declares. -/
def Image.slotList (i : Image) : List Nat := (List.range 64).filter fun k => i.slots.getLsbD k
/-- Slots of a cluster's instruction store that other launches hold bound. -/
def State.slotsUsed (s : State) (cl launch : Nat) : Nat := ((s.cluster cl).istore.filter fun e => e.2.bound && e.2.launch != launch).length

/-- Every quarter has room for the groups dealt to it beside those there. -/
def quartersFit (i : Image) (lay : Layout) (there : Nat → List Nat) : Bool :=
  (List.range 4).all fun q =>
    let mine := (lay.filter fun e => i.quarterAt e.1 == q).map fun e => e.2.1
    let all := there q ++ mine
    decide (all.length ≤ 16) && decide (all.foldl (· + ·) 0 ≤ 256)
/-- Widths of the groups resident on a quarter. A slot that a draining team has freed stays taken (13 R284). -/
def State.widthsOn (s : State) (cl q : Nat) : List Nat :=
  (((s.groupsOn cl).filter fun e => quarterOf e.1 == q).map fun e => e.2.place.width)
    ++ (s.teamsOn cl).flatMap fun e => match e.2.phase with
      | .draining .. => (e.2.gone.filter fun x => (s.imageOf e.2.launch).quarterAt x.1 == q).map Prod.snd
      | _ => []

/-- A split holds one team of an image alone. -/
def splitHolds (split : Word) (i : Image) (lay : Layout) : Bool :=
  decide (lay.lanes * i.regs ≤ regPortion split) && decide (i.size ≤ scrPortion split)
/-- The split that an image needs: the fewest register granules, then the fewest scratchpad granules, the rest to L1 as far as it takes
them and then to the registers (log 31). -/
def splitFor (i : Image) (lay : Layout) : Option Word :=
  let r := max 4 ((lay.lanes * i.regs + 131071) / 131072)
  let c := max 2 ((i.size + 131071) / 131072)
  let l := min 4 (16 - r - c)
  let r' := min 8 (16 - c - l)
  let c' := 16 - r' - l
  if decide (r ≤ 8) && decide (c ≤ 8) && decide (r + c ≤ 15) && decide (c' ≤ 8) then some (BitVec.ofNat 32 (r' * 256 + c' * 16 + l)) else none

/-- A team fits on some cluster with nothing else there (13 R276). -/
def fitsAlone (i : Image) (lay : Layout) : Bool := quartersFit i lay (fun _ => []) && (splitFor i lay).isSome

/-- A cluster site that programs may run on (01 R14). -/
def State.usable (s : State) (cl : Nat) : Bool :=
  let d := s.die (dieOf cl)
  decide (cl < 512) && !d.disabled.getLsbD (siteOf cl) && d.fwSite != siteOf cl

/-- A cluster as it stands has room for a team of a launch. -/
def State.roomFor (s : State) (cl launch : Nat) (i : Image) (lay : Layout) : Bool :=
  let c := s.cluster cl
  decide (s.regsUsed cl + lay.lanes * i.regs ≤ regPortion c.sramsplit) && (s.freeBase cl i.size).isSome
    && decide (s.slotsUsed cl launch + i.slotList.length ≤ 64) && quartersFit i lay (s.widthsOn cl)

/-- A cluster fits after a change of its split: it is empty, and some split holds the team. -/
def State.roomAfterSplit (s : State) (cl : Nat) (i : Image) (lay : Layout) : Bool := s.emptyCluster cl && fitsAlone i lay

/-- The reservation share of a context on a die. -/
def State.share (s : State) (die qidx : Nat) : Option Share :=
  let r := s.resv.get {} (die * 4096 + qidx)
  if r.live then r.share else none
/-- Clusters that a context has reserved, rising. -/
def State.reserved (s : State) (qidx : Nat) : List Nat :=
  (List.range 512).filter fun cl => match s.share (dieOf cl) qidx with
    | some h => h.cmask.getLsbD (siteOf cl)
    | none => false

/-- The contexts, other than one, that hold a cluster reserved. -/
def State.tenants (s : State) (cl qidx : Nat) : List (Nat × Share) :=
  s.resv.filterMap fun e => match e.2.share with
    | some h => if e.1 / 4096 == dieOf cl && e.2.live && e.2.qidx != qidx && h.cmask.getLsbD (siteOf cl) then some (e.2.qidx, h) else none
    | none => none
/-- A cluster may be reserved beside its tenants: no sole tenant, and MAXC of each respected (16 Tables 16-1, 16-8). -/
def admits (there : List (Nat × Share)) (excl : Bool) (maxc : Nat) : Bool :=
  !(there.any fun e => e.2.excl) && (!excl || there.isEmpty) && decide (there.length ≤ maxc)
    && there.all fun e => decide (there.length ≤ e.2.maxc)

/-! ### Queue descriptors (12 Table 12-2) -/

/-- A command queue's descriptor as its home has it. -/
def State.descriptor (s : State) (q : Queue) : BitVec 256 := BitVec.ofNat 256 (leNat (s.homeBytes q.desc 32))
/-- Packet ring base. -/
def descBase (d : BitVec 256) : Nat := bits d.toNat 255 208
/-- Slots of the ring. -/
def descSlots (d : BitVec 256) : Nat := 2 ^ (bits d.toNat 207 204 + 4)
/-- Class. -/
def descCls (d : BitVec 256) : Nat := bits d.toNat 203 202
/-- DIES. -/
def descDies (d : BitVec 256) : Nat := bits d.toNat 201 198
/-- TAIL. -/
def descTail (d : BitVec 256) : Nat := bits d.toNat 191 160
/-- HEAD. -/
def descHead (d : BitVec 256) : Nat := bits d.toNat 159 128
/-- The queue may run work on a cluster. -/
def descMask (d : BitVec 256) (cl : Nat) : Bool := (descDies d).testBit (dieOf cl) && d.getLsbD (siteOf cl)

end Sys2Proof.Machine
end

