-- ==== Sys2Proof/Machine/Milliner.lean ====
section
/-! DEFINITION. The Milliner: the control-flow graph of an image, the walk that prices it, T_max, E_max and the reservation that follows from
it (16 R323 to R328, R406, R407). Energies are in 10⁻⁴ pJ at level M. -/

namespace Sys2Proof.Machine

/-! ### The graph (R323) -/

/-- A block as the walk reads it. -/
structure QNode where
  pkts : List (List Instr) := []
  lim : Nat := 0
  deriving DecidableEq, Repr

/-- An edge of the graph. -/
structure Edge where
  dst : Nat
  /-- A back-edge of R48. -/
  back : Bool
  call : Bool
  deriving DecidableEq, Repr

/-- Where a word may send its strand. -/
inductive Hop where
  /-- No block of the walk follows: EXIT, TRAP, ERET, and RET, which is a back-edge (R48). -/
  | stop (back : Bool)
  | go (dst : Option Nat) (back : Bool)
  | call (dst : Option Nat)
  | both (dst : Option Nat) (back : Bool)
  | split (dst join : Option Nat) (back : Bool)
  deriving DecidableEq, Repr

/-- The block that a displacement names within its segment; blocks are numbered 32 × segment + block. -/
def dispTo (n : Nat) (disp : Int) : Option Nat :=
  let t : Int := (n % 32 : Nat) + disp
  if 0 ≤ t && t < 32 then some (n / 32 * 32 + t.toNat) else none
/-- A displacement that goes back (R48). -/
def goesBack (disp : BitVec 16) : Bool := decide (disp.toInt ≤ 0)

/-- The slot of a segment of an image. -/
def Image.slotOf (i : Image) (seg : Nat) : Nat := ((i.seg seg).map Segment.home).getD seg

/-- Where a word of block n may send its strand; none for a word that sends it nowhere. -/
def hopOf (i : Image) (n : Nat) : Instr → Option Hop
  | .bra d => some (.go (dispTo n d.toInt) (goesBack d))
  | .bany _ d => some (.both (dispTo n d.toInt) (goesBack d))
  | .ball _ d => some (.both (dispTo n d.toInt) (goesBack d))
  | .bnone _ d => some (.both (dispTo n d.toInt) (goesBack d))
  | .bdiv _ jb d => some (.split (dispTo n d.toInt) (dispTo n jb.toNat) (goesBack d))
  | .call d => some (.call (dispTo n d.toInt))
  | .loop _ d => some (.both (dispTo n d.toInt) (goesBack d))
  | .jmpf slot seg blk =>
    some (.go (some (seg.toNat * 32 + blk.toNat)) (decide (slot.toNat * 32 + blk.toNat ≤ i.slotOf (n / 32) * 32 + n % 32)))
  | .ret => some (.stop true)
  | .exit => some (.stop false)
  | .trap _ => some (.stop false)
  | .eret => some (.stop false)
  | _ => none

/-- Edges of the packets of a block, whether control can fall out of their end, and whether they hold a RET. -/
def pktEdges (i : Image) (n : Nat) : List (List Instr) → List Edge × Bool × Bool
  | [] => ([], true, false)
  | p :: t =>
    let r := pktEdges i n t
    let e := fun (d : Option Nat) (b c : Bool) => d.toList.map fun x => ({ dst := x, back := b, call := c } : Edge)
    match p.findSome? (hopOf i n) with
    | none => r
    | some (.stop b) => ([], false, b)
    | some (.go d b) => (e d b false, false, false)
    | some (.call d) => (e d false true ++ r.1, r.2)
    | some (.both d b) => (e d b false ++ r.1, r.2)
    | some (.split d _ b) => (e d b false ++ r.1, r.2)

/-- The graph of an image. -/
structure Flow where
  img : Image
  nodes : Tab QNode
  edges : Tab (List Edge)
  entry : Nat

/-- The blocks of all segments. -/
def nodesOf (i : Image) : Tab QNode :=
  i.segs.foldl (fun t g => g.blocks.foldl (fun t b =>
    Tab.set {} (g.num * 32 + b) { pkts := (List.range (hdrNP (g.header b))).map fun p => (packetOk i g (g.packet b p)).getD []
                                  lim := hdrLIM (g.header b) } t) t) []

/-- The graph of an image: edges from fall-through, branches, JMPF and CALL; a RET is priced with its callee. -/
def flowOf (i : Image) : Flow :=
  let nodes := nodesOf i
  let edges := nodes.foldl (fun t e =>
    let r := pktEdges i e.1 e.2.pkts
    let fall : List Edge := if r.2.1 && e.1 % 32 != 31 then [{ dst := e.1 + 1, back := false, call := false }] else []
    Tab.set [] e.1 ((r.1 ++ fall).filter fun x => (Tab.get {} x.dst nodes).pkts != []) t) []
  { img := i, nodes := nodes, edges := edges, entry := i.entrySeg * 32 + i.entryBlk }

/-- A block. -/
def Flow.node (f : Flow) (n : Nat) : QNode := f.nodes.get {} n
/-- Edges from a block. -/
def Flow.out (f : Flow) (n : Nat) : List Edge := f.edges.get [] n
/-- Blocks that control can pass to from a block without a call. -/
def Flow.next (f : Flow) (n : Nat) : List Nat := ((f.out n).filter fun e => !e.call).map Edge.dst
/-- Those with calls. -/
def Flow.nextAll (f : Flow) (n : Nat) : List Nat := (f.out n).map Edge.dst

/-- Blocks that a search reaches, one block of its list at a time. -/
def search (next : Nat → List Nat) (avoid : Option Nat) : Nat → List Nat → List Nat → List Nat
  | 0, _, seen => seen
  | _ + 1, [], seen => seen
  | fuel + 1, n :: t, seen =>
    let new := ((next n).filter fun x => !seen.contains x && some x != avoid).eraseDups
    search next avoid fuel (new ++ t) (seen ++ new)
/-- Blocks reached from a block, itself included, without passing another. -/
def reach (next : Nat → List Nat) (avoid : Option Nat) (n : Nat) : List Nat :=
  if some n == avoid then [] else search next avoid 2049 [n] [n]

/-- Every path from the entry to block u passes v. -/
def Flow.dom (f : Flow) (v u : Nat) : Bool := !(reach f.nextAll (some v) f.entry).contains u

/-- What is left of a list of blocks once those without a predecessor in the list are taken away, again and again. -/
def peel (next : Nat → List Nat) : Nat → List Nat → List Nat
  | 0, ns => ns
  | fuel + 1, ns => peel next fuel (ns.filter fun n => ns.any fun m => (next m).contains n)

/-- Blocks that control reaches. -/
def Flow.live (f : Flow) : List Nat := reach f.nextAll none f.entry
/-- The graph is reducible: without the edges to a dominator it has no cycle. -/
def Flow.reducible (f : Flow) : Bool :=
  (peel (fun n => (f.nextAll n).filter fun m => !f.dom m n) 2048 f.live).isEmpty

/-- The loop edges: back-edges to a block that dominates theirs, as (latch, head). -/
def Flow.loops (f : Flow) : List (Nat × Nat) :=
  f.live.flatMap fun n => (f.out n).filterMap fun e => if e.back && !e.call && f.dom e.dst n then some (n, e.dst) else none

/-- A back-edge leaves a block with LIM = 0. -/
def Flow.unbounded (f : Flow) : Bool := f.nodes.any fun e =>
  e.2.lim == 0 && (((f.out e.1).any fun x => x.back && !x.call) || (pktEdges f.img e.1 (f.node e.1).pkts).2.2)
/-- A back-edge to a loop head carries the entry of another head, or two to one head carry different entries. -/
def Flow.mixed (f : Flow) : Bool := f.loops.any fun e =>
  (match f.img.limits[(f.node e.1).lim]? with
    | some l => l.seg * 32 + l.blk != e.2
    | none => true)
    || f.loops.any fun d => d.2 == e.2 && (f.node d.1).lim != (f.node e.1).lim
/-- The refusal that the graphs of an image and its children earn: 0x0D for any, then 0x0E, then 0x13; 0 for none (R323). -/
def graphRefusal (fs : List Flow) : Nat :=
  if fs.any fun f => !f.reducible then 0x0D else if fs.any Flow.unbounded then 0x0E else if fs.any Flow.mixed then 0x13 else 0

/-- The blocks of the loop of a head: those from which a latch is reached without passing the head. -/
def Flow.body (f : Flow) (h : Nat) : List Nat :=
  h :: f.live.filter fun n => n != h && (f.loops.any fun e => e.2 == h && (reach f.next (some h) n).contains e.1)

/-- The functions that a function calls: targets of the calls of the blocks it reaches. -/
def Flow.callees (f : Flow) (n : Nat) : List Nat :=
  (reach f.next none n).flatMap fun m => ((f.out m).filter Edge.call).map Edge.dst
/-- The function stands on a cycle of the call graph. -/
def Flow.recursive (f : Flow) (n : Nat) : Bool := (search f.callees none 2049 (f.callees n) (f.callees n)).contains n

/-! ### Cost tables (R326, Tables 16-2 to 16-5a) -/

/-- The paths of Table 16-2. -/
inductive Tier where
  | l1 | vaultBay | vaultDie | l2Bay | l2Die | die | inval | hbm | lpddr
  deriving DecidableEq, Repr

/-- A figure by level. -/
def byLevel (lvl l m h : Nat) : Nat := if lvl == 0 then l else if lvl == 1 then m else h
/-- Table 16-2. -/
def bound (lvl : Nat) : Tier → Nat
  | .l1 => 36
  | .vaultBay => byLevel lvl 40 80 100
  | .vaultDie => byLevel lvl 130 260 325
  | .l2Bay => byLevel lvl 55 110 138
  | .l2Die => byLevel lvl 160 320 400
  | .die => byLevel lvl 100 200 250
  | .inval => byLevel lvl 200 400 500
  | .hbm => byLevel lvl 1200 2400 3000
  | .lpddr => byLevel lvl 1500 3000 3750
/-- The walk of a page that reads v levels. -/
def walkBound (lvl v : Nat) : Nat := byLevel lvl 30 60 75 + (v + 1) * bound lvl .hbm
/-- Cycles that count fabric or slice time, given at M. -/
def atLevel (lvl n : Nat) : Nat := (n * byLevel lvl 6 12 15 + 11) / 12
/-- The bound of a vault that the walk cannot name (R407). -/
def vaultBound (lvl : Nat) : Nat := bound lvl .vaultDie + bound lvl .die

/-- A column of Tables 6-1 and 7-1. -/
def byWidth (w a b c : Nat) : Nat := if w ≤ 16 then a else if w ≤ 32 then b else c
/-- Cycles from issue to the result of a word of VA, VB or G (Tables 6-1, 7-1). -/
def latencyOf (w : Nat) (i : Instr) : Nat :=
  match i with
  | .frcp .. => byWidth w 12 13 15
  | .frsq .. => byWidth w 12 13 15
  | .fexp2 .. => byWidth w 12 13 15
  | .flog2 .. => byWidth w 12 13 15
  | .lred _ _ _ imm => if bits imm.toNat 5 4 == 2 then byWidth w 12 13 15 else byWidth w 10 11 13
  | _ => match (usesOf i).pipe with
    | .va => byWidth w 4 4 5
    | .vb => byWidth w 8 9 11
    | _ => 2
/-- Cycles that a word occupies its pipe. -/
def occupancyOf (w : Nat) : Pipe → Nat
  | .va => byWidth w 1 1 2
  | .vb => byWidth w 1 2 4
  | .ls => byWidth w 1 1 2
  | _ => 1
/-- The number of a pipe. -/
def pipeNo : Pipe → Nat
  | .va => 0
  | .vb => 1
  | .g => 2
  | .ls => 3
  | .en => 4
  | _ => 5
/-- Energy of a word of VA, VB, G or BR with w lanes active (Tables 6-2, 7-2). -/
def classCost (w : Nat) (i : Instr) : Nat :=
  match i with
  | .imulh .. => eVA2 * w
  | .imulhu .. => eVA2 * w
  | .iadd64 .. => eVA2 * w
  | .lea .. => eVA2 * w
  | _ => match (usesOf i).pipe with
    | .va => eVA1 * w
    | .vb => eVB1 * w
    | .g => eG1
    | .br => eG1
    | _ => 0

/-- Energy of a global byte that is loaded, and stored; of a vault byte; of a scratchpad byte; of a byte in L1 (Table 16-5a). -/
def eLoad : Nat := 279000
/-- A byte written back. -/
def eBack : Nat := 268000
/-- A vault byte. -/
def eVault : Nat := 75000
/-- A scratchpad byte. -/
def eScr : Nat := 6000
/-- A byte in L1. -/
def eL1 : Nat := 11000
/-- The worst member of a rendezvous (R407, 07 Table 7-10): F16, ACC, BIAS, ACT, REQ, two quarters of B. -/
def eMma : Nat := 170393600 + 2 * 24576000 + 4 * 6144000 + 1536000 + 17920000 + 5632000

/-! ### The state of the walk (R324) -/

/-- What a path of the walk has counted. -/
structure Counts where
  packets : Nat := 0
  dyn : Nat := 0
  /-- Bytes charged at HBM, and to traversals of the loops. -/
  hbm : Nat := 0
  fab : Nat := 0
  /-- Lines that store, atomic and engine words can touch (R407), and those of them in global memory. -/
  lines : Nat := 0
  sheet : Nat := 0
  /-- Words that PAIR charges (R325). -/
  pairs : Nat := 0
  launches : Nat := 0
  /-- Pages that access words can come to. -/
  accesses : Nat := 0
  deriving DecidableEq, Repr

/-- Walks that read these numbers of levels more: 16 bytes a level at the page-table rate, and 3 pJ each (R328). -/
def Counts.walks (x : Counts) (ls : List Nat) : Counts :=
  { x with dyn := x.dyn + ls.sum * (16 * eBack + 30000), hbm := x.hbm + 16 * ls.sum, fab := x.fab + 16 * ls.sum }

/-- Each count of x and n times what it rose from a to b. -/
def Counts.plus (x a b : Counts) (n : Nat) : Counts :=
  { packets := x.packets + n * (b.packets - a.packets), dyn := x.dyn + n * (b.dyn - a.dyn), hbm := x.hbm + n * (b.hbm - a.hbm)
    fab := x.fab + n * (b.fab - a.fab), lines := x.lines + n * (b.lines - a.lines), sheet := x.sheet + n * (b.sheet - a.sheet), pairs := x.pairs + n * (b.pairs - a.pairs), launches := x.launches + n * (b.launches - a.launches)
    accesses := x.accesses + n * (b.accesses - a.accesses) }

/-- A transaction that the path is in: cycle and counts of its TXB, its retry bound, lines of its read and of its write log so far; the logs
hold 64 sectors and 16 lines (10 R217). -/
structure TxRegion where
  start : Nat
  n : Nat
  base : Counts
  reads : Nat := 0
  writes : Nat := 0
  deriving DecidableEq, Repr

/-- The schedule of a path. -/
structure Sched where
  /-- Earliest issue of the next packet by the issue factor, and the cycle after the last issue. -/
  next : Nat := 0
  done : Nat := 0
  /-- Acceptance of every LS and EN word so far; what holds the group; what holds its LS and EN words; the last result or completion. -/
  accepted : Nat := 0
  hold : Nat := 0
  memory : Nat := 0
  last : Nat := 0
  /-- Cycles at which registers and latches are ready: lane words below 256, G registers from 1024, predicates from 1200, GP bits from 1210,
  latches from 1300. -/
  ready : Tab Nat := []
  pipes : Tab Nat := []
  paths : Tab Nat := []
  /-- First cycle and packets of a run of W packets. -/
  run : Option (Nat × Nat) := none
  region : BitVec 128 := 0
  regionAt : Nat := 0
  /-- Pages whose walk is still to be charged: the levels that each reads, the most first. -/
  pages : List Nat := []
  /-- Lines of the release set. -/
  release : Nat := 0
  /-- The argument that a G register holds, plus 1. -/
  args : Tab Nat := []
  /-- Rendezvous joined, and when each. -/
  rdv : Nat := 0
  arrivals : Tab Nat := []
  tx : Option TxRegion := none
  counts : Counts := {}
  deriving DecidableEq, Repr

/-- What the walk of a group takes from the quotation. -/
structure Terms where
  flow : Flow
  lvl : Nat
  /-- Width, and lanes of the team in it. -/
  w : Nat
  act : Nat
  /-- Contention factors of Table 16-4. -/
  k : Nat
  s : Nat
  m : Nat
  /-- Arguments; none for a child, whose limits stand at their maxima (R325). -/
  args : Option (List Word)
  /-- Levels that the walk of each declared page reads, the most first, and whether the pages exceed the TLB entries. -/
  pages : List Nat
  everyWalk : Bool
  /-- Those of them that no access word of the cluster has come to. -/
  start : List Nat
  /-- Largest declared global and vault range (R407). -/
  global : Nat
  vault : Nat
  /-- Arrival of the latest member at each rendezvous. -/
  floors : Tab Nat

/-- The trip count of a limit (R30). -/
def Terms.trips (c : Terms) (j : Nat) : Nat :=
  match c.flow.img.limits[j]? with
  | none => 1
  | some l => match l.arg, c.args with
    | some k, some a => min (a.getD k 0).toNat l.n
    | _, _ => l.n

/-- A block's exit: the later of its last issue plus 1 and the last result or completion. -/
def Sched.exit (w : Sched) : Nat := max w.done (max w.last w.hold)
/-- A block begins at a cycle with every earlier result ready; a run of W packets goes on into it (R324). -/
def Sched.settle (w : Sched) (e : Nat) : Sched :=
  { w with next := e, done := e, accepted := e, hold := e, memory := e, last := e, ready := [], pipes := [], paths := []
           run := w.run.map fun r => (r.1 + (e - w.exit), r.2) }

/-- Readiness keys of a byte range of the lane space. -/
def laneKeys (l : List (Nat × Nat)) : List Nat := l.flatMap fun p => (List.range ((p.1 + p.2 + 3) / 4 - p.1 / 4)).map fun i => p.1 / 4 + i
/-- Predicates that a word reads. -/
def predReads : Instr → List Nat
  | .bany p _ => [p.toNat]
  | .ball p _ => [p.toNat]
  | .bnone p _ => [p.toNat]
  | .bdiv p _ _ => [p.toNat]
  | .plop _ _ a b => [a.toNat, b.toNat]
  | .sel .. => [0]
  | .vote _ _ a _ => [a.toNat]
  | .mset a _ => [a.toNat]
  | .pmovGet _ => List.range 8
  | _ => []
/-- Keys that a word writes. -/
def destKeys (g : Group) (u : Uses) : List Nat :=
  laneKeys (u.laneWrites g) ++ u.gWrites.map (1024 + ·) ++ u.pwrite.map (1200 + ·) ++ u.gpwrite.map (1210 + ·)
/-- Keys that a word reads. -/
def sourceKeys (g : Group) (i : Instr) : List Nat :=
  let u := usesOf i
  laneKeys (u.laneReads g) ++ u.gReads.map (1024 + ·) ++ (predReads i).map (1200 + ·)
    ++ ((u.vsrc ++ u.gsrc).filter fun p => isLatch p.1).map fun p => 1300 + fieldNo p.1 % 4

/-- The 3 cycles of R108: a lane register read outside the region set, or before the set is complete. -/
def Sched.outside (w : Sched) (g : Group) (i : Instr) (at' : Nat) : Nat :=
  let l := (usesOf i).laneReads g
  if !l.isEmpty && (decide (at' < w.regionAt) || (laneKeys l).any fun k =>
      decide (4 * k < g.vwv.toNat) || !w.region.getLsbD (k - g.vwv.toNat / 4)) then 3 else 0

/-- Counts raised. -/
def Sched.count (w : Sched) (f : Counts → Counts) : Sched := { w with counts := f w.counts }
/-- Energy raised. -/
def Sched.spend (w : Sched) (e : Nat) : Sched := w.count fun c => { c with dyn := c.dyn + e }
/-- A result ready at a cycle, in the word's destinations and in a latch. -/
def Sched.result (w : Sched) (g : Group) (i : Instr) (t : Nat) (latch : Option Nat) : Sched :=
  let keys := destKeys g (usesOf i) ++ latch.toList.map (1300 + ·)
  { w with ready := keys.foldl (fun r k => r.set 0 k t) w.ready, last := max w.last t }
/-- An operation of a path that completes at a cycle. -/
def Sched.path (w : Sched) (p t : Nat) : Sched := { w with paths := w.paths.set 0 p (max t (w.paths.get 0 p)), last := max w.last t }
/-- The group issues nothing before a cycle. -/
def Sched.stall (w : Sched) (t : Nat) : Sched := { w with hold := max w.hold t, last := max w.last t }
/-- Lines that a store can touch, in global memory or not. -/
def Sched.touch (w : Sched) (n : Nat) (global : Bool) : Sched :=
  let tx := w.tx.map fun (x : TxRegion) => ({ x with writes := min 16 (x.writes + n) } : TxRegion)
  ({ w with tx := tx } : Sched).count fun c => { c with lines := c.lines + n, sheet := c.sheet + if global then n else 0 }
/-- Lines that a load can touch. -/
def Sched.read (w : Sched) (n : Nat) : Sched :=
  { w with tx := w.tx.map fun (x : TxRegion) => ({ x with reads := min 64 (x.reads + n) } : TxRegion) }
/-- A word that PAIR charges. -/
def Sched.pair (w : Sched) : Sched := w.count fun c => { c with pairs := c.pairs + 1 }

/-- The charge of a release on GLOB, from the completion of what it waits for (R326). -/
def releaseCharge (lvl scope lines : Nat) : Nat :=
  if scope < 2 then 0
  else atLevel lvl 520 + (lines - 1) + (if 3 ≤ scope then bound lvl .inval else 0) + (if scope == 4 then bound lvl .hbm else 0)

/-- The word's access needs a translation at acceptance. -/
def isAccess : Instr → Bool
  | .ldg .. => true
  | .stg .. => true
  | .ldv .. => true
  | .stv .. => true
  | .atomg .. => true
  | .atomv .. => true
  | .cfetch .. => true
  | .l1wb .. => true
  | .l1inv .. => true
  | .pin .. => true
  | .unpin .. => true
  | .waitu _ sp .. => sp != 2
  | .copy .. => true
  | .gather .. => true
  | .coll .. => true
  | _ => false

/-- Bytes of a lane's access (Table 3-3). -/
def accessBytes (sz : BitVec 2) : Nat := if sz == 0 then 4 else if sz == 1 then 8 else if sz == 2 then 16 else 4
/-- Bytes of the sectors that n bytes fill. -/
def sectorBytes (n : Nat) : Nat := (n + 63) / 64 * 64

/-- The effect of a word on the schedule: block n, packet p, issue at cycle i, acceptance at a. -/
def Terms.effect (c : Terms) (n p i a : Nat) (w : Sched) (x : Instr) : Sched :=
  let g := c.flow.img.probe
  let lv := c.lvl
  let W := c.w
  let A := c.act
  let img := c.flow.img
  let late := w.outside g x i
  let waitb := (keyed img.waitb (n / 32) (n % 32) p).getD 0
  let hb := fun (w : Sched) (k : Nat) => w.count fun q => { q with hbm := q.hbm + k, fab := q.fab + k }
  let load := fun (bytes t : Nat) => hb (((w.result g x t (some 3)).path 0 t).spend (sectorBytes bytes * eLoad)) (sectorBytes bytes)
  let atom := fun (path b rate size : Nat) =>
    let t := a + b + (W - 1)
    ((((w.result g x t (some 3)).path path t).spend (A * (30000 + size * rate))).pair)
  let port := fun (t n : Nat) => ((w.result g x t none).path 1 t).spend (eG1 + n * eScr)
  let small := fun (t : Nat) => (w.result g x t none).path 0 t
  let engine := fun (path t cost : Nat) => ((w.result g x t none).path path t).spend cost
  match x with
  | .nop => w
  | .ldg sz .. => (load (A * accessBytes sz) (a + bound lv .hbm + late)).read img.wmax
  | .ldv sz .. =>
    let t := a + vaultBound lv + late
    ((w.result g x t (some 3)).path 2 t).spend (A * accessBytes sz * eVault)
  | .lds sz .. =>
    let t := i + 20 + (W - 1) + late
    ((w.result g x t (some 3)).path 1 t).spend (A * accessBytes sz * eScr)
  | .stg sz .. =>
    let b := A * accessBytes sz
    hb ((({ w with release := w.release + img.wmax }.path 0 (a + 2)).spend (b * (eL1 + eBack))).touch img.wmax true) b
  | .stv sz .. => ((w.path 2 (a + vaultBound lv)).spend (A * accessBytes sz * eVault)).touch img.wmax false
  | .sts sz .. => (w.path 1 (i + 1 + W)).spend (A * accessBytes sz * eScr)
  | .atomg _ sz .. => hb ((atom 0 (bound lv .hbm + atLevel lv 8) eLoad (if sz then 8 else 4)).touch img.wmax true) (A * if sz then 8 else 4)
  | .atoms _ sz .. => atom 1 (20 + (W - 1) + 8) eScr (if sz then 8 else 4)
  | .atomv _ sz .. => (atom 2 (vaultBound lv + atLevel lv 8) eVault (if sz then 8 else 4)).touch img.wmax false
  | .region k =>
    let m := (((img.seg (n / 32)).map fun s => s.regions.getD k.toNat 0).getD 0 : BitVec 128)
    let b := 4 * ((List.range 128).filter fun j => m.getLsbD j).length * W
    let t := i + 2 + (b + 255) / 256
    { w with region := m, regionAt := t, last := max w.last t }.spend (b * eScr)
  | .fence scope kind paths =>
    let ops := (List.range 9).foldl (fun t q => if paths.getLsbD q then max t (w.paths.get 0 q) else t) i
    let rel := kind.getLsbD 1
    let glob := rel && paths.getLsbD 0 && decide (2 ≤ scope.toNat)
    let t := ops + if glob then releaseCharge lv scope.toNat (min 64 w.release) else 0
    let w := { w with memory := max w.memory t, last := max w.last t, release := if glob then 0 else w.release }.spend eG1
    if rel && decide (1 ≤ scope.toNat) then w.pair else w
  | .tfence scope =>
    let t := max i (w.paths.get 0 0) + releaseCharge lv scope.toNat (min 64 w.release)
    let w := { w with memory := max w.memory t, last := max w.last t, release := if 2 ≤ scope.toNat then 0 else w.release }.spend eG1
    if 1 ≤ scope.toNat then w.pair else w
  | .waitu _ sp _ _ ga =>
    -- 600 and 8, and 600 more outside a wait range, in which no scratchpad address lies (R407)
    let pathB := if sp == 2 then 20 + (W - 1) else if sp == 1 then vaultBound lv else bound lv .hbm
    let lo := w.args.get 0 ga.toNat
    let hi := w.args.get 0 (ga.toNat + 1)
    let inRange := sp != 2 && lo != 0 && hi == lo + 1 && img.ranges.any fun r => rangeWait r && rangeBA r && rangeBase r + 1 == lo
    let t := a + waitb + pathB + (if sp == 2 then 608 else atLevel lv 600 + atLevel lv 8) + if inRange then 0 else atLevel lv 600
    let e := if sp == 2 then 4 * eScr else if sp == 1 then 4 * eVault else 64 * eLoad
    hb (((w.result g x t none).stall t).spend (60000 + e)) (if sp == 0 then 64 else 0)
  | .waitc path _ => (w.stall (max i (w.paths.get 0 path.toNat))).spend eG1
  | .barw .. => let t := a + waitb + 24 + 22; (port t 16).stall t
  | .stagea .. => let t := a + waitb + 24 + 22; (port t 16).stall t
  | .bara .. => port (i + 22) 16
  | .bari .. => port (i + 2) 16
  | .barx .. => port (i + 2) 16
  | .stager .. => port (i + 2) 16
  | .ringadv .. => port (i + 2) 8
  | .cfetch .. =>
    let t := a + bound lv .hbm + 32
    hb ((w.path 3 t).spend (2048 * eLoad + 12288000)) 2048
  | .l1wb .. => small (a + bound lv .l2Die + bound lv .die)
  | .l1inv .. => small (a + bound lv .l2Die + bound lv .die)
  | .pin .. => hb ((small (a + bound lv .hbm + atLevel lv 8)).spend (256 * eBack)) 256
  | .unpin .. => small (a + bound lv .l2Die + bound lv .die + atLevel lv 8)
  | .txb _ k => { small (a + 1) with tx := some { start := i, n := max 1 k.toNat, base := w.counts } }
  | .txa _ => w
  | .txe _ =>
    let x' := w.tx.getD { start := i, n := 1, base := w.counts }
    let t := max a (w.paths.get 0 0) + (x'.reads + x'.writes) * (bound lv .l2Die + bound lv .die)
    let t' := x'.start + x'.n * (t - x'.start)
    let w := ({ w with counts := w.counts.plus x'.base w.counts (x'.n - 1), tx := none }.result g x t' none).path 0 t'
    (w.stall t').pair
  | .launch _ =>
    ((w.result g x (a + 2) (some 2)).spend 30000).pair.count fun q => { q with launches := q.launches + 1 }
  | .mma .. =>
    let o := w.rdv
    let t := max a (c.floors.get 0 o) + 4 + 32 * c.s + 8
    let w := { w with rdv := o + 1, arrivals := w.arrivals.set 0 o (max a (w.arrivals.get 0 o)) }
    ((w.result g x t none).path 6 t).spend eMma
  | .copy _ _ _ dsp ssp =>
    let side := fun (sp : BitVec 2) => if sp == 2 then img.size else if sp == 1 then c.vault else c.global
    let lat := fun (sp : BitVec 2) => if sp == 2 then 20 else if sp == 1 then vaultBound lv else bound lv .hbm
    let rate := fun (sp : BitVec 2) (wr : Bool) => if sp == 2 then eScr else if sp == 1 then eVault else if wr then eBack else eLoad
    let b := min (side ssp) (side dsp)
    let t := max a (w.paths.get 0 4) + lat ssp + (b + 127) / 128 * c.m + (b / 4 - 1) + lat dsp
    let w' := engine 4 t (120000 + b * (rate ssp false + rate dsp true))
    hb (if dsp == 2 then w' else w'.touch ((b + 255) / 256) (dsp == 0)) ((if ssp == 0 then b else 0) + if dsp == 0 then b else 0)
  | .gather _ _ _ esz vault scat =>
    let b := A * if esz == 0 then 4 else if esz == 1 then 8 else if esz == 2 then 16 else 64
    let lat := if vault then vaultBound lv else bound lv .hbm
    let t := max a (w.paths.get 0 5) + lat + (W + 7) / 8 * c.m + 20
    let far := if scat then b else sectorBytes b
    let w' := engine 5 t (A * 30000 + b * eScr + if vault then b * eVault else far * if scat then eBack else eLoad)
    hb (if scat then w'.touch ((b + 255) / 256) (!vault) else w') (if vault then 0 else far)
  | .coll _ r =>
    let b := c.global
    let t := max a (w.paths.get 0 7) + atLevel lv 3600 * max 1 ((b + 65535) / 65536) + r.toNat * atLevel lv 600
    hb ((engine 7 t (b * (eLoad + eBack))).touch ((b + 255) / 256) true) (2 * b)
  | .msend _ r =>
    let t := max a (w.paths.get 0 8) + atLevel lv 360 + r.toNat * atLevel lv 39
    (engine 8 t (120000 + 272 * 22000 * img.cohort)).pair.count fun q => { q with fab := q.fab + 272 * img.cohort }
  | .loop .. => (w.result g x (i + 1) none).spend eG1
  | .split .. => ((w.result g x (i + 2) none).stall (i + 4)).spend eG1
  | .fuse .. => ((w.result g x (i + 1028) none).stall (i + 1028)).spend eG1
  | .join b =>
    let t := (List.range 9).foldl (fun t q => max t (w.paths.get 0 q)) (i + b.toNat)
    (w.stall (i + b.toNat)).spend eG1 |> fun w => { w with memory := max w.memory t, last := max w.last t }
  | .exit => w.spend eG1 |>.pair
  | _ =>
    let pipe := (usesOf x).pipe
    let e := classCost A x
    if pipe == .br || pipe == .none then w.spend e
    else
      let t := max (i + latencyOf W x + late) a
      (w.result g x t (if pipe == .va || pipe == .vb || pipe == .g then some pipe.latchNo else none)).spend e

/-- The arguments, each plus 1, that G registers hold after a packet: its words read before any of them writes (R407). -/
def argsAfter (is : List Instr) (a : Tab Nat) : Tab Nat :=
  is.foldl (fun t x => match x with
    | .gmov false d s => t.set 0 d.toNat (if isLatch s then 0 else a.get 0 (fieldNo s))
    | _ => (usesOf x).gWrites.foldl (fun t r => t.set 0 r 0) t) a

/-- The charge of walks that read these numbers of levels, one after the other. -/
def Terms.walkTime (c : Terms) (ls : List Nat) : Nat := (ls.map (walkBound c.lvl)).sum

/-- Declared pages that an access word can come to at most: one a lane, each of them for an engine that moves a range, one otherwise. -/
def Terms.reach (c : Terms) : Instr → Nat
  | .ldg .. => c.act
  | .stg .. => c.act
  | .ldv .. => c.act
  | .stv .. => c.act
  | .atomg .. => c.act
  | .atomv .. => c.act
  | .gather .. => c.act
  | .copy .. => c.pages.length
  | .coll .. => c.pages.length
  | _ => 1

/-- Issue of a packet (R324). Its access words take the walks of the declared pages that they can come to and none has come to yet, or one
walk each where the pages exceed the TLB entries (log 17). -/
def Terms.issuePacket (c : Terms) (n p : Nat) (is : List Instr) (w : Sched) : Sched :=
  let g := c.flow.img.probe
  let is := is.filter (· != .nop)
  let us := is.map usesOf
  let wp := us.any Uses.wbit
  let ls := us.any fun u => u.pipe == .ls || u.pipe == .en
  let keys := is.flatMap fun x => sourceKeys g x ++ destKeys g (usesOf x)
  let i := max w.next (max w.hold w.accepted)
  let i := match w.run with
    | some (s, m) => if wp then i else max i (s + m + 32)
    | none => i
  let i := if ls then max i w.memory else i
  let i := us.foldl (fun i u => max i (w.pipes.get 0 (pipeNo u.pipe))) i
  let i := keys.foldl (fun i k => max i (w.ready.get 0 k)) i
  let far := is.filter isAccess
  let n' := (far.map c.reach).sum
  let walks := if c.everyWalk then List.replicate far.length (c.pages.headD 5) else w.pages.take n'
  let a := if ls then i + 1 + c.walkTime walks else i
  let pipes := us.foldl (fun (t : Tab Nat) (u : Uses) => t.set 0 (pipeNo u.pipe) (i + occupancyOf c.w u.pipe)) w.pipes
  let w := { w with
    run := if wp then (match w.run with | some (s, m) => some (s, m + 1) | none => some (i, 1)) else none
    next := i + c.k, done := i + 1
    pages := w.pages.drop n'
    pipes := pipes }
  let w := w.count fun q => Counts.walks { q with packets := q.packets + 1, dyn := q.dyn + 120000, accesses := q.accesses + n' } walks
  let w := is.foldl (c.effect n p i a) w
  { w with accepted := max w.accepted a, args := argsAfter is w.args }

/-! ### The arguments that reach a block on every path (R407) -/

/-- The arguments that G registers hold at the starts of blocks, where a path has come there. -/
abbrev ArgMap := Tab (Option (Tab Nat))
/-- One more path comes to a block: what it holds otherwise is no argument there. -/
def ArgMap.join (t : ArgMap) (n : Nat) (a : Tab Nat) : ArgMap :=
  t.set none n (some (match t.get none n with
    | none => a
    | some b => b.filter fun e => a.get 0 e.1 == e.2))
/-- The key of the returns of a function. -/
def retKey : Nat := 2048

/-- The packets of block n from a state on: what they hand to each block that they send their strand to; `call` says what a callee leaves. -/
def passArgs (i : Image) (call : Nat → Tab Nat → Tab Nat) (n : Nat) : List (List Instr) → Tab Nat → ArgMap → ArgMap
  | [], a, t => if n % 32 == 31 then t else t.join (n + 1) a
  | p :: l, a, t =>
    let a := argsAfter p a
    let goes := fun (d : Option Nat) => match d with
      | some d => t.join d a
      | none => t
    match p.findSome? (hopOf i n) with
    | none => passArgs i call n l a t
    | some (.stop back) => if back then t.join retKey a else t
    | some (.go d _) => goes d
    | some (.both d _) => passArgs i call n l a (goes d)
    | some (.split d _ _) => passArgs i call n l a (goes d)
    | some (.call d) => passArgs i call n l (match d with | some d => call d a | none => a) t

/-- Passes over the blocks that a path has come to, until nothing changes. -/
def Flow.spread (f : Flow) (call : Nat → Tab Nat → Tab Nat) : Nat → ArgMap → ArgMap
  | 0, t => t
  | fuel + 1, t =>
    let u := t.foldl (fun (u : ArgMap) e => match e.2, (f.node e.1).pkts with
      | none, _ => u
      | _, [] => u
      | some a, p => passArgs f.img call e.1 p a u) t
    if u == t then t else f.spread call fuel u
/-- Passes enough for every block to lose every register in a pass of its own. -/
def passes : Nat := 2048 * 130
/-- Functions that can stand in one another. -/
def callDepth : Nat := 2049

/-- What a function leaves of the arguments it is entered with, whichever way it returns; a function that stands in itself leaves the registers
that none of its blocks writes. -/
def Flow.afterCall (f : Flow) : Nat → List Nat → Nat → Tab Nat → Tab Nat
  | 0, _, _, _ => []
  | depth + 1, calling, d, a =>
    if calling.contains d then
      let written := (reach f.nextAll none d).flatMap fun n => (f.node n).pkts.flatMap fun p => p.flatMap fun x => (usesOf x).gWrites
      a.filter fun e => !written.contains e.1
    else ((f.spread (f.afterCall depth (d :: calling)) passes [(d, some a)]).get none retKey).getD a
/-- The arguments at the blocks of a function entered with some. -/
def Flow.argsIn (f : Flow) (calling : List Nat) (entry : Nat) (a : Tab Nat) : ArgMap :=
  f.spread (f.afterCall callDepth calling) passes [(entry, some a)]

/-! ### Regions (R323) -/

/-- Where a region of the walk ends: the head of the loop that is walked with its blocks, the reconvergence blocks of the divergences
around it, the functions that are being walked. -/
structure Goal where
  head : Option Nat := none
  body : List Nat := []
  stops : List Nat := []
  calling : List Nat := []
  /-- The arguments that the G registers hold on every path to each block of the function. -/
  args : ArgMap

/-- Of two paths the one with the later exit, the larger release set (R407) and the latest arrivals at each rendezvous. -/
def later (x y : Sched) : Sched :=
  { (if y.exit ≤ x.exit then x else y) with
    release := max x.release y.release, arrivals := y.arrivals.foldl (fun m a => m.set 0 a.1 (max a.2 (m.get 0 a.1))) x.arrivals }
/-- Of two walks the later path, and the later of the paths that reach the loop's head again. -/
def longer (a b : Sched × Option Sched) : Sched × Option Sched :=
  (later a.1 b.1, match a.2, b.2 with
    | some x, some y => some (later x y)
    | some x, none => some x
    | none, y => y)
/-- The longest of several walks; a path that ends where it stands if there is none. -/
def longest (w : Sched) : List (Sched × Option Sched) → Sched × Option Sched
  | [] => (w, none)
  | r :: l => l.foldl longer r

/-- A way out of a block: where it goes, and for a BDIV its reconvergence block. -/
structure Way where
  dst : Option Nat
  join : Option (Option Nat) := none

/-- The region that starts at packet p of block n: its longest path, and the path that reaches the head of the goal again. `ways` are the
ways out of the block that its packets before p hold: every one leaves at the block's exit, so a block is charged whole (R323, R324, and 21
on the block of a loop's head). A loop's trips are priced from two trips of its body: the first, and one that follows
another (Table 16-11), with the release set that the last trip finds, and the calls of a recursive function likewise (R407); a page's walk is charged once, whichever trip it falls in
(R324). -/
def Terms.region (c : Terms) : Nat → Goal → Nat → Nat → List Way → Sched → Sched × Option Sched
  | 0, _, _, _, _, w => (w, none)
  | fuel + 1, o, n, p, ways, w =>
    let f := c.flow
    let go := fun (o : Goal) (w : Sched) (d : Nat) =>
      if o.head == some d then ((w, some w) : Sched × Option Sched)
      else if (f.node d).pkts == [] || o.stops.contains d || (o.head.isSome && !o.body.contains d) then (w, none)
      else c.region fuel o d 0 [] (w.settle w.exit)
    let enter := fun (o : Goal) (w : Sched) (dst : Option Nat) => match dst with
      | none => ((w, none) : Sched × Option Sched)
      | some d => if o.head != some d && f.loops.contains (n, d) then (w, none) else go o w d
    let all := fun (o : Goal) (w : Sched) (l : List Way) => l.map fun x => enter o w x.dst
    let leave := fun (w : Sched) (l : List Way) =>
      longest w (all o w (l.takeWhile fun x => x.join.isNone) ++ match l.dropWhile fun x => x.join.isNone with
        | [] => []
        | b :: t =>
          let join := b.join.getD none
          let side := { o with stops := join.toList ++ o.stops }
          let one := enter side w b.dst
          let mid := one.1.settle one.1.exit
          let two := longest mid (all side mid t)
          let out := enter o two.1 join
          [(out.1, (longer one (longer two out)).2)])
    let w := if p == 0 then { w with args := (o.args.get none n).getD [] } else w
    let latches := if p == 0 && o.head != some n then f.loops.filter fun e => e.2 == n else []
    if !latches.isEmpty then
      let t := latches.foldl (fun t e => max t (c.trips (f.node e.1).lim)) 1
      let inner := { o with head := some n, body := f.body n }
      let (one, back) := c.region fuel inner n 0 [] w
      let out := match back with
        | none => one
        | some b =>
          if t ≤ 1 then one
          else
            let trip := fun (r : Nat) => c.region fuel inner n 0 [] { b with pages := [], release := r }
            let second := trip b.release
            let grown := (t - 2) * ((second.2.map Sched.release).getD 0 - b.release)
            let (two, again) := if grown == 0 || decide (64 ≤ b.release) then second else trip (b.release + grown)
            let next := again.getD two
            let more := if c.everyWalk then [] else b.pages.take ((next.counts.accesses - b.counts.accesses) * (t - 1))
            let w := two.settle (max one.exit (two.exit + (t - 2) * (next.exit - b.exit) + c.walkTime more))
            { w with counts := (two.counts.plus b.counts next.counts (t - 2)).walks more, pages := b.pages.drop more.length }
      let exits := ((f.body n).flatMap f.next).filter fun m => !(f.body n).contains m
      longest out (exits.eraseDups.map (go o out))
    else match (f.node n).pkts[p]? with
    | none => leave w (ways ++ [{ dst := if n % 32 == 31 then none else some (n + 1) }])
    | some is =>
      let w := c.issuePacket n p is w
      let rest := fun (l : List Way) (w : Sched) => c.region fuel o n (p + 1) (ways ++ l) w
      match is.findSome? (hopOf f.img n) with
      | none => rest [] w
      | some (.stop _) => leave w ways
      | some (.go d _) => leave w (ways ++ [{ dst := d }])
      | some (.both d _) => rest [{ dst := d }] w
      | some (.split d j _) => rest [{ dst := d, join := some j }] w
      | some (.call none) => rest [] w
      | some (.call (some d)) =>
        if o.calling.contains d then rest [] (w.settle w.exit)
        else
          let w0 := w.settle w.exit
          let pass := fun (r : Nat) =>
            (c.region fuel { calling := d :: o.calling, args := f.argsIn (d :: o.calling) d w0.args } d 0 [] { w0 with release := r }).1
          let w1 := pass w0.release
          let w1 := if f.recursive d then
              let j := (f.img.limits.zipIdx.find? fun e => e.2 != 0 && e.1.seg * 32 + e.1.blk == d).map Prod.snd
              let k := max 1 (min (match j with | some j => c.trips j | none => f.img.depth) f.img.depth)
              let grown := (k - 1) * (w1.release - w0.release)
              let w1 := if grown == 0 || decide (64 ≤ w0.release) then w1 else pass (w0.release + grown)
              { w1.settle (w0.exit + k * (w1.exit - w0.exit)) with counts := w1.counts.plus w0.counts w1.counts (k - 1) }
            else w1
          rest [] { w1.settle w1.exit with args := f.afterCall callDepth o.calling d w0.args }

/-- The walk of one group from the entry, with the release that RLS names (R323). A path of the walk is never as long as the fuel: it passes a
block once in each function that is being walked. -/
def Terms.run (c : Terms) (rls : Nat) : Nat × Sched :=
  let start : Tab Nat := (List.range 32).foldl (fun t k => t.set 0 k (k + 1)) []
  let w := (c.region (2 ^ 26) { args := c.flow.argsIn [] c.flow.entry start } c.flow.entry 0 [] { pages := c.start, args := start }).1
  (w.exit + (if rls.testBit 3 then releaseCharge c.lvl (rls % 8) (min 64 w.release) else 0), w)

/-! ### Teams (R323, Table 16-4) -/

/-- What the walk of a team gives: its core time in cycles, the packets of each group by offset, the counts of the slowest group, those of
all groups together. -/
structure TeamWalk where
  cycles : Nat
  packets : List (Nat × Nat)
  slowest : Counts
  total : Counts

/-- What the walks of all groups of a team have in common. -/
structure TeamTerms where
  flow : Flow
  lvl : Nat
  excl : Bool
  /-- Issue cycles quoted to live DL reservations on each quarter of the clusters, none for a DL launch (Table 16-4). -/
  dl : List Nat
  maxc : Nat
  args : Option (List Word)
  pages : List Nat
  everyWalk : Bool
  start : List Nat
  global : Nat
  vault : Nat
  rls : Nat

/-- The terms of a group: the contention factors of its quarter. -/
def TeamTerms.group (t : TeamTerms) (lay : Layout) (floors : Tab Nat) (e : Nat × Nat × LaneMask) : Terms :=
  let i := t.flow.img
  let q := i.quarterAt e.1
  let here := lay.filter fun x => i.quarterAt x.1 == q
  let mats := here.filter fun x => i.roleAt x.1 == .matrix
  { flow := t.flow, lvl := t.lvl, w := e.2.1, act := (List.range e.2.1).countP fun k => !e.2.2.getLsbD k
    k := if t.excl then here.length else 16 + t.dl.getD q 0, s := if t.excl then max 1 mats.length else 8
    m := if t.excl then 1 else t.maxc + 1, args := t.args, pages := t.pages, everyWalk := t.everyWalk, start := t.start
    global := t.global, vault := t.vault, floors := floors }

/-- The walks of groups of a team, by offset: a page's walk is charged to the first of them that comes to it, for they share a cluster
(R324). -/
def TeamTerms.each (t : TeamTerms) (lay : Layout) (floors : Tab Nat) : Layout → List Nat → List (Nat × Nat × Sched)
  | [], _ => []
  | e :: l, pages =>
    let c := t.group lay floors e
    let r := ({ c with start := pages } : Terms).run t.rls
    (e.1, r) :: t.each lay floors l r.2.pages

/-- The walks of the groups of a team, by offset, once each rendezvous opens at the latest arrival of a member. -/
def TeamTerms.settled (t : TeamTerms) (lay : Layout) : Nat → Tab Nat → List (Nat × Nat × Sched)
  | 0, _ => []
  | fuel + 1, floors =>
    let r := t.each lay floors lay t.start
    let latest := r.foldl (fun (m : Tab Nat) x => x.2.2.arrivals.foldl (fun m a => m.set 0 a.1 (max a.2 (m.get 0 a.1))) m) floors
    if latest == floors then r else t.settled lay fuel latest
/-- The walk of a team. The first n rendezvous of a path stand after n walks, so that the walks end well before their fuel does. -/
def TeamTerms.walk (t : TeamTerms) (lay : Layout) : TeamWalk :=
  let r := t.settled lay (2 ^ 26) []
  let slow := r.foldl (fun (b : Nat × Counts) x => if b.1 < x.2.1 then (x.2.1, x.2.2.counts) else b) (0, {})
  { cycles := slow.1, packets := r.map fun x => (x.1, x.2.2.counts.packets), slowest := slow.2
    total := r.foldl (fun (m : Counts) x => m.plus {} x.2.2.counts 1) {} }

/-! ### Ranges (R324, R406, R407) -/

/-- A page of a range: its size as a power of two, its number among the pages of its size, the levels that its walk reads, and its frame; a
unit of 64 KiB that no leaf maps yet has no frame and is walked as a page of 64 KiB. -/
structure QPage where
  size : Nat
  num : Nat
  levels : Nat
  frame : Option Nat
  deriving DecidableEq, Repr

/-- The pages that cover [va, e), from va up. -/
def State.pagesFrom (s : State) (root e : Nat) : Nat → Nat → List QPage
  | 0, _ => []
  | fuel + 1, va =>
    if e ≤ va then []
    else
      let (r, x) := s.walkRoot root va
      let b := (x.map Prod.snd).getD 16
      { size := b, num := va / 2 ^ b, levels := if x.isSome then r.length else 5, frame := x.map fun y => pteFrame y.1 }
        :: s.pagesFrom root e fuel ((va / 2 ^ b + 1) * 2 ^ b)
/-- The pages of a range. -/
def State.pagesOf (s : State) (root : Nat) (r : Range) : List QPage :=
  s.pagesFrom root (r.base + max 1 r.len) (r.len / 65536 + 2) r.base
/-- Addresses of the 256-byte lines that a range has in a page, as virtual line numbers. -/
def QPage.lines (p : QPage) (r : Range) : List Nat :=
  let a := max r.base (p.num * 2 ^ p.size) / 256
  let b := (min (r.base + max 1 r.len) ((p.num + 1) * 2 ^ p.size) + 255) / 256
  (List.range (b - a)).map (a + ·)

/-- A RANGE entry bound to launch arguments (R316). -/
def bindRange (args : List Word) (r : BitVec 256) : Range :=
  let arg := fun (k : Nat) => (args.getD k 0).toNat
  let cap := rangeLen r
  { base := if rangeBA r then arg (rangeBase r) + 2 ^ 32 * arg (rangeBase r + 1) else rangeBase r
    len := if rangeLA r then min (arg (rangeLenArg r)) cap else cap
    rd := r.getLsbD 128, wr := r.getLsbD 129, wait := rangeWait r, vault := rangeVault r }

/-- The largest declared range of a space, a length-capped one at its cap; where no range is declared for the space, of any space (R407:
`VAULT` is a mark that Tivel does not set, 21 R391). -/
def Image.largest (i : Image) (vault : Bool) : Nat :=
  let l := i.ranges.filter fun r => rangeVault r == vault
  (if l.isEmpty then i.ranges else l).foldl (fun m r => max m (rangeLen r)) 0

/-- Distinct pages of the declared ranges. -/
def State.rangePages (s : State) (root : Nat) (rs : List Range) : List QPage := (rs.flatMap (s.pagesOf root)).eraseDups
/-- The levels that walks of pages read, the most first. -/
def levelsOf (ps : List QPage) : List Nat := (sortNat (ps.map QPage.levels)).reverse

/-- Slices onto which a wait range maps (14 R291). -/
def State.waitSlices (s : State) (root : Nat) (rs : List Range) : List Nat :=
  ((rs.filter Range.wait).flatMap fun r => (s.pagesOf root r).flatMap fun p => match p.frame with
    | some f => (p.lines r).map fun l => orderKey (f + l * 256 % 2 ^ p.size)
    | none => []).eraseDups

/-- Lines of HBM that the writable ranges hold (R407). -/
def State.hbmLines (s : State) (root : Nat) (rs : List Range) : Nat :=
  ((rs.filter fun r => r.wr && !r.vault && r.len != 0).flatMap fun r => (s.pagesOf root r).map fun p => match p.frame.map regionOf with
    | some (.hbm _) => (p.lines r).length
    | _ => 0).sum

/-- The image's code holds a word of a kind. -/
def Flow.holds (f : Flow) (p : Instr → Bool) : Bool := f.nodes.any fun e => e.2.pkts.any fun k => k.any p
/-- A `LAUNCH`. -/
def isLaunch : Instr → Bool
  | .launch _ => true
  | _ => false
/-- A `WAITU`. -/
def isWaitu : Instr → Bool
  | .waitu .. => true
  | _ => false

/-! ### The quotation (R323, R325, R328, R406) -/

/-- What a QUOTE body asks for (Table 16-1). -/
structure QuoteBody where
  img : Nat
  root : Nat
  ldb : Nat
  reca : Nat
  ddl : Nat
  cohn : Nat
  cls : Nat
  lvl : Nat
  opt : Nat
  narg : Nat
  val : Nat
  cki : Nat
  clus : Nat
  maxc : Nat
  rls : Nat
  comm : Nat
  args : List Word
  deriving DecidableEq, Repr

/-- PAIR. -/
def QuoteBody.pair (b : QuoteBody) : Bool := b.opt.testBit 0
/-- PROT. -/
def QuoteBody.prot (b : QuoteBody) : Bool := b.opt.testBit 1
/-- RST. -/
def QuoteBody.rst (b : QuoteBody) : Bool := b.opt.testBit 2
/-- EXCL. -/
def QuoteBody.excl (b : QuoteBody) : Bool := b.opt.testBit 3
/-- MAXC as the walk takes it: 1 where it is ignored (Table 16-1). -/
def QuoteBody.beside (b : QuoteBody) : Nat := if b.excl then 1 else b.maxc

/-- The body of a QUOTE packet, from byte 16. -/
def quoteBody (bs : List Byte) : QuoteBody :=
  let u := fun (o n : Nat) => leNat ((bs.drop o).take n)
  let narg := u 0x2D 1
  { img := u 0 8, root := u 8 8, ldb := u 0x10 8, reca := u 0x18 8, ddl := u 0x20 8, cohn := u 0x28 2, cls := u 0x2A 1, lvl := u 0x2B 1
    opt := u 0x2C 1, narg := narg, val := u 0x2E 2, cki := u 0x30 2, clus := u 0x32 2, maxc := u 0x34 1, rls := u 0x35 1, comm := u 0x38 8
    args := (List.range (min 32 narg)).map fun k => BitVec.ofNat 32 (u (0x40 + 4 * k) 4) }

/-- A field of the body out of range (R321), but for CLUS against the teams of a cohort, which only the image gives. -/
def quoteBad (bs : List Byte) (b : QuoteBody) : Bool :=
  let u := fun (o n : Nat) => leNat ((bs.drop o).take n)
  b.img % 256 != 0 || regionOf b.img == .hole || b.root % 8192 != 0 || !tableOk b.root || b.ldb % 65536 != 0 || decide (2 ^ 57 ≤ b.ldb)
    || b.reca % 8192 != 0 || !isGlobal b.reca || (b.cls != 0 && b.ddl != 0) || b.cohn == 0 || decide (3 < b.cls) || decide (2 < b.lvl)
    || decide (16 ≤ b.opt) || decide (32 < b.narg) || (b.prot && decide (b.cki < 100)) || (!b.prot && b.cki != 0)
    || (!b.excl && (b.maxc == 0 || decide (8 < b.maxc))) || decide (16 ≤ b.rls) || decide (4 < b.rls % 8) || u 0x36 2 != 0
    || (bs.drop 0xC0).any (· != 0)

/-- A RANGE or LIMIT entry uses an argument at or beyond NARG (R323). -/
def argsMissing (i : Image) (narg : Nat) : Bool :=
  (i.ranges.any fun r => (rangeBA r && decide (narg ≤ rangeBase r + 1)) || (rangeLA r && decide (narg ≤ rangeLenArg r)))
    || (i.limits.drop 1).any fun l => match l.arg with | some k => decide (narg ≤ k) | none => false

/-- Clusters in pairs of different bays: each time the lowest, and with it the lowest of another bay (18 R363). -/
def pairUp : Nat → List Nat → List Nat
  | fuel + 1, a :: t => match t.find? fun c => siteOf c / 4 != siteOf a / 4 with
    | some b => a :: b :: pairUp fuel (t.filter (· != b))
    | none => []
  | _, _ => []

/-- Place(req): the clusters of the plan, whole cohorts on one die, lowest sites first; none where the reservation cannot be formed on the
queue's mask at present load (R321, R329, 13 R275). A paired launch takes two clusters for each team, in different bays (18 R363). -/
def State.planClusters (s : State) (mask : Nat → Bool) (b : QuoteBody) (f : Flow) : Option (List Nat) :=
  let tpc := f.img.cohort * if b.pair then 2 else 1
  let want := if b.clus == 0 then b.cohn * tpc else b.clus * if b.pair then 2 else 1
  let cohorts := if f.holds isLaunch then want / tpc else min (want / tpc) b.cohn
  let open' := fun (die : Nat) => ((List.range 128).map fun site => clusterKey die site).filter fun cl =>
    mask cl && s.usable cl && admits (s.tenants cl 0xFFF) b.excl b.beside
  let open' := fun (die : Nat) => if b.pair then pairUp 64 (open' die) else open' die
  let (got, left) := (List.range 4).foldl (fun (r : List Nat × Nat) die =>
    let here := open' die
    let n := min (here.length / tpc) r.2
    (r.1 ++ here.take (n * tpc), r.2 - n)) ([], cohorts)
  if cohorts == 0 || left != 0 || !fitsAlone f.img f.img.layout then none else some got

/-- Static power of a cluster at a level, in 10⁻⁴ pJ per ns; maximum dynamic power in mW (19 Table 19-2). -/
def staticPower (lvl : Nat) : Nat := byLevel lvl 4500000 8500000 13000000
/-- Static power in mW. -/
def staticMW (lvl : Nat) : Nat := byLevel lvl 450 850 1300
/-- Maximum dynamic power in mW. -/
def dynamicMW (lvl : Nat) : Nat := byLevel lvl 1008 3600 5715
/-- A quotient rounded up. -/
def ceilDiv (a b : Nat) : Nat := (a + b - 1) / b
/-- Cycles at a level in ns, rounded up. -/
def nsOf (lvl cycles : Nat) : Nat := ceilDiv (cycles * 10) (byLevel lvl 6 12 15)

/-- T_max in ns from core cycles, cycles of overhead and ns of overhead (R323). -/
def tmaxOf (lvl core extra ns : Nat) : Nat := ceilDiv (core * 410 + extra * 400) (byLevel lvl 6 12 15 * 40) + 400 + ns

/-- What a QUOTE comes to. -/
structure Quotation where
  tmax : Nat
  emax : Nat
  tteam : Nat
  packets : List (Nat × Nat)
  /-- Issue cycles quoted on each quarter of a cluster (Table 16-4). -/
  issue : List Nat
  /-- T_team in ns and Q_g by offset of each child, by its index in the child table. -/
  kids : List (Nat × Nat × List (Nat × Nat))
  shares : List Share
  deriving DecidableEq, Repr

/-- What the walk of a child gives. -/
structure KidWalk where
  tmax : Nat := 0
  dyn : Nat := 0
  lines : Nat := 0
  sheet : Nat := 0
  hbm : Nat := 0
  fab : Nat := 0
  tteam : Nat := 0
  packets : List (Nat × Nat) := []
  issue : List Nat := []

/-- Core cycles of a team in ns, with the factor of R325. -/
def teamNs (lvl cycles : Nat) : Nat := ceilDiv (cycles * 410) (byLevel lvl 6 12 15 * 40)
/-- Packets of groups of an image, by offset, summed by quarter, n times. -/
def issueOf (i : Image) (n : Nat) (l : List (Nat × Nat)) : List Nat :=
  (List.range 4).map fun q => n * ((l.filter fun e => i.quarterAt e.1 == q).map Prod.snd).sum

/-- Issue cycles quoted to the live DL reservations on each quarter, the most on any of the clusters (Table 16-4). -/
def State.dlCycles (s : State) (plan : List Nat) : List Nat :=
  (List.range 4).map fun q => plan.foldl (fun m cl => max m ((s.tenants cl 0xFFF).foldl (fun n e =>
    if (s.quote e.1).cls == 0 then n + (s.quote e.1).issue.getD q 0 else n) 0)) 0
/-- The issue cycles of live DL reservations that a walk has counted on the quarters it uses cover those quoted now (R330). -/
def QEntry.counted (q : QEntry) (now : List Nat) : Bool :=
  (List.range 4).all fun k => q.issue.getD k 0 == 0 || decide (now.getD k 0 ≤ q.dl.getD k 0)

/-- ns of a split change on each of some clusters whose split does not hold a team (R325, 09 R187). -/
def State.splitCharge (s : State) (cls : List Nat) (i : Image) (lay : Layout) : Nat :=
  3700 * (cls.filter fun cl => !splitHolds (s.cluster cl).sramsplit i lay).length

/-- The ranges of a child: one whose base is an argument may lie anywhere, so that each of its lines and of its pages counts (R325). -/
def State.childPages (s : State) (root : Nat) (i : Image) : List Nat :=
  let any := (i.ranges.filter rangeBA).flatMap fun r => List.replicate ((rangeLen r + 65534) / 65536 + 1) 5
  any ++ levelsOf (s.rangePages root ((i.ranges.filter fun r => !rangeBA r).map (bindRange [])))
/-- The lines that its writable ranges hold. -/
def State.childLines (s : State) (root : Nat) (i : Image) : Nat :=
  let any := ((i.ranges.filter fun r => rangeBA r && r.getLsbD 129 && !rangeVault r).map fun r => (rangeLen r + 254) / 256 + 1).sum
  any + s.hbmLines root ((i.ranges.filter fun r => !rangeBA r).map fun r => { bindRange [] r with len := rangeLen r })

/-- The walk of a child as of a launch of its own (R325): MAXG groups laid out as 22 R392 gives, its cohorts in waves on the clusters that the
parent's teams leave, every limit at its maximum, the `.DEV` release of 12 R260. None where a cohort of it cannot be placed there. -/
def State.childWalk (s : State) (b : QuoteBody) (spare : List Nat) (ci : Image) (maxg : Nat) : Option KidWalk :=
  let f := flowOf ci
  let per := if b.pair then 2 else 1
  let pages := s.childPages b.root ci
  let t : TeamTerms := { flow := f, lvl := b.lvl, excl := b.excl, dl := if b.cls == 0 || b.excl then [] else s.dlCycles spare, maxc := b.beside
                         args := none, pages := pages, everyWalk := decide (1024 < pages.length), start := pages, global := ci.largest false
                         vault := ci.largest true, rls := 8 + 3 }
  let teams := ceilDiv maxg ci.groups
  let rest := ci.layoutOf (maxg - ci.groups * (teams - 1))
  let last := t.walk rest
  let first := if teams ≤ 1 then last else t.walk ci.layout
  let cycles := max first.cycles last.cycles
  let slow := if first.cycles ≤ last.cycles then last.slowest else first.slowest
  let later := { t with start := [] }
  -- the first wave on a cluster has the walks of its pages charged, the others none (R324)
  let again := if teams ≤ 1 then last else later.walk ci.layout
  let slots := spare.length / per / max 1 (min ci.cohort teams)
  if maxg == 0 then some {}
  else if slots == 0 || !fitsAlone ci rest || (decide (1 < teams) && !fitsAlone ci ci.layout) then none
  else
    let waves := ceilDiv (ceilDiv teams ci.cohort) slots
    let core := cycles + (waves - 1) * again.cycles
    let firsts := min (teams - 1) (slots * ci.cohort)
    let total := (last.total.plus {} first.total firsts).plus {} again.total (teams - 1 - firsts)
    let room := s.childLines b.root ci
    let lines := min total.lines room
    let ns := 3000 + 9000 * waves + s.splitCharge spare ci (if teams ≤ 1 then rest else ci.layout)
      + if b.prot then 40 * lines + 2000 * ceilDiv (core * 10) (byLevel b.lvl 6 12 15 * b.cki * 1000) else 0
    some { tmax := tmaxOf b.lvl core (if b.pair then 200 * slow.pairs * waves else 0) ns, dyn := total.dyn, lines := lines
           sheet := min total.sheet room, hbm := total.hbm, fab := total.fab, tteam := teamNs b.lvl cycles, packets := first.packets
           issue := issueOf ci waves first.packets }

/-- The walk of a request on a plan: none where a parent's reservation leaves no clusters for its children (R325). Of a reservation WAYS and
PINQ are 0: no field of a QUOTE asks for a partition or a pin quota, and R406 derives none (DESIGN CHOICE, log 71). -/
def State.quoteWalk (s : State) (b : QuoteBody) (rd : Reader) (f : Flow) (plan : List Nat) : Option Quotation :=
  let i := f.img
  let per := if b.pair then 2 else 1
  let tpc := i.cohort
  let slots := plan.length / per / tpc
  let rs := i.ranges.map (bindRange b.args)
  let pages := s.rangePages b.root rs
  let t : TeamTerms := { flow := f, lvl := b.lvl, excl := b.excl, dl := if b.cls == 0 || b.excl then [] else s.dlCycles plan, maxc := b.beside
                         args := some b.args, pages := levelsOf pages, everyWalk := decide (1024 < pages.length), start := levelsOf pages
                         global := i.largest false, vault := i.largest true, rls := b.rls }
  let w := t.walk i.layout
  let busy := plan.take (min slots b.cohn * tpc * per)
  let spare := plan.drop busy.length
  let launches := f.holds isLaunch
  let kids := if launches then i.children.map fun (off, maxg) => s.childWalk b spare (readImage fun k => rd (off + k)) maxg else []
  if kids.any Option.isNone then none
  else
    let kids := kids.map fun k => k.getD {}
    let waves := ceilDiv b.cohn slots
    -- the first wave on a cluster has the walks of its pages charged, the others none (R324)
    let again := if waves ≤ 1 then w else { t with start := [] }.walk i.layout
    let core := w.cycles + (waves - 1) * again.cycles
    let teams := b.cohn * tpc
    let firsts := min slots b.cohn * tpc
    let total := (({} : Counts).plus {} w.total firsts).plus {} again.total (teams - firsts)
    let top := fun (g : KidWalk → Nat) => kids.foldl (fun m x => max m (g x)) 0
    let n := w.slowest.launches * waves
    let all := total.launches
    let room := s.hbmLines b.root rs
    let lines := min total.lines room
    let rate := byLevel b.lvl 6 12 15
    let ns := 3000 + 9000 * waves + s.splitCharge busy i i.layout + n * (2000 + top KidWalk.tmax)
      + (if b.prot then 40 * lines + 2000 * ceilDiv (core * 10) (rate * b.cki * 1000) else 0)
      + (if b.rls == 8 + 4 then 2000 + 40 * (lines + all * top KidWalk.lines) else 0)
    let tmax := tmaxOf b.lvl core (if b.pair then 200 * w.slowest.pairs * waves else 0) ns
    let dyn := (total.dyn + all * top KidWalk.dyn) * levelFactor b.lvl / 100 * per
    let emax := ceilDiv (dyn + plan.length * staticPower b.lvl * tmax + ceilDiv (plan.length * 2500 * dyn * rate) (max 1 (core * 10))) 10000000000
    let slices := s.waitSlices b.root rs
    let waits := min 512 (if f.holds isWaitu then i.groups * teams else 0)
    let byDie := fun (d : Nat) (l : List Nat) => l.filter fun cl => dieOf cl == d
    let dies := (List.range 4).filter fun d => !(byDie d plan).isEmpty || (waits != 0 && slices.any fun k => k / 32 == d)
    let shareOf := fun (d : Nat) =>
      let here := byDie d plan
      let rateOf := fun (own : Counts → Nat) (kid unit : Nat) =>
        let bytes := (own w.total + (waves - 1) * own again.total) * ((byDie d busy).length / per) + ceilDiv (all * kid * (byDie d spare).length) (max 1 spare.length)
        ceilDiv (bytes * rate) (max 1 (core * 10 * unit))
      let hbmt := rateOf Counts.hbm (top KidWalk.hbm) 1
      -- at worst one loop carries every byte (log 17)
      let fabs := min 256 (rateOf Counts.fab (top KidWalk.fab) 2)
      let mine := if waits == 0 then [] else slices.filter fun k => k / 32 == d
      let loops := if fabs == 0 then 0 else (loopsOn ((here.map bayOf).eraseDups)).length
      ({ die := d, cmask := here.foldl (fun m cl => m ||| (1#128 <<< siteOf cl)) 0, floor := if b.cls == 0 then b.lvl else 0, cap := b.lvl
         excl := b.excl, maxc := b.beside, fabs := fabs, hbmt := hbmt, lpt := 0, ways := 0, mon := if mine.isEmpty then 0 else waits
         slices := mine.foldl (fun m k => m ||| (1#32 <<< (k % 32))) 0
         lslot := if launches then min 63 (4 * teams) else 0
         tlbe := if here.isEmpty then 0 else min 1024 (pages.filter fun p => p.frame.isSome).length, pinq := 0
         dust := if b.prot && !here.isEmpty then ceilDiv (320 * min (total.sheet + all * top KidWalk.sheet) room) 1048576 else 0
         pwr := ceilDiv (here.length * (staticMW b.lvl + dynamicMW b.lvl) + hbmt * 19 + loops * fabs * 2) 1000 } : Share)
    some { tmax := tmax, emax := emax, tteam := teamNs b.lvl w.cycles, packets := w.packets
           issue := ((issueOf i waves w.packets).zipIdx.map fun e => max e.1 (top fun k => n * k.issue.getD e.2 0))
           kids := kids.zipIdx.map fun k => (k.2, k.1.tteam, k.1.packets), shares := dies.map shareOf }

end Sys2Proof.Machine
end

