-- ==== Sys2Proof/Machine/Order.lean ====
section
/-! DEFINITION. Transactions, fences, pins and the maintenance of L1: `TXB`, `TXE`, `TXA`, `FENCE`, `TFENCE`, `PIN`, `UNPIN`, `L1WB`, `L1INV`,
`WAITC`, with the events that complete them (10 R215 to R225, 11 R232 to R243, 15 R314, 17 R338). -/

namespace Sys2Proof.Machine

/-! ### Transactions (R215 to R220) -/

/-- `TXB` (R216): a nested one dooms the transaction; a group of several strands gets DIVERGED; an attempt beyond the bound is LIMIT. While
an earlier `TXE` commits, the word waits. DESIGN CHOICE: a `TXB` that gets DIVERGED begins no attempt, and leaves the count and its PC as they
were (log 73). -/
def execTxb (d : BitVec 7) (n : BitVec 8) (s : State) : Outcome :=
  issue (.txb d n) s fun s => .next (
    let g := s.seen
    let k := match g.tx.pc with
      | some pc => if pcSame pc s.str.pc then g.tx.count + 1 else 1
      | none => 1
    if s.inTx then (s.pulse pGLOB).doomMe 4
    else if s.me.tx.isOpen then s.missed
    else if 1 < g.liveStrands.length then (s.pulse pGLOB).modMe fun g => g.setG d.toNat 6
    else if n.toNat < k then s.trapWord .limit
    else (s.pulse pGLOB).modMe fun g =>
      { g.setG d.toNat (BitVec.ofNat 32 k) with tx := { isOpen := true, count := k, pc := some s.str.pc } })

/-- `TXA` (R219): EXPLICIT with its code, in an open transaction. -/
def execTxa (code : BitVec 8) (s : State) : Outcome :=
  issue (.txa code) s fun s => .next (if s.inTx then (s.pulse pGLOB).doomMe (3 + code.toNat * 256) else s.pulse pGLOB)

/-- The requests of a cluster's write-backs that are not acknowledged. -/
def State.openWbs (s : State) (cl : Nat) : List Nat :=
  (s.reqs.filter fun e => e.2.cluster == cl && match e.2.kind with
    | .wb .. => true
    | .stamped .. => true
    | .memWrite _ => true
    | .ack => true
    | _ => false).map Prod.fst

/-- The release set of a group is written back and empty. -/
def State.releaseSet (s : State) (gk : Nat) (sys : Bool) : State :=
  let s := (s.group gk).release.foldl (fun s l => (s.writeBack (clusterOf gk) l 0 sys).1) s
  s.modGroup gk fun g => { g with release := [] }

/-- `TXE` (R218): the commit waits for the group's earlier GLOB operations and for the acknowledgement of its earlier stores, which it writes
back (11 R248). Its landed field holds a status that is decided already. In a pair it is executed once (18 R366). -/
def execTxe (d : BitVec 7) (s : State) : Outcome :=
  issue (.txe d) s fun s => .next (
    let o : Op := { path := pGLOB, gdst := [d.toNat] }
    if s.me.tx.isOpen && s.me.tx.committing then s.missed
    else
      let params := (sortNat (s.me.tx.reads.map Prod.fst)).flatMap (fun e => [e, e / 2 ^ 32]) ++ s.me.tx.writes.flatMap fun e =>
        [e.1, e.1 / 2 ^ 32, (e.2.getD 0).toNat]
      let s := if s.inTx && decide (1 < s.seen.liveStrands.length) then s.doomMe 6 else s
      let close := fun (s : State) => s.modMe fun g => { g with tx := { g.tx with committing := g.tx.isOpen } }
      let right := s.rightMe && s.me.approved
      let s := s.once (requestDigest (.txe d) params) o fun s k =>
        let before := (s.me.paths.filter fun o => o.path == pGLOB && !o.done).map PathOp.op
        let s := if s.me.tx.isOpen then s.releaseSet s.cur.group false else s
        close (s.newOp { o with
          kind := .commit d.toNat before (if s.me.tx.isOpen then s.openWbs s.myCluster else []), landed := if s.me.tx.isOpen then 0 else 7, mirror := k }).1
      if right then close s else s)

/-- The transaction of a group is closed; a commit ends the count of attempts. -/
def Group.closeTx (g : Group) (commit : Bool) : Group :=
  { g with tx := { count := if commit then 0 else g.tx.count, pc := if commit then none else g.tx.pc } }

/-- The status of a `TXE` is given, and it completes. -/
def State.endTxe (s : State) (op d status : Nat) : State :=
  let close := fun (g : Group) => if status == 7 then g else g.closeTx (status == 0)
  (s.give op fun g => (close g).setG d (BitVec.ofNat 32 status)).finish op

/-- Lines of both logs of a transaction. -/
def Tx.lines (t : Tx) : List Nat :=
  sortNat (((t.reads.map Prod.fst).map (· / 4)) ++ t.wlines).eraseDups

/-- Every line of a list locked for an operation. -/
def State.setLocks (s : State) (ls : List Nat) (op : Nat) : State :=
  ls.foldl (fun s l => s.modSlice (homeSlice (l * 256)) fun x => { x with locks := (l, op) :: x.locks }) s

/-- Every logged byte written at its home slice, each line with one tag (R218, 11 R248). -/
def State.commitWrites (s : State) (t : Tx) (qidx : Nat) : State :=
  t.wlines.foldl (fun s l =>
    let bs : List (Nat × Byte) := (List.range 256).filterMap fun i => (t.writes.get none (l * 256 + i)).map fun b => (i, b)
    let mask := bs.foldl (fun m e => m ||| (1#256 <<< e.1)) 0#256
    (s.homeWrite l (s.mayStore l mask qidx) (s.mayData l (bs.foldl (fun d e => Tab.set 0 e.1 e.2 d) [])) 0 qidx).noteMasks s l) s

/-- TXE_COMMIT (R218): with everything earlier complete, a doomed transaction gives its code; else the lines of both logs are locked, and
in a second step validated, written and released. -/
def execTxeCommit (op : Nat) (s : State) : Outcome :=
  let o := s.op op
  match o.live, o.kind with
  | true, .commit d before wbs =>
    let g := s.group o.group
    let t := g.tx
    if s.opGone o then .next ((s.unlock op).endOp op)
    else if o.landed != 0 then .next (s.endTxe op d o.landed)
    else if before.any (fun k => (s.op k).live) || wbs.any (fun r => (s.req r).live) then .next s
    else if t.doom != 0 then .next ((s.unlock op).endTxe op d t.doom)
    else if o.pos == 0 then
      let lack := s.lacking o.qidx (t.reads.map fun e => (e.1 * 64, 64))
      if t.lines.any fun l => s.lineBusy l op then .next s
      else if !lack.isEmpty then .next (s.wantHome o.cluster o.qidx 64 lack)
      else .next ((s.setLocks t.lines op).setOp op { o with pos := 1 })
    else
      let clash := t.reads.any fun e => s.homeBytes (e.1 * 64) 64 != e.2
      let s := if clash then s else (s.commitWrites t o.qidx).modTeam o.team fun x => { x with marked := x.live }
      .next ((s.unlock op).endTxe op d (if clash then 1 else 0))
  | _, _ => .next s

/-! ### Fences (R222, R223) -/

/-- A fence begins: it waits for the earlier operations of the group on the named paths. -/
def State.startFence (s : State) (scope kind paths : Nat) (translation : Bool) : State :=
  let ops := (s.me.paths.filter fun o => !o.done && paths.testBit o.path).map PathOp.op
  (s.chargeMe 30000).modMe fun g => { g with
    approved := false
    fence := some { scope := scope, kind := kind, paths := paths, translation := translation, released := false, ops := ops, wbs := [] } }

/-- `FENCE` (R222). In a pair a release of TEAM scope or wider is a comparison (18 R366). -/
def execFence (scope : BitVec 3) (kind : BitVec 2) (paths : BitVec 9) (s : State) : Outcome :=
  issue (.fence scope kind paths) s fun s => .next (unlessTx s fun s =>
    if s.pairedMe && kind.getLsbD 1 && decide (1 ≤ scope.toNat) && !s.me.approved then s.askCompare
    else s.startFence scope.toNat kind.toNat paths.toNat false)

/-- `TFENCE` (R223): a release of its scope on GLOB, then the translations. -/
def execTfence (scope : BitVec 3) (s : State) : Outcome :=
  issue (.tfence scope) s fun s => .next (unlessTx s fun s =>
    if s.pairedMe && decide (1 ≤ scope.toNat) && !s.me.approved then s.askCompare
    else s.startFence scope.toNat 2 1 true)

/-- The walks in flight for the TLBs that a `TFENCE` reaches are stale, and the fence waits for them (15 R314). -/
def State.staleWalks (s : State) (g : Group) (cl scope : Nat) : State :=
  let r := tfenceReach g cl scope
  let one := fun (e : Nat × Walk) =>
    if e.2.live && (e.2.clusters.any r.1 || r.2 e.2.die) then (e.1, { e.2 with stale := true }) else e
  { s with walks := s.walks.map one }
/-- A `TFENCE` holds new walks back from here on. -/
def Fence.drop (f : Fence) : Fence := { f with dropping := true }

/-- Every translation that a `TFENCE` reaches goes, the front end's among them (12 R256). -/
def State.dropTlbs (s : State) (g : Group) (cl scope : Nat) : State :=
  let r := tfenceReach g cl scope
  let one := fun (e : Nat × Cluster) => if r.1 e.1 then (e.1, { e.2 with tlb := [] }) else e
  let two := fun (e : Nat × Die) => if r.2 e.1 then (e.1, { e.2 with tlb := [] }) else e
  let held := fun (e : Nat × Packet) => if e.2.type == 5 && e.2.watching && r.2 e.2.die then (e.1, { e.2 with watching := false, pa := 0 }) else e
  let spare := fun (e : Nat × Group) => if r.1 (clusterOf e.1) then (e.1, { e.2 with spare := [] }) else e
  { s with clusters := s.clusters.map one, dies := s.dies.map two, packets := s.packets.map held, groups := s.groups.map spare }

/-- Lines of a group that stand at home slices and that a SYS release sees in memory: those that its atomics changed, and those that it stored
to and that were written back before (11 R243, Table 11-6). -/
def Group.owed (g : Group) : List Nat := (g.atomLines ++ g.sent).eraseDups

/-- The release part of a fence: the release set is written back, and of a SYS release the lines that the group still owes memory as well;
it waits for every write-back of the cluster that is under way (R222, 11 R243). -/
def State.fenceRelease (s : State) (gk : Nat) (f : Fence) : State :=
  let cl := clusterOf gk
  if f.kind / 2 == 1 && f.paths.testBit 0 && decide (2 ≤ f.scope) then
    let sys := f.scope == 4
    let due := (s.group gk).owed
    let s := s.releaseSet gk sys
    let s := if sys then
        let s := due.foldl (fun s l => (s.send (.memWrite l) cl 0 (s.group gk).place.qidx (toMemory l)).1) s
        s.modGroup gk fun g => { g with atomLines := [], sent := [] }
      else s
    let wbs := s.openWbs cl
    let up := fun (e : Nat × Req) => match e.2.kind with
      | .wb l m d ow p _ => if sys && wbs.contains e.1 then (e.1, { e.2 with kind := .wb l m d ow p true }) else e
      | _ => e
    { s with reqs := s.reqs.map up }.modGroup gk fun g => { g with fence := some { f with released := true, wbs := wbs } }
  else s.modGroup gk fun g => { g with fence := some { f with released := true } }

/-- The write-backs that a fence waits for have gone as far as its scope asks: stamped, or acknowledged. -/
def State.fenceDone (s : State) (f : Fence) : Bool :=
  f.wbs.all fun r => !(s.req r).live || (f.scope == 2 && match (s.req r).kind with
    | .wb .. => false
    | _ => true)

/-- FENCE_COMPLETE (R222, R223, R404): the earlier operations are over and the release part acts; its write-backs are over and the acquire
part acts; a `TFENCE` lets the walks in flight end stale, and then drops the translations. -/
def execFenceComplete (g : Nat) (s : State) : Outcome :=
  let x := s.group g
  let cl := clusterOf g
  match x.fence with
  | none => .next s
  | some f =>
    if !f.released then
      if f.ops.any fun k => x.paths.any fun o => o.op == k && !o.done then .next s
      else
        .next (s.fenceRelease g f)
    else if !s.fenceDone f then .next s
    else if f.translation then
      let r := tfenceReach x cl f.scope
      if !f.dropping then .next ((s.staleWalks x cl f.scope).modGroup g fun x => { x with fence := some f.drop }) else
      if s.walks.any fun e => e.2.live && e.2.stale && (e.2.clusters.any r.1 || r.2 e.2.die) then .next s
      else .next ((s.dropTlbs x cl f.scope).modGroup g fun x => { x with fence := none })
    else
      let s := if f.kind % 2 == 1 && f.paths.testBit 0 && decide (2 ≤ f.scope) then s.acquireL1 cl else s
      .next (s.modGroup g fun x => { x with fence := none })

/-- WRITE_ACK_RECEIPT (R404): the acknowledgement of a write-back or an atomic step is at the cluster that sent it. -/
def execWriteAckReceipt (req : Nat) (s : State) : Outcome :=
  let r := s.req req
  match r.live && r.legs.isEmpty, r.kind with
  | true, .ack =>
    let s := (s.setReq req {}).dropOpReq r.op req
    match (s.op r.op).live, (s.op r.op).kind with
    | true, .l1maint _ => .next (s.endOp r.op)
    | _, _ => .next s
  | _, _ => .next s

/-! ### L1 maintenance (R225) -/

/-- `L1WB` and `L1INV`: the line's dirty bytes are written back; the word completes with their acknowledgement, or at once. -/
def l1Word (i : Instr) (a : BitVec 8) (inval : Bool) (s : State) : Outcome :=
  issue i s fun s => .next (unlessTx s fun s =>
    s.oneAccess {} 1 1 (s.seen.gpair a.toNat).toNat fun s pa =>
      let cl := s.myCluster
      let l := pa / 256
      let (s, k) := s.newOp { kind := .l1maint l, path := pGLOB }
      let (s, r) := s.writeBack cl l k false
      let s := s.dropRelease cl l
      let s := if inval && (s.l1Line cl l).live then s.setL1 cl l ((s.l1Line cl l).dropClean [0, 1, 2, 3]) else s
      if r == 0 then s.endOp k else s)

/-- `L1WB` (R225). -/
def execL1wb (a : BitVec 8) (s : State) : Outcome := l1Word (.l1wb a) a false s
/-- `L1INV` (R225). -/
def execL1inv (a : BitVec 8) (s : State) : Outcome := l1Word (.l1inv a) a true s

/-! ### Pins (R224, 09 R199) -/

/-- `PIN` and `UNPIN`. -/
def pinWord (i : Instr) (d : BitVec 7) (a : BitVec 8) (un : Bool) (s : State) : Outcome :=
  issue i s fun s => .next (unlessTx s fun s =>
    s.oneAccess { rd := true } 1 1 (s.seen.gpair a.toNat).toNat fun s pa =>
      (s.newOp { kind := .pin d.toNat (pa / 256) un, path := pGLOB, gdst := [d.toNat] }).1)

/-- `PIN` (R224). -/
def execPin (d : BitVec 7) (a : BitVec 8) (s : State) : Outcome := pinWord (.pin d a) d a false s
/-- `UNPIN` (R224). -/
def execUnpin (d : BitVec 7) (a : BitVec 8) (s : State) : Outcome := pinWord (.unpin d a) d a true s

/-- Lines of a die's slices that a context has pinned. -/
def State.pinned (s : State) (die qidx : Nat) : Nat :=
  s.slices.foldl (fun n e => if e.1 / 32 == die then n + (e.2.lines.filter fun l => l.2.pins.contains qidx).length else n) 0

/-- What a `PIN` of a line that the slice holds returns (09 R199): 0 OK, 1 PIN_FULL, 2 PIN_QUOTA, in this order. -/
def State.pinStatus (s : State) (die l qidx : Nat) : Nat :=
  let x := s.slice (die * 32 + sliceNo (l * 256))
  let ln := x.line l
  let ways := s.waysOf die qidx
  let others := ((x.sameSet l).filter fun e => e.1 != l && !e.2.pins.isEmpty && ways.contains e.2.way).length
  let count := others + if ways.contains ln.way then 1 else 0
  let quota := ((s.resv.get {} (die * 4096 + qidx)).share).map Share.pinq
  if ln.pins.contains qidx then 0
  else if ln.pins.isEmpty && decide (ways.length ≤ max 1 count) then 1
  else match quota with
    | some q => if q < s.pinned die qidx + 1 then 2 else 0
    | none => 0

/-- PIN_RESULT (R224): a line that the slice lacks is filled first, whole, at the issuer's charge; then the pin is taken or given up, and the
status written. -/
def execPinResult (op : Nat) (s : State) : Outcome :=
  let o := s.op op
  match o.live, o.kind with
  | true, .pin d l un =>
    let die := dieOf o.cluster
    let key := die * 32 + sliceNo (l * 256)
    let ln := (s.slice key).line l
    let done := fun (s : State) (c : Nat) => .next ((s.give op fun g => g.setG d (BitVec.ofNat 32 c)).finish op)
    let put := fun (pins : List Nat) => s.modSlice key fun x => { x with lines := x.lines.set {} l { x.line l with pins := pins } }
    if un then
      if ln.live && ln.pins.contains o.qidx then done (put (ln.pins.filter (· != o.qidx))) 0 else done s 3
    else if !ln.live || (ln.valid == 0 && ln.dirty == 0 && ln.pins.isEmpty) then
      .next (((List.range 4).foldl (fun s k => s.askFill die (l * 4 + k) o.cluster o.qidx 64 0) s).setOp op { o with pos := 1 })
    else
      let c := s.pinStatus die l o.qidx
      let s := if o.pos == 1 then s.charge o.cluster o.qidx (256 * 38000) else s
      done (if c == 0 && !ln.pins.contains o.qidx then put (ln.pins ++ [o.qidx]) else s) c
  | _, _ => .next s

/-! ### WAITC (17 R338) -/

/-- `WAITC` (17 R338). It acts after the other words of its packet, which have raised their counters. -/
def execWaitc (path : BitVec 7) (a : BitVec 8) (s : State) : Outcome :=
  issue (.waitc path a) s fun s =>
    let t := (s.gsrc a).toNat
    .next ((s.chargeMe eG1).modMe fun g =>
      if g.counter path.toNat ≤ t then g else { g with wait := .counter path.toNat t })

end Sys2Proof.Machine
end

