-- ==== Sys2Proof/Machine/Waits.lean ====
section
/-! DEFINITION. Waiting: `WAITU`, `BARW`, `STAGEA` and their wakes and timeouts; barrier objects, stage rings, receiver rings: `BARI`, `BARA`,
`BARX`, `STAGER`, `RINGADV`, `LQRD` (14 R289 to R305, 17 R339 to R344, 12 R259 to R269). -/

namespace Sys2Proof.Machine

/-- The declared bound of a wait at the moving packet, from the wait-bound table of the launch, which is keyed by slot, block and packet (14
Table 14-1): of segments that share a slot, the one that the strand runs. Without an entry the timeout stands. -/
def State.waitBound (s : State) : Nat :=
  let st := s.str
  let i := s.myImage
  let slot := fun (n : Nat) => ((i.segs.find? fun g => g.num == n).map fun g => if g.slot == 0xFF then n else g.slot).getD n
  let here := i.waitb.filter fun e => slot e.1 == pcSlot st.pc && e.2.1 == pcBlk st.pc && e.2.2.1 == pcPk st.pc
  match here.find? fun e => e.1 == st.seg with
  | some e => e.2.2.2
  | none => (here.head?.map fun e => e.2.2.2).getD (2 ^ 32 - 1)

/-- The record of a wait that the moving word opens. -/
def State.waitRec (s : State) (d : Nat) (timeout addr op : Nat) : WaitRec :=
  { d := d, capped := decide (s.waitBound < timeout), strand := s.cur.strand, word := s.cur.word, pc := s.str.pc, addr := addr, op := op }

/-- Cycles at a level in ns, rounded up. -/
def cyclesNs (lvl n : Nat) : Nat := let r := if lvl == 0 then 6 else if lvl == 1 then 12 else 15; (n * 10 + r - 1) / r

/-! ### WAITU on a slice (14 R290 to R299) -/

/-- Monitor entries of a slice that reservations hold (R291). -/
def State.reservedMon (s : State) (key : Nat) : Nat :=
  s.resv.foldl (fun n e => if e.1 / 4096 == key / 32 && e.2.live then match e.2.share with
    | some h => if h.slices.getLsbD (key % 32) then n + h.mon else n
    | none => n else n) 0

/-- The address lies in a wait range of the moving group's launch (14 R291). -/
def State.inWaitRange (s : State) (va : Nat) : Bool :=
  (s.launch s.seen.place.launch).ranges.any fun r => r.wait && decide (r.base ≤ va) && decide (va < r.base + r.len)

/-- The lowest free entry of a slice's table. -/
def Slice.freeEntry (x : Slice) : Nat := ((List.range 512).find? fun k => !(x.mon.get {} k).v).getD 511

/-- Entries of a slice that a context may hold under its reservation (14 R291). -/
def State.monShare (s : State) (key qidx : Nat) : Nat :=
  match (s.resv.get {} (key / 32 * 4096 + qidx)).share with
  | some h => if h.slices.getLsbD (key % 32) then h.mon else 0
  | none => 0
/-- Entries of a slice's table that no reservation and no tail watch holds. -/
def Slice.loose (x : Slice) : Nat := (x.mon.filter fun m => !m.2.rsv && m.2.tgt != 2).length

/-- Registration of an entry: into the table where it has room for it, else into the chain; none when both are full (14 R291, R298, R299,
R303). A wait counts against its context's reservation as far as that reaches; 480 entries are for reservations and unreserved waits
together, 32 for tail watches. True says that it is spilled. -/
def State.register (s : State) (key : Nat) (e : MonEntry) : Option (State × Bool) :=
  let x := s.slice key
  let own := (x.mon.filter fun m => m.2.tgt == 2).length
  let e := { e with rsv := e.rsv && decide ((x.mon.filter fun (m : Nat × MonEntry) => m.2.rsv && m.2.qidx == e.qidx).length < s.monShare key e.qidx) }
  let room := e.rsv || (if e.tgt == 2 then decide (own < 32) else decide (x.loose + s.reservedMon key < 480))
  if room && decide (x.mon.length < 512) then
    some (s.modSlice key fun x => { x with mon := x.mon.set {} x.freeEntry { e with v := true } }, false)
  else if e.tgt == 2 || decide ((x.spill.filter fun m => m.tgt != 2).length < 1024) then
    some (s.modSlice key fun x => { x with
      spill := x.spill ++ [{ e with v := true }], filter := x.filter.set false (Config.spillHash e.waddr % 8192) true }, true)
  else none

/-- `WAITU` at a physical address: registration and check in one step (R293, R296). The status of a wait that is decided at once, and poison
that the check consumes, are delivered by WAITU_WAKE. -/
def State.openWait (s : State) (cmp : Nat) (sz : Bool) (d a va pa : Nat) : State :=
  let g := s.seen
  let key := orderKey pa
  let timeout := (g.greg (a + 4)).toNat
  let r := { s.waitRec d timeout va 0 with pa := pa }
  let t := min timeout s.waitBound
  let cl := s.myCluster
  let opnd : Dword := if sz then g.gpair (a + 2) else (g.greg (a + 2)).zeroExtend 64
  let e : MonEntry := { v := true, opnd := opnd, waddr := pa, cmp := cmp, sz := sz, rsv := s.inWaitRange va, qidx := g.place.qidx
                        exp := s.time.toNat + cyclesNs (s.cluster cl).power.level t, who := s.cur.group, team := g.place.team }
  let n := if sz then 8 else 4
  let (v, _) := s.watched pa sz
  let s := s.chargeMe (30000 + if isVault pa then vaultCost cl pa n else sliceCost cl pa n)
  let wait := fun (s : State) (spilled : Bool) (o : Option (Nat × Nat)) => s.modMe fun g =>
    { g with wait := .monitor key spilled { r with outcome := o.map fun x => (x.1, BitVec.ofNat 32 x.2) } }
  match s.monHit e with
  | some o => wait s false (some o)
  | none =>
    if t == 0 then wait s false (some (1, v))
    else match s.register key e with
      | some (s, spilled) => wait s spilled none
      | none => wait s false (some (2, v))

/-- The right group's `WAITU` takes the values that the left one's returned (18 R364). -/
def State.takeWait (s : State) (p d va : Nat) : State :=
  match (s.group p).fwd with
  | e :: t =>
    if e.open' then s.missed
    else
      let s := s.modGroup p fun g => { g with fwd := t }
      let r : WaitRec := { d := d, strand := s.cur.strand, word := s.cur.word, pc := s.str.pc, addr := va }
      let code := if e.poison != 0 then 3 else e.vals.get 0 0 % 256
      let r := { r with capped := decide (256 ≤ e.vals.get 0 0), outcome := some (code, BitVec.ofNat 32 (e.vals.get 0 1)) }
      s.modMe fun g => { g with wait := .monitor 0 false r }
  | [] => s.missed

/-- A `WAITU` in a pair: the right group's takes what the left one's has returned, and the left one's keeps a place for it in the forwarding
queue (18 R364); each waits for a partner of its width (log 82). -/
def State.pairWait (s : State) (d va : Nat) (k : State → State) : State :=
  match s.partner s.cur.group with
  | none => if s.pairedMe then s.missed else k s
  | some p =>
    if s.rightMe then s.takeWait p d va
    else if 256 ≤ s.me.fwd.length then s.missed
    else
      let t := k s
      if t.cur.miss then t else t.modMe fun g => { g with fwd := g.fwd ++ [{ wait := true, vals := [] }] }

/-- The scratchpad entry of the moving group, checked in the step that registers it (14 R304): kind, address, condition, operand. -/
def State.openScratch (s : State) (kind d a cmp : Nat) (sz : Bool) (opnd : Dword) (timeout op : Nat) (buffer : Word) : State :=
  let r := s.waitRec d timeout a op
  let t := min timeout s.waitBound
  let cl := s.myCluster
  let team := s.seen.place.team
  let e : ScrEntry := { v := true, opnd := opnd, saddr := a, cmp := cmp, sz := sz, kind := kind, expc := s.clk cl + t, team := team }
  let wait := fun (s : State) (o : Option (Nat × Nat)) => s.modMe fun g =>
    { g with wait := .scratch kind buffer { r with outcome := o.map fun x => (x.1, BitVec.ofNat 32 x.2) } }
  match scrHit (s.team team) e with
  | some o => wait s (some o)
  | none =>
    if t == 0 then wait s (some (1, (s.team team).read a 4))
    else wait (s.modCluster cl fun c => { c with scr := c.scr.set {} (s.cur.group % 64) e }) none

/-- `WAITU` (R292 to R297). -/
def execWaitu (cmp : BitVec 3) (sp : BitVec 2) (sz : Bool) (d a : BitVec 7) (s : State) : Outcome :=
  issue (.waitu cmp sp sz d a) s fun s => .next (unlessTx s fun s =>
    let g := s.seen
    let n := if sz then 8 else 4
    if sp == 2 then
      let x := (g.greg a.toNat).toNat
      if x % n != 0 then s.trapWord .alignData none 0 x
      else if s.myTeam.size < x + n then s.trapWord .perm none 0 x
      else
        let opnd : Dword := if sz then g.gpair (a.toNat + 2) else (g.greg (a.toNat + 2)).zeroExtend 64
        s.pairWait d.toNat x fun s =>
          (s.chargeMe (30000 + 6000 * n)).openScratch 0 d.toNat x cmp.toNat sz opnd (g.greg (a.toNat + 4)).toNat 0 0
    else
      let va := (g.gpair a.toNat).toNat
      s.oneAccess { vault := sp == 1, rd := true } n n va fun s pa =>
        s.pairWait d.toNat va fun s =>
          if isGlobal pa && (s.lineBusy (pa / 256) 0 || s.wbAhead s.myCluster (pa / 256)) then s.missed
          else s.openWait cmp.toNat sz d.toNat a.toNat va pa)

/-- The group halts with POISON at the packet of its wait (R297). -/
def State.poisonWait (s : State) (gk : Nat) (r : WaitRec) : State :=
  (s.modGroup gk fun g => g.wake r 3 0).takeTrap gk r.strand
    { kind := .poison, word := r.word, addr := r.addr, pc := r.pc }

/-- WAITU_WAKE (R293, R295, R297): the decided status and value are written, and the group is ready; consumed poison halts it. A value read at a
home slice leaves no older clean copy in the cluster's L1 (11 R236; log 76). A wake that finds the team being saved stands in the group's
record (14 R300, 22 R394). -/
def execWaituWake (e : Nat) (s : State) : Outcome :=
  let g := s.group e
  match g.wait with
  | .monitor _ _ r => match r.outcome with
    | some (code, v) =>
      if (s.team g.place.team).phase == .saving then .next s
      else if code == 3 then .next (s.poisonWait e r)
      else
        let s := if isGlobal r.pa then s.freshen (clusterOf e) (r.pa / 64) else s
        .next ((s.modGroup e fun g => g.wake r code v).enterLatch e 2 (sharedLatch g 64 (v ++ BitVec.ofNat 32 (waitStatus r code))))
    | none => .next s
  | _ => .next s

/-- WAITU_TIMEOUT: device time has passed EXP of a resident entry of a slice: TIMEOUT with the value of its last evaluation, which is what the
word holds, since every write to it is evaluated (R293, R294, R301). The entry is number e modulo 1,024 of slice e / 1,024. -/
def execWaituTimeout (e : Nat) (s : State) : Outcome :=
  let key := e / 1024
  let m := (s.slice key).mon.get {} (e % 1024)
  if m.v && m.tgt != 2 && decide (m.exp ≤ s.time.toNat) then
    let s' := s.modSlice key fun x => { x with mon := x.mon.set {} (e % 1024) {} }
    .next (s'.decideWait m 1 (s.watched m.waddr m.sz).1)
  else .next s

/-- One entry of the chain as a walk finds it: decided, or left. -/
def State.walkEntry (s : State) (e : MonEntry) : Option (Nat × Nat) :=
  match s.monHit e with
  | some o => some o
  | none => if e.tgt != 2 && decide (e.exp ≤ s.time.toNat) then some (1, (s.watched e.waddr e.sz).1) else none

/-- A walk of a slice's chain is due: a write has hit the filter, or device time has passed the earliest expiry (R298). -/
def State.walkOpen (s : State) (slice : Nat) : Bool :=
  let x := s.slice slice
  x.walkDue || x.spill.any fun e => e.tgt != 2 && decide (e.exp ≤ s.time.toNat)

/-- SPILL_WALK (R298): every entry of the chain is evaluated, those decided go, and the filter clears with an empty chain. -/
def execSpillWalk (slice : Nat) (s0 : State) : Outcome :=
  if !s0.walkOpen slice then .next s0
  else
  let chain := (s0.slice slice).spill
  let s := chain.foldl (State.chargeEval · slice ·) s0
  let left := chain.filter fun e => (s.walkEntry e).isNone
  let s' := s.modSlice slice fun x => { x with spill := left, walkDue := false, filter := if left.isEmpty then [] else x.filter }
  .next (chain.foldl (fun t e => match s.walkEntry e with
    | some (c, v) => t.decideWait e c v
    | none => t) s')

/-! ### Barrier objects and rings (17 R339 to R344, 12 R262 to R269) -/

/-- Synchronisation objects of a kind in an image, by base. -/
def Image.syncAt (i : Image) (kind a : Nat) : Option Sync := i.syncs.find? fun y => y.kind == kind && y.base == a

/-- A word at a declared object of the scratchpad: ALIGN to 16, PERM for an address that names none. -/
def scrObject (i : Instr) (a : BitVec 8) (ok : State → Nat → Bool) (cost : Nat) (k : State → Nat → State) (s : State) : Outcome :=
  issue i s fun s => .next (unlessTx s fun s =>
    let x := (s.seen.greg a.toNat).toNat
    if x % 16 != 0 then s.trapWord .alignData none 0 x
    else if decide (s.myTeam.size < x + 16) || !ok s x then s.trapWord .perm none 0 x
    else k (s.chargeMe (eG1 + 6000 * cost)) x)

/-- A `.barrier` object. -/
def isBarrier (s : State) (x : Nat) : Bool := (s.myImage.syncAt 0 x).isSome
/-- A `.barrier` object, or FILL or DRAIN of a stage ring. -/
def isAnyBarrier (s : State) (x : Nat) : Bool := s.myImage.barriers.contains x
/-- A stage ring. -/
def isStage (s : State) (x : Nat) : Bool := (s.myImage.syncAt 2 x).isSome
/-- A receiver ring. -/
def isRing (s : State) (x : Nat) : Bool := (s.myImage.syncAt 1 x).isSome

/-- A scratchpad word that completes when the port has done its step. -/
def State.portDone (s : State) : State := (s.newOp { kind := .store 2 0 [], path := pSCR }).1

/-- The word traps at its port step: it has no effect and is not counted. -/
def State.portTrap (s : State) : State := s.trapWord .format

/-- Arrivals that a count register gives: 0 stands for the lanes of EXM without helper lanes (R342). -/
def State.arrivals (s : State) (a : BitVec 8) : Nat :=
  let c := (s.seen.greg (a.toNat + 1)).toNat % 2048
  if c == 0 then popcount s.act else c

/-- `BARI` (R342). -/
def execBari (a : BitVec 8) (s : State) : Outcome :=
  scrObject (.bari a) a isBarrier 16 (fun s x =>
    let exa := (s.seen.greg (a.toNat + 1)).toNat
    let exb := (s.seen.greg (a.toNat + 2)).toNat
    if 2048 ≤ exa || (exa == 0 && exb == 0) then s.portTrap
    else
      (s.scrWrite s.seen.place.team x (field 4 0 ++ field 4 exa ++ field 4 0 ++ field 4 exb) false false).portDone) s

/-- `BARA` (R342): word 0 before the step; it writes no latch. -/
def execBara (d : BitVec 7) (a : BitVec 8) (s : State) : Outcome :=
  scrObject (.bara d a) a isAnyBarrier 16 (fun s x =>
    let team := s.seen.place.team
    let w0 := (s.team team).read x 4
    ((s.barrierUpdate team x (s.arrivals a) 0).modMe fun g => g.setG d.toNat (BitVec.ofNat 32 w0)).portDone) s

/-- `BARX` (R342). -/
def execBarx (a : BitVec 8) (s : State) : Outcome :=
  scrObject (.barx a) a isAnyBarrier 16 (fun s x =>
    let team := s.seen.place.team
    let t := s.team team
    let exa := t.read (x + 4) 4 % 2048
    let exb := t.read (x + 12) 4
    let c := s.arrivals a
    if exa < c || (exa == c && exb == 0) then s.portTrap
    else ((s.scrPut team (x + 4) (field 4 (exa - c)) false false).barrierUpdate team x 0 0).portDone) s

/-- `BARW` (14 R305). -/
def execBarw (d : BitVec 7) (a : BitVec 8) (s : State) : Outcome :=
  scrObject (.barw d a) a isAnyBarrier 16 (fun s x =>
    let want : Dword := (s.seen.greg (a.toNat + 1) &&& 1).zeroExtend 64
    let (s, k) := s.newOp { path := pSCR }
    s.openScratch 1 d.toNat x 0 false want (s.seen.greg (a.toNat + 2)).toNat k 0) s

/-- `STAGEA` (12 R269). -/
def execStagea (d : BitVec 7) (a : BitVec 8) (s : State) : Outcome :=
  scrObject (.stagea d a) a isStage 16 (fun s x =>
    let t := s.myTeam
    let n := t.read x 4 % 16 + 1
    let p := (s.seen.greg (a.toNat + 1)).toNat
    let k := p % n
    let q := p / n
    let producer := s.seen.place.role == .copy
    let b := t.read (x + 4) 4 + 32 * k + if producer then 16 else 0
    let want : Dword := BitVec.ofNat 64 (if producer then q % 2 else (q + 1) % 2)
    let buf := BitVec.ofNat 32 (t.read (x + 12) 4 + k * t.read (x + 8) 4)
    let (s, op) := s.newOp { path := pSCR }
    s.openScratch 2 d.toNat b 0 false want (s.seen.greg (a.toNat + 2)).toNat op buf) s

/-- `STAGER` (12 R269): one arrival. -/
def execStager (a : BitVec 8) (s : State) : Outcome :=
  scrObject (.stager a) a isStage 16 (fun s x =>
    let t := s.myTeam
    let k := (s.seen.greg (a.toNat + 1)).toNat % (t.read x 4 % 16 + 1)
    let b := t.read (x + 4) 4 + 32 * k + if s.seen.place.role == .copy then 0 else 16
    (s.barrierUpdate s.seen.place.team b 1 0).portDone) s

/-- `RINGADV` (12 R267). -/
def execRingadv (k : BitVec 7) (a : BitVec 8) (s : State) : Outcome :=
  scrObject (.ringadv k a) a isRing 8 (fun s x =>
    let team := s.seen.place.team
    let t := s.team team
    let head := t.read (x + 12) 4
    if (t.read (x + 8) 4 + 2 ^ 32 - head) % 2 ^ 32 < k.toNat then s.portTrap
    else (s.scrWrite team (x + 12) (field 4 (head + k.toNat)) false false).portDone) s

/-- `LQRD` (12 R261): the free count and the address of the team control block; the count enters L2. -/
def execLqrd (d : BitVec 7) (s : State) : Outcome :=
  issue (.lqrd d) s fun s =>
    let t := s.myTeam
    let free := BitVec.ofNat 32 (4 - t.pend.length)
    let s := (s.chargeMe eG1).modMe fun g => (g.setG d.toNat free).setG (d.toNat + 1) (BitVec.ofNat 32 t.tcb)
    .next (s.enterLatch s.cur.group 2 (sharedLatch s.me 32 (free.zeroExtend 64)))

/-! ### The scratchpad monitor (14 R304) -/

/-- SCRATCHPAD_MONITOR_WAKE: the decided wait gives its status, and the group is ready (R304); a `WAITU.S` writes its pair to L2 too. Consumed
poison halts the group. -/
def execScratchpadMonitorWake (g : Nat) (s : State) : Outcome :=
  let x := s.group g
  match x.wait with
  | .scratch kind buf r => match r.outcome with
    | some (code, v) =>
      let s := if r.op == 0 then s else s.endOp r.op
      if code == 3 then .next (s.poisonWait g r)
      else
        let s := s.modGroup g fun x => x.wakeScratch kind buf r code v
        .next (if kind == 0 then s.enterLatch g 2 (sharedLatch x 64 (v ++ BitVec.ofNat 32 (waitStatus r code))) else s)
    | none => .next s
  | _ => .next s

/-- SCRATCHPAD_MONITOR_EXPIRY: the cluster's clock has passed the expiry of the entry of a group (R304). -/
def execScratchpadMonitorExpiry (g : Nat) (s : State) : Outcome :=
  let cl := clusterOf g
  let e := (s.cluster cl).scr.get {} (g % 64)
  if e.v && decide (e.expc ≤ s.clk cl) then
    .next ((s.modCluster cl fun c => { c with scr := c.scr.set {} (g % 64) {} }).decideScratch g 1
      ((s.team e.team).read e.saddr 4))
  else .next s

/-- BARRIER_ABANDON_MARK (17 R344, 24 R401): the next barrier object of a team that saw a halt: ABN set, the phase flipped, the counts zero. -/
def execBarrierAbandonMark (team : Nat) (s : State) : Outcome :=
  let t := s.team team
  match t.marks with
  | [] => .next s
  | (_, b) :: rest =>
    let w0 := t.read b 4
    let ph := if barrierPhase w0 then 0 else 2 ^ 31
    let s := s.setTeam team { t with marks := rest }
    .next (s.scrWrite team b (field 4 (2 ^ 30 + ph) ++ field 4 (t.read (b + 4) 4) ++ field 4 0) false false)

end Sys2Proof.Machine
end

