-- ==== Sys2Proof/Machine/Records.lean ====
section
/-! DEFINITION. What the front end writes: completion records and signed records; and the entries of the quotation and
reservation tables as they come and go (12 R257, 16 R330 to R334, 20 R390). -/

namespace Sys2Proof.Machine

/-- The owner tag and quotation index of firmware and the front end (09 R200, 20 R382). -/
def fwIdx : Nat := 0xFFF

/-- Bytes written at SYS scope where an address is memory; elsewhere nothing stands to be written. -/
def State.put (s : State) (pa : Nat) (bs : List Byte) : State := if memoryAt pa then s.sysWrite pa bs fwIdx else s

/-- A queue. -/
def State.queue (s : State) (q : Nat) : Queue := s.queues.get {} q
/-- A queue changed. -/
def State.modQueue (s : State) (q : Nat) (f : Queue → Queue) : State := { s with queues := s.queues.update {} q f }
/-- A packet. -/
def State.packet (s : State) (pk : Nat) : Packet := s.packets.get {} pk
/-- A packet changed. -/
def State.modPacket (s : State) (pk : Nat) (f : Packet → Packet) : State := { s with packets := s.packets.update {} pk f }

/-! ### Completion records (12 R257) -/

/-- A completion record: SEQ and datum first, the status word last. -/
def State.completion (s : State) (cpa : Nat) (seq : Word) (status datum : Nat) : State :=
  if cpa == 0 || cpa % 16 != 0 then s else (s.put (cpa + 4) (field 4 seq.toNat ++ field 8 datum)).put cpa (field 4 status)

/-- HEAD of a queue moves past a packet. -/
def State.advanceHead (s : State) (q len : Nat) : State :=
  let Q := s.queue q
  s.put (Q.desc + 16) (field 4 (descHead (s.descriptor Q) + len))

/-- A packet is over: HEAD passes it if it still stands there, its record is written, and its queue forgets it. -/
def State.complete (s : State) (pk status datum : Nat) : State :=
  let p := s.packet pk
  let s := if p.atHead then s.advanceHead p.queue p.len else s
  let s := s.completion p.cpa p.seq status datum
  { s.modQueue p.queue (fun q => { q with packets := q.packets.filter (· != pk) }) with packets := s.packets.set {} pk {} }

/-- The datum of a LAUNCH that has not started (12 Table 12-4a): OUT 5. -/
def notStarted : Nat := 5

/-- LAUNCH packets of a quotation that have not started complete with STALE, and what waits for a place of theirs goes (16 R330). -/
def State.dropWaiting (s : State) (qi : Nat) (takenOnly : Bool) : State :=
  let waits := s.packets.keys.filter fun pk =>
    let p := s.packet pk
    p.live && p.type == 4 && !p.started && leNat (p.body.take 2) == qi && (p.placing || !takenOnly)
  let s := waits.foldl (fun s pk => s.complete pk 4 notStarted) s
  { s with launches := s.launches.filter fun e => !waits.contains e.2.packet }

/-! ### Signed records (16 R333, 20 R390) -/

/-- A chain of capability entries, the first of which stands at a given number of 8-byte units; version 1 of each (20 R385, Table 20-3). -/
def capChain : Nat → List (Nat × List Byte) → List Byte
  | _, [] => []
  | at', (id, body) :: t =>
    let n := 1 + (body.length + 7) / 8
    let next := if t.isEmpty then 0 else at' + n
    field 2 id ++ field 2 1 ++ field 2 body.length ++ field 2 next ++ body ++ List.replicate (8 * n - 8 - body.length) 0 ++ capChain (at' + n) t

/-- Loop membership and station order (19 R368): the 48 × 40 bit matrix, a row of five bytes for each station, and then for each loop the number of
its stations and their numbers in order (DESIGN CHOICE: the spec gives the body no layout; log 38). -/
def loopBody : List Byte :=
  let row := fun (n : Nat) => (List.range 40).foldl (fun v l => if (Config.loopStations l).contains n then v + 2 ^ l else v) 0
  (List.range 48).flatMap (fun n => field 5 (row n)) ++ (List.range 40).flatMap fun l =>
    let st := Config.loopStations l
    field 1 st.length ++ st.flatMap fun n => field 1 n

/-- What capability entry 4 holds: the identity public key and the device serial. -/
def identityBody (die : Nat) : List Byte := Config.identityKey die ++ Config.serial

/-- The capability list of a die (20 R385, Table 20-4): its disabled sites and the firmware cluster's (01 R14), its loops, the firmware version
with its digest, the identity, the record key in use with the next leaf, the Ultra Ethernet and the PTP options, 64 filters for each port (log
38). -/
def Die.capabilities (d : Die) (die version : Nat) : Tab Byte :=
  Tab.writeList [] 0 ((capChain 0 ((1, field 16 d.disabled.toNat ++ field 1 d.fwSite) :: (2, loopBody)
    :: (3, field 8 version ++ Config.firmwareDigest version) :: (4, identityBody die) :: (5, Config.recordKey die d.keys ++ field 8 d.leaf)
    :: (6, Config.etherOptions die) :: (7, Config.ptpOptions die) :: [(8, List.replicate 16 64)])).take 61440)

/-- DEVID of a die. -/
def devid (die : Nat) : List Byte := Config.shake256 (identityBody die)

/-- The 16 bytes that a record holds for a die's share. -/
def shareBytes (plan : List Share) (d : Nat) : List Byte :=
  match plan.find? fun h => h.die == d with
  | none => field 16 0
  | some h => field 2 (((List.range 128).filter fun i => h.cmask.getLsbD i).length) ++ field 1 (h.floor * 16 + h.cap) ++ field 1 h.ways
      ++ field 2 h.hbmt ++ field 2 h.fabs ++ field 2 h.mon ++ field 2 (min h.dust 65535) ++ field 2 (min h.pwr 65535) ++ field 2 0

/-- The body of a record (Table 16-10). -/
def recordBody (kind qidx now : Nat) (q : QEntry) (mt me : Nat) (causes : List (Nat × Nat)) (devid : List Byte) (leaf : Dword) : List Byte :=
  let four := (List.range 4).map fun i => causes.getD i (0, 0)
  field 4 kind ++ field 4 qidx ++ field 8 now ++ (List.range 32).map (fun i => q.digest.getD i 0) ++ field 8 q.tmax ++ field 8 q.emax
    ++ field 8 q.ddl ++ field 8 q.vdl ++ (List.range 4).flatMap (shareBytes q.plan) ++ field 8 mt ++ field 8 me
    ++ four.flatMap (fun c => field 1 c.1 ++ field 1 (if c.1 == 0 then 0 else causeParty c.1) ++ field 2 0)
    ++ four.flatMap (fun c => field 4 (c.2 / 1000)) ++ (List.range 32).map (fun i => devid.getD i 0) ++ field 8 leaf.toNat ++ field 24 0

/-- The next leaf of a die's record key, and the key that signs with it; none once the identity key is exhausted (20 R390). -/
def Die.nextLeaf (d : Die) : Option (Nat × Die) :=
  if 2 ^ 20 ≤ d.keys then none
  else some (d.leaf, if d.leaf + 1 == 960 then { d with leaf := 0, keys := d.keys + 1 } else { d with leaf := d.leaf + 1 })

/-- 2,500 bytes of a signature. -/
def signatureBytes (key leaf : Nat) (body : List Byte) : List Byte :=
  let g := Config.sign (key * 1024 + leaf) body
  (List.range 2500).map fun i => g.getD i 0

/-- Something of a die signed: a body that takes its leaf, and the bytes with the signature behind them; the capability list names the next
leaf. -/
def State.signed (s : State) (die : Nat) (body : Dword → List Byte) : State × List Byte :=
  match (s.die die).nextLeaf with
  | none => (s, body 0xFFFFFFFFFFFFFFFF)
  | some (leaf, d) =>
    let b := body (BitVec.ofNat 64 leaf)
    (s.setDie die { d with caps := if d.caps.isEmpty then [] else d.capabilities die s.fwVersion }, b ++ signatureBytes (die * 2 ^ 32 + (s.die die).keys) leaf b)

/-- A quotation record (kind 1, at RECA) or a breach record (kind 2, at RECA + 0x1000) of an entry. -/
def State.signRecord (s : State) (die kind qidx mt me : Nat) : State :=
  let q := s.quote qidx
  let (s, bs) := s.signed die (recordBody kind qidx s.time.toNat q mt me (if kind == 1 then [] else q.causes) (devid die))
  s.put (q.reca + 0x1000 * (kind - 1)) bs

/-! ### Table entries (16 R330 to R332) -/

/-- The reservation shares of a context are given back, its pins with them, and the levels of its clusters follow. -/
def State.releaseShares (s : State) (qidx : Nat) : State :=
  let cls := s.reserved qidx
  let s := (List.range 4).foldl (fun (s : State) d => { s with resv := s.resv.set {} (d * 4096 + qidx) {} }) s
  let unpin := fun (l : Nat × L2Line) =>
    if l.2.pins.contains qidx then (l.1, { l.2 with pins := l.2.pins.filter (· != qidx) }) else l
  let s := { s with slices := s.slices.map fun e =>
    if e.2.lines.any (fun l => l.2.pins.contains qidx) then (e.1, { e.2 with lines := e.2.lines.map unpin }) else e }
  cls.foldl State.retarget s

/-- A quotation-table entry is freed, with its reservation. -/
def State.freeEntry (s : State) (qidx : Nat) : State := (s.releaseShares qidx).setQuote qidx {}

/-- L2 ways of a die's slices that reservations hold. -/
def State.waysHeld (s : State) (die : Nat) : Nat :=
  s.resv.foldl (fun m e => if e.1 / 4096 == die && e.2.live then m ||| e.2.wayMask else m) 0
/-- The lowest n ways out of a mask's complement. -/
def freeWays (held n : Nat) : Nat := (((List.range 16).filter fun w => !held.testBit w).take n).foldl (fun m w => m + 2 ^ w) 0

/-- A share is granted on its die. -/
def State.grant (s : State) (qidx : Nat) (h : Share) : State :=
  let e : REntry := { live := true, qidx := qidx, share := some h, wayMask := freeWays (s.waysHeld h.die) h.ways }
  { s with resv := s.resv.set {} (h.die * 4096 + qidx) e }

/-- Shares live on a die. -/
def State.sharesOn (s : State) (die : Nat) : List Share :=
  s.resv.filterMap fun e => if e.1 / 4096 == die && e.2.live then e.2.share else none
/-- A sum over shares. -/
def sumOf (f : Share → Nat) (l : List Share) : Nat := l.foldl (fun n h => n + f h) 0
/-- Power headroom of all live reservations, in W. -/
def State.headroom (s : State) : Nat := (List.range 4).foldl (fun n d => n + sumOf Share.pwr (s.sharesOn d)) 0

/-- The loops on which a share grants its part of the fabric (19 R373). -/
def Share.loops (h : Share) : List Nat :=
  if h.fabs == 0 then [] else loopsOn (((List.range 128).filter h.cmask.getLsbD).map (· / 4)).eraseDups
/-- The shares on each loop of a share add up to at most 448 GB/s with it (19 R373). -/
def Share.fabricFree (h : Share) (there : List Share) : Bool :=
  h.loops.all fun l => decide (2 * (sumOf Share.fabs (there.filter fun x => x.loops.contains l) + h.fabs) ≤ 448)

/-- Every quantity of a share is free on its die (R330, R332). -/
def State.shareFree (s : State) (h : Share) : Bool :=
  let there := s.sharesOn h.die
  let on := fun (k : Nat) => there.filter fun x => x.cmask.getLsbD k
  let slice := fun (k : Nat) =>
    let key := h.die * 32 + k
    let held := h.mon + s.reservedMon key
    !h.slices.getLsbD k || (decide (held ≤ 448) && decide ((s.slice key).loose + held ≤ 480))
  (List.range 128).all (fun k => !h.cmask.getLsbD k || (s.usable (clusterKey h.die k)
      && admits (s.tenants (clusterKey h.die k) fwIdx) h.excl h.maxc && decide (sumOf Share.tlbe (on k) + h.tlbe ≤ 2048)))
    && (List.range 32).all slice && decide (sumOf Share.ways there + h.ways ≤ 12)
    && h.fabricFree there && decide (sumOf Share.hbmt there + h.hbmt ≤ 18000)
    && decide (sumOf Share.lpt there + h.lpt ≤ 460) && decide (sumOf Share.dust there + h.dust ≤ 17166)

end Sys2Proof.Machine
end

