-- ==== Sys2Proof/Machine/Packets.lean ====
section
/-! DEFINITION. Command packets and the life of a quotation: taking a packet, the order in which packets start, and the work of each type but
CHECKPOINT and ROLLBACK (12 R251 to R258, 13 R273, R274, R288, 16 R321 to R334). -/

namespace Sys2Proof.Machine

/-! ### Taking a packet (R253 to R255, 20 R384) -/

/-- A number of the body, from byte o. -/
def Packet.num (p : Packet) (o n : Nat) : Nat := leNat ((p.body.drop o).take n)

/-- The controller of the memory that holds an address is ready, and the links between a die and the die of the address are (20 R384). DESIGN
CHOICE: port n of a die leads to the n-th of the other dies (log 86). -/
def State.placeReady (s : State) (die pa : Nat) : Bool :=
  let h := homeDie pa
  let bit := fun (d b : Nat) => (s.die d).ready.getLsbD b
  let port := fun (a b : Nat) => 24 + if b < a then b else b - 1
  (match regionOf pa with
    | .hbm k => bit (k / 6) (12 + k % 6)
    | .lpddr c => bit (c / 12) (18 + c % 12 / 6)
    | _ => true) && (h == die || (bit die (port die h) && bit h (port h die)))

/-- The physical addresses that a packet names, and the root of the space in which it names others (12 R256). -/
def State.packetPlaces (s : State) (p : Packet) : List Nat :=
  let some' := fun (l : List Nat) => l.filter (· != 0)
  some' [p.cpa] ++ if p.type == 1 then let b := quoteBody p.body; some' [b.img, b.root, b.reca, b.comm]
    else if p.type == 5 || p.type == 6 || p.type == 7 then [(s.queue p.queue).root] else []

/-- The functions that a packet needs are ready (20 R382, R384): the front end; the quotation table on D0 for QUOTE, ACCEPT, DECLINE and LAUNCH,
and the die's Milliner for a QUOTE; the primary firmware for QUOTE, ACCEPT, CHECKPOINT and ROLLBACK; the spill list for a LAUNCH, whose waits
may need it; the controllers and links of the places that it names. DESIGN CHOICE: the spec does not list what a packet needs (log 86). -/
def State.functionsReady (s : State) (p : Packet) : Bool :=
  let bit := fun (d b : Nat) => (s.die d).ready.getLsbD b
  bit p.die 6 && (p.type != 1 || bit p.die 5) && (4 < p.type || bit 0 5) && (!([1, 2, 9, 10].contains p.type) || bit 0 7)
    && (p.type != 4 || bit p.die 4) && (s.packetPlaces p).all (s.placeReady p.die)

/-- A packet whose header or body makes it a BADPACKET by itself (R255, 18 Table 18-2, 16 R321, R322): h is the header as a number. -/
def packetBad (h : Nat) (body : List Byte) : Bool :=
  let type := h % 256
  let len := bits h 31 24
  let rest := fun (n : Nat) => (body.drop n).any (· != 0)
  type == 0 || decide (10 < type) || len == 0 || decide (4 < len) || bits h 14 8 != 0 || decide (4 < bits h 22 20) || decide (4 < bits h 18 16)
    || match type with
      | 1 => len != 4
      | 2 => rest 2
      | 3 => rest 2
      | 4 => len != 1 || decide (2 < (body.getD 2 0).toNat) || decide (7 < (body.getD 3 0).toNat) || rest 4
      | 6 => decide (1 < (body.getD 12 0).toNat)
      | 9 => len != 1 || rest 2
      | 10 => len != 1 || rest 2
      | _ => false

/-- The watch on a queue's TAIL is registered again, with the TAIL last read (14 R303). -/
def State.watchTail (s : State) (q : Nat) : State :=
  let Q := s.queue q
  let key := homeSlice (Q.desc + 20)
  let mine := fun (e : MonEntry) => e.tgt == 2 && e.who == q
  let s := s.modSlice key fun x => { x with mon := x.mon.filter fun e => !mine e.2, spill := x.spill.filter fun e => !mine e }
  let tail := descTail (s.descriptor Q)
  let e : MonEntry := { v := true, opnd := BitVec.ofNat 64 tail, waddr := Q.desc + 20, cmp := 1, tgt := 2, qidx := fwIdx, exp := 2 ^ 64, who := q }
  let s := match s.register key e with | some r => r.1 | none => s
  s.modQueue q fun Q => { Q with tail := BitVec.ofNat 32 tail, hit := false }

/-- QUEUE_PACKET_TAKE (R253): the front end reads the packet at HEAD once every packet before it has started; a queue with nothing new has
its TAIL watched again; a TAIL too far ahead stops the queue. A WAIT stays at HEAD until its page is found, and a packet that needs a function
which is not ready until it is (13 R288, 20 R384). -/
def execQueuePacketTake (q : Nat) (s : State) : Outcome :=
  let Q := s.queue q
  let d := s.descriptor Q
  let slot := fun (k : Nat) => descBase d + 64 * ((descHead d + k) % descSlots d)
  let bs := s.homeBytes (slot 0) 16
  let h := leNat bs
  let len := bits h 31 24
  let body := ((s.homeBytes (slot 0) 64).drop 16) ++ (List.range (min 4 len - 1)).flatMap fun k => s.homeBytes (slot (k + 1)) 64
  let cpa := bits h 127 64
  let seq : Word := BitVec.ofNat 32 (bits h 63 32)
  let p : Packet := { live := true, queue := q, die := Q.die, seq := seq, type := h % 256, cpa := cpa, acqe := h.testBit 23, acqs := bits h 22 20
                      rele := h.testBit 19, rels := bits h 18 16, ord := h.testBit 15, len := len, atHead := h % 256 == 5, body := body }
  if !Q.live || Q.slot.isNone || Q.stopped || (Q.packets.any fun p => !(s.packet p).started || (s.packet p).eventAt.isSome) then .next s
  else if descTail d == descHead d then .next (s.watchTail q)
  else if descSlots d < (descTail d + 2 ^ 32 - descHead d) % 2 ^ 32 then
    .next ((s.modQueue q fun Q => { Q with stopped := true }).completion cpa seq 2 0)
  else if packetBad h body then
    .next ((s.advanceHead q (if len == 0 || decide (4 < len) then 1 else len)).completion cpa seq 1 0)
  else if !s.functionsReady p then .next s
  else
    let pk := s.packets.fresh
    let s := if p.atHead then s else s.advanceHead q len
    .next ({ s with packets := s.packets.set {} pk p }.modQueue q fun Q => { Q with packets := Q.packets ++ [pk] })

/-! ### Which packet starts next (R254, 13 R273) -/

/-- A packet may start in its queue: the functions that it needs are ready, every earlier packet has started and waits for no page, and with ORD
every earlier one has completed (R254, 13 R288, 20 R384). -/
def State.mayStart (s : State) (pk : Nat) : Bool :=
  let p := s.packet pk
  let Q := s.queue p.queue
  let before := Q.packets.takeWhile (· != pk)
  p.live && !p.started && !p.placing && p.eventAt.isNone && Q.slot.isSome
    && (before.all fun b => (s.packet b).started && (s.packet b).eventAt.isNone) && (!p.ord || before.isEmpty) && s.functionsReady p

/-- Packets of a die that may start. -/
def State.startable (s : State) (die : Nat) : List Nat := s.packets.keys.filter fun pk => (s.packet pk).die == die && s.mayStart pk
/-- Class of a packet's queue. -/
def State.packetCls (s : State) (pk : Nat) : Nat := descCls (s.descriptor (s.queue (s.packet pk).queue))
/-- Queue slot of a packet. -/
def State.packetSlot (s : State) (pk : Nat) : Nat := ((s.queue (s.packet pk).queue).slot).getD 0
/-- Two queues may run work on one cluster. -/
def State.masksMeet (s : State) (a b : Nat) : Bool :=
  let x := s.descriptor (s.queue (s.packet a).queue)
  let y := s.descriptor (s.queue (s.packet b).queue)
  (List.range 512).any fun cl => descMask x cl && descMask y cl

/-- The sort key of a LAUNCH packet within its class: the earliest deadline, then the lower queue slot and SEQ for DL; else the queue slots
in turn after the one served last. -/
def State.launchKey (s : State) (pk : Nat) : List Nat :=
  let p := s.packet pk
  let slot := s.packetSlot pk
  if s.packetCls pk == 0 then [(s.quote (p.num 0 2)).ddl, slot, p.seq.toNat]
  else [(slot + 64 - (s.die p.die).turns.get 0 (s.packetCls pk)) % 64, p.seq.toNat, 0]

/-- A packet is the next to start on its die (13 R273). -/
def State.turn (s : State) (pk : Nat) : Bool :=
  let p := s.packet pk
  let others := (s.startable p.die).filter (· != pk)
  let light := others.filter fun o => (s.packet o).type != 4
  s.mayStart pk &&
    if p.type == 4 then
      light.isEmpty && others.all fun o =>
        if s.packetCls o == s.packetCls pk then !keyBefore (s.launchKey o) (s.launchKey pk)
        else decide (s.packetCls pk < s.packetCls o) || !s.masksMeet o pk
    else light.all fun o => !keyBefore [s.packetCls o, s.packetSlot o] [s.packetCls pk, s.packetSlot pk]

/-- The translation that a queue's slot holds for a WAIT is dropped (R256). -/
def State.dropHeld (s : State) (q : Nat) : State :=
  (s.queue q).packets.foldl (fun s k =>
    if (s.packet k).type == 5 && (s.packet k).watching then s.modPacket k fun p => { p with watching := false, pa := 0 } else s) s

/-- A packet starts; the translation that its queue's slot holds goes. -/
def State.startPacket (s : State) (pk : Nat) : State := (s.dropHeld (s.packet pk).queue).modPacket pk fun p => { p with started := true }

/-- The work of a packet of a type whose turn it is, where what it needs may be read. -/
def whenOpen (type pk : Nat) (s : State) (opens : Packet → Bool) (k : State → Packet → State) : Outcome :=
  if (s.packet pk).type == type && s.turn pk && opens (s.packet pk) then .next (k (s.startPacket pk) (s.packet pk)) else .next s
/-- The work of a packet of a type whose turn it is. -/
def whenTurn (type pk : Nat) (s : State) (k : State → Packet → State) : Outcome := whenOpen type pk s (fun _ => true) k

/-! ### QUOTE (16 R320 to R329) -/

/-- Validity window in ns. -/
def validity (val : Nat) : Nat := (if val == 0 then 5000 else val) * 1000

/-- A home slice may not yet answer a read of some byte of a range (11 R238). -/
def State.rangeBusy (s : State) (pa n : Nat) : Bool :=
  let inside := fun (l : Nat) => decide (pa < l * 256 + 256) && decide (l * 256 < pa + n)
  s.slices.any fun e => (e.2.dir.any fun d => d.2.pend != 0 && inside d.1) || e.2.locks.any fun k => inside k.1

/-- An image or the list of communicators that a QUOTE names may not be read yet. -/
def State.requestBusy (s : State) (img comm : Nat) : Bool :=
  s.rangeBusy img (imageLength (s.imageAt img)) || (comm != 0 && s.rangeBusy comm 4096)

/-- The bytes that list the communicators of a QUOTE (log 32). -/
def State.commList (s : State) (comm : Nat) : List (List (Option Nat)) :=
  if comm == 0 then [] else Config.communicators (s.homeBytes comm 4096)

/-- The refusals that need no plan: 0x0F, the checks of Table 15-8, 0x12, then 0x0D, 0x0E and 0x13 of the image and of its children; 0 for
none (15 R320, R323). -/
def State.earlyRefusal (s : State) (body : List Byte) (b : QuoteBody) : Nat :=
  let rd := s.imageAt b.img
  if quoteBad body b then 0x0F
  else if !check01 rd b.img && b.clus != 0 && decide (b.clus < (readImage rd).cohort) then 0x0F
  else
    let c := checkImage rd b.img ((s.commList b.comm).map List.length)
    let i := readImage rd
    let all := i :: i.children.map fun k => readImage fun o => rd (k.1 + o)
    if c != 0 then c
    else if argsMissing i b.narg then 0x12
    else graphRefusal (all.map flowOf)

/-- The numbers of the free entries of the quotation table; 0xFFF is firmware's (R331). -/
def State.freeQuotes (s : State) : List Nat := (List.range fwIdx).filter fun k => (s.quote k).state == .free

/-- T_max or E_max in the datum of a QUOTE, saturating (R322). -/
def datumField (n : Nat) : Nat := min ((n + 999) / 1000) (2 ^ 26 - 1)

/-- The entry that a quotation makes. -/
def quoteEntry (b : QuoteBody) (z : Quotation) (digest : List Byte) (qslot qdie now : Nat) (dl : List Nat) : QEntry :=
  { state := .quoted, digest := digest, ddl := b.ddl, vdl := now + validity b.val, tmax := z.tmax, emax := z.emax, qslot := qslot, qdie := qdie
    cls := b.cls, lvl := b.lvl, pair := b.pair, prot := b.prot, rst := b.rst, excl := b.excl, reca := b.reca, img := b.img, root := b.root
    ldb := b.ldb, cohn := b.cohn, val := b.val, cki := b.cki, rls := b.rls, comm := b.comm, args := b.args, maxc := b.beside, dl := dl
    plan := z.shares, tteam := z.tteam, qpackets := z.packets, issue := z.issue, kids := z.kids }

/-- The walk of a checked request: 0x11 where no plan or share can be formed, 0x10 where the table is full, else the entry and its record. -/
def State.quoteWork (s : State) (pk : Nat) (p : Packet) (b : QuoteBody) : State :=
  let Q := s.queue p.queue
  let rd := s.imageAt b.img
  let f := flowOf (readImage rd)
  let plan := s.planClusters (descMask (s.descriptor Q)) b f
  match plan.bind fun cs => s.quoteWalk b rd f cs with
  | none => s.complete pk 3 0x11
  | some z =>
    if !(z.shares.all s.shareFree) then s.complete pk 3 0x11
    else match s.freeQuotes[Config.pick s.free % max 1 s.freeQuotes.length]? with
      | none => s.complete pk 3 0x10
      | some qi =>
        let dl := if b.cls == 0 || b.excl then [] else s.dlCycles (plan.getD [])
        let e := quoteEntry b z (Config.shake256 (rdList rd 0 (imageLength rd))) (s.packetSlot pk) p.die s.time.toNat dl
        let s := (s.setQuote qi e).signRecord p.die 1 qi 0 0
        s.complete pk 0 (qi + datumField z.tmax * 2 ^ 12 + datumField z.emax * 2 ^ 38)

/-- QUOTE (16 R321 to R329). -/
def execQuote (pk : Nat) (s : State) : Outcome :=
  whenOpen 1 pk s (fun p => let b := quoteBody p.body; !s.requestBusy b.img b.comm) fun s p =>
  let b := quoteBody p.body
  let c := s.earlyRefusal p.body b
  if c != 0 then s.complete pk 3 c else s.quoteWork pk p b

/-! ### ACCEPT, DECLINE and validity (16 R330) -/

/-- A quotation is past its validity window, and counts as declined (01 R20). -/
def State.lapsed (s : State) (q : QEntry) : Bool := decide (q.vdl ≤ s.time.toNat)

/-- An ACCEPT of a QUOTED entry fails (R330). -/
def State.acceptFails (s : State) (q : QEntry) : Bool :=
  let cls := q.plan.flatMap fun h => ((List.range 128).filter fun k => h.cmask.getLsbD k).map fun k => clusterKey h.die k
  !(q.plan.all s.shareFree) || (q.cls != 0 && !q.excl && !q.counted (s.dlCycles cls))
    || decide (s.cap * 10 < (s.headroom + sumOf Share.pwr q.plan) * 10 + 178) || (q.cls == 0 && decide (q.ddl < s.time.toNat))

/-- ACCEPT (16 R330): every share of the plan, in ascending die order, or none. -/
def execAccept (pk : Nat) (s : State) : Outcome := whenTurn 2 pk s fun s p =>
  let qi := p.num 0 2
  let q := s.quote qi
  if q.state != .quoted then s.complete pk 4 1
  else if s.lapsed q then (s.freeEntry qi).complete pk 4 1
  else if s.acceptFails q then s.complete pk 4 0
  else
    let s := q.plan.foldl (fun s h => s.grant qi h) s
    let s := s.modQuote qi fun q => { q with state := .accepted, vdl := s.time.toNat + validity q.val }
    (s.reserved qi).foldl State.retarget s |>.complete pk 0 0

/-- DECLINE (16 R330). -/
def execDecline (pk : Nat) (s : State) : Outcome := whenTurn 3 pk s fun s p =>
  let qi := p.num 0 2
  if (s.quote qi).state == .quoted || (s.quote qi).state == .accepted then ((s.freeEntry qi).dropWaiting qi true).complete pk 0 0 else s.complete pk 4 1

/-- QUOTATION_EXPIRY (01 R20): a QUOTED entry at the end of its validity window is freed as though declined. -/
def execQuotationExpiry (qi : Nat) (s : State) : Outcome :=
  let q := s.quote qi
  if q.state == .quoted && decide (q.vdl ≤ s.time.toNat) then .next (s.freeEntry qi) else .next s

/-- ACCEPTED_VALIDITY_EXPIRY (16 R330): the reservation is freed, and a LAUNCH of it that waits to start completes with STALE. -/
def execAcceptedValidityExpiry (qi : Nat) (s : State) : Outcome :=
  let q := s.quote qi
  if q.state == .accepted && decide (q.vdl ≤ s.time.toNat) then
    .next ((s.freeEntry qi).dropWaiting qi false)
  else .next s

/-! ### LAUNCH (12 R254, 18 R355, R356) -/

/-- A LAUNCH that an accepted quotation does not permit: a policy ROLLBACK without PROT, a release that the QUOTE did not name, or a wider scope
of one, whether RELE asks for it or not (18 R356). -/
def launchBad (q : QEntry) (p : Packet) : Bool :=
  ((p.body.getD 2 0).toNat == 2 && !q.prot) || (p.rele && !q.rls.testBit 3) || decide (q.rls % 8 < p.rels)

/-- A length argument above its cap (16 Table 16-9, cause 0x02). -/
def argBeyond (i : Image) (args : List Word) : Bool :=
  i.ranges.any fun r => rangeLA r && decide (rangeLen r < (args.getD (rangeLenArg r) 0).toNat)

/-- Ranges of a launch: those of the image bound to its arguments, the code read-only, the data read-write (15 R318). -/
def bindRanges (i : Image) (args : List Word) (ldb : Nat) : List Range :=
  let n := i.segs.foldl (fun n g => max n (g.num + 1)) 0
  let code : Range := { base := ldb, len := 2048 * n, rd := true, wr := false, wait := false, vault := false }
  let data : Range := { base := (ldb + 2048 * n + 65535) / 65536 * 65536, len := i.data.length, rd := true, wr := true, wait := false, vault := false }
  i.ranges.map (bindRange args) ++ [code] ++ if i.data.isEmpty then [] else [data]

/-- The launch that a LAUNCH packet asks for. -/
def launchOf (s : State) (pk qi : Nat) (p : Packet) (q : QEntry) (i : Image) : Launch :=
  { live := true, qidx := qi, packet := pk, queue := p.queue, die := p.die, cls := s.packetCls pk, img := q.img, image := i, root := q.root, ldb := q.ldb
    reca := q.reca, args := q.args, ranges := bindRanges i q.args q.ldb, comm := q.comm, ranks := s.commList q.comm, cohorts := q.cohn
    paired := q.pair, prot := q.prot, rst := q.rst, excl := q.excl, policy := (p.body.getD 2 0).toNat
    rtry := if p.body.getD 3 0 == 0 then 3 else (p.body.getD 3 0).toNat, interval0 := s.rel.interval, boundary := s.rel.interval
    boundaryAt := s.time.toNat, acqe := p.acqe, acqs := p.acqs }

/-- LAUNCH_PACKET (12 R254, R258, 16 R330): a LAUNCH of an ACCEPTED entry asks for a place. It starts when its first cohort is placed; one
that no ACCEPTED entry permits completes at once. -/
def execLaunchPacket (pk : Nat) (s : State) : Outcome :=
  let p := s.packet pk
  let qi := p.num 0 2
  let q := s.quote qi
  if p.type != 4 || !s.turn pk then .next s
  else if q.state != .accepted || decide (q.vdl ≤ s.time.toNat) then .next (s.complete pk 4 notStarted)
  else if launchBad q p then .next (s.complete pk 1 0)
  else if s.launches.any fun e => e.2.live && e.2.qidx == qi then .next s
  else if s.requestBusy q.img q.comm then .next s
  else
    .next ((s.modPacket pk fun p => { p with placing := true }).setLaunch s.launches.fresh
      (launchOf s pk qi p q (readImage (s.imageAt q.img))))

/-- The undo records of a launch that has given its index up are none of the launch's that takes it (24 R398). -/
def State.spendRecords (s : State) (qidx : Nat) : State :=
  let one := fun (r : UndoRec) => if r.qidx == qidx then { r with spent := true } else r
  if s.dust.any fun e => e.2.recs.any fun r => r.qidx == qidx && !r.spent then
    { s with dust := s.dust.map fun e => (e.1, { e.2 with recs := e.2.recs.map one }) }
  else s

/-- A LAUNCH starts: its entry goes to RUNNING, its time and its intervals count from here, and a translation held for a WAIT of its queue goes
(12 R256, 13 R273, R274, 16 R331, 18 R355, R356). -/
def State.startLaunch (s : State) (lk : Nat) : State :=
  let L := s.launch lk
  let pk := L.packet
  let p := s.packet pk
  if !p.placing then s
  else
    let s := ((s.dropHeld p.queue).spendRecords L.qidx).modPacket pk fun p => { p with started := true, placing := false }
    let s := s.modQuote L.qidx fun q => { q with state := .running, tstart := s.time.toNat, svc := 0, nrg := 0 }
    let s := if argBeyond L.image L.args then s.logCause L.qidx 2 else s
    let s := s.modDie p.die fun d => { d with turns := d.turns.set 0 (s.packetCls pk) ((s.packetSlot pk + 1) % 64) }
    s.modLaunch lk fun L => { L with interval0 := s.rel.interval, boundary := s.rel.interval, boundaryAt := s.time.toNat }

/-- A LAUNCH that waits for its first place may still start (16 R330). -/
def State.startOpen (s : State) (L : Launch) : Bool :=
  let q := s.quote L.qidx
  !(s.packet L.packet).placing || ((s.queue L.queue).slot.isSome && q.state == .accepted && decide (s.time.toNat < q.vdl))

/-! ### WAIT, SIGNAL, COPY, TIMESTAMP (12 R255, R256, 13 R288) -/

/-- The leaf that maps an address in a queue's address space, with the physical address. -/
def State.queueLeaf (s : State) (q va : Nat) : Option (BitVec 128 × Nat) :=
  if 2 ^ 57 ≤ va then none
  else (s.walkRoot (s.queue q).root va).2.map fun x => (x.1, pteFrame x.1 + va % 2 ^ x.2)

/-- An address that the front end may read (n = 2) or write (n = 3) for a packet: R256's bit. DESIGN CHOICE: a page that is open to firmware alone
(PRIV = 1), and one whose frame is no memory and no window of a die, give TRANSL as a leaf without the bit does (log 87). -/
def State.queueAddr (s : State) (q va n : Nat) : Option Nat :=
  match s.queueLeaf q va with
  | some (e, pa) => if e.getLsbD n && !e.getLsbD 4 && (memoryAt pa || regionOf pa == .device) then some pa else none
  | none => none

/-- A walk from a root would read an entry that its home slice may not answer yet (11 R238, R250). -/
def State.walkBusy (s : State) (root va : Nat) : Bool :=
  va < 2 ^ 57 && (s.walkRoot root va).1.any fun a => isGlobal a && s.lineBusy (a / 256) 0
/-- So would one in a queue's address space. -/
def State.queueBusy (s : State) (q va : Nat) : Bool := s.walkBusy (s.queue q).root va
/-- A line of physical pieces may not be read or stepped yet (11 R238). -/
def State.piecesBusy (s : State) (l : List (Nat × Nat)) : Bool := l.any fun e =>
  isGlobal e.1 && (List.range ((e.1 + e.2 + 255) / 256 - e.1 / 256)).any fun k => s.lineBusy (e.1 / 256 + k) 0

/-- The word at a physical address as the front end finds it, in memory or in the window of a die (20 R383). -/
def State.frontWord (s : State) (pa : Nat) : Nat := if regionOf pa == .device then leNat (s.winRead pa 4) else (s.watched pa false).1
/-- Bytes that the front end writes there, at SYS scope; what software does not write stays (00 R9). -/
def State.frontPut (s : State) (pa : Nat) (bs : List Byte) : State :=
  if regionOf pa == .device then s.winWrite pa bs else s.sysWrite pa (s.keepFixed pa bs) fwIdx

/-- The signal word of a WAIT, at the address that its translation gives; true where it compares GEU the value (R255). -/
def State.signalSeen (s : State) (p : Packet) (pa : Nat) : Nat × Bool :=
  let v := s.frontWord pa
  (v, !s.piecesBusy [(pa, 4)] && waitCond 5 false v (p.num 8 4))

/-- A WAIT whose signal word is translated: its first translation takes it from HEAD. The queue's slot holds one translation: where it holds
another WAIT's, this one is used and not kept (R256). -/
def State.waitAt (s : State) (pk pa : Nat) : State :=
  let p := s.packet pk
  let s := if p.started then s else ((s.dropHeld p.queue).advanceHead p.queue p.len).modPacket pk fun p => { p with atHead := false, started := true }
  if (s.queue p.queue).packets.any fun k => k != pk && (s.packet k).type == 5 && (s.packet k).watching then
    let (v, met) := s.signalSeen p pa
    if met then s.complete pk 0 v else s
  else s.modPacket pk fun p => { p with watching := true, pa := pa }

/-- WAIT_PACKET (12 R255, R256, 13 R288): the signal word's page is found and watched; or it completes with TRANSL; or firmware is asked for
it. A WAIT whose held translation was dropped is translated again. -/
def execWaitPacket (pk : Nat) (s : State) : Outcome :=
  let p := s.packet pk
  let again := p.live && p.started && !p.watching && p.eventAt.isNone
  if p.type != 5 || !(s.turn pk || again) || s.queueBusy p.queue (p.num 0 8) then .next s
  else match s.queueLeaf p.queue (p.num 0 8) with
    | none =>
      if s.packetCls pk == 0 then .next (s.complete pk 6 0) else .next (s.modPacket pk fun p => { p with eventAt := some s.time.toNat })
    | some (e, _) =>
      if s.packetCls pk == 0 && !e.getLsbD 5 then .next (s.complete pk 6 0)
      else match s.queueAddr p.queue (p.num 0 8) 2 with
        | none => .next (s.complete pk 6 0)
        | some pa => .next (s.waitAt pk pa)

/-- WAIT_PACKET_SATISFIED (12 R255): the signal word compares GEU the value. -/
def execWaitPacketSatisfied (pk : Nat) (s : State) : Outcome :=
  let p := s.packet pk
  let (v, met) := s.signalSeen p p.pa
  if p.live && p.type == 5 && p.watching && met then .next (s.complete pk 0 v) else .next s

/-- WAIT_PAGE_TIMEOUT (13 R288): after 50 µs the queue leaves its slot with the event pending, and its TAIL is watched (R273). -/
def execWaitPageTimeout (pk : Nat) (s : State) : Outcome :=
  let p := s.packet pk
  match p.eventAt with
  | some t =>
    if p.live && decide (t + 50000 ≤ s.time.toNat) && (s.queue p.queue).slot.isSome then
      .next ((s.modQueue p.queue fun q => { q with slot := none }).watchTail p.queue)
    else .next s
  | none => .next s

/-- TRANSLATION_EVENT_SERVED (13 R288): firmware has made the page resident, and the WAIT is evaluated again; or the page cannot be mapped,
and it completes with TRANSL. -/
def execTranslationEventServed (pk : Nat) (mapped : Bool) (s : State) : Outcome :=
  let p := s.packet pk
  if !p.live || p.eventAt.isNone || s.queueBusy p.queue (p.num 0 8) then .next s
  else if !mapped then .next (s.complete pk 6 0)
  else if (s.queueLeaf p.queue (p.num 0 8)).isSome then .next (s.modPacket pk fun p => { p with eventAt := none })
  else .next s

/-- The word that a SIGNAL names may be stepped. -/
def State.signalOpen (s : State) (p : Packet) : Bool :=
  !s.queueBusy p.queue (p.num 0 8) && match s.queueAddr p.queue (p.num 0 8) 3 with
    | some pa => !s.piecesBusy [(pa, 4)]
    | none => true

/-- SIGNAL_PACKET (12 R255): the word takes the sum or the value, in one step at its home slice, performed at SYS. -/
def execSignalPacket (pk : Nat) (s : State) : Outcome := whenOpen 6 pk s s.signalOpen fun s p =>
  match s.queueAddr p.queue (p.num 0 8) 3 with
  | none => s.complete pk 6 0
  | some pa =>
    let old := s.frontWord pa
    (s.frontPut pa (field 4 (if p.body.getD 12 0 == 0 then old + p.num 8 4 else p.num 8 4))).complete pk 0 old

/-- The physical pieces of n bytes of a queue's address space, page by page; none where a page does not permit the access. -/
def State.queuePieces (s : State) (q bit : Nat) : Nat → Nat → Nat → Option (List (Nat × Nat))
  | 0, _, _ => some []
  | fuel + 1, va, n =>
    if n == 0 then some []
    else
      let m := min n (65536 - va % 65536)
      match s.queueAddr q va bit, s.queuePieces q bit fuel (va + m) (n - m) with
      | some pa, some l => some ((pa, m) :: l)
      | _, _ => none

/-- The bytes of physical pieces, with the poison mark of each, as their homes have them. -/
def State.piecesRead (s : State) (l : List (Nat × Nat)) : List (Byte × Bool) :=
  l.flatMap fun e => (List.range e.2).map fun i =>
    let a := e.1 + i
    if isVault a then (s.memByte a, s.vaultPoison.get false (a / 4))
    else if regionOf a == .device then (s.winByte a, false) else (s.homeByte a, s.homePoison a)

/-- Bytes with their marks put where they belong, in units that share one mark: sectors, or words of a vault. -/
def State.piecesWrite (s : State) : List (Nat × Nat) → List (Byte × Bool) → State
  | [], _ => s
  | (a, n) :: t, l =>
    let unit := if isVault a then 4 else 64
    let s := (List.range ((a + n + unit - 1) / unit - a / unit)).foldl (fun (s : State) k =>
      let lo := max a ((a / unit + k) * unit)
      let hi := min (a + n) ((a / unit + k + 1) * unit)
      let part := (l.drop (lo - a)).take (hi - lo)
      let mark := part.any Prod.snd
      if isVault a then s.vaultWrite lo (part.map Prod.fst) mark
      else if regionOf a == .device then s.winWrite lo (part.map Prod.fst)
      else s.globalWrite lo (s.keepFixed lo (part.map Prod.fst)) fwIdx mark) s
    s.piecesWrite t (l.drop n)

/-- The lines of physical pieces put into memory, as a release at SYS scope does. -/
def State.piecesFlush (s : State) (l : List (Nat × Nat)) : State :=
  l.foldl (fun s e => if !isGlobal e.1 then s else
    (List.range ((e.1 + e.2 + 255) / 256 - e.1 / 256)).foldl (fun (s : State) k =>
      s.flushLine (homeSlice ((e.1 / 256 + k) * 256)) (e.1 / 256 + k)) s) s

/-- The page-table entries and the lines that a COPY reads and writes may be read and stepped. -/
def State.copyOpen (s : State) (p : Packet) : Bool :=
  let n := p.num 16 8
  let fuel := n / 65536 + 2
  let pages := fun (va : Nat) => (List.range fuel).map fun k => va / 65536 * 65536 + 65536 * k
  !((pages (p.num 0 8) ++ pages (p.num 8 8)).any (s.queueBusy p.queue))
    && match s.queuePieces p.queue 2 fuel (p.num 0 8) n, s.queuePieces p.queue 3 fuel (p.num 8 8) n with
      | some src, some dst => !s.piecesBusy src && !s.piecesBusy dst
      | _, _ => true

/-- COPY_PACKET (12 R255, R256). -/
def execCopyPacket (pk : Nat) (s : State) : Outcome := whenOpen 7 pk s s.copyOpen fun s p =>
  let n := p.num 16 8
  let fuel := n / 65536 + 2
  match s.queuePieces p.queue 2 fuel (p.num 0 8) n, s.queuePieces p.queue 3 fuel (p.num 8 8) n with
  | some src, some dst =>
    let s := s.piecesWrite dst (s.piecesRead src)
    (if p.rele && p.rels == 4 then s.piecesFlush dst else s).complete pk 0 n
  | _, _ => s.complete pk 6 0

/-- TIMESTAMP_PACKET (12 R255). -/
def execTimestampPacket (pk : Nat) (s : State) : Outcome := whenTurn 8 pk s fun s _ => s.complete pk 0 s.time.toNat

/-! ### Queue slots and revocation (13 R273, 16 R332) -/

/-- Queue slots of a die in use. -/
def State.slotsTaken (s : State) (die : Nat) : List Nat := s.queues.filterMap fun e => if e.2.live && e.2.die == die then e.2.slot else none

/-- A queue waits out of its slots for a page that is not resident (13 R288). -/
def State.pageAbsent (s : State) (Q : Queue) : Bool := Q.packets.any fun k =>
  let p := s.packet k
  p.eventAt.isSome && (s.queueLeaf p.queue (p.num 0 8)).isNone

/-- QUEUE_SLOT_SWAP (13 R273, R288): firmware brings a queue into a free slot, or takes one out; its TAIL is watched either way. A queue whose
WAIT has a page outstanding comes back once the page is resident. -/
def execQueueSlotSwap (q : Nat) (slot : Option Nat) (s : State) : Outcome :=
  let Q := s.queue q
  if !Q.live then .next s
  else match slot with
    | none => .next ((s.modQueue q fun Q => { Q with slot := none }).watchTail q)
    | some k =>
      if Q.slot.isSome || decide (64 ≤ k) || (s.slotsTaken Q.die).contains k || s.pageAbsent Q then .next s
      else .next ((s.modQueue q fun Q => { Q with slot := some k }).watchTail q)

/-- RESERVATION_REVOKED (16 R332, Table 16-9): the lines, ways and entries of a share are revoked, so that waits which hold entries under it hold
them as any other wait does (14 R291); its running launch's record names the operator. -/
def execReservationRevoked (die qi : Nat) (s : State) : Outcome :=
  let r := s.resv.get {} (die * 4096 + qi)
  if !r.live then .next s
  else
    let h := r.share.map fun h => { h with ways := 0, pinq := 0, mon := 0, slices := 0, tlbe := 0 }
    let loosen := fun (m : MonEntry) => if m.rsv && m.qidx == qi then { m with rsv := false } else m
    let slice := fun (e : Nat × Slice) =>
      if e.1 / 32 == die && e.2.mon.any (fun m => m.2.rsv && m.2.qidx == qi) then
        (e.1, { e.2 with mon := e.2.mon.map fun m => (m.1, loosen m.2) })
      else e
    .next ({ s with resv := s.resv.set {} (die * 4096 + qi) { r with share := h, wayMask := 0 }, slices := s.slices.map slice }.logCause qi 5)

end Sys2Proof.Machine
end

