-- ==== Sys2Proof/Machine/Width.lean ====
section
/-! DEFINITION. Changing width and the region set: `SPLIT`, `FUSE`, `REGION` (05 R98 to R100, 07 R139 to R141). -/

namespace Sys2Proof.Machine

/-! ### SPLIT -/

/-- Free slots of the quarter of a group, rising. -/
def State.freeSlots (s : State) (gk : Nat) : List Nat :=
  ((List.range 16).map (gk / 16 * 16 + ·)).filter fun k => !(s.group k).live

/-- A group that may not be divided or joined because of its strands: more than one, or a stack that is not empty. -/
def Group.diverged (g : Group) : Bool := decide (1 < g.liveStrands.length) || g.liveStrands.any fun k => (g.strand k).rstack != []
/-- A path counter is not zero, a transaction is open, or, in a paired launch, stores await a comparison (R98, 17 R351; log 24). -/
def Group.pending (g : Group) (paired : Bool) : Bool :=
  !g.paths.isEmpty || g.tx.isOpen || (paired && g.sig != 0xFFFFFFFFFFFFFFFF)

/-- The status of a `SPLIT` by f (Table 5-6). -/
def State.splitStatus (s : State) (f : Nat) : Nat :=
  let g := s.seen
  let w := g.place.width / f
  let l := s.launch g.place.launch
  if w < 4 || w < l.image.wmin then 1
  else if (s.freeSlots s.cur.group).length < f - 1 then 2
  else if g.diverged then 3
  else if g.pending l.paired then 4 else 0

/-- Entries of a table whose keys lie in [a, b), moved down by a. -/
def Tab.slice {V : Type} (a b : Nat) (t : Tab V) : Tab V :=
  (t.filter fun e => decide (a ≤ e.1) && decide (e.1 < b)).map fun e => (e.1 - a, e.2)

/-- Part k, of width w, of a group (Table 5-8). -/
def Group.part (g : Group) (w k : Nat) : Group :=
  let cut := fun (m : LaneMask) => (m >>> (k * w)) &&& fullMask w
  { g with
    place := { g.place with off := g.place.off + k * w, width := w }
    hlp := cut g.hlp
    lanes := Tab.slice (k * w * 1024) ((k + 1) * w * 1024) g.lanes
    p := (List.range 8).foldl (fun t n => t.set 0 n (cut (g.pred n))) []
    strands := (List.range 4).foldl (fun t k =>
      t.set {} k { g.strand k with members := cut (g.strand k).members, exm := cut (g.strand k).exm }) []
    gang := 0, region := 0, lost := 0xFF, tx := {}, sig := 0xFFFFFFFFFFFFFFFF }

/-- The slots that the parts of a group take: its own, then the lowest free ones of its quarter. -/
def State.partSlots (s : State) (f : Nat) : List Nat := s.cur.group :: (s.freeSlots s.cur.group).take (f - 1)

/-- A successful `SPLIT`. -/
def State.splitGroup (s : State) (d f : Nat) : State :=
  let g := s.me.setG d 0
  let w := g.place.width / f
  let s' := ((s.partSlots f).zipIdx).foldl (fun s e =>
    let u := if e.2 == 0 then g.uid else s.nextUid
    { s.setGroup e.1 { g.part w e.2 with uid := u } with nextUid := if e.2 == 0 then s.nextUid else s.nextUid + 1 }) s
  ((s.partSlots f).foldl (fun s k => s.fallThrough k s.cur.strand) s').moved

/-- A word of width: issue, then in a pair the wait for the partner (log 82), its energy BR1 (R158), its effect. -/
def widthWord (i : Instr) (open' : State → Bool) (go : State → State) (s : State) : Outcome :=
  issue i s fun s => .next (if open' s then go (s.chargeMe eG1) else s.missed)

/-- `SPLIT` (R98, R139). -/
def execSplit (d : BitVec 7) (f : BitVec 8) (s : State) : Outcome :=
  widthWord (.split d f) (fun s => s.pairEven s.cur.group) (fun s =>
    let c := s.splitStatus f.toNat
    if c == 0 then s.splitGroup d.toNat f.toNat
    else (s.modMe fun g => g.setG d.toNat (BitVec.ofNat 32 c)).fallMe.moved) s

/-! ### FUSE -/

/-- A group is descheduled for a partner that arrives (R99): it waits on a monitor, or every strand of it is parked in `JOIN` or `EXIT`, one
in `JOIN` (13 R277). -/
def Group.descheduled (g : Group) : Bool :=
  let parked := fun (exit : Bool) (k : Nat) => match (g.strand k).park with
    | .join _ => true
    | .exit => exit
    | _ => false
  (match g.wait with
    | .monitor .. => true
    | .scratch .. => true
    | _ => false)
  || (g.liveStrands.all (parked true) && g.liveStrands.any (parked false))

/-- The first failing check of Table 5-7 for the group that arrives; 0 when it parks or joins. -/
def State.fuseStatus (s : State) : Nat :=
  let g := s.seen
  let l := s.launch g.place.launch
  if l.image.wmax < 2 * g.place.width then 6
  else if g.diverged then 3
  else if g.pending l.paired then 4
  else match s.buddy s.cur.group with
    | none => 1
    | some k =>
      let p := s.group k
      if p.place.role != g.place.role then 8
      else if p.vwv != g.vwv || p.vwt != g.vwt || p.vwa != g.vwa then 5
      else if p.descheduled then 7
      else match p.wait with
        | .fuse _ _ =>
          let q := p.strand (p.liveStrands.headD 0)
          if !pcSame q.pc s.str.pc || q.calls != s.str.calls then 2 else 0
        | _ => 0

/-- The table of a lower partner with that of an upper one above lane w. -/
def stack {V : Type} (a b : Tab V) (w : Nat) : Tab V := (a.filter fun e => decide (e.1 < w)) ++ b.map fun e => (e.1 + w, e.2)

/-- When a line entered the release set of either partner: the earlier time where both hold it (23 R396). -/
def Group.since (lo hi : Group) (l : Nat) : Nat :=
  if lo.release.contains l && hi.release.contains l then min (lo.relAt.get 0 l) (hi.relAt.get 0 l)
  else if lo.release.contains l then lo.relAt.get 0 l else hi.relAt.get 0 l

/-- A line put among others by the time at which it entered, behind every one that entered no later. -/
def putAged (age : Nat → Nat) (l : Nat) : List Nat → List Nat
  | [] => [l]
  | x :: t => if age l < age x then l :: x :: t else x :: putAged age l t

/-- The union of two release sets, oldest first (23 R396). -/
def unite (lo hi : Group) : List Nat :=
  (lo.release ++ hi.release.filter fun l => !lo.release.contains l).foldl (fun r l => putAged (Group.since lo hi) l r) []

/-- The fused group (Table 5-8). -/
def fuseGroups (lo hi : Group) : Group :=
  let w := lo.place.width
  let join := fun (a b : LaneMask) => a ||| (b <<< w)
  let k := lo.liveStrands.headD 0
  let a := lo.strand k
  let b := hi.strand (hi.liveStrands.headD 0)
  { lo with
    place := { lo.place with width := 2 * w }
    hlp := join lo.hlp hi.hlp
    lanes := stack lo.lanes hi.lanes (w * 1024)
    p := (List.range 8).foldl (fun t n => t.set 0 n (join (lo.pred n) (hi.pred n))) []
    strands := [(k, { a with members := join a.members b.members, exm := join a.exm b.exm })]
    gang := 0, region := 0, lost := 0xFF, sig := 0xFFFFFFFFFFFFFFFF, wait := .none
    release := unite lo hi, relAt := (unite lo hi).foldl (fun t l => t.set 0 l (Group.since lo hi l)) []
    atomLines := lo.atomLines ++ hi.atomLines.filter fun l => !lo.atomLines.contains l
    sent := lo.sent ++ hi.sent.filter fun l => !lo.sent.contains l }

/-- Both partners stand at the same `FUSE`: the lower slot holds the fused group, the upper is free (R100). The oldest lines of its release set
beyond 64 are written back and drop (23 R396). -/
def State.joinGroups (s : State) (d k : Nat) : State :=
  let lo := if (s.group k).place.off < s.me.place.off then k else s.cur.group
  let hi := if lo == k then s.cur.group else k
  let g := (fuseGroups (s.group lo) (s.group hi)).setG d 0
  let s := ((s.setGroup hi {}).setGroup lo g).shedRelease lo 64
  ((s.fallThrough lo (g.liveStrands.headD 0)).retarget (clusterOf lo)).moved

/-- A group of a pair may fuse: it and a buddy that is parked in `FUSE` have their partners at the same packets (log 82). -/
def State.fuseEven (s : State) : Bool := s.pairEven s.cur.group && match s.buddy s.cur.group with
  | none => true
  | some k => match (s.group k).wait with
    | .fuse .. => s.pairEven k
    | _ => true

/-- `FUSE` (R99, R139). A failing check gives its status to this group and to a partner parked in a `FUSE`. -/
def execFuse (d : BitVec 7) (s : State) : Outcome :=
  widthWord (.fuse d) State.fuseEven (fun s =>
    let c := s.fuseStatus
    if c != 0 then
      ((s.endFuse s.cur.group c).modMe fun g => g.setG d.toNat (BitVec.ofNat 32 c)).fallMe.moved
    else match s.buddy s.cur.group with
      | none => s
      | some k => match (s.group k).wait with
        | .fuse _ _ => s.joinGroups d.toNat k
        | _ => (s.modMe fun g => { g with wait := .fuse d.toNat (s.clk s.myCluster + 1024) }).moved) s

/-- FUSE_WAIT_TIMEOUT: after 1,024 cycles the parked partner receives WAITING; a partner that has its status moves on (R99). -/
def execFuseWaitTimeout (g : Nat) (s : State) : Outcome :=
  let x := s.group g
  let k := x.liveStrands.headD 0
  match x.wait with
  | .fuse d t =>
    if t ≤ s.clk (clusterOf g) then .next ((s.modGroup g fun x => { x.setG d 7 with wait := .none }).fallThrough g k)
    else .next s
  | .fuseOver => .next ((s.modGroup g fun x => { x with wait := .none }).fallThrough g k)
  | _ => .next s

/-! ### REGION (R141) -/

/-- The region tables of the segments of a group's image. -/
def State.regionSet (s : State) (idx : Nat) : Option (BitVec 128) :=
  ((s.imageOf s.seen.place.launch).segs.find? fun x => x.num == s.str.seg).bind fun x => x.regions[idx]?

/-- The registers of a set. -/
def regionCount (m : BitVec 128) : Nat := ((List.range 128).filter fun i => m.getLsbD i).length

/-- `REGION` (R141): an index beyond the table of the code's segment is ILLEGAL. -/
def execRegion (idx : BitVec 5) (s : State) : Outcome :=
  issue (.region idx) s fun s =>
    match s.regionSet idx.toNat with
    | none => .next (s.trapWord .illegal)
    | some m => .next ((s.chargeMe (6000 * (4 * regionCount m * s.seen.place.width))).modMe fun g => { g with region := m })

end Sys2Proof.Machine
end

