-- ==== Sys2Proof/Machine/Placement.lean ====
section
/-! DEFINITION. Placing teams and the end of groups, children and launches: loading and relocation, a fresh team's state, the clusters that fit,
COHORT_PLACEMENT, CHILD_PLACEMENT, GROUP_END, CHILD_COMPLETION, LAUNCH_COMPLETION (13 R275, R276, R279, R282, 15 R318, R319, 08 R174,
12 R257 to R260, 22 R392, R393, 25 R402). -/

namespace Sys2Proof.Machine

/-! ### A launch's address space, as firmware reads and writes it (15 R318) -/

/-- Where an address of a launch's address space stands. -/
def State.spaceAddr (s : State) (root va : Nat) : Option Nat :=
  if 2 ^ 57 ≤ va then none
  else match (s.walkRoot root va).2 with
    | some (e, b) => let pa := pteFrame e + va % 2 ^ b; if memoryAt pa then some pa else none
    | none => none

/-- The pages of n bytes from an address up may not be walked yet, or a line of theirs may not be read yet (11 R238, R250). -/
def State.spaceBusy (s : State) (root va n : Nat) : Bool :=
  (List.range ((va + n + 65535) / 65536 - va / 65536)).any fun k =>
    let lo := max va ((va / 65536 + k) * 65536)
    let hi := min (va + n) ((va / 65536 + k + 1) * 65536)
    s.walkBusy root lo || match s.spaceAddr root lo with
      | some pa => s.rangeBusy pa (hi - lo)
      | none => false

/-- Bytes written from an address up, page by page; bytes of a page that is not mapped are dropped (log 33). -/
def State.spaceWrite (s : State) (root : Nat) : Nat → Nat → List Byte → State
  | 0, _, _ => s
  | fuel + 1, va, bs =>
    if bs.isEmpty then s
    else
      let n := 65536 - va % 65536
      let s := match s.spaceAddr root va with
        | none => s
        | some pa => s.sysWrite pa (bs.take n) fwIdx
      s.spaceWrite root fuel (va + n) (bs.drop n)

/-- n bytes from an address up; a byte of a page that is not mapped reads 0. -/
def State.spaceRead (s : State) (root va n : Nat) : List Byte :=
  (List.range n).map fun i => match s.spaceAddr root (va + i) with
    | none => 0
    | some pa => if isVault pa then s.memByte pa else s.homeByte pa

/-! ### Loading and relocation (15 R318, R319) -/

/-- The load base of the data section. -/
def Image.dataBase (i : Image) (ldb : Nat) : Nat :=
  (ldb + 2048 * i.segs.foldl (fun n g => max n (g.num + 1)) 0 + 65535) / 65536 * 65536

/-- Bytes with some replaced from an offset. -/
def patch (bs : List Byte) (off : Nat) (new : List Byte) : List Byte := bs.take off ++ new ++ bs.drop (off + new.length)

/-- A relocation applied to the image (Table 15-7). -/
def relocate (base ldb : Nat) (bs : List Byte) (r : Nat × Nat × Nat) : List Byte :=
  let v := (base + r.2.2) % 2 ^ 64
  match r.2.1 with
  | 0 => patch bs r.1 (field 8 v)
  | 1 => patch bs r.1 (field 2 v)
  | 2 => patch bs r.1 (field 2 ((v + 0x8000) / 65536))
  | _ => patch bs r.1 (field 8 (ldb + 2048 * r.2.2))

/-- An image with every relocation applied. -/
def Image.relocated (i : Image) (ldb : Nat) : Image :=
  let bs := i.relocs.foldl (relocate (i.dataBase ldb) ldb) i.bytes
  { readImage (fun k => bs.getD k 0) with bytes := bs }

/-- Words as bytes. -/
def wordBytes (ws : List Word) : List Byte := ws.flatMap fun w => field 4 w.toNat
/-- Bytes as words. -/
def bytesWords (bs : List Byte) : Tab Word :=
  (List.range (bs.length / 4)).foldl (fun t k => Tab.set 0 k (BitVec.ofNat 32 (leNat ((bs.drop (4 * k)).take 4))) t) []

/-- The load copies of a launch's code, and other segment images that it reads, may not be read yet (11 R238). -/
def State.codeBusy (s : State) (lk : Nat) (more : List Nat) : Bool :=
  let L := s.launch lk
  ((if L.parent.isSome then [] else L.image.segs.map fun g => L.ldb + 2048 * g.num) ++ more).any fun a => s.spaceBusy L.root a 2048

/-- Firmware copies code and data of a launch to its load base; the copy is in memory before a team runs (log 33). -/
def State.loadImage (s : State) (lk : Nat) : State :=
  let L := s.launch lk
  let s := L.image.segs.foldl (fun s g => s.spaceWrite L.root 2 (L.ldb + 2048 * g.num) (wordBytes g.code)) s
  s.spaceWrite L.root (L.image.data.length / 65536 + 2) (L.image.dataBase L.ldb) L.image.data

/-! ### The instruction store (08 R170, R173, 09 R198) -/

/-- A slot's first contents on a cluster: the segment that the image puts there, read from the load copy; a child's segments come from its
image (log 34). -/
def State.firstSlot (s : State) (lk k : Nat) : IStore :=
  let L := s.launch lk
  let free : IStore := { bound := true, launch := lk }
  match L.image.segs.find? fun g => g.slot == k with
  | none => free
  | some g =>
    let src := L.ldb + 2048 * g.num
    if L.parent.isSome then { free with landed := true, words := bytesWords (wordBytes g.code) }
    else { free with landed := true, source := some src, words := bytesWords (s.spaceRead L.root src 2048) }

/-- The slots of a launch bound on a cluster; one that a team of the launch holds there already stands as it is. -/
def State.bindSlots (s : State) (cl lk : Nat) : State :=
  (s.launch lk).image.slotList.foldl (fun s k =>
    if ((s.cluster cl).istore.get {} (lk * 64 + k)).bound then s
    else s.modCluster cl fun c => { c with istore := c.istore.set {} (lk * 64 + k) (s.firstSlot lk k) }) s

/-- The slots of a launch freed on a cluster once none of its teams stands there. -/
def State.unbind (s : State) (cl lk : Nat) : State :=
  if (s.teamsOn cl).any fun e => e.2.launch == lk then s
  else s.modCluster cl fun c => { c with istore := c.istore.filter fun e => e.2.launch != lk }

/-! ### A fresh team (13 R279, R282, 05 R103, Table 5-1) -/

/-- What the front end writes into a scratchpad for a synchronisation object (17 R343, 12 R262, R268). -/
def syncInit (t : Tab Byte) (y : Sync) : Tab Byte :=
  let a := y.ops.getD 0 0
  let b := y.ops.getD 1 0
  let barrier := fun (t : Tab Byte) (at' exa exb : Nat) => Tab.writeLe (Tab.writeLe t (at' + 4) 4 exa) (at' + 12) 4 exb
  match y.kind with
  | 0 => barrier t y.base a b
  | 1 => Tab.writeLe t y.base 8 (Nat.log2 a + Nat.log2 b * 16 + (y.base + 16 + b - 1) / b * b * 2 ^ 32)
  | _ =>
    let t := (List.range a).foldl (fun t k =>
      barrier (barrier t (y.base + 16 + 32 * k) (y.ops.getD 2 0) b) (y.base + 32 + 32 * k) (y.ops.getD 3 0) 0) t
    Tab.writeLe t y.base 16 ((a - 1) + (y.base + 16) * 2 ^ 32 + b * 2 ^ 64 + (y.base + 16 + 32 * a + 255) / 256 * 256 * 2 ^ 96)

/-- A fresh team's scratchpad: its objects, and four free entries of the pending-launch queue (12 R259). -/
def Image.freshScratch (i : Image) : Tab Byte :=
  let t := i.syncs.foldl syncInit []
  if i.hasTcb then Tab.writeLe t (i.size - 16) 4 4 else t

/-- The initial gang register of the group at an offset (05 R104, R105). -/
def Image.gangAt (i : Image) (off : Nat) : Dword :=
  match (gangMembers i.gang).idxOf? off with
  | some k => i.gang ||| (BitVec.ofNat 64 (k + 1) <<< 58)
  | none => 0

/-- A fresh group of a launch: one strand at the entry, its vote at the quoted level (08 R175), the arguments in G0 upward (02 R32). -/
def freshGroup (s : State) (lk team cls : Nat) (side : Nat) (e : Nat × Nat × LaneMask) : Group :=
  let L := s.launch lk
  let i := L.image
  let slot := ((i.seg i.entrySeg).map Segment.home).getD i.entrySeg
  let st : Strand := { live := true, pc := pcOf slot i.entryBlk 0, members := fullMask e.2.1, exm := fullMask e.2.1, seg := i.entrySeg
                       vote := (s.quote L.qidx).lvl, voteAt := s.time.toNat }
  { live := true, uid := s.nextUid
    place := { launch := lk, team := team, off := e.1, width := e.2.1, role := i.roleAt e.1, side := side, cls := cls, regs := i.regs
               depth := i.depth, qidx := L.qidx }
    hlp := e.2.2, vwv := BitVec.ofNat 32 i.vwv, vwt := BitVec.ofNat 32 i.vwt, vwa := BitVec.ofNat 32 i.vwa
    g := L.args.zipIdx.foldl (fun t a => Tab.set 0 a.2 a.1 t) [], strands := [(0, st)], gang := i.gangAt e.1 }

/-- The lowest free resident slot of a quarter. -/
def State.lowestSlot (s : State) (cl q : Nat) : Nat :=
  ((List.range 16).find? fun k => !(s.group (groupKey cl q k)).live).getD 0

/-- A group put on a quarter, with a serial number of its own. -/
def State.seat (s : State) (cl q : Nat) (g : Group) : State :=
  { s.setGroup (groupKey cl q (s.lowestSlot cl q)) { g with uid := s.nextUid } with nextUid := s.nextUid + 1 }

/-- The layout of a team of a launch: the image's, but for the last team of a child (22 R392). -/
def Launch.layout (L : Launch) (index : Nat) : Layout :=
  let n := L.image.groups
  let last := (L.groups + n - 1) / n - 1
  if L.parent.isSome && index == last then L.image.layoutOf (L.groups - n * last) else L.image.layout
/-- Teams of a cohort of a launch, each side of a pair counted once. -/
def Launch.teamsIn (L : Launch) (cohort : Nat) : Nat :=
  if L.parent.isSome then min L.image.cohort ((L.groups + L.image.groups - 1) / L.image.groups - cohort * L.image.cohort) else L.image.cohort

/-- An acquire of a scope on every path of a cluster (11 R246, 10 R222). -/
def State.acquireAt (s : State) (cl scope : Nat) : State := if 2 ≤ scope then s.acquireL1 cl else s

/-- A fresh team k of a cohort placed whole on a cluster: portions, windows, scratchpad, slots, groups; then the acquire (13 R282). -/
def State.placeTeam (s : State) (lk cohort k side cl : Nat) : State × Nat :=
  let L := s.launch lk
  let index := cohort * L.image.cohort + k
  let lay := L.layout index
  let tk := s.teams.fresh
  let t : Team := { live := true, launch := lk, index := index, cohort := cohort, inCohort := k, lanes := lay.lanes, cluster := cl
                    phase := .running, side := side, size := L.image.size, sbase := (s.freeBase cl L.image.size).getD 0
                    scratch := L.image.freshScratch, restartable := L.rst }
  let s := (s.setTeam tk t).bindSlots cl lk
  let s := lay.foldl (fun s e => s.seat cl (L.image.quarterAt e.1) (freshGroup s lk tk L.cls side e)) s
  let s := if L.parent.isSome then s.acquireAt cl 3 else if L.acqe then s.acquireAt cl L.acqs else s
  (s.retarget cl, tk)

/-! ### The clusters that fit (13 R275, 16 R327, R332, 22 R393) -/

/-- No tenant stands in the way of a launch on a cluster: EXCL, the DL reservations that its walk has counted, no team of its own launch or
of its parent (log 35). -/
def State.clearFor (s : State) (lk cl : Nat) : Bool :=
  let L := s.launch lk
  let q := s.quote L.qidx
  let there := s.teamsOn cl
  let others := there.filter fun e => (s.launch e.2.launch).qidx != L.qidx
  (if L.parent.isSome then !(there.any fun e => some e.2.launch == L.parent)
    else !(there.any fun e => e.2.launch == lk || (s.launch e.2.launch).parent == some lk))
    && (!q.excl || others.isEmpty) && !(others.any fun e => (s.quote (s.launch e.2.launch).qidx).excl)
    && (if q.cls == 0 then others.all fun e => (s.launch e.2.launch).cls == 0 else q.excl || q.counted (s.dlCycles [cl]))

/-- A cluster is in the mask of a launch's queue and holds the reservation of its quotation (R275). -/
def State.holds (s : State) (lk cl : Nat) : Bool :=
  s.usable cl && descMask (s.descriptor (s.queue (s.launch lk).queue)) cl && match s.share (dieOf cl) (s.launch lk).qidx with
    | some h => h.cmask.getLsbD (siteOf cl)
    | none => false

/-- A cluster fits a team as it stands, or after a change of its split. -/
def State.fitsTeam (s : State) (lk cl : Nat) (lay : Layout) (split : Bool) : Bool :=
  let i := (s.launch lk).image
  s.holds lk cl && s.clearFor lk cl && if split then s.roomAfterSplit cl i lay else s.roomFor cl lk i lay

/-- The lowest site of a die, out of those that a test admits, that fits a team; one that fits only after a split change is second. -/
def State.siteFor (s : State) (lk die : Nat) (lay : Layout) (split : Bool) (ok : Nat → Bool) : Option (Nat × Bool) :=
  let sites := ((List.range 128).map fun k => clusterKey die k).filter ok
  match sites.find? fun cl => s.fitsTeam lk cl lay false with
  | some cl => some (cl, false)
  | none => if split then (sites.find? fun cl => s.fitsTeam lk cl lay true).map fun cl => (cl, true) else none

/-- The split changed for an image, if need be (09 R187). -/
def State.splitIf (s : State) (cl : Nat) (i : Image) (lay : Layout) (split : Bool) : State :=
  match split, splitFor i lay with
  | true, some v => s.writeSplit cl v
  | _, _ => s

/-- The teams of a cohort, from number k, placed on a die: each on the lowest fitting cluster, a right team in another bay than its left
team (18 R363); none where one does not fit. -/
def State.placeTeams (s : State) (lk cohort die : Nat) (split : Bool) : List Nat → Option State
  | [] => some s
  | k :: t =>
    let L := s.launch lk
    let lay := L.layout (cohort * L.image.cohort + k)
    match s.siteFor lk die lay split fun _ => true with
    | none => none
    | some (cl, sp) =>
      let (s, left) := (s.splitIf cl L.image lay sp).placeTeam lk cohort k 0 cl
      if !L.paired then s.placeTeams lk cohort die split t
      else match s.siteFor lk die lay split fun c => siteOf c / 4 != siteOf cl / 4 with
        | none => none
        | some (cr, sp) =>
          let (s, right) := (s.splitIf cr L.image lay sp).placeTeam lk cohort k 1 cr
          let s := (s.modTeam left fun x => { x with partner := right }).modTeam right fun x => { x with partner := left }
          s.placeTeams lk cohort die split t

/-- A whole cohort placed on one die, the lowest that takes it; without a split change where that is possible (13 R275). -/
def State.placeCohort (s : State) (lk : Nat) : Option State :=
  let L := s.launch lk
  let teams := List.range (L.teamsIn L.placed)
  let tries := [false, true].flatMap fun sp => (List.range 4).map fun d => (d, sp)
  (tries.findSome? fun e => s.placeTeams lk L.placed e.1 e.2 teams).map fun s => s.modLaunch lk fun L => { L with placed := L.placed + 1 }

/-! ### COHORT_PLACEMENT (13 R275, 25 R402) -/

/-- The physical pieces, 64 KiB or less each, of the writable global ranges of a launch. -/
def State.writableParts (s : State) (lk : Nat) (vault : Bool) : List (Nat × Nat) :=
  let L := s.launch lk
  (L.ranges.filter fun r => r.wr && r.vault == vault).flatMap fun r =>
    (List.range ((r.base + r.len + 65535) / 65536 - r.base / 65536)).filterMap fun k =>
      let lo := max r.base ((r.base / 65536 + k) * 65536)
      let hi := min (r.base + r.len) ((r.base / 65536 + k + 1) * 65536)
      (s.spaceAddr L.root lo).map fun pa => (pa, hi - lo)

/-- The words of the writable vault ranges of a launch that are poisoned (18 R353). -/
def State.vaultMarked (s : State) (lk : Nat) : List Nat :=
  let ps := s.writableParts lk true
  (s.vaultPoison.keys).filter fun w => ps.any fun p => overlap p (4 * w, 4)

/-- The bytes of the writable vault ranges of a launch (18 R358). -/
def State.vaultBytes (s : State) (lk : Nat) : List (Nat × Byte) :=
  (s.writableParts lk true).flatMap fun p => (List.range p.2).map fun i => (p.1 + i, s.memByte (p.1 + i))

/-- The first placement of a launch: the image is read and checked against the digest of the quotation, relocated and loaded. None when the
digest differs (15 R318). The vault ranges of a protected launch are those of its first boundary (24 R398). -/
def State.beginLaunch (s : State) (lk : Nat) : Option State :=
  let L := s.launch lk
  if L.started || L.parent.isSome then some s
  else
    let i := readImage (s.imageAt L.img)
    if Config.shake256 i.bytes != (s.quote L.qidx).digest then none
    else some ((s.modLaunch lk fun L =>
      { L with
        image := i.relocated L.ldb, started := true, vault := if L.prot then s.vaultBytes lk else []
        vaultMarks := if L.prot then s.vaultMarked lk else [] }).loadImage lk)

/-- COHORT_PLACEMENT: the next cohort of a launch, in ascending order, is placed whole; with its first cohort the launch starts. A launch
whose image has changed fails, and its breach record names the caller. -/
def execCohortPlacement (launch : Nat) (s : State) : Outcome :=
  let L := s.launch launch
  if !L.live || decide (L.cohorts ≤ L.placed) || s.rel.undercoatBusy || !s.startOpen L || (s.placeCohort launch).isNone then .next s
  else if (if L.started then s.codeBusy launch [] else s.requestBusy L.img 0 || s.spaceBusy L.root L.ldb
      (L.image.dataBase L.ldb - L.ldb + L.image.data.length)) then .next s
  else
    let t := s.startLaunch launch
    match t.beginLaunch launch with
    | none => .next ((t.logCause L.qidx 3).modLaunch launch fun L => { L with placed := L.cohorts, started := true, out := 2 })
    | some t => match t.placeCohort launch with
      | none => .next s
      | some t => .next t

/-! ### CHILD_PLACEMENT (12 R259, R260, 22 R392, R393, R395) -/

/-- The child launch that a record asks for. -/
def childOf (s : State) (lk : Nat) (r : LaunchRec) : Launch :=
  let P := s.launch lk
  let off := (P.image.children.getD r.child (0, 0)).1
  let i := (readImage fun k => P.image.bytes.getD (off + k) 0).relocated P.ldb
  let teams := (r.groups + i.groups - 1) / i.groups
  { live := true, qidx := P.qidx, parent := some lk, child := r.child, counter := r.counter, packet := P.packet, queue := P.queue, die := P.die
    cls := P.cls, img := P.img + off, image := i, root := P.root, ldb := P.ldb, reca := P.reca, args := r.args, groups := r.groups
    ranges := i.ranges.map (bindRange r.args), cohorts := (teams + i.cohort - 1) / i.cohort, paired := P.paired, prot := P.prot, rst := false
    excl := P.excl, policy := P.policy, rtry := P.rtry, started := true }

/-- Children of a launch that have not ended. -/
def State.childrenOf (s : State) (lk : Nat) : List Nat := s.launches.keys.filter fun k =>
  (s.launch k).live && (s.launch k).parent == some lk && !(s.launch k).finished

/-- Children that the reservation lets be in flight (16 Table 16-8 LSLOT). -/
def State.childSlots (s : State) (lk : Nat) : Nat :=
  (List.range 4).foldl (fun m d => match s.share d (s.launch lk).qidx with | some h => max m h.lslot | none => m) 0

/-- CHILD_PLACEMENT: the oldest record of a team is popped when the first cohort of its child is placed; the free count rises in the same
step. In a pair the left team's record is served, and the right team's goes with it (18 R366). -/
def execChildPlacement (team : Nat) (s : State) : Outcome :=
  let t := s.team team
  match t.pend with
  | [] => .next s
  | r :: _ =>
    if !t.live || t.side != 0 || t.phase == .saved || t.phase == .discarded || s.rel.undercoatBusy
        || decide (s.childSlots t.launch ≤ (s.childrenOf t.launch).length) then .next s
    else
      let lk := s.launches.fresh
      match (s.setLaunch lk (childOf s t.launch r)).placeCohort lk with
      | none => .next s
      | some s =>
        let both := if t.partner == 0 then [team] else [team, t.partner]
        .next (both.foldl (fun s k => (s.modTeam k fun t => { t with pend := t.pend.drop 1 }).noteFree k) s)

/-! ### The end of a group (08 R174) -/

/-- Service time of a launch stands still while one of its teams is off its cluster for a higher class (13 R274, 17 R347), and not while a
rollback brings its teams back. -/
def State.pauseSvc (s : State) (lk : Nat) : State :=
  let root := s.rootLaunch lk
  let off := (s.launch root).rolledAt.isNone && s.teams.any fun e => e.2.live && s.rootLaunch e.2.launch == root && match e.2.phase with
    | .draining .. => true
    | .saving => true
    | .saved => true
    | .discarded => true
    | _ => false
  if (s.launch root).live then s.modQuote (s.launch root).qidx fun q => { q with paused := off } else s

/-- A group leaves its slot, and its release set stays for the launch's release (11 R246); its team has ended once none of its groups is left. -/
def State.leave (s : State) (gk : Nat) : State :=
  let g := s.group gk
  let cl := clusterOf gk
  let lines := g.release.map fun l => (cl, l)
  let s := (s.setGroup gk {}).modLaunch g.place.launch fun L => if L.live then { L with rset := L.rset ++ lines } else L
  let s := s.modTeam g.place.team fun t => if t.live then { t with gone := t.gone ++ [(g.place.off, g.place.width)] } else t
  let rest := s.groups.any fun e => e.2.live && e.2.place.team == g.place.team
  let s := if rest then s
    else ((s.modTeam g.place.team fun t => if t.live then { t with phase := .done } else t).unbind cl g.place.launch).pauseSvc g.place.launch
  let s := if (s.groupsOn cl).any fun e => e.2.place.qidx == g.place.qidx then s else s.fall cl g.place.qidx
  s.retarget cl

/-- GROUP_END: an ended group releases its slot once its register writes have landed, its path counters are zero, its fence is complete and, in a paired launch,
its comparison has been made. A halted group keeps its slot until its launch ends or its policy acts. -/
def execGroupEnd (g : Nat) (s : State) : Outcome :=
  let x := s.group g
  let mine := s.ops.any fun e => e.2.live && e.2.group == g && e.2.uid == x.uid
  if x.live && x.ended && x.paths.isEmpty && x.fence.isNone && !mine && (!(s.launch x.place.launch).paired || x.approved) then .next (s.leave g) else .next s

/-! ### The end of a child and of a launch (12 R257, R258, R260, 16 R333, R334, 22 R393) -/

/-- Every team of a launch that has been placed has ended, and no cohort waits. A halted group counts as ended. -/
def State.teamsOver (s : State) (lk : Nat) : Bool :=
  decide ((s.launch lk).cohorts ≤ (s.launch lk).placed) && s.teams.all fun e =>
    !e.2.live || e.2.launch != lk || e.2.phase == .done
      || (e.2.phase == .running && s.groups.all fun g => !g.2.live || g.2.place.team != e.1 || g.2.halt.isSome)

/-- Every line of some clusters' L1 with dirty bytes under a context's tag is written back. -/
def State.flushTagL1 (s : State) (cls : List Nat) (qidx : Nat) (sys : Bool) : State :=
  cls.foldl (fun s cl =>
    (s.writeBacks cl sys (((s.cluster cl).l1.filter fun e => e.2.live && e.2.owner == qidx && e.2.dirty != 0).map Prod.fst)).1) s

/-- Every line of L2 with dirty bytes under a context's tag sets out for memory, on behalf of a cluster; the requests. -/
def State.flushTagL2 (s : State) (cl qidx : Nat) : State × List Nat :=
  let ls := s.slices.flatMap fun e => (e.2.lines.filter fun l => l.2.live && l.2.dirty != 0 && l.2.owner == qidx).map Prod.fst
  ls.foldl (fun (r : State × List Nat) l => let x := r.1.send (.memWrite l) cl 0 qidx (toMemory l); (x.1, x.2 :: r.2)) (s, [])

/-- Clusters of the dies that a context has reserved on. -/
def State.diesOf (s : State) (qidx : Nat) : List Nat :=
  (List.range 512).filter fun cl => (s.share (dieOf cl) qidx).isSome

/-- The release of a launch begins (11 R246): the release sets of its groups are written back, of those that have ended and of those that
have halted; for SYS every line of its dies' L1 under its tag as well. It waits for these and for every earlier write-back of its clusters. -/
def State.beginRelease (s : State) (lk scope : Nat) : State :=
  let L := s.launch lk
  let sys := scope == 4
  let s := L.rset.foldl (fun s e => (s.writeBack e.1 e.2 0 sys).1) s
  let s := (s.groups.keys.filter fun gk => (s.group gk).live && (s.group gk).place.launch == lk).foldl (fun s gk => s.releaseSet gk sys) s
  let s := if sys then s.flushTagL1 (s.diesOf L.qidx) L.qidx true else s
  s.modLaunch lk fun L => { L with stage := 1, rset := [], wbs := (s.reserved L.qidx).flatMap s.openWbs }

/-- Some of the requests that a launch's release waits for are under way. -/
def State.releasing (s : State) (lk : Nat) : Bool := (s.launch lk).wbs.any fun r => (s.req r).live

/-- One move of a launch's release of a scope: the write-backs, then for SYS the lines of L2 under its tag to memory (11 R246, 10 R222); none
once it has been performed. -/
def State.release (s : State) (lk scope : Nat) : Option State :=
  let L := s.launch lk
  if scope < 2 then none
  else if L.stage == 0 then some (s.beginRelease lk scope)
  else if s.releasing lk then some s
  else if L.stage == 1 && scope == 4 then
    let (s, rs) := s.flushTagL2 ((s.reserved L.qidx).headD 0) L.qidx
    some (s.modLaunch lk fun L => { L with stage := 2, wbs := rs })
  else none

/-- The groups, teams and slots of a launch go, and its record with them. -/
def State.dropLaunch (s : State) (lk : Nat) : State :=
  let mine := s.groups.keys.filter fun gk => (s.group gk).live && (s.group gk).place.launch == lk
  let s := mine.foldl (fun s gk => s.leave gk) s
  let s := { s with teams := s.teams.filter fun e => e.2.launch != lk, rdvs := s.rdvs.filter fun e => (s.team e.2.team).launch != lk }
  s.setLaunch lk {}

/-- A launch goes with the records of every child it started. -/
def State.dropFamily (s : State) (lk : Nat) : State :=
  let kids := s.launches.keys.filter fun k => (s.launch k).parent == some lk
  (kids.foldl State.dropLaunch s).dropLaunch lk

/-- A child goes; under a protected parent its record stays, so that a rollback can start it again (18 R355). -/
def State.endChild (s : State) (lk : Nat) : State :=
  if !(s.launch lk).prot then s.dropLaunch lk
  else
    let mine := s.groups.keys.filter fun gk => (s.group gk).live && (s.group gk).place.launch == lk
    (mine.foldl (fun s gk => s.leave gk) s).modLaunch lk fun L => { L with finished := true, stage := 0, wbs := [], rset := [] }

/-- The monitor entries of a context are freed, in tables and chains alike, without a status (14 R302). -/
def State.freeMonitors (s : State) (qidx : Nat) : State :=
  let ours := fun (e : MonEntry) => e.qidx == qidx && e.tgt != 2
  { s with slices := s.slices.map fun e =>
    if e.2.mon.any (fun m => ours m.2) || e.2.spill.any ours then
      (e.1, { e.2 with mon := e.2.mon.filter fun m => !ours m.2, spill := e.2.spill.filter fun m => !ours m })
    else e }

/-- The counter of a child that has ended rises by one step at its home slice; one that is not in global memory has no home slice, and takes
none (09 R183; log 66). -/
def State.countChild (s : State) (pa qidx : Nat) : State :=
  if isGlobal pa then s.globalWrite pa (field 4 ((s.watched pa false).1 + 1)) qidx false else s

/-- CHILD_COMPLETION: a child whose groups have all ended performs its DEV release, and one ATOMG.ADD step raises its counter, once the
line is free for it. -/
def execChildCompletion (launch : Nat) (s : State) : Outcome :=
  let L := s.launch launch
  if !L.live || L.finished || L.parent.isNone || !s.teamsOver launch then .next s
  else match s.release launch 3 with
    | some t => .next t
    | none => if s.walkBusy L.root L.counter then .next s else match s.spaceAddr L.root L.counter with
      | none => .next (s.endChild launch)
      | some pa => if isGlobal pa && s.lineBusy (pa / 256) 0 then .next s else .next ((s.endChild launch).countChild pa L.qidx)

/-- Measured time of a launch in ns (16 R334). -/
def measured (s : State) (q : QEntry) : Nat := if q.cls == 0 then s.time.toNat - q.tstart else q.svc

/-- OUT of a launch's datum (12 Table 12-4a). -/
def launchOut (L : Launch) : Nat :=
  if L.out != 0 then L.out else if L.rollbacks != 0 then 3 else if L.halts != 0 then 1 else 0

/-- The completion datum of a LAUNCH (12 R258). -/
def launchDatum (L : Launch) : Nat :=
  let code := (L.first.map fun r => r.kind.code).getD 0
  let imm := match L.first with | some r => if r.kind == .trapWord then r.imm % 65536 else 0 | none => 0
  launchOut L + min L.halts 255 * 2 ^ 8 + min L.rollbacks 7 * 2 ^ 16 + code * 2 ^ 24 + imm * 2 ^ 32

/-- A launch is over: its own groups and every child it started, no record is pending, no policy is due (22 R393). -/
def State.launchOver (s : State) (lk : Nat) : Bool :=
  let L := s.launch lk
  L.live && L.parent.isNone && !L.policyDue && s.teamsOver lk && (s.childrenOf lk).isEmpty
    && s.teams.all fun e => !e.2.live || e.2.launch != lk || e.2.pend.isEmpty

/-- A launch is over and its release performed: the meters, the checks of the figures, the breach record, the completion record; then the
entry and its reservation are free. -/
def State.endLaunch (s : State) (lk : Nat) : State :=
  let L := s.launch lk
  let s := s.dropFamily lk
  let s := (s.reserved L.qidx).foldl (fun s cl => s.foldMeter cl L.qidx) s
  let s := (s.checkFigures L.qidx).freeMonitors L.qidx
  let q := s.quote L.qidx
  let breach := !q.causes.isEmpty
  let s := if breach then s.signRecord L.die 2 L.qidx (measured s q) q.nrg else s
  let s := s.modQuote L.qidx fun q => { q with state := .done }
  let s := s.complete L.packet (if breach || L.halts != 0 || L.out != 0 then 5 else 0) (launchDatum L)
  s.freeEntry L.qidx

/-- LAUNCH_COMPLETION: the release field of its packet, step by step, and then the end of the launch. -/
def execLaunchCompletion (launch : Nat) (s : State) : Outcome :=
  let p := s.packet (s.launch launch).packet
  if !s.launchOver launch then .next s
  else match if p.rele then s.release launch p.rels else none with
    | some t => .next t
    | none => .next (s.endLaunch launch)

end Sys2Proof.Machine
end

