-- ==== Sys2Proof/Machine/Pairs.lean ====
section
/-! DEFINITION. Glove pairs: comparisons, the release of what was held back, mismatches (18 R363 to R367, 17 R350, R351). -/

namespace Sys2Proof.Machine

/-- SIG right after a comparison (17 R350). -/
def sigInit : Dword := 0xFFFFFFFFFFFFFFFF

/-- The bytes of L1 that a left group held back become ordinary dirty bytes; their lines stand in its release set again where a write-back of
other bytes of theirs has dropped them from it (10 R221). -/
def State.unholdLines (s : State) (gk : Nat) : State :=
  let u := (s.group gk).uid
  let cl := clusterOf gk
  let mine := ((s.cluster cl).l1.filter fun e => e.2.held.any fun h => h.2 == u).map Prod.fst
  let free := fun (l : L1Line) => { l with held := l.held.filter fun e => e.2 != u }
  let s := s.modCluster cl fun c => { c with l1 := c.l1.map fun e => if e.2.held.isEmpty then e else (e.1, free e.2) }
  mine.foldl (fun s l => s.noteReleaseOf gk l) s

/-- Bytes stored to a vault word by word: a word written whole loses its mark (18 R353). -/
def State.vaultStore (s : State) (l : List (Nat × Byte)) : State :=
  (l.map fun e => e.1 / 4).eraseDups.foldl (fun s w =>
    let mine := l.filter fun e => e.1 / 4 == w
    match (List.range 4).mapM fun i => (mine.reverse.find? fun e => e.1 == 4 * w + i).map Prod.snd with
    | some bs => s.vaultWrite (4 * w) bs false
    | none => mine.foldl (fun s e => s.vaultWrite e.1 [e.2] false) s) s

/-- What a left group held back is released, in order (18 R365, R366). -/
def State.unhold (s : State) (gk : Nat) : State :=
  let q := (s.group gk).heldVault
  (q.foldl State.vaultStore (s.unholdLines gk)).modGroup gk fun g => { g with heldVault := [] }

/-- A group stands at a comparison point: it waits for one, or has ended and has not made its own. -/
def Group.atPoint (g : Group) : Bool := g.live && g.halt.isNone && (g.wait == .compare || (g.ended && !g.approved))

/-- The restart point that a mismatch reports (18 R354). One found at a comparison point, a release, a word with a digest or an EXIT, is that of
the strand that issued its packet; at a forced comparison, at the stop of a close and for a group whose partner has trapped, it is that of
the lowest-numbered strand. -/
def Group.firstPc (g : Group) (point : Bool) : Word :=
  let low := g.liveStrands.headD 0
  let k := match point, g.wait, g.flight with
    | true, .compare, some f => f.strand
    | true, _, _ => if g.ended then (g.sptr + 3) % 4 else low
    | false, _, _ => low
  (g.strand k).pc

/-- A mismatch (18 R367): what was held back is discarded, and each group of the pair that has not halted halts. -/
def State.mismatch (s : State) (point : Bool) (a b : Nat) : State :=
  [a, b].foldl (fun s gk =>
    if (s.group gk).live && (s.group gk).halt.isNone then s.halt gk { kind := .mismatch, pc := (s.group gk).firstPc point }
    else s.discardHeld gk) s

/-- A comparison of signatures that agree: the stores go, and both accumulators start anew (17 R351). -/
def State.settleSigs (s : State) (l r : Nat) : State :=
  ((s.unhold l).modGroup l fun g => { g with sig := sigInit, pressed := false }).modGroup r fun g => { g with sig := sigInit }

/-- Both groups go on. -/
def State.approve (s : State) (l r : Nat) : State :=
  let go := fun (g : Group) => { g with approved := true, digest := none, wait := if g.wait == .compare then .none else g.wait }
  (s.modGroup l go).modGroup r go

/-- Poison that a left group consumed is still to reach its right partner: in a load of the partner, or in the queue before it (18 R364). -/
def State.poisonComes (s : State) (a b : Nat) : Bool :=
  let y := s.group b
  ((s.opsOf b).any fun e => e.2.poisoned != 0) || ((s.group a).fwd.any fun e => e.poison != 0) && !y.atPoint && !y.ended

/-- A group has halted, and its partner will not trap at the same packet: it has passed it, or stands at a comparison point. -/
def State.widowed (s : State) (a b : Nat) : Bool :=
  let x := s.group a
  let y := s.group b
  x.live && x.halt.isSome && y.live && y.halt.isNone && !s.poisonComes a b && (decide (x.progress < y.progress) || y.atPoint || y.ended)

/-- A comparison is forced on the left group, and the right group stands at the same packet (18 R365, R366). -/
def Group.forcedWith (x y : Group) : Bool :=
  x.live && x.halt.isNone && x.pressed && y.live && y.halt.isNone && decide (y.progress ≤ x.progress) && x.caughtUp y

/-- PAIR_COMPARISON (18 R366, R367): the comparison of the left group g with its right partner. -/
def execPairComparison (g : Nat) (s : State) : Outcome :=
  match s.partner g with
  | none => .next s
  | some p =>
    let x := s.group g
    let y := s.group p
    if x.place.side != 0 then .next s
    else if s.widowed g p || s.widowed p g then .next (s.mismatch false g p)
    else if x.forcedWith y then .next (if x.sig != y.sig then s.mismatch false g p else s.settleSigs g p)
    else if !x.atPoint || !y.atPoint then .next s
    else if x.ended != y.ended || x.digest != y.digest then .next (s.mismatch true g p)
    else if x.digest.isSome then .next (s.approve g p)
    else if x.sig != y.sig then .next (s.mismatch true g p)
    else .next ((s.settleSigs g p).approve g p)

/-- The comparison that a pair makes where its teams are stopped (18 R360, R366). -/
def State.compareStopped (s : State) (tk : Nat) : State :=
  let lefts := s.groups.keys.filter fun gk => let g := s.group gk; g.live && g.place.team == tk && g.place.side == 0 && g.halt.isNone
  lefts.foldl (fun s gk => match s.partner gk with
    | none => s
    | some p => if (s.group gk).sig == (s.group p).sig then s.settleSigs gk p else s.mismatch false gk p) s

end Sys2Proof.Machine
end

