-- ==== Sys2Proof/Machine/Saving.lean ====
section
/-! DEFINITION. Pre-emption: what a context image records, how a team is stopped, saved, discarded and restored, and the choice among drain,
discard and save (13 R279 to R286, 05 R92 to R97, 14 R300 to R302, 22 R394). -/

namespace Sys2Proof.Machine

/-! ### Restart points (05 R92, 07 R140, 08 R179, 12 R269, 14 R305, 17 R345) -/

/-- The strand k goes back to a packet that will issue again; n packets no longer count as retired. -/
def Group.back (g : Group) (k : Nat) (pc : Word) (n : Nat) : Group :=
  { g.setStrand k { g.strand k with pc := pc, park := .running } with progress := g.progress - BitVec.ofNat 64 n }

/-- Strands parked in JOIN or CKPT stand at their packets, which issue again; EXIT holds for good (R179). -/
def Group.unpark (g : Group) : Group :=
  g.liveStrands.foldl (fun g k => match (g.strand k).park with
    | .join _ => g.back k (g.strand k).pc 1
    | .ckpt => g.back k (g.strand k).pc 1
    | _ => g) g

/-- A group at its restart point: a broken run starts again, a wait in FUSE is opened anew, a packet that was not accepted issues again. A
wait on a slice stands; a WAITU.S, BARW or STAGEA is recorded with its wait, so that the image can be woken, and goes back to its packet with
the restore where it is not decided by then (14 R300, R305). -/
def State.restartGroup (s : State) (gk : Nat) : Group :=
  let g := s.group gk
  let g := match (s.quarter (clusterOf gk) (quarterOf gk)).hold with
    | some h => if h.group == gk then
        let late := if (g.flight.map Flight.strand) == some h.strand then 1 else 0
        g.back h.strand h.first (h.packets - late)
      else g
    | none => g
  let g := g.unpark
  let k := g.liveStrands.headD 0
  let g := match g.wait with
    | .monitor .. => g
    | .counter .. => g
    | .scratch k b r => { g.completeOp pSCR r.op with wait := .scratch k b { r with op := 0 } }
    | .fuse .. => { g.back k (g.strand k).pc 1 with wait := .none }
    | .fuseOver => { g.setStrand k { g.strand k with pc := ((s.fallThrough gk k).group gk).strand k |>.pc } with wait := .none }
    | _ => { g with wait := .none }
  let fresh := fun (e : Nat × Strand) => (e.1, { e.2 with block := [] })
  { g with awaits := [], awaitsFlight := [], yielded := [], noPage := [], spare := [], release := [], relAt := [], digest := none
           approved := false, pressed := false, lost := 0xFF, flight := none
           strands := g.strands.map fresh, tx := g.tx.discard }

/-- A group that resumes from a record: an undecided wait in the scratchpad is opened anew by its packet, which also keeps the place for its value
in a forwarding queue (R269, 14 R305, 18 R364); a decided one stands. -/
def Group.reopened (g : Group) : Group := match g.wait with
  | .scratch _ _ r =>
    if r.outcome.isNone then { g.back r.strand r.pc 1 with wait := .none, fwd := g.fwd.filter fun e => !e.wait } else g
  | _ => g

/-! ### Liveness (05 R94, R95) -/

/-- The liveness entry of a strand's restart point; none where its packet has none. -/
def State.livenessAt (s : State) (gk : Nat) (st : Strand) : Option Dword :=
  let h := s.header gk (pcSlot st.pc) (pcBlk st.pc)
  if !pcValid st.pc || pcBlockStart st.pc && hdrNP h == 0 || decide (hdrNP h ≤ pcPk st.pc) then none
  else match (s.imageOf (s.group gk).place.launch).seg st.seg with
    | none => none
    | some g => g.liveness[hdrLV h + pcPk st.pc]?

/-- What the strands of a group at their restart points need: the union of their entries, or everything. -/
def State.liveness (s : State) (gk : Nat) (g : Group) : Dword :=
  g.liveStrands.foldl (fun m k => match s.livenessAt gk (g.strand k) with
    | some e => m ||| e
    | none => 0xFFFFFFFFFFFFFFFF) 0

/-- The registers that an image saves: the live ones, and the status pair of a WAITU (22 R394). An item that the liveness entry does not mark
reads zero after the restore (05 R405). -/
def Group.keepLive (g : Group) (m : Dword) : Group :=
  let pair := match g.wait with
    | .monitor _ _ r => [r.d, r.d + 1]
    | .scratch _ _ r => [r.d, r.d + 1]
    | _ => []
  { g with lanes := g.lanes.filter fun e => m.getLsbD (32 + e.1 % 1024 / 32)
           g := g.g.filter fun e => m.getLsbD (16 + e.1 / 8) || pair.contains e.1
           p := g.p.filter fun e => m.getLsbD (8 + e.1)
           gp := g.gp &&& (m.setWidth 8) }

/-! ### The image (13 R280, 08 R173, 07 R152) -/

/-- The groups of a team. -/
def State.groupsIn (s : State) (tk : Nat) : List Nat := s.groups.keys.filter fun gk => (s.group gk).live && (s.group gk).place.team == tk

/-- An engine operation as an image holds it: whose it is by index; an `MMA` before its result, a fetch from its first sector. -/
def savedOp (idx : Nat) (o : Op) : Op :=
  let kind := match o.kind with
    | .mma c => .mma { c with opened := false, out := [] }
    | k => k
  { o with kind := kind, group := idx, uid := 0, reqs := [] }

/-- Whether the slot that an image names has contents to bring back, and where they came from: a segment of a child's own image has no address (R173; log
34). -/
def IStore.recorded (x : IStore) (k : Nat) : Option (Nat × Option Nat) := if x.landed then some (k, x.source) else none

/-- The length in bytes of a team's image: 64 of header, 160 for each group record, the live granules, the scratchpad (R283). -/
def State.imageSize (s : State) (tk : Nat) : Nat :=
  (s.groupsIn tk).foldl (fun n gk =>
    let g := s.restartGroup gk
    let m := s.liveness gk g
    let ones := fun (lo k : Nat) => ((List.range k).filter fun i => m.getLsbD (lo + i)).length
    n + 160 + 32 * ones 32 32 * g.place.width + 32 * ones 16 16) (64 + (s.team tk).size)

/-- The context image of a team as it stands (13 R280), its operations in the order in which they were issued (12 R264). -/
def State.capture (s : State) (tk : Nat) : SavedTeam :=
  let t := s.team tk
  let cl := t.cluster
  let gks := s.groupsIn tk
  let rec' := fun (gk : Nat) => let g := s.restartGroup gk; g.keepLive (s.liveness gk g ||| s.liveness gk g.reopened)
  { groups := gks.map fun gk => (quarterOf gk, rec' gk)
    ops := (s.ops.filter fun o => gks.contains o.2.group && s.opAlive o.2 && decide (2 < o.2.path) && o.2.accepted).map fun o =>
      (o.1, savedOp (gks.idxOf o.2.group) o.2)
    istore := ((s.cluster cl).istore.filter fun e => e.2.bound && e.2.launch == t.launch).filterMap fun e => e.2.recorded (e.1 % 64)
    bytes := s.imageSize tk, rdvs := s.rdvs.filter fun e => e.2.live && e.2.team == tk
    scr := gks.zipIdx.filterMap fun e =>
      let x := (s.cluster cl).scr.get {} (e.1 % 64)
      if x.v && x.team == tk then some (e.2, x) else none
    mons := gks.zipIdx.flatMap fun e => match (s.group e.1).wait with
      | .monitor sl _ _ =>
        (((s.slice sl).mon.map Prod.snd ++ (s.slice sl).spill).filter fun m => m.v && m.tgt == 0 && m.who == e.1).map fun m => (e.2, sl, m)
      | _ => []
    scratch := t.scratch, poison := t.poison, windows := t.windows, pend := t.pend, seqs := t.seqs, gone := t.gone }

/-- An image may run: some group has not to wait, or a child's record is pending (13 Table 13-1 RUN, 14 R301, log 37). -/
def SavedTeam.runnable (i : SavedTeam) : Bool := !i.pend.isEmpty || i.groups.any fun e => !e.2.ended && e.2.halt.isNone && match e.2.wait with
  | .monitor _ _ r => r.outcome.isSome
  | .scratch _ _ r => r.outcome.isSome
  | _ => true

/-! ### Stopping a team (13 R284, 10 R220) -/

/-- A transaction is doomed with PREEMPT: a commit that still locks gives its locks up, and both logs are discarded. -/
def State.preemptTx (s : State) (gk : Nat) : State :=
  let g := s.group gk
  if !g.tx.isOpen then s
  else
    let s := (s.opsOf gk).foldl (fun (s : State) e => match e.2.kind with
      | .commit .. => if e.2.pos == 0 then s else (s.unlock e.1).setOp e.1 { e.2 with pos := 0 }
      | _ => s) s
    s.modGroup gk fun g => { g with tx := { g.tx.discard with doom := if g.tx.doom == 0 then 5 else g.tx.doom } }

/-- Both teams of a pair, or the team alone. -/
def State.both (s : State) (tk : Nat) : List Nat := if (s.team tk).partner == 0 then [tk] else [tk, (s.team tk).partner]

/-- A team stops for a save: its quarters issue nothing for it, its commands that no engine has accepted are dropped, its transactions
doomed. A team already being saved goes on so (13 R286). -/
def State.beginSave (s : State) (tk : Nat) : State :=
  (s.both tk).foldl (fun s t =>
    if (s.team t).phase == .saving then s
    else
      let s := s.modTeam t fun x => { x with phase := .saving }
      (s.groupsIn t).foldl (fun s gk =>
        let s := ((s.opsOf gk).filter fun e => !e.2.accepted).foldl (fun s e => s.endOp e.1) s
        s.preemptTx gk) s) s

/-- The operation that counts a group's wait in its scratchpad; 0 for none. -/
def Group.scratchOp (g : Group) : Nat := match g.wait with
  | .scratch _ _ r => r.op
  | _ => 0

/-- An opened rendezvous of a team has written the tiles of some members and not of others: it runs to its end (07 R152). -/
def State.halfWritten (s : State) (tk : Nat) : Bool := s.rdvs.any fun e =>
  e.2.live && e.2.team == tk && e.2.opened && decide (e.2.joined.length < e.2.who.length)

/-- Every LS word of a team has completed but those that wait in its scratchpad, its barrier objects are marked, and no group of a pair lags
behind its partner (17 R337, R344, log 36). -/
def State.teamStill (s : State) (tk : Nat) : Bool :=
  (s.team tk).marks.isEmpty && !s.halfWritten tk && (s.groupsIn tk).all fun gk =>
    let g := s.group gk
    g.fence.isNone && (g.paths.all fun o => o.done || decide (2 < o.path) || o.op == g.scratchOp)
      && !((s.opsOf gk).any fun o => decide (o.2.path ≤ 2) && o.1 != g.scratchOp)
      && match s.partner gk with
        | some p => (s.group p).caughtUp g || g.halt.isSome
        | none => true

/-- Operations go, with the locks that they hold and with what of theirs is on its way: atomic steps are not made, and what else arrives serves
no operation. -/
def State.dropOps (s : State) (ks : List Nat) : State :=
  let s := ks.foldl (fun (s : State) k => (s.unlock k).setOp k {}) s
  let mine := fun (e : Nat × Req) => e.2.op != 0 && ks.contains e.2.op
  let atom := fun (e : Nat × Req) => match e.2.kind with | .atom _ => true | _ => false
  { s with reqs := (s.reqs.filter fun e => !(mine e && atom e)).map fun e => if mine e then (e.1, { e.2 with op := 0 }) else e }

/-- What a team has on its cluster goes: groups, engine operations, rendezvous, monitor entries, held stores. -/
def State.clearTeam (s : State) (tk : Nat) : State :=
  let cl := (s.team tk).cluster
  let gks := s.groupsIn tk
  let s := gks.foldl (fun s gk =>
    let s := (s.freeWaits gk).discardHeld gk
    let s := s.dropOps ((s.opsOf gk).map Prod.fst)
    let s := s.modQuarter cl (quarterOf gk) fun q => if (q.hold.map Hold.group) == some gk then { q with hold := none } else q
    s.setGroup gk {}) s
  let drop := fun (x : Cluster) =>
    { x with copyQ := x.copyQ.filter fun k => (s.op k).live, gatherQ := x.gatherQ.filter fun k => (s.op k).live
             scr := x.scr.filter fun e => e.2.team != tk }
  let s := s.modCluster cl drop
  let s := { s with rdvs := s.rdvs.filter fun e => e.2.team != tk }
  { s with slices := s.slices.map fun e =>
    if e.2.mon.any (fun m => m.2.tgt == 1 && m.2.team == tk) || e.2.spill.any (fun m => m.tgt == 1 && m.team == tk) then
      (e.1, e.2.without fun m => m.tgt == 1 && m.team == tk) else e }

/-- The context leaves a cluster: its meter is folded and its figures are checked (17 R346), its dynamic power falls, the level follows. -/
def State.vacate (s : State) (tk : Nat) : State :=
  let t := s.team tk
  let q := (s.launch t.launch).qidx
  let s := ((s.foldMeter t.cluster q).checkFigures q).unbind t.cluster t.launch
  let s := if (s.groupsOn t.cluster).any fun e => e.2.place.qidx == q then s else s.fall t.cluster q
  s.retarget t.cluster

/-! ### TEAM_SAVE and discards (13 R284, 14 R300) -/

/-- The entries of a team's waits, retargeted to its image: each in the slice where it stands, in table or chain (14 R300). -/
def State.retargetWaits (s : State) (tk : Nat) : State :=
  (s.groupsIn tk).zipIdx.foldl (fun (s : State) (e : Nat × Nat) => match (s.group e.1).wait with
    | .monitor sl _ _ =>
      let aim := fun (m : MonEntry) => if m.tgt == 0 && m.who == e.1 then { m with tgt := 1, who := e.2, team := tk } else m
      s.modSlice sl fun x => { x with mon := x.mon.map fun m => (m.1, aim m.2), spill := x.spill.map aim }
    | _ => s) s

/-- The header of a team's image (R279, Table 13-1): NEXT, QIDX, TEAM, BYTES in units of 256, NGRP, CLS, RST, RUN, KIND. -/
def State.imageHeader (s : State) (tk : Nat) : BitVec 512 :=
  let t := s.team tk
  let L := s.launch t.launch
  let kind := if t.phase == .discarded then 2 else if t.image.isSome then 1 else 0
  let size := match t.image with | some i => (i.bytes + 255) / 256 | none => 1
  let n := match t.image with | some i => i.groups.length | none => (L.layout t.index).length
  BitVec.ofNat 48 t.spill ++ BitVec.ofNat 16 L.qidx ++ BitVec.ofNat 16 t.index ++ BitVec.ofNat 16 size ++ BitVec.ofNat 8 n
    ++ BitVec.ofNat 2 L.cls ++ BitVec.ofBool L.rst ++ BitVec.ofBool t.run ++ BitVec.ofNat 2 kind ++ (0 : BitVec 402)

/-- The image area of a cluster in its bay's vault (R281): 1.5 MiB for each site of the bay, from 42 MiB up. -/
def areaBase (cl : Nat) : Nat :=
  0x080000000000 + 0x4000000 * (dieOf cl * 32 + siteOf cl / 4) + 0x2A00000 + 0x180000 * (siteOf cl % 4)

/-- A byte of a cluster's image area: the header of the image that stands there, and what follows it, which the spec does not lay out. -/
def State.areaByte (s : State) (cl o : Nat) : Byte := match (s.cluster cl).imageArea with
  | none => s.memByte (areaBase cl + o)
  | some tk => if o < 64 then BitVec.ofNat 8 ((s.imageHeader tk).toNat / 2 ^ (8 * o)) else Config.imageByte tk o

/-- Where HBM holds what a save or a scrub puts there (R281): a free multiple of 256 in a stack. -/
def hbmPlace (n : Nat) : Nat :=
  let v := (Config.imageSpill n).toNat
  v % 24 * 0x2000000000 + v / 24 % 300000000 * 256

/-- An image that stands in a cluster's area is moved wholly to HBM, and the area is free; NEXT of its header says where it stands (R281). -/
def State.moveImage (s : State) (cl : Nat) : State := match (s.cluster cl).imageArea with
  | none => s
  | some tk =>
    let at' := hbmPlace s.free
    let n := match (s.team tk).image with | some i => i.bytes | none => 64
    let s := s.modTeam tk fun t => if t.live then { t with spill := at' } else t
    (s.writeMem at' ((List.range n).map (s.areaByte cl))).modCluster cl fun c => { c with imageArea := none }

/-- The image areas of the clusters of some teams are free of other teams' images (R281). -/
def State.areasFree (s : State) (ts : List Nat) : Bool :=
  ts.all fun t => ((s.cluster (s.team t).cluster).imageArea.all fun x => ts.contains x)

/-- An image, or the header of a discarded team, takes a cluster's image area. -/
def State.takeArea (s : State) (cl tk : Nat) : State := s.modCluster cl fun c => { c with imageArea := some tk }

/-- The image of a stopped team is written, four fifths of it to the area of its cluster and one to HBM at NEXT (R281; log 64), and the team leaves
its cluster. -/
def State.saveOne (s : State) (tk : Nat) : State :=
  let t := s.team tk
  let im := s.capture tk
  let mons := s.retargetWaits tk
  let s := { s with slices := mons.slices }
  let keep := s.slices
  let at' := hbmPlace s.free
  let s := { (s.modTeam tk fun t => { t with image := some im, phase := .saved, run := im.runnable, wbs := none, spill := at' }).clearTeam tk with
    slices := keep }
  let s := (s.takeArea t.cluster tk).writeMem at' ((List.range ((im.bytes + 4) / 5)).map fun o => Config.imageByte tk (0x180000 + o))
  (s.vacate tk).pauseSvc t.launch

/-- The DEV release of a team that is being saved: the release set of every group is written back, and the save waits for every write-back of
the cluster (13 R284, 10 R222). -/
def State.releaseTeam (s : State) (tk : Nat) : State :=
  let s := (s.groupsIn tk).foldl (fun s gk => s.releaseSet gk false) s
  s.modTeam tk fun t => { t with wbs := some (s.openWbs t.cluster) }

/-- Every write-back that the release of a stopped team waits for has been acknowledged. -/
def State.released (s : State) (tk : Nat) : Bool := match (s.team tk).wbs with
  | none => false
  | some l => !(l.any fun r => (s.req r).live)

/-- A team may be written: stopped, its LS words over. -/
def State.saveReady (s : State) (tk : Nat) : Bool := (s.team tk).live && (s.team tk).phase == .saving && s.teamStill tk

/-- TEAM_SAVE: a stopped team whose LS words are over makes its comparison and its DEV release; once that is acknowledged, and its cluster's
image area is free, its image is written; both teams of a pair together (13 R281, R284, R286). -/
def execTeamSave (team : Nat) (s : State) : Outcome :=
  let ts := s.both team
  if !ts.all s.saveReady then .next s
  else if ts.any fun t => (s.team t).wbs.isNone then .next (ts.foldl State.releaseTeam (ts.foldl State.compareStopped s))
  else if ts.all s.released && s.areasFree ts then .next (ts.foldl State.saveOne s)
  else .next s

/-- A team is discarded: only its header stays (KIND 2), without a spill part, and it starts again from its fresh image (13 R279, R284). An image
that occupies its cluster's area is moved to HBM first (R281). -/
def State.discard (s : State) (tk : Nat) : State :=
  (s.both tk).foldl (fun s t =>
    let s := (s.clearTeam t).modTeam t fun x =>
      { x with phase := .discarded, image := none, run := true, service := 0, gone := [], pend := [], windows := [], seqs := [], marks := []
               wbs := none, spill := 0 }
    let cl := (s.team t).cluster
    let s := if (s.cluster cl).imageArea.all (· == t) then s else s.moveImage cl
    ((s.takeArea cl t).vacate t).pauseSvc (s.team t).launch) s

/-! ### TEAM_RESTORE (13 R282, 05 R97, 14 R302) -/

/-- A slot as an image brings it back: from the address that it records, or empty where it records none. -/
def State.slotBack (s : State) (lk k : Nat) (l : List (Nat × Option Nat)) : IStore :=
  let empty : IStore := { bound := true, launch := lk }
  match l.find? fun e => e.1 == k with
  | none => empty
  | some (_, none) => s.firstSlot lk k
  | some (_, some a) => { empty with landed := true, source := some a, words := bytesWords (s.spaceRead (s.launch lk).root a 2048) }

/-- The slots of a launch bound on a cluster for a restore; one that the launch holds there already stands as it is (R173). -/
def State.reloadSlots (s : State) (cl lk : Nat) (l : List (Nat × Option Nat)) : State :=
  (s.launch lk).image.slotList.foldl (fun s k =>
    if ((s.cluster cl).istore.get {} (lk * 64 + k)).bound then s
    else s.modCluster cl fun c => { c with istore := c.istore.set {} (lk * 64 + k) (s.slotBack lk k l) }) s

/-- The new name of an operation. -/
def renamed (m : List (Nat × Nat)) (k : Nat) : Nat := ((m.find? fun e => e.1 == k).map Prod.snd).getD k

/-- A wait that its record holds as decided gives its status and value before the group issues, and no latch keeps them (22 R394, 05 R97); consumed
poison waits for the wake, which halts the group. -/
def Group.woken (g : Group) : Group := match g.wait with
  | .monitor _ _ r => match r.outcome with
    | some (code, v) => if code == 3 then g else g.wake r code v
    | none => g
  | .scratch k b r => match r.outcome with
    | some (code, v) => if code == 3 then g else g.wakeScratch k b r code v
    | none => g
  | _ => g

/-- A group record with its operations under their new names; an undecided wait in the scratchpad is opened again by its word. DESIGN CHOICE: CODE
takes its recorded value, fetches that landed before an older one among them, where 08 R173 names the number of recorded fetches (17 R337;
log 85). -/
def Group.resumed (g : Group) (m : List (Nat × Nat)) : Group :=
  let g := g.reopened.woken
  let st := fun (e : Nat × Strand) => (e.1, { e.2 with drain := e.2.drain.map (renamed m) })
  { g with paths := g.paths.map fun o => { o with op := renamed m o.op }, strands := g.strands.map st
           mirrors := g.mirrors.map (renamed m) }

/-- A wait on a slice that is still undecided is registered again and checked in one step (14 R302); a consumption of poison stands as the
outcome 3. -/
def State.reinstall (s : State) (gk : Nat) (sl : Nat) (e : MonEntry) : State :=
  let e := { e with tgt := 0, who := gk }
  let put := fun (s : State) (sp : Bool) (o : Option (Nat × Nat)) => s.modGroup gk fun g => match g.wait with
    | .monitor x _ r => ({ g with wait := .monitor x sp { r with outcome := o.map fun y => (y.1, BitVec.ofNat 32 y.2) } } : Group).woken
    | _ => g
  match s.monHit e with
  | some o => put s false (some o)
  | none => match s.register sl e with
    | some (s, sp) => put s sp none
    | none => put s false (some (2, (s.watched e.waddr e.sz).1))

/-- The rendezvous of an image stand again, with the operations of their members under their new names m, and those that had opened run again from
their start (07 R152). One that had not opened counts its 4,096 cycles anew (DESIGN CHOICE, log 62). -/
def State.rejoin (s : State) (tk cl : Nat) (l : List (Nat × Rdv)) (m : List (Nat × Nat)) : State :=
  let first := s.rdvs.fresh
  let back := fun (r : Rdv) => { r with
    team := tk, since := s.clk cl, opened := false, joined := (r.joined.filter fun k => m.any fun e => e.1 == k).map (renamed m) }
  let s := { s with rdvs := l.zipIdx.foldl (fun t e => t.set {} (first + e.2) (back e.1.2)) s.rdvs }
  l.zipIdx.foldl (fun s e => if e.1.2.opened then s.openRdv (first + e.2) else s) s

/-- A team's image restored on a cluster, in the order of R282, with the names that its operations take. -/
def State.restoreImage (s : State) (tk cl : Nat) (im : SavedTeam) : State × List (Nat × Nat) :=
  let lk := (s.team tk).launch
  let base := (s.freeBase cl (s.team tk).size).getD 0
  let s := s.reloadSlots cl lk im.istore
  let s := s.modTeam tk fun t =>
    { t with cluster := cl, sbase := base, phase := .running, scratch := im.scratch, poison := im.poison, windows := im.windows
             pend := im.pend, seqs := im.seqs, gone := im.gone, image := none, run := false, spill := 0 }
  let names := im.ops.zipIdx.map fun e => (e.1.1, s.ops.fresh + e.2)
  let meets := im.rdvs.zipIdx.map fun e => (e.1.1, s.rdvs.fresh + e.2)
  let (s, gks) := im.groups.foldl (fun (r : State × List Nat) e =>
    let gk := groupKey cl e.1 (r.1.lowestSlot cl e.1)
    (r.1.seat cl e.1 (e.2.resumed names), r.2 ++ [gk])) (s, [])
  let s := im.ops.foldl (fun (s : State) e =>
    let gk := gks.getD e.2.group 0
    let kind := match e.2.kind with
      | .cfetch slot pa => .cfetch slot ((s.spaceAddr (s.launch lk).root e.2.pos).getD pa)
      | .mma c => .mma { c with rdv := renamed meets c.rdv }
      | k => k
    let s := s.setOp (renamed names e.1)
      { e.2 with kind := kind, group := gk, uid := (s.group gk).uid, cluster := cl, team := tk }
    let k := renamed names e.1
    match e.2.kind with
    | .copy _ => s.modCluster cl fun c => { c with copyQ := c.copyQ ++ [k] }
    | .gather _ => s.modCluster cl fun c => { c with gatherQ := c.gatherQ ++ [k] }
    | _ => s) s
  let s := s.rejoin tk cl im.rdvs names
  let s := { s with slices := s.slices.map fun (e : Nat × Slice) => (e.1, e.2.without fun m => m.tgt == 1 && m.team == tk) }
  let s := im.mons.foldl (fun (s : State) e =>
    let gk := gks.getD e.1 0
    match (s.group gk).wait with
    | .monitor _ _ r => if r.outcome.isSome then s else s.reinstall gk e.2.1 e.2.2
    | _ => s) s
  ((s.acquireAt cl 3).retarget cl, names)

/-- A discarded team placed again from its fresh image, under its own name. DESIGN CHOICE: it performs the acquire of its LAUNCH packet again, or a
child's, as at its first placement (13 R282; log 84). -/
def State.refresh (s : State) (tk cl : Nat) : State :=
  let t := s.team tk
  let L := s.launch t.launch
  let lay := L.layout t.index
  let base := (s.freeBase cl t.size).getD 0
  let s := (s.modTeam tk fun t =>
    { t with cluster := cl, sbase := base, phase := .running, scratch := L.image.freshScratch, poison := [], run := false, spill := 0 }).bindSlots cl t.launch
  let s := lay.foldl (fun s e => s.seat cl (L.image.quarterAt e.1) (freshGroup s t.launch tk L.cls t.side e)) s
  (if L.parent.isSome then s.acquireAt cl 3 else if L.acqe then s.acquireAt cl L.acqs else s).retarget cl

/-- The image area that a team's image holds is free again. -/
def State.leaveArea (s : State) (tk : Nat) : State :=
  s.modCluster (s.team tk).cluster fun c => if c.imageArea == some tk then { c with imageArea := none } else c

/-- A team brought back on a cluster; its image is used up. -/
def State.bringBack (s : State) (tk cl : Nat) : State × List (Nat × Nat) :=
  let s := s.leaveArea tk
  match (s.team tk).image with
  | some im => s.restoreImage tk cl im
  | none => (s.refresh tk cl, [])

/-- The layout that a team needs where it is placed again: the groups of its image, or those of a fresh team. -/
def State.needOf (s : State) (tk : Nat) : Layout :=
  let t := s.team tk
  match t.image with
  | some im => im.groups.map fun e => (e.2.place.off, e.2.place.width, e.2.hlp)
  | none => (s.launch t.launch).layout t.index

/-- The first die, and the lowest site on it, that fits a team which is off its cluster. -/
def State.homeFor (s : State) (tk : Nat) (ok : Nat → Bool) : Option (Nat × Bool) :=
  let lk := (s.team tk).launch
  let tries := [false, true].flatMap fun sp => (List.range 4).map fun d => (d, sp)
  tries.findSome? fun e => s.siteFor lk e.1 (s.needOf tk) e.2 ok

/-- A left team's operations name the operations of the right team that take their results; both have new names. -/
def State.remirror (s : State) (ks : List Nat) (m : List (Nat × Nat)) : State :=
  ks.foldl (fun (s : State) k => if (s.op k).mirror == 0 then s else s.setOp k { s.op k with mirror := renamed m (s.op k).mirror }) s

/-- A team off its cluster that may come back: a saved one whose image may run, or a discarded one. -/
def Team.comesBack (t : Team) : Bool := t.live && t.run && (t.phase == .saved || t.phase == .discarded)

/-- What a team's restore reads of its launch's code may not be read yet: the load copy, the slots' sources, the pages of its fetches (11 R238). -/
def State.restoreBusy (s : State) (tk : Nat) : Bool :=
  let lk := (s.team tk).launch
  match (s.team tk).image with
  | none => s.codeBusy lk []
  | some im => s.codeBusy lk (im.istore.filterMap Prod.snd) || im.ops.any fun e => match e.2.kind with
    | .cfetch .. => s.walkBusy (s.launch lk).root e.2.pos
    | _ => false

/-- The relaunch of a rollback is over once every team of the launch is back: its time counts against the device or the caller (18 R361). -/
def State.relaunched (s : State) (lk : Nat) : State :=
  let root := s.rootLaunch lk
  let away := s.teams.any fun e => e.2.live && s.rootLaunch e.2.launch == root && (e.2.phase == .saved || e.2.phase == .discarded)
  match (s.launch root).rolledAt with
  | none => s
  | some (t, device) =>
    if away then s
    else
      let n := s.time.toNat - t
      (s.modLaunch root fun L => { L with rolledAt := none }).modQuote (s.launch root).qidx fun q =>
        if device then { q with deviceTime := q.deviceTime + n } else { q with callerTime := q.callerTime + n }

/-- TEAM_RESTORE: a team whose image may run comes back on the lowest fitting cluster of its reservation; both teams of a pair at once, on
one die in different bays; a cohort's other teams stay on their die. -/
def execTeamRestore (team : Nat) (s : State) : Outcome :=
  let t := s.team team
  let die := dieOf t.cluster
  let lk := t.launch
  let i := (s.launch lk).image
  if !t.comesBack || s.rel.undercoatBusy || s.restoreBusy team || (t.partner != 0 && s.restoreBusy t.partner) then .next s
  else match s.homeFor team fun c => dieOf c == die with
    | none => .next s
    | some (cl, sp) =>
      let (s1, m) := (s.splitIf cl i (s.needOf team) sp).bringBack team cl
      if t.partner == 0 then .next ((s1.relaunched lk).pauseSvc lk)
      else match s1.homeFor t.partner fun c => dieOf c == die && siteOf c / 4 != siteOf cl / 4 with
        | none => .next s
        | some (cr, sp) =>
          let (s2, n) := (s1.splitIf cr i (s1.needOf t.partner) sp).bringBack t.partner cr
          let s2 := s2.remirror (m.map Prod.snd) n |>.remirror (n.map Prod.snd) m
          .next ((s2.relaunched lk).pauseSvc lk)

/-! ### PREEMPTION_DECISION (13 R283, R286) -/

/-- The walk's figures of a launch: T_team in ns, and Q_g by offset; a child has its own. -/
def State.walked (s : State) (lk : Nat) : Nat × List (Nat × Nat) :=
  let L := s.launch lk
  let q := s.quote L.qidx
  match L.parent, q.kids.find? fun k => k.1 == L.child with
  | some _, some k => k.2
  | _, _ => (q.tteam, q.qpackets)

/-- The team's core time in ns that a drain still needs: T_team × (1 − min P_g / Q_g). -/
def State.drainTime (s : State) (tk : Nat) : Nat :=
  let w := s.walked (s.team tk).launch
  let packets := fun (off : Nat) => (w.2.foldl (fun (b e : Nat × Nat) => if e.1 ≤ off && b.1 ≤ e.1 then e else b) (0, 1)).2
  (s.groupsIn tk).foldl (fun m gk =>
    let g := s.group gk
    let n := max 1 (packets g.place.off)
    max m (w.1 * (n - g.progress.toNat) / n)) 0

/-- V in ns, to the nearest 10: 1.14 µs and the image at 0.25 TB/s. -/
def State.saveTime (s : State) (tk : Nat) : Nat := ((1140 + s.imageSize tk / 250) + 5) / 10 * 10

/-- The latest start of a requester in ns: its deadline less its bound, or 12 µs from now. -/
def State.latestStart (s : State) (lk : Nat) : Nat :=
  let q := s.quote (s.launch lk).qidx
  if q.cls == 0 then q.ddl - q.tmax else s.time.toNat + 12000

/-- The method of Table 13-3 for one team, applied for a launch. -/
def State.preempt (s : State) (lk latest tk : Nat) : State :=
  let t := s.team tk
  if s.time.toNat + s.drainTime tk + 1500 ≤ latest then
    (s.both tk).foldl (fun s t => s.modTeam t fun x => { x with phase := .draining (latest - 10500) lk }) s |>.pauseSvc t.launch
  else if t.restartable && !((s.both tk).any fun k => (s.team k).marked) && decide (t.service < 2 * s.saveTime tk) then s.discard tk
  else (s.beginSave tk).pauseSvc t.launch

/-- The teams of lower class on a cluster, lowest class first. -/
def State.lowerTeams (s : State) (cl cls : Nat) : List Nat :=
  let here := (s.teamsOn cl).filter fun e => decide (cls < (s.launch e.2.launch).cls)
  [3, 2, 1].flatMap fun c => (here.filter fun e => (s.launch e.2.launch).cls == c).map Prod.fst

/-- A cluster fits a team as it stands or after a change of its split. -/
def State.fitsEither (s : State) (lk cl : Nat) (lay : Layout) : Bool := s.fitsTeam lk cl lay false || s.fitsTeam lk cl lay true

/-- The fewest teams of lower class without which a cluster fits. -/
def State.victims (s : State) (lk cl : Nat) (lay : Layout) : Option (List Nat) :=
  let low := s.lowerTeams cl (s.launch lk).cls
  let gone := fun (n : Nat) => (low.take n).foldl (fun s t => (s.clearTeam t).modTeam t fun x => { x with phase := .done }) s
  ((List.range low.length).find? fun n => let s' := gone (n + 1); s'.fitsEither lk cl lay).map fun n => low.take (n + 1)

/-- The clusters of a die that would fit a team of a launch once the teams named have left: the holders of lowest class first, then the
fewest teams. -/
def State.holders' (s : State) (lk die : Nat) (lay : Layout) : List (Nat × List Nat) :=
  let all := ((List.range 128).map fun k => clusterKey die k).filterMap fun cl =>
    if !s.holds lk cl || s.fitsEither lk cl lay then none else (s.victims lk cl lay).map fun v => (cl, v)
  let cls := fun (e : Nat × List Nat) => e.2.foldl (fun m t => min m (s.launch (s.team t).launch).cls) 3
  [3, 2, 1].flatMap fun c => (List.range 65).flatMap fun n => all.filter fun e => cls e == c && e.2.length == n

/-- The teams to pre-empt so that the next cohort of a launch can be placed on one die: the die where the fewest clusters make it fit, and of such
dies the first whose holders are of the lowest class (R283). -/
def State.toPreempt (s : State) (lk : Nat) : List Nat :=
  let L := s.launch lk
  let lay := L.layout (L.placed * L.image.cohort)
  let n := L.teamsIn L.placed * if L.paired then 2 else 1
  let tries := (List.range 4).map fun d =>
    let free := (((List.range 128).map fun k => clusterKey d k).filter fun cl => s.fitsEither lk cl lay).length
    (n - free, s.holders' lk d lay)
  let worst := fun (e : Nat × List (Nat × List Nat)) =>
    (e.2.take e.1).foldl (fun m x => x.2.foldl (fun m t => min m (s.launch (s.team t).launch).cls) m) 3
  let cost := fun (e : Nat × List (Nat × List Nat)) => 4 * e.1 + 3 - worst e
  let best := (tries.filter fun e => e.1 != 0 && decide (e.1 ≤ e.2.length)).foldl (fun (m : Option (Nat × List (Nat × List Nat))) e =>
    match m with
    | none => some e
    | some x => if cost e < cost x then some e else some x) none
  match best with
  | some (k, l) => (l.take k).flatMap Prod.snd
  | none => []

/-- PREEMPTION_DECISION (13 R283, R286): a cohort that cannot be placed takes clusters from launches of lower class, team by team. A team
already being saved serves this request too; a drain turns into a save where the latest start of a new DL request makes it so. -/
def execPreemptionDecision (launch : Nat) (s : State) : Outcome :=
  let L := s.launch launch
  if !L.live || L.parent.isSome || decide (L.cohorts ≤ L.placed) || !s.startOpen L || (s.placeCohort launch).isSome then .next s
  else
    let latest := s.latestStart launch
    .next ((s.toPreempt launch).foldl (fun s t => match (s.team t).phase with
      | .running => s.preempt launch latest t
      | .draining _ req =>
        if L.cls != 0 || req == launch || decide (s.time.toNat + s.drainTime t + 1500 ≤ latest) then s else s.beginSave t
      | _ => s) s)

/-- DRAIN_WATCHDOG (13 R284): a team that drains past its watchdog is saved. -/
def execDrainWatchdog (team : Nat) (s : State) : Outcome :=
  match (s.team team).phase with
  | .draining w _ => if (s.team team).live && decide (w ≤ s.time.toNat) then .next (s.beginSave team) else .next s
  | _ => .next s

end Sys2Proof.Machine
end

