-- ==== Sys2Proof/Machine/Reliable.lean ====
section
/-! DEFINITION. Launch policies, checkpoint intervals and the dust sheet, ROLLBACK, uncorrectable errors, the undercoat (18 R352 to R362,
08 R178, 17 R349, 24 R398). -/

namespace Sys2Proof.Machine

/-- A launch and the children that it has started. -/
def State.family (s : State) (lk : Nat) : List Nat := s.launches.keys.filter fun k => (s.launch k).live && (k == lk || (s.launch k).parent == some lk)
/-- The teams of a launch and of its children. -/
def State.familyTeams (s : State) (lk : Nat) : List Nat := s.teams.keys.filter fun t => (s.team t).live && s.rootLaunch (s.team t).launch == lk
/-- The launch that a running quotation runs. -/
def State.launchOn (s : State) (qidx : Nat) : Option Nat :=
  s.launches.keys.find? fun k => (s.launch k).live && (s.launch k).parent.isNone && (s.launch k).qidx == qidx

/-! ### Policies (R355, R356) -/

/-- FAIL: every group of a launch and of its children is stopped as in a discard; the launch will complete. -/
def State.stopLaunch (s : State) (lk out : Nat) : State :=
  let s := (s.familyTeams lk).foldl (fun s t =>
    let on := (s.team t).resident
    let s := (s.clearTeam t).modTeam t fun x =>
      { x with phase := .done, pend := [], image := none, run := false, marks := [] }
    if on then s.vacate t else s) s
  let kids := (s.family lk).filter (· != lk)
  let s := kids.foldl State.dropLaunch s
  (s.freeMonitors (s.launch lk).qidx).modLaunch lk fun L => { L with placed := L.cohorts, out := out, policyDue := false }

/-! ### ROLLBACK (R361, R398) -/

/-- In every L1 and L2, the lines that a context owns go with their dirty bytes, and the clean lines of its writable ranges; its
write-backs on their way go too, those that a slice's buffer holds among them. -/
def State.invalidate (s : State) (qidx : Nat) (parts : List (Nat × Nat)) : State :=
  let inside := fun (l : Nat) => parts.any fun p => overlap p (l * 256, 256)
  let l1 := fun (e : Nat × L1Line) => !(e.2.owner == qidx && e.2.dirty != 0) && !(e.2.dirty == 0 && (e.2.owner == qidx || inside e.1))
  let l2 := fun (e : Nat × L2Line) => !(e.2.owner == qidx && e.2.dirty != 0) && !(e.2.dirty == 0 && (e.2.owner == qidx || inside e.1))
  let drop := fun (e : Nat × L2Line) => if l2 e then some e
    else if e.2.pins.isEmpty then none else some (e.1, { e.2 with valid := 0, dirty := 0, data := [] })
  let wb := fun (e : Nat × Req) => e.2.qidx == qidx && match e.2.kind with
    | .wb .. => true
    | .stamped .. => true
    | .memWrite _ => true
    | _ => false
  let gone := fun (k : Nat) => wb (k, s.req k)
  { s with
    clusters := s.clusters.map fun e => if e.2.l1.all l1 then e else (e.1, { e.2 with l1 := e.2.l1.filter l1 })
    slices := s.slices.map fun e => if e.2.lines.all l2 && !e.2.wbuf.any gone then e
      else (e.1, { e.2 with lines := e.2.lines.filterMap drop, wbuf := e.2.wbuf.filter fun k => !gone k })
    reqs := s.reqs.filter fun e => !wb e }

/-- The records of a context in this interval, those since its launch started (24 R398), of all stacks, the newest of each stack first. -/
def State.records (s : State) (qidx : Nat) : List UndoRec :=
  s.dust.flatMap fun e => e.2.recs.filter fun r => r.qidx == qidx && r.interval == s.rel.interval && !r.spent

/-- A record applied: the line takes its old bytes and marks, stamped and evaluated, and memory takes them. -/
def State.replay (s : State) (r : UndoRec) : State :=
  let s := s.homeWrite r.line (BitVec.allOnes 256) (Tab.writeList [] 0 r.bytes) r.poison fwIdx
  s.flushLine (homeSlice (r.line * 256)) r.line

/-- The log of a context is applied and goes; FILL is 0 (17 R349). -/
def State.replayAll (s : State) (qidx : Nat) : State :=
  let s := (s.records qidx).foldl State.replay s
  { s with dust := s.dust.map fun e => (e.1, { e.2 with recs := e.2.recs.filter fun r => r.qidx != qidx || r.spent, fill := 0 }) }

/-- A team back at the boundary: its image there may run; a team that had ended stays ended, with the records that it had left; one that had been
discarded starts from its fresh image; one placed since is placed anew. -/
def State.teamBack (s : State) (t : Nat) : State :=
  match (s.team t).boundary with
  | none => s.setTeam t {}
  | some im => s.modTeam t fun x =>
      { x with phase := if im.fresh then .discarded else if im.groups.isEmpty then .done else .saved
               image := if im.groups.isEmpty then none else some im, run := im.fresh || !im.groups.isEmpty
               service := 0, pend := im.pend, gone := im.gone, marks := [], wbs := none, spill := 0
               windows := if im.fresh then [] else x.windows, seqs := if im.fresh then [] else x.seqs }

/-- The vault ranges of a launch as its boundary's images hold them, with the marks of their words (18 R358, R353). -/
def State.vaultBack (s : State) (lk : Nat) : State :=
  let s := s.vaultStore (s.launch lk).vault
  { s with vaultPoison := (s.launch lk).vaultMarks.foldl (fun t w => t.set false w true) s.vaultPoison }

/-- Rollback(Q) of R361, for a launch and its children. Its time counts from the halt that it answers, or from now for a packet. -/
def State.rollback (s : State) (lk : Nat) : State :=
  let q := (s.launch lk).qidx
  let from' := if (s.launch lk).policyDue then (s.launch lk).haltAt else (s.time.toNat, false)
  let parts := (s.family lk).flatMap fun k => s.writableParts k false
  let s := (s.familyTeams lk).foldl (fun s t =>
    let on := (s.team t).resident
    let s := s.clearTeam t
    let s := s.modTeam t fun x => { x with phase := .done }
    if on then s.vacate t else s) s
  let s := ((s.freeMonitors q).invalidate q parts).replayAll q
  let s := (s.family lk).foldl State.vaultBack s
  let s := (s.familyTeams lk).foldl State.teamBack s
  let kids := (s.family lk).filter (· != lk)
  let s := kids.foldl (fun s k =>
    if (s.launch k).placedAt == 0 then s.setLaunch k {}
    else s.modLaunch k fun L => { L with placed := L.placedAt, finished := L.finishedAt, stage := 0, wbs := [], rset := [] }) s
  let s := s.modLaunch lk fun L =>
    { L with
      placed := L.placedAt, rollbacks := L.rollbacks + 1, sinceClose := L.sinceClose + 1, policyDue := false, stage := 0, wbs := [], rset := []
      colls := L.collsAt, rolledAt := some from' }
  (s.relaunched lk).pauseSvc lk

/-- A mark of a launch's teams comes before its policy, by the cycles in which they are due (24 R401). -/
def State.markFirst (s : State) (lk : Nat) : Bool := (s.familyTeams lk).any fun t => match (s.team t).marks with
  | m :: _ => decide (m.1 < (s.launch lk).policyAt)
  | [] => false

/-- LAUNCH_POLICY_APPLY (R355, R356, R359, 24 R401): the policy of a launch for the halts that it has had since. -/
def execLaunchPolicyApply (launch : Nat) (s : State) : Outcome :=
  let L := s.launch launch
  if !L.live || !L.policyDue || s.markFirst launch then .next s
  else if L.policy == 0 then .next (s.modLaunch launch fun L => { L with policyDue := false })
  else if L.policy == 1 then .next (s.stopLaunch launch 2)
  else if decide (L.rtry ≤ L.sinceClose) || s.rel.unrecoverable then .next (s.stopLaunch launch 4)
  else .next (s.rollback launch)

/-! ### Packets (R356, R357, R361) -/

/-- The running protected launch that a packet names. -/
def State.protectedOn (s : State) (p : Packet) : Option Nat :=
  let q := s.quote (p.num 0 2)
  if q.state == .running && q.prot then s.launchOn (p.num 0 2) else none

/-- CHECKPOINT_PACKET: asks for a close, and completes when it has committed. -/
def execCheckpointPacket (pk : Nat) (s : State) : Outcome := whenTurn 9 pk s fun s p =>
  match s.protectedOn p with
  | none => s.complete pk 1 0
  | some _ => { s with rel := { s.rel with closeDue := true } }.modPacket pk fun p => { p with watching := true }

/-- ROLLBACK_PACKET: runs at once, or after the commit of a close that is under way; where the interval is unrecoverable it acts as FAIL. -/
def execRollbackPacket (pk : Nat) (s : State) : Outcome :=
  if s.rel.closing then .next s
  else whenTurn 10 pk s fun s p =>
    match s.protectedOn p with
    | none => s.complete pk 1 0
    | some lk =>
      if s.rel.unrecoverable then (s.stopLaunch lk 4).complete pk 5 0
      else (s.rollback lk).complete pk 0 (s.launch lk).boundary

/-! ### Closes (R357, R360) -/

/-- CKI_EXPIRY (R357). -/
def execCkiExpiry (launch : Nat) (s : State) : Outcome :=
  let L := s.launch launch
  if L.live && L.started && L.prot && L.parent.isNone && decide (L.boundaryAt + (s.quote L.qidx).cki * 1000 ≤ s.time.toNat) then
    .next { s with rel := { s.rel with closeDue := true } }
  else .next s

/-- The protected launches. -/
def State.protectedLaunches (s : State) : List Nat := s.launches.keys.filter fun k => (s.launch k).live && (s.launch k).prot

/-- The launches are stopped: no policy is due, their teams are still. -/
def State.allStill (s : State) : Bool :=
  s.protectedLaunches.all fun k => !(s.launch k).policyDue && s.teams.all fun t => !t.2.resident || t.2.launch != k || s.teamStill t.1

/-- Groups parked in CKPT go on with status 0 (08 R178). -/
def State.passCkpt (s : State) (gk : Nat) : State :=
  match (s.group gk).wait with
  | .ckpt d =>
    let s := s.modGroup gk fun g => { g.setG d 0 with wait := .none }
    ((s.group gk).liveStrands.filter fun k => ((s.group gk).strand k).park == .ckpt).foldl (fun s k =>
      (s.modGroup gk fun g => g.setStrand k { g.strand k with park := .running }).fallThrough gk k) s
  | _ => s

/-- The image of a team at a boundary. -/
def State.boundaryOf (s : State) (t : Nat) : Option SavedTeam := match (s.team t).phase with
  | .saved => (s.team t).image
  | .discarded => some { fresh := true }
  | .waiting => none
  | .done => some { pend := (s.team t).pend, gone := (s.team t).gone }
  | _ => some (s.capture t)

/-- The commit of a close: the interval advances, the log goes, every team's image is taken, CHECKPOINT packets complete. -/
def State.commitClose (s : State) : State :=
  let n := s.rel.interval + 1
  let rel := { s.rel with interval := n, unrecoverable := false, closeDue := false, closing := false, stage := 0, wbs := [] }
  let s : State := { s with rel := rel, dust := s.dust.map fun (e : Nat × Dust) => (e.1, { e.2 with recs := [], fill := 0, requested := false }) }
  let s := s.groups.keys.foldl State.passCkpt s
  let s := s.protectedLaunches.foldl (fun s k =>
    let bytes := s.vaultBytes k
    let marks := s.vaultMarked k
    let s := (s.teams.keys.filter fun t => (s.team t).live && (s.team t).launch == k).foldl (fun s t =>
      let b := s.boundaryOf t
      s.modTeam t fun x => { x with boundary := b }) s
    s.modLaunch k fun L => { L with boundary := n, boundaryAt := s.time.toNat, sinceClose := 0, placedAt := L.placed, finishedAt := L.finished, vault := bytes,
                                     vaultMarks := marks, collsAt := L.colls }) s
  (s.packets.keys.filter fun pk => let p := s.packet pk; p.live && p.type == 9 && p.watching).foldl (fun s pk => s.complete pk 0 n) s

/-- The write-backs of a close, each for the contexts of the protected launches: their dirty lines in L1, and then those in L2 (R360). -/
def State.closeWrites (s : State) : State :=
  let qs := (s.protectedLaunches.map fun k => (s.launch k).qidx).eraseDups
  if s.rel.stage == 0 then
    let s := qs.foldl (fun s q => s.flushTagL1 (s.reserved q) q false) s
    { s with rel := { s.rel with stage := 1, wbs := (qs.flatMap s.reserved).flatMap s.openWbs } }
  else
    let (s, rs) := qs.foldl (fun (r : State × List Nat) q =>
      let (s, l) := r.1.flushTagL2 ((s.reserved q).headD 0) q
      (s, r.2 ++ l)) (s, [])
    { s with rel := { s.rel with stage := 2, wbs := rs } }

/-- INTERVAL_CLOSE (R360): first the stop; once everything stands still the comparisons, the write-backs with their acknowledgements, and the
commit. A mismatch found by a comparison has its policy applied first. -/
def execIntervalClose (s : State) : Outcome :=
  if !s.rel.closeDue then .next s
  else if !s.rel.closing then .next { s with rel := { s.rel with closing := true } }
  else if !s.allStill then .next s
  else if s.rel.stage == 0 then
    let ks := s.protectedLaunches
    let s := (s.teams.keys.filter fun t => (s.team t).resident && ks.contains (s.team t).launch).foldl State.compareStopped s
    .next (if ks.any fun k => (s.launch k).policyDue then s else s.closeWrites)
  else if s.rel.wbs.any fun r => (s.req r).live then .next s
  else .next (if s.rel.stage == 1 then s.closeWrites else s.commitClose)

/-! ### Errors (R353) -/

/-- The team whose scratchpad holds a byte of a cluster's scratchpad portion, and the offset in it. -/
def State.scrOwner (s : State) (cl o : Nat) : Option (Nat × Nat) :=
  ((s.teamsOn cl).find? fun e => decide (e.2.sbase ≤ o) && decide (o < e.2.sbase + e.2.size)).map fun e => (e.1, o - e.2.sbase)

/-- ECC_UNCORRECTABLE (R353): the sector of global memory, the vault word or the scratchpad word is poisoned. A number from 2⁴⁸ up, which is
no physical address, names byte n mod 2²⁴ of the scratchpad portion of cluster n / 2²⁴ mod 512 (DESIGN CHOICE, log 68). -/
def execEccUncorrectable (pa : Nat) (s : State) : Outcome :=
  if 2 ^ 48 ≤ pa then match s.scrOwner (pa / 2 ^ 24 % 512) (pa % 2 ^ 24) with
    | some (t, o) => .next (s.modTeam t fun t => { t with poison := t.poison.set false (o / 4) true })
    | none => .next s
  else if isGlobal pa then .next (s.setMemPoison (pa / 64) true)
  else if isVault pa then .next { s with vaultPoison := s.vaultPoison.set false (pa / 4) true }
  else .next s

/-! ### The undercoat (R362)

The region of 2,304 GB runs on from its base through the LPDDR6 channels; it holds the bytes of HBM stack after stack (DESIGN CHOICE, log 46). -/

/-- Bytes of HBM, the dust sheet included. -/
def coatSize : Nat := 2304000000000
/-- Number of a byte of HBM, stack after stack. -/
def hbmIndex (pa : Nat) : Option Nat := match regionOf pa with
  | .hbm k => some (k * 96000000000 + pa % 0x2000000000)
  | .dustSheet k => some (k * 96000000000 + pa % 0x2000000000)
  | _ => none
/-- Number of a byte of LPDDR6, channel after channel. -/
def lpIndex (pa : Nat) : Option Nat := match regionOf pa with
  | .lpddr c => some (c * 64000000000 + (pa - 0x040000000000) % 0x1000000000)
  | _ => none
/-- A region may have its base at an address: all of it lies in LPDDR6. -/
def coatBase (pa : Nat) : Bool := pa % 64 == 0 && match lpIndex pa with
  | some b => decide (b + coatSize ≤ 3072000000000)
  | none => false
/-- Where a region holds a byte of HBM. -/
def coatAt (base pa : Nat) : Option Nat := match lpIndex base, hbmIndex pa with
  | some b, some n => some (0x040000000000 + (b + n) / 64000000000 * 0x1000000000 + (b + n) % 64000000000)
  | _, _ => none
/-- The byte of HBM that a byte of a region holds. -/
def coatSource (base pa : Nat) : Option Nat := match lpIndex base, lpIndex pa with
  | some b, some n =>
    if decide (b ≤ n) && decide (n < b + coatSize) then some ((n - b) / 96000000000 * 0x2000000000 + (n - b) % 96000000000) else none
  | _, _ => none
/-- A table with some of its entries put elsewhere, in place of what the keys that `to'` names hold. -/
def moveInto {V : Type} [DecidableEq V] (d : V) (to' : Nat → Bool) (f : Nat → Option Nat) (t : Tab V) : Tab V :=
  (t.filterMap fun e => (f e.1).map fun k => (k, e.2)).foldr (fun e m => Tab.set d e.1 e.2 m) (t.filter fun e => !to' e.1)

/-- A byte of HBM, the dust sheet included. -/
def isHbm (pa : Nat) : Bool := match regionOf pa with
  | .hbm _ => true
  | .dustSheet _ => true
  | _ => false

/-- No launch stands on any cluster. -/
def State.noneResident (s : State) : Bool := !(s.teams.any fun e => e.2.resident)

/-- UNDERCOAT_DONE (R362): with no launch resident, every sector of HBM and its mark, the dust sheet's among them, stands in the region, and the launches held back may
be placed again. -/
def execUndercoatDone (s : State) : Outcome :=
  if !s.rel.undercoatBusy || !s.noneResident then .next s
  else
    let base := s.rel.undercoat.getD 0
    let inside := fun (pa : Nat) => (coatSource base pa).isSome
    .next { s with
      mem := moveInto 0 inside (coatAt base) s.mem
      sectorPoison := moveInto false (fun k => inside (k * 64)) (fun k => (coatAt base (k * 64)).map (· / 64)) s.sectorPoison
      rel := { s.rel with undercoatBusy := false, undercoatTaken := true, coatDust := s.dust } }

/-- UNDERCOAT_RESTORE (R362): with no launch resident, the region goes back into HBM, and no cache keeps a line of a launch. -/
def execUndercoatRestore (s : State) : Outcome :=
  if !s.rel.undercoatTaken || s.rel.undercoatBusy || !s.noneResident then .next s
  else
    let base := s.rel.undercoat.getD 0
    .next { s with
      mem := moveInto 0 isHbm (coatSource base) s.mem
      sectorPoison := moveInto false (fun k => isHbm (k * 64)) (fun k => (coatSource base (k * 64)).map (· / 64)) s.sectorPoison
      dust := s.rel.coatDust
      clusters := s.clusters.map fun e => (e.1, { e.2 with l1 := e.2.l1.filter fun l => l.2.owner == fwIdx && l.2.dirty != 0 })
      slices := s.slices.map fun e => (e.1, { e.2 with lines := e.2.lines.filter fun l => l.2.owner == fwIdx && l.2.dirty != 0 }) }

end Sys2Proof.Machine
end

