-- ==== Sys2Proof/Machine/Firmware.lean ====
section
/-! DEFINITION. Firmware and the outside: the readiness word, the management mailbox, host and Ethernet accesses, ingress rings, device time,
resets, scrubs (20 R382 to R390, 11 R249, 12 R271, R272, 13 R287, 00 R9). -/

namespace Sys2Proof.Machine

/-! ### The management mailbox (R389) -/

/-- The request that firmware serves next on a die. -/
def State.request (s : State) (die : Nat) : List Byte := Tab.readList (s.die die).mailbox ((s.die die).mbHead.toNat % 1024 * 64) 64
/-- Its code. -/
def State.reqCode (s : State) (die : Nat) : Nat := ((s.request die).headD 0).toNat
/-- Widths in bytes of the operands of a request, in the order in which the model names them. They follow each other from byte 1, each with its
low byte first: the spec gives them no layout (DESIGN CHOICE, log 38). -/
def operandWidths (code : Nat) : List Nat := match code with
  | 1 => [32, 8, 8]
  | 2 => [8]
  | 3 => [4]
  | 4 => [8, 8]
  | 6 => [8, 8]
  | 7 => [32, 8]
  | 8 => [1, 1, 1, 6, 2, 2, 8, 1]
  | _ => []
/-- Numbers cut from bytes by their widths. -/
def cutNumbers : List Nat → List Byte → List Nat
  | [], _ => []
  | n :: ns, bs => leNat (bs.take n) :: cutNumbers ns (bs.drop n)
/-- Its operands. -/
def State.reqOps (s : State) (die : Nat) : List Nat := cutNumbers (operandWidths (s.reqCode die)) (((s.request die).drop 1).take 59)
/-- One operand. -/
def State.reqOp (s : State) (die k : Nat) : Nat := (s.reqOps die).getD k 0
/-- Firmware runs on a die, and a request waits. -/
def State.asked (s : State) (die : Nat) : Bool := decide (die < 4) && (s.die die).ready.getLsbD 7 && (s.die die).mbHead != (s.die die).mbTail

/-- The status word of the request is written, and the next request follows. -/
def State.answer (s : State) (die status : Nat) : State :=
  s.modDie die fun d =>
    { d with mailbox := Tab.writeLe d.mailbox (d.mbHead.toNat % 1024 * 64 + 60) 4 status, mbHead := d.mbHead + 1 }

/-- A descriptor and a root that a queue may be created from (12 R252, 01 R14): the descriptor's fields, the places of descriptor and ring,
a mask without disabled sites and firmware clusters. -/
def State.queueOk (s : State) (die : Nat) (d : BitVec 256) (addr root : Nat) : Bool :=
  let home := fun (pa : Nat) => isGlobal pa && homeDie pa == die
  descBase d % 64 == 0 && addr % 32 == 0 && home addr && home (descBase d) && home (descBase d + 64 * descSlots d - 1)
    && root % 8192 == 0 && tableOk root && (List.range 512).all fun cl => !descMask d cl || s.usable cl

/-- The queue of a die whose descriptor stands at an address. -/
def State.queueAt (s : State) (die addr : Nat) : Option Nat :=
  s.queues.keys.find? fun q => (s.queue q).live && (s.queue q).die == die && (s.queue q).desc == addr

/-- n bytes from an address stand in global memory, in one region of it. -/
def globalSpan (pa n : Nat) : Bool := isGlobal pa && n != 0 && regionOf (pa + n - 1) == regionOf pa
/-- They stand in global memory homed on a die. -/
def homedSpan (die pa n : Nat) : Bool := globalSpan pa n && homeDie pa == die

/-- The report that ATTEST signs (R390): the firmware digest, the identity public key, the readiness word and the nonce. -/
def State.attestBody (s : State) (die : Nat) : List Byte :=
  Config.firmwareDigest s.fwVersion ++ Config.identityKey die ++ field 8 (s.die die).ready.toNat ++ field 32 (s.reqOp die 0)

/-- The operands of a request are in range: what they name stands whole in memory, the 1 MiB of a spill list in HBM of the die (14 R298), the
descriptor of an ingress ring on the port's die (12 R271), 4 KiB for a report with its signature (DESIGN CHOICE, log 38). A request that concerns the whole module is answered by D0 alone (R382). -/
def State.requestOk (s : State) (die : Nat) : Bool :=
  let o := s.reqOp die
  match s.reqCode die with
  | 1 => s.queueOk die (BitVec.ofNat 256 (o 0)) (o 1) (o 2)
  | 2 => (s.queueAt die (o 0)).isSome
  | 3 => die == 0 && decide (o 0 ≤ 5200)
  | 4 => (die != 0 || coatBase (o 0))
      && homedSpan die (o 1) (2 ^ 20) && match regionOf (o 1) with | .hbm _ => true | _ => false
  | 5 => die == 0
  | 6 =>
    let img := s.homeBytes (o 0) (o 1)
    die == 0 && globalSpan (o 0) (o 1) && Config.signatureOk img && decide (s.fwFloor ≤ Config.imageVersion img)
  | 7 => globalSpan (o 1) 4096
  | 8 => decide (o 0 < 4) && decide (o 1 < 64) && (o 7 == 0 || (o 6 % 32 == 0 && homedSpan die (o 6) 32))
  | _ => false

/-- The work of a request of a code that is next and in range. -/
def whenAsked (code die : Nat) (s : State) (k : State → State) : Outcome :=
  if s.asked die && s.reqCode die == code && s.requestOk die then .next (k s) else .next s

/-- CREATEQ (12 R252, R256): the descriptor with TAIL, HEAD and the reserved bits zero (00 R10), the lowest free queue slot if there is one, the watch on TAIL. -/
def execCreateq (die : Nat) (s : State) : Outcome := whenAsked 1 die s fun s =>
  let d := BitVec.ofNat 256 (s.reqOp die 0)
  let addr := s.reqOp die 1
  let clean := d &&& ~~~ (BitVec.ofNat 256 ((2 ^ 70 - 1) * 2 ^ 128))
  let slot := (List.range 64).find? fun k => !(s.slotsTaken die).contains k
  let q := s.queues.fresh
  let Q : Queue := { live := true, die := die, desc := addr, root := s.reqOp die 2, cls := descCls d, slot := slot }
  let s := s.put addr (field 32 clean.toNat)
  ({ s with queues := s.queues.set {} q Q }.watchTail q).answer die 0

/-- DESTROYQ (R389): the queue stops; packets that have not started are dropped without a record. -/
def execDestroyq (die : Nat) (s : State) : Outcome := whenAsked 2 die s fun s =>
  match s.queueAt die (s.reqOp die 0) with
  | none => s.answer die 0
  | some q =>
    let Q := s.queue q
    let drop := Q.packets.filter fun pk => !(s.packet pk).started
    let s := drop.foldl (fun (s : State) pk => { s with packets := s.packets.set {} pk {} }) s
    let s := { s with launches := s.launches.filter fun e => !drop.contains e.2.packet }
    let s := s.modQueue q fun Q => { Q with live := false, stopped := true, slot := none, packets := Q.packets.filter fun pk => !drop.contains pk }
    let mine := fun (e : MonEntry) => e.tgt == 2 && e.who == q
    (s.modSlice (homeSlice (Q.desc + 20)) fun x => x.without mine).answer die 0

/-- Running quotations. -/
def State.running (s : State) : List Nat := s.quotes.keys.filter fun q => (s.quote q).state == .running

/-- SETCAP (01 R22, R24): a cap lowered below the sum of the live reservations names the operator in the records of the affected launches. DESIGN
CHOICE: these are the running launches, for a breach is one of a launch that runs, and none that is only accepted (log 88). -/
def execSetcap (die : Nat) (s : State) : Outcome := whenAsked 3 die s fun s =>
  let old := s.cap
  let s := { s with cap := s.reqOp die 0 }
  let s := if decide (s.cap < old) && decide (s.cap < s.headroom) then s.running.foldl (fun s q => s.logCause q 6) s else s
  s.answer die 0

/-- SETREGIONS (R389, R384): the undercoat region, which the primary firmware holds, and the die's spill list. -/
def execSetregions (die : Nat) (s : State) : Outcome := whenAsked 4 die s fun s =>
  let s := if die == 0 then { s with rel := { s.rel with undercoat := some (s.reqOp die 0) } } else s
  let bits : Dword := if die == 0 then 0x18 else 0x10
  (s.modDie die fun d => { d with spillBase := s.reqOp die 1, ready := d.ready ||| bits }).answer die 0

/-- UNDERCOAT (18 R362): every running launch is saved first; BUSY while one is under way. Without a region there is nothing to copy into. -/
def execUndercoat (die : Nat) (s : State) : Outcome := whenAsked 5 die s fun s =>
  if s.rel.undercoatBusy || s.rel.undercoat.isNone then s.answer die 2
  else
    let s := (s.teams.keys.filter fun t => (s.team t).resident).foldl State.beginSave s
    { s with rel := { s.rel with undercoatBusy := true } }.answer die 0

/-- FWUPDATE (R390): a verified image waits for the next reset. -/
def execFwupdate (die : Nat) (s : State) : Outcome := whenAsked 6 die s fun s =>
  { s with staged := some (s.homeBytes (s.reqOp die 0) (s.reqOp die 1)) }.answer die 0

/-- ATTEST (R390): the firmware digest, the identity public key, the readiness word and the nonce, signed with the die's record key. -/
def execAttest (die : Nat) (s : State) : Outcome := whenAsked 7 die s fun s =>
  let dest := s.reqOp die 1
  let body := s.attestBody die
  let (s, bs) := s.signed die fun _ => body
  (s.put dest bs).answer die 0

/-- SETFILTER (R386): port, number, kind, addresses and the ring of the filter. The reserved bytes of the ring's descriptor read zero from then on
(12 Table 12-11, 00 R10). -/
def execSetfilter (die : Nat) (s : State) : Outcome := whenAsked 8 die s fun s =>
  let o := s.reqOp die
  let f : Filter := { live := o 7 != 0, byPort := o 2 != 0, mac := BitVec.ofNat 48 (o 3), ethertype := BitVec.ofNat 16 (o 4)
                      udp := BitVec.ofNat 16 (o 5), ring := o 6 }
  let s := if f.live then (s.put f.ring (field 12 0)).put (f.ring + 24) (field 1 0) else s
  (s.modDie die fun d => { d with filters := d.filters.set {} (o 0 * 64 + o 1) f }).answer die 0

/-- MAILBOX_BADREQ (R389): an unknown code or an operand out of range. -/
def execMailboxBadreq (die : Nat) (s : State) : Outcome :=
  if s.asked die && !s.requestOk die then .next (s.answer die 1) else .next s

/-! ### Readiness (R384, Table 20-2) -/

/-- Bits that a function sets for itself: QUO, FE, FW, HBM, LP, EP, LNK. -/
def functionBit (b : Nat) : Bool := (decide (5 ≤ b) && decide (b ≤ 7)) || (decide (12 ≤ b) && decide (b ≤ 26))

/-- FUNCTION_READY (R384): the bit is set; firmware that comes up writes the capability list. -/
def execFunctionReady (die bit : Nat) (s : State) : Outcome :=
  if !functionBit bit || decide (4 ≤ die) then .next s
  else
    .next (s.modDie die fun d =>
      { d with ready := d.ready ||| (1#64 <<< bit), caps := if bit == 7 then d.capabilities die s.fwVersion else d.caps })

/-- FUNCTION_RESET (R384): the bit is cleared; a reset of the firmware cluster is counted (08 R181). The spill list and the undercoat region
are to be set aside again. -/
def execFunctionReset (die bit : Nat) (s : State) : Outcome :=
  if !(functionBit bit || bit == 3 || bit == 4) || decide (4 ≤ die) then .next s
  else if bit == 7 then .next (s.resetFirmware die)
  else if bit == 4 then .next (s.modDie die fun d => { d with ready := d.ready &&& ~~~ (1#64 <<< bit), spillBase := 0 })
  else if bit == 3 then
    let s := if die == 0 then { s with rel := { s.rel with undercoat := none } } else s
    .next (s.modDie die fun d => { d with ready := d.ready &&& ~~~ (1#64 <<< bit) })
  else .next (s.modDie die fun d => { d with ready := d.ready &&& ~~~ (1#64 <<< bit) })

/-! ### Resets and scrubs (00 R9, R390, 13 R287) -/

/-- A team that is being saved finds its cluster's image area occupied by another image (13 R281). -/
def State.areaNeeded (s : State) (cl : Nat) : Bool := match (s.cluster cl).imageArea with
  | none => false
  | some x => (s.teamsOn cl).any fun e => e.2.phase == .saving && !(s.both e.1).contains x

/-- POWER_ON_RESET (R9): every field at its reset value, but for the one-way counters, the fused version floor and the installed firmware
(R390); what the outside has seen and will bring is none of the device's. -/
def execPowerOnReset (s : State) : Outcome :=
  let die := fun (d : Nat) => { resetDie with leaf := (s.die d).leaf, keys := (s.die d).keys }
  .next { State.reset with
    dies := [(0, die 0), (1, die 1), (2, die 2), (3, die 3)]
    staged := none, fwVersion := (s.staged.map Config.imageVersion).getD s.fwVersion, fwFloor := s.fwFloor
    outside := s.outside, inputs := s.inputs, free := s.free, nextUid := s.nextUid }

/-- DEVICE_RESET (R390): every firmware cluster resets, a staged image is applied, and every running launch logs cause 0x04. -/
def execDeviceReset (s : State) : Outcome :=
  let s := s.running.foldl (fun s q => s.logCause q 4) s
  let s := [0, 1, 2, 3].foldl State.resetFirmware s
  .next { s with fwVersion := (s.staged.map Config.imageVersion).getD s.fwVersion, staged := none }

/-- SCRUB (R287, R281): a bank or a vault is busy for its bound, which changes nothing; a cluster's image area that a save needs is emptied:
the image in it is moved wholly to HBM (log 65). -/
def execScrub (unit : Nat) (s : State) : Outcome :=
  if s.areaNeeded unit then .next (s.moveImage unit) else .next s

/-! ### The host (11 R249, R383) -/

/-- The first byte of a run that lies in a hole. -/
def holeIn (pa n : Nat) : Option Nat := ((List.range n).map (pa + ·)).find? fun a => regionOf a == .hole

/-- The bytes of a write that stand in global memory, up to the first that does not. -/
def globalPart (pa : Nat) (bs : List Byte) : List Byte := (bs.zipIdx.takeWhile fun e => isGlobal (pa + e.2)).map Prod.fst
/-- Bytes written to the physical address space from outside: to global memory, line by line at their home slices, and to a die's window. A
vault, an image area and the dust sheet have no such event in 09 Table 9-1 and stay as they are (log 51). -/
def State.hostPut (s : State) (pa : Nat) (bs : List Byte) : State :=
  if isGlobal pa then s.sysWrite pa (s.keepFixed pa (globalPart pa bs)) fwIdx
  else if regionOf pa == .device then s.winWrite pa bs
  else s

/-- A byte as a host read finds it: memory without any cache, a device window, or the image area of a cluster. -/
def State.hostByte (s : State) (pa : Nat) : Byte := match regionOf pa with
  | .device => s.winByte pa
  | .imageArea =>
    let o := (pa - 0x080000000000) % 0x4000000 - 0x2A00000
    s.areaByte (clusterKey ((pa - 0x080000000000) / 0x80000000) ((pa - 0x080000000000) / 0x4000000 % 32 * 4 + o / 0x180000)) (o % 0x180000)
  | _ => s.memByte pa

/-- HOST_WRITE (R249): stamped at the home slice, written to memory, acknowledged. -/
def execHostWrite (pa : Nat) (bytes : List Byte) (s : State) : Outcome :=
  match holeIn pa bytes.length with
  | some a => .fault (.hole a)
  | none =>
    let s := s.hostPut pa bytes
    .next { s with outside := { s.outside with writes := s.outside.writes + 1 } }

/-- HOST_READ (R249): served from memory. -/
def execHostRead (pa n : Nat) (s : State) : Outcome :=
  match holeIn pa n with
  | some a => .fault (.hole a)
  | none =>
    let bs := (List.range n).map fun i => s.hostByte (pa + i)
    .next { s with outside := { s.outside with reads := (pa, bs) :: s.outside.reads } }

/-- ETHERNET_EGRESS (R249): source bytes are read as by a host read; the module has 16 ports (01 R12). -/
def execEthernetEgress (port pa n : Nat) (s : State) : Outcome :=
  if 16 ≤ port then .next s else match holeIn pa n with
  | some a => .fault (.hole a)
  | none =>
    let bs := (List.range n).map fun i => s.hostByte (pa + i)
    .next { s with outside := { s.outside with egress := (port, bs) :: s.outside.egress } }

/-! ### Ingress rings (12 R271, R272, R386) -/

/-- A filter of a port matches a frame. -/
def Filter.matches (f : Filter) (mac : BitVec 48) (ethertype udp : BitVec 16) : Bool :=
  f.live && if f.byPort then f.udp == udp else f.mac == mac && f.ethertype == ethertype

/-- The lowest-numbered filter of a port that matches. -/
def Die.filterFor (d : Die) (port : Nat) (mac : BitVec 48) (ethertype udp : BitVec 16) : Option Filter :=
  ((List.range 64).map fun k => d.filters.get {} (port * 64 + k)).find? fun f => f.matches mac ethertype udp

/-- INGRESS_FRAME (R272): slot bytes first, then TAIL; a full ring or a frame too long counts in DROP; a frame that no filter matches is
dropped. One whose ring's descriptor may not be read yet waits (11 R238). -/
def execIngressFrame (die port : Nat) (mac : BitVec 48) (ethertype udp : BitVec 16) (frame : List Byte) (s : State) : Outcome :=
  if decide (4 ≤ port) || !(s.die die).ready.getLsbD (20 + port) then .next s
  else match (s.die die).filterFor port mac ethertype udp with
    | none => .next s
    | some f =>
      if s.rangeBusy f.ring 32 then .next s else
      let d := leNat (s.homeBytes f.ring 32)
      let size := 2 ^ bits d 207 204
      let count := 2 ^ bits d 203 200
      let tail := bits d 127 96
      if (tail + 2 ^ 32 - bits d 159 128) % 2 ^ 32 == count || decide (size < frame.length + 16) then
        .next (s.globalWrite (f.ring + 20) (field 4 (bits d 191 160 + 1)) fwIdx false)
      else
        let t := s.time.toNat
        let head := field 6 (t / 1000000000) ++ field 4 (t % 1000000000) ++ field 2 frame.length ++ field 1 port ++ field 3 0
        let s := s.globalWrite (bits d 255 208 + size * (tail % count)) (head ++ frame) fwIdx false
        .next (s.globalWrite (f.ring + 12) (field 4 (tail + 1)) fwIdx false)

/-! ### Device time (R387, R388, 08 R177) -/

/-- A device time shifted. -/
def shift (d : Int) (t : Nat) : Nat := ((t : Int) + d).toNat

/-- Every device time that the device holds, shifted by the step. -/
def State.shiftTimes (s : State) (d : Int) : State :=
  let mon := fun (e : MonEntry) => if e.tgt == 2 then e else { e with exp := shift d e.exp }
  let slice := fun (e : Nat × Slice) =>
    (e.1, { e.2 with mon := e.2.mon.map fun m => (m.1, mon m.2), spill := e.2.spill.map mon })
  let quote := fun (e : Nat × QEntry) =>
    if e.2.state == .free then e
    else (e.1, { e.2 with ddl := shift d e.2.ddl, vdl := shift d e.2.vdl, tstart := shift d e.2.tstart
                          causes := e.2.causes.map fun c => (c.1, shift d c.2) })
  let group := fun (g : Group) => { g with strands := g.strands.map fun t => (t.1, { t.2 with voteAt := shift d t.2.voteAt }) }
  let saved := fun (i : SavedTeam) => { i with
    mons := i.mons.map fun m => (m.1, m.2.1, mon m.2.2), groups := i.groups.map fun g => (g.1, group g.2) }
  let team := fun (e : Nat × Team) =>
    (e.1, { e.2 with image := e.2.image.map saved, boundary := e.2.boundary.map saved, phase := match e.2.phase with
      | .draining w r => .draining (shift d w) r
      | p => p })
  let cluster := fun (e : Nat × Cluster) =>
    (e.1, { e.2 with flits := e.2.flits.map fun f => (shift d f.1, f.2)
                     boosts := e.2.boosts.map fun b => (shift d b.1, b.2), stretches := e.2.stretches.map fun b => (shift d b.1, b.2)
                     power := { e.2.power with
                       windowAt := shift d e.2.power.windowAt, droopAt := shift d e.2.power.droopAt
                       window := e.2.power.window.map fun w => (shift d (w.1 / 8192) * 8192 + w.1 % 8192, w.2) } })
  { s with
    groups := s.groups.map fun e => (e.1, group e.2)
    reqs := s.reqs.map fun e => (e.1, { e.2 with since := shift d e.2.since })
    clusters := s.clusters.map cluster, slices := s.slices.map slice, quotes := s.quotes.map quote, teams := s.teams.map team
    launches := s.launches.map fun e => (e.1, { e.2 with
      boundaryAt := shift d e.2.boundaryAt, haltAt := (shift d e.2.haltAt.1, e.2.haltAt.2)
      rolledAt := e.2.rolledAt.map fun r => (shift d r.1, r.2) })
    packets := s.packets.map fun e => (e.1, { e.2 with eventAt := e.2.eventAt.map (shift d) }) }

/-- An offset estimate, and since when the offset lies within 50 ns, or beyond (R387). -/
def Ptp.heard (p : Ptp) (port : Nat) (offset : Int) (now : Nat) : Ptp :=
  let near := decide (offset.natAbs ≤ 50)
  { p with master := true, port := port, offset := offset, near := near, since := if near == p.near && p.master then p.since else now }

/-- PTP_MESSAGE (R387, R388): the first offset estimate steps device time and all that the device holds of it; a later one is slewed. -/
def execPtpMessage (port : Nat) (offset : Int) (s : State) : Outcome :=
  if 16 ≤ port then .next s
  else if s.ptp.stepped then .next { s with ptp := { s.ptp.heard port offset s.time.toNat with slew := offset } }
  else
    let s := s.shiftTimes offset
    let now := shift offset s.time.toNat
    .next { s with time := BitVec.ofNat 64 now, ptp := { s.ptp.heard port 0 now with stepped := true } }

/-- The offset from the master has stayed within 50 ns for 1 s, which locks, or beyond it for 1 s (R387). -/
def Ptp.lockDue (p : Ptp) (locked : Bool) (now : Nat) : Bool :=
  p.locked != locked && p.near == locked && (p.master || !locked) && decide (p.since + 1000000000 ≤ now)

/-- SYNC_LOCK_CHANGE (R387): the SYNC bit of every die. -/
def execSyncLockChange (locked : Bool) (s : State) : Outcome :=
  if !s.ptp.lockDue locked s.time.toNat then .next s
  else
    let set := fun (d : Die) => { d with ready := if locked then d.ready ||| (1#64 <<< 27) else d.ready &&& ~~~ (1#64 <<< 27) }
    .next { s with ptp := { s.ptp with locked := locked }, dies := s.dies.map fun e => (e.1, set e.2) }

/-- NO_MASTER_HEARD (R387): device time runs on the local oscillator. -/
def execNoMasterHeard (s : State) : Outcome := .next { s with ptp := { s.ptp with master := false, slew := 0 } }

/-- EVENT_MESSAGE_TRANSMISSION (R387): a port's own message, with the device time at its timestamp point, in 48-bit seconds and 32-bit
nanoseconds. -/
def execEventMessageTransmission (port : Nat) (s : State) : Outcome :=
  let t := s.time.toNat
  if 16 ≤ port then .next s
  else .next { s with outside := { s.outside with sent := (port, t / 1000000000 % 2 ^ 48, t % 1000000000) :: s.outside.sent } }

end Sys2Proof.Machine
end

