-- ==== Sys2Proof/Machine/Flags.lean ====
section
/-! DEFINITION. The predicates of the machine, its only flags: the conditions of the compare words (03 Table 3-5), truth tables of `PLOP`,
votes, and the words' results in a predicate. -/

namespace Sys2Proof.Machine

/-- Conditions 0 to 5 from less and equal. -/
def orderCond (c : Nat) (lt eq : Bool) : Bool :=
  match c with
  | 0 => eq
  | 1 => !eq
  | 2 => lt
  | 3 => lt || eq
  | 4 => !(lt || eq)
  | _ => !lt

/-- `ICMP` (R122). -/
def icmpCond (c : Nat) (a b : Word) : Bool := orderCond c (a.slt b) (a == b)
/-- `UCMP` (R122). -/
def ucmpCond (c : Nat) (a b : Word) : Bool := orderCond c (a.ult b) (a == b)
/-- `FCMP` (R54, R122): conditions 0 to 6 and the negated relation are false on a NaN, the rest hold on one. -/
def fcmpCond (c : Nat) (a b : Word) : Bool :=
  let (lt, eq, un) := f32Rel a.toNat b.toNat
  let gt := !lt && !eq && !un
  match c with
  | 0 => eq
  | 1 => lt || gt
  | 2 => lt
  | 3 => lt || eq
  | 4 => gt
  | 5 => gt || eq
  | 6 => !un
  | 7 => un
  | 8 => !eq
  | 9 => lt || un
  | 10 => lt || eq || un
  | 11 => gt || un
  | 12 => gt || eq || un
  | _ => eq || un
/-- `GCMP` (R54): signed for 0 to 5, unsigned for 6 to 9. -/
def gcmpCond (c : Nat) (a b : Word) : Bool :=
  match c with
  | 6 => a.ult b
  | 7 => a.ule b
  | 8 => b.ult a
  | 9 => b.ule a
  | _ => icmpCond c a b

/-- The mask of the lanes for which a test holds, of a list of lanes. -/
def maskOf (f : Nat → Bool) (l : List Nat) : LaneMask := l.foldl (fun m i => if f i then m ||| ((1 : LaneMask) <<< i) else m) 0

/-- Bit of a lane of a predicate, as the packet reads it. -/
def State.predBit (s : State) (n lane : Nat) : Bool := (s.seen.pred n).getLsbD lane

/-- A word that sets Pn in the lanes of EXM: issue, its energy VA1, the outcome of a test in each lane (R85, R122). -/
def predWordOf (i : Instr) (n : Nat) (f : State → Nat → Bool) (s : State) : Outcome :=
  issue i s fun s =>
    let m := s.str.exm
    .next ((s.chargeMe (eVA1 * popcount m)).modMe fun g => g.writePred n m (maskOf (f s) (lanesOf m)))

/-- `PLOP`'s bit: F[2a + b] (R123). -/
def plopBit (f : BitVec 4) (a b : Bool) : Bool := f.getLsbD ((if a then 2 else 0) + (if b then 1 else 0))

end Sys2Proof.Machine
end

