-- ==== Sys2Proof/Machine/Vector.lean ====
section
/-! DEFINITION. Vector integer, float and predicate words (chapter 06). Each word is one of the moulds of R107 over its effect. -/

namespace Sys2Proof.Machine

/-! ### Moulds (R107) -/

/-- A word of one 32-bit source. -/
def lane1 (i : Instr) (pipe : Pipe) (cost : Nat) (w : Bool) (d : BitVec 7) (a : BitVec 8) (f : Word → Word) (s : State) : Outcome :=
  laneWord i pipe w d 4 cost (fun s l => (f (s.src a l)).toNat) s
/-- A word of two 32-bit sources. -/
def lane2 (i : Instr) (pipe : Pipe) (cost : Nat) (w : Bool) (d : BitVec 7) (a b : BitVec 8) (f : Word → Word → Word) (s : State) :
    Outcome :=
  laneWord i pipe w d 4 cost (fun s l => (f (s.src a l) (s.src b l)).toNat) s
/-- A word of two 32-bit sources and the destination. -/
def lane3 (i : Instr) (pipe : Pipe) (cost : Nat) (w : Bool) (d : BitVec 7) (a b : BitVec 8) (f : Word → Word → Word → Word)
    (s : State) : Outcome :=
  laneWord i pipe w d 4 cost (fun s l => (f (s.src a l) (s.src b l) (s.dreg d l)).toNat) s

/-- An F32 or packed operation on encodings, as a word operation. -/
def num1 (f : Nat → Nat) (a : Word) : Word := BitVec.ofNat 32 (f a.toNat)
/-- Of two sources. -/
def num2 (f : Nat → Nat → Nat) (a b : Word) : Word := BitVec.ofNat 32 (f a.toNat b.toNat)
/-- Of three. -/
def num3 (f : Nat → Nat → Nat → Nat) (a b d : Word) : Word := BitVec.ofNat 32 (f a.toNat b.toNat d.toNat)

/-! ### Effects (Table 6-3, R113 to R115) -/

/-- IMM16 × 2^16 (R113). -/
def highWord (imm : BitVec 16) : Word := imm ++ (0 : BitVec 16)
/-- The high word of a signed product. -/
def mulHighS (a b : Word) : Word := ((a.signExtend 64 * b.signExtend 64) >>> 32).truncate 32
/-- The high word of an unsigned product. -/
def mulHighU (a b : Word) : Word := ((a.zeroExtend 64 * b.zeroExtend 64) >>> 32).truncate 32
/-- Left by s, zeros entering (R114). -/
def shiftL (a : Word) (s : Nat) : Word := if 32 ≤ s then 0 else a <<< s
/-- Right by s, zeros entering. -/
def shiftR (a : Word) (s : Nat) : Word := if 32 ≤ s then 0 else a >>> s
/-- Right by s, copies of the sign entering. -/
def shiftA (a : Word) (s : Nat) : Word := if 32 ≤ s then (if a.msb then -1 else 0) else a.sshiftRight s
/-- The lesser and the greater, signed and unsigned. -/
def iminW (a b : Word) : Word := if a.slt b then a else b
/-- Signed maximum. -/
def imaxW (a b : Word) : Word := if a.slt b then b else a
/-- Unsigned minimum. -/
def uminW (a b : Word) : Word := if a.ult b then a else b
/-- Unsigned maximum. -/
def umaxW (a b : Word) : Word := if a.ult b then b else a
/-- Magnitude modulo 2^32. -/
def absW (a : Word) : Word := if a.msb then -a else a
/-- The effective length of a field control (R115). -/
def fieldLen (c : Word) : Nat := min (bits c.toNat 13 8) (32 - c.toNat % 32)
/-- `BFE` (R115). -/
def bfeW (a c : Word) : Word :=
  let m := fieldLen c
  let v := a.toNat / 2 ^ (c.toNat % 32) % 2 ^ m
  if m != 0 && c.getLsbD 16 && v.testBit (m - 1) then BitVec.ofNat 32 (v + (2 ^ 32 - 2 ^ m)) else BitVec.ofNat 32 v
/-- `BFI`: the value and the control are the halves of a pair (R115). -/
def bfiW (pair : Dword) (d : Word) : Word :=
  let c : Word := (pair >>> 32).truncate 32
  let mask : Word := BitVec.ofNat 32 ((2 ^ fieldLen c - 1) * 2 ^ (c.toNat % 32))
  (d &&& ~~~ mask) ||| (((pair.truncate 32 : Word) <<< (c.toNat % 32)) &&& mask)
/-- The number of 1 bits. -/
def popW (a : Word) : Word := BitVec.ofNat 32 ((List.range 32).filter fun k => a.getLsbD k).length
/-- The number of leading 0 bits. -/
def clzW (a : Word) : Word := BitVec.ofNat 32 (if a == 0 then 32 else 31 - Nat.log2 a.toNat)
/-- The bits in reverse order. -/
def brevW (a : Word) : Word := BitVec.ofNat 32 ((List.range 32).foldl (fun n k => 2 * n + (if a.getLsbD k then 1 else 0)) 0)

/-! ### Integer words -/

/-- `MOV` (R112). -/
def execMov (w : Bool) (d : BitVec 7) (a : BitVec 8) (s : State) : Outcome :=
  lane1 (.mov w d a) .va eVA1 w d a id s

/-- `MOVI` (R113). -/
def execMovi (w : Bool) (d : BitVec 7) (imm : BitVec 16) (s : State) : Outcome :=
  laneWord (.movi w d imm) .va w d 4 eVA1 (fun _ _ => (imm.signExtend 32).toNat) s

/-- `MOVHI` (R113). -/
def execMovhi (w : Bool) (d : BitVec 7) (imm : BitVec 16) (s : State) : Outcome :=
  laneWord (.movhi w d imm) .va w d 4 eVA1 (fun _ _ => (highWord imm).toNat) s

/-- `IADD` (R112). -/
def execIadd (w : Bool) (d : BitVec 7) (a b : BitVec 8) (s : State) : Outcome :=
  lane2 (.iadd w d a b) .va eVA1 w d a b (fun a b => a + b) s

/-- `IADDI` (R112). -/
def execIaddi (w : Bool) (d : BitVec 7) (a imm : BitVec 8) (s : State) : Outcome :=
  lane1 (.iaddi w d a imm) .va eVA1 w d a (fun a => a + imm.signExtend 32) s

/-- `ISUB` (R112). -/
def execIsub (w : Bool) (d : BitVec 7) (a b : BitVec 8) (s : State) : Outcome :=
  lane2 (.isub w d a b) .va eVA1 w d a b (fun a b => a - b) s

/-- `IMUL` (R112). -/
def execImul (w : Bool) (d : BitVec 7) (a b : BitVec 8) (s : State) : Outcome :=
  lane2 (.imul w d a b) .va eVA1 w d a b (fun a b => a * b) s

/-- `IMULH` (R112). -/
def execImulh (w : Bool) (d : BitVec 7) (a b : BitVec 8) (s : State) : Outcome :=
  lane2 (.imulh w d a b) .va eVA2 w d a b (mulHighS) s

/-- `IMULHU` (R112). -/
def execImulhu (w : Bool) (d : BitVec 7) (a b : BitVec 8) (s : State) : Outcome :=
  lane2 (.imulhu w d a b) .va eVA2 w d a b (mulHighU) s

/-- `IMAD` (R112). -/
def execImad (w : Bool) (d : BitVec 7) (a b : BitVec 8) (s : State) : Outcome :=
  lane3 (.imad w d a b) .va eVA1 w d a b (fun a b d => a * b + d) s

/-- `IADD64` (R112). -/
def execIadd64 (w : Bool) (d : BitVec 7) (a b : BitVec 8) (s : State) : Outcome :=
  laneWord (.iadd64 w d a b) .va w d 8 eVA2 (fun s l => (s.src64 a l + s.src64 b l).toNat) s

/-- `LEA` (R112). -/
def execLea (w : Bool) (d : BitVec 7) (a b : BitVec 8) (s : State) : Outcome :=
  laneWord (.lea w d a b) .va w d 8 eVA2 (fun s l => (s.src64 a l + (s.src b l).signExtend 64).toNat) s

/-- `AND` (R112). -/
def execAnd (w : Bool) (d : BitVec 7) (a b : BitVec 8) (s : State) : Outcome :=
  lane2 (.and w d a b) .va eVA1 w d a b (fun a b => a &&& b) s

/-- `OR` (R112). -/
def execOr (w : Bool) (d : BitVec 7) (a b : BitVec 8) (s : State) : Outcome :=
  lane2 (.or w d a b) .va eVA1 w d a b (fun a b => a ||| b) s

/-- `XOR` (R112). -/
def execXor (w : Bool) (d : BitVec 7) (a b : BitVec 8) (s : State) : Outcome :=
  lane2 (.xor w d a b) .va eVA1 w d a b (fun a b => a ^^^ b) s

/-- `ANDN` (R112). -/
def execAndn (w : Bool) (d : BitVec 7) (a b : BitVec 8) (s : State) : Outcome :=
  lane2 (.andn w d a b) .va eVA1 w d a b (fun a b => a &&& ~~~ b) s

/-- `SHL` (R114). -/
def execShl (w : Bool) (d : BitVec 7) (a b : BitVec 8) (s : State) : Outcome :=
  lane2 (.shl w d a b) .va eVA1 w d a b (fun a b => shiftL a b.toNat) s

/-- `SHR` (R114). -/
def execShr (w : Bool) (d : BitVec 7) (a b : BitVec 8) (s : State) : Outcome :=
  lane2 (.shr w d a b) .va eVA1 w d a b (fun a b => shiftR a b.toNat) s

/-- `SAR` (R114). -/
def execSar (w : Bool) (d : BitVec 7) (a b : BitVec 8) (s : State) : Outcome :=
  lane2 (.sar w d a b) .va eVA1 w d a b (fun a b => shiftA a b.toNat) s

/-- `SHLI` (R114). -/
def execShli (w : Bool) (d : BitVec 7) (a imm : BitVec 8) (s : State) : Outcome :=
  lane1 (.shli w d a imm) .va eVA1 w d a (fun a => shiftL a imm.toNat) s

/-- `SHRI` (R114). -/
def execShri (w : Bool) (d : BitVec 7) (a imm : BitVec 8) (s : State) : Outcome :=
  lane1 (.shri w d a imm) .va eVA1 w d a (fun a => shiftR a imm.toNat) s

/-- `SARI` (R114). -/
def execSari (w : Bool) (d : BitVec 7) (a imm : BitVec 8) (s : State) : Outcome :=
  lane1 (.sari w d a imm) .va eVA1 w d a (fun a => shiftA a imm.toNat) s

/-- `IMIN` (R112). -/
def execImin (w : Bool) (d : BitVec 7) (a b : BitVec 8) (s : State) : Outcome :=
  lane2 (.imin w d a b) .va eVA1 w d a b (iminW) s

/-- `IMAX` (R112). -/
def execImax (w : Bool) (d : BitVec 7) (a b : BitVec 8) (s : State) : Outcome :=
  lane2 (.imax w d a b) .va eVA1 w d a b (imaxW) s

/-- `UMIN` (R112). -/
def execUmin (w : Bool) (d : BitVec 7) (a b : BitVec 8) (s : State) : Outcome :=
  lane2 (.umin w d a b) .va eVA1 w d a b (uminW) s

/-- `UMAX` (R112). -/
def execUmax (w : Bool) (d : BitVec 7) (a b : BitVec 8) (s : State) : Outcome :=
  lane2 (.umax w d a b) .va eVA1 w d a b (umaxW) s

/-- `IABS` (R112). -/
def execIabs (w : Bool) (d : BitVec 7) (a : BitVec 8) (s : State) : Outcome :=
  lane1 (.iabs w d a) .va eVA1 w d a (absW) s

/-- `BFE` (R115). -/
def execBfe (w : Bool) (d : BitVec 7) (a b : BitVec 8) (s : State) : Outcome :=
  lane2 (.bfe w d a b) .va eVA1 w d a b (bfeW) s

/-- `POPC` (R112). -/
def execPopc (w : Bool) (d : BitVec 7) (a : BitVec 8) (s : State) : Outcome :=
  lane1 (.popc w d a) .va eVA1 w d a (popW) s

/-- `CLZ` (R112). -/
def execClz (w : Bool) (d : BitVec 7) (a : BitVec 8) (s : State) : Outcome :=
  lane1 (.clz w d a) .va eVA1 w d a (clzW) s

/-- `BREV` (R112). -/
def execBrev (w : Bool) (d : BitVec 7) (a : BitVec 8) (s : State) : Outcome :=
  lane1 (.brev w d a) .va eVA1 w d a (brevW) s

/-- `BFI` (R115). -/
def execBfi (w : Bool) (d : BitVec 7) (a : BitVec 8) (s : State) : Outcome :=
  laneWord (.bfi w d a) .va w d 4 eVA1 (fun s l => (bfiW (s.src64 a l) (s.dreg d l)).toNat) s

/-! ### Float words (R116 to R121) -/

/-- `FADD` (R116). -/
def execFadd (w : Bool) (d : BitVec 7) (a b : BitVec 8) (s : State) : Outcome :=
  lane2 (.fadd w d a b) .va eVA1 w d a b (num2 f32.add) s

/-- `FSUB` (R116). -/
def execFsub (w : Bool) (d : BitVec 7) (a b : BitVec 8) (s : State) : Outcome :=
  lane2 (.fsub w d a b) .va eVA1 w d a b (num2 f32.sub) s

/-- `FMUL` (R116). -/
def execFmul (w : Bool) (d : BitVec 7) (a b : BitVec 8) (s : State) : Outcome :=
  lane2 (.fmul w d a b) .va eVA1 w d a b (num2 f32.mul) s

/-- `FFMA` (R116). -/
def execFfma (w : Bool) (d : BitVec 7) (a b : BitVec 8) (s : State) : Outcome :=
  lane3 (.ffma w d a b) .va eVA1 w d a b (num3 f32.fma) s

/-- `FMIN` (R116). -/
def execFmin (w : Bool) (d : BitVec 7) (a b : BitVec 8) (s : State) : Outcome :=
  lane2 (.fmin w d a b) .va eVA1 w d a b (num2 f32.min) s

/-- `FMAX` (R116). -/
def execFmax (w : Bool) (d : BitVec 7) (a b : BitVec 8) (s : State) : Outcome :=
  lane2 (.fmax w d a b) .va eVA1 w d a b (num2 f32.max) s

/-- `HADD2` (R116). -/
def execHadd2 (w : Bool) (d : BitVec 7) (a b : BitVec 8) (s : State) : Outcome :=
  lane2 (.hadd2 w d a b) .va eVA1 w d a b (fun a b => num3 (packed fun a b _ => f16.add a b) a b 0) s

/-- `HMUL2` (R116). -/
def execHmul2 (w : Bool) (d : BitVec 7) (a b : BitVec 8) (s : State) : Outcome :=
  lane2 (.hmul2 w d a b) .va eVA1 w d a b (fun a b => num3 (packed fun a b _ => f16.mul a b) a b 0) s

/-- `HFMA2` (R116). -/
def execHfma2 (w : Bool) (d : BitVec 7) (a b : BitVec 8) (s : State) : Outcome :=
  lane3 (.hfma2 w d a b) .va eVA1 w d a b (num3 (packed f16.fma)) s

/-- `BADD2` (R116). -/
def execBadd2 (w : Bool) (d : BitVec 7) (a b : BitVec 8) (s : State) : Outcome :=
  lane2 (.badd2 w d a b) .va eVA1 w d a b (fun a b => num3 (packed fun a b _ => b16.add a b) a b 0) s

/-- `BMUL2` (R116). -/
def execBmul2 (w : Bool) (d : BitVec 7) (a b : BitVec 8) (s : State) : Outcome :=
  lane2 (.bmul2 w d a b) .va eVA1 w d a b (fun a b => num3 (packed fun a b _ => b16.mul a b) a b 0) s

/-- `BFMA2` (R116). -/
def execBfma2 (w : Bool) (d : BitVec 7) (a b : BitVec 8) (s : State) : Outcome :=
  lane3 (.bfma2 w d a b) .va eVA1 w d a b (num3 (packed b16.fma)) s

/-- `FRCP` (R72, R118). -/
def execFrcp (w : Bool) (d : BitVec 7) (a : BitVec 8) (s : State) : Outcome :=
  lane1 (.frcp w d a) .vb eVB1 w d a (num1 Machine.frcp) s

/-- `FRSQ` (R72, R118). -/
def execFrsq (w : Bool) (d : BitVec 7) (a : BitVec 8) (s : State) : Outcome :=
  lane1 (.frsq w d a) .vb eVB1 w d a (num1 Machine.frsq) s

/-- `FEXP2` (R72, R118). -/
def execFexp2 (w : Bool) (d : BitVec 7) (a : BitVec 8) (s : State) : Outcome :=
  lane1 (.fexp2 w d a) .vb eVB1 w d a (num1 Machine.fexp2) s

/-- `FLOG2` (R72, R118). -/
def execFlog2 (w : Bool) (d : BitVec 7) (a : BitVec 8) (s : State) : Outcome :=
  lane1 (.flog2 w d a) .vb eVB1 w d a (num1 Machine.flog2) s

/-- `CVT` (R71, R119). -/
def execCvt (w : Bool) (d : BitVec 7) (a imm : BitVec 8) (s : State) : Outcome :=
  lane1 (.cvt w d a imm) .vb eVB1 w d a (num1 (convert (imm.toNat % 16) (bits imm.toNat 6 4) imm.msb)) s

/-- `FSCALE` (R120). -/
def execFscale (w : Bool) (d : BitVec 7) (a b : BitVec 8) (s : State) : Outcome :=
  lane2 (.fscale w d a b) .vb eVB1 w d a b (fun a b => BitVec.ofNat 32 (Machine.fscale a.toNat b.toInt)) s

/-- `QSCALE` (R120). -/
def execQscale (w : Bool) (d : BitVec 7) (a b : BitVec 8) (s : State) : Outcome :=
  lane2 (.qscale w d a b) .vb eVB1 w d a b (num2 Machine.qscale) s

/-- `FRND` (R121). -/
def execFrnd (w : Bool) (d : BitVec 7) (a imm : BitVec 8) (s : State) : Outcome :=
  lane1 (.frnd w d a imm) .vb eVB1 w d a (num1 (Machine.frnd imm.toNat)) s

/-! ### Predicate and mask words (R122 to R127) -/

/-- `ICMP` (R122). -/
def execIcmp (cond : BitVec 4) (p : BitVec 3) (a b : BitVec 8) (s : State) : Outcome :=
  predWordOf (.icmp cond p a b) p.toNat (fun s l => icmpCond cond.toNat (s.src a l) (s.src b l)) s

/-- `UCMP` (R122). -/
def execUcmp (cond : BitVec 4) (p : BitVec 3) (a b : BitVec 8) (s : State) : Outcome :=
  predWordOf (.ucmp cond p a b) p.toNat (fun s l => ucmpCond cond.toNat (s.src a l) (s.src b l)) s

/-- `FCMP` (R122). -/
def execFcmp (cond : BitVec 4) (p : BitVec 3) (a b : BitVec 8) (s : State) : Outcome :=
  predWordOf (.fcmp cond p a b) p.toNat (fun s l => fcmpCond cond.toNat (s.src a l) (s.src b l)) s

/-- `PLOP` (R123). -/
def execPlop (f : BitVec 4) (p a b : BitVec 3) (s : State) : Outcome :=
  predWordOf (.plop f p a b) p.toNat (fun s l => plopBit f (s.predBit a.toNat l) (s.predBit b.toNat l)) s

/-- `SEL` (R124). -/
def execSel (w : Bool) (d : BitVec 7) (a b : BitVec 8) (s : State) : Outcome :=
  laneWord (.sel w d a b) .va w d 4 eVA1 (fun s l => (if s.predBit 0 l then s.src a l else s.src b l).toNat) s

/-- The voting lanes whose bit of Pn is set (R125). -/
def State.votes (s : State) (n : Nat) : LaneMask := s.str.exm &&& ~~~ s.seen.hlp &&& s.seen.pred n

/-- `VOTE` (R125). -/
def execVote (w : Bool) (d : BitVec 7) (a : BitVec 3) (mode : BitVec 2) (s : State) : Outcome :=
  issue (.vote w d a mode) s fun s =>
    let m := s.votes a.toNat
    let t := s.chargeMe eG1
    .next (match mode.toNat with
      | 0 => t.gResult64 w d.toNat m
      | 1 => t.gResult w d.toNat (if m != 0 then 1 else 0)
      | 2 => t.gResult w d.toNat (if m == s.str.exm &&& ~~~ s.seen.hlp then 1 else 0)
      | _ => t.gResult w d.toNat (BitVec.ofNat 32 (popcount m)))

/-- The new EXM of `MSET` (R126). -/
def msetMask (mode : Nat) (members exm p : LaneMask) : LaneMask :=
  match mode with
  | 0 => members &&& p
  | 1 => exm &&& p
  | _ => members

/-- `MSET` (R126). -/
def execMset (a : BitVec 3) (mode : BitVec 2) (s : State) : Outcome :=
  issue (.mset a mode) s fun s =>
    let v := msetMask mode.toNat s.str.members s.str.exm (s.seen.pred a.toNat)
    .next ((s.chargeMe eG1).modStr fun st => { st with exm := v })

/-- The bits of P7 to P0 of a lane (R127). -/
def State.predByte (s : State) (l : Nat) : Nat := (List.range 8).foldl (fun n k => if s.predBit k l then n + 2 ^ k else n) 0

/-- `PMOV.GET` (R127). It writes no latch. -/
def execPmovGet (d : BitVec 7) (s : State) : Outcome :=
  issue (.pmovGet d) s fun s =>
    let m := s.str.exm
    let b := s.seen.vAt d.toNat
    .next ((s.chargeMe (eVA1 * popcount m)).modMe fun g => g.writeLanes b 4 s.predByte (lanesOf m))

/-- `PMOV.PUT` (R127). -/
def execPmovPut (a : BitVec 8) (s : State) : Outcome :=
  issue (.pmovPut a) s fun s =>
    let m := s.str.exm
    .next ((s.chargeMe (eVA1 * popcount m)).modMe fun g =>
      (List.range 8).foldl (fun g n => g.writePred n m (maskOf (fun l => (s.src a l).getLsbD n) (lanesOf m))) g)

end Sys2Proof.Machine
end

