-- ==== Sys2Proof/Machine/GroupWide.lean ====
section
/-! DEFINITION. Group-wide words (07 R153 to R155), and the words that write a view register, a format window and the gang register
(R142 to R144). -/

namespace Sys2Proof.Machine

/-! ### Moulds (R153) -/

/-- A word of one 32-bit source. -/
def g1 (i : Instr) (w : Bool) (d : BitVec 7) (a : BitVec 8) (f : Word → Word) (s : State) : Outcome :=
  groupWord i w d (fun s => f (s.gsrc a)) s
/-- A word of two 32-bit sources. -/
def g2 (i : Instr) (w : Bool) (d : BitVec 7) (a b : BitVec 8) (f : Word → Word → Word) (s : State) : Outcome :=
  groupWord i w d (fun s => f (s.gsrc a) (s.gsrc b)) s

/-- `GMOV` (R153). -/
def execGmov (w : Bool) (d : BitVec 7) (a : BitVec 8) (s : State) : Outcome :=
  g1 (.gmov w d a) w d a id s

/-- `GMOVI` (R153). -/
def execGmovi (w : Bool) (d : BitVec 7) (imm : BitVec 16) (s : State) : Outcome :=
  groupWord (.gmovi w d imm) w d (fun _ => imm.signExtend 32) s

/-- `GMOVHI` (R153). -/
def execGmovhi (w : Bool) (d : BitVec 7) (imm : BitVec 16) (s : State) : Outcome :=
  groupWord (.gmovhi w d imm) w d (fun _ => highWord imm) s

/-- `GADD` (R153). -/
def execGadd (w : Bool) (d : BitVec 7) (a b : BitVec 8) (s : State) : Outcome :=
  g2 (.gadd w d a b) w d a b (fun a b => a + b) s

/-- `GADDI` (R153). -/
def execGaddi (w : Bool) (d : BitVec 7) (a imm : BitVec 8) (s : State) : Outcome :=
  g1 (.gaddi w d a imm) w d a (fun a => a + imm.signExtend 32) s

/-- `GSUB` (R153). -/
def execGsub (w : Bool) (d : BitVec 7) (a b : BitVec 8) (s : State) : Outcome :=
  g2 (.gsub w d a b) w d a b (fun a b => a - b) s

/-- `GMUL` (R153). -/
def execGmul (w : Bool) (d : BitVec 7) (a b : BitVec 8) (s : State) : Outcome :=
  g2 (.gmul w d a b) w d a b (fun a b => a * b) s

/-- `GAND` (R153). -/
def execGand (w : Bool) (d : BitVec 7) (a b : BitVec 8) (s : State) : Outcome :=
  g2 (.gand w d a b) w d a b (fun a b => a &&& b) s

/-- `GOR` (R153). -/
def execGor (w : Bool) (d : BitVec 7) (a b : BitVec 8) (s : State) : Outcome :=
  g2 (.gor w d a b) w d a b (fun a b => a ||| b) s

/-- `GXOR` (R153). -/
def execGxor (w : Bool) (d : BitVec 7) (a b : BitVec 8) (s : State) : Outcome :=
  g2 (.gxor w d a b) w d a b (fun a b => a ^^^ b) s

/-- `GSHIFT`'s effect: the amount in b[5:0], the kind in b[9:8] (R154). -/
def gshiftW (a b : Word) : Word :=
  let n := b.toNat % 64
  match bits b.toNat 9 8 with
  | 0 => shiftL a n
  | 1 => shiftR a n
  | 2 => shiftA a n
  | _ => a.rotateRight (n % 32)

/-- `GSHIFT` (R154). -/
def execGshift (w : Bool) (d : BitVec 7) (a b : BitVec 8) (s : State) : Outcome :=
  g2 (.gshift w d a b) w d a b (gshiftW) s

/-- `GCMP` (R153). It writes no latch. -/
def execGcmp (cond : BitVec 4) (p : BitVec 3) (a b : BitVec 8) (s : State) : Outcome :=
  issue (.gcmp cond p a b) s fun s =>
    .next ((s.chargeMe eG1).modMe fun g => g.setGPred p.toNat (gcmpCond cond.toNat (s.gsrc a) (s.gsrc b)))

/-- `GMINMAX` (R153). -/
def execGminmax (w : Bool) (d : BitVec 7) (a b : BitVec 8) (s : State) : Outcome :=
  groupWord64 (.gminmax w d a b) w d (fun s => imaxW (s.gsrc a) (s.gsrc b) ++ iminW (s.gsrc a) (s.gsrc b)) s

/-- `GADD64` (R153). -/
def execGadd64 (w : Bool) (d : BitVec 7) (a b : BitVec 8) (s : State) : Outcome :=
  groupWord64 (.gadd64 w d a b) w d (fun s => s.gsrc64 a + s.gsrc64 b) s

/-- `GBCAST` (R155): the lane is read whatever EXM holds. -/
def execGbcast (w : Bool) (d : BitVec 7) (a b : BitVec 8) (s : State) : Outcome :=
  groupWord (.gbcast w d a b) w d (fun s => s.seen.vreg ((s.gsrc b).toNat % s.seen.place.width) a.toNat) s

/-- `VBCAST` (R155): every active lane takes the value, and L2 holds it for the group. -/
def execVbcast (w : Bool) (d : BitVec 7) (a : BitVec 8) (s : State) : Outcome :=
  issue (.vbcast w d a) s fun s =>
    let v := s.gsrc a
    let m := s.str.exm
    let b := s.seen.vAt d.toNat
    let t := s.chargeMe eG1
    let t := if w then t else t.modMe fun g => g.writeLanes b 4 (fun _ => v.toNat) (lanesOf m)
    .next (t.enterLatch s.cur.group 2 (sharedLatch s.me 32 (v.zeroExtend 64)))

/-! ### View, format window and gang (R142 to R144) -/

/-- The offset that a view register takes: bits [9:0], aligned (R142). -/
def viewOff (v : Nat) (a : Word) : Word :=
  let n := a.toNat % 1024
  BitVec.ofNat 32 (if v == 0 then n / 4 * 4 else if v == 1 then n / 32 * 32 else n / 128 * 128)

/-- `VIEW` (R142): the region set is emptied. -/
def execView (v : BitVec 7) (a : BitVec 8) (s : State) : Outcome :=
  issue (.view v a) s fun s =>
    let o := viewOff v.toNat (s.gsrc a)
    .next ((s.chargeMe eG1).modMe fun g =>
      let g := { g with region := 0 }
      if v.toNat == 0 then { g with vwv := o } else if v.toNat == 1 then { g with vwt := o } else { g with vwa := o })

/-- `SFMT` (R143): reserved bits are discarded. -/
def execSfmt (k : BitVec 3) (a : BitVec 8) (s : State) : Outcome :=
  issue (.sfmt k a) s fun s =>
    let v := s.gsrc64 a &&& ~~~ (0x1FFFF : Dword)
    .next ((s.chargeMe eG1).modTeam s.me.place.team fun t => { t with windows := t.windows.set 0 k.toNat v })

/-- The reserved bits of the gang register (Table 5-9). -/
def gangMask : Dword := 0xFC0000003FFFFFFF

/-- The status of a value written to the gang register (R144). -/
def gangStatus (busy : Bool) (v : Dword) : Nat :=
  let cnt := bits v.toNat 63 61
  let idx := bits v.toNat 60 58
  if busy then 2 else if cnt == 1 || cnt == 7 || (cnt != 0 && (idx == 0 || decide (cnt < idx))) then 1 else 0

/-- `GANG` (R144). -/
def execGang (d : BitVec 7) (a : BitVec 8) (s : State) : Outcome :=
  issue (.gang d a) s fun s =>
    let v := s.gsrc64 a
    let c := gangStatus (s.seen.counter pMMA != 0) v
    let new := if c == 0 then v &&& gangMask else 0
    let t := s.chargeMe eG1
    let t := if c == 2 || gangKey new == gangKey s.seen.gang then t else t.leaveGang s.seen
    let t := t.modMe fun g => if c == 2 then g else { g with gang := new }
    .next (t.gResult false d.toNat (BitVec.ofNat 32 c))

end Sys2Proof.Machine
end

