-- ==== Sys2Proof/Machine/Lanes.lean ====
section
/-! DEFINITION. Dot words, cross-lane words and identity words (07 R131 to R138). -/

namespace Sys2Proof.Machine

/-! ### Dot words (R131) -/

/-- `DOT8W` (R131). -/
def execDot8w (w : Bool) (d : BitVec 7) (a b : BitVec 8) (s : State) : Outcome :=
  lane3 (.dot8w w d a b) .vb eVB1 w d a b (num3 (dotW w8 4 8)) s

/-- `DOT8I` (R131). -/
def execDot8i (w : Bool) (d : BitVec 7) (a b : BitVec 8) (s : State) : Outcome :=
  lane3 (.dot8i w d a b) .vb eVB1 w d a b (num3 (dotI 4 8)) s

/-- `DOT4W` (R131). -/
def execDot4w (w : Bool) (d : BitVec 7) (a b : BitVec 8) (s : State) : Outcome :=
  lane3 (.dot4w w d a b) .vb eVB1 w d a b (num3 (dotW w4 8 4)) s

/-- `DOT4I` (R131). -/
def execDot4i (w : Bool) (d : BitVec 7) (a b : BitVec 8) (s : State) : Outcome :=
  lane3 (.dot4i w d a b) .vb eVB1 w d a b (num3 (dotI 8 4)) s

/-! ### Cross-lane words (R132 to R136) -/

/-- A lane's value in its partner j, or its own where j is outside the strand's EXM (R132). -/
def State.fromLane (s : State) (a : BitVec 8) (l : Nat) (j : Option Nat) : Word :=
  match j with
  | some j => if j < 64 && s.str.exm.getLsbD j then s.src a j else s.src a l
  | none => s.src a l

/-- `SHFL` (R133). -/
def execShfl (w : Bool) (d : BitVec 7) (a b : BitVec 8) (s : State) : Outcome :=
  laneWord (.shfl w d a b) .vb w d 4 eVB1
    (fun s l => (s.fromLane a l (some ((s.src b l).toNat % s.seen.place.width))).toNat) s

/-- The partner of `SHFLX` (R134). -/
def shflxLane (w mode n l : Nat) : Option Nat :=
  match mode with
  | 0 => some (l ^^^ (n &&& (w - 1)))
  | 1 => if n ≤ l then some (l - n) else none
  | _ => if l + n < w then some (l + n) else none

/-- `SHFLX` (R134). -/
def execShflx (w : Bool) (d : BitVec 7) (a imm : BitVec 8) (s : State) : Outcome :=
  laneWord (.shflx w d a imm) .vb w d 4 eVB1
    (fun s l => (s.fromLane a l (shflxLane s.seen.place.width (imm.toNat / 64) (imm.toNat % 64) l)).toNat) s

/-- The partner of `QXCH` (R135). -/
def qxchLane (n l : Nat) : Nat := if n < 3 then l ^^^ (n + 1) else l / 4 * 4 + (n - 3)

/-- `QXCH` (R135). -/
def execQxch (w : Bool) (d : BitVec 7) (a imm : BitVec 8) (s : State) : Outcome :=
  laneWord (.qxch w d a imm) .vb w d 4 eVB1 (fun s l => (s.fromLane a l (some (qxchLane imm.toNat l))).toNat) s

/-- The combination of `LRED` (Table 7-3) over values in ascending lane order; an empty one gives the identity. -/
def combine (op : Nat) (l : List Word) : Word :=
  match op with
  | 0 => l.foldl (· + ·) 0
  | 1 => l.foldl iminW 0x7FFFFFFF
  | 2 => l.foldl imaxW 0x80000000
  | 3 => l.foldl uminW 0xFFFFFFFF
  | 4 => l.foldl umaxW 0
  | 5 => l.foldl (· &&& ·) 0xFFFFFFFF
  | 6 => l.foldl (· ||| ·) 0
  | 7 => l.foldl (· ^^^ ·) 0
  | 8 => BitVec.ofNat 32 (f32.round 0 (exactSum (l.map fun x => f32.val x.toNat)))
  | 9 => l.foldl (num2 f32.min) 0x7F800000
  | _ => l.foldl (num2 f32.max) 0xFF800000

/-- The lanes that `LRED` combines for a lane (R136). -/
def lredLanes (mode l : Nat) (set : List Nat) : List Nat :=
  match mode with
  | 0 => set
  | 1 => set.filter fun j => j / 4 == l / 4
  | _ => set.filter fun j => j ≤ l

/-- `LRED` (R136). -/
def execLred (w : Bool) (d : BitVec 7) (a imm : BitVec 8) (s : State) : Outcome :=
  laneWord (.lred w d a imm) .vb w d 4 eVB1 (fun s l =>
    let set := lanesOf (s.str.exm &&& ~~~ s.seen.hlp)
    (combine (imm.toNat % 16) ((lredLanes (imm.toNat / 16 % 4) l set).map fun j => s.src a j)).toNat) s

/-! ### Identity words (R137, R138) -/

/-- The value of a selector in a lane (Table 7-5). -/
def State.identity (s : State) (sel l : Nat) : Nat :=
  let p := s.seen.place
  match sel with
  | 0 => l
  | 1 => p.off + l
  | 2 => p.width
  | 3 => l / 4
  | 4 => (s.team p.team).inCohort
  | 5 => (s.team p.team).cohort
  | 6 => s.myCluster
  | 7 => p.off
  | 8 => quarterOf s.cur.group
  | 9 => s.cur.strand
  | _ => if s.seen.hlp.getLsbD l then 1 else 0

/-- `RDID` (R137). -/
def execRdid (w : Bool) (d : BitVec 7) (sel : BitVec 8) (s : State) : Outcome :=
  laneWord (.rdid w d sel) .va w d 4 eVA1 (fun s l => s.identity sel.toNat l) s

/-- The mask of a selector (R138). -/
def State.maskSel (s : State) (sel n : Nat) : LaneMask :=
  (match sel with
    | 0 => s.str.exm
    | 1 => s.str.members
    | 2 => s.seen.hlp
    | _ => s.seen.pred n) &&& fullMask s.seen.place.width

/-- `MRD` (R138). -/
def execMrd (w : Bool) (d : BitVec 7) (a b : BitVec 8) (s : State) : Outcome :=
  groupWord64 (.mrd w d a b) w d (fun s => s.maskSel b.toNat (a.toNat % 8)) s

/-- The descriptor of the issuing strand (Table 7-6). -/
def State.strandDescriptor (s : State) : Word :=
  let st := s.str
  BitVec.ofNat 32 (pcPk st.pc * 2 ^ 19 + pcBlk st.pc * 2 ^ 14 + pcSlot st.pc * 2 ^ 8 + st.rstack.length * 16
    + (s.seen.liveStrands.length - 1) * 4 + s.cur.strand)

/-- `STRD` (R138). -/
def execStrd (w : Bool) (d : BitVec 7) (s : State) : Outcome := groupWord (.strd w d) w d State.strandDescriptor s

end Sys2Proof.Machine
end

