-- ==== Sys2Proof/Machine/PowerEvents.lean ====
section
/-! DEFINITION. Power: level changes, primer windows, droops, the duty counter and the folds of the meters (01 R23, R24, 17 R346 to R348,
chapter 19). -/

namespace Sys2Proof.Machine

/-- Clusters that have a record, with their keys. -/
def State.clusterKeys (s : State) : List Nat := s.clusters.keys

/-- POWER_CAP_REACHED: with the draw at the cap, the clusters that run highest above their floors are held one level lower; a draw below
the cap lifts what the controller holds (01 R23; log 27). -/
def execPowerCapReached (draw : Nat) (s : State) : Outcome :=
  if s.cap ≤ draw then
    let open_ := s.clusterKeys.filter fun cl => decide (s.levelFloor cl < (s.cluster cl).power.target)
    let top := open_.foldl (fun m cl => max m (s.cluster cl).power.target) 0
    .next (open_.foldl (fun s cl =>
      if (s.cluster cl).power.target == top then
        (s.modCluster cl fun c => { c with power := { c.power with ceiling := top - 1 } }).retarget cl
      else s) s)
  else .next (s.clusterKeys.foldl (fun s cl =>
    (s.modCluster cl fun c => { c with power := { c.power with ceiling := 2 } }).retarget cl) s)

/-- LEVEL_CHANGE_COMPLETE: the clock has followed the ratio up, or the ratio the clock down; a change asked for meanwhile begins (19 R377). -/
def execLevelChangeComplete (cl : Nat) (s : State) : Outcome :=
  let p := (s.cluster cl).power
  if !p.changing then .next s
  else .next (s.modCluster cl fun c =>
    { c with power := (if p.level < p.ratio then { p with level := p.ratio } else { p with ratio := p.level } : Power).begin })

/-- A group is parked: in WAITU, BARW, STAGEA, FUSE or CKPT, or with every strand at a JOIN or an EXIT; one that has halted issues no more
either (08 R164, 13 R277, 18 R352). -/
def Group.isParked (g : Group) : Bool :=
  g.halt.isSome || g.ended || (match g.wait with
    | .monitor .. => true
    | .scratch .. => true
    | .fuse .. => true
    | .ckpt _ => true
    | _ => false) || g.liveStrands.all fun k => (g.strand k).park != .running

/-- The contexts of a cluster whose groups there are all parked. -/
def State.parkedOn (s : State) (cl : Nat) : List Nat :=
  let gs := (s.groupsOn cl).map Prod.snd
  ((gs.map fun g => g.place.qidx).eraseDups).filter fun q => gs.all fun g => g.place.qidx != q || g.isParked

/-- A step is over: the contexts whose last group on a cluster has parked in it have fallen (19 R378, R379). -/
def State.parkings (s : State) (cl : Nat) : State :=
  let now := s.parkedOn cl
  let old := (s.cluster cl).power.parked
  if now == old then s
  else ((now.filter fun q => !old.contains q).foldl (fun s q => s.fall cl q) s).modCluster cl fun c => { c with power := { c.power with parked := now } }

/-- PRIMER_WINDOW: 100 ns are over; the ramp loses its step, and contexts that fall now form a ramp of their own (19 R378, R379). -/
def execPrimerWindow (cl : Nat) (s : State) : Outcome :=
  .next (s.modCluster cl fun c =>
    { c with power := { c.power with
        windowAt := s.time.toNat, window := recent s.time.toNat c.power.window, falls := [], primer := c.power.primer - fallStep c.power.level } })

/-- Nanoseconds of boost that DUTY counts (17 Table 17-6). -/
def dutyBST (d : Dword) : Nat := bits d.toNat 9 0
/-- Stretched cycles that DUTY counts. -/
def dutySTR (d : Dword) : Nat := bits d.toNat 51 32
/-- DUTY with its two counts; EXH and OVER as given. -/
def dutyOf (bst str : Nat) (exh past : Bool) : Dword :=
  BitVec.ofNat 64 (bst + (if exh then 2 ^ 28 else 0) + (if past then 2 ^ 29 else 0) + str % 2 ^ 20 * 2 ^ 32)

/-- DROOP_DETECT: nothing while a boost or a stretch is under way; else the next ratio, unless the boost is exhausted, a level change is under way or the level is H; then the clock is
stretched (19 R380). -/
def execDroopDetect (cl : Nat) (s : State) : Outcome :=
  let c := s.cluster cl
  if c.power.boosting || c.power.stretching then .next s
  else if decide (dutyBST c.duty < 500) && c.power.level == c.power.target && c.power.level == c.power.ratio && decide (c.power.level < 2) then
    .next (s.modCluster cl fun c => { c with power := { c.power with boosting := true, ratio := c.power.level + 1, droopAt := s.time.toNat } })
  else .next (s.modCluster cl fun c => { c with power := { c.power with stretching := true, droopAt := s.time.toNat } })

/-- Tenths of a cycle per ns at a level. -/
def clockRate (lvl : Nat) : Nat := if lvl == 0 then 6 else if lvl == 1 then 12 else 15

/-- The quotation indices with a team that stands on a cluster. -/
def State.contextsOn (s : State) (cl : Nat) : List Nat :=
  (s.teams.filterMap fun e => if e.2.cluster == cl && match e.2.phase with
      | .running => e.2.live
      | .draining .. => e.2.live
      | .saving => e.2.live
      | _ => false then some (s.launch e.2.launch).qidx else none).eraseDups

/-- A boost or a stretch is over after ns: a boost counts at most 20 ns, and what the cluster drew in it beyond its level goes to the die's
overhead meter; a stretch counts at most 40 ns; beyond its allowance with BST exhausted, as it counts at level H, the stretch is cause 0x09
for every launch on the cluster (17 R348, 19 R380). -/
def State.droopOver (s : State) (cl ns : Nat) : State :=
  let c := s.cluster cl
  let bst := dutyBST c.duty
  let str := dutySTR c.duty
  if c.power.boosting then
    let n := min ns 20
    let b := min 500 (bst + n)
    let drawn := c.power.window.foldl (fun m e => if c.power.droopAt ≤ e.1 / 8192 then m + e.2 else m) 0
    let more := drawn * (levelFactor (c.power.level + 1) - levelFactor c.power.level) / levelFactor c.power.level
    let s := s.chargeOverhead (dieOf cl) more
    s.modCluster cl fun c =>
      { c with duty := dutyOf b str (c.duty.getLsbD 28 || b == 500) (c.duty.getLsbD 29)
               boosts := (s.time.toNat, n) :: c.boosts
               power := { c.power with boosting := false, ratio := c.power.level }.begin }
  else if c.power.stretching then
    let n := min ns 40 * clockRate c.power.level / 20
    let allowed := clockRate c.power.level * 100
    let past := decide (allowed < str + n)
    let s := s.modCluster cl fun c =>
      { c with duty := dutyOf bst (str + n) (c.duty.getLsbD 28) (c.duty.getLsbD 29 || past)
               stretches := (s.time.toNat, n) :: c.stretches
               power := { c.power with stretching := false } }
    if past && (bst == 500 || c.power.level == 2) then (s.contextsOn cl).foldl (fun s q => s.logCause q 9) s else s
  else s

/-- A boost that has lasted 20 ns, or a stretch that has lasted 40, is over (19 R380). -/
def State.droopDue (s : State) (cl : Nat) : State :=
  let p := (s.cluster cl).power
  if p.boosting then if p.droopAt + 20 ≤ s.time.toNat then s.droopOver cl 20 else s
  else if p.stretching && decide (p.droopAt + 40 ≤ s.time.toNat) then s.droopOver cl 40
  else s

/-- DROOP_RECOVERY: the supply has recovered after ns (19 R380). -/
def execDroopRecovery (cl ns : Nat) (s : State) : Outcome := .next (s.droopOver cl ns)

/-- THERMAL_EVENT: the cluster is forced to a level at most; below a floor that is cause 0x08 for the launches whose floor it is (01 R24). The
spec gives the event no end: the level holds until another event of the cluster names one (DESIGN CHOICE, log 69). -/
def execThermalEvent (cl lvl : Nat) (s : State) : Outcome :=
  let below := decide (lvl < s.levelFloor cl)
  let s := (s.modCluster cl fun c => { c with power := { c.power with forced := lvl } }).retarget cl
  .next (if below then
    s.resv.foldl (fun s e =>
      if e.1 / 4096 == dieOf cl && e.2.live && (s.quote e.2.qidx).cls == 0
          && (match e.2.share with | some h => h.cmask.getLsbD (siteOf cl) && decide (lvl < h.floor) | none => false) then
        s.logCause e.2.qidx 8
      else s) s
  else s)

/-- DUTY_WINDOW_SLIDE: boosts older than 10 µs and stretches older than 100 µs leave their windows (17 R348). -/
def execDutyWindowSlide (cl : Nat) (s : State) : Outcome :=
  .next (s.modCluster cl fun c =>
    let b := c.boosts.filter fun e => decide (s.time.toNat < e.1 + 10000)
    let t := c.stretches.filter fun e => decide (s.time.toNat < e.1 + 100000)
    { c with boosts := b, stretches := t
             duty := dutyOf (min 500 (b.foldl (fun n e => n + e.2) 0)) (t.foldl (fun n e => n + e.2) 0)
               (c.duty.getLsbD 28) (c.duty.getLsbD 29) })

/-- ENERGY_METER_FOLD: every meter of the cluster is folded, and E_max is checked (17 R346). -/
def execEnergyMeterFold (cl : Nat) (s : State) : Outcome :=
  .next ((s.cluster cl).meters.foldl (fun s e => (s.foldMeter cl e.1).checkFigures e.1) s)

/-- TMAX_CHECK: measured time against T_max (17 R347). -/
def execTmaxCheck (launch : Nat) (s : State) : Outcome := .next (s.checkFigures (s.launch launch).qidx)

end Sys2Proof.Machine
end

