-- ==== Sys2Proof/Machine/Dispatch.lean ====
section
/-! DEFINITION. One arm for each row of the table: the meaning of every instruction and every event. -/

namespace Sys2Proof.Machine

def exec (i : Instr) (s : State) : Host.Outcome State Fault Refusal :=
  match i with
  | .nop => Sys2Proof.Machine.execNop s
  | .bra disp => Sys2Proof.Machine.execBra disp s
  | .bany p disp => Sys2Proof.Machine.execBany p disp s
  | .ball p disp => Sys2Proof.Machine.execBall p disp s
  | .bnone p disp => Sys2Proof.Machine.execBnone p disp s
  | .bdiv p jb disp => Sys2Proof.Machine.execBdiv p jb disp s
  | .join bound => Sys2Proof.Machine.execJoin bound s
  | .call disp => Sys2Proof.Machine.execCall disp s
  | .ret => Sys2Proof.Machine.execRet s
  | .loop g disp => Sys2Proof.Machine.execLoop g disp s
  | .jmpf slot seg blk => Sys2Proof.Machine.execJmpf slot seg blk s
  | .cfetch slot a => Sys2Proof.Machine.execCfetch slot a s
  | .trap code => Sys2Proof.Machine.execTrap code s
  | .exit => Sys2Proof.Machine.execExit s
  | .eret => Sys2Proof.Machine.execEret s
  | .mov w d a => Sys2Proof.Machine.execMov w d a s
  | .movi w d imm => Sys2Proof.Machine.execMovi w d imm s
  | .movhi w d imm => Sys2Proof.Machine.execMovhi w d imm s
  | .iadd w d a b => Sys2Proof.Machine.execIadd w d a b s
  | .iaddi w d a imm => Sys2Proof.Machine.execIaddi w d a imm s
  | .isub w d a b => Sys2Proof.Machine.execIsub w d a b s
  | .imul w d a b => Sys2Proof.Machine.execImul w d a b s
  | .imulh w d a b => Sys2Proof.Machine.execImulh w d a b s
  | .imulhu w d a b => Sys2Proof.Machine.execImulhu w d a b s
  | .imad w d a b => Sys2Proof.Machine.execImad w d a b s
  | .iadd64 w d a b => Sys2Proof.Machine.execIadd64 w d a b s
  | .lea w d a b => Sys2Proof.Machine.execLea w d a b s
  | .and w d a b => Sys2Proof.Machine.execAnd w d a b s
  | .or w d a b => Sys2Proof.Machine.execOr w d a b s
  | .xor w d a b => Sys2Proof.Machine.execXor w d a b s
  | .andn w d a b => Sys2Proof.Machine.execAndn w d a b s
  | .shl w d a b => Sys2Proof.Machine.execShl w d a b s
  | .shr w d a b => Sys2Proof.Machine.execShr w d a b s
  | .sar w d a b => Sys2Proof.Machine.execSar w d a b s
  | .shli w d a imm => Sys2Proof.Machine.execShli w d a imm s
  | .shri w d a imm => Sys2Proof.Machine.execShri w d a imm s
  | .sari w d a imm => Sys2Proof.Machine.execSari w d a imm s
  | .imin w d a b => Sys2Proof.Machine.execImin w d a b s
  | .imax w d a b => Sys2Proof.Machine.execImax w d a b s
  | .umin w d a b => Sys2Proof.Machine.execUmin w d a b s
  | .umax w d a b => Sys2Proof.Machine.execUmax w d a b s
  | .iabs w d a => Sys2Proof.Machine.execIabs w d a s
  | .bfe w d a b => Sys2Proof.Machine.execBfe w d a b s
  | .fadd w d a b => Sys2Proof.Machine.execFadd w d a b s
  | .fsub w d a b => Sys2Proof.Machine.execFsub w d a b s
  | .fmul w d a b => Sys2Proof.Machine.execFmul w d a b s
  | .ffma w d a b => Sys2Proof.Machine.execFfma w d a b s
  | .fmin w d a b => Sys2Proof.Machine.execFmin w d a b s
  | .fmax w d a b => Sys2Proof.Machine.execFmax w d a b s
  | .hadd2 w d a b => Sys2Proof.Machine.execHadd2 w d a b s
  | .hmul2 w d a b => Sys2Proof.Machine.execHmul2 w d a b s
  | .hfma2 w d a b => Sys2Proof.Machine.execHfma2 w d a b s
  | .badd2 w d a b => Sys2Proof.Machine.execBadd2 w d a b s
  | .bmul2 w d a b => Sys2Proof.Machine.execBmul2 w d a b s
  | .bfma2 w d a b => Sys2Proof.Machine.execBfma2 w d a b s
  | .frcp w d a => Sys2Proof.Machine.execFrcp w d a s
  | .frsq w d a => Sys2Proof.Machine.execFrsq w d a s
  | .fexp2 w d a => Sys2Proof.Machine.execFexp2 w d a s
  | .flog2 w d a => Sys2Proof.Machine.execFlog2 w d a s
  | .cvt w d a imm => Sys2Proof.Machine.execCvt w d a imm s
  | .fscale w d a b => Sys2Proof.Machine.execFscale w d a b s
  | .qscale w d a b => Sys2Proof.Machine.execQscale w d a b s
  | .frnd w d a imm => Sys2Proof.Machine.execFrnd w d a imm s
  | .icmp cond p a b => Sys2Proof.Machine.execIcmp cond p a b s
  | .ucmp cond p a b => Sys2Proof.Machine.execUcmp cond p a b s
  | .fcmp cond p a b => Sys2Proof.Machine.execFcmp cond p a b s
  | .plop f p a b => Sys2Proof.Machine.execPlop f p a b s
  | .sel w d a b => Sys2Proof.Machine.execSel w d a b s
  | .vote w d a mode => Sys2Proof.Machine.execVote w d a mode s
  | .mset a mode => Sys2Proof.Machine.execMset a mode s
  | .pmovGet d => Sys2Proof.Machine.execPmovGet d s
  | .pmovPut a => Sys2Proof.Machine.execPmovPut a s
  | .dot8w w d a b => Sys2Proof.Machine.execDot8w w d a b s
  | .dot8i w d a b => Sys2Proof.Machine.execDot8i w d a b s
  | .dot4w w d a b => Sys2Proof.Machine.execDot4w w d a b s
  | .dot4i w d a b => Sys2Proof.Machine.execDot4i w d a b s
  | .shfl w d a b => Sys2Proof.Machine.execShfl w d a b s
  | .shflx w d a imm => Sys2Proof.Machine.execShflx w d a imm s
  | .qxch w d a imm => Sys2Proof.Machine.execQxch w d a imm s
  | .lred w d a imm => Sys2Proof.Machine.execLred w d a imm s
  | .split d f => Sys2Proof.Machine.execSplit d f s
  | .fuse d => Sys2Proof.Machine.execFuse d s
  | .region idx => Sys2Proof.Machine.execRegion idx s
  | .rdid w d sel => Sys2Proof.Machine.execRdid w d sel s
  | .mrd w d a b => Sys2Proof.Machine.execMrd w d a b s
  | .strd w d => Sys2Proof.Machine.execStrd w d s
  | .gmov w d a => Sys2Proof.Machine.execGmov w d a s
  | .gmovi w d imm => Sys2Proof.Machine.execGmovi w d imm s
  | .gmovhi w d imm => Sys2Proof.Machine.execGmovhi w d imm s
  | .gadd w d a b => Sys2Proof.Machine.execGadd w d a b s
  | .gaddi w d a imm => Sys2Proof.Machine.execGaddi w d a imm s
  | .gsub w d a b => Sys2Proof.Machine.execGsub w d a b s
  | .gmul w d a b => Sys2Proof.Machine.execGmul w d a b s
  | .gand w d a b => Sys2Proof.Machine.execGand w d a b s
  | .gor w d a b => Sys2Proof.Machine.execGor w d a b s
  | .gxor w d a b => Sys2Proof.Machine.execGxor w d a b s
  | .gshift w d a b => Sys2Proof.Machine.execGshift w d a b s
  | .gcmp cond p a b => Sys2Proof.Machine.execGcmp cond p a b s
  | .gminmax w d a b => Sys2Proof.Machine.execGminmax w d a b s
  | .gadd64 w d a b => Sys2Proof.Machine.execGadd64 w d a b s
  | .gbcast w d a b => Sys2Proof.Machine.execGbcast w d a b s
  | .vbcast w d a => Sys2Proof.Machine.execVbcast w d a s
  | .ldg sz d a off => Sys2Proof.Machine.execLdg sz d a off s
  | .stg sz d a off => Sys2Proof.Machine.execStg sz d a off s
  | .lds sz d a off => Sys2Proof.Machine.execLds sz d a off s
  | .sts sz d a off => Sys2Proof.Machine.execSts sz d a off s
  | .ldv sz d a off => Sys2Proof.Machine.execLdv sz d a off s
  | .stv sz d a off => Sys2Proof.Machine.execStv sz d a off s
  | .atomg aop sz d a off => Sys2Proof.Machine.execAtomg aop sz d a off s
  | .atoms aop sz d a off => Sys2Proof.Machine.execAtoms aop sz d a off s
  | .atomv aop sz d a off => Sys2Proof.Machine.execAtomv aop sz d a off s
  | .txb d n => Sys2Proof.Machine.execTxb d n s
  | .txe d => Sys2Proof.Machine.execTxe d s
  | .txa code => Sys2Proof.Machine.execTxa code s
  | .fence scope kind paths => Sys2Proof.Machine.execFence scope kind paths s
  | .tfence scope => Sys2Proof.Machine.execTfence scope s
  | .waitu cmp sp sz d a => Sys2Proof.Machine.execWaitu cmp sp sz d a s
  | .waitc path a => Sys2Proof.Machine.execWaitc path a s
  | .mma g a an tb => Sys2Proof.Machine.execMma g a an tb s
  | .copy g wup win dsp ssp => Sys2Proof.Machine.execCopy g wup win dsp ssp s
  | .gather g a sx esz vault scat => Sys2Proof.Machine.execGather g a sx esz vault scat s
  | .coll g n => Sys2Proof.Machine.execColl g n s
  | .launch g => Sys2Proof.Machine.execLaunch g s
  | .msend g n => Sys2Proof.Machine.execMsend g n s
  | .popc w d a => Sys2Proof.Machine.execPopc w d a s
  | .clz w d a => Sys2Proof.Machine.execClz w d a s
  | .brev w d a => Sys2Proof.Machine.execBrev w d a s
  | .bfi w d a => Sys2Proof.Machine.execBfi w d a s
  | .yield => Sys2Proof.Machine.execYield s
  | .setpl d a => Sys2Proof.Machine.execSetpl d a s
  | .rdclk d => Sys2Proof.Machine.execRdclk d s
  | .rdsync d => Sys2Proof.Machine.execRdsync d s
  | .rdprog d => Sys2Proof.Machine.execRdprog d s
  | .rdnrg d => Sys2Proof.Machine.execRdnrg d s
  | .ckpt d => Sys2Proof.Machine.execCkpt d s
  | .view v a => Sys2Proof.Machine.execView v a s
  | .sfmt k a => Sys2Proof.Machine.execSfmt k a s
  | .gang d a => Sys2Proof.Machine.execGang d a s
  | .pin d a => Sys2Proof.Machine.execPin d a s
  | .unpin d a => Sys2Proof.Machine.execUnpin d a s
  | .msr n a => Sys2Proof.Machine.execMsr n a s
  | .mrs d a => Sys2Proof.Machine.execMrs d a s
  | .bari a => Sys2Proof.Machine.execBari a s
  | .bara d a => Sys2Proof.Machine.execBara d a s
  | .barx a => Sys2Proof.Machine.execBarx a s
  | .barw d a => Sys2Proof.Machine.execBarw d a s
  | .stagea d a => Sys2Proof.Machine.execStagea d a s
  | .stager a => Sys2Proof.Machine.execStager a s
  | .ringadv k a => Sys2Proof.Machine.execRingadv k a s
  | .lqrd d => Sys2Proof.Machine.execLqrd d s
  | .l1wb a => Sys2Proof.Machine.execL1wb a s
  | .l1inv a => Sys2Proof.Machine.execL1inv a s
  | .groupEnd g => Sys2Proof.Machine.execGroupEnd g s
  | .strandMerge g lo hi => Sys2Proof.Machine.execStrandMerge g lo hi s
  | .joinDeadline g st => Sys2Proof.Machine.execJoinDeadline g st s
  | .switchHoldBreak cl q => Sys2Proof.Machine.execSwitchHoldBreak cl q s
  | .fuseWaitTimeout g => Sys2Proof.Machine.execFuseWaitTimeout g s
  | .loadWriteback op => Sys2Proof.Machine.execLoadWriteback op s
  | .storeAck op => Sys2Proof.Machine.execStoreAck op s
  | .atomicStep op addr => Sys2Proof.Machine.execAtomicStep op addr s
  | .atomicReturn op => Sys2Proof.Machine.execAtomicReturn op s
  | .pageWalkComplete walk => Sys2Proof.Machine.execPageWalkComplete walk s
  | .sectorFillArrival req => Sys2Proof.Machine.execSectorFillArrival req s
  | .l2FillArrival req => Sys2Proof.Machine.execL2FillArrival req s
  | .l1WritebackArrival req => Sys2Proof.Machine.execL1WritebackArrival req s
  | .directoryInvalidation req => Sys2Proof.Machine.execDirectoryInvalidation req s
  | .invalidationAck req => Sys2Proof.Machine.execInvalidationAck req s
  | .remoteEvictionNotice die line => Sys2Proof.Machine.execRemoteEvictionNotice die line s
  | .writeAckReceipt req => Sys2Proof.Machine.execWriteAckReceipt req s
  | .fenceComplete g => Sys2Proof.Machine.execFenceComplete g s
  | .txeCommit op => Sys2Proof.Machine.execTxeCommit op s
  | .pinResult op => Sys2Proof.Machine.execPinResult op s
  | .cfetchLanding op => Sys2Proof.Machine.execCfetchLanding op s
  | .engineQueueAdmit op => Sys2Proof.Machine.execEngineQueueAdmit op s
  | .copyChunkLanding op => Sys2Proof.Machine.execCopyChunkLanding op s
  | .gatherElementLanding op => Sys2Proof.Machine.execGatherElementLanding op s
  | .collChunk op late peers => Sys2Proof.Machine.execCollChunk op late peers s
  | .msendDelivery op team => Sys2Proof.Machine.execMsendDelivery op team s
  | .msendRetry op team => Sys2Proof.Machine.execMsendRetry op team s
  | .mmaRendezvousOpen r => Sys2Proof.Machine.execMmaRendezvousOpen r s
  | .mmaResultWrite op => Sys2Proof.Machine.execMmaResultWrite op s
  | .mmaAbsentTimeout r => Sys2Proof.Machine.execMmaAbsentTimeout r s
  | .waituWake e => Sys2Proof.Machine.execWaituWake e s
  | .waituTimeout e => Sys2Proof.Machine.execWaituTimeout e s
  | .spillWalk slice => Sys2Proof.Machine.execSpillWalk slice s
  | .scratchpadMonitorWake g => Sys2Proof.Machine.execScratchpadMonitorWake g s
  | .scratchpadMonitorExpiry g => Sys2Proof.Machine.execScratchpadMonitorExpiry g s
  | .barrierAbandonMark team => Sys2Proof.Machine.execBarrierAbandonMark team s
  | .launchPolicyApply launch => Sys2Proof.Machine.execLaunchPolicyApply launch s
  | .fabricPromotion req => Sys2Proof.Machine.execFabricPromotion req s
  | .writebackFlitOffer req => Sys2Proof.Machine.execWritebackFlitOffer req s
  | .queuePacketTake q => Sys2Proof.Machine.execQueuePacketTake q s
  | .quote pk => Sys2Proof.Machine.execQuote pk s
  | .accept pk => Sys2Proof.Machine.execAccept pk s
  | .decline pk => Sys2Proof.Machine.execDecline pk s
  | .launchPacket pk => Sys2Proof.Machine.execLaunchPacket pk s
  | .waitPacket pk => Sys2Proof.Machine.execWaitPacket pk s
  | .waitPacketSatisfied pk => Sys2Proof.Machine.execWaitPacketSatisfied pk s
  | .waitPageTimeout pk => Sys2Proof.Machine.execWaitPageTimeout pk s
  | .signalPacket pk => Sys2Proof.Machine.execSignalPacket pk s
  | .copyPacket pk => Sys2Proof.Machine.execCopyPacket pk s
  | .timestampPacket pk => Sys2Proof.Machine.execTimestampPacket pk s
  | .checkpointPacket pk => Sys2Proof.Machine.execCheckpointPacket pk s
  | .rollbackPacket pk => Sys2Proof.Machine.execRollbackPacket pk s
  | .quotationExpiry qi => Sys2Proof.Machine.execQuotationExpiry qi s
  | .acceptedValidityExpiry qi => Sys2Proof.Machine.execAcceptedValidityExpiry qi s
  | .queueSlotSwap q slot => Sys2Proof.Machine.execQueueSlotSwap q slot s
  | .cohortPlacement launch => Sys2Proof.Machine.execCohortPlacement launch s
  | .childPlacement team => Sys2Proof.Machine.execChildPlacement team s
  | .childCompletion launch => Sys2Proof.Machine.execChildCompletion launch s
  | .launchCompletion launch => Sys2Proof.Machine.execLaunchCompletion launch s
  | .preemptionDecision launch => Sys2Proof.Machine.execPreemptionDecision launch s
  | .drainWatchdog team => Sys2Proof.Machine.execDrainWatchdog team s
  | .teamSave team => Sys2Proof.Machine.execTeamSave team s
  | .teamRestore team => Sys2Proof.Machine.execTeamRestore team s
  | .levelChangeComplete cl => Sys2Proof.Machine.execLevelChangeComplete cl s
  | .primerWindow cl => Sys2Proof.Machine.execPrimerWindow cl s
  | .dutyWindowSlide cl => Sys2Proof.Machine.execDutyWindowSlide cl s
  | .energyMeterFold cl => Sys2Proof.Machine.execEnergyMeterFold cl s
  | .tmaxCheck launch => Sys2Proof.Machine.execTmaxCheck launch s
  | .ckiExpiry launch => Sys2Proof.Machine.execCkiExpiry launch s
  | .intervalClose => Sys2Proof.Machine.execIntervalClose s
  | .pairComparison g => Sys2Proof.Machine.execPairComparison g s
  | .createq die => Sys2Proof.Machine.execCreateq die s
  | .destroyq die => Sys2Proof.Machine.execDestroyq die s
  | .setcap die => Sys2Proof.Machine.execSetcap die s
  | .setregions die => Sys2Proof.Machine.execSetregions die s
  | .undercoat die => Sys2Proof.Machine.execUndercoat die s
  | .fwupdate die => Sys2Proof.Machine.execFwupdate die s
  | .attest die => Sys2Proof.Machine.execAttest die s
  | .setfilter die => Sys2Proof.Machine.execSetfilter die s
  | .mailboxBadreq die => Sys2Proof.Machine.execMailboxBadreq die s
  | .scrub unit => Sys2Proof.Machine.execScrub unit s
  | .undercoatDone => Sys2Proof.Machine.execUndercoatDone s
  | .translationEventServed pk mapped => Sys2Proof.Machine.execTranslationEventServed pk mapped s
  | .writeToMemoryComplete req => Sys2Proof.Machine.execWriteToMemoryComplete req s
  | .hostWrite pa bytes => Sys2Proof.Machine.execHostWrite pa bytes s
  | .hostRead pa n => Sys2Proof.Machine.execHostRead pa n s
  | .ingressFrame die port mac ethertype udp frame => Sys2Proof.Machine.execIngressFrame die port mac ethertype udp frame s
  | .ethernetEgress port pa n => Sys2Proof.Machine.execEthernetEgress port pa n s
  | .ptpMessage port offset => Sys2Proof.Machine.execPtpMessage port offset s
  | .syncLockChange locked => Sys2Proof.Machine.execSyncLockChange locked s
  | .noMasterHeard => Sys2Proof.Machine.execNoMasterHeard s
  | .eventMessageTransmission port => Sys2Proof.Machine.execEventMessageTransmission port s
  | .functionReady die bit => Sys2Proof.Machine.execFunctionReady die bit s
  | .functionReset die bit => Sys2Proof.Machine.execFunctionReset die bit s
  | .powerOnReset => Sys2Proof.Machine.execPowerOnReset s
  | .deviceReset => Sys2Proof.Machine.execDeviceReset s
  | .eccUncorrectable pa => Sys2Proof.Machine.execEccUncorrectable pa s
  | .droopDetect cl => Sys2Proof.Machine.execDroopDetect cl s
  | .droopRecovery cl ns => Sys2Proof.Machine.execDroopRecovery cl ns s
  | .thermalEvent cl lvl => Sys2Proof.Machine.execThermalEvent cl lvl s
  | .powerCapReached draw => Sys2Proof.Machine.execPowerCapReached draw s
  | .dutyClear cl v => Sys2Proof.Machine.execDutyClear cl v s
  | .sramsplitWrite cl v => Sys2Proof.Machine.execSramsplitWrite cl v s
  | .injWrite cl v => Sys2Proof.Machine.execInjWrite cl v s
  | .reservationRevoked die qi => Sys2Proof.Machine.execReservationRevoked die qi s
  | .undercoatRestore => Sys2Proof.Machine.execUndercoatRestore s

end Sys2Proof.Machine
end

