-- ==== Sys2Proof/Machine/Schedule.lean ====
section
/-! DEFINITION. What a step may do next, and the doing of it: the packet that a quarter issues, the events that have fallen due, what the
outside brings, and the passing of time (03 R39, R43, R62, R63, 05 R87, R91, 13 R277, 17 R345, R346, R347). -/

namespace Sys2Proof.Machine

/-! ### A packet -/

/-- The moving word j of a packet, executed on the state before the packet. -/
def State.runWord (s : State) (j : Nat) (i : Instr) : State :=
  match exec i { s with cur := { s.cur with word := j } } with
  | .next t => t
  | _ => s

/-- Words that trap at their scratchpad port step (R62): what the other words did stands. -/
def portWord : Instr → Bool
  | .bari .. => true
  | .barx .. => true
  | .ringadv .. => true
  | _ => false

/-- The trap of a word that has been executed; the trap that a transfer leads to is none of the word's own. -/
def State.wordTrap (t : State) : Option TrapReport := if t.cur.moved then none else t.cur.trap

/-- The trap is one of a port step. -/
def atPort (i : Instr) (r : TrapReport) : Bool := portWord i && r.kind == .format

/-- The outcome of a word: the word, its number, the state it leads to alone. -/
structure Ran where
  i : Instr
  j : Nat
  t : State

/-- Execute every word of a packet on the state before it. -/
def State.tryWords (s : State) (is : List Instr) : List Ran := (is.zipIdx).map fun e => { i := e.1, j := e.2, t := s.runWord e.2 e.1 }

/-- Code of the trap that a word raises before its packet has taken effect. -/
def Ran.early (r : Ran) : Option Nat := match r.t.wordTrap with
  | some x => if atPort r.i x then none else some x.kind.code
  | none => none

/-- The first word with the lowest code. -/
def worst : List Ran → Option (Nat × Ran)
  | [] => none
  | r :: rest => match r.early, worst rest with
    | none, w => w
    | some c, none => some (c, r)
    | some c, some w => if w.1 < c then some w else some (c, r)

/-- The windows of a team as an `SFMT` of the packet leaves them: an `LDS.E` accepted in the cycle of the write decodes by the new contents
(04 R79). -/
def State.withWindows (s : State) (is : List Instr) : State :=
  (is.zipIdx).foldl (fun s e => match e.1 with
    | .sfmt .. => let t := s.runWord e.2 e.1; if t.wordTrap.isNone then { s with teams := t.teams } else s
    | _ => s) s

/-- The windows of the moving team as they stood before its packet, which has no effect. -/
def State.oldWindows (t s : State) : State :=
  t.modTeam s.me.place.team fun x => { x with windows := (s.team s.me.place.team).windows }

/-- A word whose data may still raise FORMAT once its translation is there (R62, 04 R77). -/
def elementWord : Instr → Bool
  | .ldg sz .. => sz == 3
  | .ldv sz .. => sz == 3
  | _ => false

/-- The place of a word among those of its packet as they act: the front end's write of a `LAUNCH` comes before the check of a `WAITU.S` (22 R395),
and a `WAITC` finds its counter as every other word has left it (17 R338). -/
def turnOf : Instr → Nat
  | .launch _ => 0
  | .waitc .. => 2
  | _ => 1
/-- The words of a packet in the order in which they act. -/
def inTurn (l : List Ran) : List Ran := [0, 1, 2].flatMap fun n => l.filter fun r => turnOf r.i == n

/-- The state after the words of a packet (R62, R63, R43): a trap that no word which waits can outrank keeps every word back; then a word
that must wait does; then any other trap; else every word acts, one that traps at its port after the others. -/
def State.runWords (s0 : State) (is : List Instr) : State × Bool :=
  let s := s0.withWindows is
  let ran := s.tryWords is
  let bad := worst ran
  let wait := ran.find? fun r => r.t.cur.miss
  let sure := if ran.any fun r => r.t.cur.miss && elementWord r.i then 5 else 7
  let rest := fun (_ : Unit) => match wait, bad with
    | some r, _ => (r.t.oldWindows s0, false)
    | none, some b => (b.2.t.oldWindows s0, false)
    | none, none =>
      let late := ran.filter fun r => r.t.wordTrap.isSome
      let now := inTurn (ran.filter fun r => r.t.wordTrap.isNone)
      let t := now.foldl (fun t r => t.runWord r.j r.i) s
      (late.foldl (fun t r => t.runWord r.j r.i) t, late.isEmpty)
  match bad with
  | some b => if b.1 ≤ sure then (b.2.t.oldWindows s0, false) else rest ()
  | none => rest ()

/-- The switch hold after a packet of these words (05 R91). -/
def nextHold (h : Option Hold) (gk k : Nat) (pc : Word) (clk : Nat) (us : List Uses) : Option Hold :=
  if us.any Uses.wbit then
    let l := us.foldl (fun m u => m ||| u.latchBits) 0
    match h with
    | some h =>
      if h.group == gk && h.strand == k then some { h with packets := h.packets + 1, since := clk, latches := h.latches ||| l }
      else some { group := gk, strand := k, first := pc, packets := 1, since := clk, latches := l }
    | none => some { group := gk, strand := k, first := pc, packets := 1, since := clk, latches := l }
  else none

/-- Groups of a quarter no longer wait for a group to issue (08 R174). -/
def State.letGo (s : State) (gk : Nat) : State :=
  ((List.range 16).map (gk / 16 * 16 + ·)).foldl (fun s k =>
    if (s.group k).yielded.isEmpty then s else s.modGroup k fun g => { g with yielded := g.yielded.filter (· != gk) }) s

/-- A packet has been accepted: progress, the energy of an issue, the strand pointer (17 R345, 03 R42, 05 R87). The group may have gone, or have
a new identity; the groups of a `SPLIT` start at the old progress (05 Table 5-8). -/
def State.issued (s0 s : State) (gk k : Nat) : State :=
  let born := decide ((s0.group gk).liveStrands.length < (s.group gk).liveStrands.length)
  let cut := decide ((s.group gk).place.width < (s0.group gk).place.width)
  (s.charge (clusterOf gk) (s0.group gk).place.qidx 120000).modGroup gk fun g =>
    if g.live then { g with progress := if cut then g.progress else g.progress + 1, sptr := if born then k else (k + 1) % 4, noPage := [], spare := [] }
    else g

/-- The switch hold of a quarter after a packet has issued (05 R91). -/
def State.holdAfter (s : State) (gk k : Nat) (pc : Word) (us : List Uses) : State :=
  s.modQuarter (clusterOf gk) (quarterOf gk) fun q => { q with hold := nextHold q.hold gk k pc (s.clk (clusterOf gk)) us }

/-- The turn of a group in its quarter is over: groups that let it go first wait no longer, and the round-robin pointer goes past it
(08 R174, 13 R277). -/
def State.turnDone (s : State) (gk : Nat) : State :=
  (s.letGo gk).modQuarter (clusterOf gk) (quarterOf gk) fun q => { q with rr := (slotOf gk + 1) % 16 }

/-- The state as the words of a packet find it, by the latches and the lost marks of its issue cycle (03 R39). -/
def State.asIssued (s : State) (gk : Nat) (f : Flight) : State :=
  { s with cur := { group := gk, strand := f.strand, view := some { group := { s.group gk with lost := f.lost }, latches := f.latches } } }

/-- A packet that issues now. -/
def State.flightNow (s : State) (gk k : Nat) : Flight :=
  { strand := k, latches := (s.quarter (clusterOf gk) (quarterOf gk)).latches, lost := (s.group gk).lost }

/-- The state as the words of a packet that issues now find it. -/
def State.atIssue (s : State) (gk k : Nat) : State := s.asIssued gk (s.flightNow gk k)

/-- What is left of the move under way: nothing. -/
def State.rest (s : State) : State := { s with cur := {} }

/-- The words of an issued packet as they are accepted, and what follows (03 R43): while a word waits the packet stays in flight; when they
have acted, the strand goes on to its next packet unless a word of pipe BR has moved it. -/
def State.acceptWords (s : State) (gk : Nat) (f : Flight) (is : List Instr) : State :=
  let s0 := s.asIssued gk f
  let (t, all) := s0.runWords is
  if t.cur.miss then t.modGroup gk fun g => { g with flight := some f }
  else if !all then t
  else
    let u := s0.issued t gk f.strand
    if t.cur.moved then u else u.fallThrough gk f.strand

/-- THE NEXT PACKET OF A STRAND ISSUES: the trap that its fetch meets, or ILLEGAL, or its words. -/
def State.packet1 (s : State) (gk k : Nat) : State :=
  let st := (s.group gk).strand k
  match s.fetchTrap gk k with
  | some r => (((s.atIssue gk k).takeTrap gk k r).turnDone gk).rest
  | none => match packetInstrs (s.group gk) (s.packetWords gk st) with
    | .error j => (((s.atIssue gk k).takeTrap gk k { kind := .illegal, word := j, pc := st.pc }).turnDone gk).rest
    | .ok is =>
      let s := s.keepBlock gk k
      let t := s.acceptWords gk (s.flightNow gk k) is
      let t := if t.cur.trap.isSome && !t.cur.moved && !t.cur.miss then t else t.holdAfter gk k st.pc (is.map usesOf)
      (t.turnDone gk).rest

/-- THE PACKET IN FLIGHT OF A GROUP, its word no longer waiting. -/
def State.accept (s : State) (gk : Nat) : State :=
  match (s.group gk).flight with
  | none => s
  | some f =>
    let s := s.modGroup gk fun g => { g with flight := none }
    match packetInstrs (s.group gk) (s.packetWords gk ((s.group gk).strand f.strand)) with
    | .error _ => s
    | .ok is => (s.acceptWords gk f is).rest

/-- The packet in flight of a group may be accepted now: it waits for nothing more, and is accepted or goes to wait for something else. -/
def State.acceptOpen (s : State) (gk : Nat) : Bool :=
  let g := s.group gk
  g.live && g.flight.isSome && g.wait == .none && g.halt.isNone && !s.stopped gk
    && !((s.accept gk).group gk == g)

/-! ### Events that may have fallen due -/

/-- Events of an operation in flight. -/
def State.opEvents (s : State) (k : Nat) (o : Op) : List Instr :=
  if !o.live then []
  else match o.kind with
    | .load .. => [.loadWriteback k]
    | .store .. => [.storeAck k]
    | .atomic _ _ _ _ _ left => .atomicReturn k :: left.map (.atomicStep k)
    | .cfetch .. => [.cfetchLanding k]
    | .commit .. => [.txeCommit k]
    | .pin .. => [.pinResult k]
    | .copy _ => [.engineQueueAdmit k, .copyChunkLanding k]
    | .gather _ => [.engineQueueAdmit k, .gatherElementLanding k]
    | .coll c =>
      let l := (s.team o.team).launch
      let absent := ((s.ranksOf l c.comm).zipIdx).filterMap fun r => match r.1 with
        | some gk => if (s.collOf l c.id gk).isNone then some r.2 else none
        | none => none
      if absent.isEmpty then [.collChunk k [] []] else [.collChunk k absent []]
    | .send c => c.pending.map fun p => if p.2.2 then .msendRetry k p.1 else .msendDelivery k p.1
    | .mma _ => [.mmaResultWrite k]
    | .none => []
    | .mirror => []
    | .l1maint _ => []

/-- Events of a request in flight; one that has waited 64 rounds is promoted (19 R372). -/
def State.reqEvents (s : State) (k : Nat) (r : Req) : List Instr :=
  if !r.live then []
  else (if decide (64 ≤ s.rounds r) && !r.pro && !r.legs.isEmpty then [.fabricPromotion k] else []) ++ match r.kind with
    | .fill .. => [.sectorFillArrival k]
    | .l2fill .. => [.l2FillArrival k]
    | .wb .. => [.writebackFlitOffer k, .l1WritebackArrival k]
    | .inv .. => [.directoryInvalidation k]
    | .invAck .. => [.invalidationAck k]
    | .ack => [.writeAckReceipt k]
    | .memWrite _ => [.writeToMemoryComplete k]
    | .stamped .. => []
    | .atom _ => []
    | .none => []

/-- Events of a group. -/
def State.groupEvents (s : State) (gk : Nat) (g : Group) : List Instr :=
  if !g.live then []
  else (match g.mergePair with | some p => [.strandMerge gk p.1 p.2] | none => [])
    ++ (g.liveStrands.filterMap fun k => match (g.strand k).park with | .join _ => some (.joinDeadline gk k) | _ => none)
    ++ (match g.wait with
      | .fuse .. => [.fuseWaitTimeout gk]
      | .fuseOver => [.fuseWaitTimeout gk]
      | .monitor .. => if (s.team g.place.team).phase == .saving then [] else [.waituWake gk]
      | .scratch .. => [.scratchpadMonitorWake gk, .scratchpadMonitorExpiry gk]
      | _ => [])
    ++ (if g.fence.isSome then [.fenceComplete gk] else [])
    ++ (if g.ended then [.groupEnd gk] else [])
    ++ (if g.place.side == 0 && (s.launch g.place.launch).paired then [.pairComparison gk] else [])

/-- Events of a slice: its monitor, its chain, its directory. -/
def State.sliceEvents (s : State) (k : Nat) (x : Slice) : List Instr :=
  (x.mon.map fun e => .waituTimeout (k * 1024 + e.1)) ++ (if s.walkOpen k then [.spillWalk k] else [])
    ++ x.dir.flatMap fun e => ((List.range 4).filter fun d => e.2.pres.getLsbD d).map fun d => .remoteEvictionNotice d e.1

/-- Events of a team. -/
def teamEvents (k : Nat) (t : Team) : List Instr :=
  if !t.live then []
  else (if t.pend.isEmpty || t.side != 0 then [] else [.childPlacement k]) ++ (if t.marks.isEmpty then [] else [.barrierAbandonMark k])
    ++ match t.phase with
      | .draining .. => [.drainWatchdog k]
      | .saving => [.teamSave k]
      | .saved => [.teamRestore k]
      | .discarded => [.teamRestore k]
      | _ => []

/-- A move of the machine that changes it. -/
def State.changes (s : State) (i : Instr) : Bool :=
  match exec i s with
  | .next t => !decide ({ t with cur := s.cur } = s)
  | _ => true

/-- A launch has cohorts that wait for a place. -/
def Launch.waits (l : Launch) : Bool := l.live && decide (l.placed < l.cohorts)

/-- The front end serves one launch before another: a higher class, or within a class, where both wait to start, the order of R273. -/
def State.servedBefore (s : State) (a b : Launch) : Bool :=
  decide (a.cls < b.cls) || (a.cls == b.cls && a.die == b.die && (s.packet a.packet).placing && (s.packet b.packet).placing
    && keyBefore (s.launchKey a.packet) (s.launchKey b.packet))

/-- A packet of the die that may start now is ahead of a launch that waits to start: one that is no LAUNCH, or a LAUNCH of a higher class or
ahead in its own (13 R273). -/
def State.packetAhead (s : State) (l : Launch) : Bool :=
  (s.packet l.packet).placing && (s.startable l.die).any fun pk => (s.packet pk).type != 4
    || decide (s.packetCls pk < l.cls) && s.masksMeet pk l.packet
    || s.packetCls pk == l.cls && keyBefore (s.launchKey pk) (s.launchKey l.packet)

/-- Nothing that the front end serves earlier could be placed or started: no waiting launch, no packet that is ahead, no team of its class or a
higher one that can come back (13 R273, R275, R285). -/
def State.firstInLine (s : State) (l : Launch) : Bool :=
  (s.launches.all fun e => !(e.2.waits && s.servedBefore e.2 l && s.changes (.cohortPlacement e.1)))
    && !s.packetAhead l && s.teams.all fun e => !(e.2.comesBack && decide ((s.launch e.2.launch).cls ≤ l.cls) && s.changes (.teamRestore e.1))

/-- A breach record is due: the launch is over, its release performed, and a cause logged (16 R333). -/
def State.recordDue (s : State) (k : Nat) (l : Launch) : Bool :=
  let p := s.packet l.packet
  l.live && l.parent.isNone && s.launchOver k && (if p.rele then s.release k p.rels else none).isNone && !(s.quote l.qidx).causes.isEmpty

/-- Of breach records that are due at once on a die, the one of the lowest QIDX takes its leaf first (20 R390). -/
def State.recordTurn (s : State) (k : Nat) (l : Launch) : Bool :=
  !s.recordDue k l || s.launches.all fun e => !(e.2.die == l.die && decide (e.2.qidx < l.qidx) && s.recordDue e.1 e.2)

/-- Events of a launch. -/
def State.launchEvents (s : State) (k : Nat) (l : Launch) : List Instr :=
  if !l.live then []
  else (if l.policyDue then [.launchPolicyApply k] else [])
    ++ (if l.waits then (if s.firstInLine l then [.cohortPlacement k] else []) ++ [.preemptionDecision k] else [])
    ++ (if l.parent.isSome then [.childCompletion k]
      else (if s.recordTurn k l then [.launchCompletion k] else []) ++ [.tmaxCheck k, .ckiExpiry k])

/-- Events of a packet that a queue has given. -/
def State.packetEvents (s : State) (k : Nat) (p : Packet) : List Instr :=
  if !p.live then []
  else if p.type == 5 then
    (if p.watching then [.waitPacketSatisfied k] else if p.eventAt.isNone then [.waitPacket k] else [])
      ++ (if p.eventAt.isSome then
          (if (s.queue p.queue).slot.isSome then [.waitPageTimeout k] else [])
            ++ (if (s.queueLeaf p.queue (p.num 0 8)).isSome then [.translationEventServed k true] else [])
        else [])
  else if p.started || p.placing then []
  else match p.type with
    | 1 => [.quote k]
    | 2 => [.accept k]
    | 3 => [.decline k]
    | 4 => [.launchPacket k]
    | 6 => [.signalPacket k]
    | 7 => [.copyPacket k]
    | 8 => [.timestampPacket k]
    | 9 => [.checkpointPacket k]
    | 10 => [.rollbackPacket k]
    | _ => []

/-- Events of a queue: the next packet, a slot for a queue with work, and the slot of an idle one when another needs it (13 R273). -/
def State.queueEvents (s : State) (k : Nat) (q : Queue) : List Instr :=
  let work := fun (q : Queue) => q.hit || descTail (s.descriptor q) != descHead (s.descriptor q)
    || q.packets.any fun k => (s.packet k).eventAt.isSome
  if !q.live then []
  else match q.slot with
    | some _ =>
      (if work q then [.queuePacketTake k] else [])
        ++ (if !work q && q.packets.isEmpty && decide (64 ≤ (s.slotsTaken q.die).length)
              && s.queues.any fun e => e.2.live && e.2.die == q.die && e.2.slot.isNone && work e.2 then [.queueSlotSwap k none] else [])
    | none =>
      if work q then match (List.range 64).find? fun n => !(s.slotsTaken q.die).contains n with
        | some n => [.queueSlotSwap k (some n)]
        | none => []
      else []

/-- Events of a quotation-table entry. -/
def quoteEvents (k : Nat) (q : QEntry) : List Instr :=
  match q.state with
  | .quoted => [.quotationExpiry k]
  | .accepted => [.acceptedValidityExpiry k]
  | _ => []

/-- Events of a cluster: levels, windows, meters, broken holds, an image that is moved. -/
def State.clusterEvents (s : State) (k : Nat) (c : Cluster) : List Instr :=
  (if c.power.changing then [.levelChangeComplete k] else [])
    ++ (if c.power.windowAt + 100 ≤ s.time.toNat then [.primerWindow k] else [])
    ++ (if c.boosts.isEmpty && c.stretches.isEmpty then [] else [.dutyWindowSlide k])
    ++ (if c.meters.any fun e => decide (10000000 ≤ e.2) then [.energyMeterFold k] else [])
    ++ (c.quarters.filterMap fun q => if q.2.hold.isSome then some (.switchHoldBreak k q.1) else none)
    ++ (if s.areaNeeded k then [.scrub k] else [])

/-- Requests that firmware may find at the head of a die's mailbox. -/
def State.dieEvents (s : State) (d : Nat) : List Instr :=
  if s.asked d then
    [.createq d, .destroyq d, .setcap d, .setregions d, .undercoat d, .fwupdate d, .attest d, .setfilter d, .mailboxBadreq d]
  else []

/-- Every event that the machine could bring about by itself. -/
def State.events (s : State) : List Instr :=
  (s.ops.flatMap fun e => s.opEvents e.1 e.2) ++ (s.reqs.flatMap fun e => s.reqEvents e.1 e.2)
    ++ (s.walks.map fun e => .pageWalkComplete e.1) ++ (s.rdvs.flatMap fun e => [.mmaRendezvousOpen e.1, .mmaAbsentTimeout e.1])
    ++ (s.groups.flatMap fun e => s.groupEvents e.1 e.2) ++ (s.slices.flatMap fun e => s.sliceEvents e.1 e.2)
    ++ (s.teams.flatMap fun e => teamEvents e.1 e.2) ++ (s.launches.flatMap fun e => s.launchEvents e.1 e.2)
    ++ (s.packets.flatMap fun e => s.packetEvents e.1 e.2) ++ (s.queues.flatMap fun e => s.queueEvents e.1 e.2)
    ++ (s.quotes.flatMap fun e => quoteEvents e.1 e.2) ++ (s.clusters.flatMap fun e => s.clusterEvents e.1 e.2)
    ++ ((List.range 4).flatMap s.dieEvents) ++ (if s.rel.closeDue then [.intervalClose] else [])
    ++ (if s.rel.undercoatBusy then [.undercoatDone] else []) ++ [.syncLockChange true, .syncLockChange false]

/-- What the outside may bring: the host, the network, faults, droops, heat, resets, and the choices of firmware that the spec leaves to it. -/
def fromOutside : Instr → Bool
  | .hostWrite .. => true
  | .hostRead .. => true
  | .ingressFrame .. => true
  | .ethernetEgress .. => true
  | .ptpMessage .. => true
  | .noMasterHeard => true
  | .eventMessageTransmission .. => true
  | .functionReady .. => true
  | .functionReset .. => true
  | .powerOnReset => true
  | .deviceReset => true
  | .eccUncorrectable .. => true
  | .droopDetect .. => true
  | .droopRecovery .. => true
  | .thermalEvent .. => true
  | .powerCapReached .. => true
  | .dutyClear .. => true
  | .sramsplitWrite .. => true
  | .injWrite .. => true
  | .reservationRevoked .. => true
  | .translationEventServed .. => true
  | .queueSlotSwap .. => true
  | .collChunk .. => true
  | .scrub .. => true
  | .undercoatRestore => true
  | _ => false

/-! ### Time (log 4) -/

/-- Energy added to a context's meter outside its dynamic window. -/
def State.addStatic (s : State) (cl qidx e : Nat) : State := s.modCluster cl fun c => { c with meters := c.meters.update 0 qidx (· + e) }

/-- Static energy of a cluster over n ns (17 R346, 08 R176): in proportion to the lane contexts each context holds, what a context spends
beyond its own capped vote to the context that set the level; lane contexts that nobody holds go to the die. -/
def State.staticTick (s : State) (n cl : Nat) : State :=
  let lvl := (s.cluster cl).power.level
  let here := s.groupsOn cl
  let qs := (here.map fun e => e.2.place.qidx).eraseDups
  let lanes := fun (q : Nat) => here.foldl (fun m e => if e.2.place.qidx == q then m + e.2.place.width else m) 0
  let s := qs.foldl (fun s q =>
    let e := staticPower lvl * lanes q * n / 1024
    let own := staticPower (min lvl ((s.contextVote cl q).getD 0)) * lanes q * n / 1024
    match s.levelSetter cl with
    | some x => if x == q then s.addStatic cl q e else (s.addStatic cl q own).addStatic cl x (e - own)
    | none => s.addStatic cl q e) s
  let held := here.foldl (fun m e => m + e.2.place.width) 0
  s.chargeOverhead (dieOf cl) (staticPower lvl * (1024 - held) * n / 1024)

/-- Static energy of the clusters of a die that have no record: level L, nobody there. -/
def State.staticRest (s : State) (n d : Nat) : State :=
  let sites := (List.range 128).filter fun i => !(s.die d).disabled.getLsbD i && !(s.clusters.keys.contains (clusterKey d i))
  s.chargeOverhead d (staticPower 0 * n * sites.length)

/-- Device time after n ns of the oscillator, slewed toward the master by at most 200 ns per ms (20 R388). -/
def slewPart (p : Ptp) (n : Nat) : Int :=
  if !p.master then 0 else if 0 ≤ p.slew then min p.slew (n / 5000 : Nat) else max p.slew (-(n / 5000 : Nat))

/-- TIME PASSES after a move: contexts that have parked in it fall (19 R378), droops that have lasted long enough are over (19 R380), every clock advances by a free value (log 4), device time is slewed, service is counted in it, static energy is
charged; the counter that free values are applied to moves on. -/
def State.tick (s : State) : State :=
  let at' := fun (k : Nat) => Config.elapse (s.free * 1024 + k)
  let n := at' 0
  let d := slewPart s.ptp n
  let m := ((n : Int) + d).toNat
  let s := s.clusters.keys.foldl (fun s cl => (s.parkings cl).droopDue cl) s
  let s := s.clusters.keys.foldl (State.staticTick · n ·) s
  let s := [0, 1, 2, 3].foldl (State.staticRest · n ·) s
  { s with
    clusters := s.clusters.map fun e => (e.1, { e.2 with clk := e.2.clk + BitVec.ofNat 64 (at' (1 + e.1)) })
    teams := s.teams.map fun e => (e.1, if e.2.live && e.2.phase == .running then { e.2 with service := e.2.service + m } else e.2)
    quotes := s.quotes.map fun e => (e.1, if e.2.state == .running && !e.2.paused then { e.2 with svc := e.2.svc + m } else e.2)
    quiet := s.quiet + BitVec.ofNat 64 (at' 1023)
    time := s.time + BitVec.ofInt 64 ((n : Int) + d)
    ptp := { s.ptp with slew := s.ptp.slew - d }
    free := s.free + 1 }

/-! ### The choice -/

/-- One move of the machine. -/
inductive Move where
  /-- The next packet of a strand of the group that its quarter issues from. -/
  | packet (gk k : Nat)
  /-- The packet in flight of a group is accepted. -/
  | accept (gk : Nat)
  /-- A strand parked at a `JOIN` where nobody is missing any more completes it (08 R164). -/
  | join (gk k : Nat)
  /-- A request leaves its present queue of the fabric. -/
  | hop (r : Nat)
  /-- A wait recorded in the image of a saved team expires (12 R266). -/
  | expire (team : Nat)
  | event (i : Instr)
  /-- The first thing that the outside brings. -/
  | input
  deriving DecidableEq, Repr

/-- The packets that quarters issue next (13 R277). -/
def State.issues (s : State) : List Move :=
  s.clusters.keys.flatMap fun cl => (List.range 4).filterMap fun q => (s.nextGroup cl q).map fun x => .packet x.1 x.2

/-- Packets in flight that may be accepted, joins that complete, requests that move on, waits of saved teams that expire. -/
def State.passings (s : State) : List Move :=
  ((s.groups.filter fun e => s.acceptOpen e.1).map fun e => .accept e.1)
    ++ (s.groups.filterMap fun e =>
      if e.2.live && e.2.halt.isNone && e.2.mergePair.isNone then e.2.joinable.map (Move.join e.1) else none)
    ++ ((s.reqs.filter fun e => s.hopOpen e.1).map fun e => .hop e.1)
    ++ (s.teams.filter fun e => (s.expired e.1).isSome).map fun e => .expire e.1

/-- The first thing that the outside brings is a frame whose ring may not be read yet (11 R238). -/
def State.inputWaits (s : State) : Bool := match s.inputs with
  | .ingressFrame die port mac ethertype udp _ :: _ => match (s.die die).filterFor port mac ethertype udp with
    | some f => s.rangeBusy f.ring 32
    | none => false
  | _ => false

/-- Every move that is open (log 5). -/
def State.moves (s : State) : List Move :=
  s.issues ++ s.passings ++ ((s.events.filter s.changes).map Move.event) ++ if s.inputs.isEmpty || s.inputWaits then [] else [.input]

/-- The move that comes next: the only one open, or a free choice among several. -/
def State.chosen (s : State) : Option Move :=
  match s.moves with
  | [] => none
  | [m] => some m
  | l => l[Config.pick s.free % l.length]?

/-- A move done. -/
def State.play (s : State) : Move → Outcome
  | .packet gk k => .next (s.packet1 gk k)
  | .accept gk => .next (s.accept gk)
  | .join gk k => .next (s.completeJoin gk k)
  | .hop r => .next (s.hop r)
  | .expire t => .next (s.expireImage t)
  | .event i => exec i s
  | .input => match s.inputs with
    | [] => .next s
    | i :: t => if fromOutside i then exec i { s with inputs := t } else .next { s with inputs := t }

/-! ### The spill list in memory (14 R290, R298; log 70) -/

/-- WHO of an entry: a resident group by its place, a saved one by its index and its team's, else the number of an event. -/
def State.whoBits (s : State) (e : MonEntry) : Nat :=
  if e.tgt == 0 then e.who * 2 ^ 9 else if e.tgt == 1 then e.who * 2 ^ 16 + (s.team e.team).index else e.who % 2 ^ 8

/-- An entry in the layout of Table 14-2. -/
def State.entryBits (s : State) (e : MonEntry) : BitVec 192 :=
  e.opnd ++ BitVec.ofNat 46 (e.waddr / 4) ++ BitVec.ofNat 3 e.cmp ++ BitVec.ofBool e.sz ++ BitVec.ofNat 2 e.tgt ++ BitVec.ofBool e.rsv
    ++ BitVec.ofBool e.v ++ BitVec.ofNat 12 e.qidx ++ BitVec.ofNat 38 e.exp ++ BitVec.ofNat 24 (s.whoBits e)

/-- A chain as it stands in its 32 KiB of the die's region: each entry padded to 32 bytes, and a free entry behind the last. -/
def State.chainBytes (s : State) (l : List MonEntry) : List Byte :=
  ((l.take 1024).flatMap fun e => field 32 (s.entryBits e).toNat) ++ if l.length < 1024 then field 32 0 else []

/-- The chains that a move has changed, written to the regions that firmware has set aside; s is the state before it. -/
def State.spillOut (t s : State) : State :=
  (s.slices.keys ++ t.slices.keys).eraseDups.foldl (fun t k =>
    let base := (t.die (k / 32)).spillBase
    let l := (t.slice k).spill
    if base == 0 || l == (s.slice k).spill then t else t.writeMem (base + k % 32 * 32768) (t.chainBytes l)) t

/-- A step: the move that comes next, and the time that it takes. -/
def State.advance (s : State) : Outcome :=
  match s.chosen with
  | none => .next s.tick
  | some m => match s.play m with
    | .next t => .next (t.spillOut s).rest.tick
    | .fault f => .fault f
    | .refused r => .refused r

/-! ### An instruction placed where a step takes it -/

/-- The packet of one word in block 0 of an instruction-store slot: header with NP = 1, the word, two `NOP`s. -/
def onePacket (w : Word) : Tab Word := Tab.set 0 1 w (Tab.set 0 0 0x00002000 [])

/-- A group of firmware with one strand at packet 0 of slot 0. -/
def firmwareGroup (uid : Nat) : Group :=
  { live := true, uid := uid
    place := { width := 32, role := .mixed, priv := true, regs := 1024, depth := 8, qidx := 0xFFF }
    strands := Tab.set {} 0 { live := true, pc := pcOf 0 0 0, members := fullMask 32, exm := fullMask 32 } [] }

/-- The machine with a word as the one packet of a firmware group that is alone on its cluster (log 3). -/
def State.placeWord (s : State) (w : Word) : State :=
  let cl := clusterKey 0 (s.die 0).fwSite
  let s := { s with groups := Tab.set {} (groupKey cl 0 0) (firmwareGroup s.nextUid) [], nextUid := s.nextUid + 1 }
  s.modCluster cl fun c => { c with istore := c.istore.set {} 0 { landed := true, bound := true, words := onePacket w } }

end Sys2Proof.Machine
end

