-- ==== Sys2Proof/Safety.lean ====
section
/-! DEFINITION. What counts as a safe run, and the terms that claims use: when a word issues, what it leaves alone, and how a lane word, a
group-wide word and a predicate word end. -/

namespace Sys2Proof.Machine

/-- The step answers a next state. -/
def State.goesOn (s : State) : Prop := ∃ t, step s = .next t

/-! ### Exact values (chapter 04) -/

/-- The exact value of a number. An infinity counts as ± 2^200, which no number of a format reaches; a NaN has none and reads 0. -/
def Val.rat : Val → ℚ
  | .fin s m e => (if s then -1 else 1) * m * 2 ^ e
  | .inf s => if s then -2 ^ 200 else 2 ^ 200
  | .nan _ _ => 0

/-- The sign. -/
def Val.sgn : Val → Bool
  | .fin s _ _ => s
  | .inf s => s
  | .nan s _ => s

/-- The value is finite. -/
def Val.Fin (v : Val) : Prop := v.isNan = false ∧ ∀ s, v ≠ .inf s

/-- F32, F16 or B16. -/
def Fmt.Wide (f : Fmt) : Prop := f = f32 ∨ f = f16 ∨ f = b16

/-- The least magnitude that a nearest rounding takes to infinity: half a unit above the largest number (04 R70, R71). -/
def Fmt.limit (f : Fmt) : ℚ := (2 - 1 / 2 ^ (f.frac + 1)) * 2 ^ f.bias

/-- The mode takes a magnitude of this sign toward zero. -/
abbrev TowardZero (mode : Nat) (s : Bool) : Prop := mode = 1 ∨ mode = 2 ∧ s = true ∨ mode = 3 ∧ s = false
/-- The mode takes a magnitude of this sign away from zero. -/
abbrev FromZero (mode : Nat) (s : Bool) : Prop := mode = 2 ∧ s = false ∨ mode = 3 ∧ s = true

/-- Among magnitudes v 0 < v 1 < … v (top − 1), number k is the rounding of y: the greatest not above y, the least not below y (top where there
is none), or a nearest one, a tie going to the even number or, in mode 4, to the greater (04 Table 4-5). -/
def RoundsIn (v : Nat → ℚ) (top mode : Nat) (s : Bool) (y : ℚ) (k : Nat) : Prop :=
  if TowardZero mode s then k < top ∧ v k ≤ y ∧ ∀ j, j < top → v j ≤ y → j ≤ k
  else if FromZero mode s then k ≤ top ∧ (k < top → y ≤ v k) ∧ ∀ j, j < top → y ≤ v j → k ≤ j
  else k < top ∧ ∀ j, j < top → |v k - y| ≤ |v j - y| ∧ (|v k - y| = |v j - y| → j = k ∨ if mode = 0 then k % 2 = 0 else j ≤ k)

/-- r is the number of F32, F16 or B16 to which a magnitude y of sign s rounds, or the infinity where it overflows (04 R70, R71). -/
def Fmt.Rounded (f : Fmt) (mode : Nat) (s : Bool) (y : ℚ) (r : Nat) : Prop :=
  ∃ k, r = (if s then f.signW else 0) + k
    ∧ if f.limit ≤ y ∧ ¬ TowardZero mode s then k = f.infMag else RoundsIn (fun j => (f.val j).rat) f.infMag mode s y k

/-- A magnitude rounded with an unbounded exponent exceeds the largest number (04 R71). -/
def Fmt.Overflows (f : Fmt) (mode : Nat) (s : Bool) (y : ℚ) : Prop :=
  if TowardZero mode s then 2 ^ (f.bias + 1) ≤ y else if FromZero mode s then (f.val (f.infMag - 1)).rat < y else f.limit ≤ y

/-- r is an exact x rounded once; where x is zero its sign is minus if z says so, and else the sign is that of x. -/
def Fmt.Gives (f : Fmt) (mode : Nat) (x : ℚ) (z : Prop) (r : Nat) : Prop :=
  ∃ s, f.Rounded mode s |x| r ∧ (s = true ↔ x < 0 ∨ x = 0 ∧ z)

/-- r is the code of W8 or W4 to which x rounds, saturated (04 R69). -/
def Fmt.Saturates (f : Fmt) (mode : Nat) (x : ℚ) (r : Nat) : Prop :=
  ∃ k, r = (if x < 0 ∧ k ≠ 0 then f.signW else 0) + k
    ∧ if (f.narrow (f.signW - 1)).rat ≤ |x| then k = f.signW - 1
      else RoundsIn (fun j => (f.narrow j).rat) f.signW mode (decide (x < 0)) |x| k

/-- n is the integer to which x rounds (04 Table 4-5). -/
def Whole (mode : Nat) (x : ℚ) (n : Int) : Prop :=
  if mode = 1 then n = if x < 0 then ⌈x⌉ else ⌊x⌋
  else if mode = 2 then n = ⌈x⌉
  else if mode = 3 then n = ⌊x⌋
  else |n - x| ≤ 1 / 2 ∧ (|n - x| = 1 / 2 → if mode = 0 then n % 2 = 0 else |x| < |(n : ℚ)|)

/-! ### Issue -/

/-- A word issues: it is legal (03 R51, R61, Table 3-8) and may read every latch that it names (03 R50). -/
def Ready (i : Instr) (s : State) : Prop := legal i s = true ∧ (usesOf i).latchesOpen s = true

/-- The quarter of the moving group. -/
def State.myQuarter (s : State) : Nat := quarterOf s.cur.group
/-- The latches of the moving group's quarter, as they stand. -/
def State.myLatches (s : State) : Tab Latch := (s.quarter s.myCluster s.myQuarter).latches

/-! ### Frames -/

/-- From s to t a word of the moving group has changed nothing but its group, which is now g, the latches of its quarter, which are now l, and
the energy meters of its cluster; and it has set the PC itself, or not. -/
structure Moves (s t : State) (own : Bool) (g : Group) (l : Tab Latch) : Prop where
  rest : t = { s with cur := { s.cur with moved := own }, groups := t.groups, clusters := t.clusters }
  me : t.group s.cur.group = g
  others : ∀ k, k ≠ s.cur.group → t.group k = s.group k
  away : ∀ c, c ≠ s.myCluster → t.cluster c = s.cluster c
  mine : t.cluster s.myCluster =
    { s.cluster s.myCluster with
      quarters := (t.cluster s.myCluster).quarters
      meters := (t.cluster s.myCluster).meters
      power := { (s.cluster s.myCluster).power with window := (t.cluster s.myCluster).power.window } }
  quarters : ∀ q, q ≠ s.myQuarter → t.quarter s.myCluster q = s.quarter s.myCluster q
  quarter : t.quarter s.myCluster s.myQuarter = { s.quarter s.myCluster s.myQuarter with latches := l }

/-- A word ends with the moving group at g and no latch written. -/
def Leaves (s : State) (o : Outcome) (own : Bool) (g : Group) : Prop := ∃ t, o = .next t ∧ Moves s t own g s.myLatches

/-- A byte of a lane's register space. -/
def Group.byteAt (g : Group) (l b : Nat) : Byte := g.lanes.get 0 (l * 1024 + b)

/-- A lane word of a pipe ends: in every lane of EXM, unless W is set, the n bytes at Vd hold f's result; every other byte of the lane
registers stands, and all of the group but its lost marks; the pipe's latch holds f's results in the lanes of EXM and 0 elsewhere,
and what it held has moved to the second latch (05 R89, 06 R107). -/
def LaneDone (s : State) (o : Outcome) (pipe : Pipe) (w : Bool) (d n : Nat) (f : Nat → Nat) : Prop :=
  ∃ t g lat, o = .next t
    ∧ Moves s t s.cur.moved g ((s.myLatches.set {} (pipe.latchNo + 4) (s.myLatches.get {} pipe.latchNo)).set {} pipe.latchNo lat)
    ∧ g = { s.me with lanes := g.lanes, lost := g.lost }
    ∧ (w = false → ∀ i, i < 64 → s.str.exm.getLsbD i = true → g.readLane i (s.seen.vAt d) n = f i % 2 ^ (8 * n))
    ∧ (∀ i b, i < 64 → b < 1024 → (w = true ∨ s.str.exm.getLsbD i = false ∨ b < s.seen.vAt d ∨ s.seen.vAt d + n ≤ b) →
        g.byteAt i b = s.me.byteAt i b)
    ∧ (∀ k, k < 8 → g.lost.getLsbD k = if k = pipe.latchNo then false else if k = pipe.latchNo + 4 then s.me.lost.getLsbD pipe.latchNo
        else s.me.lost.getLsbD k)
    ∧ lat.owner = s.me.uid ∧ lat.bits = 8 * n ∧ lat.wide = false
    ∧ ∀ i, i < 64 → lat.val i = if s.str.exm.getLsbD i = true then BitVec.ofNat 64 (f i) else 0

/-- A group-wide word ends with a latch content of so many bits in L2 and the group's G registers at g's: v is what every lane reads from L2
(05 R89, 07 R153). -/
def GroupDone (s : State) (o : Outcome) (width : Nat) (v : Dword) (g : Group) : Prop :=
  ∃ t lost lat, o = .next t
    ∧ Moves s t s.cur.moved { g with lost := lost } ((s.myLatches.set {} 6 (s.myLatches.get {} 2)).set {} 2 lat)
    ∧ (∀ k, k < 8 → lost.getLsbD k = if k = 2 then false else if k = 6 then s.me.lost.getLsbD 2 else s.me.lost.getLsbD k)
    ∧ lat.owner = s.me.uid ∧ lat.bits = width ∧ lat.wide = false ∧ ∀ i, lat.val i = v

/-- A group-wide word of 32 bits ends: G(d) takes v unless W is set, and L2 holds v. -/
def GDone (s : State) (o : Outcome) (w : Bool) (d : Nat) (v : Word) : Prop :=
  GroupDone s o 32 (v.zeroExtend 64) (if w then s.me else s.me.setG d v)

/-- A group-wide word of 64 bits ends: G(d) takes the low word of v and G(d + 1) the high word unless W is set, and L2 holds v. -/
def GDone64 (s : State) (o : Outcome) (w : Bool) (d : Nat) (v : Dword) : Prop :=
  GroupDone s o 64 v (if w then s.me else (s.me.setG d (v.truncate 32)).setG (d + 1) ((v >>> 32).truncate 32))

/-- A predicate word ends: Pn holds f in the lanes of EXM and what it held in the others, and nothing else of the group has changed
(05 R85, 06 R122). -/
def PredDone (s : State) (o : Outcome) (n : Nat) (f : Nat → Bool) : Prop :=
  ∃ v : LaneMask, Leaves s o s.cur.moved (s.me.setPred n v)
    ∧ ∀ i, i < 64 → v.getLsbD i = if s.str.exm.getLsbD i = true then f i else (s.me.pred n).getLsbD i

/-! ### Control flow -/

/-- A word ends by falling through, its group at g before that (03 R45). -/
def Falls (s : State) (o : Outcome) (g : Group) : Prop :=
  ∃ u, Moves s u s.cur.moved g s.myLatches ∧ o = .next u.fallMe.moved

/-- A word ends by entering a packet of a block, its group at g before that; skip names the limit that governs the back-edge taken
(08 R162, R166). -/
def Jumps (s : State) (o : Outcome) (g : Group) (slot blk pk : Nat) (skip : Option Nat) : Prop :=
  ∃ u, Moves s u s.cur.moved g s.myLatches
    ∧ o = .next (u.enterAt s.cur.group s.cur.strand (pcOf slot blk pk) skip).moved

/-- The moving strand changed. -/
def Group.withStrand (g : Group) (k : Nat) (f : Strand → Strand) : Group := g.setStrand k (f (g.strand k))

/-- The strand with one more trip counted for the limit that governs back-edges of its block (08 R166). -/
def Strand.tripped (st : Strand) (j : Nat) : Strand := { st with trips := st.trips.set 0 j (st.trips.get 0 j + 1) }

/-- A branch by so many blocks ends: a target outside the slot raises SEGMENT, taken or not; else not taken it falls through; taken it enters
the block that it names, a back-edge counted and permitted by its limit; beyond its limit it raises LIMIT, without effect (03 R46, R48,
08 R159, R166). -/
def Branches (s : State) (o : Outcome) (g : Group) (taken : Prop) (disp : BitVec 16) : Prop :=
  let pc := s.str.pc
  let b : Int := (pcBlk pc : Int) + disp.toInt
  let j := s.limOf s.cur.group s.str
  (¬ taken → 0 ≤ b ∧ b < 32 → Falls s o g)
  ∧ (¬ (0 ≤ b ∧ b < 32) → o = .next (s.trapWord .segment))
  ∧ (taken → 0 ≤ b ∧ b < 32 → 0 < disp.toInt → Jumps s o g (pcSlot pc) b.toNat 0 none)
  ∧ (taken → 0 ≤ b ∧ b < 32 → disp.toInt ≤ 0 → s.backEdgeOk s.cur.group s.str = false → o = .next (s.trapWord .limit))
  ∧ (taken → 0 ≤ b ∧ b < 32 → disp.toInt ≤ 0 → s.backEdgeOk s.cur.group s.str = true →
      Jumps s o (g.withStrand s.cur.strand (·.tripped j)) (pcSlot pc) b.toNat 0 (some j))

/-- What a strand of a group is after its next packet has been reached: the next one of the block, or packet 0 of the next block; none past
block 31 (03 R45). -/
def State.afterIn (s : State) (gk : Nat) (st : Strand) : Option Strand :=
  if pcPk st.pc + 1 < hdrNP (s.headOf gk st) then
    some { st with pc := pcOf (pcSlot st.pc) (pcBlk st.pc) (pcPk st.pc + 1) }
  else if pcBlk st.pc < 31 then
    some (Strand.enter (s.limitsOf gk) none st.rstack.length { st with pc := pcOf (pcSlot st.pc) (pcBlk st.pc + 1) 0, block := [] })
  else none
/-- The same of the moving group. -/
def State.after (s : State) (st : Strand) : Option Strand := s.afterIn s.cur.group st

/-! ### Words that start an operation -/

/-- From s to t the moving group, now g but for the operation, has started operation k of a path; every other operation stands, and every
other group but for lines that an eviction has taken from its release set (17 R336, 10 R221). -/
structure Starts (s t : State) (k path : Nat) (g : Group) : Prop where
  fresh : s.op k = {}
  made : t.op k = { t.op k with
    live := true, path := path, group := s.cur.group, uid := s.me.uid, cluster := s.myCluster, team := s.me.place.team
    qidx := s.me.place.qidx, pc := s.str.pc, word := s.cur.word }
  older : ∀ j, j ≠ k → t.op j = s.op j
  me : t.me = g.raise path k s.cur.strand
  others : ∀ j, j ≠ s.cur.group → t.group j = { s.group j with release := (t.group j).release, sent := (t.group j).sent }
  cur : t.cur = s.cur

/-- From s to t nothing has changed but groups, operations, requests, and of the clusters the moving group's, of that one its L1, its TLB and
its meters alone. Every byte of memory, of the slices, of the vaults and of the scratchpads stands. -/
structure Quiet (s t : State) : Prop where
  rest : t = { s with groups := t.groups, clusters := t.clusters, ops := t.ops, reqs := t.reqs }
  away : ∀ c, c ≠ s.myCluster → t.cluster c = s.cluster c
  mine : t.cluster s.myCluster =
    { s.cluster s.myCluster with
      l1 := (t.cluster s.myCluster).l1
      tlb := (t.cluster s.myCluster).tlb
      meters := (t.cluster s.myCluster).meters
      power := { (s.cluster s.myCluster).power with window := (t.cluster s.myCluster).power.window } }

/-- Memory and the home slices answer as before, and every scratchpad stands. -/
structure SameBytes (s t : State) : Prop where
  mem : t.mem = s.mem
  home : ∀ pa, t.homeByte pa = s.homeByte pa
  scratch : ∀ x, (t.team x).scratch = (s.team x).scratch

/-- The registers of a group stand: lanes, G, predicates, strands, views, gang, region set. -/
structure SameRegs (a b : Group) : Prop where
  lanes : b.lanes = a.lanes
  g : b.g = a.g
  p : b.p = a.p
  gp : b.gp = a.gp
  strands : b.strands = a.strands
  hlp : b.hlp = a.hlp
  vwv : b.vwv = a.vwv
  vwt : b.vwt = a.vwt
  vwa : b.vwa = a.vwa
  gang : b.gang = a.gang
  region : b.region = a.region

/-- What a group may find in an L1 is the same. -/
def SameL1 (s t : State) : Prop := ∀ c pa n, 0 < n → t.l1Read c pa n = s.l1Read c pa n

/-! ### Bytes that no store changes (00 R9) -/

/-- A store of n bytes at a of a team's scratchpad meets no field that is read-only to software: no object of its image, and not the team control
block (12 Tables 12-6, 12-9, R259, 17 Table 17-4). -/
abbrev State.mayWrite (s : State) (team a n : Nat) : Prop :=
  ∀ r ∈ s.fixedScr team, a + n ≤ r.1 ∨ r.1 + r.2 ≤ a

/-- A context may store the byte at a global address: it is no read-only byte of a descriptor (12 Tables 12-2, 12-11). -/
def State.storable (s : State) (owner pa : Nat) : Bool := !(s.fixedMask (pa / 256) (owner == 0xFFF)).getLsbD (pa % 256)

/-- The byte of a command queue's descriptor that holds its reserved bits [197:192], which stay zero (00 R10, 12 Table 12-2). -/
def State.reservedByte (s : State) (pa : Nat) : Bool := s.queues.any fun e => e.2.live && e.2.desc + 24 == pa

/-! ### Packets -/

/-- From s to t a packet has completed: it is gone, and where its record's address is global memory the record stands there (12 R257). -/
structure Completed (s t : State) (pk status datum : Nat) : Prop where
  gone : t.packet pk = {}
  queue : pk ∉ (t.queue (s.packet pk).queue).packets
  record : isGlobal (s.packet pk).cpa = true → (s.packet pk).cpa ≠ 0 → (s.packet pk).cpa % 16 = 0 → ∀ i, i < 16 →
    t.memByte ((s.packet pk).cpa + i) = (field 4 status ++ field 4 (s.packet pk).seq.toNat ++ field 8 datum).getD i 0

end Sys2Proof.Machine
end

