-- ==== Sys2Proof/Certificates/Slice0/Obligations.lean ====
section
/-! DEFINITION. The statements for the provers. -/

open Sys2Proof Sys2Proof.Machine

/-! ### Register words of chapter 06 -/

/-- Integer arithmetic, moves, logic, minima and maxima (06 R107, R112, R113): whenever one of these words issues, it ends as a lane word
with the result of Table 6-3 in every lane of EXM. -/
def Obligations.IntegerWords : Prop :=
  ∀ (s : State) (w : Bool) (d : BitVec 7) (a b : BitVec 8) (imm : BitVec 16),
    (Ready (.mov w d a) s → LaneDone s (exec (.mov w d a) s) .va w d.toNat 4 fun l => (s.src a l).toNat)
    ∧ (Ready (.movi w d imm) s → LaneDone s (exec (.movi w d imm) s) .va w d.toNat 4 fun _ => (imm.signExtend 32).toNat)
    ∧ (Ready (.movhi w d imm) s → LaneDone s (exec (.movhi w d imm) s) .va w d.toNat 4 fun _ => imm.toNat * 65536)
    ∧ (Ready (.iadd w d a b) s →
        LaneDone s (exec (.iadd w d a b) s) .va w d.toNat 4 fun l => ((s.src a l).toNat + (s.src b l).toNat) % 2 ^ 32)
    ∧ (Ready (.iaddi w d a b) s →
        LaneDone s (exec (.iaddi w d a b) s) .va w d.toNat 4 fun l => (((s.src a l).toNat + b.toInt) % 2 ^ 32).toNat)
    ∧ (Ready (.isub w d a b) s →
        LaneDone s (exec (.isub w d a b) s) .va w d.toNat 4 fun l => (((s.src a l).toNat - (s.src b l).toNat : Int) % 2 ^ 32).toNat)
    ∧ (Ready (.imul w d a b) s →
        LaneDone s (exec (.imul w d a b) s) .va w d.toNat 4 fun l => (s.src a l).toNat * (s.src b l).toNat % 2 ^ 32)
    ∧ (Ready (.imulh w d a b) s →
        LaneDone s (exec (.imulh w d a b) s) .va w d.toNat 4 fun l => ((s.src a l).toInt * (s.src b l).toInt / 2 ^ 32 % 2 ^ 32).toNat)
    ∧ (Ready (.imulhu w d a b) s →
        LaneDone s (exec (.imulhu w d a b) s) .va w d.toNat 4 fun l => (s.src a l).toNat * (s.src b l).toNat / 2 ^ 32)
    ∧ (Ready (.imad w d a b) s →
        LaneDone s (exec (.imad w d a b) s) .va w d.toNat 4 fun l =>
          ((s.src a l).toNat * (s.src b l).toNat + (s.dreg d l).toNat) % 2 ^ 32)
    ∧ (Ready (.iadd64 w d a b) s →
        LaneDone s (exec (.iadd64 w d a b) s) .va w d.toNat 8 fun l => ((s.src64 a l).toNat + (s.src64 b l).toNat) % 2 ^ 64)
    ∧ (Ready (.lea w d a b) s →
        LaneDone s (exec (.lea w d a b) s) .va w d.toNat 8 fun l => (((s.src64 a l).toNat + (s.src b l).toInt) % 2 ^ 64).toNat)
    ∧ (Ready (.and w d a b) s → LaneDone s (exec (.and w d a b) s) .va w d.toNat 4 fun l => (s.src a l &&& s.src b l).toNat)
    ∧ (Ready (.or w d a b) s → LaneDone s (exec (.or w d a b) s) .va w d.toNat 4 fun l => (s.src a l ||| s.src b l).toNat)
    ∧ (Ready (.xor w d a b) s → LaneDone s (exec (.xor w d a b) s) .va w d.toNat 4 fun l => (s.src a l ^^^ s.src b l).toNat)
    ∧ (Ready (.andn w d a b) s → LaneDone s (exec (.andn w d a b) s) .va w d.toNat 4 fun l => (s.src a l &&& ~~~ s.src b l).toNat)
    ∧ (Ready (.imin w d a b) s →
        LaneDone s (exec (.imin w d a b) s) .va w d.toNat 4 fun l =>
          if (s.src a l).toInt ≤ (s.src b l).toInt then (s.src a l).toNat else (s.src b l).toNat)
    ∧ (Ready (.imax w d a b) s →
        LaneDone s (exec (.imax w d a b) s) .va w d.toNat 4 fun l =>
          if (s.src a l).toInt ≤ (s.src b l).toInt then (s.src b l).toNat else (s.src a l).toNat)
    ∧ (Ready (.umin w d a b) s →
        LaneDone s (exec (.umin w d a b) s) .va w d.toNat 4 fun l => min (s.src a l).toNat (s.src b l).toNat)
    ∧ (Ready (.umax w d a b) s →
        LaneDone s (exec (.umax w d a b) s) .va w d.toNat 4 fun l => max (s.src a l).toNat (s.src b l).toNat)
    ∧ (Ready (.iabs w d a) s → LaneDone s (exec (.iabs w d a) s) .va w d.toNat 4 fun l => (s.src a l).toInt.natAbs)

/-- Shifts (06 R114): the amount is the whole register, unsigned, or the immediate; from 32 on nothing of the source is left but copies of
its sign in `SAR`, and an immediate of 32 or more is ILLEGAL. -/
def Obligations.ShiftWords : Prop :=
  ∀ (s : State) (w : Bool) (d : BitVec 7) (a b : BitVec 8),
    (Ready (.shl w d a b) s →
      LaneDone s (exec (.shl w d a b) s) .va w d.toNat 4 fun l => (s.src a l).toNat * 2 ^ (s.src b l).toNat % 2 ^ 32)
    ∧ (Ready (.shr w d a b) s →
        LaneDone s (exec (.shr w d a b) s) .va w d.toNat 4 fun l => (s.src a l).toNat / 2 ^ (s.src b l).toNat)
    ∧ (Ready (.sar w d a b) s →
        LaneDone s (exec (.sar w d a b) s) .va w d.toNat 4 fun l => ((s.src a l).toInt / 2 ^ (s.src b l).toNat % 2 ^ 32).toNat)
    ∧ (Ready (.shli w d a b) s →
        LaneDone s (exec (.shli w d a b) s) .va w d.toNat 4 fun l => (s.src a l).toNat * 2 ^ b.toNat % 2 ^ 32)
    ∧ (Ready (.shri w d a b) s → LaneDone s (exec (.shri w d a b) s) .va w d.toNat 4 fun l => (s.src a l).toNat / 2 ^ b.toNat)
    ∧ (Ready (.sari w d a b) s →
        LaneDone s (exec (.sari w d a b) s) .va w d.toNat 4 fun l => ((s.src a l).toInt / 2 ^ b.toNat % 2 ^ 32).toNat)
    ∧ (32 ≤ b.toNat → exec (.shli w d a b) s = .next (s.trapWord .illegal) ∧ exec (.shri w d a b) s = .next (s.trapWord .illegal)
        ∧ exec (.sari w d a b) s = .next (s.trapWord .illegal))

/-- Bit fields and counts (06 R112, R115). With p = bits [4:0] of the control, m = min of its bits [13:8] and 32 − p: `BFE` takes m bits of
the source from p up, and above them zeros or copies of the field's top bit as bit 16 says; `BFI` puts the m low bits of the value at p
into d. `POPC` counts ones, `CLZ` the zeros above the highest one, `BREV` reverses. -/
def Obligations.BitWords : Prop :=
  (∀ (s : State) (w : Bool) (d : BitVec 7) (a b : BitVec 8),
    (Ready (.bfe w d a b) s → LaneDone s (exec (.bfe w d a b) s) .va w d.toNat 4 fun l => (bfeW (s.src a l) (s.src b l)).toNat)
    ∧ (Ready (.bfi w d a) s → LaneDone s (exec (.bfi w d a) s) .va w d.toNat 4 fun l => (bfiW (s.src64 a l) (s.dreg d l)).toNat)
    ∧ (Ready (.popc w d a) s → LaneDone s (exec (.popc w d a) s) .va w d.toNat 4 fun l => (popW (s.src a l)).toNat)
    ∧ (Ready (.clz w d a) s → LaneDone s (exec (.clz w d a) s) .va w d.toNat 4 fun l => (clzW (s.src a l)).toNat)
    ∧ (Ready (.brev w d a) s → LaneDone s (exec (.brev w d a) s) .va w d.toNat 4 fun l => (brevW (s.src a l)).toNat))
  ∧ (∀ (a c : Word) (k : Nat), k < 32 →
      let p := c.toNat % 32
      let m := min (c.toNat / 256 % 64) (32 - p)
      (bfeW a c).getLsbD k = if k < m then a.getLsbD (p + k) else (c.getLsbD 16 && decide (0 < m) && a.getLsbD (p + m - 1)))
  ∧ (∀ (v c d : Word) (k : Nat), k < 32 →
      let p := c.toNat % 32
      let m := min (c.toNat / 256 % 64) (32 - p)
      (bfiW (c ++ v) d).getLsbD k = if p ≤ k ∧ k < p + m then v.getLsbD (k - p) else d.getLsbD k)
  ∧ (∀ a : Word, (popW a).toNat = ((List.range 32).map fun k => if a.getLsbD k then 1 else 0).sum)
  ∧ (∀ a : Word, a ≠ 0 → (clzW a).toNat < 32 ∧ 2 ^ (31 - (clzW a).toNat) ≤ a.toNat ∧ a.toNat < 2 ^ (32 - (clzW a).toNat))
  ∧ clzW 0 = 32
  ∧ ∀ (a : Word) (k : Nat), k < 32 → (brevW a).getLsbD k = a.getLsbD (31 - k)

/-- Floats (06 R116 to R121): whenever one of these words issues, it ends as a lane word with the operation of chapter 04 on the sources in
every lane of EXM; a packed word does it in each half. -/
def Obligations.FloatWords : Prop :=
  ∀ (s : State) (w : Bool) (d : BitVec 7) (a b : BitVec 8),
    (Ready (.fadd w d a b) s →
      LaneDone s (exec (.fadd w d a b) s) .va w d.toNat 4 fun l => f32.add (s.src a l).toNat (s.src b l).toNat % 2 ^ 32)
    ∧ (Ready (.fsub w d a b) s →
        LaneDone s (exec (.fsub w d a b) s) .va w d.toNat 4 fun l => f32.sub (s.src a l).toNat (s.src b l).toNat % 2 ^ 32)
    ∧ (Ready (.fmul w d a b) s →
        LaneDone s (exec (.fmul w d a b) s) .va w d.toNat 4 fun l => f32.mul (s.src a l).toNat (s.src b l).toNat % 2 ^ 32)
    ∧ (Ready (.ffma w d a b) s →
        LaneDone s (exec (.ffma w d a b) s) .va w d.toNat 4 fun l =>
          f32.fma (s.src a l).toNat (s.src b l).toNat (s.dreg d l).toNat % 2 ^ 32)
    ∧ (Ready (.fmin w d a b) s →
        LaneDone s (exec (.fmin w d a b) s) .va w d.toNat 4 fun l => f32.min (s.src a l).toNat (s.src b l).toNat % 2 ^ 32)
    ∧ (Ready (.fmax w d a b) s →
        LaneDone s (exec (.fmax w d a b) s) .va w d.toNat 4 fun l => f32.max (s.src a l).toNat (s.src b l).toNat % 2 ^ 32)
    ∧ (Ready (.hadd2 w d a b) s →
        LaneDone s (exec (.hadd2 w d a b) s) .va w d.toNat 4 fun l =>
          packed (fun x y _ => f16.add x y) (s.src a l).toNat (s.src b l).toNat 0 % 2 ^ 32)
    ∧ (Ready (.hmul2 w d a b) s →
        LaneDone s (exec (.hmul2 w d a b) s) .va w d.toNat 4 fun l =>
          packed (fun x y _ => f16.mul x y) (s.src a l).toNat (s.src b l).toNat 0 % 2 ^ 32)
    ∧ (Ready (.hfma2 w d a b) s →
        LaneDone s (exec (.hfma2 w d a b) s) .va w d.toNat 4 fun l =>
          packed f16.fma (s.src a l).toNat (s.src b l).toNat (s.dreg d l).toNat % 2 ^ 32)
    ∧ (Ready (.badd2 w d a b) s →
        LaneDone s (exec (.badd2 w d a b) s) .va w d.toNat 4 fun l =>
          packed (fun x y _ => b16.add x y) (s.src a l).toNat (s.src b l).toNat 0 % 2 ^ 32)
    ∧ (Ready (.bmul2 w d a b) s →
        LaneDone s (exec (.bmul2 w d a b) s) .va w d.toNat 4 fun l =>
          packed (fun x y _ => b16.mul x y) (s.src a l).toNat (s.src b l).toNat 0 % 2 ^ 32)
    ∧ (Ready (.bfma2 w d a b) s →
        LaneDone s (exec (.bfma2 w d a b) s) .va w d.toNat 4 fun l =>
          packed b16.fma (s.src a l).toNat (s.src b l).toNat (s.dreg d l).toNat % 2 ^ 32)
    ∧ (Ready (.frcp w d a) s → LaneDone s (exec (.frcp w d a) s) .vb w d.toNat 4 fun l => frcp (s.src a l).toNat % 2 ^ 32)
    ∧ (Ready (.frsq w d a) s → LaneDone s (exec (.frsq w d a) s) .vb w d.toNat 4 fun l => frsq (s.src a l).toNat % 2 ^ 32)
    ∧ (Ready (.fexp2 w d a) s → LaneDone s (exec (.fexp2 w d a) s) .vb w d.toNat 4 fun l => fexp2 (s.src a l).toNat % 2 ^ 32)
    ∧ (Ready (.flog2 w d a) s → LaneDone s (exec (.flog2 w d a) s) .vb w d.toNat 4 fun l => flog2 (s.src a l).toNat % 2 ^ 32)
    ∧ (Ready (.cvt w d a b) s →
        LaneDone s (exec (.cvt w d a b) s) .vb w d.toNat 4 fun l =>
          convert (b.toNat % 16) (b.toNat / 16 % 8) b.msb (s.src a l).toNat % 2 ^ 32)
    ∧ (Ready (.fscale w d a b) s →
        LaneDone s (exec (.fscale w d a b) s) .vb w d.toNat 4 fun l => fscale (s.src a l).toNat (s.src b l).toInt % 2 ^ 32)
    ∧ (Ready (.qscale w d a b) s →
        LaneDone s (exec (.qscale w d a b) s) .vb w d.toNat 4 fun l => qscale (s.src a l).toNat (s.src b l).toNat % 2 ^ 32)
    ∧ (Ready (.frnd w d a b) s →
        LaneDone s (exec (.frnd w d a b) s) .vb w d.toNat 4 fun l => frnd b.toNat (s.src a l).toNat % 2 ^ 32)

/-- NaN operands and new events (04 R67, R68, 06 R116): a sum, a difference, a product, a minimum or a maximum of F32, F16 or B16 gives the
first NaN of its sources, quiet, with its sign and the six low fraction bits kept; with no NaN among them 0 × ∞ gives code 2 and ∞ − ∞
code 1, sign 0; and the NaNs of the device stand where R67 puts them. -/
def Obligations.FloatNans : Prop :=
  (∀ (f : Fmt) (a b : Nat) (sg : Bool) (c : Nat), f = f32 ∨ f = f16 ∨ f = b16 →
    (f.val a = .nan sg c ∨ (f.val a).isNan = false ∧ f.val b = .nan sg c) →
      f.add a b = f.nanBits sg c ∧ f.sub a b = f.nanBits sg c ∧ f.mul a b = f.nanBits sg c ∧ f.min a b = f.nanBits sg c
        ∧ f.max a b = f.nanBits sg c ∧ (∀ x, f.fma a b x = f.nanBits sg c))
  ∧ (∀ (f : Fmt) (a b x : Nat) (sg : Bool) (c : Nat), f = f32 ∨ f = f16 ∨ f = b16 → (f.val a).isNan = false → (f.val b).isNan = false →
      f.val x = .nan sg c → f.fma a b x = f.nanBits sg c)
  ∧ (∀ (f : Fmt) (a b : Nat) (s1 s2 : Bool) (e : Int), f = f32 ∨ f = f16 ∨ f = b16 →
      (f.val a = .inf s1 → f.val b = .fin s2 0 e → f.mul a b = f.nanBits false 2 ∧ f.mul b a = f.nanBits false 2)
      ∧ (f.val a = .inf s1 → f.val b = .inf (!s1) → f.add a b = f.nanBits false 1)
      ∧ (f.val a = .inf s1 → f.val b = .inf s1 → f.sub a b = f.nanBits false 1))
  ∧ (∀ c : Nat, f32.nanBits false c = 0x7FC00000 + c ∧ f16.nanBits false c = 0x7E00 + c ∧ b16.nanBits false c = 0x7FC0 + c)

/-- Rounding (04 R70): m × 2^e taken to a multiple n of 2^q, q ≥ e, with p = 2^(q − e): under RNE n is a nearest multiple, and the even one
of two equally near; under RZ n × p is the greatest multiple not above m; under RU and RD n × p is the least multiple not below m on the side that the mode
rounds away from zero and the greatest not above m on the other; under RNA a tie goes away from zero. A number rounds to the number of F32,
F16 or B16 that its mode picks, and past the largest as IEEE 754 overflow does (R70, R71). Sums, differences, products and fused products of
finite numbers are their exact results rounded once, with the sign of a zero as R116 gives it; so are `FSCALE`, `QSCALE`, `FRND`, `FRCP` and
`FRSQ` (R72, R118, R120, R121). A conversion of a finite number rounds by its mode, saturates to an integer or a narrow format, overflows to
the NaN of code 4 with OVN, and is exact where it widens (R69, R71). `FEXP2` of an integer and `FLOG2` of a power of two are exact, and the special cases of Table 4-7 stand. -/
def Obligations.Rounding : Prop :=
  (∀ (s : Bool) (m : Nat) (e q : Int), e ≤ q →
    let p := 2 ^ (q - e).toNat
    (2 * (roundAt 0 s m e q false * p) ≤ 2 * m + p ∧ 2 * m ≤ 2 * (roundAt 0 s m e q false * p) + p
      ∧ (2 * (m % p) = p → roundAt 0 s m e q false % 2 = 0))
    ∧ roundAt 1 s m e q false = m / p
    ∧ roundAt 2 s m e q false = (if s then m / p else (m + p - 1) / p)
    ∧ roundAt 3 s m e q false = (if s then (m + p - 1) / p else m / p)
    ∧ roundAt 4 s m e q false = (2 * m + p) / (2 * p))
  ∧ (∀ (f : Fmt) (mode : Nat) (s : Bool) (m : Nat) (e : Int), f.Wide → mode ≤ 4 →
      f.Rounded mode s (m * 2 ^ e) (f.round mode (.fin s m e)) ∧ Whole mode (Val.fin s m e).rat ((Val.fin s m e).toInt mode))
  ∧ (∀ (f : Fmt) (a b c : Nat), f.Wide → (f.val a).Fin → (f.val b).Fin →
      let x := f.val a
      let y := f.val b
      f.Gives 0 (x.rat + y.rat) (x.sgn = true ∧ y.sgn = true) (f.add a b)
      ∧ f.Gives 0 (x.rat - y.rat) (x.sgn = true ∧ y.sgn = false) (f.sub a b)
      ∧ f.Gives 0 (x.rat * y.rat) (x.sgn ≠ y.sgn) (f.mul a b)
      ∧ ((f.val c).Fin → f.Gives 0 (x.rat * y.rat + (f.val c).rat) (x.sgn ≠ y.sgn ∧ (f.val c).sgn = true) (f.fma a b c)))
  ∧ (∀ (a : Nat) (s : Bool) (m : Nat) (e : Int), f32.val a = .fin s m e → m ≠ 0 →
      let x := (f32.val a).rat
      (∀ n : Int, f32.Rounded 0 s (|x| * 2 ^ n) (fscale a n))
      ∧ (∀ mode, mode ≤ 4 → ∃ n, Whole mode x n ∧ (f32.val (frnd mode a)).rat = n ∧ (f32.val (frnd mode a)).sgn = s)
      ∧ f32.Rounded 0 s (1 / |x|) (frcp a)
      ∧ (s = false → 0 < frsq a ∧ frsq a + 1 < f32.infMag
          ∧ ((f32.val (frsq a - 1)).rat + (f32.val (frsq a)).rat) ^ 2 * x ≤ 4
          ∧ 4 ≤ ((f32.val (frsq a)).rat + (f32.val (frsq a + 1)).rat) ^ 2 * x)
      ∧ (s = true → frsq a = 0x7FC00003 ∧ flog2 a = 0x7FC00003)
      ∧ (∀ n : Int, x = n → f32.Rounded 0 false (2 ^ n) (fexp2 a))
      ∧ ∀ n : Int, x = 2 ^ n → (f32.val (flog2 a)).rat = n)
  ∧ (∀ a b : Nat, (f32.val a).Fin → (b16.val (b % 2 ^ 16)).Fin →
      f32.Gives 0 ((f32.val a).rat * (b16.val (b % 2 ^ 16)).rat) ((f32.val a).sgn ≠ (b16.val (b % 2 ^ 16)).sgn) (qscale a b))
  ∧ (∀ (a : Nat) (mode : Nat) (n : Int), (∃ s, f32.val a = .inf s) ∨ (f32.val a).Fin ∧ (f32.val a).rat = 0 → fscale a n = a ∧ frnd mode a = a)
  ∧ (∀ (a mode : Nat), a < 2 ^ 32 → mode ≤ 4 →
      let x := f32.val a
      (∀ p ∈ ([(0, -2147483648, 2147483647), (1, 0, 4294967295), (12, -128, 127), (13, 0, 255), (14, -8, 7), (15, 0, 15)] : List (Nat × Int × Int)),
        (x.Fin → ∃ n, Whole mode x.rat n ∧ convert p.1 mode false a = (max p.2.1 (min p.2.2 n) % 2 ^ 32).toNat)
        ∧ (x = .inf false → convert p.1 mode false a = (p.2.2 % 2 ^ 32).toNat)
        ∧ (x = .inf true → convert p.1 mode false a = (p.2.1 % 2 ^ 32).toNat)
        ∧ (x.isNan = true → convert p.1 mode false a = 0))
      ∧ f32.Gives mode (BitVec.ofNat 32 a).toInt False (convert 2 mode false a)
      ∧ f32.Gives mode a False (convert 3 mode false a)
      ∧ (∀ p ∈ [(4, f16), (6, b16)],
          (x.Fin → p.2.Gives mode x.rat (x.sgn = true) (convert p.1 mode false a)
            ∧ (p.2.Overflows mode x.sgn |x.rat| → convert p.1 mode true a = p.2.nanBits false 4)
            ∧ (¬ p.2.Overflows mode x.sgn |x.rat| → convert p.1 mode true a = convert p.1 mode false a))
          ∧ ∀ s c, x = .nan s c → convert p.1 mode false a = p.2.nanBits s c)
      ∧ (∀ p ∈ [(8, w8), (10, w4)],
          (x.Fin → p.2.Saturates mode x.rat (convert p.1 mode false a)) ∧ (x.isNan = true → convert p.1 mode false a = p.2.signW)
          ∧ ∀ s, x = .inf s → convert p.1 mode false a = (if s then p.2.signW else 0) + (p.2.signW - 1))
      ∧ ∀ p ∈ [(5, f16.val (a % 2 ^ 16)), (7, b16.val (a % 2 ^ 16)), (9, w8.narrow (a % 256)), (11, w4.narrow (a % 16))],
          let y := f32.val (convert p.1 mode false a)
          (p.2.Fin → y.Fin ∧ y.rat = p.2.rat ∧ y.sgn = p.2.sgn) ∧ (∀ s, p.2 = .inf s → y = .inf s)
          ∧ ∀ s c, p.2 = .nan s c → convert p.1 mode false a = f32.nanBits s c)
  ∧ ([0, 0x80000000, 0x7F800000, 0xFF800000, 0x3F800000].map fun a => [frcp a, frsq a, fexp2 a, flog2 a])
      = [[0x7F800000, 0x7F800000, 0x3F800000, 0xFF800000], [0xFF800000, 0xFF800000, 0x3F800000, 0xFF800000], [0, 0, 0x7F800000, 0x7F800000],
        [0x80000000, 0x7FC00003, 0, 0x7FC00003], [0x3F800000, 0x3F800000, 0x40000000, 0]]

/-- Dot words (07 R131): whenever one issues, it ends as a lane word: products of the packed elements summed exactly with d, rounded once for
W8 and W4, modulo 2^32 for the integers. A finite number and a chunk of products of finite numbers give their exact sum rounded once by RNE,
and a zero sum is −0 only where the number and every product are −0 (04 R73); a narrow NaN gives 0x7FC0_0007 whatever d holds, and else a NaN
in d stands as 04 R68 says. -/
def Obligations.DotWords : Prop :=
  (∀ (s : State) (w : Bool) (d : BitVec 7) (a b : BitVec 8),
    (Ready (.dot8w w d a b) s →
      LaneDone s (exec (.dot8w w d a b) s) .vb w d.toNat 4 fun l =>
        dotW w8 4 8 (s.src a l).toNat (s.src b l).toNat (s.dreg d l).toNat % 2 ^ 32)
    ∧ (Ready (.dot4w w d a b) s →
        LaneDone s (exec (.dot4w w d a b) s) .vb w d.toNat 4 fun l =>
          dotW w4 8 4 (s.src a l).toNat (s.src b l).toNat (s.dreg d l).toNat % 2 ^ 32)
    ∧ (Ready (.dot8i w d a b) s →
        LaneDone s (exec (.dot8i w d a b) s) .vb w d.toNat 4 fun l =>
          ((((s.dreg d l).toNat : Int) + ((List.range 4).map fun k =>
            signed 8 (elem (s.src a l).toNat 8 k) * signed 8 (elem (s.src b l).toNat 8 k)).sum) % 2 ^ 32).toNat)
    ∧ (Ready (.dot4i w d a b) s →
        LaneDone s (exec (.dot4i w d a b) s) .vb w d.toNat 4 fun l =>
          ((((s.dreg d l).toNat : Int) + ((List.range 8).map fun k =>
            signed 4 (elem (s.src a l).toNat 4 k) * signed 4 (elem (s.src b l).toNat 4 k)).sum) % 2 ^ 32).toNat))
  ∧ (∀ (acc : Nat) (chunk : List (Val × Val)), (f32.val acc).Fin → (∀ p ∈ chunk, p.1.Fin ∧ p.2.Fin) →
      f32.Gives 0 ((f32.val acc).rat + (chunk.map fun p => p.1.rat * p.2.rat).sum)
        ((f32.val acc).sgn = true ∧ ∀ p ∈ chunk, p.1.sgn ≠ p.2.sgn) (accumulate acc chunk))
  ∧ ∀ (f : Fmt) (n a b d : Nat), f = w8 ∧ n = 4 ∨ f = w4 ∧ n = 8 →
      let x := fun k => f.narrow (elem a (32 / n) k)
      let y := fun k => f.narrow (elem b (32 / n) k)
      ((f32.val d).Fin → (∀ k, k < n → (x k).Fin ∧ (y k).Fin) →
        f32.Gives 0 ((f32.val d).rat + ((List.range n).map fun k => (x k).rat * (y k).rat).sum)
          ((f32.val d).sgn = true ∧ ∀ k, k < n → (x k).sgn ≠ (y k).sgn) (dotW f n (32 / n) a b d))
      ∧ ((∃ k, k < n ∧ ((x k).isNan = true ∨ (y k).isNan = true)) → dotW f n (32 / n) a b d = 0x7FC00007)
      ∧ ∀ s c, f32.val d = .nan s c → (∀ k, k < n → (x k).Fin ∧ (y k).Fin) → dotW f n (32 / n) a b d = f32.nanBits s c

/-- Cross-lane words (07 R132 to R136): lane i takes the source of its partner j where j is in the strand's EXM, and its own elsewhere; `LRED`
combines the lanes of EXM that are no helper lanes. -/
def Obligations.CrossLaneWords : Prop :=
  ∀ (s : State) (w : Bool) (d : BitVec 7) (a b : BitVec 8),
    let from' := fun (i j : Nat) => if j < 64 ∧ s.str.exm.getLsbD j = true then (s.src a j).toNat else (s.src a i).toNat
    let n := b.toNat % 64
    let width := s.seen.place.width
    let set := lanesOf (s.str.exm &&& ~~~ s.seen.hlp)
    (Ready (.shfl w d a b) s →
      LaneDone s (exec (.shfl w d a b) s) .vb w d.toNat 4 fun i => from' i ((s.src b i).toNat % width))
    ∧ (Ready (.shflx w d a b) s → b.toNat / 64 = 0 →
        LaneDone s (exec (.shflx w d a b) s) .vb w d.toNat 4 fun i => from' i (i ^^^ (n &&& (width - 1))))
    ∧ (Ready (.shflx w d a b) s → b.toNat / 64 = 1 →
        LaneDone s (exec (.shflx w d a b) s) .vb w d.toNat 4 fun i => if n ≤ i then from' i (i - n) else (s.src a i).toNat)
    ∧ (Ready (.shflx w d a b) s → b.toNat / 64 = 2 →
        LaneDone s (exec (.shflx w d a b) s) .vb w d.toNat 4 fun i => if i + n < width then from' i (i + n) else (s.src a i).toNat)
    ∧ (Ready (.qxch w d a b) s →
        LaneDone s (exec (.qxch w d a b) s) .vb w d.toNat 4 fun i =>
          from' i (if b.toNat < 3 then i ^^^ (b.toNat + 1) else i / 4 * 4 + (b.toNat - 3)))
    ∧ (Ready (.lred w d a b) s →
        LaneDone s (exec (.lred w d a b) s) .vb w d.toNat 4 fun i =>
          (combine (b.toNat % 16) (((if b.toNat / 16 % 4 = 0 then set else if b.toNat / 16 % 4 = 1 then set.filter fun j => j / 4 == i / 4
            else set.filter fun j => j ≤ i)).map fun j => s.src a j)).toNat)

/-- Identity words (07 R137, R138): `RDID` gives every lane the value of Table 7-5; `MRD` the mask that it selects, 0 from the group's width
up; `STRD` the strand's descriptor. -/
def Obligations.IdentityWords : Prop :=
  ∀ (s : State) (w : Bool) (d : BitVec 7) (a b : BitVec 8),
    (Ready (.rdid w d b) s →
      LaneDone s (exec (.rdid w d b) s) .va w d.toNat 4 fun i =>
        [i, s.seen.place.off + i, s.seen.place.width, i / 4, (s.team s.seen.place.team).inCohort, (s.team s.seen.place.team).cohort,
          s.myCluster, s.seen.place.off, s.myQuarter, s.cur.strand, if s.seen.hlp.getLsbD i then 1 else 0].getD b.toNat 0)
    ∧ (Ready (.mrd w d a b) s →
        GDone64 s (exec (.mrd w d a b) s) w d.toNat
          (([s.str.exm, s.str.members, s.seen.hlp, s.seen.pred (a.toNat % 8)].getD b.toNat 0) &&& fullMask s.seen.place.width))
    ∧ (Ready (.strd w d) s → GDone s (exec (.strd w d) s) w d.toNat s.strandDescriptor)

/-- Predicates and masks (06 R122 to R127). -/
def Obligations.PredicateWords : Prop :=
  ∀ (s : State) (w : Bool) (d : BitVec 7) (c f : BitVec 4) (p q r : BitVec 3) (a b : BitVec 8) (mode : BitVec 2),
    (Ready (.icmp c p a b) s →
      PredDone s (exec (.icmp c p a b) s) p.toNat fun i =>
        let x := (s.src a i).toInt
        let y := (s.src b i).toInt
        [x == y, x != y, decide (x < y), decide (x ≤ y), decide (y < x), decide (y ≤ x)].getD c.toNat false)
    ∧ (Ready (.ucmp c p a b) s →
        PredDone s (exec (.ucmp c p a b) s) p.toNat fun i =>
          let x := (s.src a i).toNat
          let y := (s.src b i).toNat
          [x == y, x != y, decide (x < y), decide (x ≤ y), decide (y < x), decide (y ≤ x)].getD c.toNat false)
    ∧ (Ready (.fcmp c p a b) s →
        PredDone s (exec (.fcmp c p a b) s) p.toNat fun i => fcmpCond c.toNat (s.src a i) (s.src b i))
    ∧ (Ready (.plop f p q r) s →
        PredDone s (exec (.plop f p q r) s) p.toNat fun i =>
          f.getLsbD ((if (s.seen.pred q.toNat).getLsbD i then 2 else 0) + (if (s.seen.pred r.toNat).getLsbD i then 1 else 0)))
    ∧ (Ready (.sel w d a b) s →
        LaneDone s (exec (.sel w d a b) s) .va w d.toNat 4 fun i =>
          if (s.seen.pred 0).getLsbD i then (s.src a i).toNat else (s.src b i).toNat)
    ∧ (Ready (.vote w d p mode) s → mode = 0 →
        GDone64 s (exec (.vote w d p mode) s) w d.toNat (s.str.exm &&& ~~~ s.seen.hlp &&& s.seen.pred p.toNat))
    ∧ (Ready (.vote w d p mode) s → mode = 1 →
        GDone s (exec (.vote w d p mode) s) w d.toNat
          (if s.str.exm &&& ~~~ s.seen.hlp &&& s.seen.pred p.toNat ≠ 0 then 1 else 0))
    ∧ (Ready (.vote w d p mode) s → mode = 2 →
        GDone s (exec (.vote w d p mode) s) w d.toNat
          (if s.str.exm &&& ~~~ s.seen.hlp &&& s.seen.pred p.toNat = s.str.exm &&& ~~~ s.seen.hlp then 1 else 0))
    ∧ (Ready (.vote w d p mode) s → mode = 3 →
        GDone s (exec (.vote w d p mode) s) w d.toNat
          (BitVec.ofNat 32 (popcount (s.str.exm &&& ~~~ s.seen.hlp &&& s.seen.pred p.toNat))))
    ∧ (Ready (.mset p mode) s →
        Leaves s (exec (.mset p mode) s) s.cur.moved
          (s.me.setStrand s.cur.strand { s.me.strand s.cur.strand with
            exm := if mode = 0 then s.str.members &&& s.seen.pred p.toNat else if mode = 1 then s.str.exm &&& s.seen.pred p.toNat
              else s.str.members }))
    ∧ (Ready (.pmovGet d) s →
        ∃ g, Leaves s (exec (.pmovGet d) s) s.cur.moved g ∧ g = { s.me with lanes := g.lanes }
          ∧ (∀ i, i < 64 → s.str.exm.getLsbD i = true → g.readLane i (s.seen.vAt d.toNat) 4 =
              ((List.range 8).map fun k => if (s.seen.pred k).getLsbD i then 2 ^ k else 0).sum)
          ∧ ∀ i b, i < 64 → b < 1024 → (s.str.exm.getLsbD i = false ∨ b < s.seen.vAt d.toNat ∨ s.seen.vAt d.toNat + 4 ≤ b) →
              g.byteAt i b = s.me.byteAt i b)
    ∧ (Ready (.pmovPut a) s →
        ∃ g, Leaves s (exec (.pmovPut a) s) s.cur.moved g ∧ g = { s.me with p := g.p }
          ∧ ∀ n i, n < 8 → i < 64 →
              (g.pred n).getLsbD i = if s.str.exm.getLsbD i then (s.src a i).getLsbD n else (s.me.pred n).getLsbD i)

/-- The conditions of `FCMP` (03 R54, Table 3-5): where a source is a NaN conditions 0 to 6 fail and 7 to 13 hold; zeros of either sign are
equal; and of two numbers exactly one of less, equal and greater holds, as their exact values do, from which every condition follows. Of two
numbers `FMIN` and `FMAX` give the one of the lesser and of the greater value, −0 below +0 (04 R68). -/
def Obligations.FloatCompare : Prop :=
  (∀ a b : Word, (f32.val a.toNat).isNan = true ∨ (f32.val b.toNat).isNan = true →
    (∀ c, c ≤ 6 → fcmpCond c a b = false) ∧ ∀ c, 7 ≤ c → c ≤ 13 → fcmpCond c a b = true)
  ∧ (∀ a b : Word, a.toNat % 2 ^ 31 = 0 → b.toNat % 2 ^ 31 = 0 → fcmpCond 0 a b = true ∧ fcmpCond 2 a b = false)
  ∧ (∀ a b : Word, (f32.val a.toNat).isNan = false → (f32.val b.toNat).isNan = false →
      fcmpCond 7 a b = false ∧ (fcmpCond 0 a b).toNat + (fcmpCond 2 a b).toNat + (fcmpCond 4 a b).toNat = 1
        ∧ fcmpCond 4 a b = fcmpCond 2 b a)
  ∧ (∀ a b : Word, (f32.val a.toNat).isNan = false → (f32.val b.toNat).isNan = false →
      let x := (f32.val a.toNat).rat
      let y := (f32.val b.toNat).rat
      ((List.range 14).map fun c => fcmpCond c a b)
        = [decide (x = y), decide (x ≠ y), decide (x < y), decide (x ≤ y), decide (y < x), decide (y ≤ x), true, false,
          decide (x ≠ y), decide (x < y), decide (x ≤ y), decide (y < x), decide (y ≤ x), decide (x = y)])
  ∧ ∀ (f : Fmt) (a b : Nat), f.Wide → (f.val a).isNan = false → (f.val b).isNan = false →
      let x := f.val a
      let y := f.val b
      let below := x.rat < y.rat ∨ x.rat = y.rat ∧ (x.sgn = true ∨ y.sgn = false)
      (below → f.val (f.min a b) = x ∧ f.val (f.max a b) = y) ∧ (¬ below → f.val (f.min a b) = y ∧ f.val (f.max a b) = x)

/-! ### Group-wide words of chapter 07 -/

/-- G-format words (07 R153, R154): whenever one issues, G(d), or the pair, takes the result unless W is set, and L2 holds it. -/
def Obligations.GroupWords : Prop :=
  ∀ (s : State) (w : Bool) (d : BitVec 7) (c : BitVec 4) (p : BitVec 3) (a b : BitVec 8) (imm : BitVec 16),
    let x := s.gsrc a
    let y := s.gsrc b
    (Ready (.gmov w d a) s → GDone s (exec (.gmov w d a) s) w d.toNat x)
    ∧ (Ready (.gmovi w d imm) s → GDone s (exec (.gmovi w d imm) s) w d.toNat (imm.signExtend 32))
    ∧ (Ready (.gmovhi w d imm) s → GDone s (exec (.gmovhi w d imm) s) w d.toNat (imm ++ 0#16))
    ∧ (Ready (.gadd w d a b) s → GDone s (exec (.gadd w d a b) s) w d.toNat (x + y))
    ∧ (Ready (.gaddi w d a b) s → GDone s (exec (.gaddi w d a b) s) w d.toNat (x + b.signExtend 32))
    ∧ (Ready (.gsub w d a b) s → GDone s (exec (.gsub w d a b) s) w d.toNat (x - y))
    ∧ (Ready (.gmul w d a b) s → GDone s (exec (.gmul w d a b) s) w d.toNat (x * y))
    ∧ (Ready (.gand w d a b) s → GDone s (exec (.gand w d a b) s) w d.toNat (x &&& y))
    ∧ (Ready (.gor w d a b) s → GDone s (exec (.gor w d a b) s) w d.toNat (x ||| y))
    ∧ (Ready (.gxor w d a b) s → GDone s (exec (.gxor w d a b) s) w d.toNat (x ^^^ y))
    ∧ (Ready (.gshift w d a b) s → GDone s (exec (.gshift w d a b) s) w d.toNat
        (if y.toNat / 256 % 4 = 0 then BitVec.ofNat 32 (x.toNat * 2 ^ (y.toNat % 64))
         else if y.toNat / 256 % 4 = 1 then BitVec.ofNat 32 (x.toNat / 2 ^ (y.toNat % 64))
         else if y.toNat / 256 % 4 = 2 then BitVec.ofInt 32 (x.toInt / 2 ^ (y.toNat % 64))
         else x.rotateRight (y.toNat % 32)))
    ∧ (Ready (.gcmp c p a b) s → Leaves s (exec (.gcmp c p a b) s) s.cur.moved
        (s.me.setGPred p.toNat ([x == y, x != y, decide (x.toInt < y.toInt), decide (x.toInt ≤ y.toInt), decide (y.toInt < x.toInt),
          decide (y.toInt ≤ x.toInt), decide (x.toNat < y.toNat), decide (x.toNat ≤ y.toNat), decide (y.toNat < x.toNat),
          decide (y.toNat ≤ x.toNat)].getD c.toNat false)))
    ∧ (Ready (.gminmax w d a b) s → GDone64 s (exec (.gminmax w d a b) s) w d.toNat
        ((if x.toInt ≤ y.toInt then y else x) ++ (if x.toInt ≤ y.toInt then x else y)))
    ∧ (Ready (.gadd64 w d a b) s → GDone64 s (exec (.gadd64 w d a b) s) w d.toNat (s.gsrc64 a + s.gsrc64 b))

/-- `GBCAST` and `VBCAST` (07 R155): the one reads Va in lane b mod w whatever EXM holds; the other writes a into Vd in every lane of EXM, no
other lane, and L2 holds a for the whole group. -/
def Obligations.BroadcastWords : Prop :=
  ∀ (s : State) (w : Bool) (d : BitVec 7) (a b : BitVec 8),
    (Ready (.gbcast w d a b) s →
      GDone s (exec (.gbcast w d a b) s) w d.toNat (s.seen.vreg ((s.gsrc b).toNat % s.seen.place.width) a.toNat))
    ∧ (Ready (.vbcast w d a) s →
        ∃ g, GroupDone s (exec (.vbcast w d a) s) 32 ((s.gsrc a).zeroExtend 64) g ∧ g = { s.me with lanes := g.lanes }
          ∧ (w = false → ∀ i, i < 64 → s.str.exm.getLsbD i = true → g.readLane i (s.seen.vAt d.toNat) 4 = (s.gsrc a).toNat)
          ∧ ∀ i b, i < 64 → b < 1024 → (w = true ∨ s.str.exm.getLsbD i = false ∨ b < s.seen.vAt d.toNat ∨ s.seen.vAt d.toNat + 4 ≤ b) →
              g.byteAt i b = s.me.byteAt i b)

/-- `VIEW`, `SFMT`, `GANG` and `REGION` (07 R141 to R144, 05 R93): a view register takes bits [9:0] of its source, aligned to 4, 32 or 128
bytes, and the region set is emptied; a format window of the team takes the pair without its reserved bits; the gang register takes a
pair that names 0 or 2 to 6 members with the group's own number among them, is emptied by another, and stands while an `MMA` is
counted; only failed rendezvous of the gang that it leaves may change with it; the region set becomes the entry that the code's segment lists, and an entry that it does not list is ILLEGAL. -/
def Obligations.ViewWords : Prop :=
  ∀ (s : State) (v d : BitVec 7) (k : BitVec 3) (a : BitVec 8) (idx : BitVec 5),
    let n := (s.gsrc a).toNat % 1024
    let x := s.gsrc64 a
    let cnt := x.toNat / 2 ^ 61
    let me := x.toNat / 2 ^ 58 % 8
    let free := s.seen.counter pMMA = 0
    let fits := cnt ≠ 1 ∧ cnt ≠ 7 ∧ (cnt ≠ 0 → me ≠ 0 ∧ me ≤ cnt)
    let gangDone := fun (o : Outcome) (c : Dword) (g : Group) => ∃ t r, GroupDone s (.next t) 32 c g ∧ o = .next { t with rdvs := r }
      ∧ ((∀ e ∈ s.rdvs, e.2.failed = 0) → r = s.rdvs)
    (Ready (.view v a) s → v = 0 →
      Leaves s (exec (.view v a) s) s.cur.moved { s.me with region := 0, vwv := BitVec.ofNat 32 (n - n % 4) })
    ∧ (Ready (.view v a) s → v = 1 →
        Leaves s (exec (.view v a) s) s.cur.moved { s.me with region := 0, vwt := BitVec.ofNat 32 (n - n % 32) })
    ∧ (Ready (.view v a) s → v = 2 →
        Leaves s (exec (.view v a) s) s.cur.moved { s.me with region := 0, vwa := BitVec.ofNat 32 (n - n % 128) })
    ∧ (Ready (.sfmt k a) s → ∃ u, Moves s u s.cur.moved s.me s.myLatches
        ∧ exec (.sfmt k a) s = .next (u.modTeam s.me.place.team fun t => { t with windows := t.windows.set 0 k.toNat (x &&& ~~~ 0x1FFFF#64) }))
    ∧ (Ready (.gang d a) s → free → fits →
        gangDone (exec (.gang d a) s) 0 ({ s.me with gang := x &&& 0xFC0000003FFFFFFF#64 }.setG d.toNat 0))
    ∧ (Ready (.gang d a) s → free → ¬ fits → gangDone (exec (.gang d a) s) 1 ({ s.me with gang := 0 }.setG d.toNat 1))
    ∧ (Ready (.gang d a) s → ¬ free → GroupDone s (exec (.gang d a) s) 32 2 (s.me.setG d.toNat 2))
    ∧ (Ready (.region idx) s → ∀ m, s.regionSet idx.toNat = some m → Leaves s (exec (.region idx) s) s.cur.moved { s.me with region := m })
    ∧ (Ready (.region idx) s → s.regionSet idx.toNat = none → exec (.region idx) s = .next (s.trapWord .illegal))

/-! ### Control flow of chapter 08 -/

/-- `NOP` and the branches on a predicate (03 R42, R46, 08 R159): the lanes that count are those of EXM that are no helper lanes; a target
outside the slot is SEGMENT whether the branch is taken or not (log 42, DEDUCED). -/
def Obligations.BranchWords : Prop :=
  ∀ (s : State) (p : BitVec 3) (disp : BitVec 16),
    exec .nop s = .next s
    ∧ (Ready (.bra disp) s → Branches s (exec (.bra disp) s) s.me True disp)
    ∧ (Ready (.bany p disp) s → Branches s (exec (.bany p disp) s) s.me (s.seen.pred p.toNat &&& s.act ≠ 0) disp)
    ∧ (Ready (.ball p disp) s → Branches s (exec (.ball p disp) s) s.me (s.seen.pred p.toNat &&& s.act = s.act) disp)
    ∧ (Ready (.bnone p disp) s → Branches s (exec (.bnone p disp) s) s.me (s.seen.pred p.toNat &&& s.act = 0) disp)

/-- `LOOP`, falling through and entering a block (03 R45, 08 R162, R167): `LOOP` counts G down and branches until it reaches 0, and leaves G where the
branch traps. Falling through, the strand comes to the next packet, or to packet 0 of the next block, and past
block 31 SEGMENT is raised at the packet it has left; a block that is entered pops the reconvergence entries that name it at this call
depth: a Rejoin entry gives its lanes back to EXM, a Deferred entry hands EXM to its side and goes there. That a `LOOP` which is not taken
raises SEGMENT for a target outside the slot is log 42 (DEDUCED). -/
def Obligations.LoopAndFallThrough : Prop :=
  (∀ (s : State) (g : BitVec 7) (disp : BitVec 16), Ready (.loop g disp) s →
    Branches s (exec (.loop g disp) s) (s.me.setG g.toNat (s.seen.greg g.toNat - 1)) (s.seen.greg g.toNat ≠ 1) disp)
  ∧ (∀ (s : State) (st : Strand), s.after (s.me.strand s.cur.strand) = some st →
    Moves s s.fallMe s.cur.moved (s.me.setStrand s.cur.strand st) s.myLatches)
  ∧ (∀ s : State, s.after (s.me.strand s.cur.strand) = none →
      s.fallMe = s.takeTrap s.cur.group s.cur.strand { kind := .segment, pc := (s.me.strand s.cur.strand).pc })
  ∧ (∀ (s : State) (pc : Word) (skip : Option Nat),
      let st := { s.me.strand s.cur.strand with pc := pc, block := [] }
      Moves s (s.enterAt s.cur.group s.cur.strand pc skip) s.cur.moved
        (s.me.setStrand s.cur.strand (Strand.enter (s.limitsOf s.cur.group) skip st.rstack.length st)) s.myLatches)
  ∧ (∀ (n : Nat) (st : Strand) (skip : Option Nat), st.rstack = [] → Strand.enter [] skip n st = st)
  ∧ (∀ (st : Strand) (e : BitVec 128) (skip : Option Nat), st.rstack = [e] → rsDeferred e = false →
      Strand.enter [] skip 1 st =
        if rsSlot e = pcSlot st.pc ∧ rsBlk e = pcBlk st.pc ∧ rsCD e = st.calls.length then
          { st with rstack := [], exm := st.exm ||| (rsLanes e &&& st.members) } else st)
  ∧ (∀ (st : Strand) (e : BitVec 128) (skip : Option Nat), st.rstack = [e] → rsDeferred e = true →
      Strand.enter [] skip 1 st =
        if rsSlot e = pcSlot st.pc ∧ rsBlk e = pcBlk st.pc ∧ rsCD e = st.calls.length then
          { st with rstack := [], exm := rsLanes e, pc := pcOf (rsSlot e) (rsDBlk e) (rsDPk e) } else st)

/-- `BDIV` (08 R160, 03 R46, R57): a reconvergence block or a target outside the slot is SEGMENT; with no lane on the taken side it falls
through, with none on the other it branches; with both inhabited and a strand free, the lowest free strand takes the taken lanes to the target and the old
strand goes on with the others, each with the Rejoin entry; with four strands the old strand goes to the target and keeps the other side
in a Deferred entry; without the room that takes on the stack it is DEPTH, and a back-edge beyond its limit is LIMIT. That both strands hold the
raised trip count is log 21, that a target outside the slot is SEGMENT whatever the lanes do is log 42 (both DEDUCED). -/
def Obligations.DivideWord : Prop :=
  ∀ (s : State) (p : BitVec 3) (jb : BitVec 5) (disp : BitVec 16), Ready (.bdiv p jb disp) s →
    let o := exec (.bdiv p jb disp) s
    let pc := s.str.pc
    let k := s.cur.strand
    let t := s.str.exm &&& s.seen.pred p.toNat
    let n := s.str.exm &&& ~~~ s.seen.pred p.toNat
    let b : Int := (pcBlk pc : Int) + disp.toInt
    let j := s.limOf s.cur.group s.str
    let back := decide (disp.toInt ≤ 0)
    let e := rejoinEntry (pcSlot pc) (pcBlk pc + jb.toNat) s.str.calls.length s.str.exm
    let count := fun (st : Strand) => if back then st.tripped j else st
    let skip := if back then some j else none
    let need := if s.seen.liveStrands.length < 4 then 1 else 2
    (32 ≤ pcBlk pc + jb.toNat → o = .next (s.trapWord .segment))
    ∧ (pcBlk pc + jb.toNat < 32 → ¬ (0 ≤ b ∧ b < 32) → o = .next (s.trapWord .segment))
    ∧ (pcBlk pc + jb.toNat < 32 → t = 0 → 0 ≤ b ∧ b < 32 → Falls s o s.me)
    ∧ (pcBlk pc + jb.toNat < 32 → t ≠ 0 → n = 0 → Branches s o s.me True disp)
    ∧ (pcBlk pc + jb.toNat < 32 → t ≠ 0 → n ≠ 0 → 0 ≤ b ∧ b < 32 → back = true → s.backEdgeOk s.cur.group s.str = false →
        o = .next (s.trapWord .limit))
    ∧ (pcBlk pc + jb.toNat < 32 → t ≠ 0 → n ≠ 0 → 0 ≤ b ∧ b < 32 → (back = true → s.backEdgeOk s.cur.group s.str = true) →
        8 < s.str.rstack.length + need → o = .next (s.trapWord .depth))
    ∧ (pcBlk pc + jb.toNat < 32 → t ≠ 0 → n ≠ 0 → 0 ≤ b ∧ b < 32 → (back = true → s.backEdgeOk s.cur.group s.str = true) →
        s.str.rstack.length + need ≤ 8 → s.me.liveStrands.length < 4 → (s.me.strand k).live = true → k < 4 →
          ∃ u g f, Moves s u s.cur.moved g s.myLatches ∧ o = .next ((u.enterAt s.cur.group f (pcOf (pcSlot pc) b.toNat 0) skip).fallMe).moved
            ∧ f < 4 ∧ f ≠ k ∧ (s.me.strand f).live = false ∧ (∀ i, i < f → (s.me.strand i).live = true)
            ∧ g = { s.me with strands := g.strands }
            ∧ g.strand f = { count (s.me.strand k) with rstack := e :: s.str.rstack, members := t, exm := t }
            ∧ g.strand k = { count (s.me.strand k) with
                rstack := e :: s.str.rstack, members := (s.me.strand k).members &&& ~~~ t, exm := n }
            ∧ ∀ i, i ≠ f → i ≠ k → g.strand i = s.me.strand i)
    ∧ (pcBlk pc + jb.toNat < 32 → t ≠ 0 → n ≠ 0 → 0 ≤ b ∧ b < 32 → (back = true → s.backEdgeOk s.cur.group s.str = true) →
        s.str.rstack.length + need ≤ 8 → s.me.liveStrands.length = 4 →
          ∃ g, Jumps s o g (pcSlot pc) b.toNat 0 skip ∧ g = { s.me with strands := g.strands }
            ∧ g.strand k = { count (s.me.strand k) with
                rstack := deferredEntry (pcSlot pc) (pcBlk pc + jb.toNat) s.str.calls.length n (s.nextAt s.cur.group s.str).1
                  (s.nextAt s.cur.group s.str).2 :: e :: (s.me.strand k).rstack, exm := t }
            ∧ ∀ i, i ≠ k → g.strand i = s.me.strand i)

/-- `JOIN`, `EXIT` and `YIELD` (08 R164, R165, R174): a `JOIN` with nobody missing, or with bound 0, goes on, and holds LS and EN words back
until what the strand has issued has completed; otherwise the strand parks until its deadline; an empty strand of several dissolves. `EXIT`
parks the strand for good; then `JOIN`s that nobody is missing from go on, and a group with every strand at `EXIT` ends. `YIELD` lets the
ready groups of its quarter go first. -/
def Obligations.ParkWords : Prop :=
  ∀ (s : State) (bound : BitVec 16),
    let k := s.cur.strand
    (Ready (.join bound) s → s.str.exm = 0 → 1 < s.seen.liveStrands.length →
      ∃ u, Moves s u s.cur.moved s.me s.myLatches ∧ exec (.join bound) s = .next (u.dissolve s.cur.group k).moved)
    ∧ (Ready (.join bound) s → (s.str.exm ≠ 0 ∨ s.seen.liveStrands.length ≤ 1) → (s.seen.missing k = [] ∨ bound = 0) →
        Falls s (exec (.join bound) s) (s.me.withStrand k fun st => { st with park := .running, drain := s.me.openOps k }))
    ∧ (Ready (.join bound) s → (s.str.exm ≠ 0 ∨ s.seen.liveStrands.length ≤ 1) → s.seen.missing k ≠ [] → bound ≠ 0 →
        Leaves s (exec (.join bound) s) true
          (s.me.withStrand k fun st => { st with park := .join (s.clk s.myCluster + bound.toNat) }))
    ∧ (Ready .exit s → ∃ u, Moves s u s.cur.moved (s.me.withStrand k fun st => { st with park := .exit }) s.myLatches
        ∧ exec .exit s = .next ((u.settleJoins s.cur.group).settleEnd s.cur.group).moved)
    ∧ (∀ gk, (s.group gk).live = true → (s.group gk).mergePair = none →
        (∀ i ∈ (s.group gk).liveStrands, ((s.group gk).strand i).park = .exit) → ((s.settleEnd gk).group gk).ended = true)
    ∧ (Ready .yield s → ∃ u, Moves s u s.cur.moved s.me s.myLatches
        ∧ exec .yield s = .next ((u.modMe fun g => { g with yielded :=
            ((List.range 16).map (s.cur.group / 16 * 16 + ·)).filter fun x => x != s.cur.group && (u.nextStrand x).isSome }).fallMe).moved)

/-- `CALL`, `RET` and `JMPF` (08 R168 to R172, 03 R46, R48): a call pushes the packet behind it with the current SEG and enters the target
block; beyond `.depth` it is DEPTH, outside the slot SEGMENT. A return pops; with nothing to pop, or with a reconvergence entry of the
deeper call open, it is DEPTH. `JMPF` takes its SEG and goes to its block in any slot. A return, and a `JMPF` that does not go forward,
are back-edges. That a return to block 32 is SEGMENT and a `CALL` no back-edge is log 20, that a `JMPF` checks no slot at issue log 42 (both
DEDUCED). -/
def Obligations.CallWords : Prop :=
  ∀ (s : State) (disp : BitVec 16) (slot : BitVec 7) (seg : BitVec 8) (blk : BitVec 5),
    let pc := s.str.pc
    let k := s.cur.strand
    let b : Int := (pcBlk pc : Int) + disp.toInt
    let j := s.limOf s.cur.group s.str
    let next := s.nextAt s.cur.group s.str
    let back := decide (slot.toNat * 32 + blk.toNat ≤ pcSlot pc * 32 + pcBlk pc)
    (Ready (.call disp) s → ¬ (0 ≤ b ∧ b < 32) → exec (.call disp) s = .next (s.trapWord .segment))
    ∧ (Ready (.call disp) s → 0 ≤ b ∧ b < 32 → s.seen.place.depth ≤ s.str.calls.length → exec (.call disp) s = .next (s.trapWord .depth))
    ∧ (Ready (.call disp) s → 0 ≤ b ∧ b < 32 → s.str.calls.length < s.seen.place.depth →
        Jumps s (exec (.call disp) s)
          (s.me.withStrand k fun st => { st with calls := { slot := pcSlot pc, blk := next.1, pk := next.2, seg := st.seg } :: st.calls })
          (pcSlot pc) b.toNat 0 none)
    ∧ (Ready .ret s → s.str.calls = [] → exec .ret s = .next (s.trapWord .depth))
    ∧ (∀ e t, Ready .ret s → s.str.calls = e :: t → 32 ≤ e.blk → exec .ret s = .next (s.trapWord .segment))
    ∧ (∀ e t, Ready .ret s → s.str.calls = e :: t → e.blk < 32 → s.backEdgeOk s.cur.group s.str = false →
        exec .ret s = .next (s.trapWord .limit))
    ∧ (∀ e t r rs, Ready .ret s → s.str.calls = e :: t → e.blk < 32 → s.backEdgeOk s.cur.group s.str = true → s.str.rstack = r :: rs →
        t.length < rsCD r → exec .ret s = .next (s.trapWord .depth))
    ∧ (∀ e t, Ready .ret s → s.str.calls = e :: t → e.blk < 32 → s.backEdgeOk s.cur.group s.str = true →
        (∀ r ∈ s.str.rstack.head?, rsCD r ≤ t.length) →
        Jumps s (exec .ret s) ((s.me.withStrand k (·.tripped j)).withStrand k fun st => { st with calls := t, seg := e.seg })
          e.slot e.blk e.pk (some j))
    ∧ (Ready (.jmpf slot seg blk) s → back = true → s.backEdgeOk s.cur.group s.str = false →
        exec (.jmpf slot seg blk) s = .next (s.trapWord .limit))
    ∧ (Ready (.jmpf slot seg blk) s → back = true → s.backEdgeOk s.cur.group s.str = true →
        Jumps s (exec (.jmpf slot seg blk) s) ((s.me.withStrand k (·.tripped j)).withStrand k fun st => { st with seg := seg.toNat })
          slot.toNat blk.toNat 0 (some j))
    ∧ (Ready (.jmpf slot seg blk) s → back = false →
        Jumps s (exec (.jmpf slot seg blk) s) (s.me.withStrand k fun st => { st with seg := seg.toNat }) slot.toNat blk.toNat 0 none)

/-! ### Width, system words and privileged registers -/

/-- `SPLIT` and `FUSE` (05 R98 to R100, 07 R139, R140, 23 R396). A `SPLIT` whose check fails gives its status, the first of Table 5-6 that
holds, and the group falls through; else part k of the group, lanes k·w up of every lane register, predicate and mask, stands in slot k of
those it takes, its own and the lowest free ones of its quarter, at the next packet: the other registers, the call stack, the trip counts and
the release set copied, no gang, no region set, no transaction, every latch lost, G(d) = 0. A `FUSE` whose check fails gives the first status
of Table 5-7 that holds; else it parks for 1,024 cycles or, where its partner is parked at the same `FUSE`, the lower slot holds the lower
partner's lanes below the upper's with the lower's other registers and both release sets, of which 64 lines stay, the newest, and the upper
slot is free. At the end of the bound the partner gets WAITING. In a pair both wait until the partner has come to the same packet (log 82,
DEDUCED), and stores that await a comparison are PENDING (log 24). -/
def Obligations.WidthWords : Prop :=
  (∀ (s : State) (d : BitVec 7) (f : BitVec 8), Ready (.split d f) s →
    let o := exec (.split d f) s
    let k := s.cur.strand
    let slot := fun j => if j = 0 then s.cur.group else (s.freeSlots s.cur.group).getD (j - 1) 0
    (s.pairEven s.cur.group = false → o = .next s.missed)
    ∧ (s.pairEven s.cur.group = true → s.splitStatus f.toNat ≠ 0 →
        Falls s o (s.me.setG d.toNat (BitVec.ofNat 32 (s.splitStatus f.toNat))))
    ∧ (s.pairEven s.cur.group = true → s.splitStatus f.toNat = 0 → s.me.live = true → k < 4 → (s.after (s.me.strand k)).isSome = true →
        ∃ t, o = .next t
          ∧ t = { s with cur := { s.cur with moved := true }, groups := t.groups, clusters := t.clusters, nextUid := s.nextUid + (f.toNat - 1) }
          ∧ (∀ c, c ≠ s.myCluster → t.cluster c = s.cluster c)
          ∧ t.cluster s.myCluster =
              { s.cluster s.myCluster with
                meters := (t.cluster s.myCluster).meters
                power := { (s.cluster s.myCluster).power with window := (t.cluster s.myCluster).power.window } }
          ∧ (∀ i, (∀ j, j < f.toNat → i ≠ slot j) → t.group i = s.group i)
          ∧ ∀ j, j < f.toNat →
              let p := (s.me.setG d.toNat 0).part (s.me.place.width / f.toNat) j
              let g := t.group (slot j)
              g = { p with uid := if j = 0 then s.me.uid else s.nextUid + (j - 1), strands := g.strands }
                ∧ s.after (p.strand k) = some (g.strand k) ∧ ∀ i, i ≠ k → g.strand i = p.strand i))
  ∧ (∀ (s : State) (f : Nat),
      let g := s.seen
      let l := s.launch g.place.launch
      s.splitStatus f =
        if g.place.width / f < 4 ∨ g.place.width / f < l.image.wmin then 1
        else if ((List.range 16).filter fun i => (s.group (s.cur.group / 16 * 16 + i)).live = false).length < f - 1 then 2
        else if 1 < g.liveStrands.length ∨ ∃ k ∈ g.liveStrands, (g.strand k).rstack ≠ [] then 3
        else if g.paths ≠ [] ∨ g.tx.isOpen = true ∨ l.paired = true ∧ g.sig ≠ BitVec.allOnes 64 then 4
        else 0)
  ∧ (∀ (s : State) (d : BitVec 7), Ready (.fuse d) s →
      let o := exec (.fuse d) s
      (s.fuseEven = false → o = .next s.missed)
      ∧ (s.fuseEven = true → s.fuseStatus ≠ 0 → ∃ u, Moves s u s.cur.moved s.me s.myLatches ∧
        o = .next ((u.endFuse s.cur.group s.fuseStatus).modMe fun g => g.setG d.toNat (BitVec.ofNat 32 s.fuseStatus)).fallMe.moved)
      ∧ (∀ k e x, s.fuseEven = true → s.fuseStatus = 0 → s.buddy s.cur.group = some k → k ≠ s.cur.group → (s.group k).wait = .fuse e x →
          let lo := if (s.group k).place.off < s.me.place.off then k else s.cur.group
          let hi := if lo = k then s.cur.group else k
          let g := (fuseGroups (s.group lo) (s.group hi)).setG d.toNat 0
          let n := g.liveStrands.headD 0
          ∀ a, s.afterIn lo (g.strand n) = some a →
            ∃ t, o = .next t ∧ t.cur = { s.cur with moved := true } ∧ t.group hi = {}
              ∧ t.group lo = { g with strands := (t.group lo).strands, release := (t.group lo).release, sent := (t.group lo).sent }
              ∧ (t.group lo).strand n = a ∧ (∀ i, i ≠ n → (t.group lo).strand i = {})
              ∧ (t.group lo).release.length ≤ 64 ∧ (g.release.length ≤ 64 → (t.group lo).release = g.release)
              ∧ ((s.group lo).release.Nodup → (s.group hi).release.Nodup → (t.group lo).release = g.release.drop (g.release.length - 64))
              ∧ ∀ i, i ≠ lo → i ≠ hi → t.group i = { s.group i with release := (t.group i).release, sent := (t.group i).sent })
      ∧ (∀ k, s.fuseEven = true → s.fuseStatus = 0 → s.buddy s.cur.group = some k → (∀ e x, (s.group k).wait ≠ .fuse e x) →
          Leaves s o true { s.me with wait := .fuse d.toNat (s.clk s.myCluster + 1024) }))
  ∧ (∀ s : State,
      let g := s.seen
      let l := s.launch g.place.launch
      s.fuseStatus =
        if l.image.wmax < 2 * g.place.width then 6
        else if 1 < g.liveStrands.length ∨ ∃ k ∈ g.liveStrands, (g.strand k).rstack ≠ [] then 3
        else if g.paths ≠ [] ∨ g.tx.isOpen = true ∨ l.paired = true ∧ g.sig ≠ BitVec.allOnes 64 then 4
        else match s.buddy s.cur.group with
          | none => 1
          | some k =>
            let p := s.group k
            if p.place.role ≠ g.place.role then 8
            else if (p.vwv, p.vwt, p.vwa) ≠ (g.vwv, g.vwt, g.vwa) then 5
            else if p.descheduled = true then 7
            else match p.wait with
              | .fuse _ _ =>
                let q := p.strand (p.liveStrands.headD 0)
                if pcSame q.pc s.str.pc = false ∨ q.calls ≠ s.str.calls then 2 else 0
              | _ => 0)
  ∧ (∀ (g : Group) (w k i b n j : Nat), i < w → w ≤ 64 → b + n ≤ 1024 → j < 8 →
      let p := g.part w k
      p.readLane i b n = g.readLane (k * w + i) b n
        ∧ (p.pred j).getLsbD i = (g.pred j).getLsbD (k * w + i) ∧ p.hlp.getLsbD i = g.hlp.getLsbD (k * w + i)
        ∧ (j < 4 → (p.strand j).members.getLsbD i = (g.strand j).members.getLsbD (k * w + i)
          ∧ (p.strand j).exm.getLsbD i = (g.strand j).exm.getLsbD (k * w + i)
          ∧ p.strand j = { g.strand j with members := (p.strand j).members, exm := (p.strand j).exm })
        ∧ p.place = { g.place with width := w, off := g.place.off + k * w }
        ∧ p = { g with
            place := p.place, hlp := p.hlp, lanes := p.lanes, p := p.p, strands := p.strands, gang := 0, region := 0, lost := 0xFF, tx := {}
            sig := 0xFFFFFFFFFFFFFFFF })
  ∧ (∀ (lo hi : Group) (i b n j : Nat), i < 2 * lo.place.width → lo.place.width ≤ 32 → b + n ≤ 1024 → j < 8 →
      let w := lo.place.width
      let g := fuseGroups lo hi
      let k := lo.liveStrands.headD 0
      let h := hi.strand (hi.liveStrands.headD 0)
      let both := fun (x y : LaneMask) => x.getLsbD i || (decide (w ≤ i) && y.getLsbD (i - w))
      g.readLane i b n = (if i < w then lo.readLane i b n else hi.readLane (i - w) b n)
        ∧ (g.pred j).getLsbD i = both (lo.pred j) (hi.pred j) ∧ g.hlp.getLsbD i = both lo.hlp hi.hlp
        ∧ (g.strand k).members.getLsbD i = both (lo.strand k).members h.members ∧ (g.strand k).exm.getLsbD i = both (lo.strand k).exm h.exm
        ∧ g.strand k = { lo.strand k with members := (g.strand k).members, exm := (g.strand k).exm }
        ∧ g.place = { lo.place with width := 2 * w }
        ∧ g = { lo with
            place := g.place, hlp := g.hlp, lanes := g.lanes, p := g.p, strands := g.strands, gang := 0, region := 0, lost := 0xFF
            sig := 0xFFFFFFFFFFFFFFFF, wait := .none, release := g.release, relAt := g.relAt, atomLines := g.atomLines, sent := g.sent }
        ∧ ∀ l, l ∈ g.release ↔ l ∈ lo.release ∨ l ∈ hi.release)
  ∧ (∀ (s : State) (gk : Nat),
      let k := (s.group gk).liveStrands.headD 0
      (∀ d x, (s.group gk).wait = .fuse d x → x ≤ s.clk (clusterOf gk) → exec (.fuseWaitTimeout gk) s
          = .next ((s.modGroup gk fun g => { g.setG d 7 with wait := .none }).fallThrough gk k))
      ∧ (∀ d x a, (s.group gk).wait = .fuse d x → x ≤ s.clk (clusterOf gk) → s.afterIn gk ((s.group gk).strand k) = some a →
          ∃ t, exec (.fuseWaitTimeout gk) s = .next t ∧ t = { s with groups := t.groups }
            ∧ t.group gk = ({ (s.group gk).setG d 7 with wait := .none } : Group).setStrand k a ∧ ∀ i, i ≠ gk → t.group i = s.group i)
      ∧ (∀ d x, (s.group gk).wait = .fuse d x → s.clk (clusterOf gk) < x → exec (.fuseWaitTimeout gk) s = .next s)
      ∧ ((s.group gk).wait = .fuseOver → exec (.fuseWaitTimeout gk) s
          = .next ((s.modGroup gk fun g => { g with wait := .none }).fallThrough gk k)))

/-- System words (08 R175, R177 to R180, 18 R364). `SETPL` casts the strand's vote and returns the level that the cluster will reach; the
clocks and meters are read, in a pair by the left group, which forwards the value that the right group takes; `CKPT` returns NOTPROT
for a launch that is not protected, else asks for a close and parks; `MRS` and `MSR` read and write the register that a G register
names. -/
def Obligations.SystemWords : Prop :=
  ∀ (s : State) (d : BitVec 7) (a : BitVec 8),
    let reads := fun (o : Outcome) (v : Nat) =>
      (s.partner s.cur.group = none → s.pairedMe = false → GDone64 s o false d.toNat (BitVec.ofNat 64 v))
      ∧ (s.partner s.cur.group = none → s.pairedMe = true → o = .next s.missed)
      ∧ (∀ p, s.partner s.cur.group = some p → s.seen.place.side = 0 → s.me.fwd.length < 256 →
          GroupDone s o 64 (BitVec.ofNat 64 v)
            (({ s.me with fwd := s.me.fwd ++ [{ vals := Tab.set 0 0 v [] }] } : Group).setGPair d.toNat (BitVec.ofNat 64 v)))
      ∧ (∀ p, s.partner s.cur.group = some p → s.seen.place.side = 0 → 256 ≤ s.me.fwd.length → o = .next s.missed)
      ∧ (∀ p, s.partner s.cur.group = some p → s.seen.place.side ≠ 0 → (s.group p).fwd = [] → o = .next s.missed)
      ∧ (∀ p e t, s.partner s.cur.group = some p → s.seen.place.side ≠ 0 → (s.group p).fwd = e :: t → e.op = 0 → e.wait = false → p ≠ s.cur.group →
          ∃ u, o = .next u ∧ u.me.gpair d.toNat = BitVec.ofNat 64 (e.vals.get 0 0) ∧ u.group p = { s.group p with fwd := t })
    (Ready (.setpl d a) s → ∃ u,
      Moves s u s.cur.moved (s.me.withStrand s.cur.strand fun st => { st with vote := (s.gsrc a).toNat % 4, voteAt := s.time.toNat }) s.myLatches
      ∧ exec (.setpl d a) s = .next ((u.retarget s.myCluster).gResult false d.toNat
          (BitVec.ofNat 32 ((u.retarget s.myCluster).wantedLevel s.myCluster))))
    ∧ (Ready (.rdclk d) s → reads (exec (.rdclk d) s) (s.clk s.myCluster))
    ∧ (Ready (.rdsync d) s → reads (exec (.rdsync d) s) s.time.toNat)
    ∧ (Ready (.rdnrg d) s → reads (exec (.rdnrg d) s)
        ((s.quote s.seen.place.qidx).nrg * 1000 + (s.cluster s.myCluster).meters.get 0 s.seen.place.qidx / 10000))
    ∧ (Ready (.rdprog d) s → GDone64 s (exec (.rdprog d) s) false d.toNat s.seen.progress)
    ∧ (Ready (.ckpt d) s → s.inTx = true →
        Falls s (exec (.ckpt d) s) { s.me with tx := { s.me.tx with doom := if s.me.tx.doom = 0 then 4 else s.me.tx.doom } })
    ∧ (Ready (.ckpt d) s → s.inTx = false → (s.launch s.seen.place.launch).prot = false → Falls s (exec (.ckpt d) s) (s.me.setG d.toNat 1))
    ∧ (Ready (.ckpt d) s → s.inTx = false → (s.launch s.seen.place.launch).prot = true →
        ∃ u, Moves s u true (({ s.me with wait := .ckpt d.toNat } : Group).withStrand s.cur.strand fun st => { st with park := .ckpt }) s.myLatches
          ∧ exec (.ckpt d) s = .next { u with rel := { u.rel with closeDue := true } })
    ∧ (Ready (.mrs d a) s → GDone s (exec (.mrs d a) s) false d.toNat (s.readPriv (dieOf s.myCluster) (s.gsrc a).toNat))
    ∧ (Ready (.msr d a) s → ∃ u, Moves s u s.cur.moved s.me s.myLatches
        ∧ exec (.msr d a) s = .next (u.writePriv (dieOf s.myCluster) (s.seen.greg d.toNat).toNat (s.gsrc a)))

/-- The privileged registers (08 Table 8-3, R180, 09 R186, R187, 17 Table 17-6, 24 Table 24-1): what a write leaves to be read. FEPC and FVEC
take it; FCAUSE, FEV and FILL take none; SRAMSPLIT takes 12 bits that fit on an empty cluster; DUTY clears EXH and OVER where a 1 is
written; INJ takes its fields; a number that names no register takes none and reads 0. The events write the same registers. -/
def Obligations.PrivilegedRegisters : Prop :=
  ∀ (s : State) (die cl n : Nat) (v : Word), cl < 512 →
    (s.writePriv die 1 v).readPriv die 1 = v
    ∧ (s.writePriv die 3 v).readPriv die 3 = v
    ∧ s.writePriv die 2 v = s ∧ s.readPriv die 2 = (s.die die).fcause
    ∧ s.writePriv die 4 v = s ∧ s.readPriv die 4 = (s.die die).fev
    ∧ (splitOk v = true → s.emptyCluster cl = true → (s.writePriv die (0x10000 + cl) v).readPriv die (0x10000 + cl) = v &&& 0xFFF)
    ∧ (splitOk v = false ∨ s.emptyCluster cl = false → s.writePriv die (0x10000 + cl) v = s)
    ∧ (∀ k, k < 32 → ((s.writePriv die (0x20000 + cl) v).readPriv die (0x20000 + cl)).getLsbD k
        = ((s.readPriv die (0x20000 + cl)).getLsbD k && !(v.getLsbD k && (decide (k = 28) || decide (k = 29)))))
    ∧ (n < 24 → s.writePriv die (0x30000 + n) v = s ∧ s.readPriv die (0x30000 + n) = BitVec.ofNat 32 (s.dust.get {} n).fill)
    ∧ (s.writePriv die (0x40000 + cl) v).readPriv die (0x40000 + cl) = v &&& 0x800FFFFC
    ∧ (n = 0 ∨ 4 < n ∧ n < 0x10000 ∨ 0x10200 ≤ n ∧ n < 0x20000 ∨ 0x20200 ≤ n ∧ n < 0x30000 ∨ 0x30018 ≤ n ∧ n < 0x40000 ∨ 0x40200 ≤ n →
        s.writePriv die n v = s ∧ s.readPriv die n = 0)
    ∧ exec (.sramsplitWrite cl v) s = .next (s.writePriv die (0x10000 + cl) v)
    ∧ exec (.dutyClear cl v) s = .next (s.writePriv die (0x20000 + cl) v)
    ∧ exec (.injWrite cl v) s = .next (s.writePriv die (0x40000 + cl) v)

/-! ### Exceptions -/

/-- The trap of a group of a program (03 R62, R63, 18 R352, R354): the group halts with its report at its restart point; its strands, lane
registers and predicates stand; it waits for nothing and holds no packet; the logs of its transaction are gone; its barrier objects are
due to be marked, once for each halt, barrier j at 96 + j cycles; its launch counts the halt, keeps the first report, and has its policy due at
200 cycles after the first halt that is still without one (24 R401). -/
def Obligations.GroupTraps : Prop :=
  ∀ (s : State) (gk k : Nat) (r : TrapReport), (s.group gk).place.priv = false →
    let g := s.group gk
    let t := s.takeTrap gk k r
    let root := s.rootLaunch g.place.launch
    (t.group gk).halt = some r ∧ (t.group gk).wait = .none ∧ (t.group gk).fence = none
      ∧ (t.group gk).strands = g.strands ∧ (t.group gk).lanes = g.lanes ∧ (t.group gk).p = g.p ∧ (t.group gk).gp = g.gp
      ∧ (t.group gk).place = g.place ∧ (t.group gk).heldVault = []
      ∧ (t.group gk).flight = none ∧ (t.group gk).tx = g.tx.discard
      ∧ (t.team g.place.team).marks =
          (s.imageOf g.place.launch).barriers.zipIdx.foldl (fun m b => dueIn (s.clk (clusterOf gk) + 96 + b.2, b.1) m) (s.team g.place.team).marks
      ∧ ((s.launch root).live = true → t.launch root
          = { s.launch root with
              halts := (s.launch root).halts + 1, first := ((s.launch root).first.orElse fun _ => some r), policyDue := true,
              policyAt := if (s.launch root).policyDue = true then (s.launch root).policyAt else s.clk (clusterOf gk) + 200,
              haltAt := if (s.launch root).policyDue = true then (s.launch root).haltAt
                else (s.time.toNat, r.kind == .poison || r.kind == .mismatch) })

/-- The trap of firmware, and the way back (08 R181): with FEV clear and FVEC at a block start, FEPC takes the restart point, FCAUSE the code,
FEV becomes 1 and the strand goes to FVEC, nothing else changed but that a transaction of the group loses its logs and its locks; with FEV set, or FVEC at no block start, the firmware cluster resets
and its readiness word counts the reset. `ERET` with FEV set sends the strand to FEPC and clears FEV; with FEV clear it is ILLEGAL.
`TRAP` takes the trap with its code as the immediate. -/
def Obligations.FirmwareTraps : Prop :=
  (∀ (s : State) (gk k : Nat) (r : TrapReport), (s.group gk).place.priv = true →
    let die := dieOf (clusterOf gk)
    let d := s.die die
    let t := s.takeTrap gk k r
    (d.fev = 0 → pcBlockStart d.fvec = true →
      t = { s with cur := { s.cur with trap := some r }, dies := t.dies, groups := t.groups, slices := t.slices }
        ∧ (∀ key, t.slice key = { s.slice key with locks := (t.slice key).locks })
        ∧ t.die die = { d with fepc := r.pc, fcause := BitVec.ofNat 32 r.kind.code, fev := 1 }
        ∧ (∀ x, x ≠ die → t.die x = s.die x) ∧ (∀ x, x ≠ gk → t.group x = s.group x)
        ∧ t.group gk = { (s.group gk).withStrand k fun st =>
            { st with pc := d.fvec, seg := hdrSEG (s.header gk (pcSlot d.fvec) (pcBlk d.fvec)), block := [] } with tx := (s.group gk).tx.discard })
    ∧ (d.fev ≠ 0 ∨ pcBlockStart d.fvec = false →
        (∀ x, clusterOf x = clusterKey die d.fwSite → t.group x = {})
          ∧ (t.die die).fev = 0 ∧ (t.die die).ready.getLsbD 7 = false
          ∧ ((t.die die).ready >>> 48).toNat = ((d.ready >>> 48).toNat + 1) % 65536))
  ∧ (∀ s : State, Ready .eret s → (s.die (dieOf s.myCluster)).fev = 0 → exec .eret s = .next (s.trapWord .illegal))
  ∧ (∀ s : State, Ready .eret s → (s.die (dieOf s.myCluster)).fev ≠ 0 →
      let pc := (s.die (dieOf s.myCluster)).fepc
      ∃ t, exec .eret s = .next t ∧ (t.die (dieOf s.myCluster)).fev = 0 ∧ (t.die (dieOf s.myCluster)).fepc = pc ∧ t.cur.moved = true
        ∧ t.me = s.me.withStrand s.cur.strand fun st => { st with pc := pc, seg := hdrSEG (s.header s.cur.group (pcSlot pc) (pcBlk pc)), block := [] })
  ∧ (∀ (s : State) (code : BitVec 16), Ready (.trap code) s → exec (.trap code) s = .next (s.trapWord .trapWord none code.toNat))

/-- Whatever word a group may not issue is ILLEGAL, and after that one that reads a latch it may not read is LATCH (03 R50, R51, R61, R62,
Table 3-9): neither has any effect of its own. A privileged word outside firmware is such a word. -/
def Obligations.IllegalWords : Prop :=
  (∀ (i : Instr) (s : State), i.isWord = true → legal i s = false → exec i s = .next (s.trapWord .illegal))
  ∧ (∀ (i : Instr) (s : State), i.isWord = true → legal i s = true → (usesOf i).latchesOpen s = false →
      exec i s = .next (s.trapWord .latch))
  ∧ ∀ (s : State) (d : BitVec 7) (a : BitVec 8), s.seen.place.priv = false →
      legal .eret s = false ∧ legal (.mrs d a) s = false ∧ legal (.msr d a) s = false

/-! ### Loads and stores of chapter 10 -/

/-- `LDG` and `LDV` (10 R202 to R207, R217, 18 R364): with every lane accepted and nothing earlier in their way they start one operation of
their path over the accepted lanes, which leaves every register, every memory and every cache as it is; in a transaction an `LDG` reads
through its logs. A lane that traps and an earlier operation on the same bytes decide otherwise. In a pair the left group starts the
operation and a place in its queue of 256, and the right one takes the value of the oldest place; a word of a group that has no partner at
its packet waits (log 82, DEDUCED). -/
def Obligations.LoadWords : Prop :=
  ∀ (s : State) (sz : BitVec 2) (d a : BitVec 7) (off : BitVec 8) (l : List (Acc × TlbEntry)),
    let size := accessSize sz
    let ea := s.ea a (off.toNat * size)
    let accs := l.map Prod.fst
    let scales : List Acc := if sz = 3 then l.map fun e => { lane := e.1.lane, ea := e.1.ea, pa := pageScale e.2 e.1.ea } else []
    let access := fun (v : Bool) => s.access { vault := v, rd := true } size (sz == 3) pageFormat (s.hardLanes ea) (s.softLanes ea)
    let bytes := fun (l : List Acc) (n : Nat) => l.map fun x => (x.pa, n)
    let ahead := fun (space : Nat) => s.mustWait space (bytes accs size) || s.mustWait 0 (bytes scales 2)
    let used := s.tlbUse s.myCluster s.seen.place.qidx (l.map fun e => e.1.ea)
    let started := fun (o : Outcome) (space path : Nat) (left : Bool) => ∃ t k, o = .next t ∧ Quiet s t ∧ SameL1 s t
      ∧ Starts s t k path (if left then { s.me with fwd := s.me.fwd ++ [{ op := k, vals := [] }] } else s.me)
      ∧ (t.op k).kind = .load space size accs scales
      ∧ (t.op k).dst = [(s.seen.vAt d.toNat, 4 * accessRegs sz)] ∧ (t.op k).mask = s.str.exm ∧ (t.op k).hlp = s.seen.hlp
    let result := fun (o : Outcome) (space path : Nat) =>
      (s.pairedMe = false → started o space path false)
      ∧ (s.partner s.cur.group = none → s.pairedMe = true → o = .next used.missed)
      ∧ ∀ p, s.partner s.cur.group = some p →
        (s.leftMe = true → 256 ≤ s.me.fwd.length → o = .next used.missed)
        ∧ (s.leftMe = true → s.me.fwd.length < 256 → started o space path true)
        ∧ (s.rightMe = true → (∀ e q, (s.group p).fwd = e :: q → e.op ≠ 0 ∨ e.wait = true) → o = .next used.missed)
        ∧ ∀ e q, s.rightMe = true → p ≠ s.cur.group → (s.group p).fwd = e :: q → e.op = 0 → e.wait = false →
          ∃ t k, o = .next t ∧ Quiet s t ∧ SameL1 s t ∧ t.group p = { s.group p with fwd := q }
            ∧ t.me = { s.me.raise path k s.cur.strand with tx := t.me.tx } ∧ (space ≠ 3 → t.me.tx = s.me.tx)
            ∧ (t.op k).kind = .load 2 size accs [] ∧ (t.op k).vals = e.vals ∧ (t.op k).poisoned = e.poison
            ∧ (t.op k).dst = [(s.seen.vAt d.toNat, 4 * accessRegs sz)] ∧ (t.op k).mask = s.str.exm
    (Ready (.ldg sz d a off) s → access false = .ok l → ahead 0 = false → s.txReads = false → result (exec (.ldg sz d a off) s) 0 0)
    ∧ (Ready (.ldg sz d a off) s → access false = .ok l → ahead 0 = false → s.txReads = true → result (exec (.ldg sz d a off) s) 3 0)
    ∧ (Ready (.ldg sz d a off) s → access false = .ok l → ahead 0 = true → exec (.ldg sz d a off) s = .next used.missed)
    ∧ (Ready (.ldv sz d a off) s → access true = .ok l → ahead 1 = false → result (exec (.ldv sz d a off) s) 1 2)
    ∧ (Ready (.ldv sz d a off) s → access true = .ok l → ahead 1 = true → exec (.ldv sz d a off) s = .next used.missed)
    ∧ (∀ k lane va, Ready (.ldg sz d a off) s → access false = .trap k lane va →
        exec (.ldg sz d a off) s = .next (s.trapWord k (some lane) 0 va))
    ∧ (∀ k lane va, Ready (.ldv sz d a off) s → access true = .trap k lane va →
        exec (.ldv sz d a off) s = .next (s.trapWord k (some lane) 0 va))
    ∧ (∀ va, Ready (.ldg sz d a off) s → access false = .miss va → exec (.ldg sz d a off) s = .next (s.askWalk va))
    ∧ (∀ va, Ready (.ldv sz d a off) s → access true = .miss va → exec (.ldv sz d a off) s = .next (s.askWalk va))

/-- `LDS` (10 R202 to R204, R206, 09 R189, 04 R78): the lanes of EXM that are no helper lanes trap at the lowest lane, FORMAT before ALIGN
before PERM; otherwise the word starts an operation that has taken every lane's bytes at the port, and nothing else has changed but the
meters. -/
def Obligations.ScratchLoad : Prop :=
  ∀ (s : State) (sz : BitVec 2) (d a : BitVec 7) (off : BitVec 8),
    let size := accessSize sz
    let ea := s.eaScr a (off.toNat * size)
    let lanes := s.hardLanes ea ++ (s.softLanes ea).filter fun e => scrTrap s.myTeam none size (sz == 3) e.2 == none
    (∀ k lane addr, Ready (.lds sz d a off) s → firstScrTrap s.myTeam none size (sz == 3) (s.hardLanes ea) = some (k, lane, addr) →
      exec (.lds sz d a off) s = .next (s.trapWord k (some lane) 0 addr))
    ∧ (Ready (.lds sz d a off) s → firstScrTrap s.myTeam none size (sz == 3) (s.hardLanes ea) = none →
        s.mustWait 2 (lanes.map fun e => (e.2, size)) = true → exec (.lds sz d a off) s = .next s.missed)
    ∧ (Ready (.lds sz d a off) s → firstScrTrap s.myTeam none size (sz == 3) (s.hardLanes ea) = none →
        s.mustWait 2 (lanes.map fun e => (e.2, size)) = false →
          ∃ t k, exec (.lds sz d a off) s = .next t ∧ Quiet s t ∧ SameL1 s t ∧ Starts s t k 1 s.me
            ∧ (t.op k).dst = [(s.seen.vAt d.toNat, 4 * accessRegs sz)] ∧ (t.op k).mask = s.str.exm
            ∧ ∀ i, s.act.getLsbD i = true → (t.op k).vals.get 0 i = (s.team s.me.place.team).read (ea i) size)

/-- `STG`, `STV` and `STS` (10 R206, R208, R217, 09 R191, R189, 11 R240): a store to global memory makes its bytes dirty in L1, those of the
highest lane where lanes meet, and nothing else of memory changes; a store to a vault starts an operation that holds the lanes' data; a store to the scratchpad writes its bytes at
once and no other byte, and no byte of a read-only field (00 R9). Each starts one operation of its path, and no register changes. -/
def Obligations.StoreWords : Prop :=
  ∀ (s : State) (sz : BitVec 2) (d a : BitVec 7) (off : BitVec 8) (l : List (Acc × TlbEntry)),
    let size := accessSize sz
    let ea := s.ea a (off.toNat * size)
    let es := s.eaScr a (off.toNat * size)
    let val := fun (i : Nat) => s.seen.readLane i (s.seen.vAt d.toNat) size
    let access := fun (v : Bool) => s.access { vault := v, wr := true } size false (fun _ => true) (s.hardLanes ea) []
    let bytes := fun (l : List (Acc × TlbEntry)) => l.map fun x => (x.1.pa, size)
    let used := s.tlbUse s.myCluster s.seen.place.qidx (l.map fun e => e.1.ea)
    let may := fun (b : Nat) => s.storable s.me.place.qidx b = true ∧ s.reservedByte b = false
    (Ready (.stg sz d a off) s → access false = .ok l → s.mustWait 0 (bytes l) = false → s.inTx = false → s.pairedMe = false →
      (∀ e ∈ (s.cluster s.myCluster).l1, e.2.held = []) → (∀ e ∈ l, regionOf e.1.pa ≠ .device) →
        ∃ t k, exec (.stg sz d a off) s = .next t ∧ SameBytes s t
          ∧ Starts s t k 0 { s.me with release := t.me.release, relAt := t.me.relAt, sent := t.me.sent }
          ∧ (t.op k).kind = .store 0 size []
          ∧ (∀ x, l = [x] → x.1.pa % size = 0 → (∀ i, i < size → may (x.1.pa + i)) →
              ∃ p, t.l1Read s.myCluster x.1.pa size = some (val x.1.lane, p))
          ∧ ((∀ x ∈ l, x.1.pa % size = 0 ∧ (s.l1Line s.myCluster (x.1.pa / 256)).live = true) → s.me.release.length + l.length ≤ 64 →
              ∀ c ln o, o < 256 → s.reservedByte (ln * 256 + o) = false →
                let b := ln * 256 + o
                let hit := if c = s.myCluster ∧ may b then l.filter fun x => decide (x.1.pa ≤ b) && decide (b < x.1.pa + size) else []
                (t.l1Line c ln).has o = ((s.l1Line c ln).has o || !hit.isEmpty)
                  ∧ (t.l1Line c ln).data.get 0 o = match hit.getLast? with
                    | some x => BitVec.ofNat 8 (val x.1.lane / 256 ^ (b - x.1.pa))
                    | none => (s.l1Line c ln).data.get 0 o))
    ∧ (Ready (.stg sz d a off) s → access false = .ok l → s.mustWait 0 (bytes l) = true → exec (.stg sz d a off) s = .next used.missed)
    ∧ (Ready (.stg sz d a off) s → access false = .ok l → s.mustWait 0 (bytes l) = false → s.inTx = true →
        ∃ t k, exec (.stg sz d a off) s = .next t ∧ SameBytes s t ∧ SameL1 s t
          ∧ Starts s t k 0 { s.me with tx := t.me.tx, sig := t.me.sig } ∧ (t.op k).kind = .store 0 size [])
    ∧ (Ready (.stv sz d a off) s → access true = .ok l → s.mustWait 1 (bytes l) = false → s.pairedMe = false →
        ∃ t k, exec (.stv sz d a off) s = .next t ∧ SameBytes s t ∧ SameL1 s t ∧ Starts s t k 2 s.me
          ∧ (t.op k).kind = .store 1 size (l.map Prod.fst) ∧ ∀ e ∈ l, (t.op k).vals.get 0 e.1.lane = val e.1.lane)
    ∧ (Ready (.stv sz d a off) s → access true = .ok l → s.mustWait 1 (bytes l) = true → exec (.stv sz d a off) s = .next used.missed)
    ∧ (∀ k lane va, Ready (.stg sz d a off) s → access false = .trap k lane va →
        exec (.stg sz d a off) s = .next (s.trapWord k (some lane) 0 va))
    ∧ (∀ k lane va, Ready (.stv sz d a off) s → access true = .trap k lane va →
        exec (.stv sz d a off) s = .next (s.trapWord k (some lane) 0 va))
    ∧ (∀ k lane addr, Ready (.sts sz d a off) s → firstScrTrap s.myTeam (some s.myImage) size false (s.hardLanes es) = some (k, lane, addr) →
        exec (.sts sz d a off) s = .next (s.trapWord k (some lane) 0 addr))
    ∧ (Ready (.sts sz d a off) s → firstScrTrap s.myTeam (some s.myImage) size false (s.hardLanes es) = none →
        s.mustWait 2 ((s.hardLanes es).map fun e => (e.2, size)) = false →
        let team := s.seen.place.team
        ∃ t k, exec (.sts sz d a off) s = .next t ∧ t.mem = s.mem ∧ (∀ pa, t.homeByte pa = s.homeByte pa) ∧ SameL1 s t
          ∧ (t.op k).live = true ∧ (t.op k).kind = .store 2 size [] ∧ (∀ j, j ≠ k → t.op j = s.op j) ∧ SameRegs s.me t.me
          ∧ t.me.paths = s.me.paths ++ [{ path := 1, op := k, done := false, strand := s.cur.strand }]
          ∧ (∀ x, x ≠ team → t.team x = s.team x)
          ∧ (∀ b, (∀ i, s.act.getLsbD i = true → b < es i ∨ es i + size ≤ b) → (t.team team).scratch.get 0 b = (s.team team).scratch.get 0 b)
          ∧ (∀ r ∈ s.fixedScr team, ∀ b, r.1 ≤ b → b < r.1 + r.2 →
              (t.team team).scratch.get 0 b = (s.team team).scratch.get 0 b)
          ∧ ∀ i, s.act.getLsbD i = true → (∀ j, i < j → s.act.getLsbD j = true → es j + size ≤ es i ∨ es i + size ≤ es j) →
              s.mayWrite team (es i) size → (t.team team).read (es i) size = val i)

/-- `ATOMG`, `ATOMV` and `ATOMS` (10 R211, R217, 11 R239, 18 R366): accepted, each starts one operation over its lanes with the operands of Vd
and one step for every word that a lane names, and no byte of memory changes yet; in a transaction each dooms it and does nothing else;
in a pair that has not compared it waits with its digest, an `ATOMS` as well (log 14, DEDUCED), and without a partner at its packet it waits
(log 82, DEDUCED). -/
def Obligations.AtomicWords : Prop :=
  ∀ (s : State) (aop : BitVec 4) (sz : Bool) (d a : BitVec 7) (off : BitVec 5) (l : List (Acc × TlbEntry)),
    let size := atomSize sz
    let n := 4 * atomRegs aop sz
    let es := s.eaScr a (off.toNat * size)
    let access := fun (v : Bool) =>
      s.access { vault := v, rd := true, wr := true } size false (fun _ => true) (s.hardLanes (s.ea a (off.toNat * size))) []
    let bytes := l.map fun x => (x.1.pa, size)
    let used := s.tlbUse s.myCluster s.seen.place.qidx (l.map fun e => e.1.ea)
    let issued := fun (o : Outcome) (space path : Nat) (accs : List Acc) => ∃ t k opnds, o = .next t ∧ SameBytes s t
      ∧ Starts s t k path { s.me with release := t.me.release, sent := t.me.sent }
      ∧ (t.op k).kind = .atomic space aop.toNat size accs opnds (accs.map Acc.pa).eraseDups
      ∧ (t.op k).dst = [(s.seen.vAt d.toNat, size)] ∧ (t.op k).mask = s.str.exm
      ∧ ∀ x ∈ accs, opnds.get 0 x.lane = s.seen.readLane x.lane (s.seen.vAt d.toNat) n
    (Ready (.atomg aop sz d a off) s → s.inTx = false → access false = .ok l → s.mustWait 0 bytes = false → s.pairedMe = false →
      issued (exec (.atomg aop sz d a off) s) 0 0 (l.map Prod.fst))
    ∧ (Ready (.atomv aop sz d a off) s → s.inTx = false → access true = .ok l → s.mustWait 1 bytes = false → s.pairedMe = false →
        issued (exec (.atomv aop sz d a off) s) 1 2 (l.map Prod.fst))
    ∧ (Ready (.atoms aop sz d a off) s → s.inTx = false → firstScrTrap s.myTeam (some s.myImage) size false (s.hardLanes es) = none →
        s.mustWait 2 ((s.hardLanes es).map fun e => (e.2, size)) = false → s.pairedMe = false →
          issued (exec (.atoms aop sz d a off) s) 2 1 ((s.hardLanes es).map fun e => { lane := e.1, ea := e.2, pa := e.2 }))
    ∧ (Ready (.atomg aop sz d a off) s → s.inTx = false → access false = .ok l → s.mustWait 0 bytes = true →
        exec (.atomg aop sz d a off) s = .next used.missed)
    ∧ (Ready (.atomv aop sz d a off) s → s.inTx = false → access true = .ok l → s.mustWait 1 bytes = true →
        exec (.atomv aop sz d a off) s = .next used.missed)
    ∧ (∀ p, Ready (.atomg aop sz d a off) s → s.inTx = false → access false = .ok l → s.mustWait 0 bytes = false →
        s.partner s.cur.group = some p → s.me.approved = false →
          ∃ x, exec (.atomg aop sz d a off) s = .next (used.missed.modMe fun g => { g with wait := .compare, digest := some x }))
    ∧ (∀ p, Ready (.atomv aop sz d a off) s → s.inTx = false → access true = .ok l → s.mustWait 1 bytes = false →
        s.partner s.cur.group = some p → s.me.approved = false →
          ∃ x, exec (.atomv aop sz d a off) s = .next (used.missed.modMe fun g => { g with wait := .compare, digest := some x }))
    ∧ (∀ p, Ready (.atoms aop sz d a off) s → s.inTx = false → firstScrTrap s.myTeam (some s.myImage) size false (s.hardLanes es) = none →
        s.mustWait 2 ((s.hardLanes es).map fun e => (e.2, size)) = false → s.partner s.cur.group = some p → s.me.approved = false →
          ∃ x, exec (.atoms aop sz d a off) s = .next (s.missed.modMe fun g => { g with wait := .compare, digest := some x }))
    ∧ (Ready (.atomg aop sz d a off) s → s.inTx = false → access false = .ok l → s.mustWait 0 bytes = false →
        s.partner s.cur.group = none → s.pairedMe = true → exec (.atomg aop sz d a off) s = .next used.missed)
    ∧ (∀ k lane va, Ready (.atomg aop sz d a off) s → s.inTx = false → access false = .trap k lane va →
        exec (.atomg aop sz d a off) s = .next (s.trapWord k (some lane) 0 va))
    ∧ (∀ k lane addr, Ready (.atoms aop sz d a off) s → s.inTx = false →
        firstScrTrap s.myTeam (some s.myImage) size false (s.hardLanes es) = some (k, lane, addr) →
          exec (.atoms aop sz d a off) s = .next (s.trapWord k (some lane) 0 addr))
    ∧ (Ready (.atomg aop sz d a off) s → s.inTx = true → exec (.atomg aop sz d a off) s = .next (s.doomMe 4))
    ∧ (Ready (.atomv aop sz d a off) s → s.inTx = true → exec (.atomv aop sz d a off) s = .next (s.doomMe 4))
    ∧ (Ready (.atoms aop sz d a off) s → s.inTx = true → exec (.atoms aop sz d a off) s = .next (s.doomMe 4))

/-- The operations of the atomics (10 Table 10-3) on a memory value m and an operand x of w bits: sums modulo 2^w, minima and maxima signed
and unsigned, logic, exchange; `CAS` stores the new value, above the compare value, where m equals that. Lanes that name one word act in
ascending order, each on what the lower ones have left. -/
def Obligations.AtomicValues : Prop :=
  (∀ (w m x : Nat), w = 32 ∨ w = 64 → m < 2 ^ w → x < 2 ^ w →
    let i := fun (v : Nat) => (BitVec.ofNat w v).toInt
    atomOp 0 w m x = (m + x) % 2 ^ w
      ∧ atomOp 1 w m x = (if i x < i m then x else m) ∧ atomOp 2 w m x = (if i m < i x then x else m)
      ∧ atomOp 3 w m x = min m x ∧ atomOp 4 w m x = max m x
      ∧ BitVec.ofNat w (atomOp 5 w m x) = BitVec.ofNat w m &&& BitVec.ofNat w x
      ∧ BitVec.ofNat w (atomOp 6 w m x) = BitVec.ofNat w m ||| BitVec.ofNat w x
      ∧ BitVec.ofNat w (atomOp 7 w m x) = BitVec.ofNat w m ^^^ BitVec.ofNat w x
      ∧ atomOp 8 w m x = x
      ∧ ∀ y, y < 2 ^ w → atomOp 9 w m (y + x * 2 ^ w) = if m = y then x else m)
  ∧ (∀ m x : Nat, atomOp 10 32 m x = f32.add m x ∧ atomOp 11 32 m x = f32.min m x ∧ atomOp 12 32 m x = f32.max m x)
  ∧ ∀ (aop size m : Nat) (x : Tab Nat) (i j : Nat), i ≠ j →
      let a := atomOp aop (8 * size) m (x.get 0 i)
      (atomFold aop size x [i, j] m []).1 = atomOp aop (8 * size) a (x.get 0 j)
        ∧ (atomFold aop size x [i, j] m []).2.get 0 i = m ∧ (atomFold aop size x [i, j] m []).2.get 0 j = a

/-! ### What completes the words of chapter 10 -/

/-- LOAD_WRITEBACK and ATOMIC_RETURN (10 R207, R209, R211, R214, 05 R89, 18 R353): with every byte there and no lane poisoned, every lane of
the word takes its value, a helper lane that found poison 0, and no other byte of any register changes; the operation is over and its path
retires; memory stands. Bytes that are read at a home slice wait for it, and are asked for where it lacks them. A lane
that has consumed poison halts a program's group with POISON at the packet of the word. -/
def Obligations.LoadResults : Prop :=
  ∀ (s : State) (op b n : Nat),
    let o := s.op op
    let g := s.group o.group
    let landed := fun (t : State) (n : Nat) (f : Nat → Nat) => t.op op = {} ∧ t.mem = s.mem
      ∧ t.group o.group = { g with
          lanes := (t.group o.group).lanes, lost := (t.group o.group).lost, paths := (g.completeOp o.path op).paths
          wait := (g.completeOp o.path op).wait, fwd := (t.group o.group).fwd, atomLines := (t.group o.group).atomLines }
      ∧ (∀ j, j ≠ o.group → t.group j = s.group j)
      ∧ (∀ i, i < 64 → o.mask.getLsbD i = true → (t.group o.group).readLane i b n = f i % 2 ^ (8 * n))
      ∧ ∀ i c, i < 64 → c < 1024 → (o.mask.getLsbD i = false ∨ c < b ∨ b + n ≤ c) → (t.group o.group).byteAt i c = g.byteAt i c
    (∀ space size accs scales, o.live = true → o.kind = .load space size accs scales → o.reqs = [] → s.opGone o = false → space ≠ 1 →
      space ≠ 3 → o.poisoned = 0 → o.dst = [(b, n)] → b + n ≤ 1024 →
        ∃ t, exec (.loadWriteback op) s = .next t
          ∧ landed t n fun i => if o.blank.getLsbD i = true then 0 else o.vals.get 0 i + o.vals.get 0 (i + 64) * 2 ^ 32)
    ∧ (∀ size x, o.live = true → o.kind = .load 1 size [x] [] → o.reqs = [] → s.opGone o = false → o.poisoned = 0 → o.blank = 0 →
        (∀ j, s.vaultPoison.get false (x.pa / 4 + j) = false) → o.dst = [(b, size)] → b + size ≤ 1024 → x.lane < 64 →
        o.mask = 1#64 <<< x.lane → o.vals = [] → g.heldVault = [] →
          ∃ t, exec (.loadWriteback op) s = .next t
            ∧ landed t size fun _ => leNat ((List.range size).map fun i => s.memByte (x.pa + i)))
    ∧ (∀ size x, o.live = true → o.kind = .load 3 size [x] [] → o.reqs = [] → s.opGone o = false → s.homeHeld o = false →
        s.lacking o.qidx o.homeReads = [] → isGlobal x.pa = true → s.homePoison x.pa = false → o.poisoned = 0 → o.blank = 0 →
        o.dst = [(b, size)] → b + size ≤ 1024 → x.lane < 64 → o.mask = 1#64 <<< x.lane → o.vals = [] →
          ∃ t, exec (.loadWriteback op) s = .next t ∧ t.op op = {} ∧ t.mem = s.mem ∧ (t.group o.group).tx.writes = g.tx.writes
            ∧ (t.group o.group).readLane x.lane b size = leNat ((List.range size).map fun i => s.txByte o.group (x.pa + i)))
    ∧ (∀ space size accs scales, o.live = true → o.kind = .load space size accs scales → o.reqs = [] → s.opGone o = false →
        s.homeHeld o = true → exec (.loadWriteback op) s = .next s)
    ∧ (∀ space size accs scales, o.live = true → o.kind = .load space size accs scales → o.reqs = [] → s.opGone o = false →
        s.homeHeld o = false → s.lacking o.qidx o.homeReads ≠ [] →
          exec (.loadWriteback op) s = .next (s.wantHome o.cluster o.qidx 64 (s.lacking o.qidx o.homeReads)))
    ∧ (∀ space size accs scales, o.live = true → o.kind = .load space size accs scales → o.reqs = [] → s.opGone o = false → space ≠ 1 →
        space ≠ 3 → o.poisoned ≠ 0 → g.place.priv = false →
          ∃ t r, exec (.loadWriteback op) s = .next t ∧ (t.group o.group).halt = some r ∧ r.kind = .poison ∧ r.pc = o.pc ∧ r.word = o.word)
    ∧ (∀ space aop size accs opnds, o.live = true → o.kind = .atomic space aop size accs opnds [] → o.reqs = [] → o.mirror = 0 →
        s.opGone o = false → o.poisoned = 0 → o.dst = [(b, size)] → b + size ≤ 1024 →
          ∃ t, exec (.atomicReturn op) s = .next t ∧ landed t size fun i => o.vals.get 0 i)
    ∧ (o.live = false → exec (.loadWriteback op) s = .next s ∧ exec (.atomicReturn op) s = .next s)

/-- STORE_ACK and ATOMIC_STEP (10 R206, R211 to R213, 09 R196): the acknowledgement of a vault store writes the lane's bytes and no other
byte; of another store it changes no byte. A step of an atomic reads the word at its ordering point, writes what the lanes make of it
and no other byte, and gives each lane the value it found; that of a global word comes when the home slice serves its request and holds
the sector. -/
def Obligations.StoreResults : Prop :=
  ∀ (s : State) (op a : Nat),
    let o := s.op op
    (∀ size x, o.live = true → o.kind = .store 1 size [x] →
      ∃ t, exec (.storeAck op) s = .next t ∧ t.op op = {}
        ∧ (∀ i, i < size → t.memByte (x.pa + i) = BitVec.ofNat 8 (o.vals.get 0 x.lane / 256 ^ i))
        ∧ ∀ pa, (pa < x.pa ∨ x.pa + size ≤ pa) → t.memByte pa = s.memByte pa)
    ∧ (∀ sp size accs, o.live = true → o.kind = .store sp size accs → sp ≠ 1 → exec (.storeAck op) s = .next (s.endOp op))
    ∧ (∀ aop size accs opnds left i, o.live = true → o.kind = .atomic 2 aop size accs opnds left → a ∈ left →
        (accs.filter fun x => x.pa == a).map Acc.lane = [i] →
          let m := (s.team o.team).read a size
          ∃ t, exec (.atomicStep op a) s = .next t ∧ t.mem = s.mem ∧ (t.op op).vals.get 0 i = m
            ∧ (∀ x ∈ s.teamsOf o, s.mayWrite x a size → (t.team x).read a size = atomOp aop (8 * size) m (opnds.get 0 i) % 2 ^ (8 * size))
            ∧ (∀ x b, (b < a ∨ a + size ≤ b) → (t.team x).scratch.get 0 b = (s.team x).scratch.get 0 b)
            ∧ ∀ x, x ∉ s.teamsOf o → (t.team x).scratch = (s.team x).scratch)
    ∧ (∀ aop size accs opnds left i, o.live = true → o.kind = .atomic 1 aop size accs opnds left → a ∈ left → isVault a = true →
        size = 4 ∨ size = 8 → (accs.filter fun x => x.pa == a).map Acc.lane = [i] →
          let m := Tab.readLe s.mem a size
          ∃ t, exec (.atomicStep op a) s = .next t ∧ (t.op op).vals.get 0 i = m
            ∧ Tab.readLe t.mem a size = atomOp aop (8 * size) m (opnds.get 0 i) % 2 ^ (8 * size)
            ∧ ∀ b, (b < a ∨ a + size ≤ b) → t.memByte b = s.memByte b)
    ∧ (∀ aop size accs opnds left i, o.live = true → o.kind = .atomic 0 aop size accs opnds left → a ∈ left → isGlobal a = true →
        s.served (s.atomReq op a) = true → s.homeHas a = true → size = 4 ∨ size = 8 → a % size = 0 →
        (∀ k, k < size → s.storable o.qidx (a + k) = true ∧ s.reservedByte (a + k) = false) → (accs.filter fun x => x.pa == a).map Acc.lane = [i] →
          let m := leNat (s.homeBytes a size)
          ∃ t, exec (.atomicStep op a) s = .next t ∧ t.mem = s.mem ∧ (t.op op).vals.get 0 i = m
            ∧ leNat (t.homeBytes a size) = atomOp aop (8 * size) m (opnds.get 0 i) % 2 ^ (8 * size)
            ∧ ∀ b, (b < a ∨ a + size ≤ b) → t.homeByte b = s.homeByte b)
    ∧ (∀ aop size accs opnds left, o.live = true → o.kind = .atomic 0 aop size accs opnds left → a ∈ left → isGlobal a = true →
        (s.served (s.atomReq op a) = false → exec (.atomicStep op a) s = .next s)
        ∧ (s.served (s.atomReq op a) = true → s.lacking o.qidx [(a, size)] ≠ [] →
            exec (.atomicStep op a) s = .next (s.wantHome o.cluster o.qidx 64 [a / 64])))
    ∧ (o.live = false → exec (.storeAck op) s = .next s ∧ exec (.atomicStep op a) s = .next s)

/-! ### Transactions, fences, pins, the instruction store -/

/-- `TXB`, `TXA` and `TXE` (10 R215 to R219): a transaction opens with its attempt number, or gives DIVERGED, or traps with LIMIT beyond the
bound, or, nested, is doomed; it and `TXA` count on GLOB and complete at once; the first doom code stands; `TXE` sends the release set and starts the commit, which stands for the status
7 outside a transaction. TXE_COMMIT (11 R248): outside a transaction the status is 7; everything earlier comes first; a doomed one gives
its code and writes nothing; else the lines of both logs, the sectors read at hand, are locked, and then either some byte read has changed and the status is 1, with
nothing written, or every logged byte that the context may store stands at its home and the status is 0; a group that takes no more
results releases its locks. That TXE_COMMIT fires first to lock and then to settle is log 13's choice. -/
def Obligations.Transactions : Prop :=
  (∀ (s : State) (d : BitVec 7) (n : BitVec 8),
    let k := match s.seen.tx.pc with
      | some pc => if pcSame pc s.str.pc = true then s.seen.tx.count + 1 else 1
      | none => 1
    let counted := (s.me.raise 0 0 s.cur.strand).completeOp 0 0
    (s.pulse 0).me = counted
    ∧ (Ready (.txb d n) s → s.inTx = true → exec (.txb d n) s = .next ((s.pulse 0).doomMe 4))
    ∧ (Ready (.txb d n) s → s.inTx = false → s.me.tx.isOpen = true → exec (.txb d n) s = .next s.missed)
    ∧ (Ready (.txb d n) s → s.me.tx.isOpen = false → 1 < s.seen.liveStrands.length →
        Leaves s (exec (.txb d n) s) s.cur.moved (counted.setG d.toNat 6))
    ∧ (Ready (.txb d n) s → s.me.tx.isOpen = false → s.seen.liveStrands.length ≤ 1 → n.toNat < k →
        exec (.txb d n) s = .next (s.trapWord .limit))
    ∧ (Ready (.txb d n) s → s.me.tx.isOpen = false → s.seen.liveStrands.length ≤ 1 → k ≤ n.toNat →
        Leaves s (exec (.txb d n) s) s.cur.moved
          { counted.setG d.toNat (BitVec.ofNat 32 k) with tx := { isOpen := true, count := k, pc := some s.str.pc } })
    ∧ (Ready (.txa n) s → s.inTx = false → Leaves s (exec (.txa n) s) s.cur.moved counted)
    ∧ (Ready (.txa n) s → s.inTx = true → exec (.txa n) s = .next ((s.pulse 0).doomMe (3 + n.toNat * 256)))
    ∧ (∀ c, s.me.tx.doom = 0 → (s.doomMe c).me = { s.me with tx := { s.me.tx with doom := c } })
    ∧ (∀ c, s.me.tx.doom ≠ 0 → (s.doomMe c).me = s.me)
    ∧ (Ready (.txe d) s → s.me.tx.isOpen = true → s.me.tx.committing = true → exec (.txe d) s = .next s.missed)
    ∧ (Ready (.txe d) s → (s.me.tx.isOpen = true → s.me.tx.committing = false) → s.pairedMe = false →
        ∃ t k before wbs, exec (.txe d) s = .next t ∧ SameBytes s t
          ∧ Starts s t k 0 { s.me with
              tx := t.me.tx, release := if s.me.tx.isOpen = true then [] else s.me.release, sent := t.me.sent }
          ∧ (t.op k).kind = .commit d.toNat before wbs ∧ (t.op k).landed = (if s.me.tx.isOpen = true then 0 else 7)
          ∧ t.me.tx.committing = s.me.tx.isOpen))
  ∧ (∀ (s : State) (op d : Nat) (before wbs : List Nat),
    let o := s.op op
    let tx := (s.group o.group).tx
    let early := before.any (fun k => (s.op k).live) || wbs.any (fun r => (s.req r).live)
    let gives := fun (status : Nat) (p : State → Prop) => ∃ t, exec (.txeCommit op) s = .next t ∧ t.op op = {}
      ∧ (t.group o.group).greg d = BitVec.ofNat 32 status ∧ p t
    let kept := fun (t : State) => t.mem = s.mem ∧ ∀ pa, t.homeByte pa = s.homeByte pa
    (o.live = true → o.kind = .commit d before wbs → s.opGone o = true → exec (.txeCommit op) s = .next ((s.unlock op).endOp op))
    ∧ (o.live = true → o.kind = .commit d before wbs → s.opGone o = false → o.mirror = 0 →
      (o.landed ≠ 0 → gives o.landed kept)
      ∧ (o.landed = 0 → early = true → exec (.txeCommit op) s = .next s)
      ∧ (o.landed = 0 → early = false → tx.doom ≠ 0 → gives tx.doom kept)
      ∧ (o.landed = 0 → early = false → tx.doom = 0 → o.pos = 0 → (∃ l ∈ tx.lines, s.lineBusy l op = true) → exec (.txeCommit op) s = .next s)
      ∧ (o.landed = 0 → early = false → tx.doom = 0 → o.pos = 0 → (∀ l ∈ tx.lines, s.lineBusy l op = false) →
          let lack := s.lacking o.qidx (tx.reads.map fun e => (e.1 * 64, 64))
          (lack ≠ [] → exec (.txeCommit op) s = .next (s.wantHome o.cluster o.qidx 64 lack))
          ∧ (lack = [] → ∃ t, exec (.txeCommit op) s = .next t ∧ kept t ∧ t.op op = { o with pos := 1 }
              ∧ ∀ l ∈ tx.lines, (l, op) ∈ (t.slice (homeSlice (l * 256))).locks))
      ∧ (o.landed = 0 → early = false → tx.doom = 0 → o.pos ≠ 0 → (∃ e ∈ tx.reads, s.homeBytes (e.1 * 64) 64 ≠ e.2) → gives 1 kept)
      ∧ (o.landed = 0 → early = false → tx.doom = 0 → o.pos ≠ 0 → (∀ e ∈ tx.reads, s.homeBytes (e.1 * 64) 64 = e.2) →
          (∀ l ∈ tx.wlines, ((s.slice (homeSlice (l * 256))).line l).live = true) →
            gives 0 fun t => t.mem = s.mem ∧ ∀ pa, s.reservedByte pa = false → t.homeByte pa =
              if pa / 256 ∈ tx.wlines ∧ s.storable o.qidx pa = true then (tx.writes.get none pa).getD (s.homeByte pa) else s.homeByte pa)))

/-- `FENCE` and `TFENCE` with FENCE_COMPLETE, and WRITE_ACK_RECEIPT (10 R222, R223, 11 R243, R404, 18 R366). A fence holds the operations that
the group has issued on its paths; it waits for them, then sends the release set, then waits for the write-backs of its cluster, then,
acquiring, leaves no clean sector in L1, or, translating, has the walks of its cluster end stale, and then leaves no translation in the
cluster's TLB; outside firmware whatever the scope, while firmware's reaches every cluster and the front end of its die from COH up, and
of every die from DEV up. -/
def Obligations.FenceWords : Prop :=
  (∀ (s : State) (scope : BitVec 3) (kind : BitVec 2) (paths : BitVec 9),
    let began := fun (kind paths : Nat) (tr : Bool) => { s.me with
      approved := false
      fence := some { scope := scope.toNat, kind := kind, paths := paths, translation := tr, released := false, wbs := [],
                      ops := (s.me.paths.filter fun o => !o.done && paths.testBit o.path).map PathOp.op } }
    (Ready (.fence scope kind paths) s → s.inTx = true → exec (.fence scope kind paths) s = .next (s.doomMe 4))
    ∧ (Ready (.fence scope kind paths) s → s.inTx = false →
        (s.pairedMe = false ∨ kind.getLsbD 1 = false ∨ scope = 0 ∨ s.me.approved = true) →
          Leaves s (exec (.fence scope kind paths) s) s.cur.moved (began kind.toNat paths.toNat false))
    ∧ (Ready (.fence scope kind paths) s → s.inTx = false → s.pairedMe = true → kind.getLsbD 1 = true → scope ≠ 0 → s.me.approved = false →
        exec (.fence scope kind paths) s = .next (s.missed.modMe fun g => { g with wait := .compare }))
    ∧ (Ready (.tfence scope) s → s.inTx = true → exec (.tfence scope) s = .next (s.doomMe 4))
    ∧ (Ready (.tfence scope) s → s.inTx = false → (s.pairedMe = false ∨ scope = 0 ∨ s.me.approved = true) →
        Leaves s (exec (.tfence scope) s) s.cur.moved (began 2 1 true))
    ∧ (Ready (.tfence scope) s → s.inTx = false → s.pairedMe = true → scope ≠ 0 → s.me.approved = false →
        exec (.tfence scope) s = .next (s.missed.modMe fun g => { g with wait := .compare })))
  ∧ (∀ (s : State) (gk : Nat) (f : Fence), (s.group gk).fence = some f →
      (f.released = false → (∃ k ∈ f.ops, ∃ o ∈ (s.group gk).paths, o.op = k ∧ o.done = false) → exec (.fenceComplete gk) s = .next s)
      ∧ (f.released = false → (∀ k ∈ f.ops, ∀ o ∈ (s.group gk).paths, o.op = k → o.done = true) →
          ∃ t e, exec (.fenceComplete gk) s = .next t ∧ SameBytes s t ∧ (t.group gk).fence = some e ∧ e.released = true
            ∧ SameRegs (s.group gk) (t.group gk)
            ∧ (f.kind / 2 = 1 → f.paths.testBit 0 = true → 2 ≤ f.scope → (t.group gk).release = [] ∧ e.wbs = t.openWbs (clusterOf gk)))
      ∧ (f.released = true → s.fenceDone f = false → exec (.fenceComplete gk) s = .next s)
      ∧ (f.released = true → s.fenceDone f = true → f.translation = false →
          ∃ t, exec (.fenceComplete gk) s = .next t ∧ SameBytes s t ∧ (t.group gk) = { s.group gk with fence := none }
            ∧ (f.kind % 2 = 1 → f.paths.testBit 0 = true → 2 ≤ f.scope → ∀ l, (t.l1Line (clusterOf gk) l).valid = 0
              ∧ (t.l1Line (clusterOf gk) l).dirty = (s.l1Line (clusterOf gk) l).dirty))
      ∧ (f.released = true → s.fenceDone f = true → f.translation = true → f.dropping = false →
          ∃ t, exec (.fenceComplete gk) s = .next t ∧ SameBytes s t
            ∧ (t.group gk) = { s.group gk with fence := some { f with dropping := true } }
            ∧ ∀ w, (s.walks.get {} w).live = true → clusterOf gk ∈ (s.walks.get {} w).clusters → (t.walks.get {} w).stale = true)
      ∧ (f.released = true → s.fenceDone f = true → f.translation = true → f.dropping = true → (∀ e ∈ s.walks, e.2.stale = false) →
          let wide := (s.group gk).place.priv && decide (2 ≤ f.scope)
          let near := fun (die : Nat) => decide (3 ≤ f.scope) || die == dieOf (clusterOf gk)
          ∃ t, exec (.fenceComplete gk) s = .next t ∧ SameBytes s t ∧ (t.group gk) = { s.group gk with fence := none, spare := [] }
            ∧ (∀ c, (t.cluster c).tlb = if c = clusterOf gk ∨ wide = true ∧ near (dieOf c) = true then [] else (s.cluster c).tlb)
            ∧ ∀ d, (t.die d).tlb = if wide = true ∧ near d = true then [] else (s.die d).tlb))
  ∧ (∀ (s : State) (gk : Nat), (s.group gk).fence = none → exec (.fenceComplete gk) s = .next s)
  ∧ (∀ (s : State) (r : Nat), (s.req r).legs ≠ [] → exec (.writeAckReceipt r) s = .next s)
  ∧ ∀ (s : State) (r : Nat), (s.req r).live = true → (s.req r).kind = .ack → (s.req r).legs = [] →
      ∃ t, exec (.writeAckReceipt r) s = .next t ∧ SameBytes s t ∧ t.req r = {}
        ∧ ∀ l, (s.op (s.req r).op).live = true → (s.op (s.req r).op).kind = .l1maint l → t.op (s.req r).op = {}

/-- `PIN`, `UNPIN`, `L1WB`, `L1INV` and `CFETCH` with PIN_RESULT and CFETCH_LANDING (10 R224, R225, 09 R199, 08 R171). Each checks its one
address; `L1WB` and `L1INV` leave no dirty byte of the line but those held back, `L1INV` no clean one either; a pin is taken or refused
with its status, the whole line asked for where the slice lacks it; a fetch puts the 512 words of the segment into its slot, once they are
at home, or, poisoned, empties the slot. -/
def Obligations.LineWords : Prop :=
  (∀ (s : State) (d slot : BitVec 7) (a : BitVec 8) (e : TlbEntry) (pa : Nat),
    let va := (s.seen.gpair a.toNat).toNat
    let page := fun (n : Need) (size : Nat) => s.look va = .page e pa ∧ pageOk s.seen.place.priv n e pa = true ∧ s.declared va size = true
    let started := fun (o : Outcome) (path : Nat) (kind : OpKind) => ∃ t k, o = .next t ∧ Quiet s t ∧ SameL1 s t ∧ Starts s t k path s.me
      ∧ (t.op k).kind = kind
    let kept := fun (o : Outcome) (inval : Bool) => ∃ t, o = .next t ∧ SameBytes s t ∧ SameRegs s.me t.me
      ∧ (t.l1Line s.myCluster (pa / 256)).dirty
          = (s.l1Line s.myCluster (pa / 256)).dirty &&& (s.l1Line s.myCluster (pa / 256)).heldMask
      ∧ (inval = true → (t.l1Line s.myCluster (pa / 256)).valid = 0)
    (Ready (.pin d a) s → s.inTx = false → page { rd := true } 1 → started (exec (.pin d a) s) 0 (.pin d.toNat (pa / 256) false))
    ∧ (Ready (.unpin d a) s → s.inTx = false → page { rd := true } 1 → started (exec (.unpin d a) s) 0 (.pin d.toNat (pa / 256) true))
    ∧ (Ready (.l1wb a) s → s.inTx = false → page {} 1 → (s.l1Line s.myCluster (pa / 256)).live = true → kept (exec (.l1wb a) s) false)
    ∧ (Ready (.l1inv a) s → s.inTx = false → page {} 1 → (s.l1Line s.myCluster (pa / 256)).live = true → kept (exec (.l1inv a) s) true)
    ∧ (Ready (.cfetch slot a) s → s.inTx = false → va % 2048 = 0 → page { rd := true } 2048 → s.slotDeclared slot.toNat = true →
        started (exec (.cfetch slot a) s) 3 (.cfetch slot.toNat pa))
    ∧ (Ready (.cfetch slot a) s → s.inTx = false → va % 2048 ≠ 0 → exec (.cfetch slot a) s = .next (s.trapWord .alignData none 0 va))
    ∧ (Ready (.cfetch slot a) s → s.inTx = false → va % 2048 = 0 → s.look va = .page e pa →
        (pageOk s.seen.place.priv { rd := true } e pa = false ∨ s.declared va 2048 = false) →
          exec (.cfetch slot a) s = .next (s.trapWord .perm none 0 va))
    ∧ (Ready (.pin d a) s → s.inTx = false → s.look va = .fail → exec (.pin d a) s = .next (s.trapWord .transl none 0 va))
    ∧ (Ready (.l1wb a) s → s.inTx = false → s.look va = .miss → exec (.l1wb a) s = .next (s.askWalk va))
    ∧ (Ready (.pin d a) s → s.inTx = true → exec (.pin d a) s = .next (s.doomMe 4))
    ∧ (Ready (.cfetch slot a) s → s.inTx = true → exec (.cfetch slot a) s = .next (s.doomMe 4)))
  ∧ (∀ (s : State) (op : Nat),
    let o := s.op op
    let g := s.group o.group
    (∀ d l un, o.live = true → o.kind = .pin d l un → o.mirror = 0 → s.opAlive o = true →
      let key := dieOf o.cluster * 32 + sliceNo (l * 256)
      let ln := (s.slice key).line l
      let c := s.pinStatus (dieOf o.cluster) l o.qidx
      let gives := fun (v : Word) (pins : List Nat) => ∃ t, exec (.pinResult op) s = .next t ∧ SameBytes s t ∧ t.op op = {}
        ∧ t.group o.group = { (g.setG d v) with paths := (g.completeOp o.path op).paths, wait := (g.completeOp o.path op).wait }
        ∧ ((t.slice key).line l).pins = pins
      let there := ln.live = true ∧ (ln.valid ≠ 0 ∨ ln.dirty ≠ 0 ∨ ln.pins ≠ [])
      (un = true → ln.live = true → o.qidx ∈ ln.pins → gives 0 (ln.pins.filter (· != o.qidx)))
      ∧ (un = true → (ln.live = false ∨ o.qidx ∉ ln.pins) → gives 3 ln.pins)
      ∧ (un = false → there → gives (BitVec.ofNat 32 c) (if c = 0 ∧ o.qidx ∉ ln.pins then ln.pins ++ [o.qidx] else ln.pins))
      ∧ (un = false → ¬ there → exec (.pinResult op) s = .next (((List.range 4).foldl (fun s k =>
          s.askFill (dieOf o.cluster) (l * 4 + k) o.cluster o.qidx 64 0) s).setOp op { o with pos := 1 })))
    ∧ (∀ slot pa, o.live = true → o.kind = .cfetch slot pa → s.opAlive o = true → isGlobal pa = true → (∀ i, i < 8 → s.lineBusy (pa / 256 + i) 0 = false) →
        s.lacking o.qidx [(pa, 2048)] ≠ [] → exec (.cfetchLanding op) s = .next (s.wantHome o.cluster o.qidx 64 (s.lacking o.qidx [(pa, 2048)])))
    ∧ (∀ slot pa, o.live = true → o.kind = .cfetch slot pa → s.opAlive o = true → isGlobal pa = true → (∀ i, i < 8 → s.lineBusy (pa / 256 + i) 0 = false) →
        s.lacking o.qidx [(pa, 2048)] = [] →
        let lk := g.place.launch
        let bad := (List.range 32).any fun i => s.homePoison (pa + 64 * i)
        ∃ t, exec (.cfetchLanding op) s = .next t ∧ t.op op = {}
          ∧ (bad = false → t.mem = s.mem ∧ ∀ i, i < 512 →
              (((t.cluster o.cluster).istore.get {} (lk * 64 + slot)).words.get 0 i) = BitVec.ofNat 32 (leNat (s.homeBytes (pa + 4 * i) 4)))
          ∧ (bad = false → ((t.cluster o.cluster).istore.get {} (lk * 64 + slot)).landed = true)
          ∧ (bad = true → s.opGone o = false → g.place.priv = false → ((t.cluster o.cluster).istore.get {} (lk * 64 + slot)).landed = false
              ∧ ∃ r, (t.group o.group).halt = some r ∧ r.kind = .poison ∧ r.pc = o.pc))
    ∧ (∀ slot pa, o.live = true → o.kind = .cfetch slot pa → s.opAlive o = false → exec (.cfetchLanding op) s = .next (s.endOp op))
    ∧ (o.live = false → exec (.pinResult op) s = .next s ∧ exec (.cfetchLanding op) s = .next s))

/-! ### Waiting (chapter 14, 17 R338) -/

/-- `WAITC` and `WAITU` (17 R338, 14 R290 to R299, R304). `WAITC` lets the group issue once the path's counter is low enough. `WAITU` checks the
word as it registers: a condition that holds, poison, and a timeout of 0 decide the wait at once; otherwise an entry watches the word, in
a wait range for certain while the slice's table has room. No register and no byte of memory changes. -/
def Obligations.WaitWords : Prop :=
  ∀ (s : State) (cmp : BitVec 3) (sp : BitVec 2) (sz : Bool) (d path : BitVec 7) (a : BitVec 7) (b : BitVec 8) (e : TlbEntry) (pa : Nat),
    let n := if sz then 8 else 4
    let va := (s.seen.gpair a.toNat).toNat
    let x := (s.seen.greg a.toNat).toNat
    let opnd : Dword := if sz then s.seen.gpair (a.toNat + 2) else (s.seen.greg (a.toNat + 2)).zeroExtend 64
    let t := min (s.seen.greg (a.toNat + 4)).toNat s.waitBound
    let capped := decide (s.waitBound < (s.seen.greg (a.toNat + 4)).toNat)
    let o := exec (.waitu cmp sp sz d a) s
    let key := orderKey pa
    let w := s.watched pa sz
    let mine := Ready (.waitu cmp sp sz d a) s ∧ s.inTx = false
    let there := mine ∧ sp ≠ 2 ∧ va % n = 0 ∧ s.look va = .page e pa ∧ pageOk s.seen.place.priv { vault := sp == 1, rd := true } e pa = true
      ∧ s.declared va n = true ∧ s.pairedMe = false
      ∧ (isGlobal pa = true → s.lineBusy (pa / 256) 0 = false ∧ s.wbAhead s.myCluster (pa / 256) = false)
    let local' := mine ∧ sp = 2 ∧ x % n = 0 ∧ x + n ≤ s.myTeam.size ∧ s.pairedMe = false
    let waits := fun (w : WaitRec → Wait) (out : Option (Nat × Word)) => ∃ t r, o = .next t ∧ t.mem = s.mem
      ∧ (∀ j, j ≠ s.cur.group → t.group j = s.group j) ∧ t.me = { s.me with wait := w r }
      ∧ r.d = d.toNat ∧ r.capped = capped ∧ r.strand = s.cur.strand ∧ r.pc = s.str.pc ∧ r.outcome = out
    let held := fun (v : Nat × Bool) => v.2 = false ∧ waitCond cmp.toNat sz v.1 opnd.toNat = true
    let team := s.team s.seen.place.team
    let y : Nat × Bool := (team.read x n, team.poisoned x n)
    let mon := (s.slice key).mon
    let qidx := s.seen.place.qidx
    let rsv := s.inWaitRange va && decide ((mon.filter fun m => m.2.rsv && m.2.qidx == qidx).length < s.monShare key qidx)
    let room := (rsv = true ∨ (s.slice key).loose + s.reservedMon key < 480) ∧ mon.length < 512
    let chain := ((s.slice key).spill.filter fun m => m.tgt != 2).length
    (Ready (.waitc path b) s → s.me.counter path.toNat ≤ (s.gsrc b).toNat → Leaves s (exec (.waitc path b) s) s.cur.moved s.me)
    ∧ (Ready (.waitc path b) s → (s.gsrc b).toNat < s.me.counter path.toNat →
        Leaves s (exec (.waitc path b) s) s.cur.moved { s.me with wait := .counter path.toNat (s.gsrc b).toNat })
    ∧ (there → w.2 = true → waits (.monitor key false) (some (3, BitVec.ofNat 32 w.1)))
    ∧ (there → held w → waits (.monitor key false) (some (0, BitVec.ofNat 32 w.1)))
    ∧ (there → w.2 = false → ¬ held w → t = 0 → waits (.monitor key false) (some (1, BitVec.ofNat 32 w.1)))
    ∧ (there → w.2 = false → ¬ held w → t ≠ 0 → room →
        waits (.monitor key false) none ∧ ∀ u, o = .next u → (u.slice key).mon.get {} (s.slice key).freeEntry =
          { v := true, opnd := opnd, waddr := pa, cmp := cmp.toNat, sz := sz, rsv := rsv, qidx := s.seen.place.qidx
            exp := s.time.toNat + cyclesNs (s.cluster s.myCluster).power.level t, who := s.cur.group, team := s.seen.place.team })
    ∧ (there → w.2 = false → ¬ held w → t ≠ 0 → ¬ room → chain < 1024 → waits (.monitor key true) none
        ∧ ∀ u, o = .next u → (u.slice key).mon = (s.slice key).mon ∧ ∃ e, (u.slice key).spill = (s.slice key).spill ++ [e] ∧ e.waddr = pa)
    ∧ (there → w.2 = false → ¬ held w → t ≠ 0 → ¬ room → 1024 ≤ chain → waits (.monitor key false) (some (2, BitVec.ofNat 32 w.1)))
    ∧ (local' → y.2 = true → waits (.scratch 0 0) (some (3, BitVec.ofNat 32 y.1)))
    ∧ (local' → held y → waits (.scratch 0 0) (some (0, BitVec.ofNat 32 y.1)))
    ∧ (local' → y.2 = false → ¬ held y → t = 0 → waits (.scratch 0 0) (some (1, BitVec.ofNat 32 (team.read x 4))))
    ∧ (local' → y.2 = false → ¬ held y → t ≠ 0 → waits (.scratch 0 0) none ∧
        ∀ u, o = .next u → (u.cluster s.myCluster).scr.get {} (s.cur.group % 64) =
          { v := true, opnd := opnd, saddr := x, cmp := cmp.toNat, sz := sz, kind := 0, expc := s.clk s.myCluster + t, team := s.seen.place.team })
    ∧ (mine → sp ≠ 2 → va % n ≠ 0 → o = .next (s.trapWord .alignData none 0 va))
    ∧ (mine → sp = 2 → x % n ≠ 0 → o = .next (s.trapWord .alignData none 0 x))
    ∧ (mine → sp = 2 → x % n = 0 → s.myTeam.size < x + n → o = .next (s.trapWord .perm none 0 x))
    ∧ (Ready (.waitu cmp sp sz d a) s → s.inTx = true → o = .next (s.doomMe 4))

/-- The wait condition of format W (03 R55, Table 3-4): equality and order of the low 32 or 64 bits, signed for 2 and 3 and unsigned for 4
and 5; some bit of the operand set, or none. -/
def Obligations.WaitCondition : Prop :=
  ∀ (sz : Bool) (v o : Nat),
    let w := if sz then 64 else 32
    let x := BitVec.ofNat w v
    let y := BitVec.ofNat w o
    waitCond 0 sz v o = decide (x = y) ∧ waitCond 1 sz v o = decide (x ≠ y)
      ∧ waitCond 2 sz v o = decide (x.toInt < y.toInt) ∧ waitCond 3 sz v o = decide (y.toInt ≤ x.toInt)
      ∧ waitCond 4 sz v o = decide (x.toNat < y.toNat) ∧ waitCond 5 sz v o = decide (y.toNat ≤ x.toNat)
      ∧ waitCond 6 sz v o = decide (x &&& y ≠ 0) ∧ waitCond 7 sz v o = decide (x &&& y = 0)

/-- How a wait ends (14 R293, R295, R297, R298, R301, R304, 12 R269): an outcome gives the status and the value, with the capped bit, and the
group may issue; consumed poison halts a program's group; an undecided wait stands. An entry whose time has passed gives TIMEOUT with the
value that it watches; a walk of the chain, once due, decides every entry that it can and keeps the others. -/
def Obligations.WaitEvents : Prop :=
  ∀ (s : State) (gk : Nat),
    let g := s.group gk
    let status := fun (r : WaitRec) (code : Nat) => BitVec.ofNat 32 (code + if r.capped then 256 else 0)
    let ended := fun (o : Outcome) (x : Group) => ∃ t, o = .next t ∧ t.mem = s.mem ∧ (∀ j, j ≠ gk → t.group j = s.group j)
      ∧ t.group gk = { x with wait := .none, lost := (t.group gk).lost, fwd := (t.group gk).fwd, paths := (t.group gk).paths }
    (∀ sl sp r code v, g.wait = .monitor sl sp r → r.outcome = some (code, v) → (s.team g.place.team).phase = .saving →
      exec (.waituWake gk) s = .next s)
    ∧ (∀ sl sp r code v, g.wait = .monitor sl sp r → r.outcome = some (code, v) → code ≠ 3 → (s.team g.place.team).phase ≠ .saving →
      ended (exec (.waituWake gk) s) ((g.setG r.d (status r code)).setG (r.d + 1) v))
    ∧ (∀ sl sp r v, g.wait = .monitor sl sp r → r.outcome = some (3, v) → g.place.priv = false →
        (s.team g.place.team).phase ≠ .saving → ∃ t x, exec (.waituWake gk) s = .next t ∧ (t.group gk).halt = some x ∧ x.kind = .poison ∧ x.pc = r.pc ∧ x.word = r.word)
    ∧ (∀ sl sp r, g.wait = .monitor sl sp r → r.outcome = none → exec (.waituWake gk) s = .next s)
    ∧ (∀ kind buf r code v, g.wait = .scratch kind buf r → r.outcome = some (code, v) → code ≠ 3 → kind ≠ 2 → r.op = 0 →
        ended (exec (.scratchpadMonitorWake gk) s) ((g.setG r.d (status r code)).setG (r.d + 1) v))
    ∧ (∀ buf r code v, g.wait = .scratch 2 buf r → r.outcome = some (code, v) → code ≠ 3 → r.op = 0 →
        ended (exec (.scratchpadMonitorWake gk) s)
          ((g.setG r.d (if code = 0 then buf else 0)).setG (r.d + 1) (if code = 0 then 0 else 1)))
    ∧ (∀ kind buf r, g.wait = .scratch kind buf r → r.outcome = none → exec (.scratchpadMonitorWake gk) s = .next s)
    ∧ (∀ e kind buf r, (s.cluster (clusterOf gk)).scr.get {} (gk % 64) = e → e.v = true → e.expc ≤ s.clk (clusterOf gk) → g.wait = .scratch kind buf r →
          ∃ t, exec (.scratchpadMonitorExpiry gk) s = .next t ∧ (t.cluster (clusterOf gk)).scr.get {} (gk % 64) = {}
            ∧ ∃ v, v = BitVec.ofNat 32 ((s.team e.team).read e.saddr 4)
              ∧ t.group gk = { g with wait := .scratch kind buf { r with outcome := some (1, v) } })
    ∧ (∀ e, (s.cluster (clusterOf gk)).scr.get {} (gk % 64) = e → e.v = false ∨ s.clk (clusterOf gk) < e.expc →
        exec (.scratchpadMonitorExpiry gk) s = .next s)
    ∧ (∀ key n m, n < 1024 → (s.slice key).mon.get {} n = m →
        (∀ sl sp r, m.v = true → m.tgt = 0 → m.who = gk → m.exp ≤ s.time.toNat → g.wait = .monitor sl sp r →
          ∃ t, exec (.waituTimeout (key * 1024 + n)) s = .next t ∧ (t.slice key).mon.get {} n = {}
            ∧ t.group gk = { g with wait := .monitor sl sp { r with outcome := some (1, BitVec.ofNat 32 (s.watched m.waddr m.sz).1) } })
        ∧ (m.v = false ∨ s.time.toNat < m.exp → exec (.waituTimeout (key * 1024 + n)) s = .next s))
    ∧ ∀ key, (s.walkOpen key = false → exec (.spillWalk key) s = .next s)
        ∧ (s.walkOpen key = true → ∃ t, exec (.spillWalk key) s = .next t ∧ (t.slice key).walkDue = false
            ∧ (t.slice key).spill = (s.slice key).spill.filter fun e => (s.walkEntry e).isNone)

/-! ### Barrier objects and rings (17 R339 to R344, 12 R261 to R269, 14 R305) -/

/-- One step of a barrier object (17 R340, R341): arrivals and bytes are added, saturating; when both expectations are met they are taken
off and the phase flips; nothing else of the scratchpad changes. -/
def Obligations.BarrierStep : Prop :=
  ∀ (s : State) (team a da db : Nat),
    let t := s.team team
    let u := s.barrierUpdate team a da db
    let r := (u.team team)
    let exa := t.read (a + 4) 4 % 2048
    let exb := t.read (a + 12) 4
    let arr := min (t.read a 4 % 2048 + da) 2047
    let byt := min (t.read (a + 8) 4 + db) (2 ^ 32 - 1)
    let met := exa ≤ arr ∧ exb ≤ byt
    r.read a 4 % 2048 = (if met then arr - exa else arr)
      ∧ r.read (a + 8) 4 = (if met then byt - exb else byt)
      ∧ (r.read a 4).testBit 31 = (if met then !(t.read a 4).testBit 31 else (t.read a 4).testBit 31)
      ∧ (r.read a 4).testBit 30 = (t.read a 4).testBit 30
      ∧ r.read (a + 4) 4 = t.read (a + 4) 4 ∧ r.read (a + 12) 4 = exb
      ∧ (∀ b, b < a ∨ a + 16 ≤ b → r.scratch.get 0 b = t.scratch.get 0 b)
      ∧ (∀ x, x ≠ team → u.team x = s.team x) ∧ u.mem = s.mem

/-- `BARI`, `BARA`, `BARX`, `BARW`, `STAGEA`, `STAGER`, `RINGADV`, `LQRD`, and the marks that a halt leaves (17 R342, R344, 14 R305, 12 R261,
R267, R269). -/
def Obligations.BarrierWords : Prop :=
  (∀ (s : State) (d k : BitVec 7) (a : BitVec 8),
    let x := (s.seen.greg a.toNat).toNat
    let g1 := (s.seen.greg (a.toNat + 1)).toNat
    let g2 := (s.seen.greg (a.toNat + 2)).toNat
    let team := s.seen.place.team
    let old := s.team team
    let place := fun (ok : State → Nat → Bool) => s.inTx = false ∧ x % 16 = 0 ∧ x + 16 ≤ s.myTeam.size ∧ ok s x = true
    let c := if g1 % 2048 = 0 then popcount s.act else g1 % 2048
    let ported := fun (o : Outcome) (g : Group) (at' n : Nat) (p : Team → Prop) => ∃ t k, o = .next t ∧ t.mem = s.mem
      ∧ (t.op k).live = true ∧ (t.op k).path = 1 ∧ t.me.paths = s.me.paths ++ [{ path := 1, op := k, done := false, strand := s.cur.strand }]
      ∧ SameRegs g t.me ∧ (∀ y, y ≠ team → t.team y = s.team y)
      ∧ (∀ b, b < at' ∨ at' + n ≤ b → (t.team team).scratch.get 0 b = old.scratch.get 0 b) ∧ p (t.team team)
    let update := fun (at' da : Nat) (t : Team) => ∃ u, Moves s u s.cur.moved s.me s.myLatches
      ∧ t.scratch = ((u.barrierUpdate team at' da 0).team team).scratch
    let opens := fun (o : Outcome) (kind saddr : Nat) (want : Dword) (timeout : Nat) => ∃ t k buf r, o = .next t ∧ t.mem = s.mem
      ∧ (t.op k).live = true ∧ (t.op k).path = 1 ∧ t.me = { s.me.raise 1 k s.cur.strand with wait := .scratch kind buf r }
      ∧ r.d = d.toNat ∧ r.op = k ∧ (∀ y, t.team y = s.team y)
      ∧ ((old.poisoned saddr 4 = false ∧ (old.read saddr 4).testBit 31 = want.getLsbD 0 → r.outcome = some (0, BitVec.ofNat 32 (old.read saddr 4)))
        ∧ (old.poisoned saddr 4 = false → (old.read saddr 4).testBit 31 ≠ want.getLsbD 0 → min timeout s.waitBound ≠ 0 → r.outcome = none
            ∧ ((t.cluster s.myCluster).scr.get {} (s.cur.group % 64)).saddr = saddr))
    (Ready (.bari a) s → place isBarrier → g1 < 2048 → (g1 ≠ 0 ∨ g2 ≠ 0) → ported (exec (.bari a) s) s.me x 16 fun t =>
        t.read x 4 = 0 ∧ t.read (x + 4) 4 = g1 ∧ t.read (x + 8) 4 = 0 ∧ t.read (x + 12) 4 = g2)
    ∧ (Ready (.bari a) s → place isBarrier → (2048 ≤ g1 ∨ g1 = 0 ∧ g2 = 0) →
        ∃ u, Moves s u s.cur.moved s.me s.myLatches ∧ exec (.bari a) s = .next (u.trapWord .format))
    ∧ (Ready (.bara d a) s → place isAnyBarrier →
        ported (exec (.bara d a) s) (s.me.setG d.toNat (BitVec.ofNat 32 (old.read x 4))) x 16 (update x c))
    ∧ (Ready (.barx a) s → place isAnyBarrier → (old.read (x + 4) 4 % 2048 < c ∨ old.read (x + 4) 4 % 2048 = c ∧ old.read (x + 12) 4 = 0) →
        ∃ u, Moves s u s.cur.moved s.me s.myLatches ∧ exec (.barx a) s = .next (u.trapWord .format))
    ∧ (Ready (.barx a) s → place isAnyBarrier → c ≤ old.read (x + 4) 4 % 2048 → (old.read (x + 4) 4 % 2048 = c → old.read (x + 12) 4 ≠ 0) →
        ported (exec (.barx a) s) s.me x 16 fun t => t.read (x + 4) 4 = old.read (x + 4) 4 % 2048 - c ∧ t.read (x + 12) 4 = old.read (x + 12) 4)
    ∧ (Ready (.barw d a) s → place isAnyBarrier → opens (exec (.barw d a) s) 1 x (BitVec.ofNat 64 (g1 % 2)) g2)
    ∧ (Ready (.stagea d a) s → place isStage →
        let n := old.read x 4 % 16 + 1
        opens (exec (.stagea d a) s) 2 (old.read (x + 4) 4 + 32 * (g1 % n) + if s.seen.place.role = .copy then 16 else 0)
          (BitVec.ofNat 64 (if s.seen.place.role = .copy then g1 / n % 2 else (g1 / n + 1) % 2)) g2)
    ∧ (Ready (.stager a) s → place isStage →
        let b := old.read (x + 4) 4 + 32 * (g1 % (old.read x 4 % 16 + 1)) + if s.seen.place.role = .copy then 0 else 16
        ported (exec (.stager a) s) s.me b 16 (update b 1))
    ∧ (Ready (.ringadv k a) s → place isRing → k.toNat ≤ (old.read (x + 8) 4 + 2 ^ 32 - old.read (x + 12) 4) % 2 ^ 32 →
        ported (exec (.ringadv k a) s) s.me (x + 12) 4 fun t => t.read (x + 12) 4 = (old.read (x + 12) 4 + k.toNat) % 2 ^ 32)
    ∧ (Ready (.ringadv k a) s → place isRing → (old.read (x + 8) 4 + 2 ^ 32 - old.read (x + 12) 4) % 2 ^ 32 < k.toNat →
        ∃ u, Moves s u s.cur.moved s.me s.myLatches ∧ exec (.ringadv k a) s = .next (u.trapWord .format))
    ∧ (Ready (.lqrd d) s → GroupDone s (exec (.lqrd d) s) 32 (BitVec.ofNat 64 (4 - s.myTeam.pend.length))
        ((s.me.setG d.toNat (BitVec.ofNat 32 (4 - s.myTeam.pend.length))).setG (d.toNat + 1) (BitVec.ofNat 32 s.myTeam.tcb)))
    ∧ (Ready (.bara d a) s → s.inTx = false → x % 16 ≠ 0 → exec (.bara d a) s = .next (s.trapWord .alignData none 0 x))
    ∧ (Ready (.bara d a) s → s.inTx = false → x % 16 = 0 → (s.myTeam.size < x + 16 ∨ isAnyBarrier s x = false) →
        exec (.bara d a) s = .next (s.trapWord .perm none 0 x))
    ∧ (Ready (.bara d a) s → s.inTx = true → exec (.bara d a) s = .next (s.doomMe 4)))
  ∧ (∀ (s : State) (team n b : Nat) (rest : List (Nat × Nat)), (s.team team).marks = (n, b) :: rest →
      let old := s.team team
      ∃ t, exec (.barrierAbandonMark team) s = .next t ∧ (t.team team).marks = rest ∧ t.mem = s.mem
        ∧ (t.team team).read b 4 = 2 ^ 30 + (if (old.read b 4).testBit 31 then 0 else 2 ^ 31)
        ∧ (t.team team).read (b + 4) 4 = old.read (b + 4) 4 ∧ (t.team team).read (b + 8) 4 = 0
        ∧ ∀ i, i < b ∨ b + 12 ≤ i → (t.team team).scratch.get 0 i = old.scratch.get 0 i)
  ∧ ∀ (s : State) (team : Nat), (s.team team).marks = [] → exec (.barrierAbandonMark team) s = .next s

/-! ### Engines, collectives, child launches, messages (10 R226 to R230, 12 R259 to R270) -/

/-- `COPY`, `GATHER` and `COLL` (10 R226 to R229, 12 R270): ENGMASK, then FORMAT, ALIGN and PERM of the command turn the word away; otherwise the
command enters its engine's queue, or the collective begins, as one operation of its path with its status register still to be written,
and no byte of memory changes; with 16 commands in the queue the group waits for a place. PERM of a communicator and FORMAT of a root are
log 18's reading (DEDUCED). -/
def Obligations.EngineWords : Prop :=
  ∀ (s : State) (g : BitVec 7) (wup : Bool) (win : BitVec 3) (dsp ssp : BitVec 2) (a n : BitVec 8) (sx : Bool) (esz : BitVec 2)
    (vault scat : Bool),
    let alone := s.inTx = false ∧ s.partner s.cur.group = none ∧ s.pairedMe = false
    let copy := exec (.copy g wup win dsp ssp) s
    let gather := exec (.gather g a sx esz vault scat) s
    let coll := exec (.coll g n) s
    let c := copyCmd s.seen g.toNat wup win.toNat dsp.toNat ssp.toNat
    let good := c.bad (s.seen.greg (g.toNat + 4)).toNat = false
    let boxes := s.boxOk c.ssp c.src c.srcLen = true ∧ s.boxOk c.dsp c.dst c.dstLen = true
    let e := gatherSize esz
    let el := gatherElems s g.toNat e a sx
    let bar := (s.seen.greg (g.toNat + 3)).toNat
    let k := collCmd s.seen g.toNat n.toNat
    let word := fun (i : Nat) => (s.seen.greg (g.toNat + i)).toNat
    let form := k.n ≠ 0 ∧ k.n ≤ 2 ^ 28 ∧ word 5 < 2 ^ 16 ∧ word 6 < 16 ∧ k.oper ≤ 3 ∧ k.fmt ≤ 2
      ∧ (k.oper = 3 → k.root < (s.ranksOf s.seen.place.launch k.comm).length)
    (Ready (.copy g wup win dsp ssp) s → alone → s.engMask [.copy, .mixed] = false → good → c.misaligned = false → boxes →
      s.ticket 4 = none → (s.cluster s.myCluster).copyQ.length < 16 →
        ∃ t k, copy = .next t ∧ SameBytes s t ∧ Starts s t k 4 s.me ∧ (t.op k).kind = .copy c ∧ (t.op k).gdst = [g.toNat + 11]
          ∧ k ∈ (t.cluster s.myCluster).copyQ)
    ∧ (Ready (.copy g wup win dsp ssp) s → alone → s.engMask [.copy, .mixed] = false → good → c.misaligned = false → boxes →
        s.ticket 4 = none → 16 ≤ (s.cluster s.myCluster).copyQ.length →
          ∃ t k, copy = .next t ∧ t.cur.miss = true ∧ t.me = { s.me with wait := .engine k } ∧ (t.op k).live = true
            ∧ (t.op k).accepted = false ∧ SameBytes s t)
    ∧ (Ready (.copy g wup win dsp ssp) s → s.inTx = false → s.engMask [.copy, .mixed] = true → copy = .next (s.trapWord .engmask))
    ∧ (Ready (.copy g wup win dsp ssp) s → s.inTx = false → s.engMask [.copy, .mixed] = false → ¬ good → copy = .next (s.trapWord .format))
    ∧ (Ready (.copy g wup win dsp ssp) s → s.inTx = false → s.engMask [.copy, .mixed] = false → good → c.misaligned = true →
        copy = .next (s.trapWord .alignData))
    ∧ (Ready (.copy g wup win dsp ssp) s → s.inTx = false → s.engMask [.copy, .mixed] = false → good → c.misaligned = false → ¬ boxes →
        copy = .next (s.trapWord .perm))
    ∧ (Ready (.gather g a sx esz vault scat) s → alone → s.engMask [.copy, .vector, .mixed] = false →
        (∀ x ∈ el, x.1 % e = 0 ∧ s.declared x.1 e = true ∧ x.2 + e ≤ s.myTeam.size) →
        (s.seen.greg (g.toNat + 2)).toNat % e = 0 → (bar = 0xFFFFFFFF ∨ bar % 16 = 0) →
        s.ticket 5 = none → (s.cluster s.myCluster).gatherQ.length < 16 →
          ∃ t k, gather = .next t ∧ SameBytes s t ∧ Starts s t k 5 s.me ∧ (t.op k).gdst = [g.toNat + 4]
            ∧ (t.op k).kind = .gather { scat := scat, vault := vault, size := e, elems := el,
                                        barrier := if bar = 0xFFFFFFFF then none else some bar, status := g.toNat + 4 }
            ∧ k ∈ (t.cluster s.myCluster).gatherQ)
    ∧ (Ready (.gather g a sx esz vault scat) s → s.inTx = false → s.engMask [.copy, .vector, .mixed] = true →
        gather = .next (s.trapWord .engmask))
    ∧ (Ready (.coll g n) s → alone → s.engMask [.copy, .mixed] = false → form → k.src % 4 = 0 → k.dst % 4 = 0 →
        s.declared k.src (k.n * k.size) = true → s.declared k.dst (k.n * k.size) = true →
        some s.cur.group ∈ s.ranksOf s.seen.place.launch k.comm →
          ∃ t j id r, coll = .next t ∧ SameBytes s t ∧ Starts s t j 7 s.me ∧ (t.op j).kind = .coll { k with id := id }
            ∧ (t.op j).gdst = [g.toNat + 7] ∧ (t.launch s.seen.place.launch).coll id = some r
            ∧ (s.ranksOf s.seen.place.launch k.comm).idxOf (some s.cur.group) ∈ r.joined)
    ∧ (Ready (.coll g n) s → alone → s.engMask [.copy, .mixed] = false → form → k.src % 4 = 0 → k.dst % 4 = 0 →
        some s.cur.group ∉ s.ranksOf s.seen.place.launch k.comm → coll = .next (s.trapWord .perm))
    ∧ (Ready (.coll g n) s → s.inTx = true → coll = .next (s.doomMe 4))
    ∧ (Ready (.copy g wup win dsp ssp) s → s.inTx = true → copy = .next (s.doomMe 4))
    ∧ (Ready (.gather g a sx esz vault scat) s → s.inTx = true → gather = .next (s.doomMe 4))

/-- `LAUNCH` and `MSEND` (12 R259, R260, R263): a record is pushed on the queue of the team, the free count of the team control block and
the result register say so, or, with four records waiting, the register reads 1 and nothing is pushed; a message starts an operation
with its payload as the scratchpad holds it. The order of the traps of `LAUNCH` and its write of latch L2 are log 22's reading (DEDUCED). -/
def Obligations.LaunchWords : Prop :=
  ∀ (s : State) (g : BitVec 7) (n : BitVec 8),
    let r := fun (i : Nat) => (s.seen.greg (g.toNat + i)).toNat
    let args := r 0 / 2 ^ 16 % 16
    let groups := r 0 / 2 ^ 8 % 256
    let counter := (s.seen.gpair (g.toNat + 1)).toNat
    let alone := s.inTx = false ∧ s.partner s.cur.group = none ∧ s.pairedMe = false
    let team := s.me.place.team
    let old := s.team team
    let launch := exec (.launch g) s
    let msend := exec (.msend g n) s
    let shape := r 0 / 16 % 16 = 0 ∧ r 0 < 2 ^ 20 ∧ groups ≠ 0 ∧ args ≤ 8
    let len := r 1 / 256 % 256 * 16
    let ring := s.myImage.rings[r 1 % 8]?
    let dests := (List.range 32).filter fun k => (r 0).testBit k
    (∀ off most, Ready (.launch g) s → alone → s.engMask [.vector, .mixed] = false → shape → s.myImage.children[r 0 % 16]? = some (off, most) →
      groups ≤ most → counter % 4 = 0 → s.declared counter 4 = true → old.pend.length < 4 →
        ∃ t, launch = .next t ∧ t.mem = s.mem ∧ SameRegs (s.me.setG (g.toNat + 11) 0) t.me
          ∧ (t.team team).pend = old.pend ++ [{ child := r 0 % 16, groups := groups, nargs := args, counter := counter,
                                                args := (List.range args).map fun j => s.seen.greg (g.toNat + 3 + j) }]
          ∧ (t.team team).read old.tcb 4 = 3 - old.pend.length ∧ (∀ k, t.op k = s.op k))
    ∧ (∀ off most, Ready (.launch g) s → alone → s.engMask [.vector, .mixed] = false → shape →
        s.myImage.children[r 0 % 16]? = some (off, most) → groups ≤ most → counter % 4 = 0 → s.declared counter 4 = true → 4 ≤ old.pend.length →
          GroupDone s launch 32 1 (s.me.setG (g.toNat + 11) 1))
    ∧ (Ready (.launch g) s → s.inTx = false → s.engMask [.vector, .mixed] = true → launch = .next (s.trapWord .engmask))
    ∧ (Ready (.launch g) s → s.inTx = false → s.engMask [.vector, .mixed] = false → ¬ shape → launch = .next (s.trapWord .format))
    ∧ (Ready (.launch g) s → s.inTx = false → s.engMask [.vector, .mixed] = false → shape → s.myImage.children[r 0 % 16]? = none →
        counter % 4 = 0 → launch = .next (s.trapWord .perm none 0 counter))
    ∧ (Ready (.launch g) s → s.inTx = true → launch = .next (s.doomMe 4))
    ∧ (∀ y, Ready (.msend g n) s → alone → s.engMask [.copy, .vector, .mixed] = false → r 0 ≠ 0 → r 1 / 8 % 32 = 0 → len ≠ 0 → len ≤ 256 →
        ring = some y → len + 16 ≤ y.ops.getD 1 0 → r 2 % 16 = 0 → (∀ k ∈ dests, k < s.cohortSize s.myTeam.launch s.myTeam.cohort) →
        r 2 + len ≤ s.myTeam.size →
          ∃ t k c, msend = .next t ∧ SameBytes s t ∧ Starts s t k 8 s.me ∧ (t.op k).kind = .send c ∧ (t.op k).gdst = [g.toNat + 3]
            ∧ c.payload = Tab.readList s.myTeam.scratch (r 2) len ∧ c.ring = r 1 % 8 ∧ c.tag = r 1 / 2 ^ 16 ∧ c.retry = n.toNat
            ∧ c.refused = 0 ∧ c.out = g.toNat + 3
            ∧ c.pending = (dests.filterMap fun k => s.cohortTeam s.myTeam.launch s.myTeam.cohort s.myTeam.side k).map fun d => (d, 0, false))
    ∧ (Ready (.msend g n) s → s.inTx = false → s.engMask [.copy, .vector, .mixed] = true → msend = .next (s.trapWord .engmask))
    ∧ (Ready (.msend g n) s → s.inTx = false → s.engMask [.copy, .vector, .mixed] = false → (r 0 = 0 ∨ len = 0 ∨ 256 < len) →
        msend = .next (s.trapWord .format))
    ∧ (Ready (.msend g n) s → s.inTx = true → msend = .next (s.doomMe 4))

/-- `MMA` (07 R145, R148, R149): ENGMASK, ENGWIDTH and FORMAT turn the word away; otherwise the member joins its rendezvous, a new one where
none waits for it, with its status register and its A registers held until the results; the last listed member to join opens it; where a
listed member has halted or ended, the rendezvous fails and the status is 1, and after 4,096 cycles without the others it is 2. -/
def Obligations.MatrixWord : Prop :=
  (∀ (s : State) (g : BitVec 7) (a : BitVec 8) (an : BitVec 3) (tb : BitVec 5),
    let x := s.seen
    let n := g.toNat
    let word := fun (i : Nat) => (x.greg (n + i)).toNat
    let o := exec (.mma g a an tb) s
    let held := quartersOf (gangCnt x.gang) (gangIdx x.gang)
    let masked := s.str.exm ≠ fullMask x.place.width ∨ 1 < x.liveStrands.length ∨ x.place.role ≠ .matrix
    let small := x.place.width ≠ 32 ∨ gangCnt x.gang = 0 ∨ ∃ m ∈ gangMembers x.gang, s.memberThere x.place.team m = false
    let bad := mmaBad x s.myTeam (fieldNo a) tb.toNat held.length (word 0) (word 1) (word 2) (word 3)
    let off := s.me.place.off
    let runs := Ready (.mma g a an tb) s ∧ s.me.live = true ∧ s.inTx = false ∧ ¬ masked ∧ ¬ small ∧ bad = false ∧ s.opsOf s.cur.group = []
      ∧ gangIdx s.me.gang ≠ 0 ∧ (gangMembers s.me.gang)[gangIdx s.me.gang - 1]? = some off
    let new := s.rdvFor s.me.place.team off s.me.gang = none
    (Ready (.mma g a an tb) s → s.inTx = false → masked → o = .next (s.trapWord .engmask))
    ∧ (Ready (.mma g a an tb) s → s.inTx = false → ¬ masked → small → o = .next (s.trapWord .engwidth))
    ∧ (Ready (.mma g a an tb) s → s.inTx = false → ¬ masked → ¬ small → bad = true → o = .next (s.trapWord .format))
    ∧ (runs → new → (∀ m ∈ gangMembers s.me.gang, s.memberGone s.me.place.team m = false) → (∃ m ∈ gangMembers s.me.gang, m ≠ off) →
        ∃ t k c, o = .next t ∧ SameBytes s t ∧ Starts s t k 6 s.me ∧ (t.op k).kind = .mma c ∧ c.rdv = s.rdvs.fresh ∧ c.cmd = x.greg n
          ∧ c.ta = fieldNo a ∧ c.tb = tb.toNat ∧ c.an = an.toNat ∧ c.held = held ∧ c.opened = false
          ∧ (t.op k).dst = [(x.aAt an.toNat, 128)] ∧ (t.op k).gdst = [n + 4]
          ∧ t.rdvs.get {} s.rdvs.fresh = { live := true, team := s.me.place.team, gang := s.me.gang, ifmt := mmaIfmt (word 0),
                                           who := [off], joined := [k], since := s.clk s.myCluster })
    ∧ (∀ r y, runs → s.rdvFor s.me.place.team off s.me.gang = some (r, y) → y.failed = 0 → gangKey y.gang = gangKey s.me.gang →
        y.ifmt = mmaIfmt (word 0) → (∀ m ∈ gangMembers y.gang, s.memberGone s.me.place.team m = false ∧ (m ∈ y.who ∨ m = off)) →
          ∃ t k c, o = .next t ∧ t.mem = s.mem ∧ (t.op k).kind = .mma c ∧ c.opened = true ∧ c.rdv = r ∧ k ∈ (t.rdvs.get {} r).joined
            ∧ (t.rdvs.get {} r).opened = true)
    ∧ (runs → new → (∃ m ∈ gangMembers s.me.gang, s.memberGone s.me.place.team m = true) →
        ∃ t, o = .next t ∧ SameBytes s t ∧ t.me = { s.me.setG (n + 4) 1 with paths := t.me.paths, wait := t.me.wait } ∧ ∀ k, t.op k = s.op k)
    ∧ (Ready (.mma g a an tb) s → s.inTx = true → o = .next (s.doomMe 4)))
  ∧ ∀ (s : State) (r k : Nat) (c : MmaCmd), (s.rdvs.get {} r).live = true → (s.rdvs.get {} r).opened = false →
      (s.rdvs.get {} r).failed = 0 → (s.rdvs.get {} r).full = false → (s.rdvs.get {} r).joined = [k] → (s.op k).kind = .mma c →
      ((s.rdvs.get {} r).since + 4096 ≤ s.clk (s.op k).cluster → s.opAlive (s.op k) = true →
        ∃ t, exec (.mmaAbsentTimeout r) s = .next t ∧ (t.group (s.op k).group).greg c.status = 2 ∧ t.op k = {})
      ∧ (s.clk (s.op k).cluster < (s.rdvs.get {} r).since + 4096 → exec (.mmaAbsentTimeout r) s = .next s)

/-- MMA_RENDEZVOUS_OPEN and MMA_RESULT_WRITE (07 R146, R147, R149 to R151). When every listed member has joined, each member's tile is
computed and kept; the write puts it into the A registers of every lane together, the status reads 0, and no other byte of the group
changes. Element (r, n) of a tile stands in lane 2r + n / 32; with `ACC` clear and `BIAS` clear the sum starts at 0. -/
def Obligations.MatrixResults : Prop :=
  (∀ (s : State) (r : Nat),
    let x := s.rdvs.get {} r
    (x.full = true → x.joined.Nodup → s.cur.view = none → ∃ t, exec (.mmaRendezvousOpen r) s = .next t ∧ t.mem = s.mem ∧ t.groups = s.groups
      ∧ t.rdvs.get {} r = { x with opened := true }
      ∧ ∀ k c, k ∈ x.joined → (s.op k).kind = .mma c → ∃ out, (t.op k).kind = .mma { c with out := out, opened := true, turn := s.free }
        ∧ ∀ lane, lane < 32 → out.get 0 lane =
            mmaLane (s.group (s.op k).group) (s.team (s.group (s.op k).group).place.team) c (fun n i => s.bElem x.joined n i) lane)
    ∧ (x.full = false → exec (.mmaRendezvousOpen r) s = .next s))
  ∧ (∀ (s : State) (op b : Nat) (c : MmaCmd),
      let o := s.op op
      let g := s.group o.group
      o.live = true → o.kind = .mma c →
        (c.opened = true → s.mmaTurn op c = true → s.opAlive o = true → o.dst = [(b, 128)] → b + 128 ≤ 1024 →
          ∃ t, exec (.mmaResultWrite op) s = .next t ∧ t.mem = s.mem ∧ t.op op = {}
            ∧ t.group o.group = { (g.setG c.status 0) with lanes := (t.group o.group).lanes, paths := (g.completeOp o.path op).paths, wait := (g.completeOp o.path op).wait }
            ∧ (∀ i, i < 32 → (t.group o.group).readLane i b 128 = c.out.get 0 i % 2 ^ 1024)
            ∧ (∀ i j, i < 64 → j < 1024 → (32 ≤ i ∨ j < b ∨ b + 128 ≤ j) → (t.group o.group).byteAt i j = g.byteAt i j)
            ∧ ∀ k, k ≠ o.group → t.group k = s.group k)
        ∧ (c.opened = false ∨ s.mmaTurn op c = false → exec (.mmaResultWrite op) s = .next s))
  ∧ (∀ (g : Group) (t : Team) (c : MmaCmd) (col : Nat → Nat → Val) (r i : Nat), r < 32 → i < 64 → mmaReq c.cmd.toNat = false →
      mmaLane g t c col (2 * r + i / 32) / 2 ^ (32 * (i % 32)) % 2 ^ 32 = mmaElem g t c (col i) r i % 2 ^ 32)
  ∧ ∀ (g : Group) (t : Team) (c : MmaCmd) (col : Nat → Val) (r n : Nat), c.cmd.toNat < 4 →
      mmaElem g t c col r n = (List.range (mmaK c.cmd.toNat / 32)).foldl (fun acc j => accumulate acc ((List.range 32).map fun i =>
        (tileElem g (c.cmd.toNat % 4) c.ta r (32 * j + i), col (32 * j + i)))) 0

/-- ENGINE_QUEUE_ADMIT, COPY_CHUNK_LANDING, GATHER_ELEMENT_LANDING and COLL_CHUNK (10 R226 to R228, 12 R270, 24 R399): the oldest word that
waits takes the entry that has freed; the command at the head of the queue moves its next chunk or element, the last one gives the
status before the path falls; a page that is missing or forbids the access ends it with its code and the count so far; a peer whose part
does not fit the collective gives MISMATCH. Who is late for a collective and who gets MISMATCH are logs 18 and 63 (DEDUCED). -/
def Obligations.EngineEvents : Prop :=
  (∀ (s : State) (op : Nat),
    let o := s.op op
    let q := (s.cluster o.cluster).copyQ
    (o.live = true → o.accepted = false → s.opGone o = false → o.path = 4 → op ∉ q → q.length < 16 →
      (∀ e ∈ s.ops, e.1 < op → e.2.live = true → e.2.accepted = false → e.2.cluster = o.cluster → e.2.path = 4 → e.1 ∈ q) →
        ∃ t, exec (.engineQueueAdmit op) s = .next t ∧ (t.cluster o.cluster).copyQ = q ++ [op]
          ∧ t.group o.group = { s.group o.group with wait := .none } ∧ t.mem = s.mem)
    ∧ (o.live = false ∨ o.accepted = true → exec (.engineQueueAdmit op) s = .next s)
    ∧ (o.live = true → o.accepted = false → s.opGone o = false → o.path = 4 → 16 ≤ q.length → exec (.engineQueueAdmit op) s = .next s))
  ∧ (∀ (s : State) (op : Nat) (c : CopyCmd),
      let o := s.op op
      let a := (c.chunk o.pos).1
      let b := (c.chunk o.pos).2.1
      let n := (c.chunk o.pos).2.2
      let done := o.pos + 1 = c.perRow * c.y * c.z
      let old := s.team o.team
      let mine := o.live = true ∧ o.accepted = true ∧ s.engineHead o.cluster true = some op ∧ o.kind = .copy c ∧ s.opAlive o = true
        ∧ o.mirror = 0
      (mine → c.ssp = 2 → c.dsp = 2 → c.barrier = none → c.win = none → old.live = true → o.pos + 1 ≤ c.perRow * c.y * c.z →
        s.mayWrite o.team b n →
        (∀ i, i < n → old.poison.get false ((a + i) / 4) = false) →
          ∃ t, exec (.copyChunkLanding op) s = .next t ∧ t.mem = s.mem
            ∧ (∀ i, i < n → (t.team o.team).scratch.get 0 (b + i) = old.scratch.get 0 (a + i))
            ∧ (∀ i, i < b ∨ b + n ≤ i → (t.team o.team).scratch.get 0 i = old.scratch.get 0 i)
            ∧ (¬ done → t.op op = { o with pos := o.pos + 1, landed := o.landed + n })
            ∧ (done → t.op op = {} ∧ (t.group o.group).greg c.status = BitVec.ofNat 32 ((o.landed + n) / 256 % 2 ^ 28)
                ∧ op ∉ (t.cluster o.cluster).copyQ))
      ∧ (∀ u code, mine → s.pieces op o c.ssp a n false = (u, .fault code) → code < 16 →
          ∃ t, exec (.copyChunkLanding op) s = .next t ∧ t.op op = {}
            ∧ (t.group o.group).greg c.status = BitVec.ofNat 32 (code * 2 ^ 28 + o.landed / 256 % 2 ^ 28))
      ∧ (∀ u v l, mine → s.pieces op o c.ssp a n false = (u, .wait) → u.pieces op o c.dsp b n true = (v, .ok l) →
          exec (.copyChunkLanding op) s = .next { s with walks := u.walks })
      ∧ (s.engineHead o.cluster true ≠ some op → exec (.copyChunkLanding op) s = .next s))
  ∧ (∀ (s : State) (op va sa pa : Nat) (c : GatherCmd) (u : State),
      let o := s.op op
      let old := u.team o.team
      let mine := o.live = true ∧ o.accepted = true ∧ s.engineHead o.cluster false = some op ∧ o.kind = .gather c ∧ s.opAlive o = true
        ∧ o.mirror = 0
      (mine → c.elems[o.pos]? = some (va, sa) → c.vault = true → c.scat = false → c.barrier = none → old.live = true → isVault pa = true →
        s.storesAhead op 1 [(pa, c.size)] = false → u.mayWrite o.team sa c.size → s.pieces op o 1 va c.size false = (u, .ok [(pa, c.size)]) →
          ∃ t, exec (.gatherElementLanding op) s = .next t ∧ t.mem = u.mem
            ∧ (∀ i, i < c.size → (t.team o.team).scratch.get 0 (sa + i) = u.memByte (pa + i))
            ∧ (∀ i, i < sa ∨ sa + c.size ≤ i → (t.team o.team).scratch.get 0 i = old.scratch.get 0 i)
            ∧ (o.pos + 1 < c.elems.length → t.op op = { o with pos := o.pos + 1, landed := o.landed + c.size })
            ∧ (o.pos + 1 = c.elems.length → t.op op = {} ∧ (t.group o.group).greg c.status = BitVec.ofNat 32 ((o.pos + 1) % 2 ^ 28)))
      ∧ (∀ code, mine → c.elems[o.pos]? = some (va, sa) → code < 16 →
          s.pieces op o (if c.vault then 1 else 0) va c.size c.scat = (u, .fault code) →
            ∃ t, exec (.gatherElementLanding op) s = .next t ∧ t.op op = {}
              ∧ (t.group o.group).greg c.status = BitVec.ofNat 32 (code * 2 ^ 28 + o.pos % 2 ^ 28))
      ∧ (mine → c.elems[o.pos]? = none → ∃ t, exec (.gatherElementLanding op) s = .next t ∧ t.op op = {}
          ∧ (t.group o.group).greg c.status = BitVec.ofNat 32 (o.pos % 2 ^ 28))
      ∧ (s.engineHead o.cluster false ≠ some op → exec (.gatherElementLanding op) s = .next s))
  ∧ (∀ (s : State) (op : Nat) (c : CollCmd) (u v : State) (x y : List (Nat × Nat)),
      let o := s.op op
      let lk := (s.team o.team).launch
      o.live = true → o.kind = .coll c → s.ranksOf lk c.comm = [some o.group] → s.collOf lk c.id o.group = some (op, o, c) →
      o.mirror = 0 → s.opAlive o = true → o.pos = 0 → c.n * c.size ≤ 65536 → c.fmt ≤ 2 → c.late = false →
      s.pieces op o 0 c.src (c.n * c.size) false = (u, .ok x) → u.pieces op o 0 c.dst (c.n * c.size) true = (v, .ok y) →
      s.pieceBusy x = false → s.pieceBusy y = false → s.lacking o.qidx x = [] →
      (∀ r, (s.launch lk).coll c.id = some r → r.failed = false ∧ r.done = []) →
        ∃ t, exec (.collChunk op [] []) s = .next t ∧ t.op op = {} ∧ (t.group o.group).greg c.status = 1)
  ∧ (∀ (s : State) (op : Nat) (c : CollCmd) (l : List Byte),
      let o := s.op op
      let lk := (s.team o.team).launch
      o.live = true → o.kind = .coll c → s.ranksOf lk c.comm = [some o.group, none] → s.collOf lk c.id o.group = some (op, o, c) →
      o.mirror = 0 → s.opAlive o = true → o.pos = 0 → l ≠ [] → l.length ≠ c.chunkElems 0 * c.size →
      (∀ r, (s.launch lk).coll c.id = some r → r.done = []) →
        ∃ t, exec (.collChunk op [] [l]) s = .next t ∧ t.mem = s.mem ∧ t.op op = {}
          ∧ (t.group o.group).greg c.status = BitVec.ofNat 32 (4 * 2 ^ 28))
  ∧ (∀ (s : State) (op : Nat) (c : CollCmd) (late : List Nat) (peers : List (List Byte)) (gk : Nat),
      let lk := (s.team (s.op op).team).launch
      (s.op op).live = true → (s.op op).kind = .coll c → some gk ∈ s.ranksOf lk c.comm → s.collOf lk c.id gk = none →
      (∀ r, (s.launch lk).coll c.id = some r → r.failed = false ∧ r.done = []) →
      (∀ r, r ∉ late) → exec (.collChunk op late peers) s = .next s)
  ∧ ∀ (c : CollCmd) (m : Nat) (l : List Marked), (c.fmt ≤ 2) → c.oper ≤ 3 → (c.oper = 3 → c.root = 0) → l.length = m * c.size →
      (∀ x ∈ l, x.2 = false) → collResult c m [some l] = l

/-- PAGE_WALK_COMPLETE and the events of the caches (15 R311 to R314, 09 R191 to R195, 10 R222, 11 R237 to R239, 14 R307, 19 R372, R374). A walk that
finds a leaf puts it into the TLBs and lets the waiting groups go on; one that finds none marks the page for their packets and for the
engines' commands. What needs bytes that a slice lacks asks for them and waits. A fill waits to be served and keeps bytes already dirty; a
write-back waits its turn, is merged at the home slice by its mask under the next tag, and its copies on other
dies go and are acknowledged before it is answered. That a fill fires at the slice and again in L1 is log 13's choice. -/
def Obligations.CacheEvents : Prop :=
  (∀ (s : State) (k : Nat),
    let w := s.walks.get {} k
    let r := (s.walkRoot w.root w.va).1
    let cold := (s.die w.die).tlb.find? (fun e => e.covers w.qidx w.va) = none
    let lack := s.lacking w.qidx (r.map fun a => (a, 16))
    (w.live = false → exec (.pageWalkComplete k) s = .next s)
    ∧ (w.live = true → w.stale = true → ∃ t, exec (.pageWalkComplete k) s = .next t ∧ t.clusters = s.clusters ∧ t.dies = s.dies
        ∧ t.walks.get {} k = {} ∧ ∀ gk, (s.group gk).live = true → (s.group gk).wait = .walk k → t.group gk = { s.group gk with wait := .none })
    ∧ (w.live = true → w.stale = false → cold → s.walkEngine k = false → exec (.pageWalkComplete k) s = .next s)
    ∧ (w.live = true → w.stale = false → cold → s.walkEngine k = true → (∀ a ∈ r, s.lineBusy (a / 256) 0 = false) → lack ≠ [] →
        exec (.pageWalkComplete k) s = .next (s.wantHome (w.clusters.headD 0) w.qidx 16 lack))
    ∧ (∀ pte b, w.live = true → w.stale = false → cold → (s.walkRoot w.root w.va).2 = some (pte, b) → s.walkEngine k = true → lack = [] →
        (∀ a ∈ r, s.lineBusy (a / 256) 0 = false) →
          ∃ t, exec (.pageWalkComplete k) s = .next t ∧ t.walks.get {} k = {}
            ∧ ((∀ j, (s.resv.get {} j).share = none) →
                ∀ cl ∈ w.clusters, ∃ e ∈ (t.cluster cl).tlb, e.covers w.qidx w.va = true ∧ e.pte = pte ∧ e.bits = b)
            ∧ (∃ e ∈ (t.die w.die).tlb, e.covers w.qidx w.va = true ∧ e.pte = pte)
            ∧ ∀ gk, (s.group gk).live = true → (s.group gk).wait = .walk k →
              t.group gk = { s.group gk with wait := .none, spare := (t.group gk).spare }
                ∧ ∃ e ∈ (t.cluster (clusterOf gk)).tlb ++ (t.group gk).spare, e.qidx = w.qidx ∧ e.va = w.va / 2 ^ b * 2 ^ b ∧ e.bits = b)
    ∧ (w.live = true → w.stale = false → cold → (s.walkRoot w.root w.va).2 = none → s.walkEngine k = true → lack = [] →
        (∀ a ∈ r, s.lineBusy (a / 256) 0 = false) → ∃ t, exec (.pageWalkComplete k) s = .next t ∧ t.walks.get {} k = {}
          ∧ (∀ j ∈ w.ops, (s.op j).live = true → w.va / 65536 ∈ (t.op j).noPage)
          ∧ ∀ gk, (s.group gk).live = true → (s.group gk).wait = .walk k → (t.group gk).wait = .none ∧ w.va / 65536 ∈ (t.group gk).noPage))
  ∧ (∀ (s : State) (q cl sec : Nat),
      let r := s.req q
      let ahead := s.passing (· == cl) (sec / 4) = true ∨ (homeDie (sec * 64) = dieOf cl ∧ s.lineBusy (sec / 4) 0 = true)
      r.live = true →
        (r.kind = .fill cl sec none → ahead → s.served q = false)
        ∧ (r.kind = .fill cl sec none → s.served q = false → exec (.sectorFillArrival q) s = .next s)
        ∧ (r.kind = .fill cl sec none → s.served q = true → s.sliceHas (dieOf cl) sec = true →
            ∃ t, exec (.sectorFillArrival q) s = .next t ∧ SameBytes s t
              ∧ t.req q = r.turn s.time.toNat (.fill cl sec (some (s.sliceSector (dieOf cl) sec)))
                  (toCluster (dieOf cl * 32 + sliceNo (sec * 64)) cl))
        ∧ (r.kind = .fill cl sec none → s.served q = true → s.sliceHas (dieOf cl) sec = false →
            exec (.sectorFillArrival q) s = .next (s.askFill (dieOf cl) sec cl r.qidx 64 q))
        ∧ (∀ v, r.kind = .fill cl sec (some v) → r.legs ≠ [] → exec (.sectorFillArrival q) s = .next s)
        ∧ (∀ bs p, r.kind = .fill cl sec (some (bs, p)) → r.legs = [] → (s.l1Line cl (sec / 4)).live = true → bs.length = 64 →
            let ln := s.l1Line cl (sec / 4)
            ∃ t, exec (.sectorFillArrival q) s = .next t ∧ SameBytes s t ∧ t.req q = {}
              ∧ (t.l1Line cl (sec / 4)).valid.getLsbD (sec % 4) = true ∧ (t.l1Line cl (sec / 4)).dirty = ln.dirty
              ∧ ∀ i, i < 64 → (t.l1Line cl (sec / 4)).data.get 0 (64 * (sec % 4) + i) =
                  if ln.dirty.getLsbD (64 * (sec % 4) + i) = true then ln.data.get 0 (64 * (sec % 4) + i) else bs.getD i 0))
  ∧ (∀ (s : State) (q die l : Nat) (ws : List Want),
      let r := s.req q
      let home := homeDie (l * 256)
      let x := s.slice (homeSlice (l * 256))
      let e := x.dir.get {} l
      let lack := ws.filter fun w => (s.lacking r.qidx [(w.sector * 64, 64)]).contains w.sector
      let full := x.dir.filter fun d => d.2.v && dirSet d.1 == dirSet l
      r.live = true → r.kind = .l2fill die l ws → die < 4 → (∀ w ∈ ws, w.sector / 4 = l) →
        (s.served q = false → exec (.l2FillArrival q) s = .next s)
        ∧ (home ≠ die → s.lineBusy l 0 = true → s.served q = false)
        ∧ (s.served q = true → home = die → ∃ t, exec (.l2FillArrival q) s = .next t ∧ t.req q = {}
          ∧ q ∉ (t.slice (homeSlice (l * 256))).misses
          ∧ ((x.line l).live = true → ∀ w ∈ ws, t.homeHas (w.sector * 64) = true)
          ∧ ∀ i, i < 256 → t.homeByte (l * 256 + i) = s.homeByte (l * 256 + i))
        ∧ (s.served q = true → home ≠ die → lack ≠ [] → exec (.l2FillArrival q) s
            = .next (lack.foldl (fun s w => s.askFill home w.sector w.cluster w.qidx w.bytes 0) s))
        ∧ (∀ v d, s.served q = true → home ≠ die → lack = [] → e.v = false → 16 ≤ full.length → dirVictim full = some (v, d) →
            exec (.l2FillArrival q) s = .next (s.sendInvs v r.cluster r.qidx))
        ∧ (s.served q = true → home ≠ die → lack = [] → e.v = true → s.passing (dieOf · == die) l = false →
            ((s.slice (die * 32 + sliceNo (l * 256))).line l).live = true →
            ∃ t, exec (.l2FillArrival q) s = .next t ∧ t.req q = {}
              ∧ (∀ w ∈ ws, ((t.slice (die * 32 + sliceNo (l * 256))).line l).valid.getLsbD (w.sector % 4) = true)
              ∧ ((t.slice (homeSlice (l * 256))).dir.get {} l).pres.getLsbD die = true))
  ∧ (∀ (s : State) (q l : Nat) (m : BitVec 256) (data : Tab Byte) (owner : Nat) (poison : BitVec 4) (sys : Bool),
      let r := s.req q
      let key := homeSlice (l * 256)
      let x := s.slice key
      r.live = true → r.kind = .wb l m data owner poison sys →
        (r.offered = false → r.legs ≠ [.slice key] → exec (.writebackFlitOffer q) s = .next s)
        ∧ (r.offered = false → r.legs = [.slice key] → x.wbuf.length < 16 → s.mustCircle q l = false →
          ∃ t, exec (.writebackFlitOffer q) s = .next t ∧ t.req q = { r with offered := true, legs := [] }
            ∧ (t.slice key).wbuf = x.wbuf ++ [q])
        ∧ (r.offered = false → r.legs = [.slice key] → x.wbuf.length < 16 → s.mustCircle q l = true → exec (.writebackFlitOffer q) s = .next s)
        ∧ (r.offered = false → r.legs = [.slice key] → 16 ≤ x.wbuf.length →
            ∃ t, exec (.writebackFlitOffer q) s = .next t ∧ t.req q = { r with circled := true } ∧ t.slices = s.slices)
        ∧ (r.offered = true → ((∃ e ∈ x.locks, e.1 = l) ∨ x.wbuf.head? ≠ some q) → exec (.l1WritebackArrival q) s = .next s)
        ∧ (r.offered = true → (∀ e ∈ x.locks, e.1 ≠ l) → x.wbuf.head? = some q →
            ∃ t, exec (.l1WritebackArrival q) s = .next t ∧ (t.slice key).seq = x.seq + 1 ∧ q ∉ (t.slice key).wbuf
              ∧ (∀ i, i < 256 → t.homeByte (l * 256 + i)
                  = if m.getLsbD i = true ∧ s.storable owner (l * 256 + i) = true then
                      if s.reservedByte (l * 256 + i) = true then data.get 0 i &&& 0xC0 else data.get 0 i
                    else s.homeByte (l * 256 + i))
              ∧ (s.holders l = [] → (x.dir.get {} l).pend = 0 → (t.req q).kind = if sys then .memWrite l else .ack)))
  ∧ (∀ (s : State) (q l d : Nat),
      let r := s.req q
      let key := homeSlice (l * 256)
      r.live = true → d < 4 →
        (r.kind = .inv l d → r.legs = [] → d ≠ homeDie (l * 256) → ∃ t, exec (.directoryInvalidation q) s = .next t ∧ (t.req q).kind = .invAck l d
          ∧ t.mem = s.mem ∧ (((t.slice (d * 32 + sliceNo (l * 256))).line l).live = false
              ∨ ((t.slice (d * 32 + sliceNo (l * 256))).line l).valid = 0))
        ∧ (r.kind = .invAck l d → r.legs = [] → ∃ t, exec (.invalidationAck q) s = .next t ∧ SameBytes s t ∧ t.req q = {}
            ∧ ((t.slice key).dir.get {} l).pend.getLsbD d = false
            ∧ ∀ k sys, k ≠ q → (s.req k).kind = .stamped l [d] sys → (t.req k).kind = if sys then .memWrite l else .ack)
        ∧ (r.kind = .memWrite l → s.served q = true → ∃ t, exec (.writeToMemoryComplete q) s = .next t ∧ (t.req q).kind = .ack
            ∧ ∀ i, i < 256 → ((s.slice key).line l).live = true → ((s.slice key).line l).dirty.getLsbD i = true →
                t.memByte (l * 256 + i) = ((s.slice key).line l).data.get 0 i)
        ∧ (r.legs ≠ [] → 64 ≤ s.rounds r → exec (.fabricPromotion q) s = .next (s.setReq q { r with pro := true }))
        ∧ (r.legs = [] ∨ s.rounds r < 64 → exec (.fabricPromotion q) s = .next s))
  ∧ ∀ (s : State) (d l : Nat),
      let key := homeSlice (l * 256)
      let e := (s.slice key).dir.get {} l
      let gone := e.v = true ∧ e.pres.getLsbD d = true ∧ ((s.slice (d * 32 + sliceNo (l * 256))).line l).live = false
      d < 4 →
        (gone → ∃ t, exec (.remoteEvictionNotice d l) s = .next t ∧ SameBytes s t ∧ ((t.slice key).dir.get {} l).pres.getLsbD d = false)
        ∧ (¬ gone → exec (.remoteEvictionNotice d l) s = .next s)

/-! ### Groups, strands and messages -/

/-- GROUP_END, STRAND_MERGE, JOIN_DEADLINE, SWITCH_HOLD_BREAK, MSEND_DELIVERY and MSEND_RETRY (05 R87, R91, 08 R163, R164, R174, 12 R262 to
R266, 17 R345). A group that has ended frees its slot when nothing of it is under way; two strands that stand alike become one; a
deadline lets a `JOIN` go on; a broken hold goes back to its first packet and uncounts what it has issued of the run. A message goes into the next slot of the
receiver's ring, in place or in its saved image, and moves TAIL; a full ring is tried again until the retries are used up. That a group
which has halted keeps its slot, and where a broken run restarts, are log 45 (DEDUCED). -/
def Obligations.GroupEvents : Prop :=
  (∀ (s : State) (g : Nat),
    let x := s.group g
    let idle := x.live = true ∧ x.ended = true ∧ x.paths = [] ∧ x.fence = none ∧ (∀ e ∈ s.ops, e.2.live = true → e.2.group ≠ g)
      ∧ (s.launch x.place.launch).paired = false
    (idle → ∃ t, exec (.groupEnd g) s = .next t ∧ t.group g = {} ∧ (∀ k, k ≠ g → t.group k = s.group k) ∧ SameBytes s t)
    ∧ ((x.live = false ∨ x.ended = false ∨ x.paths ≠ [] ∨ x.fence ≠ none) → exec (.groupEnd g) s = .next s))
  ∧ (∀ (s : State) (g lo hi : Nat),
      let x := s.group g
      let a := x.strand lo
      let b := x.strand hi
      (x.live = true → lo < hi → hi < 4 → mergeable a b = true → a.park = .running → b.park = .running →
        (∀ k d, k < 4 → (x.strand k).park ≠ .join d) →
          ∃ t, exec (.strandMerge g lo hi) s = .next t ∧ SameBytes s t
            ∧ ((t.group g).strand lo).members = a.members ||| b.members ∧ ((t.group g).strand lo).exm = a.exm ||| b.exm
            ∧ ((t.group g).strand lo).pc = a.pc ∧ ((t.group g).strand lo).park = .running
            ∧ ((t.group g).strand lo).drain = x.openOps lo ++ x.openOps hi
            ∧ (∀ j, ((t.group g).strand lo).trips.get 0 j = max (a.trips.get 0 j) (b.trips.get 0 j))
            ∧ ((t.group g).strand hi).live = false ∧ (t.group g).lanes = x.lanes ∧ (t.group g).g = x.g)
      ∧ (mergeable a b = false → exec (.strandMerge g lo hi) s = .next s))
  ∧ (∀ (s : State) (g st d : Nat), ((s.group g).strand st).park = .join d →
      ((s.group g).live = true → d ≤ s.clk (clusterOf g) → exec (.joinDeadline g st) s = .next (s.completeJoin g st))
      ∧ (s.clk (clusterOf g) < d → exec (.joinDeadline g st) s = .next s))
  ∧ (∀ (s : State) (cl q : Nat) (h : Hold), (s.quarter cl q).hold = some h →
      (h.since + 32 ≤ s.clk cl → ∃ t, exec (.switchHoldBreak cl q) s = .next t ∧ SameBytes s t ∧ (t.quarter cl q).hold = none
        ∧ (let late := (s.group h.group).flight.map Flight.strand = some h.strand
          t.group h.group = { (s.group h.group).withStrand h.strand (fun st => { st with pc := h.first, block := [] }) with
            progress := (s.group h.group).progress - BitVec.ofNat 64 (if late then h.packets - 1 else h.packets)
            flight := if late then none else (s.group h.group).flight
            lost := (s.group h.group).lost ||| h.latches, awaits := (s.holdingOps h.group h.strand).1
            awaitsFlight := (s.holdingOps h.group h.strand).2 }))
      ∧ (s.clk cl < h.since + 32 → exec (.switchHoldBreak cl q) s = .next s))
  ∧ ∀ (s : State) (op team tries : Nat) (again : Bool) (c : SendCmd) (slot tail : Nat),
      let ev : Instr := if again then .msendRetry op team else .msendDelivery op team
      let o := s.op op
      let x := s.team team
      let l := s.launch x.launch
      let b := ((l.image.rings[c.ring]?).map Sync.base).getD 0
      let bs := messageBytes c (s.team o.team).inCohort ((s.team o.team).seqs.get 0 team)
      let due := o.live = true ∧ o.kind = .send c ∧ c.pending = [(team, tries, again)] ∧ o.mirror = 0 ∧ s.opAlive o = true ∧ x.live = true
        ∧ l.live = true ∧ l.paired = false ∧ s.behind op team o c = false
      let apart := slot + bs.length ≤ b + 8 ∨ b + 12 ≤ slot
      (due → x.phase = .running → ringSlot (fun a => x.read a 4) b = some (slot, tail) → apart → s.mayWrite team slot bs.length →
        ∃ t, exec ev s = .next t ∧ t.mem = s.mem ∧ t.op op = {} ∧ (t.group o.group).greg c.out = BitVec.ofNat 32 c.refused
          ∧ (∀ i, i < bs.length → (t.team team).scratch.get 0 (slot + i) = bs.getD i 0)
          ∧ (t.team team).read (b + 8) 4 = (tail + 1) % 2 ^ 32
          ∧ (∀ a, (a < slot ∨ slot + bs.length ≤ a) → (a < b + 8 ∨ b + 12 ≤ a) → (t.team team).scratch.get 0 a = x.scratch.get 0 a)
          ∧ (t.team o.team).seqs.get 0 team = (s.team o.team).seqs.get 0 team + 1)
      ∧ (due → x.phase = .running → ringSlot (fun a => x.read a 4) b = none → c.retry ≤ tries →
          ∃ t, exec ev s = .next t ∧ SameBytes s t ∧ t.op op = {}
            ∧ (t.group o.group).greg c.out = BitVec.ofNat 32 (c.refused ||| 2 ^ x.inCohort))
      ∧ (due → x.phase = .running → ringSlot (fun a => x.read a 4) b = none → tries < c.retry →
          ∃ t, exec ev s = .next t ∧ SameBytes s t ∧ t.op op = { o with kind := .send { c with pending := [(team, tries + 1, true)] } })
      ∧ (∀ i, due → x.phase = .saved → x.image = some i → ringSlot (fun a => Tab.readLe i.scratch a 4) b = some (slot, tail) → apart →
          ∃ t j, exec ev s = .next t ∧ SameBytes s t ∧ t.op op = {} ∧ (t.team team).image = some j
            ∧ (∀ k, k < bs.length → j.scratch.get 0 (slot + k) = bs.getD k 0) ∧ Tab.readLe j.scratch (b + 8) 4 = (tail + 1) % 2 ^ 32)
      ∧ (o.live = true → o.kind = .send c → c.pending = [(team, tries, !again)] → exec ev s = .next s)
      ∧ (o.live = true → o.kind = .send c → s.behind op team o c = true → exec ev s = .next s)

/-! ### Command packets and quotations (chapters 12, 13, 16) -/

/-- QUEUE_PACKET_TAKE, QUEUE_SLOT_SWAP and the packets WAIT, SIGNAL, COPY, TIMESTAMP, CHECKPOINT and ROLLBACK (12 R252 to R257, 13 R273, R288,
18 R356, R357, R361, 20 R384). A bad packet gets its record at once and HEAD passes it; a TAIL too far ahead stops the queue with the record
OVERRUN; a good one leaves HEAD, but a WAIT, which does so when its page is found. A packet acts when its turn has come and the lines and
entries that it needs may be read, and its record holds its status and datum; a queue whose WAIT lacks a page comes back into a slot once
that is resident. Log entries 29 (HEAD of a packet of a bad length), 47 (the record of an OVERRUN), 86 (the functions that a packet needs) and
87 (TRANSL of a page that is open to firmware alone) are the model's. -/
def Obligations.PacketEvents : Prop :=
  (∀ (s : State) (q : Nat),
    let Q := s.queue q
    let d := s.descriptor Q
    let slot := fun (k : Nat) => descBase d + 64 * ((descHead d + k) % descSlots d)
    let h := leNat (s.homeBytes (slot 0) 16)
    let len := bits h 31 24
    let body := ((s.homeBytes (slot 0) 64).drop 16) ++ (List.range (min 4 len - 1)).flatMap fun k => s.homeBytes (slot (k + 1)) 64
    let idle := Q.live = false ∨ Q.slot = none ∨ Q.stopped = true ∨ ∃ p ∈ Q.packets, (s.packet p).started = false ∨ (s.packet p).eventAt ≠ none
    let cpa := bits h 127 64
    let record := fun (t : State) (status : Nat) => isGlobal cpa = true → cpa ≠ 0 → cpa % 16 = 0 → ∀ i, i < 16 →
      t.memByte (cpa + i) = (field 4 status ++ field 4 (bits h 63 32) ++ field 8 0).getD i 0
    let wide := len = 0 ∨ 4 < len
    let p : Packet := { live := true, queue := q, die := Q.die, seq := BitVec.ofNat 32 (bits h 63 32), type := h % 256, cpa := cpa
                        acqe := h.testBit 23, acqs := bits h 22 20, rele := h.testBit 19, rels := bits h 18 16, ord := h.testBit 15
                        len := len, atHead := h % 256 == 5, body := body }
    let news := (descTail d + 2 ^ 32 - descHead d) % 2 ^ 32
    (idle → exec (.queuePacketTake q) s = .next s)
    ∧ (¬ idle → descTail d = descHead d → ∃ t, exec (.queuePacketTake q) s = .next t ∧ t.mem = s.mem
        ∧ t.queue q = { Q with tail := BitVec.ofNat 32 (descTail d), hit := false })
    ∧ (¬ idle → descTail d ≠ descHead d → descSlots d < news →
        ∃ t, exec (.queuePacketTake q) s = .next t ∧ (t.queue q).stopped = true ∧ t.packets = s.packets ∧ record t 2
          ∧ (cpa = 0 → t.mem = s.mem))
    ∧ (¬ idle → descTail d ≠ descHead d → news ≤ descSlots d → packetBad h body = true →
        ∃ t, exec (.queuePacketTake q) s = .next t ∧ t.packets = s.packets ∧ (t.queue q).packets = Q.packets ∧ record t 1
          ∧ (cpa = 0 → isGlobal Q.desc = true → Q.desc % 32 = 0 →
              descHead (t.descriptor Q) = (descHead d + if wide then 1 else len) % 2 ^ 32))
    ∧ (¬ idle → descTail d ≠ descHead d → news ≤ descSlots d → packetBad h body = false → s.functionsReady p = true →
        ∃ t pk, exec (.queuePacketTake q) s = .next t ∧ s.packet pk = {} ∧ (t.queue q).packets = Q.packets ++ [pk] ∧ t.packet pk = p
          ∧ (h % 256 ≠ 5 → isGlobal Q.desc = true → Q.desc % 32 = 0 → descHead (t.descriptor Q) = (descHead d + len) % 2 ^ 32)
          ∧ (h % 256 = 5 → t.mem = s.mem))
    ∧ (¬ idle → descTail d ≠ descHead d → news ≤ descSlots d → packetBad h body = false → s.functionsReady p = false →
        exec (.queuePacketTake q) s = .next s))
  ∧ (∀ (s : State) (pk : Nat),
      let p := s.packet pk
      let ends := fun (o : Outcome) (status datum : Nat) => ∃ t, o = .next t ∧ Completed s t pk status datum
      let u := s.startPacket pk
      let word := s.frontWord p.pa
      let busy := s.piecesBusy [(p.pa, 4)] = true
      let open' := s.queueBusy p.queue (p.num 0 8) = false
      let walked := p.type = 5 ∧ s.turn pk = true ∧ s.queueBusy p.queue (p.num 0 8) = false
      (walked → s.queueLeaf p.queue (p.num 0 8) = none → s.packetCls pk = 0 → ends (exec (.waitPacket pk) s) 6 0)
      ∧ (walked → s.queueLeaf p.queue (p.num 0 8) = none → s.packetCls pk ≠ 0 →
          ∃ t, exec (.waitPacket pk) s = .next t ∧ t.packet pk = { p with eventAt := some s.time.toNat } ∧ t.mem = s.mem)
      ∧ (∀ e a pa, walked → s.queueLeaf p.queue (p.num 0 8) = some (e, a) →
          (s.packetCls pk ≠ 0 ∨ e.getLsbD 5 = true) → s.queueAddr p.queue (p.num 0 8) 2 = some pa →
            ∃ t, exec (.waitPacket pk) s = .next t
              ∧ t.packet pk = { p with atHead := false, started := true, watching := true, pa := pa })
      ∧ (∀ e a pa, p.type = 5 → p.live = true → p.started = true → p.watching = false → p.eventAt = none →
          s.queueBusy p.queue (p.num 0 8) = false → s.queueLeaf p.queue (p.num 0 8) = some (e, a) →
          (s.packetCls pk ≠ 0 ∨ e.getLsbD 5 = true) → s.queueAddr p.queue (p.num 0 8) 2 = some pa →
          (∀ k ∈ (s.queue p.queue).packets, (s.packet k).watching = false) →
            exec (.waitPacket pk) s = .next (s.modPacket pk fun p => { p with watching := true, pa := pa }))
      ∧ ((p.type ≠ 5 ∨ s.turn pk = false ∧ (p.live = false ∨ p.started = false ∨ p.watching = true ∨ p.eventAt ≠ none)) →
          exec (.waitPacket pk) s = .next s)
      ∧ (p.live = true → p.type = 5 → p.watching = true → ¬ busy → waitCond 5 false word (p.num 8 4) = true →
          ends (exec (.waitPacketSatisfied pk) s) 0 word)
      ∧ ((p.watching = false ∨ busy ∨ waitCond 5 false word (p.num 8 4) = false) → exec (.waitPacketSatisfied pk) s = .next s)
      ∧ (∀ at', p.live = true → p.eventAt = some at' → at' + 50000 ≤ s.time.toNat → (s.queue p.queue).slot ≠ none →
          ∃ t, exec (.waitPageTimeout pk) s = .next t ∧ (t.queue p.queue).slot = none ∧ t.packets = s.packets ∧ t.mem = s.mem)
      ∧ (∀ at', p.eventAt = some at' → s.time.toNat < at' + 50000 → exec (.waitPageTimeout pk) s = .next s)
      ∧ (p.live = true → p.eventAt ≠ none → open' → ends (exec (.translationEventServed pk false) s) 6 0)
      ∧ (p.live = true → p.eventAt ≠ none → open' → s.queueLeaf p.queue (p.num 0 8) ≠ none →
          ∃ t, exec (.translationEventServed pk true) s = .next t ∧ t.packet pk = { p with eventAt := none } ∧ t.mem = s.mem)
      ∧ (p.live = true → p.eventAt ≠ none → s.queueLeaf p.queue (p.num 0 8) = none → exec (.translationEventServed pk true) s = .next s)
      ∧ ((p.eventAt = none ∨ ¬ open') → ∀ b, exec (.translationEventServed pk b) s = .next s)
      ∧ (p.type = 6 → s.turn pk = true → s.signalOpen p = true → u.queueAddr p.queue (p.num 0 8) 3 = none → ends (exec (.signalPacket pk) s) 6 0)
      ∧ (s.signalOpen p = false → exec (.signalPacket pk) s = .next s)
      ∧ (∀ pa, p.type = 6 → s.turn pk = true → s.signalOpen p = true → u.queueAddr p.queue (p.num 0 8) 3 = some pa →
          let old := u.frontWord pa
          ∃ t, exec (.signalPacket pk) s = .next t ∧ Completed s t pk 0 old
            ∧ (p.cpa = 0 → p.atHead = false → isGlobal pa = true → pa % 4 = 0 → (∀ i, i < 4 → s.storable 0 (pa + i) = true) →
                leNat (t.homeBytes pa 4) = (if p.body.getD 12 0 = 0 then old + p.num 8 4 else p.num 8 4) % 2 ^ 32
                  ∧ leNat (t.readMem pa 4) = leNat (t.homeBytes pa 4)))
      ∧ (s.copyOpen p = false → exec (.copyPacket pk) s = .next s)
      ∧ (∀ a b n, p.type = 7 → s.turn pk = true → s.copyOpen p = true → p.num 16 8 = n → n ≠ 0 →
          u.queuePieces p.queue 2 (n / 65536 + 2) (p.num 0 8) n = some [(a, n)] →
          u.queuePieces p.queue 3 (n / 65536 + 2) (p.num 8 8) n = some [(b, n)] →
            ∃ t, exec (.copyPacket pk) s = .next t ∧ Completed s t pk 0 n
              ∧ (p.cpa = 0 → p.atHead = false → (∀ i, i < n → isGlobal (a + i) = true ∧ isGlobal (b + i) = true) →
                  (∀ i, i < n → s.storable 0 (b + i) = true) →
                  ∀ i, i < n → t.homeByte (b + i) = s.homeByte (a + i)))
      ∧ (p.type = 7 → s.turn pk = true → s.copyOpen p = true → u.queuePieces p.queue 2 (p.num 16 8 / 65536 + 2) (p.num 0 8) (p.num 16 8) = none →
          ends (exec (.copyPacket pk) s) 6 0)
      ∧ (p.type = 8 → s.turn pk = true → ends (exec (.timestampPacket pk) s) 0 s.time.toNat)
      ∧ (p.type = 9 → s.turn pk = true → s.protectedOn p = none → ends (exec (.checkpointPacket pk) s) 1 0)
      ∧ (p.type = 9 → s.turn pk = true → s.protectedOn p ≠ none → ∃ t, exec (.checkpointPacket pk) s = .next t ∧ t.mem = s.mem
          ∧ t.rel = { s.rel with closeDue := true } ∧ t.packet pk = { p with started := true, watching := true })
      ∧ (s.rel.closing = true → exec (.rollbackPacket pk) s = .next s)
      ∧ (s.rel.closing = false → p.type = 10 → s.turn pk = true → s.protectedOn p = none → ends (exec (.rollbackPacket pk) s) 1 0)
      ∧ (∀ lk, s.rel.closing = false → p.type = 10 → s.turn pk = true → s.protectedOn p = some lk → s.rel.unrecoverable = true →
          ends (exec (.rollbackPacket pk) s) 5 0)
      ∧ (∀ lk, s.rel.closing = false → p.type = 10 → s.turn pk = true → s.protectedOn p = some lk → s.rel.unrecoverable = false →
          ends (exec (.rollbackPacket pk) s) 0 (s.launch lk).boundary)
      ∧ (s.turn pk = false → exec (.signalPacket pk) s = .next s ∧ exec (.copyPacket pk) s = .next s ∧ exec (.timestampPacket pk) s = .next s
          ∧ exec (.checkpointPacket pk) s = .next s ∧ exec (.rollbackPacket pk) s = .next s))
  ∧ ∀ (s : State) (q k : Nat),
      ((s.queue q).live = true → ∃ t, exec (.queueSlotSwap q none) s = .next t ∧ (t.queue q).slot = none ∧ t.mem = s.mem)
      ∧ ((s.queue q).live = true → s.pageAbsent (s.queue q) = true → exec (.queueSlotSwap q (some k)) s = .next s)
      ∧ ((s.queue q).live = true → (s.queue q).slot = none → k < 64 → k ∉ s.slotsTaken (s.queue q).die → s.pageAbsent (s.queue q) = false →
          ∃ t, exec (.queueSlotSwap q (some k)) s = .next t ∧ (t.queue q).slot = some k ∧ t.mem = s.mem)
      ∧ ((s.queue q).live = true → k ∈ s.slotsTaken (s.queue q).die → exec (.queueSlotSwap q (some k)) s = .next s)

/-- QUOTE, ACCEPT, DECLINE, LAUNCH and the ends of a quotation (01 R20, 16 R320 to R332, 18 R356). A QUOTE is refused with a code of its own or
makes a QUOTED entry; an ACCEPT within the validity window takes every share of the plan or none; a DECLINE or the end of the validity window frees the entry and
its shares; a LAUNCH of an ACCEPTED entry asks for a place, and has not started by that (log 16, DEDUCED). Which free entry a quotation takes,
the spec leaves open. -/
def Obligations.QuotationEvents : Prop :=
  ∀ (s : State) (pk qi die : Nat),
    let p := s.packet pk
    let n := p.num 0 2
    let q := s.quote n
    let x := s.quote qi
    let now := s.time.toNat
    let ends := fun (o : Outcome) (status datum : Nat) => ∃ t, o = .next t ∧ Completed s t pk status datum
    let u := s.startPacket pk
    let b := quoteBody p.body
    let f := flowOf (readImage (u.imageAt b.img))
    let walk := (u.planClusters (descMask (u.descriptor (u.queue p.queue))) b f).bind fun cs => u.quoteWalk b (u.imageAt b.img) f cs
    let reads := s.requestBusy b.img b.comm = false
    let asks := p.type = 1 ∧ s.turn pk = true ∧ reads ∧ u.earlyRefusal p.body b = 0
    let freed := fun (t : State) (k : Nat) => t.quote k = {} ∧ ∀ d, d < 4 → t.resv.get {} (d * 4096 + k) = {}
    (¬ reads → exec (.quote pk) s = .next s)
    ∧ (p.type = 1 → s.turn pk = true → reads → u.earlyRefusal p.body b ≠ 0 → ends (exec (.quote pk) s) 3 (u.earlyRefusal p.body b))
    ∧ (asks → walk = none → ends (exec (.quote pk) s) 3 0x11)
    ∧ (∀ z, asks → walk = some z → z.shares.all u.shareFree = false → ends (exec (.quote pk) s) 3 0x11)
    ∧ (∀ z, asks → walk = some z → z.shares.all u.shareFree = true → s.freeQuotes = [] → ends (exec (.quote pk) s) 3 0x10)
    ∧ (∀ z, asks → walk = some z → z.shares.all u.shareFree = true → s.freeQuotes ≠ [] →
        ∃ t k, exec (.quote pk) s = .next t ∧ k ∈ s.freeQuotes
          ∧ Completed s t pk 0 (k + datumField z.tmax * 2 ^ 12 + datumField z.emax * 2 ^ 38)
          ∧ (t.quote k).state = .quoted ∧ (t.quote k).tmax = z.tmax ∧ (t.quote k).emax = z.emax ∧ (t.quote k).plan = z.shares
          ∧ (t.quote k).vdl = now + validity b.val ∧ ∀ j, j ≠ k → t.quote j = s.quote j)
    ∧ (p.type = 2 → s.turn pk = true → q.state ≠ .quoted → ends (exec (.accept pk) s) 4 1)
    ∧ (p.type = 2 → s.turn pk = true → q.state = .quoted → q.vdl ≤ now →
        ∃ t, exec (.accept pk) s = .next t ∧ Completed s t pk 4 1 ∧ freed t n)
    ∧ (p.type = 2 → s.turn pk = true → q.state = .quoted → now < q.vdl → u.acceptFails q = true → ends (exec (.accept pk) s) 4 0)
    ∧ (p.type = 2 → s.turn pk = true → q.state = .quoted → now < q.vdl → u.acceptFails q = false →
        ∃ t, exec (.accept pk) s = .next t ∧ Completed s t pk 0 0
          ∧ t.quote n = { q with state := .accepted, vdl := now + validity q.val }
          ∧ ((q.plan.map Share.die).Nodup → ∀ h ∈ q.plan, (t.resv.get {} (h.die * 4096 + n)).live = true
              ∧ (t.resv.get {} (h.die * 4096 + n)).share = some h))
    ∧ (p.type = 3 → s.turn pk = true → (q.state = .quoted ∨ q.state = .accepted) →
        ∃ t, exec (.decline pk) s = .next t ∧ Completed s t pk 0 0 ∧ freed t n)
    ∧ (p.type = 3 → s.turn pk = true → q.state ≠ .quoted → q.state ≠ .accepted → ends (exec (.decline pk) s) 4 1)
    ∧ (x.state = .quoted → x.vdl ≤ now → ∃ t, exec (.quotationExpiry qi) s = .next t ∧ t.mem = s.mem ∧ freed t qi)
    ∧ ((x.state ≠ .quoted ∨ now < x.vdl) → exec (.quotationExpiry qi) s = .next s)
    ∧ (x.state = .accepted → x.vdl ≤ now → ∃ t, exec (.acceptedValidityExpiry qi) s = .next t ∧ freed t qi)
    ∧ ((x.state ≠ .accepted ∨ now < x.vdl) → exec (.acceptedValidityExpiry qi) s = .next s)
    ∧ (p.type = 4 → s.turn pk = true → (q.state ≠ .accepted ∨ q.vdl ≤ now) → ends (exec (.launchPacket pk) s) 4 5)
    ∧ (p.type = 4 → s.turn pk = true → q.state = .accepted → now < q.vdl → launchBad q p = true → ends (exec (.launchPacket pk) s) 1 0)
    ∧ (p.type = 4 → s.turn pk = true → q.state = .accepted → now < q.vdl → launchBad q p = false →
        (∀ e ∈ s.launches, e.2.live = true → e.2.qidx ≠ n) → s.requestBusy q.img q.comm = false →
          ∃ t lk, exec (.launchPacket pk) s = .next t ∧ t.mem = s.mem ∧ t.packet pk = { p with placing := true } ∧ (s.launch lk).live = false
            ∧ (t.launch lk).live = true ∧ (t.launch lk).qidx = n ∧ (t.launch lk).packet = pk ∧ (t.launch lk).placed = 0
            ∧ (t.launch lk).cohorts = q.cohn ∧ (t.launch lk).args = q.args)
    ∧ (s.turn pk = false → exec (.quote pk) s = .next s ∧ exec (.accept pk) s = .next s ∧ exec (.decline pk) s = .next s
        ∧ exec (.launchPacket pk) s = .next s)
    ∧ (∀ h, (s.resv.get {} (die * 4096 + qi)).live = true → (s.resv.get {} (die * 4096 + qi)).share = some h →
        ∃ t, exec (.reservationRevoked die qi) s = .next t ∧ (t.resv.get {} (die * 4096 + qi)).wayMask = 0
          ∧ (t.resv.get {} (die * 4096 + qi)).share = some { h with ways := 0, pinq := 0, mon := 0, slices := 0, tlbe := 0 }
          ∧ (x.state = .running → x.causes.length < 4 → (∀ c ∈ x.causes, c.2 < now) → (t.quote qi).causes = x.causes ++ [(5, now)])
          ∧ (x.state = .running → x.causes = [] → (t.quote qi).brc = 5 ∧ (t.quote qi).party = 2))
    ∧ ((s.resv.get {} (die * 4096 + qi)).live = false → exec (.reservationRevoked die qi) s = .next s)

/-! ### Launches and teams (chapters 13 and 18) -/

/-- LAUNCH_POLICY_APPLY and PAIR_COMPARISON, COHORT_PLACEMENT, CHILD_PLACEMENT, CHILD_COMPLETION and LAUNCH_COMPLETION (12 R258 to R260, 13 R275, 16 R333,
18 R355, R359, R361, R363 to R367, 22 R393). A policy lets the launch go on, stops it, or rolls it back to its boundary, with the lines of
the undo log as they were; a cohort is placed whole; a child's record is popped as its child is placed, and its end raises its counter;
a launch that is over frees its entry. When a launch starts is log 16, a rollback with children log 47, a counter without a page log 50, the
digest check log 52, a counter that lies in no global memory log 66 (all DEDUCED). -/
def Obligations.LaunchEvents : Prop :=
  (∀ (s : State) (k : Nat),
    let L := s.launch k
    let due := L.live = true ∧ L.policyDue = true ∧ s.markFirst k = false
    let stops := fun (code : Nat) => ∃ t, exec (.launchPolicyApply k) s = .next t ∧ (t.launch k).out = code ∧ (t.launch k).policyDue = false
      ∧ (t.launch k).placed = L.cohorts
    let back := due ∧ 2 ≤ L.policy ∧ L.sinceClose < L.rtry ∧ s.rel.unrecoverable = false
    (¬ due → exec (.launchPolicyApply k) s = .next s)
    ∧ (due → L.policy = 0 → exec (.launchPolicyApply k) s = .next (s.modLaunch k fun L => { L with policyDue := false }))
    ∧ (due → L.policy = 1 → stops 2)
    ∧ (due → 2 ≤ L.policy → (L.rtry ≤ L.sinceClose ∨ s.rel.unrecoverable = true) → stops 4)
    ∧ (back → ∃ t, exec (.launchPolicyApply k) s = .next t ∧ (t.launch k).placed = L.placedAt ∧ (t.launch k).policyDue = false
        ∧ (t.launch k).rollbacks = L.rollbacks + 1 ∧ (t.launch k).sinceClose = L.sinceClose + 1)
    ∧ (∀ r, back → s.records L.qidx = [r] → r.bytes.length = 256 → L.vault = [] → s.familyTeams k = [] → s.family k = [k] →
        ∃ t, exec (.launchPolicyApply k) s = .next t
          ∧ ∀ i, i < 256 → t.homeByte (r.line * 256 + i) = r.bytes.getD i 0 ∧ t.memByte (r.line * 256 + i) = r.bytes.getD i 0))
  ∧ (∀ (s : State) (k : Nat),
      let L := s.launch k
      let waits := L.live = false ∨ L.cohorts ≤ L.placed ∨ s.rel.undercoatBusy = true ∨ s.startOpen L = false ∨ s.placeCohort k = none
        ∨ (if L.started then s.codeBusy k [] else s.requestBusy L.img 0 || s.spaceBusy L.root L.ldb
            (L.image.dataBase L.ldb - L.ldb + L.image.data.length)) = true
      let u := s.startLaunch k
      (waits → exec (.cohortPlacement k) s = .next s)
      ∧ (¬ waits → u.beginLaunch k = none →
          ∃ t, exec (.cohortPlacement k) s = .next t ∧ (t.launch k).out = 2 ∧ (t.launch k).placed = L.cohorts ∧ t.mem = s.mem)
      ∧ (∀ v w, ¬ waits → u.beginLaunch k = some v → v.placeCohort k = some w →
          exec (.cohortPlacement k) s = .next w ∧ (w.launch k).placed = L.placed + 1
            ∧ ((s.packet L.packet).placing = true → (w.quote L.qidx).state = .running ∧ (w.quote L.qidx).tstart = s.time.toNat
              ∧ (w.packet L.packet).started = true)
            ∧ (L.teamsIn L.placed ≠ 0 → v.launch k = L → ∃ tk, (s.team tk).live = false ∧ (w.team tk).live = true ∧ (w.team tk).launch = k
              ∧ (w.team tk).cohort = L.placed ∧ (w.team tk).phase = .running)))
  ∧ (∀ (s : State) (team : Nat) (r : LaunchRec) (rest : List LaunchRec),
      let x := s.team team
      let lk := s.launches.fresh
      let free := x.live = true ∧ x.side = 0 ∧ x.partner ≠ team ∧ x.phase = .running ∧ s.rel.undercoatBusy = false ∧ (s.childrenOf x.launch).length < s.childSlots x.launch
      ((x.pend = [] ∨ x.side ≠ 0) → exec (.childPlacement team) s = .next s)
      ∧ (x.pend = r :: rest → free → (s.setLaunch lk (childOf s x.launch r)).placeCohort lk = none → exec (.childPlacement team) s = .next s)
      ∧ (x.pend = r :: rest → free → (s.setLaunch lk (childOf s x.launch r)).placeCohort lk ≠ none →
          ∃ t, exec (.childPlacement team) s = .next t ∧ (t.team team).pend = rest ∧ (t.team team).read x.tcb 4 = 4 - rest.length
            ∧ (t.launch lk).live = true ∧ (t.launch lk).parent = some x.launch ∧ (t.launch lk).args = r.args
            ∧ (t.launch lk).counter = r.counter ∧ (t.launch lk).placed = 1
            ∧ (x.partner ≠ 0 → (t.team x.partner).pend = (s.team x.partner).pend.drop 1)))
  ∧ (∀ (s : State) (k : Nat),
      let L := s.launch k
      let ends := L.live = true ∧ L.finished = false ∧ L.parent ≠ none ∧ s.teamsOver k = true
      let at_ := s.spaceAddr L.root L.counter
      let held := s.walkBusy L.root L.counter = true ∨ ∃ pa, at_ = some pa ∧ isGlobal pa = true ∧ s.lineBusy (pa / 256) 0 = true
      let u := s.endChild k
      (¬ ends → exec (.childCompletion k) s = .next s)
      ∧ (ends → L.stage = 0 → exec (.childCompletion k) s = .next (s.beginRelease k 3))
      ∧ (ends → L.stage ≠ 0 → s.releasing k = true → exec (.childCompletion k) s = .next s)
      ∧ (ends → L.stage ≠ 0 → s.releasing k = false → held → exec (.childCompletion k) s = .next s)
      ∧ (ends → L.stage ≠ 0 → s.releasing k = false → ¬ held →
          ∃ t, exec (.childCompletion k) s = .next t ∧ (L.prot = false → t.launch k = {}) ∧ (L.prot = true → (t.launch k).finished = true)
            ∧ ∀ pa, at_ = some pa → isGlobal pa = true → pa % 4 = 0 → leNat (t.homeBytes pa 4) = ((u.watched pa false).1 + 1) % 2 ^ 32))
  ∧ (∀ (s : State) (k : Nat),
      let L := s.launch k
      let p := s.packet L.packet
      let released := p.rele = false ∨ s.release k p.rels = none
      (s.launchOver k = false → exec (.launchCompletion k) s = .next s)
      ∧ (∀ t, s.launchOver k = true → p.rele = true → s.release k p.rels = some t → exec (.launchCompletion k) s = .next t)
      ∧ (s.launchOver k = true → released → ∃ t status, exec (.launchCompletion k) s = .next t ∧ Completed s t L.packet status (launchDatum L)
          ∧ (status = 0 ∨ status = 5) ∧ ((L.halts ≠ 0 ∨ L.out ≠ 0 ∨ (s.quote L.qidx).causes ≠ []) → status = 5)
          ∧ t.launch k = {} ∧ t.quote L.qidx = {} ∧ ∀ d, d < 4 → t.resv.get {} (d * 4096 + L.qidx) = {}))
  ∧ ∀ (s : State) (g p : Nat),
      let x := s.group g
      let y := s.group p
      let meet := s.partner g = some p ∧ x.place.side = 0 ∧ s.widowed g p = false ∧ s.widowed p g = false ∧ x.atPoint = true ∧ y.atPoint = true
        ∧ x.ended = y.ended ∧ x.digest = y.digest ∧ x.forcedWith y = false
      let forced := s.partner g = some p ∧ x.place.side = 0 ∧ s.widowed g p = false ∧ s.widowed p g = false ∧ x.forcedWith y = true
      let stops := ∃ t a b, exec (.pairComparison g) s = .next t
          ∧ (t.group g).halt = some a ∧ a.kind = .mismatch ∧ (t.group p).halt = some b ∧ b.kind = .mismatch
      (meet → x.digest = none → x.sig = y.sig → ∃ t, exec (.pairComparison g) s = .next t ∧ (t.group g).sig = sigInit ∧ (t.group p).sig = sigInit
        ∧ (t.group g).approved = true ∧ (t.group p).approved = true ∧ (t.group g).wait ≠ .compare ∧ (t.group p).wait ≠ .compare)
      ∧ (meet → x.digest ≠ none → ∃ t, exec (.pairComparison g) s = .next t ∧ t.mem = s.mem
          ∧ (t.group g).approved = true ∧ (t.group p).approved = true ∧ (t.group g).digest = none ∧ (t.group p).digest = none)
      ∧ (meet → x.digest = none → x.sig ≠ y.sig → stops)
      ∧ (forced → x.sig = y.sig → ∃ t, exec (.pairComparison g) s = .next t ∧ (t.group g).sig = sigInit ∧ (t.group p).sig = sigInit
          ∧ (t.group g).pressed = false)
      ∧ (s.partner g = some p → x.place.side = 0 → (s.widowed g p = true ∨ s.widowed p g = true) →
          exec (.pairComparison g) s = .next (s.mismatch false g p))
      ∧ (forced → x.sig ≠ y.sig → stops)
      ∧ ((s.partner g = none ∨ x.place.side ≠ 0) → exec (.pairComparison g) s = .next s)

/-- PREEMPTION_DECISION, DRAIN_WATCHDOG, TEAM_SAVE and TEAM_RESTORE (13 R279 to R286, Table 13-3). A team of lower class is drained where its time
allows it, else discarded where it may start again, else saved; a drain that outlasts its watchdog is saved; a stopped team's image is
written and the team leaves its cluster, and comes back on one that fits, as the image has it or from its fresh image. -/
def Obligations.TeamEvents : Prop :=
  (∀ (s : State) (k tk : Nat),
    let L := s.launch k
    let latest := s.latestStart k
    let x := s.team tk
    let asks := L.live = true ∧ L.parent = none ∧ L.placed < L.cohorts ∧ s.startOpen L = true ∧ s.placeCohort k = none
    let one := asks ∧ s.toPreempt k = [tk] ∧ x.phase = .running ∧ x.partner = 0
    let late := latest < s.time.toNat + s.drainTime tk + 1500
    let again := x.restartable = true ∧ x.marked = false ∧ x.service < 2 * s.saveTime tk
    (¬ asks → exec (.preemptionDecision k) s = .next s)
    ∧ (one → ¬ late → ∃ t, exec (.preemptionDecision k) s = .next t ∧ (t.team tk).phase = .draining (latest - 10500) k ∧ t.groups = s.groups)
    ∧ (one → late → again → ∃ t, exec (.preemptionDecision k) s = .next t ∧ (t.team tk).phase = .discarded ∧ (t.team tk).image = none
        ∧ (t.team tk).run = true ∧ ∀ gk, (t.group gk).live = true → (t.group gk).place.team ≠ tk)
    ∧ (one → late → ¬ again → ∃ t, exec (.preemptionDecision k) s = .next t ∧ (t.team tk).phase = .saving))
  ∧ (∀ (s : State) (tk w by_ : Nat), (s.team tk).phase = .draining w by_ →
      ((s.team tk).live = true → w ≤ s.time.toNat → ∃ t, exec (.drainWatchdog tk) s = .next t ∧ (t.team tk).phase = .saving ∧ t.mem = s.mem)
      ∧ (s.time.toNat < w → exec (.drainWatchdog tk) s = .next s))
  ∧ (∀ (s : State) (tk : Nat),
      let x := s.team tk
      let still := x.live = true ∧ x.phase = .saving ∧ s.teamStill tk = true
      let done := s.released tk = true ∧ s.areasFree [tk] = true
      (x.partner = 0 → ¬ still → exec (.teamSave tk) s = .next s)
      ∧ (x.partner = 0 → still → x.wbs = none → ∃ t, exec (.teamSave tk) s = .next t ∧ t = (s.compareStopped tk).releaseTeam tk
          ∧ (t.team tk).wbs ≠ none)
      ∧ (x.partner = 0 → still → x.wbs ≠ none → ¬ done → exec (.teamSave tk) s = .next s)
      ∧ (x.partner = 0 → still → x.wbs ≠ none → done → ∃ t im, exec (.teamSave tk) s = .next t ∧ (t.team tk).phase = .saved ∧ (t.team tk).image = some im
          ∧ im.scratch = x.scratch ∧ im.pend = x.pend ∧ im.bytes = s.imageSize tk ∧ (t.team tk).spill = hbmPlace s.free
          ∧ (t.team tk).run = im.runnable ∧ (t.cluster x.cluster).imageArea = some tk
          ∧ ∀ gk, (t.group gk).live = true → (t.group gk).place.team ≠ tk))
  ∧ ∀ (s : State) (tk cl : Nat) (sp : Bool),
      let x := s.team tk
      let L := s.launch x.launch
      let home := s.homeFor tk fun c => dieOf c == dieOf x.cluster
      let comes := x.comesBack = true ∧ s.rel.undercoatBusy = false ∧ x.partner = 0 ∧ s.restoreBusy tk = false
      (comes → home = none → exec (.teamRestore tk) s = .next s)
      ∧ (∀ im, comes → home = some (cl, sp) → x.image = some im → ∃ t, exec (.teamRestore tk) s = .next t ∧ (t.team tk).phase = .running
          ∧ (t.team tk).cluster = cl ∧ (t.team tk).scratch = im.scratch ∧ (t.team tk).windows = im.windows ∧ (t.team tk).image = none)
      ∧ (comes → home = some (cl, sp) → x.image = none → ∃ t, exec (.teamRestore tk) s = .next t ∧ (t.team tk).phase = .running
          ∧ (t.team tk).cluster = cl ∧ (t.team tk).scratch = L.image.freshScratch ∧ (t.team tk).run = false)
      ∧ ((x.comesBack = false ∨ s.restoreBusy tk = true) → exec (.teamRestore tk) s = .next s)

/-! ### Power and energy (chapters 01, 17, 19) -/

/-- The events of power and energy (01 R23, R24, 17 R346 to R348, 19 R377 to R380, 16 R334): levels and ratios, primer windows, boosts and stretches
with the DUTY register, the folds of the meters into NRG, the checks of T_max and E_max, and the controller's and the thermal limits. A boost
ends after 20 ns and a stretch after 40, if the supply has not recovered before. A draw below the cap lifts what the controller holds (log 27,
the model's reading). -/
def Obligations.PowerEvents : Prop :=
  (∀ (s : State) (cl ns lvl : Nat),
    let c := s.cluster cl
    let p := c.power
    let bst := dutyBST c.duty
    let str := dutySTR c.duty
    let exh := c.duty.getLsbD 28
    let past := c.duty.getLsbD 29
    let now := s.time.toNat
    let becomes := fun (o : Outcome) (x : Cluster) => ∃ t, o = .next t ∧ t.mem = s.mem ∧ t.groups = s.groups ∧ t.cluster cl = x
    let followed : Power := if p.level < p.ratio then { p with level := p.ratio } else { p with ratio := p.level }
    let boosts := bst < 500 ∧ p.level = p.target ∧ p.level = p.ratio ∧ p.level < 2
    let boosted := fun (n : Nat) => { c with
      duty := dutyOf (min 500 (bst + min n 20)) str (exh || min 500 (bst + min n 20) == 500) past
      boosts := (now, min n 20) :: c.boosts, power := ({ p with boosting := false, ratio := p.level } : Power).begin }
    let stretched := fun (n : Nat) => { c with
      duty := dutyOf bst (str + min n 40 * clockRate p.level / 20) exh (past || decide (clockRate p.level * 100 < str + min n 40 * clockRate p.level / 20))
      stretches := (now, min n 40 * clockRate p.level / 20) :: c.stretches, power := { p with stretching := false } }
    (p.changing = true → becomes (exec (.levelChangeComplete cl) s) { c with power := followed.begin })
    ∧ (p.changing = false → exec (.levelChangeComplete cl) s = .next s)
    ∧ becomes (exec (.primerWindow cl) s)
        { c with power := { p with windowAt := now, window := recent now p.window, falls := [], primer := p.primer - fallStep p.level } }
    ∧ ((p.boosting = true ∨ p.stretching = true) → exec (.droopDetect cl) s = .next s)
    ∧ (p.boosting = false → p.stretching = false → boosts →
        becomes (exec (.droopDetect cl) s) { c with power := { p with boosting := true, ratio := p.level + 1, droopAt := now } })
    ∧ (p.boosting = false → p.stretching = false → ¬ boosts →
        becomes (exec (.droopDetect cl) s) { c with power := { p with stretching := true, droopAt := now } })
    ∧ (p.boosting = true → becomes (exec (.droopRecovery cl ns) s) (boosted ns))
    ∧ (p.boosting = false → p.stretching = true → becomes (exec (.droopRecovery cl ns) s) (stretched ns))
    ∧ (p.boosting = true → p.droopAt + 20 ≤ now → becomes (.next (s.droopDue cl)) (boosted 20))
    ∧ (p.boosting = false → p.stretching = true → p.droopAt + 40 ≤ now → becomes (.next (s.droopDue cl)) (stretched 40))
    ∧ (p.boosting = false → p.stretching = false → exec (.droopRecovery cl ns) s = .next s)
    ∧ (becomes (exec (.dutyWindowSlide cl) s)
        { c with
          boosts := c.boosts.filter fun e => decide (now < e.1 + 10000)
          stretches := c.stretches.filter fun e => decide (now < e.1 + 100000)
          duty := dutyOf (min 500 ((c.boosts.filter fun e => decide (now < e.1 + 10000)).foldl (fun n e => n + e.2) 0))
            ((c.stretches.filter fun e => decide (now < e.1 + 100000)).foldl (fun n e => n + e.2) 0) exh past })
    ∧ (∀ q e, c.meters = [(q, e)] → (s.quote q).state ≠ .free →
        ∃ t, exec (.energyMeterFold cl) s = .next t ∧ t.mem = s.mem ∧ (t.cluster cl).meters.get 0 q = e % 10000000
          ∧ (t.quote q).nrg = (s.quote q).nrg + e / 10000000)
    ∧ (∃ t, exec (.thermalEvent cl lvl) s = .next t ∧ t.mem = s.mem ∧ (t.cluster cl).power.forced = lvl ∧ (t.cluster cl).power.target ≤ lvl
        ∧ ∀ e ∈ s.resv, ∀ h, e.1 / 4096 = dieOf cl → e.2.live = true → e.2.share = some h → h.cmask.getLsbD (siteOf cl) = true → lvl < h.floor →
            (s.quote e.2.qidx).cls = 0 → (s.quote e.2.qidx).state = .running → (s.quote e.2.qidx).causes.length < 4 →
              (8, now) ∈ (t.quote e.2.qidx).causes))
  ∧ (∀ (s : State) (draw cl : Nat), cl ∈ s.clusterKeys →
      (draw < s.cap → ∃ t, exec (.powerCapReached draw) s = .next t ∧ t.mem = s.mem ∧ (t.cluster cl).power.ceiling = 2)
      ∧ (s.cap ≤ draw → s.levelFloor cl < (s.cluster cl).power.target →
          (∀ k ∈ s.clusterKeys, s.levelFloor k < (s.cluster k).power.target → (s.cluster k).power.target ≤ (s.cluster cl).power.target) →
            ∃ t, exec (.powerCapReached draw) s = .next t ∧ t.mem = s.mem ∧ (t.cluster cl).power.ceiling = (s.cluster cl).power.target - 1
              ∧ (t.cluster cl).power.target < (s.cluster cl).power.target)
      ∧ (s.cap ≤ draw → (s.cluster cl).power.target ≤ s.levelFloor cl →
          ∃ t, exec (.powerCapReached draw) s = .next t ∧ t.cluster cl = s.cluster cl))
  ∧ ∀ (s : State) (k : Nat),
      let i := (s.launch k).qidx
      let q := s.quote i
      let time := if q.cls = 0 then s.time.toNat - q.tstart else q.svc
      let breach := fun (code : Nat) => ∃ t, exec (.tmaxCheck k) s = .next t ∧ t.mem = s.mem ∧ (t.quote i).causes = [(code, s.time.toNat)]
        ∧ (t.quote i).brc = code ∧ (t.quote i).party = 3
      (q.state = .running → q.causes = [] → q.tmax < time → breach 0x0B)
      ∧ (q.state = .running → q.causes = [] → time ≤ q.tmax → q.emax * 1000 < q.nrg → breach 0x0C)
      ∧ ((q.state ≠ .running ∨ q.causes ≠ [] ∨ (time ≤ q.tmax ∧ q.nrg ≤ q.emax * 1000)) → exec (.tmaxCheck k) s = .next s)

/-! ### Checkpoints, errors, the undercoat (chapter 18) -/

/-- CKI_EXPIRY, INTERVAL_CLOSE, ECC_UNCORRECTABLE, UNDERCOAT_DONE, UNDERCOAT_RESTORE and SCRUB (18 R353, R357, R360, R362, 13 R281, R287). A close first stops
the protected launches; once they stand still it advances the interval, empties the log and lets `CKPT` go on. An error poisons a sector
or a vault word. The undercoat copies every byte of HBM and the dust sheet's records, and brings them back; a scrub moves an image that another
needs the place of. Log entries 46 (where the undercoat's region holds a byte), 64 and 65 (where HBM takes an image, and what a scrub is asked for)
and 68 (the number of a scratchpad byte) are the model's. -/
def Obligations.ReliabilityEvents : Prop :=
  (∀ (s : State) (k : Nat),
    let L := s.launch k
    let due := L.live = true ∧ L.started = true ∧ L.prot = true ∧ L.parent = none ∧ L.boundaryAt + (s.quote L.qidx).cki * 1000 ≤ s.time.toNat
    (due → exec (.ckiExpiry k) s = .next { s with rel := { s.rel with closeDue := true } }) ∧ (¬ due → exec (.ckiExpiry k) s = .next s))
  ∧ (∀ s : State,
      let still := s.rel.closeDue = true ∧ s.rel.closing = true ∧ s.allStill = true
      let waits := s.rel.wbs.any (fun r => (s.req r).live) = true
      (s.rel.closeDue = false → exec .intervalClose s = .next s)
      ∧ (s.rel.closeDue = true → s.rel.closing = false → exec .intervalClose s = .next { s with rel := { s.rel with closing := true } })
      ∧ (s.rel.closeDue = true → s.rel.closing = true → s.allStill = false → exec .intervalClose s = .next s)
      ∧ (still → s.rel.stage = 0 → (∀ k, (s.launch k).paired = false) →
          exec .intervalClose s = .next s.closeWrites ∧ s.closeWrites.rel.stage = 1)
      ∧ (still → s.rel.stage ≠ 0 → waits → exec .intervalClose s = .next s)
      ∧ (still → s.rel.stage = 1 → ¬ waits → exec .intervalClose s = .next s.closeWrites ∧ s.closeWrites.rel.stage = 2)
      ∧ (still → 2 ≤ s.rel.stage → ¬ waits → (s.quote 0xFFF).state ≠ .running → ∃ t, exec .intervalClose s = .next t ∧ t.rel.interval = s.rel.interval + 1 ∧ t.rel.closeDue = false ∧ t.rel.closing = false
          ∧ t.rel.unrecoverable = false ∧ (∀ k, (t.dust.get {} k).recs = [] ∧ (t.dust.get {} k).fill = 0)
          ∧ (∀ k ∈ s.protectedLaunches, (t.launch k).boundary = s.rel.interval + 1 ∧ (t.launch k).sinceClose = 0
              ∧ (t.launch k).placedAt = (s.launch k).placed)
          ∧ ∀ gk d, (s.group gk).wait = .ckpt d → (t.group gk).wait = .none))
  ∧ (∀ (s : State) (pa unit : Nat),
      let owner := s.scrOwner (pa / 2 ^ 24 % 512) (pa % 2 ^ 24)
      (pa < 2 ^ 48 → isGlobal pa = true → ∃ t, exec (.eccUncorrectable pa) s = .next t ∧ t.mem = s.mem ∧ t.memPoison pa = true
        ∧ ∀ a, a / 64 ≠ pa / 64 → t.memPoison a = s.memPoison a)
      ∧ (pa < 2 ^ 48 → isVault pa = true → ∃ t, exec (.eccUncorrectable pa) s = .next t ∧ t.mem = s.mem ∧ t.vaultPoison.get false (pa / 4) = true)
      ∧ (pa < 2 ^ 48 → isGlobal pa = false → isVault pa = false → exec (.eccUncorrectable pa) s = .next s)
      ∧ (∀ tk o, 2 ^ 48 ≤ pa → owner = some (tk, o) →
          ∃ t, exec (.eccUncorrectable pa) s = .next t ∧ t.mem = s.mem ∧ (t.team tk).poison.get false (o / 4) = true)
      ∧ (2 ^ 48 ≤ pa → owner = none → exec (.eccUncorrectable pa) s = .next s)
      ∧ (s.areaNeeded unit = true → ∃ t, exec (.scrub unit) s = .next t ∧ t.cluster unit = { s.cluster unit with imageArea := none }
          ∧ ∀ tk im, (s.cluster unit).imageArea = some tk → (s.team tk).live = true → (s.team tk).image = some im →
            (t.team tk).spill = hbmPlace s.free ∧ ∀ o, o < im.bytes → t.memByte (hbmPlace s.free + o) =
              if o < 64 then BitVec.ofNat 8 ((t.imageHeader tk).toNat / 2 ^ (8 * o)) else Config.imageByte tk o)
      ∧ (s.areaNeeded unit = false → exec (.scrub unit) s = .next s))
  ∧ ∀ s : State,
      let quiet := s.noneResident = true
      let base := s.rel.undercoat.getD 0
      (s.rel.undercoatBusy = true → quiet → ∃ t, exec .undercoatDone s = .next t ∧ t.rel.undercoatBusy = false ∧ t.rel.undercoatTaken = true
        ∧ t.rel.coatDust = s.dust ∧ (∀ pa, isHbm pa = true → t.memByte pa = s.memByte pa)
        ∧ (coatBase base = true → ∀ pa a, coatAt base pa = some a → t.memByte a = s.memByte pa
            ∧ (pa % 64 = 0 → t.sectorPoison.get false (a / 64) = s.sectorPoison.get false (pa / 64))))
      ∧ ((s.rel.undercoatBusy = false ∨ ¬ quiet) → exec .undercoatDone s = .next s)
      ∧ (s.rel.undercoatTaken = true → s.rel.undercoatBusy = false → quiet →
          ∃ t, exec .undercoatRestore s = .next t
            ∧ (coatBase base = true → ∀ pa a, coatAt base pa = some a → t.memByte pa = s.memByte a)
            ∧ (∀ pa, isHbm pa = false → t.memByte pa = s.memByte pa) ∧ t.groups = s.groups ∧ t.dust = s.rel.coatDust)
      ∧ ((s.rel.undercoatTaken = false ∨ s.rel.undercoatBusy = true ∨ ¬ quiet) → exec .undercoatRestore s = .next s)

/-! ### Firmware and the outside (chapter 20) -/

/-- The management mailbox and the readiness word (12 R252, 18 R362, 20 R384, R386, R389, R390, 01 R14, R22, R24). Where firmware serves the mailbox
of a die and a request of the code waits at HEAD, each instruction that serves it completes: a request in range does its work and is answered
with status 0 in its slot, one out of range or of an unknown code with BADREQ, an UNDERCOAT while one is under way with BUSY; HEAD moves on.
How a request's 59 bytes hold its operands is the model's choice (log 38). -/
def Obligations.MailboxEvents : Prop :=
  (∀ (s : State) (die : Nat),
    let d := s.die die
    let op := s.reqOp die
    let now := s.time.toNat
    let waits := die < 4 ∧ d.ready.getLsbD 7 = true ∧ d.mbHead ≠ d.mbTail
    let next := fun (code : Nat) => waits ∧ s.reqCode die = code
    let home := fun (pa : Nat) => isGlobal pa = true ∧ homeDie pa = die
    let desc := BitVec.ofNat 256 (op 0)
    let creates := home (op 1) ∧ op 1 % 32 = 0 ∧ home (descBase desc) ∧ descBase desc % 64 = 0
      ∧ home (descBase desc + 64 * descSlots desc - 1) ∧ op 2 % 8192 = 0 ∧ tableOk (op 2) = true
      ∧ ∀ cl, cl < 512 → descMask desc cl = true → s.usable cl = true
    let image := s.homeBytes (op 0) (op 1)
    let verified := globalSpan (op 0) (op 1) = true ∧ Config.signatureOk image = true ∧ s.fwFloor ≤ Config.imageVersion image
    let answered := fun (t : State) (status : Nat) => (t.die die).mbHead = d.mbHead + 1
      ∧ Tab.readLe (t.die die).mailbox (d.mbHead.toNat % 1024 * 64 + 60) 4 = status
    let all : List Instr := [.createq die, .destroyq die, .setcap die, .setregions die, .undercoat die, .fwupdate die, .attest die, .setfilter die]
    (next 1 → creates → ∃ t q, exec (.createq die) s = .next t ∧ answered t 0 ∧ (s.queue q).live = false ∧ (t.queue q).live = true ∧ (t.queue q).die = die
        ∧ (t.queue q).desc = op 1 ∧ (t.queue q).root = op 2 ∧ (t.queue q).slot = (List.range 64).find? (fun k => !(s.slotsTaken die).contains k)
        ∧ t.descriptor (t.queue q) = desc &&& ~~~ (BitVec.ofNat 256 ((2 ^ 70 - 1) * 2 ^ 128)))
    ∧ (∀ q, next 2 → (s.queue q).live = true → (s.queue q).die = die → (s.queue q).desc = op 0 → ∃ t q, exec (.destroyq die) s = .next t ∧ answered t 0 ∧ (s.queue q).live = true
        ∧ (s.queue q).die = die ∧ (s.queue q).desc = op 0 ∧ (t.queue q).live = false ∧ (t.queue q).slot = none ∧ t.mem = s.mem
        ∧ ∀ pk ∈ (s.queue q).packets, (s.packet pk).started = false → t.packet pk = {})
    ∧ (next 3 → die = 0 → op 0 ≤ 5200 → ∃ t, exec (.setcap die) s = .next t ∧ answered t 0 ∧ t.cap = op 0 ∧ t.mem = s.mem
        ∧ (op 0 < s.cap → op 0 < s.headroom → ∀ q, (s.quote q).state = .running → (s.quote q).causes.length < 4 →
            (6, now) ∈ (t.quote q).causes))
    ∧ (∀ k, next 4 → (die = 0 → coatBase (op 0) = true) → regionOf (op 1) = .hbm k → k / 6 = die → regionOf (op 1 + 2 ^ 20 - 1) = .hbm k →
        ∃ t, exec (.setregions die) s = .next t ∧ answered t 0 ∧ (t.die die).spillBase = op 1 ∧ t.mem = s.mem
        ∧ (t.die die).ready = d.ready ||| (if die = 0 then 0x18 else 0x10) ∧ (die = 0 → t.rel = { s.rel with undercoat := some (op 0) })
        ∧ (die ≠ 0 → t.rel = s.rel))
    ∧ (next 5 → die = 0 → (s.rel.undercoatBusy = true ∨ s.rel.undercoat = none) →
        ∃ t, exec (.undercoat die) s = .next t ∧ answered t 2 ∧ t.rel = s.rel ∧ t.teams = s.teams)
    ∧ (next 5 → die = 0 → s.rel.undercoatBusy = false → s.rel.undercoat ≠ none →
        ∃ t, exec (.undercoat die) s = .next t ∧ answered t 0 ∧ t.rel = { s.rel with undercoatBusy := true }
          ∧ ∀ tk, (s.team tk).resident = true → (t.team tk).phase = .saving)
    ∧ (next 6 → die = 0 → ∃ t, exec (if verified then .fwupdate die else .mailboxBadreq die) s = .next t ∧ answered t (if verified then 0 else 1)
        ∧ t.staged = (if verified then some image else s.staged) ∧ t.fwVersion = s.fwVersion)
    ∧ (next 7 → globalSpan (op 1) 4096 = true → ∃ t, exec (.attest die) s = .next t ∧ answered t 0
        ∧ ∀ leaf e, d.nextLeaf = some (leaf, e) → (t.die die).leaf = e.leaf ∧ (t.die die).keys = e.keys)
    ∧ (next 8 → op 0 < 4 → op 1 < 64 → (op 7 = 0 ∨ op 6 % 32 = 0 ∧ homedSpan die (op 6) 32 = true) → ∃ t, exec (.setfilter die) s = .next t ∧ answered t 0
        ∧ (op 7 = 0 → t.mem = s.mem) ∧ (op 7 ≠ 0 → (∀ i, i < 12 → t.homeByte (op 6 + i) = 0) ∧ t.homeByte (op 6 + 24) = 0)
        ∧ (t.die die).filters.get {} (op 0 * 64 + op 1) = { live := op 7 != 0, byPort := op 2 != 0, mac := BitVec.ofNat 48 (op 3)
                                                            ethertype := BitVec.ofNat 16 (op 4), udp := BitVec.ofNat 16 (op 5), ring := op 6 })
    ∧ (waits → (s.reqCode die = 0 ∨ 8 < s.reqCode die ∨ s.requestOk die = false) → ∃ t, exec (.mailboxBadreq die) s = .next t ∧ answered t 1 ∧ t.mem = s.mem
        ∧ ∀ i ∈ all, exec i s = .next s)
    ∧ (¬ waits → exec (.mailboxBadreq die) s = .next s ∧ ∀ i ∈ all, exec i s = .next s))
  ∧ ∀ (s : State) (die b : Nat),
      (die < 4 → functionBit b = true → ∃ t, exec (.functionReady die b) s = .next t ∧ t.mem = s.mem
        ∧ (t.die die).ready = (s.die die).ready ||| (1#64 <<< b)
        ∧ (t.die die).caps = if b = 7 then (s.die die).capabilities die s.fwVersion else (s.die die).caps)
      ∧ (die < 4 → functionBit b = true → b ≠ 7 → ∃ t, exec (.functionReset die b) s = .next t ∧ t.mem = s.mem ∧ t.groups = s.groups
          ∧ (t.die die).ready = (s.die die).ready &&& ~~~ (1#64 <<< b))
      ∧ (die < 4 → exec (.functionReset die 7) s = .next (s.resetFirmware die))
      ∧ (die < 4 → exec (.functionReset die 4) s =
          .next (s.modDie die fun d => { d with ready := d.ready &&& ~~~ (1#64 <<< 4), spillBase := 0 }))
      ∧ (die < 4 → ∃ t, exec (.functionReset die 3) s = .next t ∧ t.mem = s.mem ∧ (t.die die).ready = (s.die die).ready &&& ~~~ (1#64 <<< 3)
          ∧ t.rel = if die = 0 then { s.rel with undercoat := none } else s.rel)
      ∧ (functionBit b = false → exec (.functionReady die b) s = .next s ∧ (b ≠ 3 → b ≠ 4 → exec (.functionReset die b) s = .next s))

/-- The outside (00 R9, 11 R249, 12 R272, 20 R386 to R388, R390): a host write to global memory stands there and at the home
slice, one to a vault, an image area or the dust sheet changes nothing (the model's reading, log 51); a host read and an egress take what memory holds, and each stops on a hole of the address map (a stop of the model: nothing is there); a frame goes into its filter's ring
or is counted as dropped; the first offset of a master steps device time and all that the device holds of it: DDL, VDL and TSTART of every
entry of the quotation table, the times of the causes, the expiries of waits, the times of votes, the watchdogs of drains; SYNC follows an offset
that has stayed within 50 ns, or beyond it, for 1 s; the resets. What a reset gives the registers without a reset value is log 1's choice,
what the state keeps of the traffic log 8's. -/
def Obligations.OutsideEvents : Prop :=
  (∀ (s : State) (pa n port : Nat) (bs : List Byte),
    let seen := (List.range n).map fun i => s.hostByte (pa + i)
    let n0 := (globalPart pa bs).length
    let told := { s.outside with writes := s.outside.writes + 1 }
    (∀ a, holeIn pa bs.length = some a → exec (.hostWrite pa bs) s = .fault (.hole a))
    ∧ (holeIn pa bs.length = none → regionOf pa ≠ .device → ∃ t, exec (.hostWrite pa bs) s = .next t
        ∧ t.outside = told ∧ (∀ i, i < n0 → s.storable 0 (pa + i) = true → t.memByte (pa + i) = bs.getD i 0)
        ∧ (∀ i, i < n0 → t.homeByte (pa + i) = if s.storable 0 (pa + i) = true then bs.getD i 0 else s.homeByte (pa + i))
        ∧ (isGlobal pa = false → t = { s with outside := told }))
    ∧ (∀ b, regionOf pa = .device → winDie pa < 4 → 0x10000 ≤ winOff pa → winOff pa < 0x20000 →
        ∃ t, exec (.hostWrite pa [b]) s = .next t ∧ t.mem = s.mem ∧ t.winByte pa = b)
    ∧ (∀ a, holeIn pa n = some a → exec (.hostRead pa n) s = .fault (.hole a) ∧ (port < 16 → exec (.ethernetEgress port pa n) s = .fault (.hole a)))
    ∧ (regionOf pa ≠ .device → regionOf pa ≠ .imageArea → s.hostByte pa = s.memByte pa)
    ∧ (16 ≤ port → exec (.ethernetEgress port pa n) s = .next s)
    ∧ (holeIn pa n = none →
        exec (.hostRead pa n) s = .next { s with outside := { s.outside with reads := (pa, seen) :: s.outside.reads } }
        ∧ (port < 16 → exec (.ethernetEgress port pa n) s = .next { s with outside := { s.outside with egress := (port, seen) :: s.outside.egress } }))
    ∧ (holeIn pa 1 = none → regionOf pa = .device →
        exec (.hostRead pa 1) s = .next { s with outside := { s.outside with reads := (pa, [s.winByte pa]) :: s.outside.reads } }))
  ∧ (∀ (s : State) (die port : Nat) (mac : BitVec 48) (ethertype udp : BitVec 16) (frame : List Byte),
      let o := exec (.ingressFrame die port mac ethertype udp frame) s
      let up := port < 4 ∧ (s.die die).ready.getLsbD (20 + port) = true
      (¬ up → o = .next s)
      ∧ (up → (s.die die).filterFor port mac ethertype udp = none → o = .next s)
      ∧ (∀ f, up → (s.die die).filterFor port mac ethertype udp = some f → s.rangeBusy f.ring 32 = true → o = .next s)
      ∧ (∀ f, up → (s.die die).filterFor port mac ethertype udp = some f → s.rangeBusy f.ring 32 = false → f.ring % 32 = 0 →
          let d := leNat (s.homeBytes f.ring 32)
          let size := 2 ^ bits d 207 204
          let count := 2 ^ bits d 203 200
          let tail := bits d 127 96
          let full := (tail + 2 ^ 32 - bits d 159 128) % 2 ^ 32 = count ∨ size < frame.length + 16
          let slot := bits d 255 208 + size * (tail % count)
          (full → ∃ t, o = .next t ∧ leNat (t.homeBytes (f.ring + 20) 4) = (bits d 191 160 + 1) % 2 ^ 32)
          ∧ (¬ full → (slot + 16 + frame.length ≤ f.ring + 12 ∨ f.ring + 16 ≤ slot) → ∃ t, o = .next t
              ∧ leNat (t.homeBytes (f.ring + 12) 4) = (tail + 1) % 2 ^ 32
              ∧ (∀ i, i < frame.length → t.homeByte (slot + 16 + i) = frame.getD i 0)
              ∧ leNat (t.homeBytes (slot + 10) 2) = frame.length % 2 ^ 16)))
  ∧ (∀ (s : State) (port : Nat) (offset : Int) (locked : Bool),
      let near := fun (x : Int) => decide (x.natAbs ≤ 50)
      let heard := fun (x : Int) => { s.ptp with
        master := true, port := port, offset := x, near := near x
        since := if (near x = s.ptp.near) ∧ s.ptp.master = true then s.ptp.since else s.time.toNat }
      let locks := s.ptp.locked ≠ locked ∧ s.ptp.near = locked ∧ (s.ptp.master = true ∨ locked = false) ∧ s.ptp.since + 1000000000 ≤ s.time.toNat
      (port < 16 → s.ptp.stepped = true → exec (.ptpMessage port offset) s =
        .next { s with ptp := { heard offset with slew := offset } })
      ∧ (port < 16 → s.ptp.stepped = false → ∃ t, exec (.ptpMessage port offset) s = .next t ∧ t.mem = s.mem ∧ t.ptp.stepped = true
          ∧ t.time = BitVec.ofNat 64 (shift offset s.time.toNat)
          ∧ (∀ k, (s.quote k).state ≠ .free → t.quote k = { s.quote k with
              ddl := shift offset (s.quote k).ddl, vdl := shift offset (s.quote k).vdl, tstart := shift offset (s.quote k).tstart
              causes := (s.quote k).causes.map fun c => (c.1, shift offset c.2) })
          ∧ (∀ x k, ((s.slice x).mon.get {} k).v = true → ((s.slice x).mon.get {} k).tgt ≠ 2 →
              (t.slice x).mon.get {} k = { (s.slice x).mon.get {} k with exp := shift offset ((s.slice x).mon.get {} k).exp })
          ∧ (∀ gk k, ((s.group gk).strand k).live = true → ((t.group gk).strand k).voteAt = shift offset ((s.group gk).strand k).voteAt)
          ∧ ∀ tk w r, (s.team tk).phase = .draining w r → (t.team tk).phase = .draining (shift offset w) r)
      ∧ (locks → ∃ t, exec (.syncLockChange locked) s = .next t ∧ t.ptp = { s.ptp with locked := locked }
          ∧ ∀ d ∈ s.dies.keys, (t.die d).ready.getLsbD 27 = locked)
      ∧ (¬ locks → exec (.syncLockChange locked) s = .next s)
      ∧ exec .noMasterHeard s = .next { s with ptp := { s.ptp with master := false, slew := 0 } }
      ∧ (port < 16 → exec (.eventMessageTransmission port) s =
          .next { s with outside := { s.outside with
            sent := (port, s.time.toNat / 1000000000 % 2 ^ 48, s.time.toNat % 1000000000) :: s.outside.sent } })
      ∧ (16 ≤ port → exec (.ptpMessage port offset) s = .next s ∧ exec (.eventMessageTransmission port) s = .next s))
  ∧ ∀ s : State,
      (∃ t, exec .powerOnReset s = .next t ∧ t.mem = [] ∧ t.groups = [] ∧ t.clusters = [] ∧ t.quotes = [] ∧ t.time = 0 ∧ t.cap = 5200
        ∧ ∀ d, d < 4 → t.die d = { resetDie with leaf := (s.die d).leaf, keys := (s.die d).keys })
      ∧ ∃ t, exec .deviceReset s = .next t ∧ t.mem = s.mem ∧ t.staged = none
          ∧ (∀ q, (s.quote q).state = .running → (s.quote q).causes.length < 4 → (4, s.time.toNat) ∈ (t.quote q).causes)
          ∧ ∀ d gk, d < 4 → clusterOf gk = clusterKey d (s.die d).fwSite → t.group gk = {}

/-! ### The whole machine -/

/-- A step runs what it chooses (03 R39, R42, R43, R62, 04 R79, 05 R87, R91, 17 R345). A packet of one word whose fetch meets no trap and that
decodes to i executes i on the state that holds the packet's view: without a trap the packet has issued and its strand falls through, unless
the word has moved it; a trap stands as the word took it; a word that must wait leaves what it waits for, and its packet in flight. Then the
switch hold follows the words of the packet, the turn passes, the spill lists that have changed are written and time goes on. An event is
executed as it is. A word alone in its packet that decodes to an instruction the group may issue, with W only where a register is written, is
such a packet. Time is log 4, the choice of the move log 5, the cursor log 6 (DESIGN CHOICE), which trap of a packet stands log 28 (DEDUCED). -/
def Obligations.StepRunsDecoded : Prop :=
  (∀ (s t : State) (gk k : Nat) (i : Instr),
    let st := (s.group gk).strand k
    let now := (s.keepBlock gk k).atIssue gk k
    let view := now.withWindows [i]
    s.chosen = some (.packet gk k) → s.fetchTrap gk k = none → packetInstrs (s.group gk) (s.packetWords gk st) = .ok [i] →
    exec i view = .next t →
      let after := fun (v : State) => step s = .next (((v.turnDone gk).rest.spillOut s).rest.tick)
      let held := fun (v : State) => v.holdAfter gk k st.pc [usesOf i]
      let u := now.issued t gk k
      (t.cur.trap = none → t.cur.miss = false → t.cur.moved = false → after (held (u.fallThrough gk k)))
      ∧ (t.cur.miss = false → t.cur.moved = true → after (held u))
      ∧ (∀ r, t.cur.trap = some r → t.cur.miss = false → t.cur.moved = false → after (if atPort i r = true then t else t.oldWindows now))
      ∧ (t.cur.trap = none → t.cur.miss = true →
          after (held ((t.oldWindows now).modGroup gk fun g => { g with flight := some ((s.keepBlock gk k).flightNow gk k) }))))
  ∧ (∀ (s t : State) (i : Instr), s.chosen = some (.event i) → exec i s = .next t → step s = .next (t.spillOut s).rest.tick)
  ∧ (∀ (s : State) (gk : Nat), s.chosen = some (.accept gk) → step s = .next ((s.accept gk).spillOut s).rest.tick)
  ∧ (∀ s : State, s.chosen = none → step s = .next s.tick)
  ∧ ∀ (g : Group) (w : Word) (i : Instr), chainBit w = false → decodeFields w = .ok i → legalIn i g = true →
      ((usesOf i).wbit = true → (usesOf i).regWord = true) → packetInstrs g [w, 0, 0] = .ok [i]

/-- Words written out from the encodings of the spec (02 Table 2-2, 03 Table 3-10, 06 Table 6-8, 07 Table 7-14, 10 Table 10-2 and the layouts of
03 Tables 3-3 to 3-7) decode to the instructions they stand for. -/
def Obligations.WordsDecode : Prop :=
  decode 0x13010102 = .ok (.iadd false 1 1 2) ∧ decode 0x1106_0001 = .ok (.movi false 6 1)
    ∧ decode 0x1201_1235 = .ok (.movhi false 1 0x1235) ∧ decode 0xE704_0000 = .ok (.vbcast false 4 0)
    ∧ decode 0x7828_0448 = .ok (.mma 0x28 0x04 2 8) ∧ decode 0x7C28_0000 = .ok (.launch 0x28)
    ∧ decode 0x7D14_0008 = .ok (.msend 0x14 8) ∧ decode 0x7B3C_0004 = .ok (.coll 0x3C 4)
    ∧ decode 0x7F01_0C26 = .ok (.ringadv 1 0x0C) ∧ decode 0x7F1E_1824 = .ok (.stagea 0x1E 0x18)
    ∧ decode 0x7F00_1420 = .ok (.bari 0x14) ∧ decode 0x7F0E_1421 = .ok (.bara 0x0E 0x14)
    ∧ decode 0x7F0B_0C19 = .ok (.gang 0x0B 0x0C) ∧ decode 0x0000_0000 = .ok .nop

/-- The encoding and the decoding agree (03 R35, R60, Tables 3-3 to 3-8): every well-formed instruction that is a word has an encoding, under either
chain bit, but `NOP` under 0 alone (R36), and decodes from it with every operand; and a word that decodes is the encoding of what it decodes to. -/
def Obligations.EncodeDecode : Prop :=
  (∀ (c : Bool) (i : Instr), i.WellFormed → i.isWord = true → ¬ (c = true ∧ i = .nop) → ∃ w, encode c i = some w ∧ chainBit w = c ∧ decode w = .ok i)
  ∧ ∀ (w : Word) (i : Instr), decode w = .ok i → i.WellFormed ∧ encode (chainBit w) i = some w

/-- Every step keeps memory in its one canonical form (log 2 says what an unlisted byte reads as). -/
def Obligations.MemoryKept : Prop :=
  ∀ s t : State, Memory.wf s.mem = true → step s = .next t → Memory.wf t.mem = true

/-- The machine after power-on (00 R9, 01 R22, 08 R177, 09 Table 9-3, 17 Table 17-6, 20 R388, 24 Table 24-1): no group, operation or translation, device
time and the clocks at 0, SRAMSPLIT 0x664, DUTY and INJ 0, the cap 5,200 W, no function ready; memory is in canonical form. The sites
that are disabled are the model's choice (log 7), and so is the value of what the spec gives no reset value (log 1). -/
def Obligations.ResetState : Prop :=
  Memory.wf State.reset.mem = true ∧ State.reset.mem = [] ∧ (∀ k, (State.reset.group k).live = false) ∧ (∀ k, (State.reset.op k).live = false)
    ∧ (∀ cl, (State.reset.cluster cl).sramsplit = 0x664 ∧ (State.reset.cluster cl).duty = 0 ∧ (State.reset.cluster cl).inj = 0
        ∧ State.reset.clk cl = 0 ∧ (State.reset.cluster cl).tlb = [] ∧ (State.reset.cluster cl).power.level = 0)
    ∧ State.reset.time = 0 ∧ State.reset.cap = 5200 ∧ (∀ q, (State.reset.quote q).state = .free) ∧ (∀ d, (State.reset.die d).ready = 0)
    ∧ State.reset.rel.interval = 0 ∧ State.reset.ptp.stepped = false ∧ State.reset.staged = none
end

