-- ==== Sys2Proof/Laws/Tab.lean ====
section
/-! SUPPORT. The laws of a sparse table: a read after a write, a write leaves other keys alone, and every operation keeps the canonical form. -/

namespace Sys2Proof

variable {V : Type} [DecidableEq V]

@[simp] theorem Tab.get_nil (d : V) (k : Nat) : Tab.get d k ([] : Tab V) = d := rfl

@[simp] theorem Tab.get_erase_same {V : Type} (d : V) (k : Nat) (t : Tab V) : Tab.get d k (Tab.erase k t) = d := by
  induction t with
  | nil => rfl
  | cons e t ih =>
    obtain ⟨a, v⟩ := e
    by_cases h : a = k <;> simp [Tab.erase, Tab.get, h, ih]

theorem Tab.get_erase_ne {V : Type} (d : V) {j k : Nat} (h : j ≠ k) (t : Tab V) :
    Tab.get d j (Tab.erase k t) = Tab.get d j t := by
  induction t with
  | nil => rfl
  | cons e t ih =>
    obtain ⟨a, v⟩ := e
    by_cases hk : a = k
    · subst hk; simp [Tab.erase, Tab.get, ih, Ne.symm h]
    · by_cases hj : a = j <;> simp [Tab.erase, Tab.get, hk, hj, ih]
      simp [hj] at *; simp [Tab.get, h]

/-- A read after a write to the same key gives the value written. -/
@[simp] theorem Tab.get_set_same (d : V) (k : Nat) (v : V) (t : Tab V) : Tab.get d k (Tab.set d k v t) = v := by
  induction t with
  | nil => by_cases h : v = d <;> simp [Tab.set, Tab.get, h]
  | cons e t ih =>
    obtain ⟨a, w⟩ := e
    by_cases hv : v = d
    · by_cases h1 : k < a
      · have : a ≠ k := by omega
        simp [Tab.set, Tab.get, h1, hv, this]
      · by_cases h2 : k = a
        · simp [Tab.set, h2, hv]
        · have : a ≠ k := by omega
          simp [Tab.set, Tab.get, h1, h2, this] ; simpa [hv] using ih
    · by_cases h1 : k < a
      · simp [Tab.set, Tab.get, h1, hv]
      · by_cases h2 : k = a
        · simp [Tab.set, Tab.get, h2, hv]
        · have : a ≠ k := by omega
          simp [Tab.set, Tab.get, h1, h2, this, ih]

/-- A write to one key leaves every other key alone. -/
theorem Tab.get_set_ne (d : V) {j k : Nat} (h : j ≠ k) (v : V) (t : Tab V) :
    Tab.get d j (Tab.set d k v t) = Tab.get d j t := by
  induction t with
  | nil => by_cases hv : v = d <;> simp [Tab.set, Tab.get, hv, Ne.symm h]
  | cons e t ih =>
    obtain ⟨a, w⟩ := e
    have hk : ¬ k = j := fun e => h e.symm
    by_cases h1 : k < a
    · by_cases hv : v = d
      · by_cases hj : a = j <;> simp [Tab.set, Tab.get, h1, hv, hj, Tab.get_erase_ne d h]
        have : k < j := by omega
        simp [this, Tab.get]
      · simp [Tab.set, Tab.get, h1, hv, hk]
    · by_cases h2 : k = a
      · subst h2
        by_cases hv : v = d <;> simp [Tab.set, Tab.get, hv, hk, Tab.get_erase_ne d h]
      · by_cases hj : a = j
        · subst hj; simp [Tab.set, Tab.get, h1, h2]
        · simp [Tab.set, Tab.get, h1, h2, hj, ih]

theorem Tab.above_erase {V : Type} {b k : Nat} {t : Tab V} (h : Tab.above b t) : Tab.above b (Tab.erase k t) := by
  induction t with
  | nil => exact h
  | cons e t ih =>
    obtain ⟨a, v⟩ := e
    simp only [Tab.above, Bool.and_eq_true] at h
    by_cases hk : a = k <;> simp [Tab.erase, Tab.above, hk, ih h.2]
    · simpa [hk] using h.1

theorem Tab.above_mono {V : Type} {b c : Nat} (hbc : b ≤ c) {t : Tab V} (h : Tab.above c t) : Tab.above b t := by
  induction t with
  | nil => exact h
  | cons e t ih =>
    obtain ⟨a, v⟩ := e
    simp only [Tab.above, Bool.and_eq_true, decide_eq_true_eq] at h ⊢
    exact ⟨by omega, ih h.2⟩

theorem Tab.wf_erase {d : V} {k : Nat} {t : Tab V} (h : Tab.wf d t) : Tab.wf d (Tab.erase k t) := by
  induction t with
  | nil => exact h
  | cons e t ih =>
    obtain ⟨a, v⟩ := e
    simp only [Tab.wf, Bool.and_eq_true] at h
    by_cases hk : a = k
    · simpa [Tab.erase, hk] using ih h.2
    · simp only [Tab.erase, hk, if_false, Tab.wf, Bool.and_eq_true]
      exact ⟨⟨h.1.1, Tab.above_erase h.1.2⟩, ih h.2⟩

theorem Tab.above_set {d : V} {b k : Nat} {v : V} {t : Tab V} (hk : b < k) (h : Tab.above b t) :
    Tab.above b (Tab.set d k v t) := by
  induction t with
  | nil => by_cases hv : v = d <;> simp [Tab.set, Tab.above, hv, hk]
  | cons e t ih =>
    obtain ⟨a, w⟩ := e
    simp only [Tab.above, Bool.and_eq_true, decide_eq_true_eq] at h
    by_cases h1 : k < a
    · by_cases hv : v = d <;> simp [Tab.set, Tab.above, h1, hv, hk, h.1, h.2, Tab.above_erase h.2]
    · by_cases h2 : k = a
      · subst h2; by_cases hv : v = d <;> simp [Tab.set, Tab.above, hv, hk, h.2, Tab.above_erase h.2]
      · simp [Tab.set, Tab.above, h1, h2, h.1, ih h.2]

/-- A write keeps the canonical form. -/
theorem Tab.wf_set {d : V} {k : Nat} {v : V} {t : Tab V} (h : Tab.wf d t) : Tab.wf d (Tab.set d k v t) := by
  induction t with
  | nil => by_cases hv : v = d <;> simp [Tab.set, Tab.wf, Tab.above, hv]
  | cons e t ih =>
    obtain ⟨a, w⟩ := e
    simp only [Tab.wf, Bool.and_eq_true, decide_eq_true_eq] at h
    obtain ⟨⟨hw, ha⟩, ht⟩ := h
    by_cases h1 : k < a
    · by_cases hv : v = d
      · simp [Tab.set, Tab.wf, h1, hv, hw, Tab.above_erase ha, Tab.wf_erase ht]
      · simp [Tab.set, Tab.wf, Tab.above, h1, hv, hw, ha, ht, Tab.above_mono (Nat.le_of_lt h1) ha]
    · by_cases h2 : k = a
      · subst h2
        by_cases hv : v = d <;> simp [Tab.set, Tab.wf, hv, ha, ht, Tab.wf_erase ht]
      · have : a < k := by omega
        simp [Tab.set, Tab.wf, h1, h2, hw, Tab.above_set this ha, ih ht]

end Sys2Proof
end

