-- ==== Sys2Proof/Laws/State.lean ====
section
/-! SUPPORT. One lemma for each field of the state and each update: what the update leaves alone. -/

namespace Sys2Proof.Machine

/-! `State.setGroup` -/
@[simp] theorem State.setGroup_cur (s : State) (k : Nat) (v : Group) : (s.setGroup k v).cur = s.cur := rfl
@[simp] theorem State.setGroup_clusters (s : State) (k : Nat) (v : Group) : (s.setGroup k v).clusters = s.clusters := rfl
@[simp] theorem State.setGroup_quiet (s : State) (k : Nat) (v : Group) : (s.setGroup k v).quiet = s.quiet := rfl
@[simp] theorem State.setGroup_teams (s : State) (k : Nat) (v : Group) : (s.setGroup k v).teams = s.teams := rfl
@[simp] theorem State.setGroup_launches (s : State) (k : Nat) (v : Group) : (s.setGroup k v).launches = s.launches := rfl
@[simp] theorem State.setGroup_ops (s : State) (k : Nat) (v : Group) : (s.setGroup k v).ops = s.ops := rfl
@[simp] theorem State.setGroup_reqs (s : State) (k : Nat) (v : Group) : (s.setGroup k v).reqs = s.reqs := rfl
@[simp] theorem State.setGroup_walks (s : State) (k : Nat) (v : Group) : (s.setGroup k v).walks = s.walks := rfl
@[simp] theorem State.setGroup_rdvs (s : State) (k : Nat) (v : Group) : (s.setGroup k v).rdvs = s.rdvs := rfl
@[simp] theorem State.setGroup_slices (s : State) (k : Nat) (v : Group) : (s.setGroup k v).slices = s.slices := rfl
@[simp] theorem State.setGroup_dies (s : State) (k : Nat) (v : Group) : (s.setGroup k v).dies = s.dies := rfl
@[simp] theorem State.setGroup_mem (s : State) (k : Nat) (v : Group) : (s.setGroup k v).mem = s.mem := rfl
@[simp] theorem State.setGroup_sectorPoison (s : State) (k : Nat) (v : Group) : (s.setGroup k v).sectorPoison = s.sectorPoison := rfl
@[simp] theorem State.setGroup_vaultPoison (s : State) (k : Nat) (v : Group) : (s.setGroup k v).vaultPoison = s.vaultPoison := rfl
@[simp] theorem State.setGroup_queues (s : State) (k : Nat) (v : Group) : (s.setGroup k v).queues = s.queues := rfl
@[simp] theorem State.setGroup_packets (s : State) (k : Nat) (v : Group) : (s.setGroup k v).packets = s.packets := rfl
@[simp] theorem State.setGroup_quotes (s : State) (k : Nat) (v : Group) : (s.setGroup k v).quotes = s.quotes := rfl
@[simp] theorem State.setGroup_resv (s : State) (k : Nat) (v : Group) : (s.setGroup k v).resv = s.resv := rfl
@[simp] theorem State.setGroup_dust (s : State) (k : Nat) (v : Group) : (s.setGroup k v).dust = s.dust := rfl
@[simp] theorem State.setGroup_rel (s : State) (k : Nat) (v : Group) : (s.setGroup k v).rel = s.rel := rfl
@[simp] theorem State.setGroup_ptp (s : State) (k : Nat) (v : Group) : (s.setGroup k v).ptp = s.ptp := rfl
@[simp] theorem State.setGroup_time (s : State) (k : Nat) (v : Group) : (s.setGroup k v).time = s.time := rfl
@[simp] theorem State.setGroup_cap (s : State) (k : Nat) (v : Group) : (s.setGroup k v).cap = s.cap := rfl
@[simp] theorem State.setGroup_staged (s : State) (k : Nat) (v : Group) : (s.setGroup k v).staged = s.staged := rfl
@[simp] theorem State.setGroup_fwVersion (s : State) (k : Nat) (v : Group) : (s.setGroup k v).fwVersion = s.fwVersion := rfl
@[simp] theorem State.setGroup_fwFloor (s : State) (k : Nat) (v : Group) : (s.setGroup k v).fwFloor = s.fwFloor := rfl
@[simp] theorem State.setGroup_outside (s : State) (k : Nat) (v : Group) : (s.setGroup k v).outside = s.outside := rfl
@[simp] theorem State.setGroup_inputs (s : State) (k : Nat) (v : Group) : (s.setGroup k v).inputs = s.inputs := rfl
@[simp] theorem State.setGroup_free (s : State) (k : Nat) (v : Group) : (s.setGroup k v).free = s.free := rfl
@[simp] theorem State.setGroup_nextUid (s : State) (k : Nat) (v : Group) : (s.setGroup k v).nextUid = s.nextUid := rfl

/-! `State.modGroup` -/
@[simp] theorem State.modGroup_cur (s : State) (k : Nat) (f : Group → Group) : (s.modGroup k f).cur = s.cur := rfl
@[simp] theorem State.modGroup_clusters (s : State) (k : Nat) (f : Group → Group) : (s.modGroup k f).clusters = s.clusters := rfl
@[simp] theorem State.modGroup_quiet (s : State) (k : Nat) (f : Group → Group) : (s.modGroup k f).quiet = s.quiet := rfl
@[simp] theorem State.modGroup_teams (s : State) (k : Nat) (f : Group → Group) : (s.modGroup k f).teams = s.teams := rfl
@[simp] theorem State.modGroup_launches (s : State) (k : Nat) (f : Group → Group) : (s.modGroup k f).launches = s.launches := rfl
@[simp] theorem State.modGroup_ops (s : State) (k : Nat) (f : Group → Group) : (s.modGroup k f).ops = s.ops := rfl
@[simp] theorem State.modGroup_reqs (s : State) (k : Nat) (f : Group → Group) : (s.modGroup k f).reqs = s.reqs := rfl
@[simp] theorem State.modGroup_walks (s : State) (k : Nat) (f : Group → Group) : (s.modGroup k f).walks = s.walks := rfl
@[simp] theorem State.modGroup_rdvs (s : State) (k : Nat) (f : Group → Group) : (s.modGroup k f).rdvs = s.rdvs := rfl
@[simp] theorem State.modGroup_slices (s : State) (k : Nat) (f : Group → Group) : (s.modGroup k f).slices = s.slices := rfl
@[simp] theorem State.modGroup_dies (s : State) (k : Nat) (f : Group → Group) : (s.modGroup k f).dies = s.dies := rfl
@[simp] theorem State.modGroup_mem (s : State) (k : Nat) (f : Group → Group) : (s.modGroup k f).mem = s.mem := rfl
@[simp] theorem State.modGroup_sectorPoison (s : State) (k : Nat) (f : Group → Group) : (s.modGroup k f).sectorPoison = s.sectorPoison := rfl
@[simp] theorem State.modGroup_vaultPoison (s : State) (k : Nat) (f : Group → Group) : (s.modGroup k f).vaultPoison = s.vaultPoison := rfl
@[simp] theorem State.modGroup_queues (s : State) (k : Nat) (f : Group → Group) : (s.modGroup k f).queues = s.queues := rfl
@[simp] theorem State.modGroup_packets (s : State) (k : Nat) (f : Group → Group) : (s.modGroup k f).packets = s.packets := rfl
@[simp] theorem State.modGroup_quotes (s : State) (k : Nat) (f : Group → Group) : (s.modGroup k f).quotes = s.quotes := rfl
@[simp] theorem State.modGroup_resv (s : State) (k : Nat) (f : Group → Group) : (s.modGroup k f).resv = s.resv := rfl
@[simp] theorem State.modGroup_dust (s : State) (k : Nat) (f : Group → Group) : (s.modGroup k f).dust = s.dust := rfl
@[simp] theorem State.modGroup_rel (s : State) (k : Nat) (f : Group → Group) : (s.modGroup k f).rel = s.rel := rfl
@[simp] theorem State.modGroup_ptp (s : State) (k : Nat) (f : Group → Group) : (s.modGroup k f).ptp = s.ptp := rfl
@[simp] theorem State.modGroup_time (s : State) (k : Nat) (f : Group → Group) : (s.modGroup k f).time = s.time := rfl
@[simp] theorem State.modGroup_cap (s : State) (k : Nat) (f : Group → Group) : (s.modGroup k f).cap = s.cap := rfl
@[simp] theorem State.modGroup_staged (s : State) (k : Nat) (f : Group → Group) : (s.modGroup k f).staged = s.staged := rfl
@[simp] theorem State.modGroup_fwVersion (s : State) (k : Nat) (f : Group → Group) : (s.modGroup k f).fwVersion = s.fwVersion := rfl
@[simp] theorem State.modGroup_fwFloor (s : State) (k : Nat) (f : Group → Group) : (s.modGroup k f).fwFloor = s.fwFloor := rfl
@[simp] theorem State.modGroup_outside (s : State) (k : Nat) (f : Group → Group) : (s.modGroup k f).outside = s.outside := rfl
@[simp] theorem State.modGroup_inputs (s : State) (k : Nat) (f : Group → Group) : (s.modGroup k f).inputs = s.inputs := rfl
@[simp] theorem State.modGroup_free (s : State) (k : Nat) (f : Group → Group) : (s.modGroup k f).free = s.free := rfl
@[simp] theorem State.modGroup_nextUid (s : State) (k : Nat) (f : Group → Group) : (s.modGroup k f).nextUid = s.nextUid := rfl

/-! `State.setCluster` -/
@[simp] theorem State.setCluster_cur (s : State) (k : Nat) (v : Cluster) : (s.setCluster k v).cur = s.cur := rfl
@[simp] theorem State.setCluster_groups (s : State) (k : Nat) (v : Cluster) : (s.setCluster k v).groups = s.groups := rfl
@[simp] theorem State.setCluster_quiet (s : State) (k : Nat) (v : Cluster) : (s.setCluster k v).quiet = s.quiet := rfl
@[simp] theorem State.setCluster_teams (s : State) (k : Nat) (v : Cluster) : (s.setCluster k v).teams = s.teams := rfl
@[simp] theorem State.setCluster_launches (s : State) (k : Nat) (v : Cluster) : (s.setCluster k v).launches = s.launches := rfl
@[simp] theorem State.setCluster_ops (s : State) (k : Nat) (v : Cluster) : (s.setCluster k v).ops = s.ops := rfl
@[simp] theorem State.setCluster_reqs (s : State) (k : Nat) (v : Cluster) : (s.setCluster k v).reqs = s.reqs := rfl
@[simp] theorem State.setCluster_walks (s : State) (k : Nat) (v : Cluster) : (s.setCluster k v).walks = s.walks := rfl
@[simp] theorem State.setCluster_rdvs (s : State) (k : Nat) (v : Cluster) : (s.setCluster k v).rdvs = s.rdvs := rfl
@[simp] theorem State.setCluster_slices (s : State) (k : Nat) (v : Cluster) : (s.setCluster k v).slices = s.slices := rfl
@[simp] theorem State.setCluster_dies (s : State) (k : Nat) (v : Cluster) : (s.setCluster k v).dies = s.dies := rfl
@[simp] theorem State.setCluster_mem (s : State) (k : Nat) (v : Cluster) : (s.setCluster k v).mem = s.mem := rfl
@[simp] theorem State.setCluster_sectorPoison (s : State) (k : Nat) (v : Cluster) : (s.setCluster k v).sectorPoison = s.sectorPoison := rfl
@[simp] theorem State.setCluster_vaultPoison (s : State) (k : Nat) (v : Cluster) : (s.setCluster k v).vaultPoison = s.vaultPoison := rfl
@[simp] theorem State.setCluster_queues (s : State) (k : Nat) (v : Cluster) : (s.setCluster k v).queues = s.queues := rfl
@[simp] theorem State.setCluster_packets (s : State) (k : Nat) (v : Cluster) : (s.setCluster k v).packets = s.packets := rfl
@[simp] theorem State.setCluster_quotes (s : State) (k : Nat) (v : Cluster) : (s.setCluster k v).quotes = s.quotes := rfl
@[simp] theorem State.setCluster_resv (s : State) (k : Nat) (v : Cluster) : (s.setCluster k v).resv = s.resv := rfl
@[simp] theorem State.setCluster_dust (s : State) (k : Nat) (v : Cluster) : (s.setCluster k v).dust = s.dust := rfl
@[simp] theorem State.setCluster_rel (s : State) (k : Nat) (v : Cluster) : (s.setCluster k v).rel = s.rel := rfl
@[simp] theorem State.setCluster_ptp (s : State) (k : Nat) (v : Cluster) : (s.setCluster k v).ptp = s.ptp := rfl
@[simp] theorem State.setCluster_time (s : State) (k : Nat) (v : Cluster) : (s.setCluster k v).time = s.time := rfl
@[simp] theorem State.setCluster_cap (s : State) (k : Nat) (v : Cluster) : (s.setCluster k v).cap = s.cap := rfl
@[simp] theorem State.setCluster_staged (s : State) (k : Nat) (v : Cluster) : (s.setCluster k v).staged = s.staged := rfl
@[simp] theorem State.setCluster_fwVersion (s : State) (k : Nat) (v : Cluster) : (s.setCluster k v).fwVersion = s.fwVersion := rfl
@[simp] theorem State.setCluster_fwFloor (s : State) (k : Nat) (v : Cluster) : (s.setCluster k v).fwFloor = s.fwFloor := rfl
@[simp] theorem State.setCluster_outside (s : State) (k : Nat) (v : Cluster) : (s.setCluster k v).outside = s.outside := rfl
@[simp] theorem State.setCluster_inputs (s : State) (k : Nat) (v : Cluster) : (s.setCluster k v).inputs = s.inputs := rfl
@[simp] theorem State.setCluster_free (s : State) (k : Nat) (v : Cluster) : (s.setCluster k v).free = s.free := rfl
@[simp] theorem State.setCluster_nextUid (s : State) (k : Nat) (v : Cluster) : (s.setCluster k v).nextUid = s.nextUid := rfl

/-! `State.modCluster` -/
@[simp] theorem State.modCluster_cur (s : State) (k : Nat) (f : Cluster → Cluster) : (s.modCluster k f).cur = s.cur := rfl
@[simp] theorem State.modCluster_groups (s : State) (k : Nat) (f : Cluster → Cluster) : (s.modCluster k f).groups = s.groups := rfl
@[simp] theorem State.modCluster_quiet (s : State) (k : Nat) (f : Cluster → Cluster) : (s.modCluster k f).quiet = s.quiet := rfl
@[simp] theorem State.modCluster_teams (s : State) (k : Nat) (f : Cluster → Cluster) : (s.modCluster k f).teams = s.teams := rfl
@[simp] theorem State.modCluster_launches (s : State) (k : Nat) (f : Cluster → Cluster) : (s.modCluster k f).launches = s.launches := rfl
@[simp] theorem State.modCluster_ops (s : State) (k : Nat) (f : Cluster → Cluster) : (s.modCluster k f).ops = s.ops := rfl
@[simp] theorem State.modCluster_reqs (s : State) (k : Nat) (f : Cluster → Cluster) : (s.modCluster k f).reqs = s.reqs := rfl
@[simp] theorem State.modCluster_walks (s : State) (k : Nat) (f : Cluster → Cluster) : (s.modCluster k f).walks = s.walks := rfl
@[simp] theorem State.modCluster_rdvs (s : State) (k : Nat) (f : Cluster → Cluster) : (s.modCluster k f).rdvs = s.rdvs := rfl
@[simp] theorem State.modCluster_slices (s : State) (k : Nat) (f : Cluster → Cluster) : (s.modCluster k f).slices = s.slices := rfl
@[simp] theorem State.modCluster_dies (s : State) (k : Nat) (f : Cluster → Cluster) : (s.modCluster k f).dies = s.dies := rfl
@[simp] theorem State.modCluster_mem (s : State) (k : Nat) (f : Cluster → Cluster) : (s.modCluster k f).mem = s.mem := rfl
@[simp] theorem State.modCluster_sectorPoison (s : State) (k : Nat) (f : Cluster → Cluster) : (s.modCluster k f).sectorPoison = s.sectorPoison := rfl
@[simp] theorem State.modCluster_vaultPoison (s : State) (k : Nat) (f : Cluster → Cluster) : (s.modCluster k f).vaultPoison = s.vaultPoison := rfl
@[simp] theorem State.modCluster_queues (s : State) (k : Nat) (f : Cluster → Cluster) : (s.modCluster k f).queues = s.queues := rfl
@[simp] theorem State.modCluster_packets (s : State) (k : Nat) (f : Cluster → Cluster) : (s.modCluster k f).packets = s.packets := rfl
@[simp] theorem State.modCluster_quotes (s : State) (k : Nat) (f : Cluster → Cluster) : (s.modCluster k f).quotes = s.quotes := rfl
@[simp] theorem State.modCluster_resv (s : State) (k : Nat) (f : Cluster → Cluster) : (s.modCluster k f).resv = s.resv := rfl
@[simp] theorem State.modCluster_dust (s : State) (k : Nat) (f : Cluster → Cluster) : (s.modCluster k f).dust = s.dust := rfl
@[simp] theorem State.modCluster_rel (s : State) (k : Nat) (f : Cluster → Cluster) : (s.modCluster k f).rel = s.rel := rfl
@[simp] theorem State.modCluster_ptp (s : State) (k : Nat) (f : Cluster → Cluster) : (s.modCluster k f).ptp = s.ptp := rfl
@[simp] theorem State.modCluster_time (s : State) (k : Nat) (f : Cluster → Cluster) : (s.modCluster k f).time = s.time := rfl
@[simp] theorem State.modCluster_cap (s : State) (k : Nat) (f : Cluster → Cluster) : (s.modCluster k f).cap = s.cap := rfl
@[simp] theorem State.modCluster_staged (s : State) (k : Nat) (f : Cluster → Cluster) : (s.modCluster k f).staged = s.staged := rfl
@[simp] theorem State.modCluster_fwVersion (s : State) (k : Nat) (f : Cluster → Cluster) : (s.modCluster k f).fwVersion = s.fwVersion := rfl
@[simp] theorem State.modCluster_fwFloor (s : State) (k : Nat) (f : Cluster → Cluster) : (s.modCluster k f).fwFloor = s.fwFloor := rfl
@[simp] theorem State.modCluster_outside (s : State) (k : Nat) (f : Cluster → Cluster) : (s.modCluster k f).outside = s.outside := rfl
@[simp] theorem State.modCluster_inputs (s : State) (k : Nat) (f : Cluster → Cluster) : (s.modCluster k f).inputs = s.inputs := rfl
@[simp] theorem State.modCluster_free (s : State) (k : Nat) (f : Cluster → Cluster) : (s.modCluster k f).free = s.free := rfl
@[simp] theorem State.modCluster_nextUid (s : State) (k : Nat) (f : Cluster → Cluster) : (s.modCluster k f).nextUid = s.nextUid := rfl

/-! `State.setTeam` -/
@[simp] theorem State.setTeam_cur (s : State) (k : Nat) (v : Team) : (s.setTeam k v).cur = s.cur := rfl
@[simp] theorem State.setTeam_groups (s : State) (k : Nat) (v : Team) : (s.setTeam k v).groups = s.groups := rfl
@[simp] theorem State.setTeam_clusters (s : State) (k : Nat) (v : Team) : (s.setTeam k v).clusters = s.clusters := rfl
@[simp] theorem State.setTeam_quiet (s : State) (k : Nat) (v : Team) : (s.setTeam k v).quiet = s.quiet := rfl
@[simp] theorem State.setTeam_launches (s : State) (k : Nat) (v : Team) : (s.setTeam k v).launches = s.launches := rfl
@[simp] theorem State.setTeam_ops (s : State) (k : Nat) (v : Team) : (s.setTeam k v).ops = s.ops := rfl
@[simp] theorem State.setTeam_reqs (s : State) (k : Nat) (v : Team) : (s.setTeam k v).reqs = s.reqs := rfl
@[simp] theorem State.setTeam_walks (s : State) (k : Nat) (v : Team) : (s.setTeam k v).walks = s.walks := rfl
@[simp] theorem State.setTeam_rdvs (s : State) (k : Nat) (v : Team) : (s.setTeam k v).rdvs = s.rdvs := rfl
@[simp] theorem State.setTeam_slices (s : State) (k : Nat) (v : Team) : (s.setTeam k v).slices = s.slices := rfl
@[simp] theorem State.setTeam_dies (s : State) (k : Nat) (v : Team) : (s.setTeam k v).dies = s.dies := rfl
@[simp] theorem State.setTeam_mem (s : State) (k : Nat) (v : Team) : (s.setTeam k v).mem = s.mem := rfl
@[simp] theorem State.setTeam_sectorPoison (s : State) (k : Nat) (v : Team) : (s.setTeam k v).sectorPoison = s.sectorPoison := rfl
@[simp] theorem State.setTeam_vaultPoison (s : State) (k : Nat) (v : Team) : (s.setTeam k v).vaultPoison = s.vaultPoison := rfl
@[simp] theorem State.setTeam_queues (s : State) (k : Nat) (v : Team) : (s.setTeam k v).queues = s.queues := rfl
@[simp] theorem State.setTeam_packets (s : State) (k : Nat) (v : Team) : (s.setTeam k v).packets = s.packets := rfl
@[simp] theorem State.setTeam_quotes (s : State) (k : Nat) (v : Team) : (s.setTeam k v).quotes = s.quotes := rfl
@[simp] theorem State.setTeam_resv (s : State) (k : Nat) (v : Team) : (s.setTeam k v).resv = s.resv := rfl
@[simp] theorem State.setTeam_dust (s : State) (k : Nat) (v : Team) : (s.setTeam k v).dust = s.dust := rfl
@[simp] theorem State.setTeam_rel (s : State) (k : Nat) (v : Team) : (s.setTeam k v).rel = s.rel := rfl
@[simp] theorem State.setTeam_ptp (s : State) (k : Nat) (v : Team) : (s.setTeam k v).ptp = s.ptp := rfl
@[simp] theorem State.setTeam_time (s : State) (k : Nat) (v : Team) : (s.setTeam k v).time = s.time := rfl
@[simp] theorem State.setTeam_cap (s : State) (k : Nat) (v : Team) : (s.setTeam k v).cap = s.cap := rfl
@[simp] theorem State.setTeam_staged (s : State) (k : Nat) (v : Team) : (s.setTeam k v).staged = s.staged := rfl
@[simp] theorem State.setTeam_fwVersion (s : State) (k : Nat) (v : Team) : (s.setTeam k v).fwVersion = s.fwVersion := rfl
@[simp] theorem State.setTeam_fwFloor (s : State) (k : Nat) (v : Team) : (s.setTeam k v).fwFloor = s.fwFloor := rfl
@[simp] theorem State.setTeam_outside (s : State) (k : Nat) (v : Team) : (s.setTeam k v).outside = s.outside := rfl
@[simp] theorem State.setTeam_inputs (s : State) (k : Nat) (v : Team) : (s.setTeam k v).inputs = s.inputs := rfl
@[simp] theorem State.setTeam_free (s : State) (k : Nat) (v : Team) : (s.setTeam k v).free = s.free := rfl
@[simp] theorem State.setTeam_nextUid (s : State) (k : Nat) (v : Team) : (s.setTeam k v).nextUid = s.nextUid := rfl

/-! `State.modTeam` -/
@[simp] theorem State.modTeam_cur (s : State) (k : Nat) (f : Team → Team) : (s.modTeam k f).cur = s.cur := rfl
@[simp] theorem State.modTeam_groups (s : State) (k : Nat) (f : Team → Team) : (s.modTeam k f).groups = s.groups := rfl
@[simp] theorem State.modTeam_clusters (s : State) (k : Nat) (f : Team → Team) : (s.modTeam k f).clusters = s.clusters := rfl
@[simp] theorem State.modTeam_quiet (s : State) (k : Nat) (f : Team → Team) : (s.modTeam k f).quiet = s.quiet := rfl
@[simp] theorem State.modTeam_launches (s : State) (k : Nat) (f : Team → Team) : (s.modTeam k f).launches = s.launches := rfl
@[simp] theorem State.modTeam_ops (s : State) (k : Nat) (f : Team → Team) : (s.modTeam k f).ops = s.ops := rfl
@[simp] theorem State.modTeam_reqs (s : State) (k : Nat) (f : Team → Team) : (s.modTeam k f).reqs = s.reqs := rfl
@[simp] theorem State.modTeam_walks (s : State) (k : Nat) (f : Team → Team) : (s.modTeam k f).walks = s.walks := rfl
@[simp] theorem State.modTeam_rdvs (s : State) (k : Nat) (f : Team → Team) : (s.modTeam k f).rdvs = s.rdvs := rfl
@[simp] theorem State.modTeam_slices (s : State) (k : Nat) (f : Team → Team) : (s.modTeam k f).slices = s.slices := rfl
@[simp] theorem State.modTeam_dies (s : State) (k : Nat) (f : Team → Team) : (s.modTeam k f).dies = s.dies := rfl
@[simp] theorem State.modTeam_mem (s : State) (k : Nat) (f : Team → Team) : (s.modTeam k f).mem = s.mem := rfl
@[simp] theorem State.modTeam_sectorPoison (s : State) (k : Nat) (f : Team → Team) : (s.modTeam k f).sectorPoison = s.sectorPoison := rfl
@[simp] theorem State.modTeam_vaultPoison (s : State) (k : Nat) (f : Team → Team) : (s.modTeam k f).vaultPoison = s.vaultPoison := rfl
@[simp] theorem State.modTeam_queues (s : State) (k : Nat) (f : Team → Team) : (s.modTeam k f).queues = s.queues := rfl
@[simp] theorem State.modTeam_packets (s : State) (k : Nat) (f : Team → Team) : (s.modTeam k f).packets = s.packets := rfl
@[simp] theorem State.modTeam_quotes (s : State) (k : Nat) (f : Team → Team) : (s.modTeam k f).quotes = s.quotes := rfl
@[simp] theorem State.modTeam_resv (s : State) (k : Nat) (f : Team → Team) : (s.modTeam k f).resv = s.resv := rfl
@[simp] theorem State.modTeam_dust (s : State) (k : Nat) (f : Team → Team) : (s.modTeam k f).dust = s.dust := rfl
@[simp] theorem State.modTeam_rel (s : State) (k : Nat) (f : Team → Team) : (s.modTeam k f).rel = s.rel := rfl
@[simp] theorem State.modTeam_ptp (s : State) (k : Nat) (f : Team → Team) : (s.modTeam k f).ptp = s.ptp := rfl
@[simp] theorem State.modTeam_time (s : State) (k : Nat) (f : Team → Team) : (s.modTeam k f).time = s.time := rfl
@[simp] theorem State.modTeam_cap (s : State) (k : Nat) (f : Team → Team) : (s.modTeam k f).cap = s.cap := rfl
@[simp] theorem State.modTeam_staged (s : State) (k : Nat) (f : Team → Team) : (s.modTeam k f).staged = s.staged := rfl
@[simp] theorem State.modTeam_fwVersion (s : State) (k : Nat) (f : Team → Team) : (s.modTeam k f).fwVersion = s.fwVersion := rfl
@[simp] theorem State.modTeam_fwFloor (s : State) (k : Nat) (f : Team → Team) : (s.modTeam k f).fwFloor = s.fwFloor := rfl
@[simp] theorem State.modTeam_outside (s : State) (k : Nat) (f : Team → Team) : (s.modTeam k f).outside = s.outside := rfl
@[simp] theorem State.modTeam_inputs (s : State) (k : Nat) (f : Team → Team) : (s.modTeam k f).inputs = s.inputs := rfl
@[simp] theorem State.modTeam_free (s : State) (k : Nat) (f : Team → Team) : (s.modTeam k f).free = s.free := rfl
@[simp] theorem State.modTeam_nextUid (s : State) (k : Nat) (f : Team → Team) : (s.modTeam k f).nextUid = s.nextUid := rfl

/-! `State.setLaunch` -/
@[simp] theorem State.setLaunch_cur (s : State) (k : Nat) (v : Launch) : (s.setLaunch k v).cur = s.cur := rfl
@[simp] theorem State.setLaunch_groups (s : State) (k : Nat) (v : Launch) : (s.setLaunch k v).groups = s.groups := rfl
@[simp] theorem State.setLaunch_clusters (s : State) (k : Nat) (v : Launch) : (s.setLaunch k v).clusters = s.clusters := rfl
@[simp] theorem State.setLaunch_quiet (s : State) (k : Nat) (v : Launch) : (s.setLaunch k v).quiet = s.quiet := rfl
@[simp] theorem State.setLaunch_teams (s : State) (k : Nat) (v : Launch) : (s.setLaunch k v).teams = s.teams := rfl
@[simp] theorem State.setLaunch_ops (s : State) (k : Nat) (v : Launch) : (s.setLaunch k v).ops = s.ops := rfl
@[simp] theorem State.setLaunch_reqs (s : State) (k : Nat) (v : Launch) : (s.setLaunch k v).reqs = s.reqs := rfl
@[simp] theorem State.setLaunch_walks (s : State) (k : Nat) (v : Launch) : (s.setLaunch k v).walks = s.walks := rfl
@[simp] theorem State.setLaunch_rdvs (s : State) (k : Nat) (v : Launch) : (s.setLaunch k v).rdvs = s.rdvs := rfl
@[simp] theorem State.setLaunch_slices (s : State) (k : Nat) (v : Launch) : (s.setLaunch k v).slices = s.slices := rfl
@[simp] theorem State.setLaunch_dies (s : State) (k : Nat) (v : Launch) : (s.setLaunch k v).dies = s.dies := rfl
@[simp] theorem State.setLaunch_mem (s : State) (k : Nat) (v : Launch) : (s.setLaunch k v).mem = s.mem := rfl
@[simp] theorem State.setLaunch_sectorPoison (s : State) (k : Nat) (v : Launch) : (s.setLaunch k v).sectorPoison = s.sectorPoison := rfl
@[simp] theorem State.setLaunch_vaultPoison (s : State) (k : Nat) (v : Launch) : (s.setLaunch k v).vaultPoison = s.vaultPoison := rfl
@[simp] theorem State.setLaunch_queues (s : State) (k : Nat) (v : Launch) : (s.setLaunch k v).queues = s.queues := rfl
@[simp] theorem State.setLaunch_packets (s : State) (k : Nat) (v : Launch) : (s.setLaunch k v).packets = s.packets := rfl
@[simp] theorem State.setLaunch_quotes (s : State) (k : Nat) (v : Launch) : (s.setLaunch k v).quotes = s.quotes := rfl
@[simp] theorem State.setLaunch_resv (s : State) (k : Nat) (v : Launch) : (s.setLaunch k v).resv = s.resv := rfl
@[simp] theorem State.setLaunch_dust (s : State) (k : Nat) (v : Launch) : (s.setLaunch k v).dust = s.dust := rfl
@[simp] theorem State.setLaunch_rel (s : State) (k : Nat) (v : Launch) : (s.setLaunch k v).rel = s.rel := rfl
@[simp] theorem State.setLaunch_ptp (s : State) (k : Nat) (v : Launch) : (s.setLaunch k v).ptp = s.ptp := rfl
@[simp] theorem State.setLaunch_time (s : State) (k : Nat) (v : Launch) : (s.setLaunch k v).time = s.time := rfl
@[simp] theorem State.setLaunch_cap (s : State) (k : Nat) (v : Launch) : (s.setLaunch k v).cap = s.cap := rfl
@[simp] theorem State.setLaunch_staged (s : State) (k : Nat) (v : Launch) : (s.setLaunch k v).staged = s.staged := rfl
@[simp] theorem State.setLaunch_fwVersion (s : State) (k : Nat) (v : Launch) : (s.setLaunch k v).fwVersion = s.fwVersion := rfl
@[simp] theorem State.setLaunch_fwFloor (s : State) (k : Nat) (v : Launch) : (s.setLaunch k v).fwFloor = s.fwFloor := rfl
@[simp] theorem State.setLaunch_outside (s : State) (k : Nat) (v : Launch) : (s.setLaunch k v).outside = s.outside := rfl
@[simp] theorem State.setLaunch_inputs (s : State) (k : Nat) (v : Launch) : (s.setLaunch k v).inputs = s.inputs := rfl
@[simp] theorem State.setLaunch_free (s : State) (k : Nat) (v : Launch) : (s.setLaunch k v).free = s.free := rfl
@[simp] theorem State.setLaunch_nextUid (s : State) (k : Nat) (v : Launch) : (s.setLaunch k v).nextUid = s.nextUid := rfl

/-! `State.modLaunch` -/
@[simp] theorem State.modLaunch_cur (s : State) (k : Nat) (f : Launch → Launch) : (s.modLaunch k f).cur = s.cur := rfl
@[simp] theorem State.modLaunch_groups (s : State) (k : Nat) (f : Launch → Launch) : (s.modLaunch k f).groups = s.groups := rfl
@[simp] theorem State.modLaunch_clusters (s : State) (k : Nat) (f : Launch → Launch) : (s.modLaunch k f).clusters = s.clusters := rfl
@[simp] theorem State.modLaunch_quiet (s : State) (k : Nat) (f : Launch → Launch) : (s.modLaunch k f).quiet = s.quiet := rfl
@[simp] theorem State.modLaunch_teams (s : State) (k : Nat) (f : Launch → Launch) : (s.modLaunch k f).teams = s.teams := rfl
@[simp] theorem State.modLaunch_ops (s : State) (k : Nat) (f : Launch → Launch) : (s.modLaunch k f).ops = s.ops := rfl
@[simp] theorem State.modLaunch_reqs (s : State) (k : Nat) (f : Launch → Launch) : (s.modLaunch k f).reqs = s.reqs := rfl
@[simp] theorem State.modLaunch_walks (s : State) (k : Nat) (f : Launch → Launch) : (s.modLaunch k f).walks = s.walks := rfl
@[simp] theorem State.modLaunch_rdvs (s : State) (k : Nat) (f : Launch → Launch) : (s.modLaunch k f).rdvs = s.rdvs := rfl
@[simp] theorem State.modLaunch_slices (s : State) (k : Nat) (f : Launch → Launch) : (s.modLaunch k f).slices = s.slices := rfl
@[simp] theorem State.modLaunch_dies (s : State) (k : Nat) (f : Launch → Launch) : (s.modLaunch k f).dies = s.dies := rfl
@[simp] theorem State.modLaunch_mem (s : State) (k : Nat) (f : Launch → Launch) : (s.modLaunch k f).mem = s.mem := rfl
@[simp] theorem State.modLaunch_sectorPoison (s : State) (k : Nat) (f : Launch → Launch) : (s.modLaunch k f).sectorPoison = s.sectorPoison := rfl
@[simp] theorem State.modLaunch_vaultPoison (s : State) (k : Nat) (f : Launch → Launch) : (s.modLaunch k f).vaultPoison = s.vaultPoison := rfl
@[simp] theorem State.modLaunch_queues (s : State) (k : Nat) (f : Launch → Launch) : (s.modLaunch k f).queues = s.queues := rfl
@[simp] theorem State.modLaunch_packets (s : State) (k : Nat) (f : Launch → Launch) : (s.modLaunch k f).packets = s.packets := rfl
@[simp] theorem State.modLaunch_quotes (s : State) (k : Nat) (f : Launch → Launch) : (s.modLaunch k f).quotes = s.quotes := rfl
@[simp] theorem State.modLaunch_resv (s : State) (k : Nat) (f : Launch → Launch) : (s.modLaunch k f).resv = s.resv := rfl
@[simp] theorem State.modLaunch_dust (s : State) (k : Nat) (f : Launch → Launch) : (s.modLaunch k f).dust = s.dust := rfl
@[simp] theorem State.modLaunch_rel (s : State) (k : Nat) (f : Launch → Launch) : (s.modLaunch k f).rel = s.rel := rfl
@[simp] theorem State.modLaunch_ptp (s : State) (k : Nat) (f : Launch → Launch) : (s.modLaunch k f).ptp = s.ptp := rfl
@[simp] theorem State.modLaunch_time (s : State) (k : Nat) (f : Launch → Launch) : (s.modLaunch k f).time = s.time := rfl
@[simp] theorem State.modLaunch_cap (s : State) (k : Nat) (f : Launch → Launch) : (s.modLaunch k f).cap = s.cap := rfl
@[simp] theorem State.modLaunch_staged (s : State) (k : Nat) (f : Launch → Launch) : (s.modLaunch k f).staged = s.staged := rfl
@[simp] theorem State.modLaunch_fwVersion (s : State) (k : Nat) (f : Launch → Launch) : (s.modLaunch k f).fwVersion = s.fwVersion := rfl
@[simp] theorem State.modLaunch_fwFloor (s : State) (k : Nat) (f : Launch → Launch) : (s.modLaunch k f).fwFloor = s.fwFloor := rfl
@[simp] theorem State.modLaunch_outside (s : State) (k : Nat) (f : Launch → Launch) : (s.modLaunch k f).outside = s.outside := rfl
@[simp] theorem State.modLaunch_inputs (s : State) (k : Nat) (f : Launch → Launch) : (s.modLaunch k f).inputs = s.inputs := rfl
@[simp] theorem State.modLaunch_free (s : State) (k : Nat) (f : Launch → Launch) : (s.modLaunch k f).free = s.free := rfl
@[simp] theorem State.modLaunch_nextUid (s : State) (k : Nat) (f : Launch → Launch) : (s.modLaunch k f).nextUid = s.nextUid := rfl

/-! `State.setOp` -/
@[simp] theorem State.setOp_cur (s : State) (k : Nat) (v : Op) : (s.setOp k v).cur = s.cur := rfl
@[simp] theorem State.setOp_groups (s : State) (k : Nat) (v : Op) : (s.setOp k v).groups = s.groups := rfl
@[simp] theorem State.setOp_clusters (s : State) (k : Nat) (v : Op) : (s.setOp k v).clusters = s.clusters := rfl
@[simp] theorem State.setOp_quiet (s : State) (k : Nat) (v : Op) : (s.setOp k v).quiet = s.quiet := rfl
@[simp] theorem State.setOp_teams (s : State) (k : Nat) (v : Op) : (s.setOp k v).teams = s.teams := rfl
@[simp] theorem State.setOp_launches (s : State) (k : Nat) (v : Op) : (s.setOp k v).launches = s.launches := rfl
@[simp] theorem State.setOp_reqs (s : State) (k : Nat) (v : Op) : (s.setOp k v).reqs = s.reqs := rfl
@[simp] theorem State.setOp_walks (s : State) (k : Nat) (v : Op) : (s.setOp k v).walks = s.walks := rfl
@[simp] theorem State.setOp_rdvs (s : State) (k : Nat) (v : Op) : (s.setOp k v).rdvs = s.rdvs := rfl
@[simp] theorem State.setOp_slices (s : State) (k : Nat) (v : Op) : (s.setOp k v).slices = s.slices := rfl
@[simp] theorem State.setOp_dies (s : State) (k : Nat) (v : Op) : (s.setOp k v).dies = s.dies := rfl
@[simp] theorem State.setOp_mem (s : State) (k : Nat) (v : Op) : (s.setOp k v).mem = s.mem := rfl
@[simp] theorem State.setOp_sectorPoison (s : State) (k : Nat) (v : Op) : (s.setOp k v).sectorPoison = s.sectorPoison := rfl
@[simp] theorem State.setOp_vaultPoison (s : State) (k : Nat) (v : Op) : (s.setOp k v).vaultPoison = s.vaultPoison := rfl
@[simp] theorem State.setOp_queues (s : State) (k : Nat) (v : Op) : (s.setOp k v).queues = s.queues := rfl
@[simp] theorem State.setOp_packets (s : State) (k : Nat) (v : Op) : (s.setOp k v).packets = s.packets := rfl
@[simp] theorem State.setOp_quotes (s : State) (k : Nat) (v : Op) : (s.setOp k v).quotes = s.quotes := rfl
@[simp] theorem State.setOp_resv (s : State) (k : Nat) (v : Op) : (s.setOp k v).resv = s.resv := rfl
@[simp] theorem State.setOp_dust (s : State) (k : Nat) (v : Op) : (s.setOp k v).dust = s.dust := rfl
@[simp] theorem State.setOp_rel (s : State) (k : Nat) (v : Op) : (s.setOp k v).rel = s.rel := rfl
@[simp] theorem State.setOp_ptp (s : State) (k : Nat) (v : Op) : (s.setOp k v).ptp = s.ptp := rfl
@[simp] theorem State.setOp_time (s : State) (k : Nat) (v : Op) : (s.setOp k v).time = s.time := rfl
@[simp] theorem State.setOp_cap (s : State) (k : Nat) (v : Op) : (s.setOp k v).cap = s.cap := rfl
@[simp] theorem State.setOp_staged (s : State) (k : Nat) (v : Op) : (s.setOp k v).staged = s.staged := rfl
@[simp] theorem State.setOp_fwVersion (s : State) (k : Nat) (v : Op) : (s.setOp k v).fwVersion = s.fwVersion := rfl
@[simp] theorem State.setOp_fwFloor (s : State) (k : Nat) (v : Op) : (s.setOp k v).fwFloor = s.fwFloor := rfl
@[simp] theorem State.setOp_outside (s : State) (k : Nat) (v : Op) : (s.setOp k v).outside = s.outside := rfl
@[simp] theorem State.setOp_inputs (s : State) (k : Nat) (v : Op) : (s.setOp k v).inputs = s.inputs := rfl
@[simp] theorem State.setOp_free (s : State) (k : Nat) (v : Op) : (s.setOp k v).free = s.free := rfl
@[simp] theorem State.setOp_nextUid (s : State) (k : Nat) (v : Op) : (s.setOp k v).nextUid = s.nextUid := rfl

/-! `State.setReq` -/
@[simp] theorem State.setReq_cur (s : State) (k : Nat) (v : Req) : (s.setReq k v).cur = s.cur := rfl
@[simp] theorem State.setReq_groups (s : State) (k : Nat) (v : Req) : (s.setReq k v).groups = s.groups := rfl
@[simp] theorem State.setReq_clusters (s : State) (k : Nat) (v : Req) : (s.setReq k v).clusters = s.clusters := rfl
@[simp] theorem State.setReq_quiet (s : State) (k : Nat) (v : Req) : (s.setReq k v).quiet = s.quiet := rfl
@[simp] theorem State.setReq_teams (s : State) (k : Nat) (v : Req) : (s.setReq k v).teams = s.teams := rfl
@[simp] theorem State.setReq_launches (s : State) (k : Nat) (v : Req) : (s.setReq k v).launches = s.launches := rfl
@[simp] theorem State.setReq_ops (s : State) (k : Nat) (v : Req) : (s.setReq k v).ops = s.ops := rfl
@[simp] theorem State.setReq_walks (s : State) (k : Nat) (v : Req) : (s.setReq k v).walks = s.walks := rfl
@[simp] theorem State.setReq_rdvs (s : State) (k : Nat) (v : Req) : (s.setReq k v).rdvs = s.rdvs := rfl
@[simp] theorem State.setReq_slices (s : State) (k : Nat) (v : Req) : (s.setReq k v).slices = s.slices := rfl
@[simp] theorem State.setReq_dies (s : State) (k : Nat) (v : Req) : (s.setReq k v).dies = s.dies := rfl
@[simp] theorem State.setReq_mem (s : State) (k : Nat) (v : Req) : (s.setReq k v).mem = s.mem := rfl
@[simp] theorem State.setReq_sectorPoison (s : State) (k : Nat) (v : Req) : (s.setReq k v).sectorPoison = s.sectorPoison := rfl
@[simp] theorem State.setReq_vaultPoison (s : State) (k : Nat) (v : Req) : (s.setReq k v).vaultPoison = s.vaultPoison := rfl
@[simp] theorem State.setReq_queues (s : State) (k : Nat) (v : Req) : (s.setReq k v).queues = s.queues := rfl
@[simp] theorem State.setReq_packets (s : State) (k : Nat) (v : Req) : (s.setReq k v).packets = s.packets := rfl
@[simp] theorem State.setReq_quotes (s : State) (k : Nat) (v : Req) : (s.setReq k v).quotes = s.quotes := rfl
@[simp] theorem State.setReq_resv (s : State) (k : Nat) (v : Req) : (s.setReq k v).resv = s.resv := rfl
@[simp] theorem State.setReq_dust (s : State) (k : Nat) (v : Req) : (s.setReq k v).dust = s.dust := rfl
@[simp] theorem State.setReq_rel (s : State) (k : Nat) (v : Req) : (s.setReq k v).rel = s.rel := rfl
@[simp] theorem State.setReq_ptp (s : State) (k : Nat) (v : Req) : (s.setReq k v).ptp = s.ptp := rfl
@[simp] theorem State.setReq_time (s : State) (k : Nat) (v : Req) : (s.setReq k v).time = s.time := rfl
@[simp] theorem State.setReq_cap (s : State) (k : Nat) (v : Req) : (s.setReq k v).cap = s.cap := rfl
@[simp] theorem State.setReq_staged (s : State) (k : Nat) (v : Req) : (s.setReq k v).staged = s.staged := rfl
@[simp] theorem State.setReq_fwVersion (s : State) (k : Nat) (v : Req) : (s.setReq k v).fwVersion = s.fwVersion := rfl
@[simp] theorem State.setReq_fwFloor (s : State) (k : Nat) (v : Req) : (s.setReq k v).fwFloor = s.fwFloor := rfl
@[simp] theorem State.setReq_outside (s : State) (k : Nat) (v : Req) : (s.setReq k v).outside = s.outside := rfl
@[simp] theorem State.setReq_inputs (s : State) (k : Nat) (v : Req) : (s.setReq k v).inputs = s.inputs := rfl
@[simp] theorem State.setReq_free (s : State) (k : Nat) (v : Req) : (s.setReq k v).free = s.free := rfl
@[simp] theorem State.setReq_nextUid (s : State) (k : Nat) (v : Req) : (s.setReq k v).nextUid = s.nextUid := rfl

/-! `State.setSlice` -/
@[simp] theorem State.setSlice_cur (s : State) (k : Nat) (v : Slice) : (s.setSlice k v).cur = s.cur := rfl
@[simp] theorem State.setSlice_groups (s : State) (k : Nat) (v : Slice) : (s.setSlice k v).groups = s.groups := rfl
@[simp] theorem State.setSlice_clusters (s : State) (k : Nat) (v : Slice) : (s.setSlice k v).clusters = s.clusters := rfl
@[simp] theorem State.setSlice_quiet (s : State) (k : Nat) (v : Slice) : (s.setSlice k v).quiet = s.quiet := rfl
@[simp] theorem State.setSlice_teams (s : State) (k : Nat) (v : Slice) : (s.setSlice k v).teams = s.teams := rfl
@[simp] theorem State.setSlice_launches (s : State) (k : Nat) (v : Slice) : (s.setSlice k v).launches = s.launches := rfl
@[simp] theorem State.setSlice_ops (s : State) (k : Nat) (v : Slice) : (s.setSlice k v).ops = s.ops := rfl
@[simp] theorem State.setSlice_reqs (s : State) (k : Nat) (v : Slice) : (s.setSlice k v).reqs = s.reqs := rfl
@[simp] theorem State.setSlice_walks (s : State) (k : Nat) (v : Slice) : (s.setSlice k v).walks = s.walks := rfl
@[simp] theorem State.setSlice_rdvs (s : State) (k : Nat) (v : Slice) : (s.setSlice k v).rdvs = s.rdvs := rfl
@[simp] theorem State.setSlice_dies (s : State) (k : Nat) (v : Slice) : (s.setSlice k v).dies = s.dies := rfl
@[simp] theorem State.setSlice_mem (s : State) (k : Nat) (v : Slice) : (s.setSlice k v).mem = s.mem := rfl
@[simp] theorem State.setSlice_sectorPoison (s : State) (k : Nat) (v : Slice) : (s.setSlice k v).sectorPoison = s.sectorPoison := rfl
@[simp] theorem State.setSlice_vaultPoison (s : State) (k : Nat) (v : Slice) : (s.setSlice k v).vaultPoison = s.vaultPoison := rfl
@[simp] theorem State.setSlice_queues (s : State) (k : Nat) (v : Slice) : (s.setSlice k v).queues = s.queues := rfl
@[simp] theorem State.setSlice_packets (s : State) (k : Nat) (v : Slice) : (s.setSlice k v).packets = s.packets := rfl
@[simp] theorem State.setSlice_quotes (s : State) (k : Nat) (v : Slice) : (s.setSlice k v).quotes = s.quotes := rfl
@[simp] theorem State.setSlice_resv (s : State) (k : Nat) (v : Slice) : (s.setSlice k v).resv = s.resv := rfl
@[simp] theorem State.setSlice_dust (s : State) (k : Nat) (v : Slice) : (s.setSlice k v).dust = s.dust := rfl
@[simp] theorem State.setSlice_rel (s : State) (k : Nat) (v : Slice) : (s.setSlice k v).rel = s.rel := rfl
@[simp] theorem State.setSlice_ptp (s : State) (k : Nat) (v : Slice) : (s.setSlice k v).ptp = s.ptp := rfl
@[simp] theorem State.setSlice_time (s : State) (k : Nat) (v : Slice) : (s.setSlice k v).time = s.time := rfl
@[simp] theorem State.setSlice_cap (s : State) (k : Nat) (v : Slice) : (s.setSlice k v).cap = s.cap := rfl
@[simp] theorem State.setSlice_staged (s : State) (k : Nat) (v : Slice) : (s.setSlice k v).staged = s.staged := rfl
@[simp] theorem State.setSlice_fwVersion (s : State) (k : Nat) (v : Slice) : (s.setSlice k v).fwVersion = s.fwVersion := rfl
@[simp] theorem State.setSlice_fwFloor (s : State) (k : Nat) (v : Slice) : (s.setSlice k v).fwFloor = s.fwFloor := rfl
@[simp] theorem State.setSlice_outside (s : State) (k : Nat) (v : Slice) : (s.setSlice k v).outside = s.outside := rfl
@[simp] theorem State.setSlice_inputs (s : State) (k : Nat) (v : Slice) : (s.setSlice k v).inputs = s.inputs := rfl
@[simp] theorem State.setSlice_free (s : State) (k : Nat) (v : Slice) : (s.setSlice k v).free = s.free := rfl
@[simp] theorem State.setSlice_nextUid (s : State) (k : Nat) (v : Slice) : (s.setSlice k v).nextUid = s.nextUid := rfl

/-! `State.modSlice` -/
@[simp] theorem State.modSlice_cur (s : State) (k : Nat) (f : Slice → Slice) : (s.modSlice k f).cur = s.cur := rfl
@[simp] theorem State.modSlice_groups (s : State) (k : Nat) (f : Slice → Slice) : (s.modSlice k f).groups = s.groups := rfl
@[simp] theorem State.modSlice_clusters (s : State) (k : Nat) (f : Slice → Slice) : (s.modSlice k f).clusters = s.clusters := rfl
@[simp] theorem State.modSlice_quiet (s : State) (k : Nat) (f : Slice → Slice) : (s.modSlice k f).quiet = s.quiet := rfl
@[simp] theorem State.modSlice_teams (s : State) (k : Nat) (f : Slice → Slice) : (s.modSlice k f).teams = s.teams := rfl
@[simp] theorem State.modSlice_launches (s : State) (k : Nat) (f : Slice → Slice) : (s.modSlice k f).launches = s.launches := rfl
@[simp] theorem State.modSlice_ops (s : State) (k : Nat) (f : Slice → Slice) : (s.modSlice k f).ops = s.ops := rfl
@[simp] theorem State.modSlice_reqs (s : State) (k : Nat) (f : Slice → Slice) : (s.modSlice k f).reqs = s.reqs := rfl
@[simp] theorem State.modSlice_walks (s : State) (k : Nat) (f : Slice → Slice) : (s.modSlice k f).walks = s.walks := rfl
@[simp] theorem State.modSlice_rdvs (s : State) (k : Nat) (f : Slice → Slice) : (s.modSlice k f).rdvs = s.rdvs := rfl
@[simp] theorem State.modSlice_dies (s : State) (k : Nat) (f : Slice → Slice) : (s.modSlice k f).dies = s.dies := rfl
@[simp] theorem State.modSlice_mem (s : State) (k : Nat) (f : Slice → Slice) : (s.modSlice k f).mem = s.mem := rfl
@[simp] theorem State.modSlice_sectorPoison (s : State) (k : Nat) (f : Slice → Slice) : (s.modSlice k f).sectorPoison = s.sectorPoison := rfl
@[simp] theorem State.modSlice_vaultPoison (s : State) (k : Nat) (f : Slice → Slice) : (s.modSlice k f).vaultPoison = s.vaultPoison := rfl
@[simp] theorem State.modSlice_queues (s : State) (k : Nat) (f : Slice → Slice) : (s.modSlice k f).queues = s.queues := rfl
@[simp] theorem State.modSlice_packets (s : State) (k : Nat) (f : Slice → Slice) : (s.modSlice k f).packets = s.packets := rfl
@[simp] theorem State.modSlice_quotes (s : State) (k : Nat) (f : Slice → Slice) : (s.modSlice k f).quotes = s.quotes := rfl
@[simp] theorem State.modSlice_resv (s : State) (k : Nat) (f : Slice → Slice) : (s.modSlice k f).resv = s.resv := rfl
@[simp] theorem State.modSlice_dust (s : State) (k : Nat) (f : Slice → Slice) : (s.modSlice k f).dust = s.dust := rfl
@[simp] theorem State.modSlice_rel (s : State) (k : Nat) (f : Slice → Slice) : (s.modSlice k f).rel = s.rel := rfl
@[simp] theorem State.modSlice_ptp (s : State) (k : Nat) (f : Slice → Slice) : (s.modSlice k f).ptp = s.ptp := rfl
@[simp] theorem State.modSlice_time (s : State) (k : Nat) (f : Slice → Slice) : (s.modSlice k f).time = s.time := rfl
@[simp] theorem State.modSlice_cap (s : State) (k : Nat) (f : Slice → Slice) : (s.modSlice k f).cap = s.cap := rfl
@[simp] theorem State.modSlice_staged (s : State) (k : Nat) (f : Slice → Slice) : (s.modSlice k f).staged = s.staged := rfl
@[simp] theorem State.modSlice_fwVersion (s : State) (k : Nat) (f : Slice → Slice) : (s.modSlice k f).fwVersion = s.fwVersion := rfl
@[simp] theorem State.modSlice_fwFloor (s : State) (k : Nat) (f : Slice → Slice) : (s.modSlice k f).fwFloor = s.fwFloor := rfl
@[simp] theorem State.modSlice_outside (s : State) (k : Nat) (f : Slice → Slice) : (s.modSlice k f).outside = s.outside := rfl
@[simp] theorem State.modSlice_inputs (s : State) (k : Nat) (f : Slice → Slice) : (s.modSlice k f).inputs = s.inputs := rfl
@[simp] theorem State.modSlice_free (s : State) (k : Nat) (f : Slice → Slice) : (s.modSlice k f).free = s.free := rfl
@[simp] theorem State.modSlice_nextUid (s : State) (k : Nat) (f : Slice → Slice) : (s.modSlice k f).nextUid = s.nextUid := rfl

/-! `State.setDie` -/
@[simp] theorem State.setDie_cur (s : State) (k : Nat) (v : Die) : (s.setDie k v).cur = s.cur := rfl
@[simp] theorem State.setDie_groups (s : State) (k : Nat) (v : Die) : (s.setDie k v).groups = s.groups := rfl
@[simp] theorem State.setDie_clusters (s : State) (k : Nat) (v : Die) : (s.setDie k v).clusters = s.clusters := rfl
@[simp] theorem State.setDie_quiet (s : State) (k : Nat) (v : Die) : (s.setDie k v).quiet = s.quiet := rfl
@[simp] theorem State.setDie_teams (s : State) (k : Nat) (v : Die) : (s.setDie k v).teams = s.teams := rfl
@[simp] theorem State.setDie_launches (s : State) (k : Nat) (v : Die) : (s.setDie k v).launches = s.launches := rfl
@[simp] theorem State.setDie_ops (s : State) (k : Nat) (v : Die) : (s.setDie k v).ops = s.ops := rfl
@[simp] theorem State.setDie_reqs (s : State) (k : Nat) (v : Die) : (s.setDie k v).reqs = s.reqs := rfl
@[simp] theorem State.setDie_walks (s : State) (k : Nat) (v : Die) : (s.setDie k v).walks = s.walks := rfl
@[simp] theorem State.setDie_rdvs (s : State) (k : Nat) (v : Die) : (s.setDie k v).rdvs = s.rdvs := rfl
@[simp] theorem State.setDie_slices (s : State) (k : Nat) (v : Die) : (s.setDie k v).slices = s.slices := rfl
@[simp] theorem State.setDie_mem (s : State) (k : Nat) (v : Die) : (s.setDie k v).mem = s.mem := rfl
@[simp] theorem State.setDie_sectorPoison (s : State) (k : Nat) (v : Die) : (s.setDie k v).sectorPoison = s.sectorPoison := rfl
@[simp] theorem State.setDie_vaultPoison (s : State) (k : Nat) (v : Die) : (s.setDie k v).vaultPoison = s.vaultPoison := rfl
@[simp] theorem State.setDie_queues (s : State) (k : Nat) (v : Die) : (s.setDie k v).queues = s.queues := rfl
@[simp] theorem State.setDie_packets (s : State) (k : Nat) (v : Die) : (s.setDie k v).packets = s.packets := rfl
@[simp] theorem State.setDie_quotes (s : State) (k : Nat) (v : Die) : (s.setDie k v).quotes = s.quotes := rfl
@[simp] theorem State.setDie_resv (s : State) (k : Nat) (v : Die) : (s.setDie k v).resv = s.resv := rfl
@[simp] theorem State.setDie_dust (s : State) (k : Nat) (v : Die) : (s.setDie k v).dust = s.dust := rfl
@[simp] theorem State.setDie_rel (s : State) (k : Nat) (v : Die) : (s.setDie k v).rel = s.rel := rfl
@[simp] theorem State.setDie_ptp (s : State) (k : Nat) (v : Die) : (s.setDie k v).ptp = s.ptp := rfl
@[simp] theorem State.setDie_time (s : State) (k : Nat) (v : Die) : (s.setDie k v).time = s.time := rfl
@[simp] theorem State.setDie_cap (s : State) (k : Nat) (v : Die) : (s.setDie k v).cap = s.cap := rfl
@[simp] theorem State.setDie_staged (s : State) (k : Nat) (v : Die) : (s.setDie k v).staged = s.staged := rfl
@[simp] theorem State.setDie_fwVersion (s : State) (k : Nat) (v : Die) : (s.setDie k v).fwVersion = s.fwVersion := rfl
@[simp] theorem State.setDie_fwFloor (s : State) (k : Nat) (v : Die) : (s.setDie k v).fwFloor = s.fwFloor := rfl
@[simp] theorem State.setDie_outside (s : State) (k : Nat) (v : Die) : (s.setDie k v).outside = s.outside := rfl
@[simp] theorem State.setDie_inputs (s : State) (k : Nat) (v : Die) : (s.setDie k v).inputs = s.inputs := rfl
@[simp] theorem State.setDie_free (s : State) (k : Nat) (v : Die) : (s.setDie k v).free = s.free := rfl
@[simp] theorem State.setDie_nextUid (s : State) (k : Nat) (v : Die) : (s.setDie k v).nextUid = s.nextUid := rfl

/-! `State.modDie` -/
@[simp] theorem State.modDie_cur (s : State) (k : Nat) (f : Die → Die) : (s.modDie k f).cur = s.cur := rfl
@[simp] theorem State.modDie_groups (s : State) (k : Nat) (f : Die → Die) : (s.modDie k f).groups = s.groups := rfl
@[simp] theorem State.modDie_clusters (s : State) (k : Nat) (f : Die → Die) : (s.modDie k f).clusters = s.clusters := rfl
@[simp] theorem State.modDie_quiet (s : State) (k : Nat) (f : Die → Die) : (s.modDie k f).quiet = s.quiet := rfl
@[simp] theorem State.modDie_teams (s : State) (k : Nat) (f : Die → Die) : (s.modDie k f).teams = s.teams := rfl
@[simp] theorem State.modDie_launches (s : State) (k : Nat) (f : Die → Die) : (s.modDie k f).launches = s.launches := rfl
@[simp] theorem State.modDie_ops (s : State) (k : Nat) (f : Die → Die) : (s.modDie k f).ops = s.ops := rfl
@[simp] theorem State.modDie_reqs (s : State) (k : Nat) (f : Die → Die) : (s.modDie k f).reqs = s.reqs := rfl
@[simp] theorem State.modDie_walks (s : State) (k : Nat) (f : Die → Die) : (s.modDie k f).walks = s.walks := rfl
@[simp] theorem State.modDie_rdvs (s : State) (k : Nat) (f : Die → Die) : (s.modDie k f).rdvs = s.rdvs := rfl
@[simp] theorem State.modDie_slices (s : State) (k : Nat) (f : Die → Die) : (s.modDie k f).slices = s.slices := rfl
@[simp] theorem State.modDie_mem (s : State) (k : Nat) (f : Die → Die) : (s.modDie k f).mem = s.mem := rfl
@[simp] theorem State.modDie_sectorPoison (s : State) (k : Nat) (f : Die → Die) : (s.modDie k f).sectorPoison = s.sectorPoison := rfl
@[simp] theorem State.modDie_vaultPoison (s : State) (k : Nat) (f : Die → Die) : (s.modDie k f).vaultPoison = s.vaultPoison := rfl
@[simp] theorem State.modDie_queues (s : State) (k : Nat) (f : Die → Die) : (s.modDie k f).queues = s.queues := rfl
@[simp] theorem State.modDie_packets (s : State) (k : Nat) (f : Die → Die) : (s.modDie k f).packets = s.packets := rfl
@[simp] theorem State.modDie_quotes (s : State) (k : Nat) (f : Die → Die) : (s.modDie k f).quotes = s.quotes := rfl
@[simp] theorem State.modDie_resv (s : State) (k : Nat) (f : Die → Die) : (s.modDie k f).resv = s.resv := rfl
@[simp] theorem State.modDie_dust (s : State) (k : Nat) (f : Die → Die) : (s.modDie k f).dust = s.dust := rfl
@[simp] theorem State.modDie_rel (s : State) (k : Nat) (f : Die → Die) : (s.modDie k f).rel = s.rel := rfl
@[simp] theorem State.modDie_ptp (s : State) (k : Nat) (f : Die → Die) : (s.modDie k f).ptp = s.ptp := rfl
@[simp] theorem State.modDie_time (s : State) (k : Nat) (f : Die → Die) : (s.modDie k f).time = s.time := rfl
@[simp] theorem State.modDie_cap (s : State) (k : Nat) (f : Die → Die) : (s.modDie k f).cap = s.cap := rfl
@[simp] theorem State.modDie_staged (s : State) (k : Nat) (f : Die → Die) : (s.modDie k f).staged = s.staged := rfl
@[simp] theorem State.modDie_fwVersion (s : State) (k : Nat) (f : Die → Die) : (s.modDie k f).fwVersion = s.fwVersion := rfl
@[simp] theorem State.modDie_fwFloor (s : State) (k : Nat) (f : Die → Die) : (s.modDie k f).fwFloor = s.fwFloor := rfl
@[simp] theorem State.modDie_outside (s : State) (k : Nat) (f : Die → Die) : (s.modDie k f).outside = s.outside := rfl
@[simp] theorem State.modDie_inputs (s : State) (k : Nat) (f : Die → Die) : (s.modDie k f).inputs = s.inputs := rfl
@[simp] theorem State.modDie_free (s : State) (k : Nat) (f : Die → Die) : (s.modDie k f).free = s.free := rfl
@[simp] theorem State.modDie_nextUid (s : State) (k : Nat) (f : Die → Die) : (s.modDie k f).nextUid = s.nextUid := rfl

/-! `State.setQuote` -/
@[simp] theorem State.setQuote_cur (s : State) (k : Nat) (v : QEntry) : (s.setQuote k v).cur = s.cur := rfl
@[simp] theorem State.setQuote_groups (s : State) (k : Nat) (v : QEntry) : (s.setQuote k v).groups = s.groups := rfl
@[simp] theorem State.setQuote_clusters (s : State) (k : Nat) (v : QEntry) : (s.setQuote k v).clusters = s.clusters := rfl
@[simp] theorem State.setQuote_quiet (s : State) (k : Nat) (v : QEntry) : (s.setQuote k v).quiet = s.quiet := rfl
@[simp] theorem State.setQuote_teams (s : State) (k : Nat) (v : QEntry) : (s.setQuote k v).teams = s.teams := rfl
@[simp] theorem State.setQuote_launches (s : State) (k : Nat) (v : QEntry) : (s.setQuote k v).launches = s.launches := rfl
@[simp] theorem State.setQuote_ops (s : State) (k : Nat) (v : QEntry) : (s.setQuote k v).ops = s.ops := rfl
@[simp] theorem State.setQuote_reqs (s : State) (k : Nat) (v : QEntry) : (s.setQuote k v).reqs = s.reqs := rfl
@[simp] theorem State.setQuote_walks (s : State) (k : Nat) (v : QEntry) : (s.setQuote k v).walks = s.walks := rfl
@[simp] theorem State.setQuote_rdvs (s : State) (k : Nat) (v : QEntry) : (s.setQuote k v).rdvs = s.rdvs := rfl
@[simp] theorem State.setQuote_slices (s : State) (k : Nat) (v : QEntry) : (s.setQuote k v).slices = s.slices := rfl
@[simp] theorem State.setQuote_dies (s : State) (k : Nat) (v : QEntry) : (s.setQuote k v).dies = s.dies := rfl
@[simp] theorem State.setQuote_mem (s : State) (k : Nat) (v : QEntry) : (s.setQuote k v).mem = s.mem := rfl
@[simp] theorem State.setQuote_sectorPoison (s : State) (k : Nat) (v : QEntry) : (s.setQuote k v).sectorPoison = s.sectorPoison := rfl
@[simp] theorem State.setQuote_vaultPoison (s : State) (k : Nat) (v : QEntry) : (s.setQuote k v).vaultPoison = s.vaultPoison := rfl
@[simp] theorem State.setQuote_queues (s : State) (k : Nat) (v : QEntry) : (s.setQuote k v).queues = s.queues := rfl
@[simp] theorem State.setQuote_packets (s : State) (k : Nat) (v : QEntry) : (s.setQuote k v).packets = s.packets := rfl
@[simp] theorem State.setQuote_resv (s : State) (k : Nat) (v : QEntry) : (s.setQuote k v).resv = s.resv := rfl
@[simp] theorem State.setQuote_dust (s : State) (k : Nat) (v : QEntry) : (s.setQuote k v).dust = s.dust := rfl
@[simp] theorem State.setQuote_rel (s : State) (k : Nat) (v : QEntry) : (s.setQuote k v).rel = s.rel := rfl
@[simp] theorem State.setQuote_ptp (s : State) (k : Nat) (v : QEntry) : (s.setQuote k v).ptp = s.ptp := rfl
@[simp] theorem State.setQuote_time (s : State) (k : Nat) (v : QEntry) : (s.setQuote k v).time = s.time := rfl
@[simp] theorem State.setQuote_cap (s : State) (k : Nat) (v : QEntry) : (s.setQuote k v).cap = s.cap := rfl
@[simp] theorem State.setQuote_staged (s : State) (k : Nat) (v : QEntry) : (s.setQuote k v).staged = s.staged := rfl
@[simp] theorem State.setQuote_fwVersion (s : State) (k : Nat) (v : QEntry) : (s.setQuote k v).fwVersion = s.fwVersion := rfl
@[simp] theorem State.setQuote_fwFloor (s : State) (k : Nat) (v : QEntry) : (s.setQuote k v).fwFloor = s.fwFloor := rfl
@[simp] theorem State.setQuote_outside (s : State) (k : Nat) (v : QEntry) : (s.setQuote k v).outside = s.outside := rfl
@[simp] theorem State.setQuote_inputs (s : State) (k : Nat) (v : QEntry) : (s.setQuote k v).inputs = s.inputs := rfl
@[simp] theorem State.setQuote_free (s : State) (k : Nat) (v : QEntry) : (s.setQuote k v).free = s.free := rfl
@[simp] theorem State.setQuote_nextUid (s : State) (k : Nat) (v : QEntry) : (s.setQuote k v).nextUid = s.nextUid := rfl

/-! `State.modQuote` -/
@[simp] theorem State.modQuote_cur (s : State) (k : Nat) (f : QEntry → QEntry) : (s.modQuote k f).cur = s.cur := rfl
@[simp] theorem State.modQuote_groups (s : State) (k : Nat) (f : QEntry → QEntry) : (s.modQuote k f).groups = s.groups := rfl
@[simp] theorem State.modQuote_clusters (s : State) (k : Nat) (f : QEntry → QEntry) : (s.modQuote k f).clusters = s.clusters := rfl
@[simp] theorem State.modQuote_quiet (s : State) (k : Nat) (f : QEntry → QEntry) : (s.modQuote k f).quiet = s.quiet := rfl
@[simp] theorem State.modQuote_teams (s : State) (k : Nat) (f : QEntry → QEntry) : (s.modQuote k f).teams = s.teams := rfl
@[simp] theorem State.modQuote_launches (s : State) (k : Nat) (f : QEntry → QEntry) : (s.modQuote k f).launches = s.launches := rfl
@[simp] theorem State.modQuote_ops (s : State) (k : Nat) (f : QEntry → QEntry) : (s.modQuote k f).ops = s.ops := rfl
@[simp] theorem State.modQuote_reqs (s : State) (k : Nat) (f : QEntry → QEntry) : (s.modQuote k f).reqs = s.reqs := rfl
@[simp] theorem State.modQuote_walks (s : State) (k : Nat) (f : QEntry → QEntry) : (s.modQuote k f).walks = s.walks := rfl
@[simp] theorem State.modQuote_rdvs (s : State) (k : Nat) (f : QEntry → QEntry) : (s.modQuote k f).rdvs = s.rdvs := rfl
@[simp] theorem State.modQuote_slices (s : State) (k : Nat) (f : QEntry → QEntry) : (s.modQuote k f).slices = s.slices := rfl
@[simp] theorem State.modQuote_dies (s : State) (k : Nat) (f : QEntry → QEntry) : (s.modQuote k f).dies = s.dies := rfl
@[simp] theorem State.modQuote_mem (s : State) (k : Nat) (f : QEntry → QEntry) : (s.modQuote k f).mem = s.mem := rfl
@[simp] theorem State.modQuote_sectorPoison (s : State) (k : Nat) (f : QEntry → QEntry) : (s.modQuote k f).sectorPoison = s.sectorPoison := rfl
@[simp] theorem State.modQuote_vaultPoison (s : State) (k : Nat) (f : QEntry → QEntry) : (s.modQuote k f).vaultPoison = s.vaultPoison := rfl
@[simp] theorem State.modQuote_queues (s : State) (k : Nat) (f : QEntry → QEntry) : (s.modQuote k f).queues = s.queues := rfl
@[simp] theorem State.modQuote_packets (s : State) (k : Nat) (f : QEntry → QEntry) : (s.modQuote k f).packets = s.packets := rfl
@[simp] theorem State.modQuote_resv (s : State) (k : Nat) (f : QEntry → QEntry) : (s.modQuote k f).resv = s.resv := rfl
@[simp] theorem State.modQuote_dust (s : State) (k : Nat) (f : QEntry → QEntry) : (s.modQuote k f).dust = s.dust := rfl
@[simp] theorem State.modQuote_rel (s : State) (k : Nat) (f : QEntry → QEntry) : (s.modQuote k f).rel = s.rel := rfl
@[simp] theorem State.modQuote_ptp (s : State) (k : Nat) (f : QEntry → QEntry) : (s.modQuote k f).ptp = s.ptp := rfl
@[simp] theorem State.modQuote_time (s : State) (k : Nat) (f : QEntry → QEntry) : (s.modQuote k f).time = s.time := rfl
@[simp] theorem State.modQuote_cap (s : State) (k : Nat) (f : QEntry → QEntry) : (s.modQuote k f).cap = s.cap := rfl
@[simp] theorem State.modQuote_staged (s : State) (k : Nat) (f : QEntry → QEntry) : (s.modQuote k f).staged = s.staged := rfl
@[simp] theorem State.modQuote_fwVersion (s : State) (k : Nat) (f : QEntry → QEntry) : (s.modQuote k f).fwVersion = s.fwVersion := rfl
@[simp] theorem State.modQuote_fwFloor (s : State) (k : Nat) (f : QEntry → QEntry) : (s.modQuote k f).fwFloor = s.fwFloor := rfl
@[simp] theorem State.modQuote_outside (s : State) (k : Nat) (f : QEntry → QEntry) : (s.modQuote k f).outside = s.outside := rfl
@[simp] theorem State.modQuote_inputs (s : State) (k : Nat) (f : QEntry → QEntry) : (s.modQuote k f).inputs = s.inputs := rfl
@[simp] theorem State.modQuote_free (s : State) (k : Nat) (f : QEntry → QEntry) : (s.modQuote k f).free = s.free := rfl
@[simp] theorem State.modQuote_nextUid (s : State) (k : Nat) (f : QEntry → QEntry) : (s.modQuote k f).nextUid = s.nextUid := rfl

/-! `State.modQuarter` -/
@[simp] theorem State.modQuarter_cur (s : State) (c q : Nat) (f : Quarter → Quarter) : (s.modQuarter c q f).cur = s.cur := rfl
@[simp] theorem State.modQuarter_groups (s : State) (c q : Nat) (f : Quarter → Quarter) : (s.modQuarter c q f).groups = s.groups := rfl
@[simp] theorem State.modQuarter_quiet (s : State) (c q : Nat) (f : Quarter → Quarter) : (s.modQuarter c q f).quiet = s.quiet := rfl
@[simp] theorem State.modQuarter_teams (s : State) (c q : Nat) (f : Quarter → Quarter) : (s.modQuarter c q f).teams = s.teams := rfl
@[simp] theorem State.modQuarter_launches (s : State) (c q : Nat) (f : Quarter → Quarter) : (s.modQuarter c q f).launches = s.launches := rfl
@[simp] theorem State.modQuarter_ops (s : State) (c q : Nat) (f : Quarter → Quarter) : (s.modQuarter c q f).ops = s.ops := rfl
@[simp] theorem State.modQuarter_reqs (s : State) (c q : Nat) (f : Quarter → Quarter) : (s.modQuarter c q f).reqs = s.reqs := rfl
@[simp] theorem State.modQuarter_walks (s : State) (c q : Nat) (f : Quarter → Quarter) : (s.modQuarter c q f).walks = s.walks := rfl
@[simp] theorem State.modQuarter_rdvs (s : State) (c q : Nat) (f : Quarter → Quarter) : (s.modQuarter c q f).rdvs = s.rdvs := rfl
@[simp] theorem State.modQuarter_slices (s : State) (c q : Nat) (f : Quarter → Quarter) : (s.modQuarter c q f).slices = s.slices := rfl
@[simp] theorem State.modQuarter_dies (s : State) (c q : Nat) (f : Quarter → Quarter) : (s.modQuarter c q f).dies = s.dies := rfl
@[simp] theorem State.modQuarter_mem (s : State) (c q : Nat) (f : Quarter → Quarter) : (s.modQuarter c q f).mem = s.mem := rfl
@[simp] theorem State.modQuarter_sectorPoison (s : State) (c q : Nat) (f : Quarter → Quarter) : (s.modQuarter c q f).sectorPoison = s.sectorPoison := rfl
@[simp] theorem State.modQuarter_vaultPoison (s : State) (c q : Nat) (f : Quarter → Quarter) : (s.modQuarter c q f).vaultPoison = s.vaultPoison := rfl
@[simp] theorem State.modQuarter_queues (s : State) (c q : Nat) (f : Quarter → Quarter) : (s.modQuarter c q f).queues = s.queues := rfl
@[simp] theorem State.modQuarter_packets (s : State) (c q : Nat) (f : Quarter → Quarter) : (s.modQuarter c q f).packets = s.packets := rfl
@[simp] theorem State.modQuarter_quotes (s : State) (c q : Nat) (f : Quarter → Quarter) : (s.modQuarter c q f).quotes = s.quotes := rfl
@[simp] theorem State.modQuarter_resv (s : State) (c q : Nat) (f : Quarter → Quarter) : (s.modQuarter c q f).resv = s.resv := rfl
@[simp] theorem State.modQuarter_dust (s : State) (c q : Nat) (f : Quarter → Quarter) : (s.modQuarter c q f).dust = s.dust := rfl
@[simp] theorem State.modQuarter_rel (s : State) (c q : Nat) (f : Quarter → Quarter) : (s.modQuarter c q f).rel = s.rel := rfl
@[simp] theorem State.modQuarter_ptp (s : State) (c q : Nat) (f : Quarter → Quarter) : (s.modQuarter c q f).ptp = s.ptp := rfl
@[simp] theorem State.modQuarter_time (s : State) (c q : Nat) (f : Quarter → Quarter) : (s.modQuarter c q f).time = s.time := rfl
@[simp] theorem State.modQuarter_cap (s : State) (c q : Nat) (f : Quarter → Quarter) : (s.modQuarter c q f).cap = s.cap := rfl
@[simp] theorem State.modQuarter_staged (s : State) (c q : Nat) (f : Quarter → Quarter) : (s.modQuarter c q f).staged = s.staged := rfl
@[simp] theorem State.modQuarter_fwVersion (s : State) (c q : Nat) (f : Quarter → Quarter) : (s.modQuarter c q f).fwVersion = s.fwVersion := rfl
@[simp] theorem State.modQuarter_fwFloor (s : State) (c q : Nat) (f : Quarter → Quarter) : (s.modQuarter c q f).fwFloor = s.fwFloor := rfl
@[simp] theorem State.modQuarter_outside (s : State) (c q : Nat) (f : Quarter → Quarter) : (s.modQuarter c q f).outside = s.outside := rfl
@[simp] theorem State.modQuarter_inputs (s : State) (c q : Nat) (f : Quarter → Quarter) : (s.modQuarter c q f).inputs = s.inputs := rfl
@[simp] theorem State.modQuarter_free (s : State) (c q : Nat) (f : Quarter → Quarter) : (s.modQuarter c q f).free = s.free := rfl
@[simp] theorem State.modQuarter_nextUid (s : State) (c q : Nat) (f : Quarter → Quarter) : (s.modQuarter c q f).nextUid = s.nextUid := rfl

/-! `State.modMe` -/
@[simp] theorem State.modMe_cur (s : State) (f : Group → Group) : (s.modMe f).cur = s.cur := rfl
@[simp] theorem State.modMe_clusters (s : State) (f : Group → Group) : (s.modMe f).clusters = s.clusters := rfl
@[simp] theorem State.modMe_quiet (s : State) (f : Group → Group) : (s.modMe f).quiet = s.quiet := rfl
@[simp] theorem State.modMe_teams (s : State) (f : Group → Group) : (s.modMe f).teams = s.teams := rfl
@[simp] theorem State.modMe_launches (s : State) (f : Group → Group) : (s.modMe f).launches = s.launches := rfl
@[simp] theorem State.modMe_ops (s : State) (f : Group → Group) : (s.modMe f).ops = s.ops := rfl
@[simp] theorem State.modMe_reqs (s : State) (f : Group → Group) : (s.modMe f).reqs = s.reqs := rfl
@[simp] theorem State.modMe_walks (s : State) (f : Group → Group) : (s.modMe f).walks = s.walks := rfl
@[simp] theorem State.modMe_rdvs (s : State) (f : Group → Group) : (s.modMe f).rdvs = s.rdvs := rfl
@[simp] theorem State.modMe_slices (s : State) (f : Group → Group) : (s.modMe f).slices = s.slices := rfl
@[simp] theorem State.modMe_dies (s : State) (f : Group → Group) : (s.modMe f).dies = s.dies := rfl
@[simp] theorem State.modMe_mem (s : State) (f : Group → Group) : (s.modMe f).mem = s.mem := rfl
@[simp] theorem State.modMe_sectorPoison (s : State) (f : Group → Group) : (s.modMe f).sectorPoison = s.sectorPoison := rfl
@[simp] theorem State.modMe_vaultPoison (s : State) (f : Group → Group) : (s.modMe f).vaultPoison = s.vaultPoison := rfl
@[simp] theorem State.modMe_queues (s : State) (f : Group → Group) : (s.modMe f).queues = s.queues := rfl
@[simp] theorem State.modMe_packets (s : State) (f : Group → Group) : (s.modMe f).packets = s.packets := rfl
@[simp] theorem State.modMe_quotes (s : State) (f : Group → Group) : (s.modMe f).quotes = s.quotes := rfl
@[simp] theorem State.modMe_resv (s : State) (f : Group → Group) : (s.modMe f).resv = s.resv := rfl
@[simp] theorem State.modMe_dust (s : State) (f : Group → Group) : (s.modMe f).dust = s.dust := rfl
@[simp] theorem State.modMe_rel (s : State) (f : Group → Group) : (s.modMe f).rel = s.rel := rfl
@[simp] theorem State.modMe_ptp (s : State) (f : Group → Group) : (s.modMe f).ptp = s.ptp := rfl
@[simp] theorem State.modMe_time (s : State) (f : Group → Group) : (s.modMe f).time = s.time := rfl
@[simp] theorem State.modMe_cap (s : State) (f : Group → Group) : (s.modMe f).cap = s.cap := rfl
@[simp] theorem State.modMe_staged (s : State) (f : Group → Group) : (s.modMe f).staged = s.staged := rfl
@[simp] theorem State.modMe_fwVersion (s : State) (f : Group → Group) : (s.modMe f).fwVersion = s.fwVersion := rfl
@[simp] theorem State.modMe_fwFloor (s : State) (f : Group → Group) : (s.modMe f).fwFloor = s.fwFloor := rfl
@[simp] theorem State.modMe_outside (s : State) (f : Group → Group) : (s.modMe f).outside = s.outside := rfl
@[simp] theorem State.modMe_inputs (s : State) (f : Group → Group) : (s.modMe f).inputs = s.inputs := rfl
@[simp] theorem State.modMe_free (s : State) (f : Group → Group) : (s.modMe f).free = s.free := rfl
@[simp] theorem State.modMe_nextUid (s : State) (f : Group → Group) : (s.modMe f).nextUid = s.nextUid := rfl

/-! `State.modStr` -/
@[simp] theorem State.modStr_cur (s : State) (f : Strand → Strand) : (s.modStr f).cur = s.cur := rfl
@[simp] theorem State.modStr_clusters (s : State) (f : Strand → Strand) : (s.modStr f).clusters = s.clusters := rfl
@[simp] theorem State.modStr_quiet (s : State) (f : Strand → Strand) : (s.modStr f).quiet = s.quiet := rfl
@[simp] theorem State.modStr_teams (s : State) (f : Strand → Strand) : (s.modStr f).teams = s.teams := rfl
@[simp] theorem State.modStr_launches (s : State) (f : Strand → Strand) : (s.modStr f).launches = s.launches := rfl
@[simp] theorem State.modStr_ops (s : State) (f : Strand → Strand) : (s.modStr f).ops = s.ops := rfl
@[simp] theorem State.modStr_reqs (s : State) (f : Strand → Strand) : (s.modStr f).reqs = s.reqs := rfl
@[simp] theorem State.modStr_walks (s : State) (f : Strand → Strand) : (s.modStr f).walks = s.walks := rfl
@[simp] theorem State.modStr_rdvs (s : State) (f : Strand → Strand) : (s.modStr f).rdvs = s.rdvs := rfl
@[simp] theorem State.modStr_slices (s : State) (f : Strand → Strand) : (s.modStr f).slices = s.slices := rfl
@[simp] theorem State.modStr_dies (s : State) (f : Strand → Strand) : (s.modStr f).dies = s.dies := rfl
@[simp] theorem State.modStr_mem (s : State) (f : Strand → Strand) : (s.modStr f).mem = s.mem := rfl
@[simp] theorem State.modStr_sectorPoison (s : State) (f : Strand → Strand) : (s.modStr f).sectorPoison = s.sectorPoison := rfl
@[simp] theorem State.modStr_vaultPoison (s : State) (f : Strand → Strand) : (s.modStr f).vaultPoison = s.vaultPoison := rfl
@[simp] theorem State.modStr_queues (s : State) (f : Strand → Strand) : (s.modStr f).queues = s.queues := rfl
@[simp] theorem State.modStr_packets (s : State) (f : Strand → Strand) : (s.modStr f).packets = s.packets := rfl
@[simp] theorem State.modStr_quotes (s : State) (f : Strand → Strand) : (s.modStr f).quotes = s.quotes := rfl
@[simp] theorem State.modStr_resv (s : State) (f : Strand → Strand) : (s.modStr f).resv = s.resv := rfl
@[simp] theorem State.modStr_dust (s : State) (f : Strand → Strand) : (s.modStr f).dust = s.dust := rfl
@[simp] theorem State.modStr_rel (s : State) (f : Strand → Strand) : (s.modStr f).rel = s.rel := rfl
@[simp] theorem State.modStr_ptp (s : State) (f : Strand → Strand) : (s.modStr f).ptp = s.ptp := rfl
@[simp] theorem State.modStr_time (s : State) (f : Strand → Strand) : (s.modStr f).time = s.time := rfl
@[simp] theorem State.modStr_cap (s : State) (f : Strand → Strand) : (s.modStr f).cap = s.cap := rfl
@[simp] theorem State.modStr_staged (s : State) (f : Strand → Strand) : (s.modStr f).staged = s.staged := rfl
@[simp] theorem State.modStr_fwVersion (s : State) (f : Strand → Strand) : (s.modStr f).fwVersion = s.fwVersion := rfl
@[simp] theorem State.modStr_fwFloor (s : State) (f : Strand → Strand) : (s.modStr f).fwFloor = s.fwFloor := rfl
@[simp] theorem State.modStr_outside (s : State) (f : Strand → Strand) : (s.modStr f).outside = s.outside := rfl
@[simp] theorem State.modStr_inputs (s : State) (f : Strand → Strand) : (s.modStr f).inputs = s.inputs := rfl
@[simp] theorem State.modStr_free (s : State) (f : Strand → Strand) : (s.modStr f).free = s.free := rfl
@[simp] theorem State.modStr_nextUid (s : State) (f : Strand → Strand) : (s.modStr f).nextUid = s.nextUid := rfl

/-! `State.addMeter` -/
@[simp] theorem State.addMeter_cur (s : State) (c q e : Nat) : (s.addMeter c q e).cur = s.cur := rfl
@[simp] theorem State.addMeter_groups (s : State) (c q e : Nat) : (s.addMeter c q e).groups = s.groups := rfl
@[simp] theorem State.addMeter_quiet (s : State) (c q e : Nat) : (s.addMeter c q e).quiet = s.quiet := rfl
@[simp] theorem State.addMeter_teams (s : State) (c q e : Nat) : (s.addMeter c q e).teams = s.teams := rfl
@[simp] theorem State.addMeter_launches (s : State) (c q e : Nat) : (s.addMeter c q e).launches = s.launches := rfl
@[simp] theorem State.addMeter_ops (s : State) (c q e : Nat) : (s.addMeter c q e).ops = s.ops := rfl
@[simp] theorem State.addMeter_reqs (s : State) (c q e : Nat) : (s.addMeter c q e).reqs = s.reqs := rfl
@[simp] theorem State.addMeter_walks (s : State) (c q e : Nat) : (s.addMeter c q e).walks = s.walks := rfl
@[simp] theorem State.addMeter_rdvs (s : State) (c q e : Nat) : (s.addMeter c q e).rdvs = s.rdvs := rfl
@[simp] theorem State.addMeter_slices (s : State) (c q e : Nat) : (s.addMeter c q e).slices = s.slices := rfl
@[simp] theorem State.addMeter_dies (s : State) (c q e : Nat) : (s.addMeter c q e).dies = s.dies := rfl
@[simp] theorem State.addMeter_mem (s : State) (c q e : Nat) : (s.addMeter c q e).mem = s.mem := rfl
@[simp] theorem State.addMeter_sectorPoison (s : State) (c q e : Nat) : (s.addMeter c q e).sectorPoison = s.sectorPoison := rfl
@[simp] theorem State.addMeter_vaultPoison (s : State) (c q e : Nat) : (s.addMeter c q e).vaultPoison = s.vaultPoison := rfl
@[simp] theorem State.addMeter_queues (s : State) (c q e : Nat) : (s.addMeter c q e).queues = s.queues := rfl
@[simp] theorem State.addMeter_packets (s : State) (c q e : Nat) : (s.addMeter c q e).packets = s.packets := rfl
@[simp] theorem State.addMeter_quotes (s : State) (c q e : Nat) : (s.addMeter c q e).quotes = s.quotes := rfl
@[simp] theorem State.addMeter_resv (s : State) (c q e : Nat) : (s.addMeter c q e).resv = s.resv := rfl
@[simp] theorem State.addMeter_dust (s : State) (c q e : Nat) : (s.addMeter c q e).dust = s.dust := rfl
@[simp] theorem State.addMeter_rel (s : State) (c q e : Nat) : (s.addMeter c q e).rel = s.rel := rfl
@[simp] theorem State.addMeter_ptp (s : State) (c q e : Nat) : (s.addMeter c q e).ptp = s.ptp := rfl
@[simp] theorem State.addMeter_time (s : State) (c q e : Nat) : (s.addMeter c q e).time = s.time := rfl
@[simp] theorem State.addMeter_cap (s : State) (c q e : Nat) : (s.addMeter c q e).cap = s.cap := rfl
@[simp] theorem State.addMeter_staged (s : State) (c q e : Nat) : (s.addMeter c q e).staged = s.staged := rfl
@[simp] theorem State.addMeter_fwVersion (s : State) (c q e : Nat) : (s.addMeter c q e).fwVersion = s.fwVersion := rfl
@[simp] theorem State.addMeter_fwFloor (s : State) (c q e : Nat) : (s.addMeter c q e).fwFloor = s.fwFloor := rfl
@[simp] theorem State.addMeter_outside (s : State) (c q e : Nat) : (s.addMeter c q e).outside = s.outside := rfl
@[simp] theorem State.addMeter_inputs (s : State) (c q e : Nat) : (s.addMeter c q e).inputs = s.inputs := rfl
@[simp] theorem State.addMeter_free (s : State) (c q e : Nat) : (s.addMeter c q e).free = s.free := rfl
@[simp] theorem State.addMeter_nextUid (s : State) (c q e : Nat) : (s.addMeter c q e).nextUid = s.nextUid := rfl

/-! `State.setMemByte` -/
@[simp] theorem State.setMemByte_cur (s : State) (a : Nat) (b : Byte) : (s.setMemByte a b).cur = s.cur := rfl
@[simp] theorem State.setMemByte_groups (s : State) (a : Nat) (b : Byte) : (s.setMemByte a b).groups = s.groups := rfl
@[simp] theorem State.setMemByte_clusters (s : State) (a : Nat) (b : Byte) : (s.setMemByte a b).clusters = s.clusters := rfl
@[simp] theorem State.setMemByte_quiet (s : State) (a : Nat) (b : Byte) : (s.setMemByte a b).quiet = s.quiet := rfl
@[simp] theorem State.setMemByte_teams (s : State) (a : Nat) (b : Byte) : (s.setMemByte a b).teams = s.teams := rfl
@[simp] theorem State.setMemByte_launches (s : State) (a : Nat) (b : Byte) : (s.setMemByte a b).launches = s.launches := rfl
@[simp] theorem State.setMemByte_ops (s : State) (a : Nat) (b : Byte) : (s.setMemByte a b).ops = s.ops := rfl
@[simp] theorem State.setMemByte_reqs (s : State) (a : Nat) (b : Byte) : (s.setMemByte a b).reqs = s.reqs := rfl
@[simp] theorem State.setMemByte_walks (s : State) (a : Nat) (b : Byte) : (s.setMemByte a b).walks = s.walks := rfl
@[simp] theorem State.setMemByte_rdvs (s : State) (a : Nat) (b : Byte) : (s.setMemByte a b).rdvs = s.rdvs := rfl
@[simp] theorem State.setMemByte_slices (s : State) (a : Nat) (b : Byte) : (s.setMemByte a b).slices = s.slices := rfl
@[simp] theorem State.setMemByte_dies (s : State) (a : Nat) (b : Byte) : (s.setMemByte a b).dies = s.dies := rfl
@[simp] theorem State.setMemByte_sectorPoison (s : State) (a : Nat) (b : Byte) : (s.setMemByte a b).sectorPoison = s.sectorPoison := rfl
@[simp] theorem State.setMemByte_vaultPoison (s : State) (a : Nat) (b : Byte) : (s.setMemByte a b).vaultPoison = s.vaultPoison := rfl
@[simp] theorem State.setMemByte_queues (s : State) (a : Nat) (b : Byte) : (s.setMemByte a b).queues = s.queues := rfl
@[simp] theorem State.setMemByte_packets (s : State) (a : Nat) (b : Byte) : (s.setMemByte a b).packets = s.packets := rfl
@[simp] theorem State.setMemByte_quotes (s : State) (a : Nat) (b : Byte) : (s.setMemByte a b).quotes = s.quotes := rfl
@[simp] theorem State.setMemByte_resv (s : State) (a : Nat) (b : Byte) : (s.setMemByte a b).resv = s.resv := rfl
@[simp] theorem State.setMemByte_dust (s : State) (a : Nat) (b : Byte) : (s.setMemByte a b).dust = s.dust := rfl
@[simp] theorem State.setMemByte_rel (s : State) (a : Nat) (b : Byte) : (s.setMemByte a b).rel = s.rel := rfl
@[simp] theorem State.setMemByte_ptp (s : State) (a : Nat) (b : Byte) : (s.setMemByte a b).ptp = s.ptp := rfl
@[simp] theorem State.setMemByte_time (s : State) (a : Nat) (b : Byte) : (s.setMemByte a b).time = s.time := rfl
@[simp] theorem State.setMemByte_cap (s : State) (a : Nat) (b : Byte) : (s.setMemByte a b).cap = s.cap := rfl
@[simp] theorem State.setMemByte_staged (s : State) (a : Nat) (b : Byte) : (s.setMemByte a b).staged = s.staged := rfl
@[simp] theorem State.setMemByte_fwVersion (s : State) (a : Nat) (b : Byte) : (s.setMemByte a b).fwVersion = s.fwVersion := rfl
@[simp] theorem State.setMemByte_fwFloor (s : State) (a : Nat) (b : Byte) : (s.setMemByte a b).fwFloor = s.fwFloor := rfl
@[simp] theorem State.setMemByte_outside (s : State) (a : Nat) (b : Byte) : (s.setMemByte a b).outside = s.outside := rfl
@[simp] theorem State.setMemByte_inputs (s : State) (a : Nat) (b : Byte) : (s.setMemByte a b).inputs = s.inputs := rfl
@[simp] theorem State.setMemByte_free (s : State) (a : Nat) (b : Byte) : (s.setMemByte a b).free = s.free := rfl
@[simp] theorem State.setMemByte_nextUid (s : State) (a : Nat) (b : Byte) : (s.setMemByte a b).nextUid = s.nextUid := rfl

/-! `State.writeMem` -/
@[simp] theorem State.writeMem_cur (s : State) (a : Nat) (l : List Byte) : (s.writeMem a l).cur = s.cur := rfl
@[simp] theorem State.writeMem_groups (s : State) (a : Nat) (l : List Byte) : (s.writeMem a l).groups = s.groups := rfl
@[simp] theorem State.writeMem_clusters (s : State) (a : Nat) (l : List Byte) : (s.writeMem a l).clusters = s.clusters := rfl
@[simp] theorem State.writeMem_quiet (s : State) (a : Nat) (l : List Byte) : (s.writeMem a l).quiet = s.quiet := rfl
@[simp] theorem State.writeMem_teams (s : State) (a : Nat) (l : List Byte) : (s.writeMem a l).teams = s.teams := rfl
@[simp] theorem State.writeMem_launches (s : State) (a : Nat) (l : List Byte) : (s.writeMem a l).launches = s.launches := rfl
@[simp] theorem State.writeMem_ops (s : State) (a : Nat) (l : List Byte) : (s.writeMem a l).ops = s.ops := rfl
@[simp] theorem State.writeMem_reqs (s : State) (a : Nat) (l : List Byte) : (s.writeMem a l).reqs = s.reqs := rfl
@[simp] theorem State.writeMem_walks (s : State) (a : Nat) (l : List Byte) : (s.writeMem a l).walks = s.walks := rfl
@[simp] theorem State.writeMem_rdvs (s : State) (a : Nat) (l : List Byte) : (s.writeMem a l).rdvs = s.rdvs := rfl
@[simp] theorem State.writeMem_slices (s : State) (a : Nat) (l : List Byte) : (s.writeMem a l).slices = s.slices := rfl
@[simp] theorem State.writeMem_dies (s : State) (a : Nat) (l : List Byte) : (s.writeMem a l).dies = s.dies := rfl
@[simp] theorem State.writeMem_sectorPoison (s : State) (a : Nat) (l : List Byte) : (s.writeMem a l).sectorPoison = s.sectorPoison := rfl
@[simp] theorem State.writeMem_vaultPoison (s : State) (a : Nat) (l : List Byte) : (s.writeMem a l).vaultPoison = s.vaultPoison := rfl
@[simp] theorem State.writeMem_queues (s : State) (a : Nat) (l : List Byte) : (s.writeMem a l).queues = s.queues := rfl
@[simp] theorem State.writeMem_packets (s : State) (a : Nat) (l : List Byte) : (s.writeMem a l).packets = s.packets := rfl
@[simp] theorem State.writeMem_quotes (s : State) (a : Nat) (l : List Byte) : (s.writeMem a l).quotes = s.quotes := rfl
@[simp] theorem State.writeMem_resv (s : State) (a : Nat) (l : List Byte) : (s.writeMem a l).resv = s.resv := rfl
@[simp] theorem State.writeMem_dust (s : State) (a : Nat) (l : List Byte) : (s.writeMem a l).dust = s.dust := rfl
@[simp] theorem State.writeMem_rel (s : State) (a : Nat) (l : List Byte) : (s.writeMem a l).rel = s.rel := rfl
@[simp] theorem State.writeMem_ptp (s : State) (a : Nat) (l : List Byte) : (s.writeMem a l).ptp = s.ptp := rfl
@[simp] theorem State.writeMem_time (s : State) (a : Nat) (l : List Byte) : (s.writeMem a l).time = s.time := rfl
@[simp] theorem State.writeMem_cap (s : State) (a : Nat) (l : List Byte) : (s.writeMem a l).cap = s.cap := rfl
@[simp] theorem State.writeMem_staged (s : State) (a : Nat) (l : List Byte) : (s.writeMem a l).staged = s.staged := rfl
@[simp] theorem State.writeMem_fwVersion (s : State) (a : Nat) (l : List Byte) : (s.writeMem a l).fwVersion = s.fwVersion := rfl
@[simp] theorem State.writeMem_fwFloor (s : State) (a : Nat) (l : List Byte) : (s.writeMem a l).fwFloor = s.fwFloor := rfl
@[simp] theorem State.writeMem_outside (s : State) (a : Nat) (l : List Byte) : (s.writeMem a l).outside = s.outside := rfl
@[simp] theorem State.writeMem_inputs (s : State) (a : Nat) (l : List Byte) : (s.writeMem a l).inputs = s.inputs := rfl
@[simp] theorem State.writeMem_free (s : State) (a : Nat) (l : List Byte) : (s.writeMem a l).free = s.free := rfl
@[simp] theorem State.writeMem_nextUid (s : State) (a : Nat) (l : List Byte) : (s.writeMem a l).nextUid = s.nextUid := rfl

/-! `State.setMemPoison` -/
@[simp] theorem State.setMemPoison_cur (s : State) (k : Nat) (b : Bool) : (s.setMemPoison k b).cur = s.cur := rfl
@[simp] theorem State.setMemPoison_groups (s : State) (k : Nat) (b : Bool) : (s.setMemPoison k b).groups = s.groups := rfl
@[simp] theorem State.setMemPoison_clusters (s : State) (k : Nat) (b : Bool) : (s.setMemPoison k b).clusters = s.clusters := rfl
@[simp] theorem State.setMemPoison_quiet (s : State) (k : Nat) (b : Bool) : (s.setMemPoison k b).quiet = s.quiet := rfl
@[simp] theorem State.setMemPoison_teams (s : State) (k : Nat) (b : Bool) : (s.setMemPoison k b).teams = s.teams := rfl
@[simp] theorem State.setMemPoison_launches (s : State) (k : Nat) (b : Bool) : (s.setMemPoison k b).launches = s.launches := rfl
@[simp] theorem State.setMemPoison_ops (s : State) (k : Nat) (b : Bool) : (s.setMemPoison k b).ops = s.ops := rfl
@[simp] theorem State.setMemPoison_reqs (s : State) (k : Nat) (b : Bool) : (s.setMemPoison k b).reqs = s.reqs := rfl
@[simp] theorem State.setMemPoison_walks (s : State) (k : Nat) (b : Bool) : (s.setMemPoison k b).walks = s.walks := rfl
@[simp] theorem State.setMemPoison_rdvs (s : State) (k : Nat) (b : Bool) : (s.setMemPoison k b).rdvs = s.rdvs := rfl
@[simp] theorem State.setMemPoison_slices (s : State) (k : Nat) (b : Bool) : (s.setMemPoison k b).slices = s.slices := rfl
@[simp] theorem State.setMemPoison_dies (s : State) (k : Nat) (b : Bool) : (s.setMemPoison k b).dies = s.dies := rfl
@[simp] theorem State.setMemPoison_mem (s : State) (k : Nat) (b : Bool) : (s.setMemPoison k b).mem = s.mem := rfl
@[simp] theorem State.setMemPoison_vaultPoison (s : State) (k : Nat) (b : Bool) : (s.setMemPoison k b).vaultPoison = s.vaultPoison := rfl
@[simp] theorem State.setMemPoison_queues (s : State) (k : Nat) (b : Bool) : (s.setMemPoison k b).queues = s.queues := rfl
@[simp] theorem State.setMemPoison_packets (s : State) (k : Nat) (b : Bool) : (s.setMemPoison k b).packets = s.packets := rfl
@[simp] theorem State.setMemPoison_quotes (s : State) (k : Nat) (b : Bool) : (s.setMemPoison k b).quotes = s.quotes := rfl
@[simp] theorem State.setMemPoison_resv (s : State) (k : Nat) (b : Bool) : (s.setMemPoison k b).resv = s.resv := rfl
@[simp] theorem State.setMemPoison_dust (s : State) (k : Nat) (b : Bool) : (s.setMemPoison k b).dust = s.dust := rfl
@[simp] theorem State.setMemPoison_rel (s : State) (k : Nat) (b : Bool) : (s.setMemPoison k b).rel = s.rel := rfl
@[simp] theorem State.setMemPoison_ptp (s : State) (k : Nat) (b : Bool) : (s.setMemPoison k b).ptp = s.ptp := rfl
@[simp] theorem State.setMemPoison_time (s : State) (k : Nat) (b : Bool) : (s.setMemPoison k b).time = s.time := rfl
@[simp] theorem State.setMemPoison_cap (s : State) (k : Nat) (b : Bool) : (s.setMemPoison k b).cap = s.cap := rfl
@[simp] theorem State.setMemPoison_staged (s : State) (k : Nat) (b : Bool) : (s.setMemPoison k b).staged = s.staged := rfl
@[simp] theorem State.setMemPoison_fwVersion (s : State) (k : Nat) (b : Bool) : (s.setMemPoison k b).fwVersion = s.fwVersion := rfl
@[simp] theorem State.setMemPoison_fwFloor (s : State) (k : Nat) (b : Bool) : (s.setMemPoison k b).fwFloor = s.fwFloor := rfl
@[simp] theorem State.setMemPoison_outside (s : State) (k : Nat) (b : Bool) : (s.setMemPoison k b).outside = s.outside := rfl
@[simp] theorem State.setMemPoison_inputs (s : State) (k : Nat) (b : Bool) : (s.setMemPoison k b).inputs = s.inputs := rfl
@[simp] theorem State.setMemPoison_free (s : State) (k : Nat) (b : Bool) : (s.setMemPoison k b).free = s.free := rfl
@[simp] theorem State.setMemPoison_nextUid (s : State) (k : Nat) (b : Bool) : (s.setMemPoison k b).nextUid = s.nextUid := rfl

/-! `State.missed` -/
@[simp] theorem State.missed_groups (s : State) : (s.missed).groups = s.groups := rfl
@[simp] theorem State.missed_clusters (s : State) : (s.missed).clusters = s.clusters := rfl
@[simp] theorem State.missed_quiet (s : State) : (s.missed).quiet = s.quiet := rfl
@[simp] theorem State.missed_teams (s : State) : (s.missed).teams = s.teams := rfl
@[simp] theorem State.missed_launches (s : State) : (s.missed).launches = s.launches := rfl
@[simp] theorem State.missed_ops (s : State) : (s.missed).ops = s.ops := rfl
@[simp] theorem State.missed_reqs (s : State) : (s.missed).reqs = s.reqs := rfl
@[simp] theorem State.missed_walks (s : State) : (s.missed).walks = s.walks := rfl
@[simp] theorem State.missed_rdvs (s : State) : (s.missed).rdvs = s.rdvs := rfl
@[simp] theorem State.missed_slices (s : State) : (s.missed).slices = s.slices := rfl
@[simp] theorem State.missed_dies (s : State) : (s.missed).dies = s.dies := rfl
@[simp] theorem State.missed_mem (s : State) : (s.missed).mem = s.mem := rfl
@[simp] theorem State.missed_sectorPoison (s : State) : (s.missed).sectorPoison = s.sectorPoison := rfl
@[simp] theorem State.missed_vaultPoison (s : State) : (s.missed).vaultPoison = s.vaultPoison := rfl
@[simp] theorem State.missed_queues (s : State) : (s.missed).queues = s.queues := rfl
@[simp] theorem State.missed_packets (s : State) : (s.missed).packets = s.packets := rfl
@[simp] theorem State.missed_quotes (s : State) : (s.missed).quotes = s.quotes := rfl
@[simp] theorem State.missed_resv (s : State) : (s.missed).resv = s.resv := rfl
@[simp] theorem State.missed_dust (s : State) : (s.missed).dust = s.dust := rfl
@[simp] theorem State.missed_rel (s : State) : (s.missed).rel = s.rel := rfl
@[simp] theorem State.missed_ptp (s : State) : (s.missed).ptp = s.ptp := rfl
@[simp] theorem State.missed_time (s : State) : (s.missed).time = s.time := rfl
@[simp] theorem State.missed_cap (s : State) : (s.missed).cap = s.cap := rfl
@[simp] theorem State.missed_staged (s : State) : (s.missed).staged = s.staged := rfl
@[simp] theorem State.missed_fwVersion (s : State) : (s.missed).fwVersion = s.fwVersion := rfl
@[simp] theorem State.missed_fwFloor (s : State) : (s.missed).fwFloor = s.fwFloor := rfl
@[simp] theorem State.missed_outside (s : State) : (s.missed).outside = s.outside := rfl
@[simp] theorem State.missed_inputs (s : State) : (s.missed).inputs = s.inputs := rfl
@[simp] theorem State.missed_free (s : State) : (s.missed).free = s.free := rfl
@[simp] theorem State.missed_nextUid (s : State) : (s.missed).nextUid = s.nextUid := rfl

/-! `State.moved` -/
@[simp] theorem State.moved_groups (s : State) : (s.moved).groups = s.groups := rfl
@[simp] theorem State.moved_clusters (s : State) : (s.moved).clusters = s.clusters := rfl
@[simp] theorem State.moved_quiet (s : State) : (s.moved).quiet = s.quiet := rfl
@[simp] theorem State.moved_teams (s : State) : (s.moved).teams = s.teams := rfl
@[simp] theorem State.moved_launches (s : State) : (s.moved).launches = s.launches := rfl
@[simp] theorem State.moved_ops (s : State) : (s.moved).ops = s.ops := rfl
@[simp] theorem State.moved_reqs (s : State) : (s.moved).reqs = s.reqs := rfl
@[simp] theorem State.moved_walks (s : State) : (s.moved).walks = s.walks := rfl
@[simp] theorem State.moved_rdvs (s : State) : (s.moved).rdvs = s.rdvs := rfl
@[simp] theorem State.moved_slices (s : State) : (s.moved).slices = s.slices := rfl
@[simp] theorem State.moved_dies (s : State) : (s.moved).dies = s.dies := rfl
@[simp] theorem State.moved_mem (s : State) : (s.moved).mem = s.mem := rfl
@[simp] theorem State.moved_sectorPoison (s : State) : (s.moved).sectorPoison = s.sectorPoison := rfl
@[simp] theorem State.moved_vaultPoison (s : State) : (s.moved).vaultPoison = s.vaultPoison := rfl
@[simp] theorem State.moved_queues (s : State) : (s.moved).queues = s.queues := rfl
@[simp] theorem State.moved_packets (s : State) : (s.moved).packets = s.packets := rfl
@[simp] theorem State.moved_quotes (s : State) : (s.moved).quotes = s.quotes := rfl
@[simp] theorem State.moved_resv (s : State) : (s.moved).resv = s.resv := rfl
@[simp] theorem State.moved_dust (s : State) : (s.moved).dust = s.dust := rfl
@[simp] theorem State.moved_rel (s : State) : (s.moved).rel = s.rel := rfl
@[simp] theorem State.moved_ptp (s : State) : (s.moved).ptp = s.ptp := rfl
@[simp] theorem State.moved_time (s : State) : (s.moved).time = s.time := rfl
@[simp] theorem State.moved_cap (s : State) : (s.moved).cap = s.cap := rfl
@[simp] theorem State.moved_staged (s : State) : (s.moved).staged = s.staged := rfl
@[simp] theorem State.moved_fwVersion (s : State) : (s.moved).fwVersion = s.fwVersion := rfl
@[simp] theorem State.moved_fwFloor (s : State) : (s.moved).fwFloor = s.fwFloor := rfl
@[simp] theorem State.moved_outside (s : State) : (s.moved).outside = s.outside := rfl
@[simp] theorem State.moved_inputs (s : State) : (s.moved).inputs = s.inputs := rfl
@[simp] theorem State.moved_free (s : State) : (s.moved).free = s.free := rfl
@[simp] theorem State.moved_nextUid (s : State) : (s.moved).nextUid = s.nextUid := rfl

/-! ### What an update writes -/

@[simp] theorem State.group_setGroup (s : State) (k : Nat) (v : Group) : (s.setGroup k v).group k = v := Tab.get_set_same _ _ _ _
@[simp] theorem State.group_modGroup (s : State) (k : Nat) (f : Group → Group) : (s.modGroup k f).group k = f (s.group k) :=
  Tab.get_set_same _ _ _ _
theorem State.group_setGroup_ne (s : State) {j k : Nat} (h : j ≠ k) (v : Group) : (s.setGroup k v).group j = s.group j :=
  Tab.get_set_ne _ h _ _
theorem State.group_modGroup_ne (s : State) {j k : Nat} (h : j ≠ k) (f : Group → Group) : (s.modGroup k f).group j = s.group j :=
  Tab.get_set_ne _ h _ _
@[simp] theorem State.cluster_setCluster (s : State) (k : Nat) (v : Cluster) : (s.setCluster k v).cluster k = v := Tab.get_set_same _ _ _ _
@[simp] theorem State.cluster_modCluster (s : State) (k : Nat) (f : Cluster → Cluster) : (s.modCluster k f).cluster k = f (s.cluster k) :=
  Tab.get_set_same _ _ _ _
theorem State.cluster_modCluster_ne (s : State) {j k : Nat} (h : j ≠ k) (f : Cluster → Cluster) :
    (s.modCluster k f).cluster j = s.cluster j := Tab.get_set_ne _ h _ _
@[simp] theorem State.team_setTeam (s : State) (k : Nat) (v : Team) : (s.setTeam k v).team k = v := Tab.get_set_same _ _ _ _
@[simp] theorem State.team_modTeam (s : State) (k : Nat) (f : Team → Team) : (s.modTeam k f).team k = f (s.team k) := Tab.get_set_same _ _ _ _
theorem State.team_modTeam_ne (s : State) {j k : Nat} (h : j ≠ k) (f : Team → Team) : (s.modTeam k f).team j = s.team j :=
  Tab.get_set_ne _ h _ _
@[simp] theorem State.launch_modLaunch (s : State) (k : Nat) (f : Launch → Launch) : (s.modLaunch k f).launch k = f (s.launch k) :=
  Tab.get_set_same _ _ _ _
@[simp] theorem State.op_setOp (s : State) (k : Nat) (v : Op) : (s.setOp k v).op k = v := Tab.get_set_same _ _ _ _
theorem State.op_setOp_ne (s : State) {j k : Nat} (h : j ≠ k) (v : Op) : (s.setOp k v).op j = s.op j := Tab.get_set_ne _ h _ _
@[simp] theorem State.slice_modSlice (s : State) (k : Nat) (f : Slice → Slice) : (s.modSlice k f).slice k = f (s.slice k) :=
  Tab.get_set_same _ _ _ _
theorem State.slice_modSlice_ne (s : State) {j k : Nat} (h : j ≠ k) (f : Slice → Slice) : (s.modSlice k f).slice j = s.slice j :=
  Tab.get_set_ne _ h _ _
@[simp] theorem State.die_setDie (s : State) (k : Nat) (v : Die) : (s.setDie k v).die k = v := Tab.get_set_same _ _ _ _
@[simp] theorem State.die_modDie (s : State) (k : Nat) (f : Die → Die) : (s.modDie k f).die k = f (s.die k) := Tab.get_set_same _ _ _ _
theorem State.die_modDie_ne (s : State) {j k : Nat} (h : j ≠ k) (f : Die → Die) : (s.modDie k f).die j = s.die j := Tab.get_set_ne _ h _ _
@[simp] theorem State.quote_modQuote (s : State) (k : Nat) (f : QEntry → QEntry) : (s.modQuote k f).quote k = f (s.quote k) :=
  Tab.get_set_same _ _ _ _
theorem State.quote_modQuote_ne (s : State) {j k : Nat} (h : j ≠ k) (f : QEntry → QEntry) : (s.modQuote k f).quote j = s.quote j :=
  Tab.get_set_ne _ h _ _
@[simp] theorem State.memByte_setMemByte (s : State) (a : Nat) (b : Byte) : (s.setMemByte a b).memByte a = b := Tab.get_set_same _ _ _ _
theorem State.memByte_setMemByte_ne (s : State) {a c : Nat} (h : c ≠ a) (b : Byte) : (s.setMemByte a b).memByte c = s.memByte c :=
  Tab.get_set_ne _ h _ _
@[simp] theorem Group.greg_setG (g : Group) (n : Nat) (v : Word) : (g.setG n v).greg n = v := Tab.get_set_same _ _ _ _
theorem Group.greg_setG_ne (g : Group) {m n : Nat} (h : m ≠ n) (v : Word) : (g.setG n v).greg m = g.greg m := Tab.get_set_ne _ h _ _
@[simp] theorem Group.pred_setPred (g : Group) (n : Nat) (v : LaneMask) : (g.setPred n v).pred n = v := Tab.get_set_same _ _ _ _
theorem Group.pred_setPred_ne (g : Group) {m n : Nat} (h : m ≠ n) (v : LaneMask) : (g.setPred n v).pred m = g.pred m := Tab.get_set_ne _ h _ _
@[simp] theorem Group.strand_setStrand (g : Group) (k : Nat) (v : Strand) : (g.setStrand k v).strand k = v := Tab.get_set_same _ _ _ _
theorem Group.strand_setStrand_ne (g : Group) {j k : Nat} (h : j ≠ k) (v : Strand) : (g.setStrand k v).strand j = g.strand j :=
  Tab.get_set_ne _ h _ _

end Sys2Proof.Machine
end

