-- ==== Sys2Proof/Laws/Words.lean ====
section
/-! SUPPORT. What issue and the moulds of lane words, group-wide words and predicate words do, said once. -/

namespace Sys2Proof.Machine

/-! ### Issue -/

/-- A word that issues does what its meaning says. -/
theorem issue_ready {i : Instr} {s : State} (h : Ready i s) (k : State → Outcome) : issue i s k = k s := by
  simp [issue, h.1, h.2]

/-- A word that is not legal traps with ILLEGAL. -/
theorem issue_illegal {i : Instr} {s : State} (h : legal i s = false) (k : State → Outcome) :
    issue i s k = .next (s.trapWord .illegal) := by simp [issue, h]

/-- A legal word that reads a closed latch traps with LATCH. -/
theorem issue_latch {i : Instr} {s : State} (h : legal i s = true) (hl : (usesOf i).latchesOpen s = false) (k : State → Outcome) :
    issue i s k = .next (s.trapWord .latch) := by simp [issue, h, hl]

/-! ### Moves -/

theorem Moves.refl (s : State) : Moves s s s.cur.moved s.me s.myLatches where
  rest := rfl
  me := rfl
  others _ _ := rfl
  away _ _ := rfl
  mine := rfl
  quarters _ _ := rfl
  quarter := rfl

section
variable {s t : State} {own : Bool} {g : Group} {l : Tab Latch}

theorem Moves.cur_group (h : Moves s t own g l) : t.cur.group = s.cur.group := by rw [h.rest]
theorem Moves.cur_view (h : Moves s t own g l) : t.cur.view = s.cur.view := by rw [h.rest]
theorem Moves.cur_strand (h : Moves s t own g l) : t.cur.strand = s.cur.strand := by rw [h.rest]

theorem Moves.now (h : Moves s t own g l) : t.me = g := by
  rw [State.me, h.cur_group, h.me]

/-- The moving group changed once more. -/
theorem Moves.modMe (h : Moves s t own g l) (f : Group → Group) : Moves s (t.modMe f) own (f g) l where
  rest := by
    have := h.rest
    rw [State.modMe, State.modGroup, State.setGroup, this]
  me := by
    rw [State.modMe, h.cur_group, State.group_modGroup, h.me]
  others k hk := by
    rw [State.modMe, h.cur_group, State.group_modGroup_ne _ hk, h.others k hk]
  away := h.away
  mine := h.mine
  quarters := h.quarters
  quarter := h.quarter

/-- Energy charged to a meter of the moving group's cluster. -/
theorem Moves.addMeter (h : Moves s t own g l) (q e : Nat) : Moves s (t.addMeter s.myCluster q e) own g l where
  rest := by
    have := h.rest
    rw [State.addMeter, State.modCluster, State.setCluster, this]
  me := h.me
  others := h.others
  away c hc := by rw [State.addMeter, State.cluster_modCluster_ne _ hc, h.away c hc]
  mine := by
    rw [State.addMeter, State.cluster_modCluster]
    have := h.mine
    rw [this]
  quarters q hq := by
    have := h.quarters q hq
    rw [State.quarter] at this ⊢
    rw [State.addMeter, State.cluster_modCluster]
    exact this
  quarter := by
    have := h.quarter
    rw [State.quarter] at this ⊢
    rw [State.addMeter, State.cluster_modCluster]
    exact this

theorem Moves.charge (h : Moves s t own g l) (q a : Nat) : Moves s (t.charge s.myCluster q a) own g l := by
  unfold State.charge
  split
  · split
    · exact h.addMeter _ _
    · exact (h.addMeter _ _).addMeter _ _
  · exact h.addMeter _ _

theorem Moves.chargeMe (h : Moves s t own g l) (a : Nat) : Moves s (t.chargeMe a) own g l := by
  have : t.myCluster = s.myCluster := by rw [State.myCluster, h.cur_group, State.myCluster]
  rw [State.chargeMe, this]
  exact h.charge _ _

theorem Moves.moved (h : Moves s t own g l) : Moves s t.moved true g l where
  rest := by
    have := h.rest
    rw [State.moved, this]
  me := h.me
  others := h.others
  away := h.away
  mine := h.mine
  quarters := h.quarters
  quarter := h.quarter

/-- The lost marks after a result has entered a latch. -/
def Group.shiftLost (g : Group) (r : Nat) : BitVec 8 :=
  let x := g.lost &&& ~~~ ((1 : BitVec 8) <<< r) &&& ~~~ ((1 : BitVec 8) <<< (r + 4))
  if g.lost.getLsbD r then x ||| ((1 : BitVec 8) <<< (r + 4)) else x

theorem Group.shiftLost_bit (g : Group) {r : Nat} (hr : r < 4) {k : Nat} (hk : k < 8) :
    (g.shiftLost r).getLsbD k = if k = r then false else if k = r + 4 then g.lost.getLsbD r else g.lost.getLsbD k := by
  simp only [Group.shiftLost]
  have hk' : k = 0 ∨ k = 1 ∨ k = 2 ∨ k = 3 ∨ k = 4 ∨ k = 5 ∨ k = 6 ∨ k = 7 := by omega
  have hr' : r = 0 ∨ r = 1 ∨ r = 2 ∨ r = 3 := by omega
  cases h : g.lost.getLsbD r <;> rcases hr' with rfl | rfl | rfl | rfl <;>
    rcases hk' with rfl | rfl | rfl | rfl | rfl | rfl | rfl | rfl <;> simp

/-- The latches of the quarter changed. -/
theorem Moves.setLatches (h : Moves s t own g l) (f : Tab Latch → Tab Latch) :
    Moves s (t.modQuarter s.myCluster s.myQuarter fun q => { q with latches := f q.latches }) own g (f l) := by
  have e : (t.modQuarter s.myCluster s.myQuarter fun q => { q with latches := f q.latches }).cluster s.myCluster =
      { t.cluster s.myCluster with quarters :=
          (t.cluster s.myCluster).quarters.update {} s.myQuarter fun q => { q with latches := f q.latches } } :=
    State.cluster_modCluster _ _ _
  refine ⟨?_, h.me, h.others, fun c hc => ?_, ?_, fun q hq => ?_, ?_⟩
  · have := h.rest
    rw [State.modQuarter, State.modCluster, State.setCluster, this]
  · rw [State.modQuarter, State.cluster_modCluster_ne _ hc, h.away c hc]
  · have hm := h.mine
    rw [e, hm]
  · have := h.quarters q hq
    rw [State.quarter] at this ⊢
    rw [e, ← this]
    exact Tab.get_set_ne _ hq _ _
  · have := h.quarter
    rw [State.quarter] at this ⊢
    rw [e]
    simp only [Tab.update, Tab.get_set_same, this]

/-- A result enters a latch of the quarter. -/
theorem Moves.enterLatch (h : Moves s t own g l) (r : Nat) (x : Latch) :
    Moves s (t.enterLatch s.cur.group r x) own { g with lost := g.shiftLost r } ((l.set {} (r + 4) (l.get {} r)).set {} r x) := by
  have h1 := h.setLatches fun y => (y.set {} (r + 4) (y.get {} r)).set {} r x
  have h2 := h1.modMe fun g => { g with lost := g.shiftLost r }
  rw [State.modMe, h1.cur_group] at h2
  exact h2

end

/-! ### Lane registers -/

theorem Tab.readLe_lt (t : Tab Byte) (a n : Nat) : Tab.readLe t a n < 2 ^ (8 * n) := by
  induction n generalizing a with
  | zero => simp [Tab.readLe]
  | succ n ih =>
    have := ih (a + 1)
    have hb := (Tab.get 0 a t).isLt
    simp only [Tab.readLe, Nat.mul_add, Nat.pow_add] at *
    omega

/-- A write of n bytes leaves every other key alone. -/
theorem Tab.get_writeLe_ne (t : Tab Byte) (a n v k : Nat) (h : k < a ∨ a + n ≤ k) : Tab.get 0 k (Tab.writeLe t a n v) = Tab.get 0 k t := by
  induction n generalizing t a v with
  | zero => rfl
  | succ n ih =>
    rw [Tab.writeLe, ih _ _ _ (by omega), Tab.get_set_ne _ (by omega)]

/-- A read after a write of the same bytes gives the number, modulo its size. -/
theorem Tab.readLe_writeLe (t : Tab Byte) (a n v : Nat) : Tab.readLe (Tab.writeLe t a n v) a n = v % 2 ^ (8 * n) := by
  induction n generalizing t a v with
  | zero => simp [Tab.readLe, Nat.mod_one]
  | succ n ih =>
    rw [Tab.readLe, Tab.writeLe, ih, Tab.get_writeLe_ne _ _ _ _ _ (by omega), Tab.get_set_same]
    rw [show 8 * (n + 1) = 8 + 8 * n by omega, Nat.pow_add, Nat.mod_mul]
    simp [Nat.mul_comm]

/-- A read of bytes that a write leaves alone. -/
theorem Tab.readLe_writeLe_ne (t : Tab Byte) (a n v b m : Nat) (h : b + m ≤ a ∨ a + n ≤ b) :
    Tab.readLe (Tab.writeLe t a n v) b m = Tab.readLe t b m := by
  induction m generalizing b with
  | zero => rfl
  | succ m ih => rw [Tab.readLe, Tab.readLe, Tab.get_writeLe_ne _ _ _ _ _ (by omega), ih _ (by omega)]

section
variable {b n : Nat} {f : Nat → Nat}

/-- Writing lanes writes nothing but the lane registers. -/
theorem Group.writeLanes_rest (l : List Nat) (g : Group) : g.writeLanes b n f l = { g with lanes := (g.writeLanes b n f l).lanes } := by
  induction l generalizing g with
  | nil => rfl
  | cons i t ih => rw [Group.writeLanes, ih]; rfl

theorem Group.byteAt_writeLanes (l : List Nat) (g : Group) {i c : Nat} (hc : c < 1024) (hb : b + n ≤ 1024)
    (h : i ∉ l ∨ c < b ∨ b + n ≤ c) : (g.writeLanes b n f l).byteAt i c = g.byteAt i c := by
  induction l generalizing g with
  | nil => rfl
  | cons j t ih =>
    simp only [List.mem_cons, not_or] at h
    rw [Group.writeLanes, ih _ (h.imp_left And.right)]
    exact Tab.get_writeLe_ne _ _ _ _ _ (by omega)

theorem Group.readLane_writeLanes_ne (l : List Nat) (g : Group) {i : Nat} (hb : b + n ≤ 1024) (h : i ∉ l) :
    (g.writeLanes b n f l).readLane i b n = g.readLane i b n := by
  induction l generalizing g with
  | nil => rfl
  | cons j t ih =>
    simp only [List.mem_cons, not_or] at h
    rw [Group.writeLanes, ih _ h.2]
    exact Tab.readLe_writeLe_ne _ _ _ _ _ _ (by omega)

/-- Every lane written holds its value. -/
theorem Group.readLane_writeLanes (l : List Nat) (g : Group) {i : Nat} (hb : b + n ≤ 1024) (hn : l.Nodup) (h : i ∈ l) :
    (g.writeLanes b n f l).readLane i b n = f i % 2 ^ (8 * n) := by
  induction l generalizing g with
  | nil => simp at h
  | cons j t ih =>
    rw [List.nodup_cons] at hn
    rw [Group.writeLanes]
    by_cases hi : i ∈ t
    · exact ih _ hn.2 hi
    · have : i = j := by simpa [hi] using h
      subst this
      rw [Group.readLane_writeLanes_ne _ _ hb hi]
      exact Tab.readLe_writeLe _ _ _ _

end

theorem mem_lanesOf {m : LaneMask} {i : Nat} : i ∈ lanesOf m ↔ i < 64 ∧ m.getLsbD i = true := by simp [lanesOf]
theorem lanesOf_nodup (m : LaneMask) : (lanesOf m).Nodup := List.nodup_range.filter _

/-- A latch content holds f's value in the lanes of the mask and 0 in the others. -/
theorem laneLatch_val (g : Group) (w : Nat) (wide : Bool) (m : LaneMask) (f : Nat → Nat) {i : Nat} (hi : i < 64) :
    (laneLatch g w wide m f).val i = if m.getLsbD i = true then BitVec.ofNat 64 (f i) else 0 := by
  have key : ∀ (l : List Nat) (t : Tab Dword), Tab.get 0 i (l.foldl (fun t i => t.set 0 i (BitVec.ofNat 64 (f i))) t)
      = if i ∈ l then BitVec.ofNat 64 (f i) else Tab.get 0 i t := by
    intro l
    induction l with
    | nil => intro t; simp
    | cons j l ih =>
      intro t
      rw [List.foldl_cons, ih]
      by_cases h : i ∈ l
      · simp [h]
      · by_cases hj : i = j
        · subst hj; simp [h]
        · simp [h, hj, Tab.get_set_ne _ hj]
  have := key (lanesOf m) []
  simp only [mem_lanesOf, hi, true_and] at this
  exact this

/-! ### The moulds -/

/-- The destination of a ready word lies in the lane space. -/
theorem Ready.dst {i : Instr} {s : State} (h : Ready i s) {r : LaneReg} (hr : r ∈ (usesOf i).vdst) :
    (r.bytes s.seen).1 + (r.bytes s.seen).2 ≤ 1024 := by
  have h := h.1
  simp only [legal, legalIn, Uses.inSpace, Bool.and_eq_true, List.all_eq_true] at h
  have := h.1.2.1.2 r hr
  simp only [LaneReg.ok, Bool.and_eq_true, decide_eq_true_eq] at this
  omega

/-- A LANE WORD (R107). -/
theorem laneWord_done {i : Instr} {s : State} (h : Ready i s) (pipe : Pipe) (w : Bool) (d : BitVec 7) (n c cost : Nat) (f : State → Nat → Nat)
    (hd : .v d.toNat c ∈ (usesOf i).vdst) (hn : n = 4 * c) :
    LaneDone s (laneWord i pipe w d n cost f s) pipe w d.toNat n (f s) := by
  have hb : s.seen.vAt d.toNat + n ≤ 1024 := by have := h.dst hd; simpa [LaneReg.bytes, hn] using this
  have hr : pipe.latchNo < 4 := by cases pipe <;> decide
  have h0 := (Moves.refl s).chargeMe (cost * popcount s.str.exm)
  let g := if w then s.me else s.me.writeLanes (s.seen.vAt d.toNat) n (f s) (lanesOf s.str.exm)
  have e : (s.chargeMe (cost * popcount s.str.exm)).cur = s.cur := by rw [h0.rest]
  have hme : (s.chargeMe (cost * popcount s.str.exm)).me = s.me := h0.now
  have hseen : (s.chargeMe (cost * popcount s.str.exm)).seen = s.seen := by simp only [State.seen, hme, e]
  have hstr : (s.chargeMe (cost * popcount s.str.exm)).str = s.str := by
    generalize cost * popcount s.str.exm = x at e hseen ⊢
    unfold State.str
    rw [hseen, e]
  have h1 : Moves s (if w then s.chargeMe (cost * popcount s.str.exm) else
      (s.chargeMe (cost * popcount s.str.exm)).modMe fun g => g.writeLanes (s.seen.vAt d.toNat) n (f s) (lanesOf s.str.exm))
      s.cur.moved g s.myLatches := by
    cases w
    · exact h0.modMe _
    · exact h0
  have h2 := h1.enterLatch pipe.latchNo (laneLatch s.me (8 * n) false s.str.exm (f s))
  have hg : g = { s.me with lanes := g.lanes } := by
    cases w
    · exact Group.writeLanes_rest _ _
    · rfl
  refine ⟨_, _, _, ?_, h2, ?_, ?_, ?_, ?_, rfl, rfl, rfl, ?_⟩
  · rw [laneWord, issue_ready h, State.laneResult]
    simp only [hseen, hstr, hme, e]
  · have key : ∀ (g' : Group) (x : BitVec 8), g' = { s.me with lanes := g'.lanes } →
        { g' with lost := x } = { s.me with lanes := g'.lanes, lost := x } := fun g' x h => by rw [h]
    exact key g _ hg
  · intro hw i hi hm
    subst hw
    exact Group.readLane_writeLanes _ _ hb (lanesOf_nodup _) (mem_lanesOf.2 ⟨hi, hm⟩)
  · intro i b hi hb' hc
    cases w
    · refine Group.byteAt_writeLanes _ _ hb' hb ?_
      simpa [mem_lanesOf, hi] using hc
    · rfl
  · intro k hk
    have : g.lost = s.me.lost := by rw [hg]
    rw [Group.shiftLost_bit _ hr hk, this]
  · intro i hi
    exact laneLatch_val _ _ _ _ _ hi

/-- A group-wide result enters L2. -/
theorem Moves.shared {s t : State} {g g' : Group} (h : Moves s t s.cur.moved g' s.myLatches) (hl : g'.lost = s.me.lost) (hg : g = g')
    (bits : Nat) (v : Dword) : GroupDone s (.next (t.enterLatch s.cur.group 2 (sharedLatch s.me bits v))) bits v g := by
  subst hg
  refine ⟨_, _, _, rfl, h.enterLatch 2 _, ?_, rfl, rfl, rfl, fun i => ?_⟩
  · intro k hk
    rw [Group.shiftLost_bit _ (by decide) hk, hl]
  · simp [Latch.val, sharedLatch]

theorem gResult_done (s : State) (w : Bool) (d : Nat) (v : Word) (cost : Nat) :
    GDone s (.next ((s.chargeMe cost).gResult w d v)) w d v := by
  have h0 := (Moves.refl s).chargeMe cost
  have e : (s.chargeMe cost).cur = s.cur := by rw [h0.rest]
  have hme : (s.chargeMe cost).me = s.me := h0.now
  unfold GDone State.gResult
  rw [e, hme]
  cases w
  · exact (h0.modMe _).shared rfl rfl _ _
  · exact h0.shared rfl rfl _ _

theorem gResult64_done (s : State) (w : Bool) (d : Nat) (v : Dword) (cost : Nat) :
    GDone64 s (.next ((s.chargeMe cost).gResult64 w d v)) w d v := by
  have h0 := (Moves.refl s).chargeMe cost
  have e : (s.chargeMe cost).cur = s.cur := by rw [h0.rest]
  have hme : (s.chargeMe cost).me = s.me := h0.now
  unfold GDone64 State.gResult64
  rw [e, hme]
  cases w
  · exact (h0.modMe _).shared rfl rfl _ _
  · exact h0.shared rfl rfl _ _

/-- A GROUP-WIDE WORD of 32 bits (R153). -/
theorem groupWord_done {i : Instr} {s : State} (h : Ready i s) (w : Bool) (d : BitVec 7) (f : State → Word) :
    GDone s (groupWord i w d f s) w d.toNat (f s) := by
  rw [groupWord, issue_ready h]
  exact gResult_done _ _ _ _ _

/-- A GROUP-WIDE WORD of 64 bits. -/
theorem groupWord64_done {i : Instr} {s : State} (h : Ready i s) (w : Bool) (d : BitVec 7) (f : State → Dword) :
    GDone64 s (groupWord64 i w d f s) w d.toNat (f s) := by
  rw [groupWord64, issue_ready h]
  exact gResult64_done _ _ _ _ _

theorem maskOf_bit (f : Nat → Bool) (l : List Nat) {i : Nat} (hi : i < 64) : (maskOf f l).getLsbD i = (decide (i ∈ l) && f i) := by
  have key : ∀ (l : List Nat) (m : LaneMask), (l.foldl (fun (m : LaneMask) i => if f i then m ||| ((1 : LaneMask) <<< i) else m) m).getLsbD i
      = (m.getLsbD i || (decide (i ∈ l) && f i)) := by
    intro l
    induction l with
    | nil => intro m; simp
    | cons j l ih =>
      intro m
      rw [List.foldl_cons, ih]
      by_cases hj : i = j
      · subst hj
        cases hf : f i <;> simp [hi]
      · have h1 : ((1 : LaneMask) <<< j).getLsbD i = false := by
          simp [BitVec.getLsbD_shiftLeft, BitVec.getLsbD_one]
          omega
        cases hf : f j
        · simp [hj]
        · have h2 : (m ||| (1 : LaneMask) <<< j).getLsbD i = m.getLsbD i := by rw [BitVec.getLsbD_or, h1, Bool.or_false]
          simp only [if_true, h2, List.mem_cons, hj, false_or]
  simpa [maskOf] using key l 0

/-- A PREDICATE WORD (R122). -/
theorem predWordOf_done {i : Instr} {s : State} (h : Ready i s) (n : Nat) (f : State → Nat → Bool) :
    PredDone s (predWordOf i n f s) n (f s) := by
  have h0 := (Moves.refl s).chargeMe (eVA1 * popcount s.str.exm)
  refine ⟨(s.me.pred n &&& ~~~ s.str.exm) ||| (maskOf (f s) (lanesOf s.str.exm) &&& s.str.exm), ⟨_, ?_,
    h0.modMe fun g => g.writePred n s.str.exm (maskOf (f s) (lanesOf s.str.exm))⟩, ?_⟩
  · rw [predWordOf, issue_ready h]
  · intro i hi
    rw [BitVec.getLsbD_or, BitVec.getLsbD_and, BitVec.getLsbD_and, BitVec.getLsbD_not, maskOf_bit _ _ hi]
    cases hm : s.str.exm.getLsbD i <;> simp [mem_lanesOf, hi, hm]

end Sys2Proof.Machine
end

