-- ==== Sys2Proof/Laws/Control.lean ====
section
/-! SUPPORT. What the shared operations of control flow do, said once: the checks of a BR word, falling through, entering a block, a branch. -/

namespace Sys2Proof.Machine

section
variable {s t : State} {own : Bool} {g : Group} {l : Tab Latch}

/-- A word that moves the group alone leaves every instruction store. -/
theorem Moves.istore (h : Moves s t own g l) (c : Nat) : (t.cluster c).istore = (s.cluster c).istore := by
  by_cases hc : c = s.myCluster
  · subst hc
    rw [h.mine]
  · rw [h.away c hc]

theorem Moves.quiet (h : Moves s t own g l) : t.quiet = s.quiet := by rw [h.rest]

theorem Moves.clk (h : Moves s t own g l) (c : Nat) : t.clk c = s.clk c := by
  unfold State.clk
  rw [h.quiet]
  by_cases hc : c = s.myCluster
  · subst hc
    rw [h.mine]
  · rw [h.away c hc]

theorem Moves.launch (h : Moves s t own g l) (x : Nat) : t.launch x = s.launch x := by rw [h.rest]; rfl
theorem Moves.team (h : Moves s t own g l) (x : Nat) : t.team x = s.team x := by rw [h.rest]; rfl

theorem Moves.place (h : Moves s t own g l) (hg : g.place = s.me.place) (x : Nat) : (t.group x).place = (s.group x).place := by
  by_cases hx : x = s.cur.group
  · subst hx
    rw [h.me, hg]
    rfl
  · rw [h.others x hx]

theorem Moves.codeWord (h : Moves s t own g l) (hg : g.place = s.me.place) (x a b : Nat) : t.codeWord x a b = s.codeWord x a b := by
  funext w
  unfold State.codeWord State.islot
  rw [h.istore, h.place hg]

theorem Moves.headOf (h : Moves s t own g l) (hg : g.place = s.me.place) (x : Nat) (st : Strand) : t.headOf x st = s.headOf x st := by
  unfold State.headOf State.blockOf
  rw [h.codeWord hg]

theorem Moves.nextAt (h : Moves s t own g l) (hg : g.place = s.me.place) (x : Nat) (st : Strand) : t.nextAt x st = s.nextAt x st := by
  unfold State.nextAt
  rw [h.headOf hg]

theorem Moves.limOf (h : Moves s t own g l) (hg : g.place = s.me.place) (x : Nat) (st : Strand) : t.limOf x st = s.limOf x st := by
  unfold State.limOf
  rw [h.headOf hg]

theorem Moves.limitsOf (h : Moves s t own g l) (hg : g.place = s.me.place) (x : Nat) : t.limitsOf x = s.limitsOf x := by
  unfold State.limitsOf State.imageOf
  rw [h.launch, h.place hg]

theorem Moves.myCluster (h : Moves s t own g l) : t.myCluster = s.myCluster := by rw [State.myCluster, h.cur_group, State.myCluster]

/-- A word whose packet has been read before it reads the same after the group has moved. -/
theorem Moves.seen_view (h : Moves s t own g l) (hg : s.cur.view = none → g = s.me) : t.seen = s.seen := by
  unfold State.seen
  rw [h.cur_view, h.now]
  cases hv : s.cur.view with
  | none => exact hg hv
  | some v => rfl

theorem Moves.seen (h : Moves s t own s.me l) : t.seen = s.seen := h.seen_view fun _ => rfl
theorem Moves.str (h : Moves s t own s.me l) : t.str = s.str := by unfold State.str; rw [h.seen, h.cur_strand]

/-- The moving strand changed. -/
theorem Moves.modStr (h : Moves s t own g l) (f : Strand → Strand) : Moves s (t.modStr f) own (g.setStrand s.cur.strand (f (g.strand s.cur.strand))) l := by
  have := h.modMe fun g => g.setStrand t.cur.strand (f (g.strand t.cur.strand))
  rw [h.cur_strand] at this
  unfold State.modStr
  rw [h.cur_strand]
  exact this

end

/-- A word of pipe BR that issues: what stops it, or its effect behind the charge. -/
theorem brWord_trap {i : Instr} {s : State} (h : Ready i s) {trap : State → Option TrapKind} {k : TrapKind} (ht : trap s = some k)
    (go : State → State) : brWord i trap go s = .next (s.trapWord k) := by
  rw [brWord, issue_ready h]
  simp only [ht]

theorem brWord_go {i : Instr} {s : State} (h : Ready i s) {trap : State → Option TrapKind} (ht : trap s = none) (go : State → State) :
    brWord i trap go s = .next (go (s.chargeMe eG1)) := by
  rw [brWord, issue_ready h]
  simp only [ht]

theorem branchTarget_some {pc : Word} {disp : BitVec 16} (h : 0 ≤ (pcBlk pc : Int) + disp.toInt ∧ (pcBlk pc : Int) + disp.toInt < 32) :
    branchTarget pc disp = some ((pcBlk pc : Int) + disp.toInt).toNat := by
  simp [branchTarget, h]

theorem branchTarget_none {pc : Word} {disp : BitVec 16} (h : ¬ (0 ≤ (pcBlk pc : Int) + disp.toInt ∧ (pcBlk pc : Int) + disp.toInt < 32)) :
    branchTarget pc disp = none := by
  rw [branchTarget]
  simp only [Bool.and_eq_true, decide_eq_true_eq, h, if_false]

theorem backward_iff (disp : BitVec 16) : (disp == 0 || disp.msb) = decide (disp.toInt ≤ 0) := by
  have h := disp.isLt
  rw [Bool.eq_iff_iff]
  simp only [Bool.or_eq_true, beq_iff_eq, decide_eq_true_eq, BitVec.msb_eq_toInt]
  constructor
  · rintro (rfl | h)
    · decide
    · omega
  · intro h
    by_cases h0 : disp = 0
    · exact .inl h0
    · right
      have : disp.toInt ≠ 0 := fun e => h0 (BitVec.toInt_inj.1 (by rw [e]; decide))
      omega

/-- Entering a block moves the strand alone. -/
theorem Moves.enterAt {s t : State} {own : Bool} {g : Group} {l : Tab Latch} (h : Moves s t own g l) (hg : g.place = s.me.place) (k : Nat)
    (pc : Word) (skip : Option Nat) :
    Moves s (t.enterAt s.cur.group k pc skip) own
      (g.setStrand k (Strand.enter (s.limitsOf s.cur.group) skip (g.strand k).rstack.length { g.strand k with pc := pc, block := [] })) l := by
  have := h.modMe fun g => g.setStrand k
    (Strand.enter (s.limitsOf s.cur.group) skip (g.strand k).rstack.length { g.strand k with pc := pc, block := [] })
  rw [State.modMe, h.cur_group] at this
  rw [State.enterAt, h.limitsOf hg]
  exact this

theorem fallThrough_at (s : State) (gk k : Nat) (pc : Word) (h : ((s.group gk).strand k).pc = pc) :
    s.fallThrough gk k =
      if pcPk pc + 1 < hdrNP (s.headOf gk ((s.group gk).strand k)) then
        s.modGroup gk fun g => g.withStrand k fun st => { st with pc := pcOf (pcSlot pc) (pcBlk pc) (pcPk pc + 1) }
      else if pcBlk pc < 31 then s.enterBlock gk k (pcSlot pc) (pcBlk pc + 1) none
      else s.takeTrap gk k { kind := .segment, pc := pc } := by
  subst h
  rfl

theorem after_at (s : State) (st : Strand) (pc : Word) (h : st.pc = pc) :
    s.after st =
      if pcPk pc + 1 < hdrNP (s.headOf s.cur.group st) then
        some { st with pc := pcOf (pcSlot pc) (pcBlk pc) (pcPk pc + 1) }
      else if pcBlk pc < 31 then
        some (Strand.enter (s.limitsOf s.cur.group) none st.rstack.length { st with pc := pcOf (pcSlot pc) (pcBlk pc + 1) 0, block := [] })
      else none := by
  subst h
  rfl

/-- The moving strand falls through to the next packet of its slot. -/
theorem fallMe_some {s : State} {st : Strand} (h : s.after (s.me.strand s.cur.strand) = some st) :
    Moves s s.fallMe s.cur.moved (s.me.setStrand s.cur.strand st) s.myLatches := by
  rw [after_at s _ _ rfl] at h
  rw [State.fallMe, fallThrough_at s _ _ (s.me.strand s.cur.strand).pc rfl, show s.group s.cur.group = s.me from rfl]
  by_cases hp : pcPk (s.me.strand s.cur.strand).pc + 1 <
      hdrNP (s.headOf s.cur.group (s.me.strand s.cur.strand))
  · rw [if_pos hp] at h
    rw [if_pos hp]
    cases h
    exact (Moves.refl s).modMe _
  · rw [if_neg hp] at h
    rw [if_neg hp]
    by_cases hb : pcBlk (s.me.strand s.cur.strand).pc < 31
    · rw [if_pos hb] at h
      rw [if_pos hb]
      cases h
      exact (Moves.refl s).enterAt rfl _ _ _
    · rw [if_neg hb] at h
      cases h

/-- Past block 31 the moving strand finds SEGMENT. -/
theorem fallMe_none {s : State} (h : s.after (s.me.strand s.cur.strand) = none) :
    s.fallMe = s.takeTrap s.cur.group s.cur.strand { kind := .segment, pc := (s.me.strand s.cur.strand).pc } := by
  rw [after_at s _ _ rfl] at h
  rw [State.fallMe, fallThrough_at s _ _ (s.me.strand s.cur.strand).pc rfl, show s.group s.cur.group = s.me from rfl]
  by_cases hp : pcPk (s.me.strand s.cur.strand).pc + 1 <
      hdrNP (s.headOf s.cur.group (s.me.strand s.cur.strand))
  · rw [if_pos hp] at h
    cases h
  · rw [if_neg hp] at h ⊢
    by_cases hb : pcBlk (s.me.strand s.cur.strand).pc < 31
    · rw [if_pos hb] at h
      cases h
    · rw [if_neg hb]

/-- What stops a branch, by where it goes and by its limit (R46, R166). -/
theorem branchTrap_eq (s : State) (taken : Bool) (disp : BitVec 16) :
    branchTrap s taken disp =
      if ¬ (0 ≤ (pcBlk s.str.pc : Int) + disp.toInt ∧ (pcBlk s.str.pc : Int) + disp.toInt < 32) then some .segment
      else if taken = true ∧ disp.toInt ≤ 0 ∧ s.backEdgeOk s.cur.group s.str = false then some .limit else none := by
  by_cases h : 0 ≤ (pcBlk s.str.pc : Int) + disp.toInt ∧ (pcBlk s.str.pc : Int) + disp.toInt < 32
  · simp only [branchTrap, branchTarget_some h, backward_iff, h, not_true, if_false, and_self]
    by_cases hd : disp.toInt ≤ 0 <;> cases hb : s.backEdgeOk s.cur.group s.str <;> cases taken <;> simp [hd]
  · simp only [branchTrap, branchTarget_none h, h, not_false_iff, if_true]

/-- A taken branch that nothing stops (R159, R162, R166): the group may have moved before. -/
theorem branchGo_jumps {s u : State} {g : Group} (h : Moves s u s.cur.moved g s.myLatches) (hg : g.place = s.me.place) (hs : u.str = s.str)
    {disp : BitVec 16} (hb : 0 ≤ (pcBlk s.str.pc : Int) + disp.toInt ∧ (pcBlk s.str.pc : Int) + disp.toInt < 32) :
    Jumps s (.next (branchGo u disp))
      (if disp.toInt ≤ 0 then g.withStrand s.cur.strand (·.tripped (s.limOf s.cur.group s.str)) else g)
      (pcSlot s.str.pc) ((pcBlk s.str.pc : Int) + disp.toInt).toNat 0
      (if disp.toInt ≤ 0 then some (s.limOf s.cur.group s.str) else none) := by
  unfold branchGo
  simp only [hs, branchTarget_some hb, Option.getD_some, backward_iff, decide_eq_true_eq]
  by_cases hd : disp.toInt ≤ 0
  · simp only [hd, if_true]
    have h1 := h.modStr fun st => st.tripped (s.limOf s.cur.group s.str)
    refine ⟨_, h1, ?_⟩
    have e2 : u.limOf s.cur.group s.str = s.limOf s.cur.group s.str := h.limOf hg _ _
    have e1 : u.countBackEdge = u.modStr fun st => st.tripped (s.limOf s.cur.group s.str) := by
      unfold State.countBackEdge
      rw [h.cur_group, hs, e2]
      rfl
    rw [e1]
    simp only [State.enterBlock, h.cur_group, h.cur_strand, e2]
  · simp only [hd, if_false]
    refine ⟨u, h, ?_⟩
    simp only [State.enterBlock, h.cur_group, h.cur_strand]

/-- A BRANCH WORD (R159): its trap where the branch is stopped, its jump, or its fall. -/
theorem branches_of {i : Instr} {s : State} (h : Ready i s) {disp : BitVec 16} {taken : State → Bool} (eff : Group → Group)
    (heff : ∀ g, (eff g).place = g.place) (pre : State → State)
    (hpre : ∀ u, Moves s u s.cur.moved s.me s.myLatches → Moves s (pre u) s.cur.moved (eff s.me) s.myLatches ∧ (pre u).str = s.str)
    (ht : ∀ u, Moves s u s.cur.moved s.me s.myLatches → taken u = taken s) :
    Branches s (brWord i (fun s => branchTrap s (taken s) disp)
      (fun s => if taken s then branchGo (pre s) disp else (pre s).fallMe.moved) s) (eff s.me) (taken s = true) disp := by
  have h0 := (Moves.refl s).chargeMe eG1
  have h1 := (hpre _ h0).1
  have hs1 := (hpre _ h0).2
  have hp : (eff s.me).place = s.me.place := heff _
  refine ⟨fun hn hb => ?_, fun hb => ?_, fun hy hb hd => ?_, fun hy hb hd hk => ?_, fun hy hb hd hk => ?_⟩
  · have hf : taken s = false := by simpa using hn
    rw [brWord_go h (by simp [hf, branchTrap_eq, hb])]
    simp only [ht _ h0, hf]
    exact ⟨_, h1, rfl⟩
  · rw [brWord_trap h (k := .segment) (by simp [branchTrap_eq, hb])]
  · have hd' : ¬ disp.toInt ≤ 0 := by omega
    rw [brWord_go h (by simp [branchTrap_eq, hb, hd'])]
    simp only [ht _ h0, hy, if_true]
    have := branchGo_jumps h1 hp hs1 hb
    simpa only [hd', if_false] using this
  · rw [brWord_trap h (k := .limit) (by simp [hy, branchTrap_eq, hb, hd, hk])]
  · rw [brWord_go h (by simp [branchTrap_eq, hb, hk])]
    simp only [ht _ h0, hy, if_true]
    have := branchGo_jumps h1 hp hs1 hb
    simpa only [hd, if_true] using this

end Sys2Proof.Machine
end

