-- ==== Sys2Proof/Laws/Memory.lean ====
section
/-! SUPPORT. What each shared operation does to memory: every write keeps the canonical form and leaves other addresses alone, and the
accounting, the monitor and the scratchpad leave memory alone. -/

namespace Sys2Proof

/-! ### Tables -/

/-- A fold whose step keeps a property keeps it. -/
theorem foldl_keeps {α β : Type} (P : α → Prop) (f : α → β → α) (hf : ∀ a b, P a → P (f a b)) (l : List β) (a : α) (h : P a) :
    P (l.foldl f a) := by
  induction l generalizing a with
  | nil => exact h
  | cons b t ih => exact ih (f a b) (hf a b h)

theorem Tab.above_fresh {V : Type} (t : Tab V) : ∀ e ∈ t, e.1 < Tab.fresh t := by
  induction t with
  | nil => simp
  | cons e t ih =>
    obtain ⟨a, v⟩ := e
    intro e he
    rcases List.mem_cons.1 he with rfl | he
    · simp only [Tab.fresh]; omega
    · have := ih e he; simp only [Tab.fresh]; omega

theorem Tab.get_of_not_mem {V : Type} (d : V) (k : Nat) (t : Tab V) (h : ∀ e ∈ t, e.1 ≠ k) : Tab.get d k t = d := by
  induction t with
  | nil => rfl
  | cons e t ih =>
    obtain ⟨a, v⟩ := e
    have := h (a, v) (by simp)
    simp only [Tab.get, if_neg this]
    exact ih fun e he => h e (by simp [he])

/-- Nothing stands at a fresh key. -/
@[simp] theorem Tab.get_fresh {V : Type} (d : V) (t : Tab V) : Tab.get d (Tab.fresh t) t = d :=
  Tab.get_of_not_mem d _ t fun e he => Nat.ne_of_lt (Tab.above_fresh t e he)

theorem Tab.above_filter {V : Type} {b : Nat} {t : Tab V} (p : Nat × V → Bool) (h : Tab.above b t) : Tab.above b (t.filter p) := by
  induction t with
  | nil => exact h
  | cons e t ih =>
    obtain ⟨a, v⟩ := e
    simp only [Tab.above, Bool.and_eq_true] at h
    by_cases hp : p (a, v) <;> simp [List.filter, hp, Tab.above, ih h.2] <;> simpa using h.1

/-- Dropping entries keeps the canonical form. -/
theorem Tab.wf_filter {V : Type} [DecidableEq V] {d : V} {t : Tab V} (p : Nat × V → Bool) (h : Tab.wf d t) :
    Tab.wf d (t.filter p) := by
  induction t with
  | nil => exact h
  | cons e t ih =>
    obtain ⟨a, v⟩ := e
    simp only [Tab.wf, Bool.and_eq_true] at h
    by_cases hp : p (a, v)
    · simp only [List.filter, hp, Tab.wf, Bool.and_eq_true]
      exact ⟨⟨h.1.1, Tab.above_filter p h.1.2⟩, ih h.2⟩
    · simpa [List.filter, hp] using ih h.2

namespace Machine

theorem Tab.wf_writeList {t : Tab Byte} (h : Tab.wf 0 t) (a : Nat) (l : List Byte) : Tab.wf 0 (Tab.writeList t a l) := by
  induction l generalizing t a with
  | nil => exact h
  | cons b l ih => exact ih (Tab.wf_set h) (a + 1)

theorem Tab.wf_writeLe {t : Tab Byte} (h : Tab.wf 0 t) (a n v : Nat) : Tab.wf 0 (Tab.writeLe t a n v) := by
  induction n generalizing t a v with
  | zero => exact h
  | succ n ih => exact ih (Tab.wf_set h) (a + 1) (v / 256)

/-- A write of bytes leaves the keys outside them alone. -/
theorem Tab.get_writeList_ne (t : Tab Byte) (a j : Nat) (l : List Byte) (h : j < a ∨ a + l.length ≤ j) :
    Tab.get 0 j (Tab.writeList t a l) = Tab.get 0 j t := by
  induction l generalizing t a with
  | nil => rfl
  | cons b l ih =>
    simp only [List.length_cons] at h
    show Tab.get 0 j (Tab.writeList (Tab.set 0 a b t) (a + 1) l) = _
    rw [ih _ _ (by omega), Tab.get_set_ne 0 (by omega)]

/-- A write of bytes gives each key its byte. -/
theorem Tab.get_writeList (t : Tab Byte) (a i : Nat) (l : List Byte) (h : i < l.length) :
    Tab.get 0 (a + i) (Tab.writeList t a l) = l[i] := by
  induction l generalizing t a i with
  | nil => simp at h
  | cons b l ih =>
    show Tab.get 0 (a + i) (Tab.writeList (Tab.set 0 a b t) (a + 1) l) = _
    cases i with
    | zero => rw [Tab.get_writeList_ne _ _ _ _ (by omega)]; simp
    | succ i =>
      have := ih (Tab.set 0 a b t) (a + 1) i (by simpa using h)
      rw [show a + (i + 1) = a + 1 + i by omega, this]; simp

/-! ### Memory -/

theorem State.setMemByte_wf (s : State) (pa : Nat) (b : Byte) (h : Memory.wf s.mem) : Memory.wf (s.setMemByte pa b).mem :=
  Tab.wf_set h

theorem State.writeMem_wf (s : State) (pa : Nat) (l : List Byte) (h : Memory.wf s.mem) : Memory.wf (s.writeMem pa l).mem :=
  Tab.wf_writeList h pa l

theorem State.memByte_writeMem_ne (s : State) (pa j : Nat) (l : List Byte) (h : j < pa ∨ pa + l.length ≤ j) :
    (s.writeMem pa l).memByte j = s.memByte j := Tab.get_writeList_ne s.mem pa j l h

theorem State.memByte_writeMem (s : State) (pa i : Nat) (l : List Byte) (h : i < l.length) :
    (s.writeMem pa l).memByte (pa + i) = l[i] := Tab.get_writeList s.mem pa i l h

/-! ### What leaves memory alone -/

@[simp] theorem State.charge_mem (s : State) (cl q a : Nat) : (s.charge cl q a).mem = s.mem := by
  unfold State.charge
  cases s.levelSetter cl with
  | none => rfl
  | some x => by_cases h : (x == q) = true <;> simp [h]

@[simp] theorem State.chargeMe_mem (s : State) (a : Nat) : (s.chargeMe a).mem = s.mem := State.charge_mem _ _ _ _

@[simp] theorem State.chargeOverhead_mem (s : State) (d a : Nat) : (s.chargeOverhead d a).mem = s.mem := rfl

@[simp] theorem State.addScaled_mem (s : State) (cl q a : Nat) : (s.addScaled cl q a).mem = s.mem := rfl

@[simp] theorem State.chargeTag_mem (s : State) (d q a : Nat) : (s.chargeTag d q a).mem = s.mem := by
  unfold State.chargeTag
  split <;> split <;> rfl

@[simp] theorem State.endOp_mem (s : State) (k : Nat) : (s.endOp k).mem = s.mem := by
  unfold State.endOp
  extract_lets
  split <;> rfl

@[simp] theorem State.decideWait_mem (s : State) (e : MonEntry) (c v : Nat) : (s.decideWait e c v).mem = s.mem := by
  unfold State.decideWait
  split <;> rfl

@[simp] theorem State.chargeEval_mem (s : State) (key : Nat) (e : MonEntry) : (s.chargeEval key e).mem = s.mem := by
  unfold State.chargeEval
  split <;> simp

@[simp] theorem State.evalWords_mem (s : State) (key : Nat) (ws : List Nat) : (s.evalWords key ws).mem = s.mem := by
  unfold State.evalWords
  have fold : ∀ (f : State → Nat × MonEntry → State), (∀ x e, (f x e).mem = x.mem) → ∀ l : Tab MonEntry, (l.foldl f s).mem = s.mem :=
    fun f hf l => foldl_keeps (fun x : State => x.mem = s.mem) f (fun x e h => (hf x e).trans h) l s rfl
  dsimp only
  split
  · rw [State.modSlice_mem]
    refine fold _ (fun x e => ?_) _
    split <;> simp
  · refine fold _ (fun x e => ?_) _
    split <;> simp

@[simp] theorem State.evalMon_mem (s : State) (key pa n : Nat) : (s.evalMon key pa n).mem = s.mem := State.evalWords_mem _ _ _

@[simp] theorem State.dropCopy_mem (s : State) (d l : Nat) : (s.dropCopy d l).mem = s.mem := by
  unfold State.dropCopy
  by_cases h : (d == homeDie (l * 256)) = true <;> simp [h]

@[simp] theorem State.logUndo_mem (s : State) (l q : Nat) : (s.logUndo l q).mem = s.mem := by
  unfold State.logUndo
  dsimp only
  split
  · rfl
  · split
    · split <;> rfl
    · rfl

@[simp] theorem State.scrPut_mem (s : State) (team a : Nat) (bs : List Byte) (x y : Bool) : (s.scrPut team a bs x y).mem = s.mem := by
  unfold State.scrPut
  dsimp only
  split <;> split <;> rfl

@[simp] theorem State.decideScratch_mem (s : State) (gk c v : Nat) : (s.decideScratch gk c v).mem = s.mem := rfl

@[simp] theorem State.evalScr_mem (s : State) (team a n : Nat) : (s.evalScr team a n).mem = s.mem := by
  unfold State.evalScr
  dsimp only
  refine foldl_keeps (fun x : State => x.mem = s.mem) _ ?_ _ s rfl
  intro x e hx
  obtain ⟨k, e⟩ := e
  dsimp only
  repeat' split
  all_goals simp only [State.decideScratch_mem, State.modCluster_mem, State.charge_mem, hx]

@[simp] theorem State.scrWrite_mem (s : State) (team a : Nat) (bs : List Byte) (x y : Bool) : (s.scrWrite team a bs x y).mem = s.mem := by
  simp [State.scrWrite]

@[simp] theorem State.barrierUpdate_mem (s : State) (team a da db : Nat) : (s.barrierUpdate team a da db).mem = s.mem := by
  simp [State.barrierUpdate]

/-! ### Writes at the home slice keep the canonical form -/

theorem State.flushLine_wf (s : State) (key l : Nat) (h : Memory.wf s.mem) : Memory.wf (s.flushLine key l).mem := by
  unfold State.flushLine
  dsimp only
  split
  · simp only [State.setSlice_mem, State.chargeTag_mem]
    exact foldl_keeps (fun m => Memory.wf m = true) _ (fun _ _ hm => Tab.wf_set hm) _ _ h
  · exact h

theorem State.allocLine_wf (s : State) (key l q : Nat) (h : Memory.wf s.mem) : Memory.wf (s.allocLine key l q).mem := by
  unfold State.allocLine
  dsimp only
  split
  · exact h
  · split
    · exact h
    · split
      · exact h
      · exact State.flushLine_wf s key _ h

theorem State.pastSlice_wf (s : State) (l : Nat) (mask : BitVec 256) (data : Tab Byte) (marks : BitVec 4) (owner : Nat)
    (h : Memory.wf s.mem) : Memory.wf (s.pastSlice l mask data marks owner).mem := by
  unfold State.pastSlice
  rw [State.chargeTag_mem]
  exact foldl_keeps (fun m => Memory.wf m = true) _ (fun _ _ hm => Tab.wf_set hm) _ _ h

theorem State.stampLine_wf (s : State) (l : Nat) (mask : BitVec 256) (data : Tab Byte) (poison : BitVec 4) (owner : Nat)
    (h : Memory.wf s.mem) : Memory.wf (s.stampLine l mask data poison owner).mem := by
  have h1 : Memory.wf ((s.logUndo l owner).allocLine (homeSlice (l * 256)) l owner).mem :=
    State.allocLine_wf _ _ _ _ (by simpa using h)
  unfold State.stampLine
  dsimp only
  rw [State.evalWords_mem]
  split
  · exact h1
  · exact State.pastSlice_wf _ _ _ _ _ _ h1

theorem State.homeWrite_wf (s : State) (l : Nat) (mask : BitVec 256) (data : Tab Byte) (poison : BitVec 4) (owner : Nat)
    (h : Memory.wf s.mem) : Memory.wf (s.homeWrite l mask data poison owner).mem := by
  unfold State.homeWrite
  dsimp only
  rw [State.modSlice_mem]
  exact foldl_keeps (fun x : State => Memory.wf x.mem = true) _ (fun x d hx => by rw [State.dropCopy_mem]; exact hx) _ _
    (State.stampLine_wf s l mask data poison owner h)

theorem State.globalWrite_wf (s : State) (pa : Nat) (bs : List Byte) (owner : Nat) (p : Bool) (h : Memory.wf s.mem) :
    Memory.wf (s.globalWrite pa bs owner p).mem := by
  unfold State.globalWrite
  dsimp only
  exact foldl_keeps (fun x : State => Memory.wf x.mem = true) _ (fun x i hx => State.homeWrite_wf x _ _ _ _ _ hx) _ _ h

theorem State.vaultPut_wf (s : State) (pa : Nat) (bs : List Byte) (mark : Bool) (h : Memory.wf s.mem) :
    Memory.wf (s.vaultPut pa bs mark).mem := State.writeMem_wf s pa bs h

theorem State.vaultWrite_wf (s : State) (pa : Nat) (bs : List Byte) (mark : Bool) (h : Memory.wf s.mem) :
    Memory.wf (s.vaultWrite pa bs mark).mem := by
  unfold State.vaultWrite
  rw [State.evalMon_mem]
  exact State.vaultPut_wf s pa bs mark h

theorem State.sysWrite_wf (s : State) (pa : Nat) (bs : List Byte) (owner : Nat) (h : Memory.wf s.mem) :
    Memory.wf (s.sysWrite pa bs owner).mem := by
  unfold State.sysWrite
  dsimp only
  split
  · exact h
  · exact State.writeMem_wf _ pa bs (foldl_keeps (fun x : State => Memory.wf x.mem = true) _
      (fun x i hx => State.flushLine_wf x _ _ hx) _ _ (State.globalWrite_wf s pa bs owner false h))

/-- The machine right after reset has memory in its canonical form. -/
theorem State.reset_mem_wf : Memory.wf State.reset.mem := by decide

end Machine
end Sys2Proof
end

