-- ==== Sys2Proof/Laws/Issue.lean ====
section
/-! SUPPORT. What the operations that a word uses as it starts an operation leave alone: energy, translations marked as used, a new
operation, new requests, lines of L1 marked as used. -/

namespace Sys2Proof.Machine

section
variable {s t u : State}

theorem Quiet.refl (s : State) : Quiet s s := ⟨rfl, fun _ _ => rfl, rfl⟩

theorem Quiet.cur (h : Quiet s t) : t.cur = s.cur := by rw [h.rest]
theorem Quiet.myCluster (h : Quiet s t) : t.myCluster = s.myCluster := by rw [State.myCluster, h.cur, State.myCluster]
theorem Quiet.mem (h : Quiet s t) : t.mem = s.mem := by rw [h.rest]
theorem Quiet.slices (h : Quiet s t) : t.slices = s.slices := by rw [h.rest]
theorem Quiet.teams (h : Quiet s t) : t.teams = s.teams := by rw [h.rest]

theorem Quiet.sameBytes (h : Quiet s t) : SameBytes s t where
  mem := h.mem
  home pa := by unfold State.homeByte State.slice State.memByte; rw [h.slices, h.mem]
  scratch x := by unfold State.team; rw [h.teams]

/-- Groups, operations and requests changed. -/
theorem Quiet.put (h : Quiet s t) (g : Tab Group) (o : Tab Op) (r : Tab Req) : Quiet s { t with groups := g, ops := o, reqs := r } where
  rest := by rw [h.rest]
  away := h.away
  mine := h.mine

/-- L1, the translations and the meters of the moving group's cluster changed. -/
theorem Quiet.modCluster (h : Quiet s t) (f : Cluster → Cluster)
    (hf : ∀ c, f c = { c with l1 := (f c).l1, tlb := (f c).tlb, meters := (f c).meters,
                              power := { c.power with window := (f c).power.window } }) :
    Quiet s (t.modCluster s.myCluster f) where
  rest := by rw [State.modCluster, State.setCluster, h.rest]
  away c hc := by rw [State.cluster_modCluster_ne _ hc, h.away c hc]
  mine := by
    rw [State.cluster_modCluster, hf, h.mine]

theorem Quiet.modGroup (h : Quiet s t) (k : Nat) (f : Group → Group) : Quiet s (t.modGroup k f) := h.put _ _ _
theorem Quiet.modMe (h : Quiet s t) (f : Group → Group) : Quiet s (t.modMe f) := h.put _ _ _
theorem Quiet.setOp (h : Quiet s t) (k : Nat) (o : Op) : Quiet s (t.setOp k o) := h.put _ _ _
theorem Quiet.newReq (h : Quiet s t) (r : Req) : Quiet s (t.newReq r).1 := h.put _ _ _
theorem Quiet.send (h : Quiet s t) (kind : ReqKind) (c op q : Nat) (l : List Leg) : Quiet s (t.send kind c op q l).1 := h.newReq _
theorem Quiet.placeOp (h : Quiet s t) (k : Nat) (o : Op) : Quiet s (t.placeOp k o) := h.put _ _ _
theorem Quiet.newOp (h : Quiet s t) (o : Op) : Quiet s (t.newOp o).1 := h.placeOp _ _

theorem Quiet.addMeter (h : Quiet s t) (q e : Nat) : Quiet s (t.addMeter s.myCluster q e) := by
  unfold State.addMeter
  exact h.modCluster _ fun _ => rfl
theorem Quiet.charge (h : Quiet s t) (q a : Nat) : Quiet s (t.charge s.myCluster q a) := by
  unfold State.charge
  split
  · split
    · exact h.addMeter _ _
    · exact (h.addMeter _ _).addMeter _ _
  · exact h.addMeter _ _
theorem Quiet.chargeMe (h : Quiet s t) (a : Nat) : Quiet s (t.chargeMe a) := by
  rw [State.chargeMe, h.myCluster]
  exact h.charge _ _
theorem Quiet.tlbUse (h : Quiet s t) (q : Nat) (l : List Nat) : Quiet s (t.tlbUse s.myCluster q l) := h.modCluster _ fun _ => rfl
theorem Quiet.setL1 (h : Quiet s t) (l : Nat) (v : L1Line) : Quiet s (t.setL1 s.myCluster l v) := h.modCluster _ fun _ => rfl

/-! ### L1 -/

theorem SameL1.refl (s : State) : SameL1 s s := fun _ _ _ _ => rfl
theorem SameL1.trans (h : SameL1 s t) (k : SameL1 t u) : SameL1 s u := fun c pa n hn => (k c pa n hn).trans (h c pa n hn)

theorem SameL1.of_l1 (h : ∀ c, (t.cluster c).l1 = (s.cluster c).l1) : SameL1 s t := fun c pa n _ => by
  unfold State.l1Read State.l1Line
  rw [h]

theorem SameL1.modCluster (k : Nat) (f : Cluster → Cluster) (hf : ∀ c, (f c).l1 = c.l1) : SameL1 s (s.modCluster k f) := .of_l1 fun c => by
  by_cases hc : c = k
  · rw [hc, State.cluster_modCluster, hf]
  · rw [State.cluster_modCluster_ne _ hc]

theorem SameL1.addMeter (c q e : Nat) : SameL1 s (s.addMeter c q e) := by
  unfold State.addMeter
  exact .modCluster _ _ fun _ => rfl
theorem SameL1.charge (c q a : Nat) : SameL1 s (s.charge c q a) := by
  unfold State.charge
  split
  · split
    · exact .addMeter _ _ _
    · exact (SameL1.addMeter _ _ _).trans (.addMeter _ _ _)
  · exact .addMeter _ _ _
theorem SameL1.chargeMe (a : Nat) : SameL1 s (s.chargeMe a) := .charge _ _ _
theorem SameL1.tlbUse (c q : Nat) (l : List Nat) : SameL1 s (s.tlbUse c q l) := .modCluster _ _ fun _ => rfl
theorem SameL1.put (g : Tab Group) (o : Tab Op) (r : Tab Req) : SameL1 s { s with groups := g, ops := o, reqs := r } := .of_l1 fun _ => rfl
theorem SameL1.placeOp (k : Nat) (o : Op) : SameL1 s (s.placeOp k o) := .of_l1 fun _ => rfl
theorem SameL1.use (c l : Nat) (n : Nat) : SameL1 s (s.setL1 c l { s.l1Line c l with use := n }) := fun d pa m _ => by
  unfold State.l1Read
  by_cases h : d = c ∧ pa / 256 = l
  · obtain ⟨rfl, rfl⟩ := h
    have : (s.setL1 d (pa / 256) { s.l1Line d (pa / 256) with use := n }).l1Line d (pa / 256) = { s.l1Line d (pa / 256) with use := n } := by
      rw [State.setL1, State.l1Line, State.cluster_modCluster]; exact Tab.get_set_same _ _ _ _
    rw [this]
    rfl
  · have : (s.setL1 c l { s.l1Line c l with use := n }).l1Line d (pa / 256) = s.l1Line d (pa / 256) := by
      rw [State.setL1, State.l1Line]
      by_cases hd : d = c
      · subst hd
        rw [State.cluster_modCluster]
        exact Tab.get_set_ne _ (fun e => h ⟨rfl, e⟩) _ _
      · rw [State.cluster_modCluster_ne _ hd, State.l1Line]
    rw [this]

/-! ### A new operation -/

theorem State.cur_placeOp (s : State) (k : Nat) (o : Op) : (s.placeOp k o).cur = s.cur := rfl

/-- A new operation, started. -/
theorem Starts.placeOp {k : Nat} (h : s.op k = {}) (o : Op) : Starts s (s.placeOp k o) k o.path s.me where
  fresh := h
  made := by
    have : (s.placeOp k o).op k = _ := Tab.get_set_same _ _ _ _
    rw [this]
  older j hj := Tab.get_set_ne _ hj _ _
  me := Tab.get_set_same _ _ _ _
  others j hj := by
    have : (s.placeOp k o).group j = s.group j := Tab.get_set_ne _ hj _ _
    rw [this]
  cur := rfl

theorem State.op_fresh (s : State) : s.op s.ops.fresh = {} := Tab.get_fresh _ _

/-- The operation changed in what is its own, nothing else of groups and operations changed. -/
theorem Starts.next {k path : Nat} {g : Group} (h : Starts s t k path g) (hg : u.groups = t.groups) (hc : u.cur = t.cur)
    (ho : ∀ j, j ≠ k → u.op j = t.op j)
    (hk : u.op k = { u.op k with
      live := (t.op k).live, path := (t.op k).path, group := (t.op k).group, uid := (t.op k).uid, cluster := (t.op k).cluster
      team := (t.op k).team, qidx := (t.op k).qidx, pc := (t.op k).pc, word := (t.op k).word }) : Starts s u k path g where
  fresh := h.fresh
  made := by rw [hk, h.made]
  older j hj := (ho j hj).trans (h.older j hj)
  me := by
    rw [State.me, hc]
    have : u.group = t.group := by funext x; rw [State.group, hg, State.group]
    rw [this]
    exact h.me
  others j hj := by
    have : u.group = t.group := by funext x; rw [State.group, hg, State.group]
    rw [this]
    exact h.others j hj
  cur := hc.trans h.cur

/-! ### Clusters alone -/

theorem State.charge_rest (s : State) (c q a : Nat) : s.charge c q a = { s with clusters := (s.charge c q a).clusters } := by
  unfold State.charge
  split
  · split <;> rfl
  · rfl
theorem State.chargeMe_rest (s : State) (a : Nat) : s.chargeMe a = { s with clusters := (s.chargeMe a).clusters } := s.charge_rest _ _ _
theorem State.setL1_rest (s : State) (c l : Nat) (v : L1Line) : s.setL1 c l v = { s with clusters := (s.setL1 c l v).clusters } := rfl

/-- Lines of L1 marked as used, one after the other. -/
def State.useLines (s : State) (cl : Nat) (l : List Nat) : State := l.foldl (fun s l => s.setL1 cl l { s.l1Line cl l with use := s.free }) s

theorem State.useLines_rest (s : State) (cl : Nat) (l : List Nat) : s.useLines cl l = { s with clusters := (s.useLines cl l).clusters } := by
  unfold State.useLines
  induction l generalizing s with
  | nil => rfl
  | cons a l ih => rw [List.foldl_cons, ih]; rfl

theorem SameL1.useLines (c : Nat) (l : List Nat) : SameL1 s (s.useLines c l) := by
  unfold State.useLines
  induction l generalizing s with
  | nil => exact .refl s
  | cons a l ih => exact (SameL1.use _ _ _).trans ih

theorem Quiet.useLines (h : Quiet s t) (l : List Nat) : Quiet s (t.useLines s.myCluster l) := by
  unfold State.useLines
  induction l generalizing t with
  | nil => exact h
  | cons a l ih => exact ih (h.setL1 _ _)

/-! ### Requests for sectors -/

theorem State.askSectors_cons (a : Nat) (l : List Nat) (s : State) (k : Nat) :
    let r := s.send (.fill s.myCluster a none) s.myCluster k s.me.place.qidx (toSlice s.myCluster (a / 4))
    s.askSectors k (a :: l) = (r.1.setOp k { s.op k with reqs := (s.op k).reqs ++ [r.2] }).askSectors k l := rfl

theorem State.askSectors_put (l : List Nat) (s : State) (k : Nat) :
    s.askSectors k l = { s with ops := (s.askSectors k l).ops, reqs := (s.askSectors k l).reqs } := by
  induction l generalizing s with
  | nil => rfl
  | cons a l ih => rw [State.askSectors_cons, ih]; rfl

theorem State.askSectors_op (l : List Nat) (s : State) (k : Nat) :
    (s.askSectors k l).op k = { s.op k with reqs := ((s.askSectors k l).op k).reqs } ∧ ∀ j, j ≠ k → (s.askSectors k l).op j = s.op j := by
  induction l generalizing s with
  | nil => exact ⟨rfl, fun _ _ => rfl⟩
  | cons a l ih =>
    rw [State.askSectors_cons]
    constructor
    · rw [(ih _).1, State.op_setOp]
    · intro j hj
      rw [(ih _).2 j hj, State.op_setOp_ne _ hj]; rfl

theorem Op.take_rest (o : Op) (a b : Nat) (p : Bool) : o.take a b p = { o with vals := (o.take a b p).vals, poisoned := (o.take a b p).poisoned, blank := (o.take a b p).blank } := rfl

/-- Lanes of an operation taken from a list. -/
theorem Op.foldl_rest {α : Type} (f : Op → α → Op) (hf : ∀ o x, f o x = { o with vals := (f o x).vals, poisoned := (f o x).poisoned, blank := (f o x).blank })
    (l : List α) (o : Op) :
    l.foldl f o = { o with vals := (l.foldl f o).vals, poisoned := (l.foldl f o).poisoned, blank := (l.foldl f o).blank } := by
  induction l generalizing o with
  | nil => rfl
  | cons a l ih => rw [List.foldl_cons, ih, hf]

end

end Sys2Proof.Machine
end

