-- ==== Sys2Proof/Laws/PerInstr.lean ====
section
/-! SUPPORT. One lemma for each instruction: the word that the encoder gives decodes to the instruction, with every operand and the chain
bit (03 R35, R36, Tables 3-2, 3-6, 3-7). An event has no word. -/

namespace Sys2Proof.Laws.Encoding

/-- Every word that the encoder gives for the instruction reads back as it, and its chain bit as the one given. -/
def Statement (i : Instr) : Prop := ∀ (c : Bool) (w : Word), encode c i = some w → decodeFields w = .ok i ∧ chainBit w = c

/-- An instruction reads back when every number whose low 31 bits are its bits does. -/
theorem of_bits {i : Instr} {m : Nat} (hm : encodeBits i = some m) (hlt : m < 2 ^ 31)
    (hdec : ∀ n, n % 2 ^ 31 = m → (i = .nop → n = m) →
      (if n / 2 ^ 24 % 128 < 64 then decodeLow (n / 2 ^ 24 % 128) n else decodeHigh (n / 2 ^ 24 % 128) n) = .ok i) : Statement i := by
  intro c w h
  unfold encode at h
  by_cases hc : c = true ∧ i = .nop
  · rw [if_pos hc] at h; cases h
  · rw [if_neg hc, hm] at h
    simp only [Option.map_some, Option.some.injEq, put] at h
    have hc' : c.toNat ≤ 1 := c.toNat_le
    have hn : w.toNat = m + c.toNat * 2 ^ 31 := by
      rw [← h, BitVec.toNat_ofNat]; omega
    refine ⟨?_, ?_⟩
    · show (if w.toNat / 2 ^ 24 % 128 < 64 then _ else _) = _
      rw [hn]
      refine hdec _ (by omega) fun hi => ?_
      have : c = false := by
        cases c with
        | false => rfl
        | true => exact absurd ⟨rfl, hi⟩ hc
      subst this; simp
    · unfold chainBit
      rw [BitVec.msb_eq_decide, hn]
      cases c
      · simp only [Bool.toNat_false]; exact decide_eq_false (by omega)
      · simp only [Bool.toNat_true]; exact decide_eq_true (by omega)

theorem no_word {i : Instr} (h : encodeBits i = none) : Statement i := by
  intro c w hw
  unfold encode at hw
  by_cases hc : c = true ∧ i = .nop
  · rw [if_pos hc] at hw; cases hw
  · rw [if_neg hc, h] at hw; cases hw

theorem fld_eq {k n lo : Nat} {x : BitVec k} (h : n / 2 ^ lo % 2 ^ k = x.toNat) : fld k n lo = x :=
  BitVec.eq_of_toNat_eq ((BitVec.toNat_ofNat _ _).trans h)

theorem bit_eq {n lo : Nat} {b : Bool} (h : n / 2 ^ lo % 2 = b.toNat) : bit n lo = b := by
  unfold bit
  rw [h]
  cases b <;> rfl

theorem zero_ok {c : Bool} (i : Instr) (h : c = true) : zero c i = .ok i := if_pos h

theorem both {a b : Bool} (ha : a = true) (hb : b = true) : (a && b) = true := by rw [ha, hb]; rfl

theorem three {a b c : Bool} (ha : a = true) (hb : b = true) (hc : c = true) : (a && b && c) = true := by rw [ha, hb, hc]; rfl

theorem low {r : Except WordError Instr} {n op : Nat} (ho : n / 2 ^ 24 % 128 = op) (h : op < 64) (hr : decodeLow op n = r) :
    (if n / 2 ^ 24 % 128 < 64 then decodeLow (n / 2 ^ 24 % 128) n else decodeHigh (n / 2 ^ 24 % 128) n) = r := by
  rw [ho, if_pos h, hr]

theorem high {r : Except WordError Instr} {n op : Nat} (ho : n / 2 ^ 24 % 128 = op) (h : ¬ op < 64) (hr : decodeHigh op n = r) :
    (if n / 2 ^ 24 % 128 < 64 then decodeLow (n / 2 ^ 24 % 128) n else decodeHigh (n / 2 ^ 24 % 128) n) = r := by
  rw [ho, if_neg h, hr]


theorem shape1 (op : Nat) (hop : op < 128) (x0 : BitVec 16) :
    op * 2 ^ 24 + put x0.toNat 0 < 2 ^ 31 ∧ ∀ n, n % 2 ^ 31 = op * 2 ^ 24 + put x0.toNat 0 →
      n / 2 ^ 24 % 128 = op ∧ fld 16 n 0 = x0 ∧ (n / 2 ^ 16 % 256 == 0) = true := by
  have h0 := x0.isLt
  simp only [put]
  refine ⟨by omega, fun n hn => ⟨by omega, fld_eq (by omega), (beq_iff_eq.2 (by omega))⟩⟩

theorem shape2 (op : Nat) (hop : op < 128) (x0 : BitVec 3) (x1 : BitVec 16) :
    op * 2 ^ 24 + put x0.toNat 21 + put x1.toNat 0 < 2 ^ 31 ∧ ∀ n, n % 2 ^ 31 = op * 2 ^ 24 + put x0.toNat 21 + put x1.toNat 0 →
      n / 2 ^ 24 % 128 = op ∧ fld 3 n 21 = x0 ∧ fld 16 n 0 = x1 ∧ (n / 2 ^ 16 % 32 == 0) = true := by
  have h0 := x0.isLt
  have h1 := x1.isLt
  simp only [put]
  refine ⟨by omega, fun n hn => ⟨by omega, fld_eq (by omega), fld_eq (by omega), (beq_iff_eq.2 (by omega))⟩⟩

theorem shape3 (op : Nat) (hop : op < 128) (x0 : BitVec 3) (x1 : BitVec 5) (x2 : BitVec 16) :
    op * 2 ^ 24 + put x0.toNat 21 + put x1.toNat 16 + put x2.toNat 0 < 2 ^ 31 ∧ ∀ n, n % 2 ^ 31 = op * 2 ^ 24 + put x0.toNat 21 + put x1.toNat 16 + put x2.toNat 0 →
      n / 2 ^ 24 % 128 = op ∧ fld 3 n 21 = x0 ∧ fld 5 n 16 = x1 ∧ fld 16 n 0 = x2 := by
  have h0 := x0.isLt
  have h1 := x1.isLt
  have h2 := x2.isLt
  simp only [put]
  refine ⟨by omega, fun n hn => ⟨by omega, fld_eq (by omega), fld_eq (by omega), fld_eq (by omega)⟩⟩

theorem shape4 (op : Nat) (hop : op < 128)  :
    op * 2 ^ 24 < 2 ^ 31 ∧ ∀ n, n % 2 ^ 31 = op * 2 ^ 24 →
      n / 2 ^ 24 % 128 = op ∧ (n % 16777216 == 0) = true := by
  refine ⟨by omega, fun n hn => ⟨by omega, (beq_iff_eq.2 (by omega))⟩⟩

theorem shape5 (op : Nat) (hop : op < 128) (x0 : BitVec 7) (x1 : BitVec 16) :
    op * 2 ^ 24 + put x0.toNat 16 + put x1.toNat 0 < 2 ^ 31 ∧ ∀ n, n % 2 ^ 31 = op * 2 ^ 24 + put x0.toNat 16 + put x1.toNat 0 →
      n / 2 ^ 24 % 128 = op ∧ fld 7 n 16 = x0 ∧ fld 16 n 0 = x1 ∧ (n / 2 ^ 23 % 2 == 0) = true := by
  have h0 := x0.isLt
  have h1 := x1.isLt
  simp only [put]
  refine ⟨by omega, fun n hn => ⟨by omega, fld_eq (by omega), fld_eq (by omega), (beq_iff_eq.2 (by omega))⟩⟩

theorem shape6 (op : Nat) (hop : op < 128) (x0 : BitVec 7) (x1 : BitVec 8) (x2 : BitVec 5) :
    op * 2 ^ 24 + put x0.toNat 16 + put x1.toNat 8 + put x2.toNat 0 < 2 ^ 31 ∧ ∀ n, n % 2 ^ 31 = op * 2 ^ 24 + put x0.toNat 16 + put x1.toNat 8 + put x2.toNat 0 →
      n / 2 ^ 24 % 128 = op ∧ fld 7 n 16 = x0 ∧ fld 8 n 8 = x1 ∧ fld 5 n 0 = x2 ∧ (n / 2 ^ 5 % 8 == 0 && n / 2 ^ 23 % 2 == 0) = true := by
  have h0 := x0.isLt
  have h1 := x1.isLt
  have h2 := x2.isLt
  simp only [put]
  refine ⟨by omega, fun n hn => ⟨by omega, fld_eq (by omega), fld_eq (by omega), fld_eq (by omega), both (beq_iff_eq.2 (by omega)) (beq_iff_eq.2 (by omega))⟩⟩

theorem shape7 (op : Nat) (hop : op < 128) (x0 : BitVec 7) (x1 : BitVec 8) :
    op * 2 ^ 24 + put x0.toNat 16 + put x1.toNat 8 < 2 ^ 31 ∧ ∀ n, n % 2 ^ 31 = op * 2 ^ 24 + put x0.toNat 16 + put x1.toNat 8 →
      n / 2 ^ 24 % 128 = op ∧ fld 7 n 16 = x0 ∧ fld 8 n 8 = x1 ∧ (n % 256 == 0 && n / 2 ^ 23 % 2 == 0) = true := by
  have h0 := x0.isLt
  have h1 := x1.isLt
  simp only [put]
  refine ⟨by omega, fun n hn => ⟨by omega, fld_eq (by omega), fld_eq (by omega), both (beq_iff_eq.2 (by omega)) (beq_iff_eq.2 (by omega))⟩⟩

theorem shape8 (op : Nat) (hop : op < 128) (x0 : Bool) (x1 : BitVec 7) (x2 : BitVec 8) :
    op * 2 ^ 24 + put x0.toNat 23 + put x1.toNat 16 + put x2.toNat 8 < 2 ^ 31 ∧ ∀ n, n % 2 ^ 31 = op * 2 ^ 24 + put x0.toNat 23 + put x1.toNat 16 + put x2.toNat 8 →
      n / 2 ^ 24 % 128 = op ∧ bit n 23 = x0 ∧ fld 7 n 16 = x1 ∧ fld 8 n 8 = x2 ∧ (n % 256 == 0) = true := by
  have h0 := x0.toNat_le
  have h1 := x1.isLt
  have h2 := x2.isLt
  simp only [put]
  refine ⟨by omega, fun n hn => ⟨by omega, bit_eq (by omega), fld_eq (by omega), fld_eq (by omega), (beq_iff_eq.2 (by omega))⟩⟩

theorem shape9 (op : Nat) (hop : op < 128) (x0 : Bool) (x1 : BitVec 7) (x2 : BitVec 16) :
    op * 2 ^ 24 + put x0.toNat 23 + put x1.toNat 16 + put x2.toNat 0 < 2 ^ 31 ∧ ∀ n, n % 2 ^ 31 = op * 2 ^ 24 + put x0.toNat 23 + put x1.toNat 16 + put x2.toNat 0 →
      n / 2 ^ 24 % 128 = op ∧ bit n 23 = x0 ∧ fld 7 n 16 = x1 ∧ fld 16 n 0 = x2 := by
  have h0 := x0.toNat_le
  have h1 := x1.isLt
  have h2 := x2.isLt
  simp only [put]
  refine ⟨by omega, fun n hn => ⟨by omega, bit_eq (by omega), fld_eq (by omega), fld_eq (by omega)⟩⟩

theorem shape10 (op : Nat) (hop : op < 128) (x0 : Bool) (x1 : BitVec 7) (x2 : BitVec 8) (x3 : BitVec 8) :
    op * 2 ^ 24 + put x0.toNat 23 + put x1.toNat 16 + put x2.toNat 8 + put x3.toNat 0 < 2 ^ 31 ∧ ∀ n, n % 2 ^ 31 = op * 2 ^ 24 + put x0.toNat 23 + put x1.toNat 16 + put x2.toNat 8 + put x3.toNat 0 →
      n / 2 ^ 24 % 128 = op ∧ bit n 23 = x0 ∧ fld 7 n 16 = x1 ∧ fld 8 n 8 = x2 ∧ fld 8 n 0 = x3 := by
  have h0 := x0.toNat_le
  have h1 := x1.isLt
  have h2 := x2.isLt
  have h3 := x3.isLt
  simp only [put]
  refine ⟨by omega, fun n hn => ⟨by omega, bit_eq (by omega), fld_eq (by omega), fld_eq (by omega), fld_eq (by omega)⟩⟩

theorem shape11 (op : Nat) (hop : op < 128) (x0 : BitVec 4) (x1 : BitVec 3) (x2 : BitVec 8) (x3 : BitVec 8) :
    op * 2 ^ 24 + put x0.toNat 19 + put x1.toNat 16 + put x2.toNat 8 + put x3.toNat 0 < 2 ^ 31 ∧ ∀ n, n % 2 ^ 31 = op * 2 ^ 24 + put x0.toNat 19 + put x1.toNat 16 + put x2.toNat 8 + put x3.toNat 0 →
      n / 2 ^ 24 % 128 = op ∧ fld 4 n 19 = x0 ∧ fld 3 n 16 = x1 ∧ fld 8 n 8 = x2 ∧ fld 8 n 0 = x3 ∧ (n / 2 ^ 23 % 2 == 0) = true := by
  have h0 := x0.isLt
  have h1 := x1.isLt
  have h2 := x2.isLt
  have h3 := x3.isLt
  simp only [put]
  refine ⟨by omega, fun n hn => ⟨by omega, fld_eq (by omega), fld_eq (by omega), fld_eq (by omega), fld_eq (by omega), (beq_iff_eq.2 (by omega))⟩⟩

theorem shape12 (op : Nat) (hop : op < 128) (x0 : BitVec 4) (x1 : BitVec 3) (x2 : BitVec 3) (x3 : BitVec 3) :
    op * 2 ^ 24 + put x0.toNat 19 + put x1.toNat 16 + put x2.toNat 8 + put x3.toNat 0 < 2 ^ 31 ∧ ∀ n, n % 2 ^ 31 = op * 2 ^ 24 + put x0.toNat 19 + put x1.toNat 16 + put x2.toNat 8 + put x3.toNat 0 →
      n / 2 ^ 24 % 128 = op ∧ fld 4 n 19 = x0 ∧ fld 3 n 16 = x1 ∧ fld 3 n 8 = x2 ∧ fld 3 n 0 = x3 ∧ (n / 2 ^ 3 % 32 == 0 && n / 2 ^ 11 % 32 == 0 && n / 2 ^ 23 % 2 == 0) = true := by
  have h0 := x0.isLt
  have h1 := x1.isLt
  have h2 := x2.isLt
  have h3 := x3.isLt
  simp only [put]
  refine ⟨by omega, fun n hn => ⟨by omega, fld_eq (by omega), fld_eq (by omega), fld_eq (by omega), fld_eq (by omega), three (beq_iff_eq.2 (by omega)) (beq_iff_eq.2 (by omega)) (beq_iff_eq.2 (by omega))⟩⟩

theorem shape13 (op : Nat) (hop : op < 128) (x0 : Bool) (x1 : BitVec 7) (x2 : BitVec 3) (x3 : BitVec 2) :
    op * 2 ^ 24 + put x0.toNat 23 + put x1.toNat 16 + put x2.toNat 8 + put x3.toNat 0 < 2 ^ 31 ∧ ∀ n, n % 2 ^ 31 = op * 2 ^ 24 + put x0.toNat 23 + put x1.toNat 16 + put x2.toNat 8 + put x3.toNat 0 →
      n / 2 ^ 24 % 128 = op ∧ bit n 23 = x0 ∧ fld 7 n 16 = x1 ∧ fld 3 n 8 = x2 ∧ fld 2 n 0 = x3 ∧ (n / 2 ^ 2 % 64 == 0 && n / 2 ^ 11 % 32 == 0) = true := by
  have h0 := x0.toNat_le
  have h1 := x1.isLt
  have h2 := x2.isLt
  have h3 := x3.isLt
  simp only [put]
  refine ⟨by omega, fun n hn => ⟨by omega, bit_eq (by omega), fld_eq (by omega), fld_eq (by omega), fld_eq (by omega), both (beq_iff_eq.2 (by omega)) (beq_iff_eq.2 (by omega))⟩⟩

theorem shape14 (op : Nat) (hop : op < 128) (x0 : BitVec 3) (x1 : BitVec 2) :
    op * 2 ^ 24 + put x0.toNat 8 + put x1.toNat 0 < 2 ^ 31 ∧ ∀ n, n % 2 ^ 31 = op * 2 ^ 24 + put x0.toNat 8 + put x1.toNat 0 →
      n / 2 ^ 24 % 128 = op ∧ fld 3 n 8 = x0 ∧ fld 2 n 0 = x1 ∧ (n / 2 ^ 2 % 64 == 0 && n / 2 ^ 11 % 8192 == 0) = true := by
  have h0 := x0.isLt
  have h1 := x1.isLt
  simp only [put]
  refine ⟨by omega, fun n hn => ⟨by omega, fld_eq (by omega), fld_eq (by omega), both (beq_iff_eq.2 (by omega)) (beq_iff_eq.2 (by omega))⟩⟩

theorem shape15 (op sec : Nat) (hop : op < 128) (hsec : sec < 256) (x0 : BitVec 7) :
    op * 2 ^ 24 + sec + put x0.toNat 16 < 2 ^ 31 ∧ ∀ n, n % 2 ^ 31 = op * 2 ^ 24 + sec + put x0.toNat 16 →
      n / 2 ^ 24 % 128 = op ∧ n % 256 = sec ∧ fld 7 n 16 = x0 ∧ (n / 2 ^ 8 % 256 == 0 && n / 2 ^ 23 % 2 == 0) = true := by
  have h0 := x0.isLt
  simp only [put]
  refine ⟨by omega, fun n hn => ⟨by omega, by omega, fld_eq (by omega), both (beq_iff_eq.2 (by omega)) (beq_iff_eq.2 (by omega))⟩⟩

theorem shape16 (op sec : Nat) (hop : op < 128) (hsec : sec < 256) (x0 : BitVec 8) :
    op * 2 ^ 24 + sec + put x0.toNat 8 < 2 ^ 31 ∧ ∀ n, n % 2 ^ 31 = op * 2 ^ 24 + sec + put x0.toNat 8 →
      n / 2 ^ 24 % 128 = op ∧ n % 256 = sec ∧ fld 8 n 8 = x0 ∧ (n / 2 ^ 16 % 256 == 0) = true := by
  have h0 := x0.isLt
  simp only [put]
  refine ⟨by omega, fun n hn => ⟨by omega, by omega, fld_eq (by omega), (beq_iff_eq.2 (by omega))⟩⟩

theorem shape17 (op : Nat) (hop : op < 128) (x0 : BitVec 7) (x1 : BitVec 8) :
    op * 2 ^ 24 + put x0.toNat 16 + put x1.toNat 0 < 2 ^ 31 ∧ ∀ n, n % 2 ^ 31 = op * 2 ^ 24 + put x0.toNat 16 + put x1.toNat 0 →
      n / 2 ^ 24 % 128 = op ∧ fld 7 n 16 = x0 ∧ fld 8 n 0 = x1 ∧ (n / 2 ^ 8 % 256 == 0 && n / 2 ^ 23 % 2 == 0) = true := by
  have h0 := x0.isLt
  have h1 := x1.isLt
  simp only [put]
  refine ⟨by omega, fun n hn => ⟨by omega, fld_eq (by omega), fld_eq (by omega), both (beq_iff_eq.2 (by omega)) (beq_iff_eq.2 (by omega))⟩⟩

theorem shape18 (op : Nat) (hop : op < 128) (x0 : BitVec 7) :
    op * 2 ^ 24 + put x0.toNat 16 < 2 ^ 31 ∧ ∀ n, n % 2 ^ 31 = op * 2 ^ 24 + put x0.toNat 16 →
      n / 2 ^ 24 % 128 = op ∧ fld 7 n 16 = x0 ∧ (n % 65536 == 0 && n / 2 ^ 23 % 2 == 0) = true := by
  have h0 := x0.isLt
  simp only [put]
  refine ⟨by omega, fun n hn => ⟨by omega, fld_eq (by omega), both (beq_iff_eq.2 (by omega)) (beq_iff_eq.2 (by omega))⟩⟩

theorem shape19 (op : Nat) (hop : op < 128) (x0 : BitVec 5) :
    op * 2 ^ 24 + put x0.toNat 0 < 2 ^ 31 ∧ ∀ n, n % 2 ^ 31 = op * 2 ^ 24 + put x0.toNat 0 →
      n / 2 ^ 24 % 128 = op ∧ fld 5 n 0 = x0 ∧ (n / 2 ^ 5 % 524288 == 0) = true := by
  have h0 := x0.isLt
  simp only [put]
  refine ⟨by omega, fun n hn => ⟨by omega, fld_eq (by omega), (beq_iff_eq.2 (by omega))⟩⟩

theorem shape20 (op : Nat) (hop : op < 128) (x0 : Bool) (x1 : BitVec 7) (x2 : BitVec 8) :
    op * 2 ^ 24 + put x0.toNat 23 + put x1.toNat 16 + put x2.toNat 0 < 2 ^ 31 ∧ ∀ n, n % 2 ^ 31 = op * 2 ^ 24 + put x0.toNat 23 + put x1.toNat 16 + put x2.toNat 0 →
      n / 2 ^ 24 % 128 = op ∧ bit n 23 = x0 ∧ fld 7 n 16 = x1 ∧ fld 8 n 0 = x2 ∧ (n / 2 ^ 8 % 256 == 0) = true := by
  have h0 := x0.toNat_le
  have h1 := x1.isLt
  have h2 := x2.isLt
  simp only [put]
  refine ⟨by omega, fun n hn => ⟨by omega, bit_eq (by omega), fld_eq (by omega), fld_eq (by omega), (beq_iff_eq.2 (by omega))⟩⟩

theorem shape21 (op : Nat) (hop : op < 128) (x0 : Bool) (x1 : BitVec 7) :
    op * 2 ^ 24 + put x0.toNat 23 + put x1.toNat 16 < 2 ^ 31 ∧ ∀ n, n % 2 ^ 31 = op * 2 ^ 24 + put x0.toNat 23 + put x1.toNat 16 →
      n / 2 ^ 24 % 128 = op ∧ bit n 23 = x0 ∧ fld 7 n 16 = x1 ∧ (n % 65536 == 0) = true := by
  have h0 := x0.toNat_le
  have h1 := x1.isLt
  simp only [put]
  refine ⟨by omega, fun n hn => ⟨by omega, bit_eq (by omega), fld_eq (by omega), (beq_iff_eq.2 (by omega))⟩⟩

theorem shape22 (op : Nat) (hop : op < 128) (x0 : BitVec 2) (x1 : BitVec 7) (x2 : BitVec 7) (x3 : BitVec 8) :
    op * 2 ^ 24 + put x0.toNat 22 + put x1.toNat 15 + put x2.toNat 8 + put x3.toNat 0 < 2 ^ 31 ∧ ∀ n, n % 2 ^ 31 = op * 2 ^ 24 + put x0.toNat 22 + put x1.toNat 15 + put x2.toNat 8 + put x3.toNat 0 →
      n / 2 ^ 24 % 128 = op ∧ fld 2 n 22 = x0 ∧ fld 7 n 15 = x1 ∧ fld 7 n 8 = x2 ∧ fld 8 n 0 = x3 := by
  have h0 := x0.isLt
  have h1 := x1.isLt
  have h2 := x2.isLt
  have h3 := x3.isLt
  simp only [put]
  refine ⟨by omega, fun n hn => ⟨by omega, fld_eq (by omega), fld_eq (by omega), fld_eq (by omega), fld_eq (by omega)⟩⟩

theorem shape23 (op : Nat) (hop : op < 128) (x0 : BitVec 4) (x1 : Bool) (x2 : BitVec 7) (x3 : BitVec 7) (x4 : BitVec 5) :
    op * 2 ^ 24 + put x0.toNat 20 + put x1.toNat 19 + put x2.toNat 12 + put x3.toNat 5 + put x4.toNat 0 < 2 ^ 31 ∧ ∀ n, n % 2 ^ 31 = op * 2 ^ 24 + put x0.toNat 20 + put x1.toNat 19 + put x2.toNat 12 + put x3.toNat 5 + put x4.toNat 0 →
      n / 2 ^ 24 % 128 = op ∧ fld 4 n 20 = x0 ∧ bit n 19 = x1 ∧ fld 7 n 12 = x2 ∧ fld 7 n 5 = x3 ∧ fld 5 n 0 = x4 := by
  have h0 := x0.isLt
  have h1 := x1.toNat_le
  have h2 := x2.isLt
  have h3 := x3.isLt
  have h4 := x4.isLt
  simp only [put]
  refine ⟨by omega, fun n hn => ⟨by omega, fld_eq (by omega), bit_eq (by omega), fld_eq (by omega), fld_eq (by omega), fld_eq (by omega)⟩⟩

theorem shape24 (op : Nat) (hop : op < 128) (x0 : BitVec 8) :
    op * 2 ^ 24 + put x0.toNat 0 < 2 ^ 31 ∧ ∀ n, n % 2 ^ 31 = op * 2 ^ 24 + put x0.toNat 0 →
      n / 2 ^ 24 % 128 = op ∧ fld 8 n 0 = x0 ∧ (n / 2 ^ 8 % 65536 == 0) = true := by
  have h0 := x0.isLt
  simp only [put]
  refine ⟨by omega, fun n hn => ⟨by omega, fld_eq (by omega), (beq_iff_eq.2 (by omega))⟩⟩

theorem shape25 (op : Nat) (hop : op < 128) (x0 : BitVec 3) (x1 : BitVec 2) (x2 : BitVec 9) :
    op * 2 ^ 24 + put x0.toNat 20 + put x1.toNat 18 + put x2.toNat 0 < 2 ^ 31 ∧ ∀ n, n % 2 ^ 31 = op * 2 ^ 24 + put x0.toNat 20 + put x1.toNat 18 + put x2.toNat 0 →
      n / 2 ^ 24 % 128 = op ∧ fld 3 n 20 = x0 ∧ fld 2 n 18 = x1 ∧ fld 9 n 0 = x2 ∧ (n / 2 ^ 9 % 512 == 0 && n / 2 ^ 23 % 2 == 0) = true := by
  have h0 := x0.isLt
  have h1 := x1.isLt
  have h2 := x2.isLt
  simp only [put]
  refine ⟨by omega, fun n hn => ⟨by omega, fld_eq (by omega), fld_eq (by omega), fld_eq (by omega), both (beq_iff_eq.2 (by omega)) (beq_iff_eq.2 (by omega))⟩⟩

theorem shape26 (op : Nat) (hop : op < 128) (x0 : BitVec 3) :
    op * 2 ^ 24 + put x0.toNat 20 < 2 ^ 31 ∧ ∀ n, n % 2 ^ 31 = op * 2 ^ 24 + put x0.toNat 20 →
      n / 2 ^ 24 % 128 = op ∧ fld 3 n 20 = x0 ∧ (n % 1048576 == 0 && n / 2 ^ 23 % 2 == 0) = true := by
  have h0 := x0.isLt
  simp only [put]
  refine ⟨by omega, fun n hn => ⟨by omega, fld_eq (by omega), both (beq_iff_eq.2 (by omega)) (beq_iff_eq.2 (by omega))⟩⟩

theorem shape27 (op : Nat) (hop : op < 128) (x0 : BitVec 3) (x1 : BitVec 2) (x2 : Bool) (x3 : BitVec 7) (x4 : BitVec 7) :
    op * 2 ^ 24 + put x0.toNat 21 + put x1.toNat 19 + put x2.toNat 18 + put x3.toNat 11 + put x4.toNat 4 < 2 ^ 31 ∧ ∀ n, n % 2 ^ 31 = op * 2 ^ 24 + put x0.toNat 21 + put x1.toNat 19 + put x2.toNat 18 + put x3.toNat 11 + put x4.toNat 4 →
      n / 2 ^ 24 % 128 = op ∧ fld 3 n 21 = x0 ∧ fld 2 n 19 = x1 ∧ bit n 18 = x2 ∧ fld 7 n 11 = x3 ∧ fld 7 n 4 = x4 ∧ (n % 16 == 0) = true := by
  have h0 := x0.isLt
  have h1 := x1.isLt
  have h2 := x2.toNat_le
  have h3 := x3.isLt
  have h4 := x4.isLt
  simp only [put]
  refine ⟨by omega, fun n hn => ⟨by omega, fld_eq (by omega), fld_eq (by omega), bit_eq (by omega), fld_eq (by omega), fld_eq (by omega), (beq_iff_eq.2 (by omega))⟩⟩

theorem shape28 (op : Nat) (hop : op < 128) (x0 : BitVec 7) (x1 : BitVec 8) (x2 : BitVec 3) (x3 : BitVec 5) :
    op * 2 ^ 24 + put x0.toNat 16 + put x1.toNat 8 + put x2.toNat 5 + put x3.toNat 0 < 2 ^ 31 ∧ ∀ n, n % 2 ^ 31 = op * 2 ^ 24 + put x0.toNat 16 + put x1.toNat 8 + put x2.toNat 5 + put x3.toNat 0 →
      n / 2 ^ 24 % 128 = op ∧ fld 7 n 16 = x0 ∧ fld 8 n 8 = x1 ∧ fld 3 n 5 = x2 ∧ fld 5 n 0 = x3 ∧ (n / 2 ^ 23 % 2 == 0) = true := by
  have h0 := x0.isLt
  have h1 := x1.isLt
  have h2 := x2.isLt
  have h3 := x3.isLt
  simp only [put]
  refine ⟨by omega, fun n hn => ⟨by omega, fld_eq (by omega), fld_eq (by omega), fld_eq (by omega), fld_eq (by omega), (beq_iff_eq.2 (by omega))⟩⟩

theorem shape29 (op : Nat) (hop : op < 128) (x0 : BitVec 7) (x1 : Bool) (x2 : BitVec 3) (x3 : BitVec 2) (x4 : BitVec 2) :
    op * 2 ^ 24 + put x0.toNat 16 + put x1.toNat 7 + put x2.toNat 4 + put x3.toNat 2 + put x4.toNat 0 < 2 ^ 31 ∧ ∀ n, n % 2 ^ 31 = op * 2 ^ 24 + put x0.toNat 16 + put x1.toNat 7 + put x2.toNat 4 + put x3.toNat 2 + put x4.toNat 0 →
      n / 2 ^ 24 % 128 = op ∧ fld 7 n 16 = x0 ∧ bit n 7 = x1 ∧ fld 3 n 4 = x2 ∧ fld 2 n 2 = x3 ∧ fld 2 n 0 = x4 ∧ (n / 2 ^ 8 % 256 == 0 && n / 2 ^ 23 % 2 == 0) = true := by
  have h0 := x0.isLt
  have h1 := x1.toNat_le
  have h2 := x2.isLt
  have h3 := x3.isLt
  have h4 := x4.isLt
  simp only [put]
  refine ⟨by omega, fun n hn => ⟨by omega, fld_eq (by omega), bit_eq (by omega), fld_eq (by omega), fld_eq (by omega), fld_eq (by omega), both (beq_iff_eq.2 (by omega)) (beq_iff_eq.2 (by omega))⟩⟩

theorem shape30 (op : Nat) (hop : op < 128) (x0 : BitVec 7) (x1 : BitVec 8) (x2 : Bool) (x3 : BitVec 2) (x4 : Bool) (x5 : Bool) :
    op * 2 ^ 24 + put x0.toNat 16 + put x1.toNat 8 + put x2.toNat 4 + put x3.toNat 2 + put x4.toNat 1 + put x5.toNat 0 < 2 ^ 31 ∧ ∀ n, n % 2 ^ 31 = op * 2 ^ 24 + put x0.toNat 16 + put x1.toNat 8 + put x2.toNat 4 + put x3.toNat 2 + put x4.toNat 1 + put x5.toNat 0 →
      n / 2 ^ 24 % 128 = op ∧ fld 7 n 16 = x0 ∧ fld 8 n 8 = x1 ∧ bit n 4 = x2 ∧ fld 2 n 2 = x3 ∧ bit n 1 = x4 ∧ bit n 0 = x5 ∧ (n / 2 ^ 5 % 8 == 0 && n / 2 ^ 23 % 2 == 0) = true := by
  have h0 := x0.isLt
  have h1 := x1.isLt
  have h2 := x2.toNat_le
  have h3 := x3.isLt
  have h4 := x4.toNat_le
  have h5 := x5.toNat_le
  simp only [put]
  refine ⟨by omega, fun n hn => ⟨by omega, fld_eq (by omega), fld_eq (by omega), bit_eq (by omega), fld_eq (by omega), bit_eq (by omega), bit_eq (by omega), both (beq_iff_eq.2 (by omega)) (beq_iff_eq.2 (by omega))⟩⟩

theorem shape31 (op sec : Nat) (hop : op < 128) (hsec : sec < 256) (x0 : Bool) (x1 : BitVec 7) (x2 : BitVec 8) :
    op * 2 ^ 24 + sec + put x0.toNat 23 + put x1.toNat 16 + put x2.toNat 8 < 2 ^ 31 ∧ ∀ n, n % 2 ^ 31 = op * 2 ^ 24 + sec + put x0.toNat 23 + put x1.toNat 16 + put x2.toNat 8 →
      n / 2 ^ 24 % 128 = op ∧ n % 256 = sec ∧ bit n 23 = x0 ∧ fld 7 n 16 = x1 ∧ fld 8 n 8 = x2 := by
  have h0 := x0.toNat_le
  have h1 := x1.isLt
  have h2 := x2.isLt
  simp only [put]
  refine ⟨by omega, fun n hn => ⟨by omega, by omega, bit_eq (by omega), fld_eq (by omega), fld_eq (by omega)⟩⟩

theorem shape32 (op sec : Nat) (hop : op < 128) (hsec : sec < 256)  :
    op * 2 ^ 24 + sec < 2 ^ 31 ∧ ∀ n, n % 2 ^ 31 = op * 2 ^ 24 + sec →
      n / 2 ^ 24 % 128 = op ∧ n % 256 = sec ∧ (n / 2 ^ 8 % 65536 == 0) = true := by
  refine ⟨by omega, fun n hn => ⟨by omega, by omega, (beq_iff_eq.2 (by omega))⟩⟩

theorem shape33 (op sec : Nat) (hop : op < 128) (hsec : sec < 256) (x0 : BitVec 7) (x1 : BitVec 8) :
    op * 2 ^ 24 + sec + put x0.toNat 16 + put x1.toNat 8 < 2 ^ 31 ∧ ∀ n, n % 2 ^ 31 = op * 2 ^ 24 + sec + put x0.toNat 16 + put x1.toNat 8 →
      n / 2 ^ 24 % 128 = op ∧ n % 256 = sec ∧ fld 7 n 16 = x0 ∧ fld 8 n 8 = x1 ∧ (n / 2 ^ 23 % 2 == 0) = true := by
  have h0 := x0.isLt
  have h1 := x1.isLt
  simp only [put]
  refine ⟨by omega, fun n hn => ⟨by omega, by omega, fld_eq (by omega), fld_eq (by omega), (beq_iff_eq.2 (by omega))⟩⟩

theorem shape34 (op sec : Nat) (hop : op < 128) (hsec : sec < 256) (x0 : BitVec 3) (x1 : BitVec 8) :
    op * 2 ^ 24 + sec + put x0.toNat 16 + put x1.toNat 8 < 2 ^ 31 ∧ ∀ n, n % 2 ^ 31 = op * 2 ^ 24 + sec + put x0.toNat 16 + put x1.toNat 8 →
      n / 2 ^ 24 % 128 = op ∧ n % 256 = sec ∧ fld 3 n 16 = x0 ∧ fld 8 n 8 = x1 ∧ (n / 2 ^ 19 % 32 == 0) = true := by
  have h0 := x0.isLt
  have h1 := x1.isLt
  simp only [put]
  refine ⟨by omega, fun n hn => ⟨by omega, by omega, fld_eq (by omega), fld_eq (by omega), (beq_iff_eq.2 (by omega))⟩⟩

theorem nop : Statement .nop := of_bits rfl (by decide) fun n _ h => by rw [h rfl]; rfl
theorem bra disp : Statement (.bra disp) := by
  have h := shape1 0x01 (by decide) disp
  refine of_bits rfl h.1 fun n hn _ => ?_
  obtain ⟨ho, e0, z⟩ := h.2 n hn
  refine low ho (by decide) ?_
  show zero (n / 2 ^ 16 % 256 == 0) (Instr.bra (fld 16 n 0)) = _
  rw [zero_ok _ z, e0]
theorem bany p disp : Statement (.bany p disp) := by
  have h := shape2 0x02 (by decide) p disp
  refine of_bits rfl h.1 fun n hn _ => ?_
  obtain ⟨ho, e0, e1, z⟩ := h.2 n hn
  refine low ho (by decide) ?_
  show zero (n / 2 ^ 16 % 32 == 0) (Instr.bany (fld 3 n 21) (fld 16 n 0)) = _
  rw [zero_ok _ z, e0, e1]
theorem ball p disp : Statement (.ball p disp) := by
  have h := shape2 0x03 (by decide) p disp
  refine of_bits rfl h.1 fun n hn _ => ?_
  obtain ⟨ho, e0, e1, z⟩ := h.2 n hn
  refine low ho (by decide) ?_
  show zero (n / 2 ^ 16 % 32 == 0) (Instr.ball (fld 3 n 21) (fld 16 n 0)) = _
  rw [zero_ok _ z, e0, e1]
theorem bnone p disp : Statement (.bnone p disp) := by
  have h := shape2 0x04 (by decide) p disp
  refine of_bits rfl h.1 fun n hn _ => ?_
  obtain ⟨ho, e0, e1, z⟩ := h.2 n hn
  refine low ho (by decide) ?_
  show zero (n / 2 ^ 16 % 32 == 0) (Instr.bnone (fld 3 n 21) (fld 16 n 0)) = _
  rw [zero_ok _ z, e0, e1]
theorem bdiv p jb disp : Statement (.bdiv p jb disp) := by
  have h := shape3 0x05 (by decide) p jb disp
  refine of_bits rfl h.1 fun n hn _ => ?_
  obtain ⟨ho, e0, e1, e2⟩ := h.2 n hn
  refine low ho (by decide) ?_
  show Except.ok (Instr.bdiv (fld 3 n 21) (fld 5 n 16) (fld 16 n 0)) = _
  rw [e0, e1, e2]
theorem join bound : Statement (.join bound) := by
  have h := shape1 0x06 (by decide) bound
  refine of_bits rfl h.1 fun n hn _ => ?_
  obtain ⟨ho, e0, z⟩ := h.2 n hn
  refine low ho (by decide) ?_
  show zero (n / 2 ^ 16 % 256 == 0) (Instr.join (fld 16 n 0)) = _
  rw [zero_ok _ z, e0]
theorem call disp : Statement (.call disp) := by
  have h := shape1 0x07 (by decide) disp
  refine of_bits rfl h.1 fun n hn _ => ?_
  obtain ⟨ho, e0, z⟩ := h.2 n hn
  refine low ho (by decide) ?_
  show zero (n / 2 ^ 16 % 256 == 0) (Instr.call (fld 16 n 0)) = _
  rw [zero_ok _ z, e0]
theorem ret : Statement (.ret) := by
  have h := shape4 0x08 (by decide)
  refine of_bits rfl h.1 fun n hn _ => ?_
  obtain ⟨ho, z⟩ := h.2 n hn
  refine low ho (by decide) ?_
  show zero (n % 16777216 == 0) (Instr.ret) = _
  rw [zero_ok _ z]
theorem loop g disp : Statement (.loop g disp) := by
  have h := shape5 0x09 (by decide) g disp
  refine of_bits rfl h.1 fun n hn _ => ?_
  obtain ⟨ho, e0, e1, z⟩ := h.2 n hn
  refine low ho (by decide) ?_
  show zero (n / 2 ^ 23 % 2 == 0) (Instr.loop (fld 7 n 16) (fld 16 n 0)) = _
  rw [zero_ok _ z, e0, e1]
theorem jmpf slot seg blk : Statement (.jmpf slot seg blk) := by
  have h := shape6 0x0A (by decide) slot seg blk
  refine of_bits rfl h.1 fun n hn _ => ?_
  obtain ⟨ho, e0, e1, e2, z⟩ := h.2 n hn
  refine low ho (by decide) ?_
  show zero (n / 2 ^ 5 % 8 == 0 && n / 2 ^ 23 % 2 == 0) (Instr.jmpf (fld 7 n 16) (fld 8 n 8) (fld 5 n 0)) = _
  rw [zero_ok _ z, e0, e1, e2]
theorem cfetch slot a : Statement (.cfetch slot a) := by
  have h := shape7 0x0B (by decide) slot a
  refine of_bits rfl h.1 fun n hn _ => ?_
  obtain ⟨ho, e0, e1, z⟩ := h.2 n hn
  refine low ho (by decide) ?_
  show zero (n % 256 == 0 && n / 2 ^ 23 % 2 == 0) (Instr.cfetch (fld 7 n 16) (fld 8 n 8)) = _
  rw [zero_ok _ z, e0, e1]
theorem trap code : Statement (.trap code) := by
  have h := shape1 0x0C (by decide) code
  refine of_bits rfl h.1 fun n hn _ => ?_
  obtain ⟨ho, e0, z⟩ := h.2 n hn
  refine low ho (by decide) ?_
  show zero (n / 2 ^ 16 % 256 == 0) (Instr.trap (fld 16 n 0)) = _
  rw [zero_ok _ z, e0]
theorem exit : Statement (.exit) := by
  have h := shape4 0x0D (by decide)
  refine of_bits rfl h.1 fun n hn _ => ?_
  obtain ⟨ho, z⟩ := h.2 n hn
  refine low ho (by decide) ?_
  show zero (n % 16777216 == 0) (Instr.exit) = _
  rw [zero_ok _ z]
theorem eret : Statement (.eret) := by
  have h := shape4 0x0E (by decide)
  refine of_bits rfl h.1 fun n hn _ => ?_
  obtain ⟨ho, z⟩ := h.2 n hn
  refine low ho (by decide) ?_
  show zero (n % 16777216 == 0) (Instr.eret) = _
  rw [zero_ok _ z]
theorem mov w d a : Statement (.mov w d a) := by
  have h := shape8 0x10 (by decide) w d a
  refine of_bits rfl h.1 fun n hn _ => ?_
  obtain ⟨ho, e0, e1, e2, z⟩ := h.2 n hn
  refine low ho (by decide) ?_
  show zero (n % 256 == 0) (Instr.mov (bit n 23) (fld 7 n 16) (fld 8 n 8)) = _
  rw [zero_ok _ z, e0, e1, e2]
theorem movi w d imm : Statement (.movi w d imm) := by
  have h := shape9 0x11 (by decide) w d imm
  refine of_bits rfl h.1 fun n hn _ => ?_
  obtain ⟨ho, e0, e1, e2⟩ := h.2 n hn
  refine low ho (by decide) ?_
  show Except.ok (Instr.movi (bit n 23) (fld 7 n 16) (fld 16 n 0)) = _
  rw [e0, e1, e2]
theorem movhi w d imm : Statement (.movhi w d imm) := by
  have h := shape9 0x12 (by decide) w d imm
  refine of_bits rfl h.1 fun n hn _ => ?_
  obtain ⟨ho, e0, e1, e2⟩ := h.2 n hn
  refine low ho (by decide) ?_
  show Except.ok (Instr.movhi (bit n 23) (fld 7 n 16) (fld 16 n 0)) = _
  rw [e0, e1, e2]
theorem iadd w d a b : Statement (.iadd w d a b) := by
  have h := shape10 0x13 (by decide) w d a b
  refine of_bits rfl h.1 fun n hn _ => ?_
  obtain ⟨ho, e0, e1, e2, e3⟩ := h.2 n hn
  refine low ho (by decide) ?_
  show Except.ok (Instr.iadd (bit n 23) (fld 7 n 16) (fld 8 n 8) (fld 8 n 0)) = _
  rw [e0, e1, e2, e3]
theorem iaddi w d a imm : Statement (.iaddi w d a imm) := by
  have h := shape10 0x14 (by decide) w d a imm
  refine of_bits rfl h.1 fun n hn _ => ?_
  obtain ⟨ho, e0, e1, e2, e3⟩ := h.2 n hn
  refine low ho (by decide) ?_
  show Except.ok (Instr.iaddi (bit n 23) (fld 7 n 16) (fld 8 n 8) (fld 8 n 0)) = _
  rw [e0, e1, e2, e3]
theorem isub w d a b : Statement (.isub w d a b) := by
  have h := shape10 0x15 (by decide) w d a b
  refine of_bits rfl h.1 fun n hn _ => ?_
  obtain ⟨ho, e0, e1, e2, e3⟩ := h.2 n hn
  refine low ho (by decide) ?_
  show Except.ok (Instr.isub (bit n 23) (fld 7 n 16) (fld 8 n 8) (fld 8 n 0)) = _
  rw [e0, e1, e2, e3]
theorem imul w d a b : Statement (.imul w d a b) := by
  have h := shape10 0x16 (by decide) w d a b
  refine of_bits rfl h.1 fun n hn _ => ?_
  obtain ⟨ho, e0, e1, e2, e3⟩ := h.2 n hn
  refine low ho (by decide) ?_
  show Except.ok (Instr.imul (bit n 23) (fld 7 n 16) (fld 8 n 8) (fld 8 n 0)) = _
  rw [e0, e1, e2, e3]
theorem imulh w d a b : Statement (.imulh w d a b) := by
  have h := shape10 0x17 (by decide) w d a b
  refine of_bits rfl h.1 fun n hn _ => ?_
  obtain ⟨ho, e0, e1, e2, e3⟩ := h.2 n hn
  refine low ho (by decide) ?_
  show Except.ok (Instr.imulh (bit n 23) (fld 7 n 16) (fld 8 n 8) (fld 8 n 0)) = _
  rw [e0, e1, e2, e3]
theorem imulhu w d a b : Statement (.imulhu w d a b) := by
  have h := shape10 0x18 (by decide) w d a b
  refine of_bits rfl h.1 fun n hn _ => ?_
  obtain ⟨ho, e0, e1, e2, e3⟩ := h.2 n hn
  refine low ho (by decide) ?_
  show Except.ok (Instr.imulhu (bit n 23) (fld 7 n 16) (fld 8 n 8) (fld 8 n 0)) = _
  rw [e0, e1, e2, e3]
theorem imad w d a b : Statement (.imad w d a b) := by
  have h := shape10 0x19 (by decide) w d a b
  refine of_bits rfl h.1 fun n hn _ => ?_
  obtain ⟨ho, e0, e1, e2, e3⟩ := h.2 n hn
  refine low ho (by decide) ?_
  show Except.ok (Instr.imad (bit n 23) (fld 7 n 16) (fld 8 n 8) (fld 8 n 0)) = _
  rw [e0, e1, e2, e3]
theorem iadd64 w d a b : Statement (.iadd64 w d a b) := by
  have h := shape10 0x1A (by decide) w d a b
  refine of_bits rfl h.1 fun n hn _ => ?_
  obtain ⟨ho, e0, e1, e2, e3⟩ := h.2 n hn
  refine low ho (by decide) ?_
  show Except.ok (Instr.iadd64 (bit n 23) (fld 7 n 16) (fld 8 n 8) (fld 8 n 0)) = _
  rw [e0, e1, e2, e3]
theorem lea w d a b : Statement (.lea w d a b) := by
  have h := shape10 0x1B (by decide) w d a b
  refine of_bits rfl h.1 fun n hn _ => ?_
  obtain ⟨ho, e0, e1, e2, e3⟩ := h.2 n hn
  refine low ho (by decide) ?_
  show Except.ok (Instr.lea (bit n 23) (fld 7 n 16) (fld 8 n 8) (fld 8 n 0)) = _
  rw [e0, e1, e2, e3]
theorem and w d a b : Statement (.and w d a b) := by
  have h := shape10 0x1C (by decide) w d a b
  refine of_bits rfl h.1 fun n hn _ => ?_
  obtain ⟨ho, e0, e1, e2, e3⟩ := h.2 n hn
  refine low ho (by decide) ?_
  show Except.ok (Instr.and (bit n 23) (fld 7 n 16) (fld 8 n 8) (fld 8 n 0)) = _
  rw [e0, e1, e2, e3]
theorem or w d a b : Statement (.or w d a b) := by
  have h := shape10 0x1D (by decide) w d a b
  refine of_bits rfl h.1 fun n hn _ => ?_
  obtain ⟨ho, e0, e1, e2, e3⟩ := h.2 n hn
  refine low ho (by decide) ?_
  show Except.ok (Instr.or (bit n 23) (fld 7 n 16) (fld 8 n 8) (fld 8 n 0)) = _
  rw [e0, e1, e2, e3]
theorem xor w d a b : Statement (.xor w d a b) := by
  have h := shape10 0x1E (by decide) w d a b
  refine of_bits rfl h.1 fun n hn _ => ?_
  obtain ⟨ho, e0, e1, e2, e3⟩ := h.2 n hn
  refine low ho (by decide) ?_
  show Except.ok (Instr.xor (bit n 23) (fld 7 n 16) (fld 8 n 8) (fld 8 n 0)) = _
  rw [e0, e1, e2, e3]
theorem andn w d a b : Statement (.andn w d a b) := by
  have h := shape10 0x1F (by decide) w d a b
  refine of_bits rfl h.1 fun n hn _ => ?_
  obtain ⟨ho, e0, e1, e2, e3⟩ := h.2 n hn
  refine low ho (by decide) ?_
  show Except.ok (Instr.andn (bit n 23) (fld 7 n 16) (fld 8 n 8) (fld 8 n 0)) = _
  rw [e0, e1, e2, e3]
theorem shl w d a b : Statement (.shl w d a b) := by
  have h := shape10 0x20 (by decide) w d a b
  refine of_bits rfl h.1 fun n hn _ => ?_
  obtain ⟨ho, e0, e1, e2, e3⟩ := h.2 n hn
  refine low ho (by decide) ?_
  show Except.ok (Instr.shl (bit n 23) (fld 7 n 16) (fld 8 n 8) (fld 8 n 0)) = _
  rw [e0, e1, e2, e3]
theorem shr w d a b : Statement (.shr w d a b) := by
  have h := shape10 0x21 (by decide) w d a b
  refine of_bits rfl h.1 fun n hn _ => ?_
  obtain ⟨ho, e0, e1, e2, e3⟩ := h.2 n hn
  refine low ho (by decide) ?_
  show Except.ok (Instr.shr (bit n 23) (fld 7 n 16) (fld 8 n 8) (fld 8 n 0)) = _
  rw [e0, e1, e2, e3]
theorem sar w d a b : Statement (.sar w d a b) := by
  have h := shape10 0x22 (by decide) w d a b
  refine of_bits rfl h.1 fun n hn _ => ?_
  obtain ⟨ho, e0, e1, e2, e3⟩ := h.2 n hn
  refine low ho (by decide) ?_
  show Except.ok (Instr.sar (bit n 23) (fld 7 n 16) (fld 8 n 8) (fld 8 n 0)) = _
  rw [e0, e1, e2, e3]
theorem shli w d a imm : Statement (.shli w d a imm) := by
  have h := shape10 0x23 (by decide) w d a imm
  refine of_bits rfl h.1 fun n hn _ => ?_
  obtain ⟨ho, e0, e1, e2, e3⟩ := h.2 n hn
  refine low ho (by decide) ?_
  show Except.ok (Instr.shli (bit n 23) (fld 7 n 16) (fld 8 n 8) (fld 8 n 0)) = _
  rw [e0, e1, e2, e3]
theorem shri w d a imm : Statement (.shri w d a imm) := by
  have h := shape10 0x24 (by decide) w d a imm
  refine of_bits rfl h.1 fun n hn _ => ?_
  obtain ⟨ho, e0, e1, e2, e3⟩ := h.2 n hn
  refine low ho (by decide) ?_
  show Except.ok (Instr.shri (bit n 23) (fld 7 n 16) (fld 8 n 8) (fld 8 n 0)) = _
  rw [e0, e1, e2, e3]
theorem sari w d a imm : Statement (.sari w d a imm) := by
  have h := shape10 0x25 (by decide) w d a imm
  refine of_bits rfl h.1 fun n hn _ => ?_
  obtain ⟨ho, e0, e1, e2, e3⟩ := h.2 n hn
  refine low ho (by decide) ?_
  show Except.ok (Instr.sari (bit n 23) (fld 7 n 16) (fld 8 n 8) (fld 8 n 0)) = _
  rw [e0, e1, e2, e3]
theorem imin w d a b : Statement (.imin w d a b) := by
  have h := shape10 0x26 (by decide) w d a b
  refine of_bits rfl h.1 fun n hn _ => ?_
  obtain ⟨ho, e0, e1, e2, e3⟩ := h.2 n hn
  refine low ho (by decide) ?_
  show Except.ok (Instr.imin (bit n 23) (fld 7 n 16) (fld 8 n 8) (fld 8 n 0)) = _
  rw [e0, e1, e2, e3]
theorem imax w d a b : Statement (.imax w d a b) := by
  have h := shape10 0x27 (by decide) w d a b
  refine of_bits rfl h.1 fun n hn _ => ?_
  obtain ⟨ho, e0, e1, e2, e3⟩ := h.2 n hn
  refine low ho (by decide) ?_
  show Except.ok (Instr.imax (bit n 23) (fld 7 n 16) (fld 8 n 8) (fld 8 n 0)) = _
  rw [e0, e1, e2, e3]
theorem umin w d a b : Statement (.umin w d a b) := by
  have h := shape10 0x28 (by decide) w d a b
  refine of_bits rfl h.1 fun n hn _ => ?_
  obtain ⟨ho, e0, e1, e2, e3⟩ := h.2 n hn
  refine low ho (by decide) ?_
  show Except.ok (Instr.umin (bit n 23) (fld 7 n 16) (fld 8 n 8) (fld 8 n 0)) = _
  rw [e0, e1, e2, e3]
theorem umax w d a b : Statement (.umax w d a b) := by
  have h := shape10 0x29 (by decide) w d a b
  refine of_bits rfl h.1 fun n hn _ => ?_
  obtain ⟨ho, e0, e1, e2, e3⟩ := h.2 n hn
  refine low ho (by decide) ?_
  show Except.ok (Instr.umax (bit n 23) (fld 7 n 16) (fld 8 n 8) (fld 8 n 0)) = _
  rw [e0, e1, e2, e3]
theorem iabs w d a : Statement (.iabs w d a) := by
  have h := shape8 0x2A (by decide) w d a
  refine of_bits rfl h.1 fun n hn _ => ?_
  obtain ⟨ho, e0, e1, e2, z⟩ := h.2 n hn
  refine low ho (by decide) ?_
  show zero (n % 256 == 0) (Instr.iabs (bit n 23) (fld 7 n 16) (fld 8 n 8)) = _
  rw [zero_ok _ z, e0, e1, e2]
theorem bfe w d a b : Statement (.bfe w d a b) := by
  have h := shape10 0x2B (by decide) w d a b
  refine of_bits rfl h.1 fun n hn _ => ?_
  obtain ⟨ho, e0, e1, e2, e3⟩ := h.2 n hn
  refine low ho (by decide) ?_
  show Except.ok (Instr.bfe (bit n 23) (fld 7 n 16) (fld 8 n 8) (fld 8 n 0)) = _
  rw [e0, e1, e2, e3]
theorem fadd w d a b : Statement (.fadd w d a b) := by
  have h := shape10 0x2C (by decide) w d a b
  refine of_bits rfl h.1 fun n hn _ => ?_
  obtain ⟨ho, e0, e1, e2, e3⟩ := h.2 n hn
  refine low ho (by decide) ?_
  show Except.ok (Instr.fadd (bit n 23) (fld 7 n 16) (fld 8 n 8) (fld 8 n 0)) = _
  rw [e0, e1, e2, e3]
theorem fsub w d a b : Statement (.fsub w d a b) := by
  have h := shape10 0x2D (by decide) w d a b
  refine of_bits rfl h.1 fun n hn _ => ?_
  obtain ⟨ho, e0, e1, e2, e3⟩ := h.2 n hn
  refine low ho (by decide) ?_
  show Except.ok (Instr.fsub (bit n 23) (fld 7 n 16) (fld 8 n 8) (fld 8 n 0)) = _
  rw [e0, e1, e2, e3]
theorem fmul w d a b : Statement (.fmul w d a b) := by
  have h := shape10 0x2E (by decide) w d a b
  refine of_bits rfl h.1 fun n hn _ => ?_
  obtain ⟨ho, e0, e1, e2, e3⟩ := h.2 n hn
  refine low ho (by decide) ?_
  show Except.ok (Instr.fmul (bit n 23) (fld 7 n 16) (fld 8 n 8) (fld 8 n 0)) = _
  rw [e0, e1, e2, e3]
theorem ffma w d a b : Statement (.ffma w d a b) := by
  have h := shape10 0x2F (by decide) w d a b
  refine of_bits rfl h.1 fun n hn _ => ?_
  obtain ⟨ho, e0, e1, e2, e3⟩ := h.2 n hn
  refine low ho (by decide) ?_
  show Except.ok (Instr.ffma (bit n 23) (fld 7 n 16) (fld 8 n 8) (fld 8 n 0)) = _
  rw [e0, e1, e2, e3]
theorem fmin w d a b : Statement (.fmin w d a b) := by
  have h := shape10 0x30 (by decide) w d a b
  refine of_bits rfl h.1 fun n hn _ => ?_
  obtain ⟨ho, e0, e1, e2, e3⟩ := h.2 n hn
  refine low ho (by decide) ?_
  show Except.ok (Instr.fmin (bit n 23) (fld 7 n 16) (fld 8 n 8) (fld 8 n 0)) = _
  rw [e0, e1, e2, e3]
theorem fmax w d a b : Statement (.fmax w d a b) := by
  have h := shape10 0x31 (by decide) w d a b
  refine of_bits rfl h.1 fun n hn _ => ?_
  obtain ⟨ho, e0, e1, e2, e3⟩ := h.2 n hn
  refine low ho (by decide) ?_
  show Except.ok (Instr.fmax (bit n 23) (fld 7 n 16) (fld 8 n 8) (fld 8 n 0)) = _
  rw [e0, e1, e2, e3]
theorem hadd2 w d a b : Statement (.hadd2 w d a b) := by
  have h := shape10 0x32 (by decide) w d a b
  refine of_bits rfl h.1 fun n hn _ => ?_
  obtain ⟨ho, e0, e1, e2, e3⟩ := h.2 n hn
  refine low ho (by decide) ?_
  show Except.ok (Instr.hadd2 (bit n 23) (fld 7 n 16) (fld 8 n 8) (fld 8 n 0)) = _
  rw [e0, e1, e2, e3]
theorem hmul2 w d a b : Statement (.hmul2 w d a b) := by
  have h := shape10 0x33 (by decide) w d a b
  refine of_bits rfl h.1 fun n hn _ => ?_
  obtain ⟨ho, e0, e1, e2, e3⟩ := h.2 n hn
  refine low ho (by decide) ?_
  show Except.ok (Instr.hmul2 (bit n 23) (fld 7 n 16) (fld 8 n 8) (fld 8 n 0)) = _
  rw [e0, e1, e2, e3]
theorem hfma2 w d a b : Statement (.hfma2 w d a b) := by
  have h := shape10 0x34 (by decide) w d a b
  refine of_bits rfl h.1 fun n hn _ => ?_
  obtain ⟨ho, e0, e1, e2, e3⟩ := h.2 n hn
  refine low ho (by decide) ?_
  show Except.ok (Instr.hfma2 (bit n 23) (fld 7 n 16) (fld 8 n 8) (fld 8 n 0)) = _
  rw [e0, e1, e2, e3]
theorem badd2 w d a b : Statement (.badd2 w d a b) := by
  have h := shape10 0x35 (by decide) w d a b
  refine of_bits rfl h.1 fun n hn _ => ?_
  obtain ⟨ho, e0, e1, e2, e3⟩ := h.2 n hn
  refine low ho (by decide) ?_
  show Except.ok (Instr.badd2 (bit n 23) (fld 7 n 16) (fld 8 n 8) (fld 8 n 0)) = _
  rw [e0, e1, e2, e3]
theorem bmul2 w d a b : Statement (.bmul2 w d a b) := by
  have h := shape10 0x36 (by decide) w d a b
  refine of_bits rfl h.1 fun n hn _ => ?_
  obtain ⟨ho, e0, e1, e2, e3⟩ := h.2 n hn
  refine low ho (by decide) ?_
  show Except.ok (Instr.bmul2 (bit n 23) (fld 7 n 16) (fld 8 n 8) (fld 8 n 0)) = _
  rw [e0, e1, e2, e3]
theorem bfma2 w d a b : Statement (.bfma2 w d a b) := by
  have h := shape10 0x37 (by decide) w d a b
  refine of_bits rfl h.1 fun n hn _ => ?_
  obtain ⟨ho, e0, e1, e2, e3⟩ := h.2 n hn
  refine low ho (by decide) ?_
  show Except.ok (Instr.bfma2 (bit n 23) (fld 7 n 16) (fld 8 n 8) (fld 8 n 0)) = _
  rw [e0, e1, e2, e3]
theorem frcp w d a : Statement (.frcp w d a) := by
  have h := shape8 0x38 (by decide) w d a
  refine of_bits rfl h.1 fun n hn _ => ?_
  obtain ⟨ho, e0, e1, e2, z⟩ := h.2 n hn
  refine low ho (by decide) ?_
  show zero (n % 256 == 0) (Instr.frcp (bit n 23) (fld 7 n 16) (fld 8 n 8)) = _
  rw [zero_ok _ z, e0, e1, e2]
theorem frsq w d a : Statement (.frsq w d a) := by
  have h := shape8 0x39 (by decide) w d a
  refine of_bits rfl h.1 fun n hn _ => ?_
  obtain ⟨ho, e0, e1, e2, z⟩ := h.2 n hn
  refine low ho (by decide) ?_
  show zero (n % 256 == 0) (Instr.frsq (bit n 23) (fld 7 n 16) (fld 8 n 8)) = _
  rw [zero_ok _ z, e0, e1, e2]
theorem fexp2 w d a : Statement (.fexp2 w d a) := by
  have h := shape8 0x3A (by decide) w d a
  refine of_bits rfl h.1 fun n hn _ => ?_
  obtain ⟨ho, e0, e1, e2, z⟩ := h.2 n hn
  refine low ho (by decide) ?_
  show zero (n % 256 == 0) (Instr.fexp2 (bit n 23) (fld 7 n 16) (fld 8 n 8)) = _
  rw [zero_ok _ z, e0, e1, e2]
theorem flog2 w d a : Statement (.flog2 w d a) := by
  have h := shape8 0x3B (by decide) w d a
  refine of_bits rfl h.1 fun n hn _ => ?_
  obtain ⟨ho, e0, e1, e2, z⟩ := h.2 n hn
  refine low ho (by decide) ?_
  show zero (n % 256 == 0) (Instr.flog2 (bit n 23) (fld 7 n 16) (fld 8 n 8)) = _
  rw [zero_ok _ z, e0, e1, e2]
theorem cvt w d a imm : Statement (.cvt w d a imm) := by
  have h := shape10 0x3C (by decide) w d a imm
  refine of_bits rfl h.1 fun n hn _ => ?_
  obtain ⟨ho, e0, e1, e2, e3⟩ := h.2 n hn
  refine low ho (by decide) ?_
  show Except.ok (Instr.cvt (bit n 23) (fld 7 n 16) (fld 8 n 8) (fld 8 n 0)) = _
  rw [e0, e1, e2, e3]
theorem fscale w d a b : Statement (.fscale w d a b) := by
  have h := shape10 0x3D (by decide) w d a b
  refine of_bits rfl h.1 fun n hn _ => ?_
  obtain ⟨ho, e0, e1, e2, e3⟩ := h.2 n hn
  refine low ho (by decide) ?_
  show Except.ok (Instr.fscale (bit n 23) (fld 7 n 16) (fld 8 n 8) (fld 8 n 0)) = _
  rw [e0, e1, e2, e3]
theorem qscale w d a b : Statement (.qscale w d a b) := by
  have h := shape10 0x3E (by decide) w d a b
  refine of_bits rfl h.1 fun n hn _ => ?_
  obtain ⟨ho, e0, e1, e2, e3⟩ := h.2 n hn
  refine low ho (by decide) ?_
  show Except.ok (Instr.qscale (bit n 23) (fld 7 n 16) (fld 8 n 8) (fld 8 n 0)) = _
  rw [e0, e1, e2, e3]
theorem frnd w d a imm : Statement (.frnd w d a imm) := by
  have h := shape10 0x3F (by decide) w d a imm
  refine of_bits rfl h.1 fun n hn _ => ?_
  obtain ⟨ho, e0, e1, e2, e3⟩ := h.2 n hn
  refine low ho (by decide) ?_
  show Except.ok (Instr.frnd (bit n 23) (fld 7 n 16) (fld 8 n 8) (fld 8 n 0)) = _
  rw [e0, e1, e2, e3]
theorem icmp cond p a b : Statement (.icmp cond p a b) := by
  have h := shape11 0x40 (by decide) cond p a b
  refine of_bits rfl h.1 fun n hn _ => ?_
  obtain ⟨ho, e0, e1, e2, e3, z⟩ := h.2 n hn
  refine high ho (by decide) ?_
  show zero (n / 2 ^ 23 % 2 == 0) (Instr.icmp (fld 4 n 19) (fld 3 n 16) (fld 8 n 8) (fld 8 n 0)) = _
  rw [zero_ok _ z, e0, e1, e2, e3]
theorem ucmp cond p a b : Statement (.ucmp cond p a b) := by
  have h := shape11 0x41 (by decide) cond p a b
  refine of_bits rfl h.1 fun n hn _ => ?_
  obtain ⟨ho, e0, e1, e2, e3, z⟩ := h.2 n hn
  refine high ho (by decide) ?_
  show zero (n / 2 ^ 23 % 2 == 0) (Instr.ucmp (fld 4 n 19) (fld 3 n 16) (fld 8 n 8) (fld 8 n 0)) = _
  rw [zero_ok _ z, e0, e1, e2, e3]
theorem fcmp cond p a b : Statement (.fcmp cond p a b) := by
  have h := shape11 0x42 (by decide) cond p a b
  refine of_bits rfl h.1 fun n hn _ => ?_
  obtain ⟨ho, e0, e1, e2, e3, z⟩ := h.2 n hn
  refine high ho (by decide) ?_
  show zero (n / 2 ^ 23 % 2 == 0) (Instr.fcmp (fld 4 n 19) (fld 3 n 16) (fld 8 n 8) (fld 8 n 0)) = _
  rw [zero_ok _ z, e0, e1, e2, e3]
theorem plop f p a b : Statement (.plop f p a b) := by
  have h := shape12 0x43 (by decide) f p a b
  refine of_bits rfl h.1 fun n hn _ => ?_
  obtain ⟨ho, e0, e1, e2, e3, z⟩ := h.2 n hn
  refine high ho (by decide) ?_
  show zero (n / 2 ^ 3 % 32 == 0 && n / 2 ^ 11 % 32 == 0 && n / 2 ^ 23 % 2 == 0) (Instr.plop (fld 4 n 19) (fld 3 n 16) (fld 3 n 8) (fld 3 n 0)) = _
  rw [zero_ok _ z, e0, e1, e2, e3]
theorem sel w d a b : Statement (.sel w d a b) := by
  have h := shape10 0x44 (by decide) w d a b
  refine of_bits rfl h.1 fun n hn _ => ?_
  obtain ⟨ho, e0, e1, e2, e3⟩ := h.2 n hn
  refine high ho (by decide) ?_
  show Except.ok (Instr.sel (bit n 23) (fld 7 n 16) (fld 8 n 8) (fld 8 n 0)) = _
  rw [e0, e1, e2, e3]
theorem vote w d a mode : Statement (.vote w d a mode) := by
  have h := shape13 0x45 (by decide) w d a mode
  refine of_bits rfl h.1 fun n hn _ => ?_
  obtain ⟨ho, e0, e1, e2, e3, z⟩ := h.2 n hn
  refine high ho (by decide) ?_
  show zero (n / 2 ^ 2 % 64 == 0 && n / 2 ^ 11 % 32 == 0) (Instr.vote (bit n 23) (fld 7 n 16) (fld 3 n 8) (fld 2 n 0)) = _
  rw [zero_ok _ z, e0, e1, e2, e3]
theorem mset a mode : Statement (.mset a mode) := by
  have h := shape14 0x46 (by decide) a mode
  refine of_bits rfl h.1 fun n hn _ => ?_
  obtain ⟨ho, e0, e1, z⟩ := h.2 n hn
  refine high ho (by decide) ?_
  show zero (n / 2 ^ 2 % 64 == 0 && n / 2 ^ 11 % 8192 == 0) (Instr.mset (fld 3 n 8) (fld 2 n 0)) = _
  rw [zero_ok _ z, e0, e1]
theorem pmovGet d : Statement (.pmovGet d) := by
  have h := shape15 0x47 0x00 (by decide) (by decide) d
  refine of_bits rfl h.1 fun n hn _ => ?_
  obtain ⟨ho, hs, e0, z⟩ := h.2 n hn
  refine high ho (by decide) ?_
  show decodePmov n = _
  unfold decodePmov
  rw [hs]
  show zero (n / 2 ^ 8 % 256 == 0 && n / 2 ^ 23 % 2 == 0) (Instr.pmovGet (fld 7 n 16)) = _
  rw [zero_ok _ z, e0]
theorem pmovPut a : Statement (.pmovPut a) := by
  have h := shape16 0x47 0x01 (by decide) (by decide) a
  refine of_bits rfl h.1 fun n hn _ => ?_
  obtain ⟨ho, hs, e0, z⟩ := h.2 n hn
  refine high ho (by decide) ?_
  show decodePmov n = _
  unfold decodePmov
  rw [hs]
  show zero (n / 2 ^ 16 % 256 == 0) (Instr.pmovPut (fld 8 n 8)) = _
  rw [zero_ok _ z, e0]
theorem dot8w w d a b : Statement (.dot8w w d a b) := by
  have h := shape10 0x48 (by decide) w d a b
  refine of_bits rfl h.1 fun n hn _ => ?_
  obtain ⟨ho, e0, e1, e2, e3⟩ := h.2 n hn
  refine high ho (by decide) ?_
  show Except.ok (Instr.dot8w (bit n 23) (fld 7 n 16) (fld 8 n 8) (fld 8 n 0)) = _
  rw [e0, e1, e2, e3]
theorem dot8i w d a b : Statement (.dot8i w d a b) := by
  have h := shape10 0x49 (by decide) w d a b
  refine of_bits rfl h.1 fun n hn _ => ?_
  obtain ⟨ho, e0, e1, e2, e3⟩ := h.2 n hn
  refine high ho (by decide) ?_
  show Except.ok (Instr.dot8i (bit n 23) (fld 7 n 16) (fld 8 n 8) (fld 8 n 0)) = _
  rw [e0, e1, e2, e3]
theorem dot4w w d a b : Statement (.dot4w w d a b) := by
  have h := shape10 0x4A (by decide) w d a b
  refine of_bits rfl h.1 fun n hn _ => ?_
  obtain ⟨ho, e0, e1, e2, e3⟩ := h.2 n hn
  refine high ho (by decide) ?_
  show Except.ok (Instr.dot4w (bit n 23) (fld 7 n 16) (fld 8 n 8) (fld 8 n 0)) = _
  rw [e0, e1, e2, e3]
theorem dot4i w d a b : Statement (.dot4i w d a b) := by
  have h := shape10 0x4B (by decide) w d a b
  refine of_bits rfl h.1 fun n hn _ => ?_
  obtain ⟨ho, e0, e1, e2, e3⟩ := h.2 n hn
  refine high ho (by decide) ?_
  show Except.ok (Instr.dot4i (bit n 23) (fld 7 n 16) (fld 8 n 8) (fld 8 n 0)) = _
  rw [e0, e1, e2, e3]
theorem shfl w d a b : Statement (.shfl w d a b) := by
  have h := shape10 0x4C (by decide) w d a b
  refine of_bits rfl h.1 fun n hn _ => ?_
  obtain ⟨ho, e0, e1, e2, e3⟩ := h.2 n hn
  refine high ho (by decide) ?_
  show Except.ok (Instr.shfl (bit n 23) (fld 7 n 16) (fld 8 n 8) (fld 8 n 0)) = _
  rw [e0, e1, e2, e3]
theorem shflx w d a imm : Statement (.shflx w d a imm) := by
  have h := shape10 0x4D (by decide) w d a imm
  refine of_bits rfl h.1 fun n hn _ => ?_
  obtain ⟨ho, e0, e1, e2, e3⟩ := h.2 n hn
  refine high ho (by decide) ?_
  show Except.ok (Instr.shflx (bit n 23) (fld 7 n 16) (fld 8 n 8) (fld 8 n 0)) = _
  rw [e0, e1, e2, e3]
theorem qxch w d a imm : Statement (.qxch w d a imm) := by
  have h := shape10 0x4E (by decide) w d a imm
  refine of_bits rfl h.1 fun n hn _ => ?_
  obtain ⟨ho, e0, e1, e2, e3⟩ := h.2 n hn
  refine high ho (by decide) ?_
  show Except.ok (Instr.qxch (bit n 23) (fld 7 n 16) (fld 8 n 8) (fld 8 n 0)) = _
  rw [e0, e1, e2, e3]
theorem lred w d a imm : Statement (.lred w d a imm) := by
  have h := shape10 0x4F (by decide) w d a imm
  refine of_bits rfl h.1 fun n hn _ => ?_
  obtain ⟨ho, e0, e1, e2, e3⟩ := h.2 n hn
  refine high ho (by decide) ?_
  show Except.ok (Instr.lred (bit n 23) (fld 7 n 16) (fld 8 n 8) (fld 8 n 0)) = _
  rw [e0, e1, e2, e3]
theorem split d f : Statement (.split d f) := by
  have h := shape17 0x50 (by decide) d f
  refine of_bits rfl h.1 fun n hn _ => ?_
  obtain ⟨ho, e0, e1, z⟩ := h.2 n hn
  refine high ho (by decide) ?_
  show zero (n / 2 ^ 8 % 256 == 0 && n / 2 ^ 23 % 2 == 0) (Instr.split (fld 7 n 16) (fld 8 n 0)) = _
  rw [zero_ok _ z, e0, e1]
theorem fuse d : Statement (.fuse d) := by
  have h := shape18 0x51 (by decide) d
  refine of_bits rfl h.1 fun n hn _ => ?_
  obtain ⟨ho, e0, z⟩ := h.2 n hn
  refine high ho (by decide) ?_
  show zero (n % 65536 == 0 && n / 2 ^ 23 % 2 == 0) (Instr.fuse (fld 7 n 16)) = _
  rw [zero_ok _ z, e0]
theorem region idx : Statement (.region idx) := by
  have h := shape19 0x52 (by decide) idx
  refine of_bits rfl h.1 fun n hn _ => ?_
  obtain ⟨ho, e0, z⟩ := h.2 n hn
  refine high ho (by decide) ?_
  show zero (n / 2 ^ 5 % 524288 == 0) (Instr.region (fld 5 n 0)) = _
  rw [zero_ok _ z, e0]
theorem rdid w d sl : Statement (.rdid w d sl) := by
  have h := shape20 0x53 (by decide) w d sl
  refine of_bits rfl h.1 fun n hn _ => ?_
  obtain ⟨ho, e0, e1, e2, z⟩ := h.2 n hn
  refine high ho (by decide) ?_
  show zero (n / 2 ^ 8 % 256 == 0) (Instr.rdid (bit n 23) (fld 7 n 16) (fld 8 n 0)) = _
  rw [zero_ok _ z, e0, e1, e2]
theorem mrd w d a b : Statement (.mrd w d a b) := by
  have h := shape10 0x54 (by decide) w d a b
  refine of_bits rfl h.1 fun n hn _ => ?_
  obtain ⟨ho, e0, e1, e2, e3⟩ := h.2 n hn
  refine high ho (by decide) ?_
  show Except.ok (Instr.mrd (bit n 23) (fld 7 n 16) (fld 8 n 8) (fld 8 n 0)) = _
  rw [e0, e1, e2, e3]
theorem strd w d : Statement (.strd w d) := by
  have h := shape21 0x55 (by decide) w d
  refine of_bits rfl h.1 fun n hn _ => ?_
  obtain ⟨ho, e0, e1, z⟩ := h.2 n hn
  refine high ho (by decide) ?_
  show zero (n % 65536 == 0) (Instr.strd (bit n 23) (fld 7 n 16)) = _
  rw [zero_ok _ z, e0, e1]
theorem gmov w d a : Statement (.gmov w d a) := by
  have h := shape8 0x58 (by decide) w d a
  refine of_bits rfl h.1 fun n hn _ => ?_
  obtain ⟨ho, e0, e1, e2, z⟩ := h.2 n hn
  refine high ho (by decide) ?_
  show zero (n % 256 == 0) (Instr.gmov (bit n 23) (fld 7 n 16) (fld 8 n 8)) = _
  rw [zero_ok _ z, e0, e1, e2]
theorem gmovi w d imm : Statement (.gmovi w d imm) := by
  have h := shape9 0x59 (by decide) w d imm
  refine of_bits rfl h.1 fun n hn _ => ?_
  obtain ⟨ho, e0, e1, e2⟩ := h.2 n hn
  refine high ho (by decide) ?_
  show Except.ok (Instr.gmovi (bit n 23) (fld 7 n 16) (fld 16 n 0)) = _
  rw [e0, e1, e2]
theorem gmovhi w d imm : Statement (.gmovhi w d imm) := by
  have h := shape9 0x5A (by decide) w d imm
  refine of_bits rfl h.1 fun n hn _ => ?_
  obtain ⟨ho, e0, e1, e2⟩ := h.2 n hn
  refine high ho (by decide) ?_
  show Except.ok (Instr.gmovhi (bit n 23) (fld 7 n 16) (fld 16 n 0)) = _
  rw [e0, e1, e2]
theorem gadd w d a b : Statement (.gadd w d a b) := by
  have h := shape10 0x5B (by decide) w d a b
  refine of_bits rfl h.1 fun n hn _ => ?_
  obtain ⟨ho, e0, e1, e2, e3⟩ := h.2 n hn
  refine high ho (by decide) ?_
  show Except.ok (Instr.gadd (bit n 23) (fld 7 n 16) (fld 8 n 8) (fld 8 n 0)) = _
  rw [e0, e1, e2, e3]
theorem gaddi w d a imm : Statement (.gaddi w d a imm) := by
  have h := shape10 0x5C (by decide) w d a imm
  refine of_bits rfl h.1 fun n hn _ => ?_
  obtain ⟨ho, e0, e1, e2, e3⟩ := h.2 n hn
  refine high ho (by decide) ?_
  show Except.ok (Instr.gaddi (bit n 23) (fld 7 n 16) (fld 8 n 8) (fld 8 n 0)) = _
  rw [e0, e1, e2, e3]
theorem gsub w d a b : Statement (.gsub w d a b) := by
  have h := shape10 0x5D (by decide) w d a b
  refine of_bits rfl h.1 fun n hn _ => ?_
  obtain ⟨ho, e0, e1, e2, e3⟩ := h.2 n hn
  refine high ho (by decide) ?_
  show Except.ok (Instr.gsub (bit n 23) (fld 7 n 16) (fld 8 n 8) (fld 8 n 0)) = _
  rw [e0, e1, e2, e3]
theorem gmul w d a b : Statement (.gmul w d a b) := by
  have h := shape10 0x5E (by decide) w d a b
  refine of_bits rfl h.1 fun n hn _ => ?_
  obtain ⟨ho, e0, e1, e2, e3⟩ := h.2 n hn
  refine high ho (by decide) ?_
  show Except.ok (Instr.gmul (bit n 23) (fld 7 n 16) (fld 8 n 8) (fld 8 n 0)) = _
  rw [e0, e1, e2, e3]
theorem gand w d a b : Statement (.gand w d a b) := by
  have h := shape10 0x5F (by decide) w d a b
  refine of_bits rfl h.1 fun n hn _ => ?_
  obtain ⟨ho, e0, e1, e2, e3⟩ := h.2 n hn
  refine high ho (by decide) ?_
  show Except.ok (Instr.gand (bit n 23) (fld 7 n 16) (fld 8 n 8) (fld 8 n 0)) = _
  rw [e0, e1, e2, e3]
theorem gor w d a b : Statement (.gor w d a b) := by
  have h := shape10 0x60 (by decide) w d a b
  refine of_bits rfl h.1 fun n hn _ => ?_
  obtain ⟨ho, e0, e1, e2, e3⟩ := h.2 n hn
  refine high ho (by decide) ?_
  show Except.ok (Instr.gor (bit n 23) (fld 7 n 16) (fld 8 n 8) (fld 8 n 0)) = _
  rw [e0, e1, e2, e3]
theorem gxor w d a b : Statement (.gxor w d a b) := by
  have h := shape10 0x61 (by decide) w d a b
  refine of_bits rfl h.1 fun n hn _ => ?_
  obtain ⟨ho, e0, e1, e2, e3⟩ := h.2 n hn
  refine high ho (by decide) ?_
  show Except.ok (Instr.gxor (bit n 23) (fld 7 n 16) (fld 8 n 8) (fld 8 n 0)) = _
  rw [e0, e1, e2, e3]
theorem gshift w d a b : Statement (.gshift w d a b) := by
  have h := shape10 0x62 (by decide) w d a b
  refine of_bits rfl h.1 fun n hn _ => ?_
  obtain ⟨ho, e0, e1, e2, e3⟩ := h.2 n hn
  refine high ho (by decide) ?_
  show Except.ok (Instr.gshift (bit n 23) (fld 7 n 16) (fld 8 n 8) (fld 8 n 0)) = _
  rw [e0, e1, e2, e3]
theorem gcmp cond p a b : Statement (.gcmp cond p a b) := by
  have h := shape11 0x63 (by decide) cond p a b
  refine of_bits rfl h.1 fun n hn _ => ?_
  obtain ⟨ho, e0, e1, e2, e3, z⟩ := h.2 n hn
  refine high ho (by decide) ?_
  show zero (n / 2 ^ 23 % 2 == 0) (Instr.gcmp (fld 4 n 19) (fld 3 n 16) (fld 8 n 8) (fld 8 n 0)) = _
  rw [zero_ok _ z, e0, e1, e2, e3]
theorem gminmax w d a b : Statement (.gminmax w d a b) := by
  have h := shape10 0x64 (by decide) w d a b
  refine of_bits rfl h.1 fun n hn _ => ?_
  obtain ⟨ho, e0, e1, e2, e3⟩ := h.2 n hn
  refine high ho (by decide) ?_
  show Except.ok (Instr.gminmax (bit n 23) (fld 7 n 16) (fld 8 n 8) (fld 8 n 0)) = _
  rw [e0, e1, e2, e3]
theorem gadd64 w d a b : Statement (.gadd64 w d a b) := by
  have h := shape10 0x65 (by decide) w d a b
  refine of_bits rfl h.1 fun n hn _ => ?_
  obtain ⟨ho, e0, e1, e2, e3⟩ := h.2 n hn
  refine high ho (by decide) ?_
  show Except.ok (Instr.gadd64 (bit n 23) (fld 7 n 16) (fld 8 n 8) (fld 8 n 0)) = _
  rw [e0, e1, e2, e3]
theorem gbcast w d a b : Statement (.gbcast w d a b) := by
  have h := shape10 0x66 (by decide) w d a b
  refine of_bits rfl h.1 fun n hn _ => ?_
  obtain ⟨ho, e0, e1, e2, e3⟩ := h.2 n hn
  refine high ho (by decide) ?_
  show Except.ok (Instr.gbcast (bit n 23) (fld 7 n 16) (fld 8 n 8) (fld 8 n 0)) = _
  rw [e0, e1, e2, e3]
theorem vbcast w d a : Statement (.vbcast w d a) := by
  have h := shape8 0x67 (by decide) w d a
  refine of_bits rfl h.1 fun n hn _ => ?_
  obtain ⟨ho, e0, e1, e2, z⟩ := h.2 n hn
  refine high ho (by decide) ?_
  show zero (n % 256 == 0) (Instr.vbcast (bit n 23) (fld 7 n 16) (fld 8 n 8)) = _
  rw [zero_ok _ z, e0, e1, e2]
theorem ldg sz d a off : Statement (.ldg sz d a off) := by
  have h := shape22 0x68 (by decide) sz d a off
  refine of_bits rfl h.1 fun n hn _ => ?_
  obtain ⟨ho, e0, e1, e2, e3⟩ := h.2 n hn
  refine high ho (by decide) ?_
  show Except.ok (Instr.ldg (fld 2 n 22) (fld 7 n 15) (fld 7 n 8) (fld 8 n 0)) = _
  rw [e0, e1, e2, e3]
theorem stg sz d a off : Statement (.stg sz d a off) := by
  have h := shape22 0x69 (by decide) sz d a off
  refine of_bits rfl h.1 fun n hn _ => ?_
  obtain ⟨ho, e0, e1, e2, e3⟩ := h.2 n hn
  refine high ho (by decide) ?_
  show Except.ok (Instr.stg (fld 2 n 22) (fld 7 n 15) (fld 7 n 8) (fld 8 n 0)) = _
  rw [e0, e1, e2, e3]
theorem lds sz d a off : Statement (.lds sz d a off) := by
  have h := shape22 0x6A (by decide) sz d a off
  refine of_bits rfl h.1 fun n hn _ => ?_
  obtain ⟨ho, e0, e1, e2, e3⟩ := h.2 n hn
  refine high ho (by decide) ?_
  show Except.ok (Instr.lds (fld 2 n 22) (fld 7 n 15) (fld 7 n 8) (fld 8 n 0)) = _
  rw [e0, e1, e2, e3]
theorem sts sz d a off : Statement (.sts sz d a off) := by
  have h := shape22 0x6B (by decide) sz d a off
  refine of_bits rfl h.1 fun n hn _ => ?_
  obtain ⟨ho, e0, e1, e2, e3⟩ := h.2 n hn
  refine high ho (by decide) ?_
  show Except.ok (Instr.sts (fld 2 n 22) (fld 7 n 15) (fld 7 n 8) (fld 8 n 0)) = _
  rw [e0, e1, e2, e3]
theorem ldv sz d a off : Statement (.ldv sz d a off) := by
  have h := shape22 0x6C (by decide) sz d a off
  refine of_bits rfl h.1 fun n hn _ => ?_
  obtain ⟨ho, e0, e1, e2, e3⟩ := h.2 n hn
  refine high ho (by decide) ?_
  show Except.ok (Instr.ldv (fld 2 n 22) (fld 7 n 15) (fld 7 n 8) (fld 8 n 0)) = _
  rw [e0, e1, e2, e3]
theorem stv sz d a off : Statement (.stv sz d a off) := by
  have h := shape22 0x6D (by decide) sz d a off
  refine of_bits rfl h.1 fun n hn _ => ?_
  obtain ⟨ho, e0, e1, e2, e3⟩ := h.2 n hn
  refine high ho (by decide) ?_
  show Except.ok (Instr.stv (fld 2 n 22) (fld 7 n 15) (fld 7 n 8) (fld 8 n 0)) = _
  rw [e0, e1, e2, e3]
theorem atomg aop sz d a off : Statement (.atomg aop sz d a off) := by
  have h := shape23 0x6E (by decide) aop sz d a off
  refine of_bits rfl h.1 fun n hn _ => ?_
  obtain ⟨ho, e0, e1, e2, e3, e4⟩ := h.2 n hn
  refine high ho (by decide) ?_
  show Except.ok (Instr.atomg (fld 4 n 20) (bit n 19) (fld 7 n 12) (fld 7 n 5) (fld 5 n 0)) = _
  rw [e0, e1, e2, e3, e4]
theorem atoms aop sz d a off : Statement (.atoms aop sz d a off) := by
  have h := shape23 0x6F (by decide) aop sz d a off
  refine of_bits rfl h.1 fun n hn _ => ?_
  obtain ⟨ho, e0, e1, e2, e3, e4⟩ := h.2 n hn
  refine high ho (by decide) ?_
  show Except.ok (Instr.atoms (fld 4 n 20) (bit n 19) (fld 7 n 12) (fld 7 n 5) (fld 5 n 0)) = _
  rw [e0, e1, e2, e3, e4]
theorem atomv aop sz d a off : Statement (.atomv aop sz d a off) := by
  have h := shape23 0x70 (by decide) aop sz d a off
  refine of_bits rfl h.1 fun n hn _ => ?_
  obtain ⟨ho, e0, e1, e2, e3, e4⟩ := h.2 n hn
  refine high ho (by decide) ?_
  show Except.ok (Instr.atomv (fld 4 n 20) (bit n 19) (fld 7 n 12) (fld 7 n 5) (fld 5 n 0)) = _
  rw [e0, e1, e2, e3, e4]
theorem txb d n : Statement (.txb d n) := by
  have h := shape17 0x71 (by decide) d n
  refine of_bits rfl h.1 fun n hn _ => ?_
  obtain ⟨ho, e0, e1, z⟩ := h.2 n hn
  refine high ho (by decide) ?_
  show zero (n / 2 ^ 8 % 256 == 0 && n / 2 ^ 23 % 2 == 0) (Instr.txb (fld 7 n 16) (fld 8 n 0)) = _
  rw [zero_ok _ z, e0, e1]
theorem txe d : Statement (.txe d) := by
  have h := shape18 0x72 (by decide) d
  refine of_bits rfl h.1 fun n hn _ => ?_
  obtain ⟨ho, e0, z⟩ := h.2 n hn
  refine high ho (by decide) ?_
  show zero (n % 65536 == 0 && n / 2 ^ 23 % 2 == 0) (Instr.txe (fld 7 n 16)) = _
  rw [zero_ok _ z, e0]
theorem txa code : Statement (.txa code) := by
  have h := shape24 0x73 (by decide) code
  refine of_bits rfl h.1 fun n hn _ => ?_
  obtain ⟨ho, e0, z⟩ := h.2 n hn
  refine high ho (by decide) ?_
  show zero (n / 2 ^ 8 % 65536 == 0) (Instr.txa (fld 8 n 0)) = _
  rw [zero_ok _ z, e0]
theorem fence scope kind paths : Statement (.fence scope kind paths) := by
  have h := shape25 0x74 (by decide) scope kind paths
  refine of_bits rfl h.1 fun n hn _ => ?_
  obtain ⟨ho, e0, e1, e2, z⟩ := h.2 n hn
  refine high ho (by decide) ?_
  show zero (n / 2 ^ 9 % 512 == 0 && n / 2 ^ 23 % 2 == 0) (Instr.fence (fld 3 n 20) (fld 2 n 18) (fld 9 n 0)) = _
  rw [zero_ok _ z, e0, e1, e2]
theorem tfence scope : Statement (.tfence scope) := by
  have h := shape26 0x75 (by decide) scope
  refine of_bits rfl h.1 fun n hn _ => ?_
  obtain ⟨ho, e0, z⟩ := h.2 n hn
  refine high ho (by decide) ?_
  show zero (n % 1048576 == 0 && n / 2 ^ 23 % 2 == 0) (Instr.tfence (fld 3 n 20)) = _
  rw [zero_ok _ z, e0]
theorem waitu cmp sp sz d a : Statement (.waitu cmp sp sz d a) := by
  have h := shape27 0x76 (by decide) cmp sp sz d a
  refine of_bits rfl h.1 fun n hn _ => ?_
  obtain ⟨ho, e0, e1, e2, e3, e4, z⟩ := h.2 n hn
  refine high ho (by decide) ?_
  show zero (n % 16 == 0) (Instr.waitu (fld 3 n 21) (fld 2 n 19) (bit n 18) (fld 7 n 11) (fld 7 n 4)) = _
  rw [zero_ok _ z, e0, e1, e2, e3, e4]
theorem waitc path a : Statement (.waitc path a) := by
  have h := shape7 0x77 (by decide) path a
  refine of_bits rfl h.1 fun n hn _ => ?_
  obtain ⟨ho, e0, e1, z⟩ := h.2 n hn
  refine high ho (by decide) ?_
  show zero (n % 256 == 0 && n / 2 ^ 23 % 2 == 0) (Instr.waitc (fld 7 n 16) (fld 8 n 8)) = _
  rw [zero_ok _ z, e0, e1]
theorem mma g a an tb : Statement (.mma g a an tb) := by
  have h := shape28 0x78 (by decide) g a an tb
  refine of_bits rfl h.1 fun n hn _ => ?_
  obtain ⟨ho, e0, e1, e2, e3, z⟩ := h.2 n hn
  refine high ho (by decide) ?_
  show zero (n / 2 ^ 23 % 2 == 0) (Instr.mma (fld 7 n 16) (fld 8 n 8) (fld 3 n 5) (fld 5 n 0)) = _
  rw [zero_ok _ z, e0, e1, e2, e3]
theorem copy g wup win dsp ssp : Statement (.copy g wup win dsp ssp) := by
  have h := shape29 0x79 (by decide) g wup win dsp ssp
  refine of_bits rfl h.1 fun n hn _ => ?_
  obtain ⟨ho, e0, e1, e2, e3, e4, z⟩ := h.2 n hn
  refine high ho (by decide) ?_
  show zero (n / 2 ^ 8 % 256 == 0 && n / 2 ^ 23 % 2 == 0) (Instr.copy (fld 7 n 16) (bit n 7) (fld 3 n 4) (fld 2 n 2) (fld 2 n 0)) = _
  rw [zero_ok _ z, e0, e1, e2, e3, e4]
theorem gather g a sx esz vault scat : Statement (.gather g a sx esz vault scat) := by
  have h := shape30 0x7A (by decide) g a sx esz vault scat
  refine of_bits rfl h.1 fun n hn _ => ?_
  obtain ⟨ho, e0, e1, e2, e3, e4, e5, z⟩ := h.2 n hn
  refine high ho (by decide) ?_
  show zero (n / 2 ^ 5 % 8 == 0 && n / 2 ^ 23 % 2 == 0) (Instr.gather (fld 7 n 16) (fld 8 n 8) (bit n 4) (fld 2 n 2) (bit n 1) (bit n 0)) = _
  rw [zero_ok _ z, e0, e1, e2, e3, e4, e5]
theorem coll g n : Statement (.coll g n) := by
  have h := shape17 0x7B (by decide) g n
  refine of_bits rfl h.1 fun n hn _ => ?_
  obtain ⟨ho, e0, e1, z⟩ := h.2 n hn
  refine high ho (by decide) ?_
  show zero (n / 2 ^ 8 % 256 == 0 && n / 2 ^ 23 % 2 == 0) (Instr.coll (fld 7 n 16) (fld 8 n 0)) = _
  rw [zero_ok _ z, e0, e1]
theorem launch g : Statement (.launch g) := by
  have h := shape18 0x7C (by decide) g
  refine of_bits rfl h.1 fun n hn _ => ?_
  obtain ⟨ho, e0, z⟩ := h.2 n hn
  refine high ho (by decide) ?_
  show zero (n % 65536 == 0 && n / 2 ^ 23 % 2 == 0) (Instr.launch (fld 7 n 16)) = _
  rw [zero_ok _ z, e0]
theorem msend g n : Statement (.msend g n) := by
  have h := shape17 0x7D (by decide) g n
  refine of_bits rfl h.1 fun n hn _ => ?_
  obtain ⟨ho, e0, e1, z⟩ := h.2 n hn
  refine high ho (by decide) ?_
  show zero (n / 2 ^ 8 % 256 == 0 && n / 2 ^ 23 % 2 == 0) (Instr.msend (fld 7 n 16) (fld 8 n 0)) = _
  rw [zero_ok _ z, e0, e1]
theorem popc w d a : Statement (.popc w d a) := by
  have h := shape31 0x7F 0x01 (by decide) (by decide) w d a
  refine of_bits rfl h.1 fun n hn _ => ?_
  obtain ⟨ho, hs, e0, e1, e2⟩ := h.2 n hn
  refine high ho (by decide) ?_
  show decodeSecondary n = _
  unfold decodeSecondary
  rw [hs]
  show Except.ok (Instr.popc (bit n 23) (fld 7 n 16) (fld 8 n 8)) = _
  rw [e0, e1, e2]
theorem clz w d a : Statement (.clz w d a) := by
  have h := shape31 0x7F 0x02 (by decide) (by decide) w d a
  refine of_bits rfl h.1 fun n hn _ => ?_
  obtain ⟨ho, hs, e0, e1, e2⟩ := h.2 n hn
  refine high ho (by decide) ?_
  show decodeSecondary n = _
  unfold decodeSecondary
  rw [hs]
  show Except.ok (Instr.clz (bit n 23) (fld 7 n 16) (fld 8 n 8)) = _
  rw [e0, e1, e2]
theorem brev w d a : Statement (.brev w d a) := by
  have h := shape31 0x7F 0x03 (by decide) (by decide) w d a
  refine of_bits rfl h.1 fun n hn _ => ?_
  obtain ⟨ho, hs, e0, e1, e2⟩ := h.2 n hn
  refine high ho (by decide) ?_
  show decodeSecondary n = _
  unfold decodeSecondary
  rw [hs]
  show Except.ok (Instr.brev (bit n 23) (fld 7 n 16) (fld 8 n 8)) = _
  rw [e0, e1, e2]
theorem bfi w d a : Statement (.bfi w d a) := by
  have h := shape31 0x7F 0x04 (by decide) (by decide) w d a
  refine of_bits rfl h.1 fun n hn _ => ?_
  obtain ⟨ho, hs, e0, e1, e2⟩ := h.2 n hn
  refine high ho (by decide) ?_
  show decodeSecondary n = _
  unfold decodeSecondary
  rw [hs]
  show Except.ok (Instr.bfi (bit n 23) (fld 7 n 16) (fld 8 n 8)) = _
  rw [e0, e1, e2]
theorem yield : Statement (.yield) := by
  have h := shape32 0x7F 0x10 (by decide) (by decide)
  refine of_bits rfl h.1 fun n hn _ => ?_
  obtain ⟨ho, hs, z⟩ := h.2 n hn
  refine high ho (by decide) ?_
  show decodeSecondary n = _
  unfold decodeSecondary
  rw [hs]
  show zero (n / 2 ^ 8 % 65536 == 0) (Instr.yield) = _
  rw [zero_ok _ z]
theorem setpl d a : Statement (.setpl d a) := by
  have h := shape33 0x7F 0x11 (by decide) (by decide) d a
  refine of_bits rfl h.1 fun n hn _ => ?_
  obtain ⟨ho, hs, e0, e1, z⟩ := h.2 n hn
  refine high ho (by decide) ?_
  show decodeSecondary n = _
  unfold decodeSecondary
  rw [hs]
  show zero (n / 2 ^ 23 % 2 == 0) (Instr.setpl (fld 7 n 16) (fld 8 n 8)) = _
  rw [zero_ok _ z, e0, e1]
theorem rdclk d : Statement (.rdclk d) := by
  have h := shape15 0x7F 0x12 (by decide) (by decide) d
  refine of_bits rfl h.1 fun n hn _ => ?_
  obtain ⟨ho, hs, e0, z⟩ := h.2 n hn
  refine high ho (by decide) ?_
  show decodeSecondary n = _
  unfold decodeSecondary
  rw [hs]
  show zero (n / 2 ^ 8 % 256 == 0 && n / 2 ^ 23 % 2 == 0) (Instr.rdclk (fld 7 n 16)) = _
  rw [zero_ok _ z, e0]
theorem rdsync d : Statement (.rdsync d) := by
  have h := shape15 0x7F 0x13 (by decide) (by decide) d
  refine of_bits rfl h.1 fun n hn _ => ?_
  obtain ⟨ho, hs, e0, z⟩ := h.2 n hn
  refine high ho (by decide) ?_
  show decodeSecondary n = _
  unfold decodeSecondary
  rw [hs]
  show zero (n / 2 ^ 8 % 256 == 0 && n / 2 ^ 23 % 2 == 0) (Instr.rdsync (fld 7 n 16)) = _
  rw [zero_ok _ z, e0]
theorem rdprog d : Statement (.rdprog d) := by
  have h := shape15 0x7F 0x14 (by decide) (by decide) d
  refine of_bits rfl h.1 fun n hn _ => ?_
  obtain ⟨ho, hs, e0, z⟩ := h.2 n hn
  refine high ho (by decide) ?_
  show decodeSecondary n = _
  unfold decodeSecondary
  rw [hs]
  show zero (n / 2 ^ 8 % 256 == 0 && n / 2 ^ 23 % 2 == 0) (Instr.rdprog (fld 7 n 16)) = _
  rw [zero_ok _ z, e0]
theorem rdnrg d : Statement (.rdnrg d) := by
  have h := shape15 0x7F 0x15 (by decide) (by decide) d
  refine of_bits rfl h.1 fun n hn _ => ?_
  obtain ⟨ho, hs, e0, z⟩ := h.2 n hn
  refine high ho (by decide) ?_
  show decodeSecondary n = _
  unfold decodeSecondary
  rw [hs]
  show zero (n / 2 ^ 8 % 256 == 0 && n / 2 ^ 23 % 2 == 0) (Instr.rdnrg (fld 7 n 16)) = _
  rw [zero_ok _ z, e0]
theorem ckpt d : Statement (.ckpt d) := by
  have h := shape15 0x7F 0x16 (by decide) (by decide) d
  refine of_bits rfl h.1 fun n hn _ => ?_
  obtain ⟨ho, hs, e0, z⟩ := h.2 n hn
  refine high ho (by decide) ?_
  show decodeSecondary n = _
  unfold decodeSecondary
  rw [hs]
  show zero (n / 2 ^ 8 % 256 == 0 && n / 2 ^ 23 % 2 == 0) (Instr.ckpt (fld 7 n 16)) = _
  rw [zero_ok _ z, e0]
theorem view v a : Statement (.view v a) := by
  have h := shape33 0x7F 0x17 (by decide) (by decide) v a
  refine of_bits rfl h.1 fun n hn _ => ?_
  obtain ⟨ho, hs, e0, e1, z⟩ := h.2 n hn
  refine high ho (by decide) ?_
  show decodeSecondary n = _
  unfold decodeSecondary
  rw [hs]
  show zero (n / 2 ^ 23 % 2 == 0) (Instr.view (fld 7 n 16) (fld 8 n 8)) = _
  rw [zero_ok _ z, e0, e1]
theorem sfmt k a : Statement (.sfmt k a) := by
  have h := shape34 0x7F 0x18 (by decide) (by decide) k a
  refine of_bits rfl h.1 fun n hn _ => ?_
  obtain ⟨ho, hs, e0, e1, z⟩ := h.2 n hn
  refine high ho (by decide) ?_
  show decodeSecondary n = _
  unfold decodeSecondary
  rw [hs]
  show zero (n / 2 ^ 19 % 32 == 0) (Instr.sfmt (fld 3 n 16) (fld 8 n 8)) = _
  rw [zero_ok _ z, e0, e1]
theorem gang d a : Statement (.gang d a) := by
  have h := shape33 0x7F 0x19 (by decide) (by decide) d a
  refine of_bits rfl h.1 fun n hn _ => ?_
  obtain ⟨ho, hs, e0, e1, z⟩ := h.2 n hn
  refine high ho (by decide) ?_
  show decodeSecondary n = _
  unfold decodeSecondary
  rw [hs]
  show zero (n / 2 ^ 23 % 2 == 0) (Instr.gang (fld 7 n 16) (fld 8 n 8)) = _
  rw [zero_ok _ z, e0, e1]
theorem pin d a : Statement (.pin d a) := by
  have h := shape33 0x7F 0x1A (by decide) (by decide) d a
  refine of_bits rfl h.1 fun n hn _ => ?_
  obtain ⟨ho, hs, e0, e1, z⟩ := h.2 n hn
  refine high ho (by decide) ?_
  show decodeSecondary n = _
  unfold decodeSecondary
  rw [hs]
  show zero (n / 2 ^ 23 % 2 == 0) (Instr.pin (fld 7 n 16) (fld 8 n 8)) = _
  rw [zero_ok _ z, e0, e1]
theorem unpin d a : Statement (.unpin d a) := by
  have h := shape33 0x7F 0x1B (by decide) (by decide) d a
  refine of_bits rfl h.1 fun n hn _ => ?_
  obtain ⟨ho, hs, e0, e1, z⟩ := h.2 n hn
  refine high ho (by decide) ?_
  show decodeSecondary n = _
  unfold decodeSecondary
  rw [hs]
  show zero (n / 2 ^ 23 % 2 == 0) (Instr.unpin (fld 7 n 16) (fld 8 n 8)) = _
  rw [zero_ok _ z, e0, e1]
theorem msr n a : Statement (.msr n a) := by
  have h := shape33 0x7F 0x1C (by decide) (by decide) n a
  refine of_bits rfl h.1 fun n hn _ => ?_
  obtain ⟨ho, hs, e0, e1, z⟩ := h.2 n hn
  refine high ho (by decide) ?_
  show decodeSecondary n = _
  unfold decodeSecondary
  rw [hs]
  show zero (n / 2 ^ 23 % 2 == 0) (Instr.msr (fld 7 n 16) (fld 8 n 8)) = _
  rw [zero_ok _ z, e0, e1]
theorem mrs d a : Statement (.mrs d a) := by
  have h := shape33 0x7F 0x1D (by decide) (by decide) d a
  refine of_bits rfl h.1 fun n hn _ => ?_
  obtain ⟨ho, hs, e0, e1, z⟩ := h.2 n hn
  refine high ho (by decide) ?_
  show decodeSecondary n = _
  unfold decodeSecondary
  rw [hs]
  show zero (n / 2 ^ 23 % 2 == 0) (Instr.mrs (fld 7 n 16) (fld 8 n 8)) = _
  rw [zero_ok _ z, e0, e1]
theorem bari a : Statement (.bari a) := by
  have h := shape16 0x7F 0x20 (by decide) (by decide) a
  refine of_bits rfl h.1 fun n hn _ => ?_
  obtain ⟨ho, hs, e0, z⟩ := h.2 n hn
  refine high ho (by decide) ?_
  show decodeSecondary n = _
  unfold decodeSecondary
  rw [hs]
  show zero (n / 2 ^ 16 % 256 == 0) (Instr.bari (fld 8 n 8)) = _
  rw [zero_ok _ z, e0]
theorem bara d a : Statement (.bara d a) := by
  have h := shape33 0x7F 0x21 (by decide) (by decide) d a
  refine of_bits rfl h.1 fun n hn _ => ?_
  obtain ⟨ho, hs, e0, e1, z⟩ := h.2 n hn
  refine high ho (by decide) ?_
  show decodeSecondary n = _
  unfold decodeSecondary
  rw [hs]
  show zero (n / 2 ^ 23 % 2 == 0) (Instr.bara (fld 7 n 16) (fld 8 n 8)) = _
  rw [zero_ok _ z, e0, e1]
theorem barx a : Statement (.barx a) := by
  have h := shape16 0x7F 0x22 (by decide) (by decide) a
  refine of_bits rfl h.1 fun n hn _ => ?_
  obtain ⟨ho, hs, e0, z⟩ := h.2 n hn
  refine high ho (by decide) ?_
  show decodeSecondary n = _
  unfold decodeSecondary
  rw [hs]
  show zero (n / 2 ^ 16 % 256 == 0) (Instr.barx (fld 8 n 8)) = _
  rw [zero_ok _ z, e0]
theorem barw d a : Statement (.barw d a) := by
  have h := shape33 0x7F 0x23 (by decide) (by decide) d a
  refine of_bits rfl h.1 fun n hn _ => ?_
  obtain ⟨ho, hs, e0, e1, z⟩ := h.2 n hn
  refine high ho (by decide) ?_
  show decodeSecondary n = _
  unfold decodeSecondary
  rw [hs]
  show zero (n / 2 ^ 23 % 2 == 0) (Instr.barw (fld 7 n 16) (fld 8 n 8)) = _
  rw [zero_ok _ z, e0, e1]
theorem stagea d a : Statement (.stagea d a) := by
  have h := shape33 0x7F 0x24 (by decide) (by decide) d a
  refine of_bits rfl h.1 fun n hn _ => ?_
  obtain ⟨ho, hs, e0, e1, z⟩ := h.2 n hn
  refine high ho (by decide) ?_
  show decodeSecondary n = _
  unfold decodeSecondary
  rw [hs]
  show zero (n / 2 ^ 23 % 2 == 0) (Instr.stagea (fld 7 n 16) (fld 8 n 8)) = _
  rw [zero_ok _ z, e0, e1]
theorem stager a : Statement (.stager a) := by
  have h := shape16 0x7F 0x25 (by decide) (by decide) a
  refine of_bits rfl h.1 fun n hn _ => ?_
  obtain ⟨ho, hs, e0, z⟩ := h.2 n hn
  refine high ho (by decide) ?_
  show decodeSecondary n = _
  unfold decodeSecondary
  rw [hs]
  show zero (n / 2 ^ 16 % 256 == 0) (Instr.stager (fld 8 n 8)) = _
  rw [zero_ok _ z, e0]
theorem ringadv k a : Statement (.ringadv k a) := by
  have h := shape33 0x7F 0x26 (by decide) (by decide) k a
  refine of_bits rfl h.1 fun n hn _ => ?_
  obtain ⟨ho, hs, e0, e1, z⟩ := h.2 n hn
  refine high ho (by decide) ?_
  show decodeSecondary n = _
  unfold decodeSecondary
  rw [hs]
  show zero (n / 2 ^ 23 % 2 == 0) (Instr.ringadv (fld 7 n 16) (fld 8 n 8)) = _
  rw [zero_ok _ z, e0, e1]
theorem lqrd d : Statement (.lqrd d) := by
  have h := shape15 0x7F 0x27 (by decide) (by decide) d
  refine of_bits rfl h.1 fun n hn _ => ?_
  obtain ⟨ho, hs, e0, z⟩ := h.2 n hn
  refine high ho (by decide) ?_
  show decodeSecondary n = _
  unfold decodeSecondary
  rw [hs]
  show zero (n / 2 ^ 8 % 256 == 0 && n / 2 ^ 23 % 2 == 0) (Instr.lqrd (fld 7 n 16)) = _
  rw [zero_ok _ z, e0]
theorem l1wb a : Statement (.l1wb a) := by
  have h := shape16 0x7F 0x30 (by decide) (by decide) a
  refine of_bits rfl h.1 fun n hn _ => ?_
  obtain ⟨ho, hs, e0, z⟩ := h.2 n hn
  refine high ho (by decide) ?_
  show decodeSecondary n = _
  unfold decodeSecondary
  rw [hs]
  show zero (n / 2 ^ 16 % 256 == 0) (Instr.l1wb (fld 8 n 8)) = _
  rw [zero_ok _ z, e0]
theorem l1inv a : Statement (.l1inv a) := by
  have h := shape16 0x7F 0x31 (by decide) (by decide) a
  refine of_bits rfl h.1 fun n hn _ => ?_
  obtain ⟨ho, hs, e0, z⟩ := h.2 n hn
  refine high ho (by decide) ?_
  show decodeSecondary n = _
  unfold decodeSecondary
  rw [hs]
  show zero (n / 2 ^ 16 % 256 == 0) (Instr.l1inv (fld 8 n 8)) = _
  rw [zero_ok _ z, e0]
theorem groupEnd x0 : Statement (.groupEnd x0) := no_word rfl
theorem strandMerge x0 x1 x2 : Statement (.strandMerge x0 x1 x2) := no_word rfl
theorem joinDeadline x0 x1 : Statement (.joinDeadline x0 x1) := no_word rfl
theorem switchHoldBreak x0 x1 : Statement (.switchHoldBreak x0 x1) := no_word rfl
theorem fuseWaitTimeout x0 : Statement (.fuseWaitTimeout x0) := no_word rfl
theorem loadWriteback x0 : Statement (.loadWriteback x0) := no_word rfl
theorem storeAck x0 : Statement (.storeAck x0) := no_word rfl
theorem atomicStep x0 x1 : Statement (.atomicStep x0 x1) := no_word rfl
theorem atomicReturn x0 : Statement (.atomicReturn x0) := no_word rfl
theorem pageWalkComplete x0 : Statement (.pageWalkComplete x0) := no_word rfl
theorem sectorFillArrival x0 : Statement (.sectorFillArrival x0) := no_word rfl
theorem l2FillArrival x0 : Statement (.l2FillArrival x0) := no_word rfl
theorem l1WritebackArrival x0 : Statement (.l1WritebackArrival x0) := no_word rfl
theorem directoryInvalidation x0 : Statement (.directoryInvalidation x0) := no_word rfl
theorem invalidationAck x0 : Statement (.invalidationAck x0) := no_word rfl
theorem remoteEvictionNotice x0 x1 : Statement (.remoteEvictionNotice x0 x1) := no_word rfl
theorem writeAckReceipt x0 : Statement (.writeAckReceipt x0) := no_word rfl
theorem fenceComplete x0 : Statement (.fenceComplete x0) := no_word rfl
theorem txeCommit x0 : Statement (.txeCommit x0) := no_word rfl
theorem pinResult x0 : Statement (.pinResult x0) := no_word rfl
theorem cfetchLanding x0 : Statement (.cfetchLanding x0) := no_word rfl
theorem engineQueueAdmit x0 : Statement (.engineQueueAdmit x0) := no_word rfl
theorem copyChunkLanding x0 : Statement (.copyChunkLanding x0) := no_word rfl
theorem gatherElementLanding x0 : Statement (.gatherElementLanding x0) := no_word rfl
theorem collChunk x0 x1 x2 : Statement (.collChunk x0 x1 x2) := no_word rfl
theorem msendDelivery x0 x1 : Statement (.msendDelivery x0 x1) := no_word rfl
theorem msendRetry x0 x1 : Statement (.msendRetry x0 x1) := no_word rfl
theorem mmaRendezvousOpen x0 : Statement (.mmaRendezvousOpen x0) := no_word rfl
theorem mmaResultWrite x0 : Statement (.mmaResultWrite x0) := no_word rfl
theorem mmaAbsentTimeout x0 : Statement (.mmaAbsentTimeout x0) := no_word rfl
theorem waituWake x0 : Statement (.waituWake x0) := no_word rfl
theorem waituTimeout x0 : Statement (.waituTimeout x0) := no_word rfl
theorem spillWalk x0 : Statement (.spillWalk x0) := no_word rfl
theorem scratchpadMonitorWake x0 : Statement (.scratchpadMonitorWake x0) := no_word rfl
theorem scratchpadMonitorExpiry x0 : Statement (.scratchpadMonitorExpiry x0) := no_word rfl
theorem barrierAbandonMark x0 : Statement (.barrierAbandonMark x0) := no_word rfl
theorem launchPolicyApply x0 : Statement (.launchPolicyApply x0) := no_word rfl
theorem fabricPromotion x0 : Statement (.fabricPromotion x0) := no_word rfl
theorem writebackFlitOffer x0 : Statement (.writebackFlitOffer x0) := no_word rfl
theorem queuePacketTake x0 : Statement (.queuePacketTake x0) := no_word rfl
theorem quote x0 : Statement (.quote x0) := no_word rfl
theorem accept x0 : Statement (.accept x0) := no_word rfl
theorem decline x0 : Statement (.decline x0) := no_word rfl
theorem launchPacket x0 : Statement (.launchPacket x0) := no_word rfl
theorem waitPacket x0 : Statement (.waitPacket x0) := no_word rfl
theorem waitPacketSatisfied x0 : Statement (.waitPacketSatisfied x0) := no_word rfl
theorem waitPageTimeout x0 : Statement (.waitPageTimeout x0) := no_word rfl
theorem signalPacket x0 : Statement (.signalPacket x0) := no_word rfl
theorem copyPacket x0 : Statement (.copyPacket x0) := no_word rfl
theorem timestampPacket x0 : Statement (.timestampPacket x0) := no_word rfl
theorem checkpointPacket x0 : Statement (.checkpointPacket x0) := no_word rfl
theorem rollbackPacket x0 : Statement (.rollbackPacket x0) := no_word rfl
theorem quotationExpiry x0 : Statement (.quotationExpiry x0) := no_word rfl
theorem acceptedValidityExpiry x0 : Statement (.acceptedValidityExpiry x0) := no_word rfl
theorem queueSlotSwap x0 x1 : Statement (.queueSlotSwap x0 x1) := no_word rfl
theorem cohortPlacement x0 : Statement (.cohortPlacement x0) := no_word rfl
theorem childPlacement x0 : Statement (.childPlacement x0) := no_word rfl
theorem childCompletion x0 : Statement (.childCompletion x0) := no_word rfl
theorem launchCompletion x0 : Statement (.launchCompletion x0) := no_word rfl
theorem preemptionDecision x0 : Statement (.preemptionDecision x0) := no_word rfl
theorem drainWatchdog x0 : Statement (.drainWatchdog x0) := no_word rfl
theorem teamSave x0 : Statement (.teamSave x0) := no_word rfl
theorem teamRestore x0 : Statement (.teamRestore x0) := no_word rfl
theorem powerCapReached x0 : Statement (.powerCapReached x0) := no_word rfl
theorem levelChangeComplete x0 : Statement (.levelChangeComplete x0) := no_word rfl
theorem primerWindow x0 : Statement (.primerWindow x0) := no_word rfl
theorem droopDetect x0 : Statement (.droopDetect x0) := no_word rfl
theorem droopRecovery x0 x1 : Statement (.droopRecovery x0 x1) := no_word rfl
theorem thermalEvent x0 x1 : Statement (.thermalEvent x0 x1) := no_word rfl
theorem dutyWindowSlide x0 : Statement (.dutyWindowSlide x0) := no_word rfl
theorem dutyClear x0 x1 : Statement (.dutyClear x0 x1) := no_word rfl
theorem sramsplitWrite x0 x1 : Statement (.sramsplitWrite x0 x1) := no_word rfl
theorem injWrite x0 x1 : Statement (.injWrite x0 x1) := no_word rfl
theorem energyMeterFold x0 : Statement (.energyMeterFold x0) := no_word rfl
theorem tmaxCheck x0 : Statement (.tmaxCheck x0) := no_word rfl
theorem ckiExpiry x0 : Statement (.ckiExpiry x0) := no_word rfl
theorem intervalClose : Statement (.intervalClose) := no_word rfl
theorem pairComparison x0 : Statement (.pairComparison x0) := no_word rfl
theorem eccUncorrectable x0 : Statement (.eccUncorrectable x0) := no_word rfl
theorem hostWrite x0 x1 : Statement (.hostWrite x0 x1) := no_word rfl
theorem hostRead x0 x1 : Statement (.hostRead x0 x1) := no_word rfl
theorem ingressFrame x0 x1 x2 x3 x4 x5 : Statement (.ingressFrame x0 x1 x2 x3 x4 x5) := no_word rfl
theorem ptpMessage x0 x1 : Statement (.ptpMessage x0 x1) := no_word rfl
theorem syncLockChange x0 : Statement (.syncLockChange x0) := no_word rfl
theorem noMasterHeard : Statement (.noMasterHeard) := no_word rfl
theorem eventMessageTransmission x0 : Statement (.eventMessageTransmission x0) := no_word rfl
theorem ethernetEgress x0 x1 x2 : Statement (.ethernetEgress x0 x1 x2) := no_word rfl
theorem functionReady x0 x1 : Statement (.functionReady x0 x1) := no_word rfl
theorem functionReset x0 x1 : Statement (.functionReset x0 x1) := no_word rfl
theorem powerOnReset : Statement (.powerOnReset) := no_word rfl
theorem deviceReset : Statement (.deviceReset) := no_word rfl
theorem createq x0 : Statement (.createq x0) := no_word rfl
theorem destroyq x0 : Statement (.destroyq x0) := no_word rfl
theorem setcap x0 : Statement (.setcap x0) := no_word rfl
theorem setregions x0 : Statement (.setregions x0) := no_word rfl
theorem undercoat x0 : Statement (.undercoat x0) := no_word rfl
theorem fwupdate x0 : Statement (.fwupdate x0) := no_word rfl
theorem attest x0 : Statement (.attest x0) := no_word rfl
theorem setfilter x0 : Statement (.setfilter x0) := no_word rfl
theorem mailboxBadreq x0 : Statement (.mailboxBadreq x0) := no_word rfl
theorem scrub x0 : Statement (.scrub x0) := no_word rfl
theorem undercoatDone : Statement (.undercoatDone) := no_word rfl
theorem undercoatRestore : Statement (.undercoatRestore) := no_word rfl
theorem reservationRevoked x0 x1 : Statement (.reservationRevoked x0 x1) := no_word rfl
theorem translationEventServed x0 x1 : Statement (.translationEventServed x0 x1) := no_word rfl
theorem writeToMemoryComplete x0 : Statement (.writeToMemoryComplete x0) := no_word rfl

end Sys2Proof.Laws.Encoding
end

