-- ==== Sys2Proof/Laws/Rest.lean ====
section
/-! SUPPORT. Which fields of the state the shared operations on caches, memory and scratchpads may change, said once for each. -/

namespace Sys2Proof.Machine

/-- From s to t only clusters and dies have changed: energy. -/
def Charges (s t : State) : Prop := t = { s with clusters := t.clusters, dies := t.dies }
/-- From s to t only memory, slices, clusters, dies, the dust sheet and the reliability record have changed. -/
def Behind (s t : State) : Prop :=
  t = { s with mem := t.mem, sectorPoison := t.sectorPoison, clusters := t.clusters, dies := t.dies, slices := t.slices, dust := t.dust
               rel := t.rel }
/-- From s to t only the fields of `Behind` and groups, teams and queues have changed: a write, and the waits that it decides. -/
def Writes (s t : State) : Prop :=
  t = { s with mem := t.mem, sectorPoison := t.sectorPoison, vaultPoison := t.vaultPoison, clusters := t.clusters, dies := t.dies
               slices := t.slices, dust := t.dust, rel := t.rel, groups := t.groups, teams := t.teams, queues := t.queues }

section
variable {s t u : State}

theorem Charges.refl (s : State) : Charges s s := rfl
theorem Charges.trans (h : Charges s t) (k : Charges t u) : Charges s u := by unfold Charges at *; rw [k, h]
theorem Behind.refl (s : State) : Behind s s := rfl
theorem Behind.trans (h : Behind s t) (k : Behind t u) : Behind s u := by unfold Behind at *; rw [k, h]
theorem Writes.refl (s : State) : Writes s s := rfl
theorem Writes.trans (h : Writes s t) (k : Writes t u) : Writes s u := by unfold Writes at *; rw [k, h]
theorem Charges.behind (h : Charges s t) : Behind s t := by unfold Charges at h; unfold Behind; rw [h]
theorem Behind.writes (h : Behind s t) : Writes s t := by unfold Behind at h; unfold Writes; rw [h]

theorem Charges.cur (h : Charges s t) : t.cur = s.cur := by rw [h]
theorem Charges.groups (h : Charges s t) : t.groups = s.groups := by rw [h]
theorem Charges.group (h : Charges s t) (k : Nat) : t.group k = s.group k := by unfold State.group; rw [h.groups]
theorem Charges.ops (h : Charges s t) : t.ops = s.ops := by rw [h]
theorem Charges.op (h : Charges s t) (k : Nat) : t.op k = s.op k := by unfold State.op; rw [h.ops]
theorem Charges.mem (h : Charges s t) : t.mem = s.mem := by rw [h]
theorem Charges.slices (h : Charges s t) : t.slices = s.slices := by rw [h]
theorem Charges.slice (h : Charges s t) (k : Nat) : t.slice k = s.slice k := by unfold State.slice; rw [h.slices]
theorem Charges.homeByte (h : Charges s t) (pa : Nat) : t.homeByte pa = s.homeByte pa := by
  unfold State.homeByte State.memByte; rw [h.slice, h.mem]
theorem Behind.cur (h : Behind s t) : t.cur = s.cur := by rw [h]
theorem Behind.groups (h : Behind s t) : t.groups = s.groups := by rw [h]
theorem Behind.group (h : Behind s t) (k : Nat) : t.group k = s.group k := by unfold State.group; rw [h.groups]
theorem Behind.ops (h : Behind s t) : t.ops = s.ops := by rw [h]
theorem Behind.op (h : Behind s t) (k : Nat) : t.op k = s.op k := by unfold State.op; rw [h.ops]
theorem Behind.reqs (h : Behind s t) : t.reqs = s.reqs := by rw [h]
theorem Behind.teams (h : Behind s t) : t.teams = s.teams := by rw [h]
theorem Behind.team (h : Behind s t) (k : Nat) : t.team k = s.team k := by unfold State.team; rw [h.teams]
theorem Writes.cur (h : Writes s t) : t.cur = s.cur := by rw [h]
theorem Writes.ops (h : Writes s t) : t.ops = s.ops := by rw [h]
theorem Writes.op (h : Writes s t) (k : Nat) : t.op k = s.op k := by unfold State.op; rw [h.ops]
theorem Writes.reqs (h : Writes s t) : t.reqs = s.reqs := by rw [h]
theorem Writes.packets (h : Writes s t) : t.packets = s.packets := by rw [h]
theorem Writes.launches (h : Writes s t) : t.launches = s.launches := by rw [h]
theorem Writes.quotes (h : Writes s t) : t.quotes = s.quotes := by rw [h]

theorem Writes.ite {c : Prop} [Decidable c] (h : Writes s t) (k : Writes s u) : Writes s (if c then t else u) := by
  split
  · exact h
  · exact k

/-- A fold of steps that each stay within a relation. -/
theorem Charges.foldl {α : Type} (f : State → α → State) (hf : ∀ s a, Charges s (f s a)) (l : List α) (s : State) : Charges s (l.foldl f s) := by
  induction l generalizing s with
  | nil => exact .refl s
  | cons a l ih => exact (hf s a).trans (ih _)
theorem Behind.foldl {α : Type} (f : State → α → State) (hf : ∀ s a, Behind s (f s a)) (l : List α) (s : State) : Behind s (l.foldl f s) := by
  induction l generalizing s with
  | nil => exact .refl s
  | cons a l ih => exact (hf s a).trans (ih _)
theorem Writes.foldl {α : Type} (f : State → α → State) (hf : ∀ s a, Writes s (f s a)) (l : List α) (s : State) : Writes s (l.foldl f s) := by
  induction l generalizing s with
  | nil => exact .refl s
  | cons a l ih => exact (hf s a).trans (ih _)

/-! ### Energy -/

theorem Charges.addMeter (s : State) (c q e : Nat) : Charges s (s.addMeter c q e) := rfl
theorem Charges.charge (s : State) (c q a : Nat) : Charges s (s.charge c q a) := by
  unfold State.charge
  split
  · split <;> rfl
  · rfl
theorem Charges.chargeMe (s : State) (a : Nat) : Charges s (s.chargeMe a) := .charge _ _ _ _
theorem Charges.chargeOverhead (s : State) (d a : Nat) : Charges s (s.chargeOverhead d a) := rfl
theorem Charges.chargeTag (s : State) (d q a : Nat) : Charges s (s.chargeTag d q a) := by
  unfold State.chargeTag
  split
  · split <;> rfl
  · split <;> rfl

/-! ### The home slice -/

theorem Behind.modSlice (s : State) (k : Nat) (f : Slice → Slice) : Behind s (s.modSlice k f) := rfl
theorem Behind.flushLine (s : State) (key l : Nat) : Behind s (s.flushLine key l) := by
  unfold State.flushLine
  dsimp only
  split
  · generalize List.foldl _ s.mem _ = m
    generalize List.foldl _ s.sectorPoison _ = sp
    exact Behind.trans (t := { s with mem := m, sectorPoison := sp }) rfl
      (Behind.trans (Charges.chargeTag _ _ _ _).behind (u := State.setSlice _ _ _) rfl)
  · exact .refl s
theorem Behind.allocLine (s : State) (key l q : Nat) : Behind s (s.allocLine key l q) := by
  unfold State.allocLine
  dsimp only
  split
  · exact .refl s
  · split
    · rfl
    · split
      · rfl
      · exact (Behind.flushLine s key _).trans rfl
theorem Behind.logUndo (s : State) (l q : Nat) : Behind s (s.logUndo l q) := by
  unfold State.logUndo
  dsimp only
  split
  · exact .refl s
  · split
    · split <;> rfl
    · exact .refl s
theorem Behind.fillHome (s : State) (l q : Nat) (ks : List Nat) : Behind s (s.fillHome l q ks) := by
  unfold State.fillHome
  dsimp only
  split
  · exact .allocLine s _ l q
  · exact (Behind.allocLine s _ l q).trans (.modSlice _ _ _)
theorem Behind.pastSlice (s : State) (l : Nat) (m : BitVec 256) (d : Tab Byte) (p : BitVec 4) (o : Nat) : Behind s (s.pastSlice l m d p o) := by
  unfold State.pastSlice
  generalize List.foldl _ s.mem _ = x
  generalize List.foldl _ s.sectorPoison _ = y
  exact Behind.trans (t := { s with mem := x, sectorPoison := y }) rfl (Charges.chargeTag _ _ _ _).behind
theorem Behind.dropCopy (s : State) (d l : Nat) : Behind s (s.dropCopy d l) := by
  unfold State.dropCopy
  split
  · exact .refl s
  · rfl

/-! ### Writes and the waits that they decide -/

theorem Writes.decideWait (s : State) (e : MonEntry) (c v : Nat) : Writes s (s.decideWait e c v) := by
  unfold State.decideWait
  dsimp only
  split <;> rfl
theorem Charges.chargeEval (s : State) (key : Nat) (e : MonEntry) : Charges s (s.chargeEval key e) := by
  unfold State.chargeEval
  split
  · exact .charge _ _ _ _
  · exact .charge _ _ _ _
  · rfl
theorem Writes.evalWords (s : State) (key : Nat) (ws : List Nat) : Writes s (s.evalWords key ws) := by
  unfold State.evalWords
  dsimp only
  have h : ∀ l : Tab MonEntry, Writes s (l.foldl (fun s x =>
      match (s.chargeEval key x.2).monHit x.2 with
      | some (c, v) => ((s.chargeEval key x.2).modSlice key fun y => { y with mon := y.mon.set {} x.1 {} }).decideWait x.2 c v
      | none => s.chargeEval key x.2) s) := fun l => by
    refine Writes.foldl _ (fun s x => ?_) l s
    have h1 := (Charges.chargeEval s key x.2).behind.writes
    generalize s.chargeEval key x.2 = v at h1 ⊢
    split
    · exact h1.trans ((Behind.modSlice _ _ _).writes.trans (Writes.decideWait _ _ _ _))
    · exact h1
  exact .ite ((h _).trans (Behind.modSlice _ _ _).writes) (h _)
theorem Writes.evalMon (s : State) (key pa n : Nat) : Writes s (s.evalMon key pa n) := .evalWords _ _ _
theorem Writes.stampLine (s : State) (l : Nat) (m : BitVec 256) (d : Tab Byte) (p : BitVec 4) (o : Nat) : Writes s (s.stampLine l m d p o) := by
  unfold State.stampLine
  dsimp only
  have h := (Behind.logUndo s l o).trans (Behind.allocLine _ (homeSlice (l * 256)) l o)
  generalize (s.logUndo l o).allocLine (homeSlice (l * 256)) l o = v at h ⊢
  generalize List.foldl _ 0#4 _ = z
  refine Writes.trans (Behind.writes ?_) (Writes.evalWords _ _ _)
  split
  · exact h.trans (.modSlice _ _ _)
  · exact (h.trans (.modSlice _ _ _)).trans (.pastSlice _ _ _ _ _ _)
theorem Writes.homeWrite (s : State) (l : Nat) (m : BitVec 256) (d : Tab Byte) (p : BitVec 4) (o : Nat) : Writes s (s.homeWrite l m d p o) := by
  unfold State.homeWrite
  exact (Writes.stampLine s l m d p o).trans ((Behind.foldl _ (fun s d => .dropCopy s d l) _ _).trans (.modSlice _ _ _)).writes
theorem Writes.globalWrite (s : State) (pa : Nat) (bs : List Byte) (o : Nat) (p : Bool) : Writes s (s.globalWrite pa bs o p) := by
  unfold State.globalWrite
  exact Writes.foldl _ (fun _ _ => .homeWrite _ _ _ _ _ _) _ _
theorem Writes.vaultPut (s : State) (pa : Nat) (bs : List Byte) (m : Bool) : Writes s (s.vaultPut pa bs m) := rfl
theorem Writes.vaultWrite (s : State) (pa : Nat) (bs : List Byte) (m : Bool) : Writes s (s.vaultWrite pa bs m) :=
  (Writes.vaultPut s pa bs m).trans (.evalMon _ _ _ _)
theorem Writes.sysWrite (s : State) (pa : Nat) (bs : List Byte) (o : Nat) : Writes s (s.sysWrite pa bs o) := by
  unfold State.sysWrite
  split
  · exact .refl s
  · exact ((Writes.globalWrite s pa bs o false).trans (Behind.foldl _ (fun _ _ => .flushLine _ _ _) _ _).writes).trans rfl

/-! ### Scratchpads -/

theorem Writes.scrPut (s : State) (x a : Nat) (bs : List Byte) (k m : Bool) : Writes s (s.scrPut x a bs k m) := by
  unfold State.scrPut
  dsimp only
  generalize List.foldl _ (s.team x).poison _ = pz
  exact .ite rfl rfl
theorem Writes.evalScr (s : State) (x a n : Nat) : Writes s (s.evalScr x a n) := by
  unfold State.evalScr
  refine Writes.foldl _ (fun s e => ?_) _ s
  obtain ⟨k, e⟩ := e
  dsimp only
  refine .ite ?_ (.refl s)
  generalize hv : State.charge _ _ _ _ = v
  have h : Writes s v := hv ▸ (Charges.charge _ _ _ _).behind.writes
  split
  · exact h.trans rfl
  · exact h
theorem Writes.scrWrite (s : State) (x a : Nat) (bs : List Byte) (k m : Bool) : Writes s (s.scrWrite x a bs k m) :=
  (Writes.scrPut s x a bs k m).trans (.evalScr _ _ _ _)
theorem Writes.barrierUpdate (s : State) (x a da db : Nat) : Writes s (s.barrierUpdate x a da db) := .scrWrite _ _ _ _ _ _

end

end Sys2Proof.Machine
end

