-- ==== Sys2Proof/Tests/Slice0.lean ====
section
/-! SUPPORT. The author's own tests: an ill-formed term for each check, a word of the spec's encoding for each instruction, worked examples,
and for each clause of each statement a small state that meets what it asks. -/

set_option maxRecDepth 20000

namespace Sys2Proof.Tests

open Sys2Proof Sys2Proof.Machine

/-! ### WellFormed refuses (03 Table 3-8) -/

theorem test_illformed_opcode : decode 0x0F000000 = .error .opcode ∧ decode 0x56000000 = .error .opcode ∧ decode 0x57000000 = .error .opcode ∧ decode 0x7E000000 = .error .opcode := by decide

theorem test_illformed_opcode_zero : decode 0x80000000 = .error .opcode ∧ decode 0x00000001 = .error .opcode := by decide

theorem test_illformed_secondary : decode 0x7F000000 = .error .secondary ∧ decode 0x7F000005 = .error .secondary ∧ decode 0x7F000032 = .error .secondary := by decide

theorem test_illformed_reserved_bit : decode 0x01010000 = .error .reservedBit ∧ decode 0x40800000 = .error .reservedBit ∧ decode 0x7F800010 = .error .reservedBit := by decide

theorem test_illformed_pmov_code : decode 0x47000002 = .error .code := by decide

theorem test_illformed_branch : Instr.check (.bdiv 0 0 1) = some .code ∧ Instr.check (.loop 0 1) = some .code ∧ Instr.check (.jmpf 64 0 0) = some .code
    ∧ Instr.check (.cfetch 64 0) = some .code ∧ Instr.check (.cfetch 0 1) = some .register ∧ Instr.check (.cfetch 0 0x80) = some .latchField := by decide

theorem test_illformed_latch_field : Instr.check (.mov false 0 0x88) = some .latchField ∧ Instr.check (.iadd false 0 0 0x90) = some .latchField ∧ Instr.check (.gmov false 0 0xC0) = some .latchField := by decide

theorem test_illformed_pair : Instr.check (.iadd64 false 1 0 0) = some .register ∧ Instr.check (.lea false 0 1 0) = some .register ∧ Instr.check (.bfi false 0 1) = some .register
    ∧ Instr.check (.gadd64 false 0 0 3) = some .register ∧ Instr.check (.gminmax false 1 0 0) = some .register := by decide

theorem test_illformed_immediate : Instr.check (.shli false 0 0 32) = some .code ∧ Instr.check (.shri false 0 0 32) = some .code ∧ Instr.check (.sari false 0 0 32) = some .code
    ∧ Instr.check (.frnd false 0 0 5) = some .code ∧ Instr.check (.cvt false 0 0 0x50) = some .code ∧ Instr.check (.cvt false 0 0 0x80) = some .code := by decide

theorem test_illformed_condition : Instr.check (.icmp 6 0 0 0) = some .code ∧ Instr.check (.ucmp 6 0 0 0) = some .code ∧ Instr.check (.fcmp 14 0 0 0) = some .code
    ∧ Instr.check (.gcmp 10 0 0 0) = some .code ∧ Instr.check (.vote false 1 0 0) = some .register ∧ Instr.check (.mset 1 2) = some .code
    ∧ Instr.check (.mset 0 3) = some .code := by decide

theorem test_illformed_cross : Instr.check (.shflx false 0 0 0xC0) = some .code ∧ Instr.check (.qxch false 0 0 7) = some .code ∧ Instr.check (.lred false 0 0 0x30) = some .code
    ∧ Instr.check (.lred false 0 0 11) = some .code ∧ Instr.check (.split 0 3) = some .code ∧ Instr.check (.rdid false 0 11) = some .code
    ∧ Instr.check (.mrd false 0 0 4) = some .code ∧ Instr.check (.mrd false 0 1 0) = some .code ∧ Instr.check (.gbcast false 0 0x80 0) = some .latchField := by decide

theorem test_illformed_access : Instr.check (.ldg 1 1 0 0) = some .register ∧ Instr.check (.ldg 2 2 0 0) = some .register ∧ Instr.check (.ldg 0 0 1 0) = some .register
    ∧ Instr.check (.stg 3 0 0 0) = some .code ∧ Instr.check (.lds 1 1 0 0) = some .register ∧ Instr.check (.sts 3 0 0 0) = some .code
    ∧ Instr.check (.ldv 0 0 1 0) = some .register ∧ Instr.check (.stv 3 0 0 0) = some .code := by decide

theorem test_illformed_atomic : Instr.check (.atomg 13 false 0 0 0) = some .code ∧ Instr.check (.atoms 10 true 0 0 0) = some .code ∧ Instr.check (.atomv 9 false 1 0 0) = some .register
    ∧ Instr.check (.atoms 9 true 2 0 0) = some .register ∧ Instr.check (.atomg 0 false 0 1 0) = some .register := by decide

theorem test_illformed_order : Instr.check (.txb 0 0) = some .code ∧ Instr.check (.fence 5 1 1) = some .code ∧ Instr.check (.fence 0 0 1) = some .code
    ∧ Instr.check (.fence 0 1 0) = some .code ∧ Instr.check (.tfence 5) = some .code ∧ Instr.check (.waitu 0 3 false 0 0) = some .code
    ∧ Instr.check (.waitu 0 0 false 0 1) = some .register ∧ Instr.check (.waitu 0 0 false 127 0) = some .register ∧ Instr.check (.waitc 9 0) = some .code := by decide

theorem test_illformed_engine : Instr.check (.mma 124 0 0 0) = some .register ∧ Instr.check (.mma 0 32 0 0) = some .register ∧ Instr.check (.copy 115 false 0 0 0) = some .register
    ∧ Instr.check (.copy 0 false 0 3 0) = some .code ∧ Instr.check (.copy 0 false 0 0 3) = some .code ∧ Instr.check (.gather 124 0 false 0 false false) = some .register
    ∧ Instr.check (.coll 121 0) = some .register ∧ Instr.check (.launch 117) = some .register ∧ Instr.check (.msend 125 0) = some .register := by decide

theorem test_illformed_system : Instr.check (.rdclk 1) = some .register ∧ Instr.check (.rdsync 1) = some .register ∧ Instr.check (.rdprog 1) = some .register
    ∧ Instr.check (.rdnrg 1) = some .register ∧ Instr.check (.lqrd 1) = some .register ∧ Instr.check (.view 3 0) = some .code
    ∧ Instr.check (.sfmt 0 1) = some .register ∧ Instr.check (.gang 0 1) = some .register ∧ Instr.check (.pin 0 1) = some .register := by decide

theorem test_illformed_barrier : Instr.check (.bari 126) = some .register ∧ Instr.check (.bara 0 127) = some .register ∧ Instr.check (.barx 127) = some .register
    ∧ Instr.check (.barw 127 0) = some .register ∧ Instr.check (.stagea 1 0) = some .register ∧ Instr.check (.stager 126) = some .register
    ∧ Instr.check (.ringadv 0 0) = some .code ∧ Instr.check (.l1wb 1) = some .register ∧ Instr.check (.l1inv 0x82) = some .latchField := by decide

/-! ### Decoding: a word for each instruction, its bits from the row of the opcode table, and the worked words of the spec -/

theorem test_decode_1 : decode 0x00000000 = .ok .nop
    ∧ decode 0x8100FFF3 = .ok (.bra 0xfff3)
    ∧ decode 0x02A0FFF3 = .ok (.bany 5 0xfff3)
    ∧ decode 0x83A0FFF3 = .ok (.ball 5 0xfff3)
    ∧ decode 0x04A0FFF3 = .ok (.bnone 5 0xfff3)
    ∧ decode 0x85B3FFF3 = .ok (.bdiv 5 0x13 0xfff3)
    ∧ decode 0x06001234 = .ok (.join 0x1234)
    ∧ decode 0x8700FFF3 = .ok (.call 0xfff3) := by decide

theorem test_decode_2 : decode 0x08000000 = .ok .ret
    ∧ decode 0x8924FFF3 = .ok (.loop 0x24 0xfff3)
    ∧ decode 0x0A2BC516 = .ok (.jmpf 0x2b 0xc5 0x16)
    ∧ decode 0x8B2B3800 = .ok (.cfetch 0x2b 0x38)
    ∧ decode 0x0C000BAD = .ok (.trap 0xbad)
    ∧ decode 0x8D000000 = .ok .exit
    ∧ decode 0x0E000000 = .ok .eret
    ∧ decode 0x90A53800 = .ok (.mov true 0x25 0x38) := by decide

theorem test_decode_3 : decode 0x11A49BCD = .ok (.movi true 0x24 0x9bcd)
    ∧ decode 0x92A49BCD = .ok (.movhi true 0x24 0x9bcd)
    ∧ decode 0x13A4380C = .ok (.iadd true 0x24 0x38 0xc)
    ∧ decode 0x94A4389D = .ok (.iaddi true 0x24 0x38 0x9d)
    ∧ decode 0x15A4380C = .ok (.isub true 0x24 0x38 0xc)
    ∧ decode 0x96A4380C = .ok (.imul true 0x24 0x38 0xc)
    ∧ decode 0x17A4380C = .ok (.imulh true 0x24 0x38 0xc)
    ∧ decode 0x98A4380C = .ok (.imulhu true 0x24 0x38 0xc) := by decide

theorem test_decode_4 : decode 0x19A4380C = .ok (.imad true 0x24 0x38 0xc)
    ∧ decode 0x9AA4380C = .ok (.iadd64 true 0x24 0x38 0xc)
    ∧ decode 0x1BA4380C = .ok (.lea true 0x24 0x38 0xc)
    ∧ decode 0x9CA4380C = .ok (.and true 0x24 0x38 0xc)
    ∧ decode 0x1DA4380C = .ok (.or true 0x24 0x38 0xc)
    ∧ decode 0x9EA4380C = .ok (.xor true 0x24 0x38 0xc)
    ∧ decode 0x1FA4380C = .ok (.andn true 0x24 0x38 0xc)
    ∧ decode 0xA0A4380C = .ok (.shl true 0x24 0x38 0xc) := by decide

theorem test_decode_5 : decode 0x21A4380C = .ok (.shr true 0x24 0x38 0xc)
    ∧ decode 0xA2A4380C = .ok (.sar true 0x24 0x38 0xc)
    ∧ decode 0x23A4381D = .ok (.shli true 0x24 0x38 0x1d)
    ∧ decode 0xA4A4381D = .ok (.shri true 0x24 0x38 0x1d)
    ∧ decode 0x25A4381D = .ok (.sari true 0x24 0x38 0x1d)
    ∧ decode 0xA6A4380C = .ok (.imin true 0x24 0x38 0xc)
    ∧ decode 0x27A4380C = .ok (.imax true 0x24 0x38 0xc)
    ∧ decode 0xA8A4380C = .ok (.umin true 0x24 0x38 0xc) := by decide

theorem test_decode_6 : decode 0x29A4380C = .ok (.umax true 0x24 0x38 0xc)
    ∧ decode 0xAAA43800 = .ok (.iabs true 0x24 0x38)
    ∧ decode 0x2BA4380C = .ok (.bfe true 0x24 0x38 0xc)
    ∧ decode 0xACA4380C = .ok (.fadd true 0x24 0x38 0xc)
    ∧ decode 0x2DA4380C = .ok (.fsub true 0x24 0x38 0xc)
    ∧ decode 0xAEA4380C = .ok (.fmul true 0x24 0x38 0xc)
    ∧ decode 0x2FA4380C = .ok (.ffma true 0x24 0x38 0xc)
    ∧ decode 0xB0A4380C = .ok (.fmin true 0x24 0x38 0xc) := by decide

theorem test_decode_7 : decode 0x31A4380C = .ok (.fmax true 0x24 0x38 0xc)
    ∧ decode 0xB2A4380C = .ok (.hadd2 true 0x24 0x38 0xc)
    ∧ decode 0x33A4380C = .ok (.hmul2 true 0x24 0x38 0xc)
    ∧ decode 0xB4A4380C = .ok (.hfma2 true 0x24 0x38 0xc)
    ∧ decode 0x35A4380C = .ok (.badd2 true 0x24 0x38 0xc)
    ∧ decode 0xB6A4380C = .ok (.bmul2 true 0x24 0x38 0xc)
    ∧ decode 0x37A4380C = .ok (.bfma2 true 0x24 0x38 0xc)
    ∧ decode 0xB8A43800 = .ok (.frcp true 0x24 0x38) := by decide

theorem test_decode_8 : decode 0x39A43800 = .ok (.frsq true 0x24 0x38)
    ∧ decode 0xBAA43800 = .ok (.fexp2 true 0x24 0x38)
    ∧ decode 0x3BA43800 = .ok (.flog2 true 0x24 0x38)
    ∧ decode 0xBCA43808 = .ok (.cvt true 0x24 0x38 8)
    ∧ decode 0x3DA4380C = .ok (.fscale true 0x24 0x38 0xc)
    ∧ decode 0xBEA4380C = .ok (.qscale true 0x24 0x38 0xc)
    ∧ decode 0x3FA43803 = .ok (.frnd true 0x24 0x38 3)
    ∧ decode 0xC01D380C = .ok (.icmp 3 5 0x38 0xc) := by decide

theorem test_decode_9 : decode 0x4125380C = .ok (.ucmp 4 5 0x38 0xc)
    ∧ decode 0xC24D380C = .ok (.fcmp 9 5 0x38 0xc)
    ∧ decode 0x435D0306 = .ok (.plop 0xb 5 3 6)
    ∧ decode 0xC4A4380C = .ok (.sel true 0x24 0x38 0xc)
    ∧ decode 0x45A40602 = .ok (.vote true 0x24 6 2)
    ∧ decode 0xC6000601 = .ok (.mset 6 1)
    ∧ decode 0x47240000 = .ok (.pmovGet 0x24)
    ∧ decode 0xC7003801 = .ok (.pmovPut 0x38) := by decide

theorem test_decode_10 : decode 0x48A4380C = .ok (.dot8w true 0x24 0x38 0xc)
    ∧ decode 0xC9A4380C = .ok (.dot8i true 0x24 0x38 0xc)
    ∧ decode 0x4AA4380C = .ok (.dot4w true 0x24 0x38 0xc)
    ∧ decode 0xCBA4380C = .ok (.dot4i true 0x24 0x38 0xc)
    ∧ decode 0x4CA4380C = .ok (.shfl true 0x24 0x38 0xc)
    ∧ decode 0xCDA43853 = .ok (.shflx true 0x24 0x38 0x53)
    ∧ decode 0x4EA43802 = .ok (.qxch true 0x24 0x38 2)
    ∧ decode 0xCFA43803 = .ok (.lred true 0x24 0x38 3) := by decide

theorem test_decode_11 : decode 0x50240002 = .ok (.split 0x24 2)
    ∧ decode 0xD1240000 = .ok (.fuse 0x24)
    ∧ decode 0x52000013 = .ok (.region 0x13)
    ∧ decode 0xD3A40003 = .ok (.rdid true 0x24 3)
    ∧ decode 0x54A40503 = .ok (.mrd true 0x24 5 3)
    ∧ decode 0xD5A40000 = .ok (.strd true 0x24)
    ∧ decode 0x58A53800 = .ok (.gmov true 0x25 0x38)
    ∧ decode 0xD9A49BCD = .ok (.gmovi true 0x24 0x9bcd) := by decide

theorem test_decode_12 : decode 0x5AA49BCD = .ok (.gmovhi true 0x24 0x9bcd)
    ∧ decode 0xDBA4380C = .ok (.gadd true 0x24 0x38 0xc)
    ∧ decode 0x5CA4389D = .ok (.gaddi true 0x24 0x38 0x9d)
    ∧ decode 0xDDA4380C = .ok (.gsub true 0x24 0x38 0xc)
    ∧ decode 0x5EA4380C = .ok (.gmul true 0x24 0x38 0xc)
    ∧ decode 0xDFA4380C = .ok (.gand true 0x24 0x38 0xc)
    ∧ decode 0x60A4380C = .ok (.gor true 0x24 0x38 0xc)
    ∧ decode 0xE1A4380C = .ok (.gxor true 0x24 0x38 0xc) := by decide

theorem test_decode_13 : decode 0x62A4380C = .ok (.gshift true 0x24 0x38 0xc)
    ∧ decode 0xE34D380C = .ok (.gcmp 9 5 0x38 0xc)
    ∧ decode 0x64A4380C = .ok (.gminmax true 0x24 0x38 0xc)
    ∧ decode 0xE5A4380C = .ok (.gadd64 true 0x24 0x38 0xc)
    ∧ decode 0x66A4380C = .ok (.gbcast true 0x24 0x38 0xc)
    ∧ decode 0xE7A43800 = .ok (.vbcast true 0x24 0x38)
    ∧ decode 0x6892385A = .ok (.ldg 2 0x24 0x38 0x5a)
    ∧ decode 0xE992385A = .ok (.stg 2 0x24 0x38 0x5a) := by decide

theorem test_decode_14 : decode 0x6A92385A = .ok (.lds 2 0x24 0x38 0x5a)
    ∧ decode 0xEB92385A = .ok (.sts 2 0x24 0x38 0x5a)
    ∧ decode 0x6C92385A = .ok (.ldv 2 0x24 0x38 0x5a)
    ∧ decode 0xED92385A = .ok (.stv 2 0x24 0x38 0x5a)
    ∧ decode 0x6E3A471A = .ok (.atomg 3 true 0x24 0x38 0x1a)
    ∧ decode 0xEF3A471A = .ok (.atoms 3 true 0x24 0x38 0x1a)
    ∧ decode 0x703A471A = .ok (.atomv 3 true 0x24 0x38 0x1a)
    ∧ decode 0xF1240007 = .ok (.txb 0x24 7) := by decide

theorem test_decode_15 : decode 0x72240000 = .ok (.txe 0x24)
    ∧ decode 0xF300005D = .ok (.txa 0x5d)
    ∧ decode 0x74340015 = .ok (.fence 3 1 0x15)
    ∧ decode 0xF5300000 = .ok (.tfence 3)
    ∧ decode 0x76AD2380 = .ok (.waitu 5 1 true 0x24 0x38)
    ∧ decode 0xF7033800 = .ok (.waitc 3 0x38)
    ∧ decode 0x7824186B = .ok (.mma 0x24 0x18 3 0xb)
    ∧ decode 0xF92400D4 = .ok (.copy 0x24 true 5 1 0) := by decide

theorem test_decode_16 : decode 0x7A24381B = .ok (.gather 0x24 0x38 true 2 true true)
    ∧ decode 0xFB240004 = .ok (.coll 0x24 4)
    ∧ decode 0x7C240000 = .ok (.launch 0x24)
    ∧ decode 0xFD240008 = .ok (.msend 0x24 8)
    ∧ decode 0x7FA53801 = .ok (.popc true 0x25 0x38)
    ∧ decode 0xFFA43802 = .ok (.clz true 0x24 0x38)
    ∧ decode 0x7FA43803 = .ok (.brev true 0x24 0x38)
    ∧ decode 0xFFA53804 = .ok (.bfi true 0x25 0x38) := by decide

theorem test_decode_17 : decode 0x7F000010 = .ok .yield
    ∧ decode 0xFF243811 = .ok (.setpl 0x24 0x38)
    ∧ decode 0x7F240012 = .ok (.rdclk 0x24)
    ∧ decode 0xFF240013 = .ok (.rdsync 0x24)
    ∧ decode 0x7F240014 = .ok (.rdprog 0x24)
    ∧ decode 0xFF240015 = .ok (.rdnrg 0x24)
    ∧ decode 0x7F240016 = .ok (.ckpt 0x24)
    ∧ decode 0xFF023817 = .ok (.view 2 0x38) := by decide

theorem test_decode_18 : decode 0x7F053818 = .ok (.sfmt 5 0x38)
    ∧ decode 0xFF243819 = .ok (.gang 0x24 0x38)
    ∧ decode 0x7F24381A = .ok (.pin 0x24 0x38)
    ∧ decode 0xFF24381B = .ok (.unpin 0x24 0x38)
    ∧ decode 0x7F12381C = .ok (.msr 0x12 0x38)
    ∧ decode 0xFF24381D = .ok (.mrs 0x24 0x38)
    ∧ decode 0x7F003820 = .ok (.bari 0x38)
    ∧ decode 0xFF243821 = .ok (.bara 0x24 0x38) := by decide

theorem test_decode_19 : decode 0x7F003822 = .ok (.barx 0x38)
    ∧ decode 0xFF243823 = .ok (.barw 0x24 0x38)
    ∧ decode 0x7F243824 = .ok (.stagea 0x24 0x38)
    ∧ decode 0xFF003825 = .ok (.stager 0x38)
    ∧ decode 0x7F013826 = .ok (.ringadv 1 0x38)
    ∧ decode 0xFF240027 = .ok (.lqrd 0x24)
    ∧ decode 0x7F003830 = .ok (.l1wb 0x38)
    ∧ decode 0xFF003831 = .ok (.l1inv 0x38) := by decide

theorem test_decode_worked_vector : decode 0xE7040000 = .ok (.vbcast false 4 0) ∧ chainBit 0xE7040000 = true
    ∧ decode 0x11060001 = .ok (.movi false 6 1)
    ∧ decode 0x12011235 = .ok (.movhi false 1 0x1235)
    ∧ decode 0x1102ABCD = .ok (.movi false 2 0xABCD)
    ∧ decode 0x13010102 = .ok (.iadd false 1 1 2)
    ∧ decode 0x3C030208 = .ok (.cvt false 3 2 8)
    ∧ decode 0x54080000 = .ok (.mrd false 8 0 0) := by decide

theorem test_decode_worked_engines : decode 0x78280448 = .ok (.mma 0x28 4 2 8)
    ∧ decode 0x792800A8 = .ok (.copy 0x28 true 2 2 0)
    ∧ decode 0x7C280000 = .ok (.launch 0x28)
    ∧ decode 0x7D140008 = .ok (.msend 0x14 8)
    ∧ decode 0x7B3C0004 = .ok (.coll 0x3C 4)
    ∧ decode 0x7F060027 = .ok (.lqrd 6)
    ∧ decode 0x7F010C26 = .ok (.ringadv 1 0x0C)
    ∧ decode 0x7F1E1824 = .ok (.stagea 0x1E 0x18)
    ∧ decode 0x7F001825 = .ok (.stager 0x18) := by decide

theorem test_decode_worked_order : decode 0x7F0B0C19 = .ok (.gang 0x0B 0x0C)
    ∧ decode 0x7F031418 = .ok (.sfmt 3 0x14)
    ∧ decode 0x77030A00 = .ok (.waitc 3 0x0A)
    ∧ decode 0x7F000830 = .ok (.l1wb 8)
    ∧ decode 0x743C0011 = .ok (.fence 3 3 0x11)
    ∧ decode 0x75200000 = .ok (.tfence 2)
    ∧ decode 0x7F001420 = .ok (.bari 0x14)
    ∧ decode 0x7F0E1421 = .ok (.bara 0x0E 0x14)
    ∧ decode 0x7F001422 = .ok (.barx 0x14) := by decide

theorem test_encode_nop_unchained : encode true .nop = none ∧ encode false .nop = some 0 := by decide

/-! ### Small states -/

/-- A strand of four lanes at packet 1 of block 3, whose back-edges limit 1 governs. -/
def aStrand : Strand := { live := true, pc := pcOf 0 3 1, members := 0xF, exm := 0xF }
/-- A group of four lanes with 128 registers, of team 1 of launch 1. -/
def aGroup : Group :=
  { live := true, uid := 7, place := { launch := 1, team := 1, width := 4, regs := 512, depth := 2, qidx := 1, off := 4 }
    p := [(0, 0x5)], strands := [(0, aStrand)] }
/-- Its team, with 256 bytes of scratchpad. -/
def aTeam : Team := { live := true, launch := 1, lanes := 8, cohort := 1, size := 272, phase := .running }
/-- Its launch, with one limit, of 2 trips and a region set. -/
def aLaunch : Launch :=
  { live := true, qidx := 1, image := { limits := [{ n := 0, arg := none, seg := 0, blk := 0 }, { n := 2, arg := none, seg := 0, blk := 3 }], slots := 1, segs := [] } }
/-- Its code: block 3 with two packets and limit 1. -/
def aStore : IStore := { landed := true, bound := true, launch := 1, words := [(48, 0x4001)] }
/-- The machine with that group on quarter 0 of cluster 0. -/
def demo : State :=
  { State.reset with
    groups := [(0, aGroup)], teams := [(1, aTeam)], launches := [(1, aLaunch)]
    clusters := [(0, { istore := [(64, aStore)] })] }
/-- The same with a change to its group. -/
def demoG (f : Group → Group) : State := { demo with groups := [(0, f aGroup)] }
/-- The same with a change to its strand. -/
def demoS (f : Strand → Strand) : State := demoG fun g => { g with strands := [(0, f aStrand)] }
/-- The same with results of the group in latches L0, L2 and L5. -/
def demoL : State :=
  { demo with clusters := [(0, { quarters := [(0, { latches := [(0, { owner := 7, bits := 64 }), (2, { owner := 7, bits := 64, shared := true }),
      (5, { owner := 7, bits := 32 })] })] })] }
/-- Whether a word may issue, as a test. -/
def issues (s : State) (i : Instr) : Bool := legal i s && (usesOf i).latchesOpen s

theorem ready_of_issues {s : State} {i : Instr} (h : issues s i = true) : Ready i s := by
  simpa [issues, Ready] using h

/-! ### Every register word may issue -/

theorem test_ready_integer : ([.mov false 127 127, .movi true 0 0xFFFF, .movhi false 0 1, .iadd true 127 0 127, .iaddi false 1 2 0x80,
    .isub false 1 2 3, .imul false 1 2 3, .imulh false 1 2 3, .imulhu false 1 2 3, .imad false 1 2 3, .iadd64 false 126 0 2,
    .lea false 2 4 127, .and false 1 2 3, .or false 1 2 3, .xor false 1 2 3, .andn false 1 2 3, .imin false 1 2 3, .imax false 1 2 3,
    .umin false 1 2 3, .umax false 1 2 3, .iabs false 1 2] : List Instr).all (issues demo) = true := by decide

theorem test_ready_latches : ([.mov false 127 0x80, .iadd false 1 0x82 0x85, .iadd64 true 0 0x80 0x82, .gmov false 0 0x82] : List Instr).all (issues demoL)
    = true := by decide

theorem test_ready_shift : ([.shl false 1 2 3, .shr false 1 2 3, .sar false 1 2 3, .shli false 1 2 31, .shri false 1 2 31, .sari false 1 2 31]
    : List Instr).all (issues demo) = true := by decide

theorem test_shift_immediate : 32 ≤ (32 : BitVec 8).toNat ∧ issues demo (.shli false 1 2 32) = false := by decide

theorem test_ready_bits : ([.bfe false 1 2 3, .bfi false 1 2, .popc false 1 2, .clz false 1 2, .brev false 1 2] : List Instr).all (issues demo) = true := by
  decide

theorem test_bits_clz : (1 : Word) ≠ 0 ∧ (31 : Nat) < 32 ∧ clzW 1 = 31 := by decide

theorem test_ready_float : ([.fadd false 1 2 3, .fsub false 1 2 3, .fmul false 1 2 3, .ffma false 1 2 3, .fmin false 1 2 3, .fmax false 1 2 3,
    .hadd2 false 1 2 3, .hmul2 false 1 2 3, .hfma2 false 1 2 3, .badd2 false 1 2 3, .bmul2 false 1 2 3, .bfma2 false 1 2 3, .frcp false 1 2,
    .frsq false 1 2, .fexp2 false 1 2, .flog2 false 1 2, .cvt false 1 2 0x08, .fscale false 1 2 3, .qscale false 1 2 3, .frnd false 1 2 4]
    : List Instr).all (issues demo) = true := by decide

/-- The example of 06 R117: the fused result keeps what a product rounded first would lose. -/
theorem test_ffma_once : f32.fma 0x3F800001 0x3F800001 0xBF800002 = 0x28800000 := by decide

theorem test_float_nans : f32.val 0x7FC00003 = .nan false 3 ∧ (f32.val 0x3F800000).isNan = false ∧ f16.val 0xFE05 = .nan true 5
    ∧ b16.val 0x7FC1 = .nan false 1 ∧ f32.val 0x7F800000 = .inf false ∧ f32.val 0xFF800000 = .inf true ∧ f32.val 0x80000000 = .fin true 0 (-149) := by
  decide

theorem test_rounding : (0 : Int) ≤ 3 ∧ roundAt 0 false 12 0 3 false = 2 ∧ roundAt 1 false 12 0 3 false = 1 := by decide

theorem test_ready_dot : ([.dot8w false 1 2 3, .dot4w false 1 2 3, .dot8i false 1 2 3, .dot4i true 127 2 3] : List Instr).all (issues demo) = true := by decide

theorem test_ready_cross : ([.shfl false 1 2 3, .shflx false 1 2 0x3F, .shflx false 1 2 0x40, .shflx false 1 2 0xBF, .qxch false 1 2 6,
    .lred false 1 2 0x2A] : List Instr).all (issues demo) = true ∧ (0x3F : BitVec 8).toNat / 64 = 0 ∧ (0x40 : BitVec 8).toNat / 64 = 1
    ∧ (0xBF : BitVec 8).toNat / 64 = 2 := by decide

theorem test_ready_identity : ([.rdid false 127 10, .mrd false 126 7 3, .mrd true 0 0 0, .strd false 127] : List Instr).all (issues demo) = true := by decide

theorem test_ready_predicate : ([.icmp 5 7 1 2, .ucmp 5 7 1 2, .fcmp 13 7 1 2, .plop 6 7 0 1, .sel false 127 1 2, .vote false 126 7 0,
    .vote false 127 7 1, .vote false 127 7 2, .vote false 127 7 3, .mset 7 0, .mset 7 1, .mset 0 2, .pmovGet 127, .pmovPut 127] : List Instr).all
    (issues demo) = true := by decide

theorem test_float_compare : (f32.val 0x7FC00000).isNan = true ∧ (f32.val 0).isNan = false ∧ 0x80000000 % 2 ^ 31 = 0
    ∧ fcmpCond 0 0x80000000 0 = true := by decide

theorem test_ready_group : ([.gmov false 127 127, .gmovi false 0 1, .gmovhi false 0 1, .gadd false 1 2 3, .gaddi false 1 2 0x80, .gsub false 1 2 3,
    .gmul false 1 2 3, .gand false 1 2 3, .gor false 1 2 3, .gxor false 1 2 3, .gshift false 1 2 3, .gcmp 9 7 1 2, .gminmax false 126 1 2,
    .gadd64 false 126 2 4, .gbcast false 127 127 1, .vbcast true 127 0] : List Instr).all (issues demo) = true := by decide

theorem test_ready_view : ([.view 0 1, .view 1 1, .view 2 1, .sfmt 7 126, .gang 127 126, .region 31] : List Instr).all (issues demo) = true
    ∧ demo.seen.counter pMMA = 0 ∧ demo.regionSet 31 = none := by decide

/-- A gang register value that names two members, the first its own. -/
theorem test_gang_fits : (0x4400000000000020 : Dword).toNat / 2 ^ 61 = 2 ∧ (0x4400000000000020 : Dword).toNat / 2 ^ 58 % 8 = 1
    ∧ (0x2000000000000000 : Dword).toNat / 2 ^ 61 = 1 := by decide

theorem test_gang_busy : (demoG fun g => g.raise pMMA 1 0).seen.counter pMMA ≠ 0 ∧ issues (demoG fun g => g.raise pMMA 1 0) (.gang 0 0) = true := by
  decide

/-! ### Control flow -/

theorem test_ready_branch : ([.nop, .bra 28, .bany 7 0xFFFD, .ball 0 1, .bnone 0 1, .bdiv 0 1 1, .join 0, .join 1, .call 28, .ret, .loop 127 0,
    .jmpf 63 0 31, .trap 0, .exit, .yield] : List Instr).all (issues demo) = true := by decide

/-- Block 3 plus 28 is block 31, plus 29 and less 4 are outside; the limit of the block is 1 and permits one back-edge and no second. -/
theorem test_branch_bounds : pcBlk demo.str.pc = 3 ∧ demo.limOf 0 demo.str = 1 ∧ demo.backEdgeOk 0 demo.str = true
    ∧ (demoS fun st => { st with trips := [(1, 1)] }).backEdgeOk 0 { aStrand with trips := [(1, 1)] } = false := by decide

theorem test_fall_through : demo.after (demo.me.strand 0) = some { aStrand with pc := pcOf 0 4 0 }
    ∧ (demoS fun st => { st with pc := pcOf 0 31 1 }).after { aStrand with pc := pcOf 0 31 1 } = none := by decide

theorem test_reconverge : rsDeferred (rejoinEntry 0 4 0 0xC) = false ∧ rsDeferred (deferredEntry 0 4 0 0xC 5 1) = true
    ∧ rsSlot (rejoinEntry 0 4 0 0xC) = 0 ∧ rsBlk (rejoinEntry 0 4 0 0xC) = 4 ∧ rsCD (rejoinEntry 0 4 0 0xC) = 0 := by decide

/-- P0 holds in lanes 0 and 2, so both sides of a division on it are inhabited; P1 in none. -/
theorem test_divide : issues demo (.bdiv 0 28 1) = true ∧ pcBlk demo.str.pc + (28 : BitVec 5).toNat < 32
    ∧ 32 ≤ pcBlk demo.str.pc + (29 : BitVec 5).toNat
    ∧ demo.str.exm &&& demo.seen.pred 0 ≠ 0 ∧ demo.str.exm &&& ~~~ demo.seen.pred 0 ≠ 0 ∧ demo.str.exm &&& demo.seen.pred 1 = 0
    ∧ demo.me.liveStrands.length < 4 ∧ demo.str.rstack.length + 1 ≤ 8
    ∧ (demoG fun g => { g with p := [(0, 0xF)] }).str.exm &&& ~~~ (demoG fun g => { g with p := [(0, 0xF)] }).seen.pred 0 = 0 := by decide

/-- Four strands, so that the other side of a division is deferred; and a full reconvergence stack. -/
theorem test_divide_deferred :
    let s := demoG fun g => { g with strands := [(0, aStrand), (1, aStrand), (2, aStrand), (3, aStrand)] }
    let t := demoS fun st => { st with rstack := List.replicate 8 0 }
    s.seen.liveStrands.length = 4 ∧ issues s (.bdiv 0 1 1) = true ∧ 8 < t.str.rstack.length + 1 ∧ issues t (.bdiv 0 1 1) = true := by decide

/-- A strand with nobody missing; one with a member parked elsewhere missing; an empty one. -/
theorem test_join :
    let s := demoG fun g => { g with strands := [(0, aStrand), (1, { aStrand with members := 0xF0, exm := 0xF0, rstack := [rejoinEntry 0 3 0 0xFF] })] }
    let t := demoG fun g => { g with strands := [(0, { aStrand with members := 0, exm := 0 }), (1, aStrand)] }
    demo.seen.missing 0 = [] ∧ s.seen.missing 0 ≠ [] ∧ issues s (.join 1) = true ∧ s.str.exm ≠ 0
      ∧ t.str.exm = 0 ∧ 1 < t.seen.liveStrands.length ∧ issues t (.join 0) = true := by decide

theorem test_group_ends :
    let s := demoS fun st => { st with park := .exit }
    (s.group 0).live = true ∧ (s.group 0).mergePair = none ∧ (∀ i ∈ (s.group 0).liveStrands, ((s.group 0).strand i).park = .exit) := by decide

/-- Room for a call at depth 2, none once two returns are stacked, and none to return to. -/
theorem test_call :
    let e : RetEntry := { slot := 0, blk := 4, pk := 0, seg := 0 }
    let s := demoS fun st => { st with calls := [e, e] }
    let t := demoS fun st => { st with calls := [{ e with blk := 32 }] }
    let r := demoS fun st => { st with calls := [e], rstack := [rejoinEntry 0 4 1 0] }
    let x := demoS fun st => { st with calls := [e], trips := [(1, 1)] }
    demo.str.calls.length < demo.seen.place.depth ∧ s.seen.place.depth ≤ s.str.calls.length ∧ demo.str.calls = []
      ∧ issues s .ret = true ∧ s.backEdgeOk 0 s.str = true ∧ issues t .ret = true ∧ (∀ y ∈ t.str.calls, 32 ≤ y.blk)
      ∧ issues r .ret = true ∧ r.backEdgeOk 0 r.str = true ∧ 0 < rsCD (rejoinEntry 0 4 1 0) ∧ x.backEdgeOk 0 x.str = false ∧ issues x .ret = true := by
  decide

theorem test_jump_back : decide ((0 : BitVec 7).toNat * 32 + (3 : BitVec 5).toNat ≤ pcSlot demo.str.pc * 32 + pcBlk demo.str.pc) = true
    ∧ decide ((0 : BitVec 7).toNat * 32 + (4 : BitVec 5).toNat ≤ pcSlot demo.str.pc * 32 + pcBlk demo.str.pc) = false := by decide
/-! ### Width, system words, privileged registers -/

/-- A group of 8 lanes that may be divided into two of 4, and one of 4 with a buddy of its own shape. -/
def demoW : State := demoG fun g => { g with place := { g.place with width := 8 } }
/-- Two groups of 4 lanes side by side; the second may wait in `FUSE`. -/
def demoB (w : Wait) : State :=
  { demo with groups := [(0, { aGroup with place := { aGroup.place with off := 0 } }), (1, { aGroup with uid := 8, wait := w })]
              launches := [(1, { aLaunch with image := { aLaunch.image with wmax := 8 } })] }

theorem test_split : issues demoW (.split 127 2) = true ∧ demoW.splitStatus 2 = 0 ∧ demo.splitStatus 2 = 1 ∧ issues demo (.split 0 2) = true := by decide

theorem test_fuse : issues demo (.fuse 127) = true ∧ demo.fuseStatus = 6
    ∧ (demoB .none).fuseStatus = 0 ∧ (demoB .none).buddy 0 = some 1 ∧ issues (demoB .none) (.fuse 0) = true
    ∧ (demoB (.fuse 3 1024)).fuseStatus = 0 ∧ (demoB (.fuse 3 1024)).buddy 0 = some 1 ∧ ((demoB (.fuse 3 1024)).group 1).wait = .fuse 3 1024 := by decide

theorem test_parts : (3 : Nat) < 4 ∧ (4 : Nat) ≤ 64 ∧ 1020 + 4 ≤ 1024 ∧ 7 < 8 ∧ aGroup.place.width ≤ 32 ∧ 7 < 2 * aGroup.place.width := by decide

theorem test_fuse_timeout : ((demoB (.fuse 3 0)).group 1).wait = .fuse 3 0 ∧ 0 ≤ (demoB .none).clk (clusterOf 1)
    ∧ ((demoB (.fuse 3 1)).group 1).wait = .fuse 3 1 ∧ (demoB .none).clk (clusterOf 1) < 1 ∧ ((demoB .fuseOver).group 1).wait = .fuseOver := by decide

/-- Two groups of a pair: launch 1 is paired, team 1 has partner 2, and the group of slot 64 is on the other side. -/
def demoP (f h : Group → Group) : State :=
  { demo with
    groups := [(0, f aGroup), (64, h { aGroup with uid := 9, place := { aGroup.place with team := 2, side := 1 } })]
    teams := [(1, { aTeam with partner := 2 }), (2, { aTeam with partner := 1, side := 1, cluster := 1 })]
    launches := [(1, { aLaunch with paired := true })] }
/-- The same, the right group moving. -/
def demoR (f h : Group → Group) : State := { demoP f h with cur := { group := 64 } }

theorem test_read_alone : demo.partner 0 = none ∧ ([.rdclk 126, .rdsync 126, .rdnrg 126, .rdprog 126, .setpl 127 1, .ckpt 127] : List Instr).all (issues demo) = true := by
  decide

theorem test_read_left : (demoP id id).partner 0 = some 64 ∧ (demoP id id).seen.place.side = 0 ∧ (demoP id id).me.fwd.length < 256
    ∧ issues (demoP id id) (.rdclk 0) = true := by decide

theorem test_read_left_full : 256 ≤ (demoP (fun g => { g with fwd := List.replicate 256 { vals := [] } }) id).me.fwd.length
    ∧ issues (demoP (fun g => { g with fwd := List.replicate 256 { vals := [] } }) id) (.rdclk 0) = true := by decide

theorem test_read_right : (demoR id id).partner 64 = some 0 ∧ (demoR id id).seen.place.side ≠ 0 ∧ ((demoR id id).group 0).fwd = []
    ∧ ((demoR (fun g => { g with fwd := [{ vals := [(0, 5)] }] }) id).group 0).fwd = [{ vals := [(0, 5)] }] ∧ (0 : Nat) ≠ 64
    ∧ issues (demoR id id) (.rdclk 0) = true := by decide

theorem test_ckpt : demo.inTx = false ∧ (demo.launch demo.seen.place.launch).prot = false
    ∧ (demoG fun g => { g with tx := { isOpen := true } }).inTx = true ∧ issues (demoG fun g => { g with tx := { isOpen := true } }) (.ckpt 0) = true
    ∧ (({ demo with launches := [(1, { aLaunch with prot := true })] } : State).launch 1).prot = true := by decide

/-- A group of firmware. -/
def demoF : State := demoG fun g => { g with place := { g.place with priv := true } }

theorem test_privileged : ([.mrs 127 1, .msr 127 1, .eret] : List Instr).all (issues demoF) = true ∧ demoF.seen.place.priv = true
    ∧ demo.seen.place.priv = false ∧ legal .eret demo = false := by decide

theorem test_registers : (511 : Nat) < 512 ∧ splitOk 0x664 = true ∧ splitOk 0x665 = false ∧ demo.emptyCluster 511 = true ∧ demo.emptyCluster 0 = false
    ∧ (23 : Nat) < 24 ∧ (0x40200 : Nat) ≤ 0x40200 := by decide

theorem test_group_trap : (demo.group 0).place.priv = false ∧ (demo.launch (demo.rootLaunch (demo.group 0).place.launch)).live = true := by decide

theorem test_firmware_trap : (demoF.group 0).place.priv = true ∧ (demoF.die 0).fev = 0 ∧ pcBlockStart (demoF.die 0).fvec = true
    ∧ pcBlockStart 4 = false ∧ issues demoF (.trap 0xFFFF) = true
    ∧ (({ demoF with dies := [(0, { resetDie with fev := 1 })] } : State).die (dieOf demoF.myCluster)).fev ≠ 0
    ∧ issues { demoF with dies := [(0, { resetDie with fev := 1 })] } .eret = true := by decide

theorem test_illegal : Instr.isWord (.mov false 0 0x88) = true ∧ legal (.mov false 0 0x88) demo = false
    ∧ legal (.mov false 0 0x80) demo = true ∧ (usesOf (.mov false 0 0x80)).latchesOpen demo = false := by decide

/-! ### Memory words -/

/-- The first 64 KiB, for every use. -/
def aRange : Range := { base := 0, len := 65536, rd := true, wr := true, wait := true, vault := true }
/-- A leaf for page 0 with the frame 0x30000 of an HBM stack, readable and writable. -/
def aPage : TlbEntry := { qidx := 1, va := 0, bits := 16, pte := 0x3000F, use := 0 }
/-- The same for the first vault. -/
def vPage : TlbEntry := { qidx := 1, va := 0, bits := 16, pte := 0x08000000000F, use := 0 }
/-- A machine whose group runs lane 0 alone, with a page in its cluster's TLB and the range of 64 KiB that it maps. -/
def demoM (e : TlbEntry) (f : Group → Group) : State :=
  { demo with
    groups := [(0, f { aGroup with strands := [(0, { aStrand with exm := 1 })] })]
    launches := [(1, { aLaunch with ranges := [aRange], image := { aLaunch.image with slots := 1 } })]
    clusters := [(0, { istore := [(64, aStore)], tlb := [e] })] }
/-- The access of lane 0 at address 8. -/
def anAcc (pa : Nat) : Acc := { lane := 0, ea := 8, pa := pa }
/-- A group with a load of four bytes at an address still under way. -/
def demoBusy (e : TlbEntry) (k : OpKind) : State :=
  { demoM e id with ops := [(5, { live := true, kind := k, group := 0, uid := 7, reqs := [1] })] }

theorem test_ldg : issues (demoM aPage id) (.ldg 0 127 126 2) = true
    ∧ (demoM aPage id).access { vault := false, rd := true } 4 false pageFormat ((demoM aPage id).hardLanes ((demoM aPage id).ea 126 8))
        ((demoM aPage id).softLanes ((demoM aPage id).ea 126 8)) = .ok [(anAcc 0x30008, aPage)]
    ∧ (demoM aPage id).txReads = false ∧ (demoM aPage id).partner 0 = none ∧ (demoM aPage id).mustWait 0 [(0x30008, 4)] = false := by decide

theorem test_ldg_waits : (demoBusy aPage (.load 0 4 [anAcc 0x30008] [])).mustWait 0 [(0x30008, 4)] = true
    ∧ (demoBusy aPage (.load 0 4 [anAcc 0x30008] [])).access { vault := false, rd := true } 4 false pageFormat
        ((demoBusy aPage (.load 0 4 [anAcc 0x30008] [])).hardLanes ((demoBusy aPage (.load 0 4 [anAcc 0x30008] [])).ea 126 8))
        ((demoBusy aPage (.load 0 4 [anAcc 0x30008] [])).softLanes ((demoBusy aPage (.load 0 4 [anAcc 0x30008] [])).ea 126 8))
        = .ok [(anAcc 0x30008, aPage)] := by decide

theorem test_ldg_transaction :
    let s := demoM aPage fun g => { g with tx := { isOpen := true } }
    s.txReads = true ∧ issues s (.ldg 0 127 126 2) = true ∧ s.lineBusy (0x30008 / 256) 0 = false ∧ s.passing (· == s.myCluster) (0x30008 / 256) = false
      ∧ s.access { vault := false, rd := true } 4 false pageFormat (s.hardLanes (s.ea 126 8)) (s.softLanes (s.ea 126 8)) = .ok [(anAcc 0x30008, aPage)] := by
  decide

theorem test_ldv :
    let s := demoM vPage id
    let b := demoBusy vPage (.load 1 4 [anAcc 0x080000000008] [])
    issues s (.ldv 0 127 126 2) = true ∧ s.access { vault := true, rd := true } 4 false pageFormat (s.hardLanes (s.ea 126 8)) (s.softLanes (s.ea 126 8))
        = .ok [(anAcc 0x080000000008, vPage)] ∧ s.mustWait 1 [(0x080000000008, 4)] = false ∧ b.mustWait 1 [(0x080000000008, 4)] = true
      ∧ b.access { vault := true, rd := true } 4 false pageFormat (b.hardLanes (b.ea 126 8)) (b.softLanes (b.ea 126 8))
        = .ok [(anAcc 0x080000000008, vPage)] := by decide

/-- The pair with the page in the TLB of the cluster that moves. -/
def demoPM (s : State) : State :=
  { s with launches := [(1, { aLaunch with paired := true, ranges := [aRange] })]
           clusters := [(0, { tlb := [vPage] }), (1, { tlb := [vPage] })] }

theorem test_ldv_pair :
    let one := fun (g : Group) => { g with strands := [(0, { aStrand with exm := 1 })] }
    let s := demoPM (demoP one one)
    let r := demoPM (demoR (fun g => { one g with fwd := [{ vals := [(0, 5)] }] }) one)
    s.partner 0 = some 64 ∧ s.leftMe = true ∧ s.me.fwd.length < 256 ∧ issues s (.ldv 0 127 126 2) = true
      ∧ s.access { vault := true, rd := true } 4 false pageFormat (s.hardLanes (s.ea 126 8)) (s.softLanes (s.ea 126 8)) = .ok [(anAcc 0x080000000008, vPage)]
      ∧ r.partner 64 = some 0 ∧ r.rightMe = true ∧ (r.group 0).fwd = [{ vals := [(0, 5)] }] ∧ issues r (.ldv 0 127 126 2) = true
      ∧ r.access { vault := true, rd := true } 4 false pageFormat (r.hardLanes (r.ea 126 8)) (r.softLanes (r.ea 126 8)) = .ok [(anAcc 0x080000000008, vPage)]
      ∧ r.mustWait 1 [(0x080000000008, 4)] = false := by decide

theorem test_load_traps :
    let s := demoM { aPage with pte := 0x30003 } id
    let m := demoM { aPage with va := 65536 } id
    let ok := fun (v : Bool) (x : State) => x.access { vault := v, rd := true } 4 false pageFormat (x.hardLanes (x.ea 126 8)) (x.softLanes (x.ea 126 8))
    ok false s = .trap .perm 0 8 ∧ ok true s = .trap .perm 0 8 ∧ ok false m = .miss 8 ∧ ok true m = .miss 8
      ∧ issues s (.ldg 0 127 126 2) = true ∧ issues m (.ldv 0 127 126 2) = true := by decide

theorem test_lds :
    let s := demoM aPage id
    let b := demoBusy aPage (.atomic 2 0 4 [] [] [8])
    issues s (.lds 0 127 127 2) = true ∧ firstScrTrap s.myTeam none 4 false (s.hardLanes (s.eaScr 127 8)) = none ∧ s.mustWait 2 [(8, 4)] = false
      ∧ b.mustWait 2 [(8, 4)] = true ∧ firstScrTrap b.myTeam none 4 false (b.hardLanes (b.eaScr 127 8)) = none
      ∧ firstScrTrap s.myTeam none 4 false [(0, 272)] = some (.perm, 0, 272) ∧ firstScrTrap s.myTeam none 4 false [(0, 268)] = none := by decide

theorem test_stg :
    let s := demoM aPage id
    let t := demoM aPage fun g => { g with tx := { isOpen := true } }
    let b := demoBusy aPage (.load 0 4 [anAcc 0x30008] [])
    let ok := fun (x : State) => x.access { vault := false, wr := true } 4 false (fun _ => true) (x.hardLanes (x.ea 126 8)) []
    issues s (.stg 0 127 126 2) = true ∧ ok s = .ok [(anAcc 0x30008, aPage)] ∧ s.mustWait 0 [(0x30008, 4)] = false ∧ s.inTx = false ∧ s.pairedMe = false
      ∧ (∀ e ∈ (s.cluster s.myCluster).l1, e.2.held = []) ∧ regionOf 0x30008 ≠ .device ∧ ok t = .ok [(anAcc 0x30008, aPage)] ∧ t.inTx = true
      ∧ ok b = .ok [(anAcc 0x30008, aPage)] ∧ b.mustWait 0 [(0x30008, 4)] = true ∧ ok (demoM { aPage with pte := 0x30007 } id) = .trap .perm 0 8 := by decide

/-- A store to a line that stands in L1. -/
theorem test_stg_line :
    let s : State := { demoM aPage id with clusters := [(0, { tlb := [aPage], l1 := [(0x300, { live := true })] })] }
    (s.l1Line s.myCluster (0x30008 / 256)).live = true ∧ s.me.release.length < 64 ∧ issues s (.stg 0 127 126 2) = true
      ∧ s.access { vault := false, wr := true } 4 false (fun _ => true) (s.hardLanes (s.ea 126 8)) [] = .ok [(anAcc 0x30008, aPage)] := by decide

theorem test_stv :
    let s := demoM vPage id
    let b := demoBusy vPage (.load 1 4 [anAcc 0x080000000008] [])
    let ok := fun (x : State) => x.access { vault := true, wr := true } 4 false (fun _ => true) (x.hardLanes (x.ea 126 8)) []
    issues s (.stv 0 127 126 2) = true ∧ ok s = .ok [(anAcc 0x080000000008, vPage)] ∧ s.mustWait 1 [(0x080000000008, 4)] = false ∧ s.pairedMe = false
      ∧ ok b = .ok [(anAcc 0x080000000008, vPage)] ∧ b.mustWait 1 [(0x080000000008, 4)] = true
      ∧ ok (demoM { vPage with pte := 0x080000000007 } id) = .trap .perm 0 8 := by decide

theorem test_sts :
    let s := demoM aPage id
    issues s (.sts 0 127 127 2) = true ∧ firstScrTrap s.myTeam (some s.myImage) 4 false (s.hardLanes (s.eaScr 127 8)) = none
      ∧ s.mustWait 2 ((s.hardLanes (s.eaScr 127 8)).map fun e => (e.2, 4)) = false
      ∧ firstScrTrap s.myTeam (some s.myImage) 4 false [(0, 6)] = some (.alignData, 0, 6) := by decide

theorem test_atomics :
    let s := demoM aPage id
    let v := demoM vPage id
    let t := demoM aPage fun g => { g with tx := { isOpen := true } }
    let b := demoBusy aPage (.load 0 4 [anAcc 0x30008] [])
    let ok := fun (w : Bool) (x : State) => x.access { vault := w, rd := true, wr := true } 4 false (fun _ => true) (x.hardLanes (x.ea 126 8)) []
    issues s (.atomg 0 false 127 126 2) = true ∧ issues v (.atomv 0 false 127 126 2) = true ∧ issues s (.atoms 9 false 126 127 2) = true
      ∧ s.inTx = false ∧ ok false s = .ok [(anAcc 0x30008, aPage)] ∧ s.mustWait 0 [(0x30008, 4)] = false ∧ s.partner 0 = none
      ∧ ok true v = .ok [(anAcc 0x080000000008, vPage)] ∧ v.mustWait 1 [(0x080000000008, 4)] = false
      ∧ firstScrTrap s.myTeam (some s.myImage) 4 false (s.hardLanes (s.eaScr 127 8)) = none
      ∧ ok false b = .ok [(anAcc 0x30008, aPage)] ∧ b.mustWait 0 [(0x30008, 4)] = true ∧ t.inTx = true
      ∧ issues t (.atomg 0 false 127 126 2) = true ∧ ok false (demoM { aPage with pte := 0x30007 } id) = .trap .perm 0 8 := by decide

theorem test_atomic_pair :
    let one := fun (g : Group) => { g with strands := [(0, { aStrand with exm := 1 })] }
    let p := demoP one one
    let s : State := { p with launches := [(1, { aLaunch with paired := true, ranges := [aRange] })]
                              clusters := [(0, { tlb := [aPage] }), (1, {})] }
    s.partner 0 = some 64 ∧ s.me.approved = false ∧ issues s (.atomg 0 false 127 126 2) = true ∧ s.mustWait 0 [(0x30008, 4)] = false
      ∧ s.access { vault := false, rd := true, wr := true } 4 false (fun _ => true) (s.hardLanes (s.ea 126 8)) [] = .ok [(anAcc 0x30008, aPage)] := by
  decide

theorem test_atomic_values : (32 = 32 ∨ (32 : Nat) = 64) ∧ (2 ^ 32 - 1 : Nat) < 2 ^ 32 ∧ atomOp 0 32 (2 ^ 32 - 1) 1 = 0 ∧ (0 : Nat) ≠ 1 := by decide

/-! ### What completes them -/

/-- The machine with one operation of the group, at key 5. -/
def demoO (o : Op) : State := { demoM aPage id with ops := [(5, { o with live := true, group := 0, uid := 7, team := 1, qidx := 1, mask := 1 })] }

theorem test_load_result :
    let s := demoO { kind := .load 0 4 [anAcc 0x30008] [], dst := [(508, 4)], vals := [(0, 9)] }
    (s.op 5).live = true ∧ (s.op 5).reqs = [] ∧ s.opGone (s.op 5) = false ∧ (s.op 5).poisoned = 0 ∧ (s.op 5).dst = [(508, 4)] ∧ 1020 + 4 ≤ 1024 := by decide

theorem test_load_vault :
    let s := demoO { kind := .load 1 4 [anAcc 0x080000000008] [], dst := [(508, 4)] }
    s.opGone (s.op 5) = false ∧ (s.op 5).mask = 1#64 <<< 0 ∧ (s.op 5).vals = [] ∧ (s.group 0).heldVault = []
      ∧ s.vaultPoison.get false (0x080000000008 / 4) = false := by decide

/-- A load of a transaction, its sector in L2, not in L2, and behind a lock. -/
theorem test_load_home :
    let c := demoO { kind := .load 3 4 [anAcc 0x30008] [], dst := [(508, 4)] }
    let s : State := { c with slices := [(homeSlice 0x30000, { lines := [(0x300, { live := true, valid := 1 })] })] }
    let b : State := { c with slices := [(homeSlice 0x30000, { locks := [(0x300, 9)] })] }
    (s.op 5).reqs = [] ∧ s.opGone (s.op 5) = false ∧ s.homeHeld (s.op 5) = false ∧ s.lacking (s.op 5).qidx (s.op 5).homeReads = [] ∧ s.homePoison 0x30008 = false
      ∧ (s.op 5).mask = 1#64 <<< 0 ∧ (s.op 5).vals = [] ∧ c.homeHeld (c.op 5) = false ∧ c.lacking (c.op 5).qidx (c.op 5).homeReads ≠ [] ∧ c.opGone (c.op 5) = false
      ∧ b.homeHeld (b.op 5) = true ∧ b.opGone (b.op 5) = false := by decide

theorem test_load_poison :
    let s := demoO { kind := .load 0 4 [anAcc 0x30008] [], dst := [(508, 4)], poisoned := 1 }
    (s.op 5).poisoned ≠ 0 ∧ (s.group 0).place.priv = false ∧ s.opGone (s.op 5) = false := by decide

theorem test_atomic_result :
    let s := demoO { kind := .atomic 0 0 4 [anAcc 0x30008] [(0, 1)] [], dst := [(508, 4)], vals := [(0, 9)] }
    (s.op 5).mirror = 0 ∧ (s.op 5).reqs = [] ∧ s.opGone (s.op 5) = false ∧ (demo.op 5).live = false := by decide

theorem test_store_result :
    let s := demoO { kind := .store 1 4 [anAcc 0x080000000008], vals := [(0, 9)] }
    (s.op 5).live = true ∧ (s.op 5).kind = .store 1 4 [anAcc 0x080000000008] ∧ (0 : Nat) ≠ 1 ∧ (2 : Nat) ≠ 1 := by decide

theorem test_atomic_step :
    let s := demoO { kind := .atomic 0 0 4 [anAcc 0x30008] [(0, 1)] [0x30008] }
    let l : State := { s with slices := [(homeSlice 0x30008, { lines := [(0x300, { live := true })] })] }
    0x30008 ∈ [0x30008] ∧ ([anAcc 0x30008].filter fun x => x.pa == 0x30008).map Acc.lane = [0] ∧ isGlobal 0x30008 = true ∧ isVault 0x080000000008 = true
      ∧ l.wbAhead (l.op 5).cluster 0x300 = false ∧ l.lineBusy 0x300 0 = false ∧ 0x30008 % 4 = 0
      ∧ ((l.slice (homeSlice 0x30008)).line 0x300).live = true := by decide
/-! ### Transactions, fences, lines, waits -/

theorem test_txb :
    let t := demoG fun g => { g with tx := { isOpen := true } }
    let c := demoG fun g => { g with tx := { isOpen := true, committing := true } }
    let two := demoG fun g => { g with strands := [(0, aStrand), (1, aStrand)] }
    let again := demoG fun g => { g with tx := { count := 2, pc := some aStrand.pc } }
    ([.txb 127 1, .txa 255, .txe 127] : List Instr).all (issues demo) = true ∧ t.inTx = true ∧ issues t (.txb 0 1) = true ∧ issues t (.txa 0) = true
      ∧ c.inTx = false ∧ c.me.tx.isOpen = true ∧ issues c (.txb 0 1) = true ∧ c.me.tx.committing = true ∧ issues c (.txe 0) = true
      ∧ two.me.tx.isOpen = false ∧ 1 < two.seen.liveStrands.length ∧ issues two (.txb 0 1) = true
      ∧ again.seen.tx.pc = some again.str.pc ∧ (2 : BitVec 8).toNat < again.seen.tx.count + 1 ∧ again.seen.tx.count + 1 ≤ (3 : BitVec 8).toNat
      ∧ issues again (.txb 0 2) = true ∧ demo.inTx = false ∧ demo.me.tx.isOpen = false ∧ demo.partner 0 = none ∧ demo.me.tx.doom = 0
      ∧ (demoG fun g => { g with tx := { isOpen := true, doom := 2 } }).me.tx.doom ≠ 0 := by decide

/-- A commit at key 5 of a transaction that has read sector 0xC00 and written a byte of line 0x300. -/
def demoC (o : Op) (f : Tx → Tx) : State :=
  { demoO { o with kind := .commit 3 [] [] } with
    groups := [(0, { aGroup with tx := f { isOpen := true, committing := true, reads := [(0xC00, List.replicate 64 0)], writes := [(0x30008, some 7)], wlines := [0x300] } })]
    slices := [(homeSlice 0x30000, { lines := [(0x300, { live := true, valid := 1 })] })] }

theorem test_commit :
    let s := demoC {} id
    let p := demoC { pos := 1 } id
    let locked : State := { s with slices := [(homeSlice 0x30000, { lines := [(0x300, { live := true })], locks := [(0x300, 9)] })] }
    let read := demoC { pos := 1 } fun t => { t with reads := [(0xC00, List.replicate 64 1)] }
    s.opAlive (s.op 5) = true ∧ (s.op 5).mirror = 0 ∧ (s.op 5).landed = 0 ∧ (demoC { landed := 7 } id).opAlive ((demoC { landed := 7 } id).op 5) = true
      ∧ ((demoC {} fun t => { t with doom := 4 }).group 0).tx.doom ≠ 0 ∧ (locked.lineBusy 0x300 5) = true
      ∧ (s.group 0).tx.lines = [0x300] ∧ s.lacking (s.op 5).qidx [(0xC00 * 64, 64)] = [] ∧ locked.lacking (locked.op 5).qidx [(0xC00 * 64, 64)] ≠ [] ∧ s.storable 1 0x30008 = true
      ∧ s.lineBusy 0x300 5 = false ∧ ((s.slice (homeSlice (0x300 * 256))).line 0x300).live = true
      ∧ (p.op 5).pos ≠ 0 ∧ p.homeBytes (0xC00 * 64) 64 = List.replicate 64 0 ∧ read.homeBytes (0xC00 * 64) 64 ≠ List.replicate 64 1
      ∧ (0x300 ∈ (s.group 0).tx.lines) := by decide

theorem test_commit_early :
    let s : State := { demoC {} id with ops := [(4, { live := true }), (5, { live := true, kind := .commit 3 [4] [], group := 0, uid := 7 })] }
    ([4].any fun k => (s.op k).live) = true ∧ s.opAlive (s.op 5) = true := by decide

theorem test_fence :
    let p := demoP id id
    let a := demoP (fun g => { g with approved := true }) id
    ([.fence 4 3 0x1FF, .tfence 4] : List Instr).all (issues demo) = true ∧ demo.inTx = false ∧ demo.pairedMe = false
      ∧ p.pairedMe = true ∧ (3 : BitVec 2).getLsbD 1 = true ∧ (4 : BitVec 3) ≠ 0 ∧ p.me.approved = false ∧ issues p (.fence 4 3 1) = true
      ∧ a.me.approved = true ∧ issues a (.tfence 4) = true := by decide

/-- A group in a fence. -/
def demoFence (f : Fence) (paths : List PathOp) : State := demoG fun g => { g with fence := some f, paths := paths }

theorem test_fence_complete :
    let f : Fence := { scope := 2, kind := 3, paths := 1, translation := false, released := false, ops := [5], wbs := [] }
    let a := demoFence f [{ path := 0, op := 5, done := false, strand := 0 }]
    let b := demoFence f [{ path := 0, op := 5, done := true, strand := 0 }]
    let c := demoFence { f with released := true } []
    let d : State := { demoFence { f with released := true, wbs := [1] } [] with reqs := [(1, { live := true, kind := .wb 0 0 [] 0 0 false })] }
    (a.group 0).fence = some f ∧ (∃ k ∈ f.ops, ∃ o ∈ (a.group 0).paths, o.op = k ∧ o.done = false)
      ∧ (∀ k ∈ f.ops, ∀ o ∈ (b.group 0).paths, o.op = k → o.done = true) ∧ c.fenceDone { f with released := true } = true
      ∧ d.fenceDone { f with released := true, wbs := [1] } = false ∧ f.kind / 2 = 1 ∧ f.kind % 2 = 1 ∧ f.paths.testBit 0 = true ∧ (2 : Nat) ≤ f.scope
      ∧ (∀ e ∈ c.walks, e.2.stale = false) ∧ (demo.group 0).fence = none := by decide

theorem test_write_ack :
    let s : State := { demoO { kind := .l1maint 0x300 } with reqs := [(1, { live := true, kind := .ack, op := 5 })] }
    (s.req 1).live = true ∧ (s.req 1).kind = .ack ∧ (s.op (s.req 1).op).live = true ∧ (s.op (s.req 1).op).kind = .l1maint 0x300 := by decide

theorem test_lines :
    let s := demoM aPage id
    let l : State := { s with clusters := [(0, { tlb := [aPage], l1 := [(0x300, { live := true })] })] }
    let m := demoM { aPage with va := 65536 } id
    let t := demoM aPage fun g => { g with tx := { isOpen := true } }
    let f : State := { s with groups := [(0, { aGroup with noPage := [0] })], clusters := [(0, {})] }
    ([.pin 127 126, .unpin 0 0, .l1wb 0, .l1inv 0, .cfetch 0 0] : List Instr).all (issues s) = true ∧ s.inTx = false ∧ s.look 0 = .page aPage 0x30000
      ∧ pageOk false { rd := true } aPage 0x30000 = true ∧ pageOk false {} aPage 0x30000 = true ∧ s.declared 0 2048 = true ∧ s.slotDeclared 0 = true
      ∧ (l.l1Line l.myCluster (0x30000 / 256)).live = true ∧ l.look 0 = .page aPage 0x30000 ∧ m.look 0 = .miss ∧ f.look 0 = .fail
      ∧ issues f (.pin 0 0) = true ∧ t.inTx = true ∧ issues t (.pin 0 0) = true ∧ pageOk false { rd := true } { aPage with pte := 0x30003 } 0x30000 = false
      ∧ (1 : Nat) % 2048 ≠ 0 := by decide

theorem test_cfetch_align : (((demoG fun g => { g with g := [(0, 4)] }).seen.gpair 0).toNat) % 2048 ≠ 0
    ∧ issues (demoG fun g => { g with g := [(0, 4)] }) (.cfetch 0 0) = true := by decide

/-- A pin of line 0x300 at key 5, the line in its slice or not. -/
def demoPin (un live : Bool) (pins : List Nat) : State :=
  { demoO { kind := .pin 3 0x300 un } with
    slices := if live then [(sliceNo (0x300 * 256), { lines := [(0x300, { live := true, valid := 15, pins := pins })] })] else [] }

theorem test_pin_result :
    let k := sliceNo (0x300 * 256)
    ((demoPin true true [1]).slice k).line 0x300 = { live := true, valid := 15, pins := [1] } ∧ ((demoPin true true [1]).op 5).qidx ∈ [1]
      ∧ (((demoPin true false []).slice k).line 0x300).live = false ∧ (((demoPin false true []).slice k).line 0x300).valid ≠ 0
      ∧ (((demoPin false false []).slice k).line 0x300).live = false ∧ (demoPin true true [1]).opAlive ((demoPin true true [1]).op 5) = true
      ∧ dieOf ((demoPin true true [1]).op 5).cluster * 32 + k = k := by decide

theorem test_cfetch_landing :
    let s := demoO { kind := .cfetch 0 0x30000 }
    let p : State := { s with sectorPoison := [(0x30000 / 64, true)] }
    (∀ i, i < 8 → s.lineBusy (0x30000 / 256 + i) 0 = false) ∧ ((List.range 32).any fun i => s.homePoison (0x30000 + 64 * i)) = false
      ∧ ((List.range 32).any fun i => p.homePoison (0x30000 + 64 * i)) = true ∧ p.opGone (p.op 5) = false ∧ (p.group 0).place.priv = false
      ∧ (∀ i, i < 8 → p.lineBusy (0x30000 / 256 + i) 0 = false) := by decide

theorem test_waitc :
    let s := demoG fun g => g.raise pGLOB 1 0
    issues demo (.waitc 8 127) = true ∧ demo.me.counter 8 ≤ (demo.gsrc 127).toNat ∧ (s.gsrc 127).toNat < s.me.counter 0 ∧ issues s (.waitc 0 127) = true := by
  decide

theorem test_waitu :
    let s := demoM aPage id
    let g := demoM aPage fun g => { g with g := [(4, 5)] }
    let p : State := { s with sectorPoison := [(0x30000 / 64, true)] }
    issues s (.waitu 0 0 false 126 0) = true ∧ s.inTx = false ∧ (s.seen.gpair 0).toNat % 4 = 0 ∧ s.look 0 = .page aPage 0x30000
      ∧ pageOk s.seen.place.priv { vault := false, rd := true } aPage 0x30000 = true ∧ s.declared 0 4 = true ∧ s.pairedMe = false
      ∧ s.lineBusy (0x30000 / 256) 0 = false ∧ s.wbAhead s.myCluster (0x30000 / 256) = false
      ∧ (p.watched 0x30000 false).2 = true ∧ (s.watched 0x30000 false).2 = false ∧ waitCond 0 false (s.watched 0x30000 false).1 0 = true
      ∧ waitCond 1 false (s.watched 0x30000 false).1 0 = false ∧ min (s.seen.greg 4).toNat s.waitBound = 0 ∧ min (g.seen.greg 4).toNat g.waitBound ≠ 0
      ∧ g.inWaitRange 0 = true ∧ (g.slice (orderKey 0x30000)).mon.length < 512 ∧ issues g (.waitu 1 0 false 126 0) = true := by decide

theorem test_waitu_scratch :
    let s := demoM aPage fun g => { g with g := [(4, 5)] }
    let p : State := { s with teams := [(1, { aTeam with poison := [(0, true)] })] }
    let odd := demoM aPage fun g => { g with g := [(0, 2)] }
    let far := demoM aPage fun g => { g with g := [(0, 272)] }
    issues s (.waitu 0 2 false 126 0) = true ∧ (s.seen.greg 0).toNat + 4 ≤ s.myTeam.size ∧ (p.team 1).poisoned 0 4 = true ∧ (s.team 1).poisoned 0 4 = false
      ∧ waitCond 0 false ((s.team 1).read 0 4) 0 = true ∧ waitCond 1 false ((s.team 1).read 0 4) 0 = false ∧ min (s.seen.greg 4).toNat s.waitBound ≠ 0
      ∧ (odd.seen.greg 0).toNat % 4 ≠ 0 ∧ (odd.seen.gpair 0).toNat % 4 ≠ 0 ∧ issues odd (.waitu 0 2 false 126 0) = true ∧ issues odd (.waitu 0 0 false 126 0) = true
      ∧ (far.seen.greg 0).toNat % 4 = 0 ∧ far.myTeam.size < (far.seen.greg 0).toNat + 4 ∧ issues far (.waitu 0 2 false 126 0) = true := by decide

/-- A group that waits. -/
def demoWait (w : Wait) : State := demoG fun g => { g with wait := w }

theorem test_wait_events :
    let r : WaitRec := { d := 3 }
    let m : MonEntry := { v := true, waddr := 0x30000, cmp := 1, who := 0, exp := 0 }
    let s : State := { demoWait (.monitor 0 false r) with slices := [(0, { mon := [(0, m)] })] }
    let due : State := { demo with slices := [(0, { walkDue := true, spill := [m] })] }
    let e : ScrEntry := { v := true, cmp := 1, team := 1, expc := 0 }
    let c : State := { demoWait (.scratch 1 0 r) with clusters := [(0, { scr := [(0, e)] })] }
    ((demoWait (.monitor 0 false { r with outcome := some (0, 5) })).group 0).wait = .monitor 0 false { r with outcome := some (0, 5) }
      ∧ ((demoWait (.monitor 0 false { r with outcome := some (3, 5) })).group 0).place.priv = false
      ∧ ((demoWait (.monitor 0 false r)).group 0).wait = .monitor 0 false r ∧ r.outcome = none ∧ r.op = 0 ∧ (0 : Nat) ≠ 3 ∧ (1 : Nat) ≠ 2
      ∧ ((demoWait (.scratch 2 0 { r with outcome := some (1, 5) })).group 0).wait = .scratch 2 0 { r with outcome := some (1, 5) }
      ∧ (c.cluster (clusterOf 0)).scr.get {} (0 % 64) = e ∧ e.expc ≤ c.clk (clusterOf 0) ∧ (c.group 0).wait = .scratch 1 0 r
      ∧ ((demo.cluster (clusterOf 0)).scr.get {} (0 % 64)).v = false
      ∧ (s.slice 0).mon.get {} 0 = m ∧ m.exp ≤ s.time.toNat ∧ s.monHit m = none ∧ (s.group 0).wait = .monitor 0 false r
      ∧ (demo.slice 0).mon.get {} 0 = {} ∧ (1023 : Nat) < 1024 ∧ due.walkOpen 0 = true ∧ demo.walkOpen 0 = false := by decide

/-! ### Barrier objects and rings -/

/-- A team with a barrier object at 0, a stage ring at 16 with its barriers at 32, a receiver ring at 96. -/
def demoBar (g : Tab Word) (scratch : Tab Byte) : State :=
  { demoG fun x => { x with g := g } with
    teams := [(1, { aTeam with scratch := scratch })]
    launches := [(1, { aLaunch with image := { aLaunch.image with syncs := [{ kind := 0, base := 0, ops := [] }, { kind := 2, base := 16, ops := [1] },
      { kind := 1, base := 96, ops := [1, 64] }] } })] }

theorem test_bari :
    let s := demoBar [(1, 2047)] []
    let bad := demoBar [(1, 2048)] []
    issues s (.bari 0) = true ∧ s.inTx = false ∧ (s.seen.greg 0).toNat % 16 = 0 ∧ 0 + 16 ≤ s.myTeam.size ∧ isBarrier s 0 = true
      ∧ (s.seen.greg 1).toNat < 2048 ∧ (s.seen.greg 1).toNat ≠ 0 ∧ issues bad (.bari 0) = true ∧ 2048 ≤ (bad.seen.greg 1).toNat := by decide

theorem test_bara :
    let s := demoBar [] []
    let odd := demoBar [(0, 8)] []
    let far := demoBar [(0, 0x100)] []
    let no := demoBar [(0, 0x110)] []
    issues s (.bara 127 0) = true ∧ isAnyBarrier s 0 = true ∧ isAnyBarrier s 32 = true ∧ (odd.seen.greg 0).toNat % 16 ≠ 0 ∧ issues odd (.bara 0 0) = true
      ∧ isAnyBarrier far 0x100 = false ∧ issues far (.bara 0 0) = true ∧ no.myTeam.size < (no.seen.greg 0).toNat + 16 := by decide

theorem test_barx :
    let ex := [(4, (4 : Byte))]
    let s := demoBar [(1, 3)] ex
    let t := demoBar [(1, 5)] ex
    issues s (.barx 0) = true ∧ ((s.seen.greg 1).toNat % 2048) ≤ (s.team 1).read 4 4 % 2048 ∧ (s.team 1).read 4 4 % 2048 ≠ 3
      ∧ (t.team 1).read 4 4 % 2048 < (t.seen.greg 1).toNat % 2048 ∧ issues t (.barx 0) = true := by decide

theorem test_barw :
    let s := demoBar [(1, 1), (2, 9)] []
    issues s (.barw 126 0) = true ∧ (s.team 1).poisoned 0 4 = false ∧ ((s.team 1).read 0 4).testBit 31 ≠ (BitVec.ofNat 64 1).getLsbD 0
      ∧ min 9 s.waitBound ≠ 0 ∧ ((s.team 1).read 0 4).testBit 31 = (BitVec.ofNat 64 0).getLsbD 0 := by decide

theorem test_stage :
    let s := demoBar [(0, 16)] [(20, 32)]
    issues s (.stagea 126 0) = true ∧ issues s (.stager 0) = true ∧ isStage s 16 = true ∧ (s.team 1).read 20 4 = 32 ∧ s.seen.place.role ≠ .copy := by decide

theorem test_ring :
    let s := demoBar [(0, 96)] [(104, 1)]
    issues s (.ringadv 1 0) = true ∧ isRing s 96 = true ∧ (1 : BitVec 7).toNat ≤ ((s.team 1).read 104 4 + 2 ^ 32 - (s.team 1).read 108 4) % 2 ^ 32
      ∧ ((s.team 1).read 104 4 + 2 ^ 32 - (s.team 1).read 108 4) % 2 ^ 32 < (2 : BitVec 7).toNat ∧ issues s (.ringadv 2 0) = true
      ∧ issues s (.lqrd 126) = true := by decide

theorem test_marks : (({ demo with teams := [(1, { aTeam with marks := [0] })] } : State).team 1).marks = [0] ∧ (demo.team 1).marks = [] := by decide

/-! ### Engines -/

/-- A group of four lanes that may use every engine, with its G registers, its ranges, a child, a ring and a communicator. -/
def demoE (g : Tab Word) (f : Group → Group) : State :=
  { demo with
    groups := [(0, f { aGroup with place := { aGroup.place with role := .mixed }, g := g })]
    launches := [(1, { aLaunch with
      ranges := [aRange], ranks := [[some 4], []]
      image := { aLaunch.image with children := [(0, 4)], syncs := [{ kind := 1, base := 64, ops := [1, 64] }] } })]
    clusters := [(0, { istore := [(64, aStore)], tlb := [aPage] })] }
/-- A box of 256 bytes from global memory to the scratchpad. -/
def boxRegs : Tab Word := [(4, 256), (5, 0x10001), (10, 0xFFFFFFFF)]

theorem test_copy :
    let c := fun (s : State) => copyCmd s.seen 0 false 0 2 0
    let ok := fun (s : State) => issues s (.copy 0 false 0 2 0) && !s.inTx && !s.pairedMe && (s.partner 0).isNone && !s.engMask [.copy, .mixed]
    let s := demoE boxRegs id
    let full : State := { s with clusters := [(0, { copyQ := List.range 16 })] }
    let role := demoE boxRegs fun g => { g with place := { g.place with role := .matrix } }
    let none := demoE [] id
    let odd := demoE [(4, 257), (5, 0x10001), (10, 0xFFFFFFFF)] id
    let far := demoE [(2, 0x20), (4, 256), (5, 0x10001), (10, 0xFFFFFFFF)] id
    let tx := demoE boxRegs fun g => { g with tx := { isOpen := true } }
    ok s ∧ (c s).bad (s.seen.greg 4).toNat = false ∧ (c s).misaligned = false ∧ s.boxOk 0 (c s).src (c s).srcLen = true
      ∧ s.boxOk 2 (c s).dst (c s).dstLen = true ∧ s.ticket 4 = Option.none ∧ (s.cluster s.myCluster).copyQ.length < 16
      ∧ ok full ∧ 16 ≤ (full.cluster full.myCluster).copyQ.length ∧ full.ticket 4 = Option.none
      ∧ issues role (.copy 0 false 0 2 0) ∧ role.engMask [.copy, .mixed] = true ∧ role.inTx = false
      ∧ ok none ∧ (c none).bad (none.seen.greg 4).toNat = true ∧ ok odd ∧ (c odd).bad (odd.seen.greg 4).toNat = false ∧ (c odd).misaligned = true
      ∧ ok far ∧ (c far).bad (far.seen.greg 4).toNat = false ∧ (c far).misaligned = false ∧ far.boxOk 2 (c far).dst (c far).dstLen = false
      ∧ issues tx (.copy 0 false 0 2 0) ∧ tx.inTx = true ∧ issues tx (.gather 0 127 false 0 false false) ∧ issues tx (.coll 0 0)
      ∧ issues tx (.launch 0) ∧ issues tx (.msend 0 0) := by decide

theorem test_gather :
    let s := demoE [(3, 0xFFFFFFFF)] id
    let role := demoE [(3, 0xFFFFFFFF)] fun g => { g with place := { g.place with role := .matrix } }
    let ok := issues s (.gather 0 127 false 0 false false) && !s.inTx && !s.pairedMe && (s.partner 0).isNone && !s.engMask [.copy, .vector, .mixed]
    ok ∧ (∀ x ∈ gatherElems s 0 4 127 false, x.1 % 4 = 0 ∧ s.declared x.1 4 = true ∧ x.2 + 4 ≤ s.myTeam.size)
      ∧ (s.seen.greg 2).toNat % 4 = 0 ∧ (s.seen.greg 3).toNat = 0xFFFFFFFF ∧ s.ticket 5 = none ∧ (s.cluster s.myCluster).gatherQ.length < 16
      ∧ issues role (.gather 0 127 false 0 false false) ∧ role.engMask [.copy, .vector, .mixed] = true ∧ role.inTx = false := by decide

theorem test_coll :
    let s := demoE [(2, 8), (4, 1)] id
    let other := demoE [(2, 8), (4, 1), (6, 1)] id
    let k := collCmd s.seen 0 8
    issues s (.coll 0 8) ∧ s.inTx = false ∧ s.pairedMe = false ∧ s.partner 0 = none ∧ s.engMask [.copy, .mixed] = false
      ∧ k.n ≠ 0 ∧ k.n ≤ 2 ^ 28 ∧ (s.seen.greg 5).toNat < 2 ^ 16 ∧ (s.seen.greg 6).toNat < 16 ∧ k.oper ≤ 3 ∧ k.fmt ≤ 2 ∧ k.oper ≠ 3
      ∧ k.src % 4 = 0 ∧ k.dst % 4 = 0 ∧ s.declared k.src 4 = true ∧ s.declared k.dst 4 = true ∧ k.size = 4
      ∧ some 0 ∈ s.ranksOf s.seen.place.launch k.comm ∧ some 0 ∉ other.ranksOf other.seen.place.launch (collCmd other.seen 0 8).comm
      ∧ issues other (.coll 0 8) := by decide

theorem test_launch :
    let s := demoE [(0, 0x100)] id
    let rec' : LaunchRec := { child := 0, groups := 1, nargs := 0, counter := 0, args := [] }
    let full : State := { s with teams := [(1, { aTeam with pend := List.replicate 4 rec' })] }
    let bad := demoE [] id
    let child := demoE [(0, 0x101)] id
    let role := demoE [] fun g => { g with place := { g.place with role := .copy } }
    issues s (.launch 0) ∧ s.inTx = false ∧ s.pairedMe = false ∧ s.partner 0 = none ∧ s.engMask [.vector, .mixed] = false
      ∧ (s.seen.greg 0).toNat / 16 % 16 = 0 ∧ (s.seen.greg 0).toNat / 2 ^ 8 % 256 = 1 ∧ (s.seen.greg 0).toNat / 2 ^ 16 % 16 = 0
      ∧ s.myImage.children[(s.seen.greg 0).toNat % 16]? = some (0, 4) ∧ (s.seen.gpair 1).toNat % 4 = 0 ∧ s.declared 0 4 = true
      ∧ (s.team s.me.place.team).pend.length < 4 ∧ issues full (.launch 0) ∧ 4 ≤ (full.team full.me.place.team).pend.length
      ∧ issues bad (.launch 0) ∧ (bad.seen.greg 0).toNat / 2 ^ 8 % 256 = 0 ∧ issues child (.launch 0)
      ∧ child.myImage.children[(child.seen.greg 0).toNat % 16]? = none ∧ issues role (.launch 0) ∧ role.engMask [.vector, .mixed] = true := by decide

theorem test_msend :
    let s := demoE [(0, 1), (1, 0x100)] id
    let no := demoE [(1, 0x100)] id
    let role := demoE [] fun g => { g with place := { g.place with role := .matrix } }
    issues s (.msend 0 8) ∧ s.inTx = false ∧ s.pairedMe = false ∧ s.partner 0 = none ∧ s.engMask [.copy, .vector, .mixed] = false
      ∧ (s.seen.greg 0).toNat ≠ 0 ∧ (s.seen.greg 1).toNat / 8 % 32 = 0 ∧ (s.seen.greg 1).toNat / 256 % 256 * 16 = 16
      ∧ s.myImage.rings[(s.seen.greg 1).toNat % 8]? = some { kind := 1, base := 64, ops := [1, 64] } ∧ 16 + 16 ≤ [1, 64].getD 1 0
      ∧ (s.seen.greg 2).toNat % 16 = 0 ∧ (∀ k ∈ (List.range 32).filter fun k => (s.seen.greg 0).toNat.testBit k, k < s.cohortSize s.myTeam.launch s.myTeam.cohort)
      ∧ (s.seen.greg 2).toNat + 16 ≤ s.myTeam.size ∧ issues no (.msend 0 8) ∧ (no.seen.greg 0).toNat = 0
      ∧ issues role (.msend 0 8) ∧ role.engMask [.copy, .vector, .mixed] = true := by decide

/-! ### Matrices -/

/-- Two groups of a gang, each of 32 lanes, the first at its turn. -/
def demoMma (g : Tab Word) (f h : Group → Group) : State :=
  let x : Group := { aGroup with place := { aGroup.place with width := 32, role := .matrix, off := 0, regs := 1024 }, g := g, gang := 0x4400000000000020
                                 strands := [(0, { aStrand with members := fullMask 32, exm := fullMask 32 })] }
  { demo with groups := [(0, f x), (16, h { x with uid := 8, place := { x.place with off := 32 }, gang := 0x4800000000000020 })] }

theorem test_mma :
    let s := demoMma [] id id
    let role := demoMma [] (fun g => { g with place := { g.place with role := .mixed } }) id
    let lone := demoMma [] (fun g => { g with gang := 0 }) id
    let bad := demoMma [(0, 0x1000)] id id
    let gone := demoMma [] id fun g => { g with ended := true }
    let tx := demoMma [] (fun g => { g with tx := { isOpen := true } }) id
    let x := s.seen
    let held := quartersOf (gangCnt x.gang) (gangIdx x.gang)
    let runs := fun (s : State) => issues s (.mma 0 0 0 8) && !s.inTx && s.me.live && s.str.exm == fullMask 32 && s.seen.liveStrands.length == 1
      && s.seen.place.role == .matrix && s.seen.place.width == 32 && gangCnt s.seen.gang != 0
      && (gangMembers s.seen.gang).all (s.memberThere s.seen.place.team) && !mmaBad s.seen s.myTeam 0 8 held.length (s.seen.greg 0).toNat 0 0 0
      && (s.opsOf 0).isEmpty && (s.rdvFor s.me.place.team s.me.place.off s.me.gang).isNone && gangIdx s.me.gang != 0
      && (gangMembers s.me.gang)[gangIdx s.me.gang - 1]? == some s.me.place.off
    runs s ∧ (∀ m ∈ gangMembers s.me.gang, s.memberGone s.me.place.team m = false)
      ∧ runs gone ∧ (∃ m ∈ gangMembers gone.me.gang, gone.memberGone gone.me.place.team m = true)
      ∧ issues role (.mma 0 0 0 8) ∧ role.seen.place.role ≠ .matrix ∧ role.inTx = false
      ∧ issues lone (.mma 0 0 0 8) ∧ gangCnt lone.seen.gang = 0 ∧ lone.seen.place.role = .matrix
      ∧ issues bad (.mma 0 0 0 8) ∧ mmaBad bad.seen bad.myTeam 0 8 held.length (bad.seen.greg 0).toNat 0 0 0 = true
      ∧ issues tx (.mma 0 0 0 8) ∧ tx.inTx = true := by decide

/-- The same with the word of the first group joined in rendezvous 3, as operation 5. -/
def demoRdv (clk : Dword) (c : MmaCmd) (who : List Nat) : State :=
  { demoMma [] id id with
    clusters := [(0, { clk := clk })]
    ops := [(5, { live := true, kind := .mma c, group := 0, uid := 7, path := 6, dst := [(0, 128)], gdst := [4] })]
    rdvs := [(3, { live := true, team := 1, gang := 0x4400000000000020, who := who, joined := [5], since := 0 })] }
/-- Its command. -/
def aMma : MmaCmd := { an := 0, ta := 0, tb := 8, cmd := 0, bias := 0, table := 0, scale := 0, status := 4, held := [0, 2], idx := 1, rdv := 3, out := [], opened := false }

theorem test_rendezvous :
    let s := demoRdv 4096 aMma [0]
    let r := s.rdvs.get {} 3
    let y := demoRdv 0 aMma [0, 32]
    r.live = true ∧ r.opened = false ∧ r.failed = 0 ∧ r.full = false ∧ r.joined = [5] ∧ (s.op 5).kind = .mma aMma
      ∧ r.since + 4096 ≤ s.clk (s.op 5).cluster ∧ s.opAlive (s.op 5) = true
      ∧ (demoRdv 4095 aMma [0]).clk ((demoRdv 4095 aMma [0]).op 5).cluster < r.since + 4096
      ∧ (y.rdvs.get {} 3).full = true ∧ (y.rdvs.get {} 3).joined.Nodup := by decide

theorem test_matrix_result :
    let s := demoRdv 0 { aMma with opened := true, out := [(0, 5)] } [0, 32]
    let c : MmaCmd := { aMma with opened := true, out := [(0, 5)] }
    (s.op 5).live = true ∧ (s.op 5).kind = .mma c ∧ c.opened = true ∧ s.mmaTurn 5 c = true ∧ s.opAlive (s.op 5) = true ∧ (s.op 5).dst = [(0, 128)]
      ∧ mmaReq aMma.cmd.toNat = false ∧ aMma.cmd.toNat < 4 ∧ (0 : Nat) ≠ (s.op 5).group + 1 := by decide

/-! ### Engine events -/

/-- One operation at key 5 of the group, at the head of both engines' queues. -/
def demoEng (o : Op) : State :=
  { demoE [] id with
    clusters := [(0, { istore := [(64, aStore)], tlb := [aPage], copyQ := [5], gatherQ := [5] })]
    ops := [(5, { o with live := true, group := 0, uid := 7, team := 1, qidx := 1 })] }
/-- Bytes 0 to 3 of the scratchpad to bytes 16 to 19. -/
def aCopy : CopyCmd := { src := 0, dst := 16, ssp := 2, dsp := 2, x := 4, y := 1, z := 1, srow := 0, splane := 0, drow := 0, dplane := 0, barrier := none, status := 11, win := none }
/-- One element of a vault. -/
def aGather : GatherCmd := { scat := false, vault := true, size := 4, elems := [(8, 16)], barrier := none, status := 4 }
/-- One number, alone. -/
def aColl : CollCmd := { src := 0, dst := 8, n := 1, oper := 0, fmt := 0, root := 0, comm := 0, retry := 8, status := 7, late := false }
/-- The pieces that an engine has found; (0, code) for a fault, (1, 0) for a walk under way. -/
def foundAt (r : State × Reach) : List (Nat × Nat) := match r.2 with | .ok l => l | .fault e => [(0, e)] | .wait => [(1, 0)]

theorem test_queue_admit :
    let w : Op := { live := true, accepted := false, group := 0, uid := 7, path := 4 }
    let s : State := { demo with ops := [(5, w)] }
    let full : State := { s with clusters := [(0, { copyQ := List.range 16 })] }
    (s.op 5).live = true ∧ (s.op 5).accepted = false ∧ s.opGone (s.op 5) = false ∧ (s.op 5).path = 4 ∧ 5 ∉ (s.cluster (s.op 5).cluster).copyQ
      ∧ (∀ e ∈ s.ops, e.1 < 5 → e.2.live = true → e.2.accepted = false → e.2.cluster = 0 → e.2.path = 4 → e.1 ∈ (s.cluster 0).copyQ)
      ∧ (s.cluster (s.op 5).cluster).copyQ.length < 16 ∧ 16 ≤ (full.cluster (full.op 5).cluster).copyQ.length ∧ full.opGone (full.op 5) = false
      ∧ (demo.op 5).live = false := by decide

theorem test_copy_chunk :
    let s := demoEng { kind := .copy aCopy }
    let two := demoEng { kind := .copy { aCopy with x := 512 } }
    let far := demoEng { kind := .copy { aCopy with ssp := 0, src := 131072 } }
    let c : CopyCmd := { aCopy with ssp := 0, src := 131072 }
    let gone := demoEng { kind := .copy { aCopy with ssp := 0, src := 131072 }, noPage := [2] }
    (s.op 5).accepted = true ∧ (s.cluster (s.op 5).cluster).copyQ.head? = some 5 ∧ (s.op 5).kind = .copy aCopy ∧ s.opAlive (s.op 5) = true
      ∧ (s.op 5).mirror = 0 ∧ (s.team (s.op 5).team).live = true ∧ (s.op 5).pos + 1 = aCopy.perRow * aCopy.y * aCopy.z
      ∧ (∀ i, i < (aCopy.chunk 0).2.2 → (s.team 1).poison.get false (((aCopy.chunk 0).1 + i) / 4) = false)
      ∧ (two.op 5).pos + 1 < ({ aCopy with x := 512 } : CopyCmd).perRow
      ∧ foundAt (far.pieces 5 (far.op 5) 0 (c.chunk 0).1 (c.chunk 0).2.2 false) = [(1, 0)]
      ∧ foundAt ((far.pieces 5 (far.op 5) 0 (c.chunk 0).1 (c.chunk 0).2.2 false).1.pieces 5 (far.op 5) 2 16 4 true) = [(16, 4)]
      ∧ foundAt (gone.pieces 5 (gone.op 5) 0 (c.chunk 0).1 (c.chunk 0).2.2 false) = [(0, 1)] ∧ gone.opAlive (gone.op 5) = true ∧ s.mayWrite 1 16 4
      ∧ far.opAlive (far.op 5) = true
      ∧ (demo.cluster (demo.op 5).cluster).copyQ.head? ≠ some 5 := by decide

theorem test_gather_element :
    let at' := fun (c : GatherCmd) (e : TlbEntry) => { demoEng { kind := .gather c } with clusters := [(0, { tlb := [e], gatherQ := [5] })] }
    let s := at' aGather vPage
    let two := at' { aGather with elems := [(8, 16), (12, 20)] } vPage
    let none' := at' { aGather with elems := [] } vPage
    let miss := at' aGather { vPage with pte := 0x080000000003 }
    (s.op 5).accepted = true ∧ (s.cluster (s.op 5).cluster).gatherQ.head? = some 5 ∧ (s.op 5).kind = .gather aGather ∧ s.opAlive (s.op 5) = true
      ∧ aGather.elems[(s.op 5).pos]? = some (8, 16) ∧ foundAt (s.pieces 5 (s.op 5) 1 8 4 false) = [(0x080000000008, 4)] ∧ isVault 0x080000000008 = true
      ∧ ((s.pieces 5 (s.op 5) 1 8 4 false).1.team 1).live = true ∧ s.storesAhead 5 1 [(0x080000000008, 4)] = false
      ∧ (s.pieces 5 (s.op 5) 1 8 4 false).1.mayWrite 1 16 4 ∧ (s.op 5).pos + 1 = aGather.elems.length
      ∧ (two.op 5).pos + 1 < 2 ∧ two.opAlive (two.op 5) = true ∧ ([] : List (Nat × Nat))[(none'.op 5).pos]? = none ∧ none'.opAlive (none'.op 5) = true
      ∧ foundAt (miss.pieces 5 (miss.op 5) 1 8 4 false) = [(0, 2)] ∧ (demo.cluster (demo.op 5).cluster).gatherQ.head? ≠ some 5 := by decide

theorem test_coll_chunk :
    let s := demoEng { kind := .coll aColl, path := 7 }
    let u := (s.pieces 5 (s.op 5) 0 0 4 false).1
    let two : State := { s with launches := [(1, { aLaunch with ranks := [[some 4, some 2048]] })] }
    (s.op 5).kind = .coll aColl ∧ s.ranksOf (s.team (s.op 5).team).launch aColl.comm = [some (s.op 5).group]
      ∧ s.collOf (s.team (s.op 5).team).launch aColl.comm (s.op 5).group = some (5, s.op 5, aColl) ∧ s.opAlive (s.op 5) = true
      ∧ aColl.n * aColl.size ≤ 65536 ∧ foundAt (s.pieces 5 (s.op 5) 0 0 4 false) = [(0x30000, 4)]
      ∧ foundAt (u.pieces 5 (s.op 5) 0 8 4 true) = [(0x30008, 4)] ∧ s.pieceBusy [(0x30000, 4)] = false ∧ s.pieceBusy [(0x30008, 4)] = false
      ∧ some (2 ^ 32) ∈ two.ranksOf (two.team (two.op 5).team).launch aColl.comm ∧ two.collOf 1 aColl.comm (2 ^ 32) = none
      ∧ (∀ r : Nat, r ∉ ([] : List Nat)) ∧ ([(1, false), (2, false), (3, false), (4, false)] : List Marked).length = 1 * aColl.size
      ∧ (∀ x ∈ ([(1, false)] : List Marked), x.2 = false) := by decide

/-! ### Caches -/

/-- A walk at key 2 of page 0 for cluster 0, with its tables in HBM, the leaf there or not, and no line of them in L2. -/
def demoCold (leaf : Bool) (w : Walk) : State :=
  { demoG fun g => { g with wait := .walk 2 } with
    walks := [(2, { w with live := true, qidx := 1, root := 0x100000, va := 0, clusters := [0] })]
    mem := Tab.writeLe (Tab.writeLe (Tab.writeLe (Tab.writeLe (Tab.writeLe [] 0x100000 16 0x102001) 0x102000 16 0x104001) 0x104000 16 0x106001) 0x106000 16 0x108001)
      0x108000 16 (if leaf then 0x3000F else 0) }
/-- Addresses of the entries that the walk reads. -/
def walkReads : List Nat := [0x100000, 0x102000, 0x104000, 0x106000, 0x108000]
/-- The same with their lines in L2. -/
def demoWalk (leaf : Bool) (w : Walk) : State :=
  let s := demoCold leaf w
  walkReads.foldl (fun s a => s.modSlice (homeSlice a) fun x =>
    { x with lines := x.lines.set {} (a / 256) { live := true, valid := 15, data := Tab.writeList [] 0 (s.homeBytes (a / 256 * 256) 256) } }) s

theorem test_page_walk :
    let s := demoWalk true {}
    let n := demoWalk false {}
    let t := demoWalk true { stale := true }
    let c := demoCold true {}
    let many : State := { s with walks := (List.range 16).foldl (fun l k => l.set {} (k + 3) { live := true }) [(20, (s.walks.get {} 2))] }
    let w := s.walks.get {} 2
    (demo.walks.get {} 2).live = false ∧ w.live = true ∧ w.stale = false ∧ (s.die w.die).tlb.find? (fun e => e.covers w.qidx w.va) = none
      ∧ (s.walkRoot w.root w.va).2 = some (0x3000F, 16) ∧ (∀ a ∈ (s.walkRoot w.root w.va).1, s.lineBusy (a / 256) 0 = false)
      ∧ (n.walkRoot w.root w.va).2 = none ∧ (∀ a ∈ (n.walkRoot w.root w.va).1, n.lineBusy (a / 256) 0 = false)
      ∧ s.walkEngine 2 = true ∧ s.lacking w.qidx ((s.walkRoot w.root w.va).1.map fun a => (a, 16)) = [] ∧ many.walkEngine 20 = false
      ∧ n.walkEngine 2 = true ∧ n.lacking w.qidx ((n.walkRoot w.root w.va).1.map fun a => (a, 16)) = []
      ∧ c.walkEngine 2 = true ∧ c.lacking w.qidx ((c.walkRoot w.root w.va).1.map fun a => (a, 16)) ≠ []
      ∧ (t.walks.get {} 2).stale = true ∧ (s.group 0).live = true ∧ (s.group 0).wait = .walk 2 ∧ 0 ∈ w.clusters := by decide

/-- One request at key 1, with the queues ahead of it. -/
def demoReq (k : ReqKind) (x : Slice) (legs : List Leg := [.slice (homeSlice 0x30000)]) : State :=
  { demo with reqs := [(1, { live := true, kind := k, legs := legs })], slices := [(homeSlice 0x30000, x)]
              clusters := [(0, { l1 := [(0x300, { live := true })] })] }

theorem test_fill :
    let s := demoReq (.fill 0 0xC00 none) {}
    let h := demoReq (.fill 0 0xC00 none) { lines := [(0x300, { live := true, valid := 15 })] }
    let b := demoReq (.fill 0 0xC00 none) { locks := [(0x300, 9)] }
    let a := demoReq (.fill 0 0xC00 (some (List.replicate 64 7, false))) {} []
    let way := demoReq (.fill 0 0xC00 (some (List.replicate 64 7, false))) {}
    (s.req 1).live = true ∧ s.passing (· == 0) 0x300 = false ∧ homeDie 0x30000 = dieOf 0 ∧ s.served 1 = true ∧ s.sliceHas (dieOf 0) 0xC00 = false
      ∧ b.served 1 = false ∧ (a.req 1).legs = [] ∧ (way.req 1).legs ≠ []
      ∧ h.passing (· == 0) 0x300 = false ∧ h.served 1 = true ∧ h.sliceHas (dieOf 0) 0xC00 = true ∧ b.lineBusy 0x300 0 = true
      ∧ (a.l1Line 0 0x300).live = true ∧ (List.replicate 64 (7 : Byte)).length = 64 ∧ (a.req 1).kind = .fill 0 0xC00 (some (List.replicate 64 7, false)) := by
  decide

theorem test_l2_fill :
    let w : List Want := [{ sector := 0xC00, cluster := 0, qidx := 1, bytes := 64, req := 0 }]
    let s := demoReq (.l2fill 0 0x300 w) { lines := [(0x300, { live := true })], misses := [1] } [.memory 0 0]
    let r0 := demoReq (.l2fill 1 0x300 w) { lines := [(0x300, { live := true, valid := 1 })], dir := [(0x300, { v := true, pres := 4 })] }
    let r : State := { r0 with slices := r0.slices.set {} (32 + sliceNo 0x30000) { lines := [(0x300, { live := true })] } }
    let b := demoReq (.l2fill 1 0x300 w) { locks := [(0x300, 9)] }
    let far := demoReq (.l2fill 1 0x300 w) {}
    let full : State := demoReq (.l2fill 1 0x300 w)
      { lines := [(0x300, { live := true, valid := 1 })], dir := (List.range 16).map fun k => (0x300 + (k + 1) * 2 ^ 22, { v := true, pres := 2 }) }
    let x := (full.slice (homeSlice 0x30000)).dir.filter fun d => d.2.v && dirSet d.1 == dirSet 0x300
    homeDie (0x300 * 256) = 0 ∧ (s.req 1).kind = .l2fill 0 0x300 w ∧ (∀ e ∈ w, e.sector / 4 = 0x300) ∧ s.served 1 = true
      ∧ ((s.slice (homeSlice 0x30000)).line 0x300).live = true ∧ b.served 1 = false
      ∧ far.served 1 = true ∧ w.filter (fun e => !far.homeHas (e.sector * 64)) ≠ []
      ∧ full.served 1 = true ∧ w.filter (fun e => !full.homeHas (e.sector * 64)) = [] ∧ ((full.slice (homeSlice 0x30000)).dir.get {} 0x300).v = false
      ∧ 16 ≤ x.length ∧ (dirVictim x).isSome
      ∧ r.served 1 = true ∧ w.filter (fun e => !r.homeHas (e.sector * 64)) = [] ∧ ((r.slice (32 + sliceNo 0x30000)).line 0x300).live = true
      ∧ ((r.slice (homeSlice 0x30000)).dir.get {} 0x300).v = true
      ∧ r.passing (dieOf · == 1) 0x300 = false ∧ b.lineBusy 0x300 0 = true ∧ homeDie (0x300 * 256) ≠ 1 := by decide +kernel

theorem test_write_back :
    let k : ReqKind := .wb 0x300 15 [(0, 1)] 1 0 false
    let s := demoReq k {}
    let f := demoReq k { wbuf := List.range' 2 16 }
    let o : State := { demoReq k { wbuf := [1] } with reqs := [(1, { live := true, kind := k, offered := true })] }
    let way := demoReq k {} [.inject 0 0 0, .slice (homeSlice 0x30000)]
    let l : State := { demoReq k { wbuf := [1], locks := [(0x300, 9)] } with reqs := [(1, { live := true, kind := k, offered := true })] }
    let x := s.slice (homeSlice 0x30000)
    (s.req 1).offered = false ∧ x.wbuf.length < 16 ∧ s.mustCircle 1 0x300 = false ∧ 16 ≤ (f.slice (homeSlice 0x30000)).wbuf.length
      ∧ (s.req 1).legs = [.slice (homeSlice (0x300 * 256))] ∧ (way.req 1).legs ≠ [.slice (homeSlice (0x300 * 256))]
      ∧ (o.req 1).offered = true ∧ (∀ e ∈ (o.slice (homeSlice 0x30000)).locks, e.1 ≠ 0x300) ∧ (o.slice (homeSlice 0x30000)).wbuf.head? = some 1
      ∧ o.holders 0x300 = [] ∧ ((o.slice (homeSlice 0x30000)).dir.get {} 0x300).pend = 0 ∧ (∃ e ∈ (l.slice (homeSlice 0x30000)).locks, e.1 = 0x300) := by
  decide

theorem test_directory :
    let s := demoReq (.inv 0x300 1) {} []
    let a : State := { demoReq (.invAck 0x300 1) {} with reqs := [(1, { live := true, kind := .invAck 0x300 1 }), (2, { live := true, kind := .stamped 0x300 [1] false })] }
    let old : State := { demoReq (.memWrite 0x300) {} with reqs := [(1, { live := true, kind := .memWrite 0x300, legs := [.slice 0], age := 64 })] }
    let m := demoReq (.memWrite 0x300) { lines := [(0x300, { live := true, dirty := 1, data := [(0, 5)] })] }
    let e := demoReq .none { dir := [(0x300, { v := true, pres := 2 })] }
    (s.req 1).kind = .inv 0x300 1 ∧ (1 : Nat) ≠ homeDie (0x300 * 256) ∧ (a.req 1).kind = .invAck 0x300 1 ∧ (a.req 1).legs = [] ∧ (s.req 1).legs = [] ∧ m.served 1 = true
      ∧ 64 ≤ old.rounds (old.req 1) ∧ (old.req 1).legs ≠ [] ∧ m.rounds (m.req 1) < 64 ∧ (a.req 2).kind = .stamped 0x300 [1] false
      ∧ (m.req 1).kind = .memWrite 0x300 ∧ ((m.slice (homeSlice 0x30000)).line 0x300).live = true
      ∧ ((m.slice (homeSlice 0x30000)).line 0x300).dirty.getLsbD 0 = true ∧ ((e.slice (homeSlice 0x30000)).dir.get {} 0x300).v = true
      ∧ ((e.slice (homeSlice 0x30000)).dir.get {} 0x300).pres.getLsbD 1 = true ∧ ((e.slice (1 * 32 + sliceNo 0x30000)).line 0x300).live = false
      ∧ ((demo.slice (homeSlice 0x30000)).dir.get {} 0x300).v = false := by decide

/-! ### Groups and messages -/

theorem test_group_end :
    let s := demoG fun g => { g with ended := true }
    let x := s.group 0
    x.live = true ∧ x.ended = true ∧ x.paths = [] ∧ x.fence = none ∧ (∀ e ∈ s.ops, e.2.live = true → e.2.group ≠ 0)
      ∧ (s.launch x.place.launch).paired = false ∧ (demo.group 0).ended = false := by decide

theorem test_merge :
    let s := demoG fun g => { g with strands := [(0, { aStrand with members := 3, exm := 3 }), (1, { aStrand with members := 12, exm := 12 })] }
    let x := s.group 0
    x.live = true ∧ mergeable (x.strand 0) (x.strand 1) = true ∧ (x.strand 0).park = .running ∧ (x.strand 1).park = .running
      ∧ (∀ k, k < 4 → (x.strand k).park = .running) ∧ mergeable (x.strand 0) (x.strand 2) = false := by decide

theorem test_park_events :
    let s := demoS fun st => { st with park := .join 8 }
    let c : State := { s with clusters := [(0, { clk := 8 })] }
    let h : Hold := { group := 0, strand := 0, first := 0, packets := 1, since := 0, latches := 1 }
    let b : State := { demo with clusters := [(0, { clk := 32, quarters := [(0, { hold := some h })] })] }
    let a : State := { demo with clusters := [(0, { clk := 31, quarters := [(0, { hold := some h })] })] }
    ((c.group 0).strand 0).park = .join 8 ∧ (c.group 0).live = true ∧ 8 ≤ c.clk (clusterOf 0) ∧ s.clk (clusterOf 0) < 8
      ∧ (b.quarter 0 0).hold = some h ∧ h.since + 32 ≤ b.clk 0 ∧ a.clk 0 < h.since + 32 := by decide

/-- A message at key 5 for team 1, whose ring of one slot stands at 64 with its slot at 128. -/
def demoSend (again : Bool) (tries head : Nat) (f : Team → Team) : State :=
  let c : SendCmd := { mask := 1, ring := 0, tag := 3, payload := List.replicate 16 9, marks := [], retry := 1, pending := [(1, tries, again)], refused := 0, out := 3 }
  { demoE [] id with
    teams := [(1, f { aTeam with scratch := Tab.writeLe (Tab.writeLe [] 64 4 0x60) 68 8 (128 + head * 2 ^ 32) })]
    ops := [(5, { live := true, kind := .send c, group := 0, uid := 7, team := 1, path := 8, gdst := [3] })] }

theorem test_message :
    let s := demoSend false 0 0 id
    let r := demoSend true 0 0 id
    let full := demoSend false 0 1 id
    let last := demoSend false 1 1 id
    let saved := demoSend false 0 0 fun t => { t with phase := .saved, image := some { scratch := t.scratch } }
    let bs := fun (c : SendCmd) => messageBytes c 0 0
    let c := match (s.op 5).kind with | .send c => c | _ => { mask := 0, ring := 0, tag := 0, payload := [], marks := [], retry := 0, pending := [], refused := 0, out := 0 }
    let ring := fun (t : State) => ringSlot (fun a => (t.team 1).read a 4) 64
    (s.op 5).live = true ∧ (s.op 5).kind = .send c ∧ c.pending = [(1, 0, false)] ∧ (s.op 5).mirror = 0 ∧ s.opAlive (s.op 5) = true ∧ (s.team 1).live = true
      ∧ (s.launch (s.team 1).launch).live = true ∧ (s.launch (s.team 1).launch).paired = false ∧ s.behind 5 1 (s.op 5) c = false ∧ (s.team 1).phase = .running
      ∧ (((s.launch 1).image.rings[c.ring]?).map Sync.base).getD 0 = 64 ∧ ring s = some (128, 0) ∧ 64 + 12 ≤ 128 ∧ (bs c).length = 32
      ∧ (r.op 5).live = true ∧ ring full = none ∧ (0 : Nat) < c.retry ∧ ring last = none ∧ c.retry ≤ 1
      ∧ (saved.team 1).phase = .saved ∧ (saved.team 1).image.isSome = true
      ∧ ringSlot (fun a => Tab.readLe (((saved.team 1).image.getD {}).scratch) a 4) 64 = some (128, 0) := by decide

theorem test_message_behind :
    let s := demoSend false 0 0 id
    let t : State := { s with ops := (4, s.op 5) :: s.ops }
    let c := match (s.op 5).kind with | .send c => c | _ => { mask := 0, ring := 0, tag := 0, payload := [], marks := [], retry := 0, pending := [], refused := 0, out := 0 }
    t.behind 5 1 (t.op 5) c = true ∧ (t.op 5).kind = .send c ∧ (t.op 5).live = true := by decide

/-! ### Packets -/

/-- A descriptor: its ring at 0x50000 with 16 slots, class 1, every die, TAIL, HEAD, every cluster. -/
def aDesc (tail head : Nat) : Nat := 0x50000 * 2 ^ 208 + 2 ^ 202 + 15 * 2 ^ 198 + tail * 2 ^ 160 + head * 2 ^ 128 + (2 ^ 128 - 1)
/-- The tables of an address space at 0x100000 that maps page 0 to 0x30000. -/
def someTables (leaf : Nat) : Memory :=
  Tab.writeLe (Tab.writeLe (Tab.writeLe (Tab.writeLe (Tab.writeLe [] 0x100000 16 0x102001) 0x102000 16 0x104001) 0x104000 16 0x106001) 0x106000 16 0x108001)
    0x108000 16 leaf
/-- A queue at 0x40000 whose ring holds one packet header h; packet 3 has been taken from it. -/
def demoQ (tail h : Nat) (q : Queue) (p : Packet) : State :=
  { demo with
    queues := [(1, { q with live := true, desc := 0x40000, root := 0x100000 })]
    packets := [(3, { p with live := true, queue := 1 })]
    dies := [(0, { resetDie with ready := 0x07FFF0F0 })]
    mem := Tab.writeLe (Tab.writeLe (someTables 0x3002F) 0x40000 32 (aDesc tail 0)) 0x50000 16 h }

theorem test_queue_take :
    let none' := demoQ 0 0 { slot := some 0 } {}
    let far := demoQ 17 0 { slot := some 0 } {}
    let bad := demoQ 1 0 { slot := some 0 } {}
    let good := demoQ 1 0x01000008 { slot := some 0 } {}
    let wait := demoQ 1 0x01000005 { slot := some 0 } {}
    let early : State := { good with dies := [] }
    let head := fun (s : State) => let d := s.descriptor (s.queue 1); (descTail d, descHead d, descSlots d, descBase d)
    let h := fun (s : State) => leNat (s.homeBytes 0x50000 16)
    let p := fun (s : State) => ({ live := true, queue := 1, type := h s % 256, len := 1, body := (s.homeBytes 0x50000 64).drop 16 } : Packet)
    (demoQ 0 0 { slot := none } {}).queue 1 = { live := true, desc := 0x40000, root := 0x100000 } ∧ head none' = (0, 0, 16, 0x50000) ∧ head far = (17, 0, 16, 0x50000)
      ∧ (good.queue 1).slot = some 0 ∧ (good.queue 1).stopped = false ∧ (good.queue 1).packets = [] ∧ head bad = (1, 0, 16, 0x50000) ∧ head good = head bad
      ∧ packetBad (h bad) [] = true ∧ packetBad (h good) ((good.homeBytes 0x50000 64).drop 16) = false ∧ good.functionsReady (p good) = true
      ∧ isGlobal 0x40000 = true ∧ h wait % 256 = 5 ∧ packetBad (h wait) ((wait.homeBytes 0x50000 64).drop 16) = false
      ∧ early.functionsReady (p early) = false ∧ bits (h bad) 127 64 = 0 ∧ bits (h good) 127 64 = 0 := by decide

/-- Packet 3 of a type with a body, whose turn it may be. -/
def demoPk (type : Nat) (body : List Byte) (f : Packet → Packet) : State :=
  demoQ 0 0 { slot := some 0, packets := [3] } (f { type := type, body := body, cpa := 0 })

theorem test_wait_packet :
    let w := demoPk 5 (field 8 8 ++ field 4 0) id
    let far := demoPk 5 (field 8 0x20000) id
    let dl : State := { far with mem := Tab.writeLe far.mem 0x40000 32 (aDesc 0 0 - 2 ^ 202) }
    let on' := demoPk 5 (field 8 8) fun p => { p with watching := true, started := true, pa := 0x30008 }
    let more := demoPk 5 (field 8 8 ++ field 4 9) fun p => { p with watching := true, started := true, pa := 0x30008 }
    let ev := demoPk 5 (field 8 0x20000) fun p => { p with eventAt := some 0 }
    let late : State := { ev with time := 50000 }
    (w.packet 3).type = 5 ∧ w.turn 3 = true ∧ w.queueLeaf 1 8 = some (0x3002F, 0x30008) ∧ w.packetCls 3 = 1 ∧ w.queueAddr 1 8 2 = some 0x30008
      ∧ far.queueLeaf 1 0x20000 = none ∧ far.turn 3 = true ∧ far.packetCls 3 ≠ 0 ∧ dl.queueLeaf 1 0x20000 = none ∧ dl.packetCls 3 = 0 ∧ dl.turn 3 = true
      ∧ waitCond 5 false (on'.frontWord 0x30008) 0 = true ∧ (on'.packet 3).watching = true
      ∧ waitCond 5 false (more.frontWord 0x30008) 9 = false ∧ (ev.packet 3).eventAt = some 0 ∧ ev.time.toNat < 0 + 50000 ∧ 0 + 50000 ≤ late.time.toNat
      ∧ w.queueBusy 1 8 = false ∧ far.queueBusy 1 0x20000 = false ∧ dl.queueBusy 1 0x20000 = false ∧ on'.piecesBusy [(0x30008, 4)] = false
      ∧ (w.packet 3).eventAt = none ∧ (w.packet 3).watching = false ∧ on'.turn 3 = false ∧ ev.queueBusy 1 0x20000 = false := by decide

/-- A WAIT that starts again once its page is there. -/
theorem test_wait_again :
    let w := demoPk 5 (field 8 8 ++ field 4 0) fun p => { p with started := true }
    (w.packet 3).live = true ∧ (w.packet 3).started = true ∧ (w.packet 3).watching = false ∧ (w.packet 3).eventAt = none ∧ w.queueBusy 1 8 = false
      ∧ w.queueLeaf 1 8 = some (0x3002F, 0x30008) ∧ w.packetCls 3 ≠ 0 ∧ w.queueAddr 1 8 2 = some 0x30008 ∧ (w.queue 1).packets = [3] := by decide

theorem test_work_packets :
    let s := demoPk 6 (field 8 8 ++ field 4 5) id
    let far := demoPk 6 (field 8 0x20000) id
    let c := demoPk 7 (field 8 0 ++ field 8 64 ++ field 8 16) id
    let cf := demoPk 7 (field 8 0x20000 ++ field 8 64 ++ field 8 16) id
    let start := fun (x : State) => x.startPacket 3
    let held : State := { s with slices := [(homeSlice 0x30000, { locks := [(0x300, 9)] })] }
    let kept : State := { c with slices := [(homeSlice 0x30000, { locks := [(0x300, 9)] })] }
    (s.packet 3).type = 6 ∧ s.turn 3 = true ∧ (start s).queueAddr 1 8 3 = some 0x30008 ∧ (s.packet 3).cpa = 0 ∧ (s.packet 3).atHead = false
      ∧ s.signalOpen (s.packet 3) = true ∧ far.signalOpen (far.packet 3) = true ∧ held.signalOpen (held.packet 3) = false
      ∧ c.copyOpen (c.packet 3) = true ∧ cf.copyOpen (cf.packet 3) = true ∧ kept.copyOpen (kept.packet 3) = false
      ∧ (∀ i, i < 4 → s.storable 0 (0x30008 + i) = true) ∧ (∀ i, i < 16 → c.storable 0 (0x30040 + i) = true)
      ∧ isGlobal 0x30008 = true ∧ far.turn 3 = true ∧ (start far).queueAddr 1 0x20000 3 = none ∧ c.turn 3 = true ∧ (c.packet 3).num 16 8 = 16
      ∧ (start c).queuePieces 1 2 2 0 16 = some [(0x30000, 16)] ∧ (start c).queuePieces 1 3 2 64 16 = some [(0x30040, 16)]
      ∧ (∀ i, i < 16 → isGlobal (0x30000 + i) = true ∧ isGlobal (0x30040 + i) = true) ∧ cf.turn 3 = true ∧ (start cf).queuePieces 1 2 2 0x20000 16 = none
      ∧ (demoPk 8 [] id).turn 3 = true ∧ (demoPk 8 [] fun p => { p with started := true }).turn 3 = false := by decide

theorem test_protect_packets :
    let s := demoPk 9 (field 2 1) id
    let on' := fun (x : State) => ({ x with quotes := [(1, { state := .running, prot := true })] } : State)
    let r := demoPk 10 (field 2 1) id
    let u : State := { on' r with rel := { unrecoverable := true } }
    s.turn 3 = true ∧ s.protectedOn (s.packet 3) = none ∧ (on' s).turn 3 = true ∧ (on' s).protectedOn ((on' s).packet 3) = some 1
      ∧ r.rel.closing = false ∧ r.turn 3 = true ∧ r.protectedOn (r.packet 3) = none ∧ (on' r).protectedOn ((on' r).packet 3) = some 1
      ∧ (on' r).turn 3 = true ∧ (on' r).rel.unrecoverable = false ∧ u.turn 3 = true ∧ u.protectedOn (u.packet 3) = some 1
      ∧ ({ r with rel := { closing := true } } : State).rel.closing = true := by decide

theorem test_slot_swap :
    let s := demoQ 0 0 { slot := none } {}
    let t := demoQ 0 0 { slot := some 0 } {}
    let out := demoQ 0 0 { slot := none, packets := [3] } { type := 5, body := field 8 0x20000, eventAt := some 0 }
    s.pageAbsent (s.queue 1) = false ∧ out.pageAbsent (out.queue 1) = true ∧ (s.queue 1).live = true ∧ (s.queue 1).slot = none ∧ 0 ∉ s.slotsTaken (s.queue 1).die ∧ 0 ∈ t.slotsTaken (t.queue 1).die := by decide

/-! ### Quotations -/

/-- An image at 0x200000 of one segment with one block of one packet, `EXIT`, for teams of four lanes. -/
def someImage (m : Memory) : Memory :=
  let w := fun (m : Memory) (o n v : Nat) => Tab.writeLe m (0x200000 + o) n v
  w (w (w (w (w (w (w m 0 16 (0x4E474245 + 2 ^ 32 + 2 ^ 48 + 2 * 2 ^ 56 + 0x020202 * 2 ^ 64 + 4 * 2 ^ 96 + 2 ^ 112)) 16 2 1) 0x28 1 1) 0x30 8 (128 + 2 ^ 32))
    128 12 (2048 * 2 ^ 32 + 192 * 2 ^ 64)) 2048 4 0x2000) 2052 4 0x0D000000
/-- The body of a QUOTE of it. -/
def aQuote : List Byte :=
  field 8 0x200000 ++ field 8 0x100000 ++ field 8 0x400000 ++ field 8 0x300000 ++ field 8 0 ++ field 2 1 ++ field 1 1 ++ field 1 0 ++ field 2 0 ++ field 2 0
    ++ field 2 0 ++ field 2 0 ++ field 1 1 ++ field 11 0 ++ List.replicate 176 0
/-- A QUOTE packet with that body. -/
def demoQuote (body : List Byte) : State :=
  let s := demoPk 1 body id
  { s with mem := someImage s.mem }
/-- Its walk. -/
def walkOf (s : State) (body : List Byte) : Option Quotation :=
  let u := s.modPacket 3 fun p => { p with started := true }
  let b := quoteBody body
  let f := flowOf (readImage (u.imageAt b.img))
  (u.planClusters (descMask (u.descriptor (u.queue 1))) b f).bind fun cs => u.quoteWalk b (u.imageAt b.img) f cs

theorem test_quote :
    let s := demoQuote aQuote
    s.turn 3 = true ∧ (s.packet 3).type = 1 ∧ s.requestBusy (quoteBody aQuote).img (quoteBody aQuote).comm = false ∧ (s.modPacket 3 fun p => { p with started := true }).earlyRefusal aQuote (quoteBody aQuote) = 0
      ∧ (s.modPacket 3 fun p => { p with started := true }).earlyRefusal [] (quoteBody []) ≠ 0 ∧ (demoPk 1 [] id).turn 3 = true := by
  decide +kernel

/-- T_max of the image: 3 µs of start, 9 µs for its wave, 400 ns, and the two cycles of its one packet at level L (16 R323). -/
theorem test_quote_walk : ((walkOf (demoQuote aQuote) aQuote).map fun z => (z.tmax, z.shares.all (demoQuote aQuote).shareFree)) = some (12402, true) := by
  decide +kernel

/-- A share that leaves no way of L2. -/
def tight : State :=
  { demoQuote aQuote with
    resv := [(0, { live := true, qidx := 0, share := some { die := 0, cmask := 0, floor := 0, cap := 0, excl := false, maxc := 8, fabs := 0, hbmt := 0, lpt := 0, ways := 13, mon := 0
                                                            slices := 0, lslot := 0, tlbe := 0, pinq := 0, dust := 0, pwr := 0 } })] }

theorem test_quote_tight : ((walkOf tight aQuote).map fun z => z.shares.all tight.shareFree) = some false := by decide +kernel

theorem test_quote_no_cluster :
    let s : State := { demoQuote aQuote with mem := Tab.writeLe (demoQuote aQuote).mem 0x40000 16 0 }
    walkOf s aQuote = none ∧ s.turn 3 = true ∧ s.earlyRefusal aQuote (quoteBody aQuote) = 0 := by decide +kernel

/-- A quotation table without a free entry. -/
def fullTable : State := { demoQuote aQuote with quotes := (List.range 4095).map fun k => (k, { state := .done }) }

theorem get_replicated {V : Type} (d v : V) (n k : Nat) (h : k < n) : Tab.get d k ((List.range n).map fun i => (i, v)) = v := by
  rw [List.range_eq_range']
  suffices ∀ m a, a ≤ k → k < a + m → Tab.get d k ((List.range' a m).map fun i => (i, v)) = v from this n 0 (Nat.zero_le _) (by omega)
  intro m
  induction m with
  | zero => intro a h1 h2; omega
  | succ m ih =>
    intro a h1 h2
    simp only [List.range'_succ, List.map_cons, Tab.get]
    split
    · rfl
    · exact ih (a + 1) (by omega) (by omega)

theorem test_quote_table : (demoQuote aQuote).freeQuotes ≠ [] ∧ fullTable.freeQuotes = [] := by
  constructor
  · exact List.ne_nil_of_mem (a := 0) (List.mem_filter.2 ⟨List.mem_range.2 (by decide), by decide⟩)
  · apply List.filter_eq_nil_iff.2
    intro k hk
    have : fullTable.quote k = { state := .done } := get_replicated _ _ 4095 k (List.mem_range.1 hk)
    simp [this]

/-- A packet that names entry 1, which is in a state. -/
def demoEntry (type : Nat) (body : List Byte) (q : QEntry) : State := { demoPk type (field 2 1 ++ body) id with quotes := [(1, q)], launches := [], time := 10 }
/-- A share of one cluster. -/
def aShare : Share :=
  { die := 0, cmask := 1, floor := 0, cap := 0, excl := false, maxc := 1, fabs := 0, hbmt := 0, lpt := 0, ways := 0, mon := 0, slices := 0, lslot := 0, tlbe := 0
    pinq := 0, dust := 0, pwr := 2 }

/-- A slice whose table has room for a loose entry, and one that reservations of others fill, its chain short or full. -/
theorem test_wait_room :
    let g := demoM aPage fun g => { g with g := [(4, 5)] }
    let key := orderKey 0x30000
    let full := fun (l : List MonEntry) => ({ g with
      resv := [(2, { live := true, share := some { aShare with slices := 2 ^ (key % 32), mon := 480 } })]
      slices := [(key, { spill := l })] } : State)
    (g.slice key).loose + g.reservedMon key < 480 ∧ g.inWaitRange 0 = true ∧ g.monShare key 1 = 0
      ∧ ¬ ((full []).slice key).loose + (full []).reservedMon key < 480 ∧ (full []).monShare key 1 = 0
      ∧ (((full []).slice key).spill.filter fun m => m.tgt != 2).length < 1024
      ∧ 1024 ≤ (((full (List.replicate 1024 ({ v := true } : MonEntry))).slice key).spill.filter fun m => m.tgt != 2).length := by decide +kernel

theorem test_accept :
    let q : QEntry := { state := .quoted, cls := 1, plan := [aShare] }
    let s := demoEntry 2 [] q
    let start := fun (x : State) => x.modPacket 3 fun p => { p with started := true }
    let cap : State := { s with cap := 1 }
    (s.packet 3).type = 2 ∧ s.turn 3 = true ∧ (s.quote ((s.packet 3).num 0 2)).state = .quoted ∧ (start s).acceptFails q = false
      ∧ (q.plan.map Share.die).Nodup ∧ cap.turn 3 = true ∧ (start cap).acceptFails q = true ∧ (demoEntry 2 [] {}).turn 3 = true
      ∧ ((demoEntry 2 [] {}).quote 1).state ≠ .quoted := by decide +kernel

theorem test_decline :
    let s := demoEntry 3 [] { state := .quoted }
    (s.packet 3).type = 3 ∧ s.turn 3 = true ∧ (s.quote ((s.packet 3).num 0 2)).state = .quoted ∧ ((demoEntry 3 [] {}).quote 1).state ≠ .quoted
      ∧ ((demoEntry 3 [] {}).quote 1).state ≠ .accepted ∧ (demoEntry 3 [] {}).turn 3 = true ∧ (s.quote 1).vdl ≤ s.time.toNat
      ∧ ((demoEntry 3 [] { state := .accepted }).quote 1).vdl ≤ 10 ∧ ((demoEntry 3 [] { state := .accepted }).quote 1).state = .accepted
      ∧ s.time.toNat < ((demoEntry 3 [] { state := .quoted, vdl := 11 }).quote 1).vdl := by decide

theorem test_launch_packet :
    let ok : QEntry := { state := .accepted, vdl := 11, cohn := 1 }
    let s := demoEntry 4 [0, 0] ok
    let bad := demoEntry 4 [2, 0] ok
    (s.packet 3).type = 4 ∧ s.turn 3 = true ∧ (s.quote ((s.packet 3).num 0 2)).state = .accepted ∧ s.time.toNat < (s.quote 1).vdl
      ∧ launchBad (s.quote 1) (s.packet 3) = false ∧ (∀ e ∈ s.launches, e.2.live = true → e.2.qidx ≠ 1) ∧ bad.turn 3 = true
      ∧ launchBad (bad.quote 1) (bad.packet 3) = true ∧ (demoEntry 4 [0, 0] {}).turn 3 = true ∧ ((demoEntry 4 [0, 0] {}).quote 1).state ≠ .accepted
      ∧ (demoEntry 4 [0, 0] { ok with vdl := 10 }).turn 3 = true := by decide

theorem test_revoked :
    let s : State := { demo with resv := [(1, { live := true, qidx := 1, share := some aShare })], quotes := [(1, { state := .running })] }
    (s.resv.get {} (0 * 4096 + 1)).live = true ∧ (s.resv.get {} (0 * 4096 + 1)).share = some aShare ∧ (s.quote 1).state = .running ∧ (s.quote 1).brc = 0
      ∧ (s.quote 1).causes.length < 4 ∧ (demo.resv.get {} (0 * 4096 + 1)).live = false := by decide

/-! ### Launches -/

/-- Launch 1 alone, without a team. -/
def demoLaunch (l : Launch) : State := { State.reset with launches := [(1, { l with live := true, qidx := 1 })] }
/-- A record of 256 bytes of line 0x300. -/
def aRec : UndoRec := { line := 0x300, qidx := 1, interval := 0, seq := 0, bytes := List.replicate 256 9, poison := 0 }

theorem test_policy :
    let s := demoLaunch { policyDue := true, policy := 2 }
    let d : State := { s with dust := [(0, { recs := [aRec] })] }
    (s.launch 1).live = true ∧ (s.launch 1).policyDue = true ∧ 2 ≤ (s.launch 1).policy ∧ (s.launch 1).sinceClose < (s.launch 1).rtry
      ∧ s.rel.unrecoverable = false ∧ d.records (d.launch 1).qidx = [aRec] ∧ aRec.bytes.length = 256 ∧ (d.launch 1).vault = []
      ∧ d.familyTeams 1 = [] ∧ d.family 1 = [1] ∧ ((demoLaunch { policyDue := true }).launch 1).policy = 0
      ∧ ((demoLaunch { policyDue := true, policy := 1 }).launch 1).policy = 1 ∧ (demoLaunch {}).launch 1 = { live := true, qidx := 1 }
      ∧ ((demoLaunch { policyDue := true, policy := 2, sinceClose := 3 }).launch 1).rtry ≤ 3 := by decide

/-- An image of one group of four lanes. -/
def smallImage : Image := { wlaunch := 4, wmax := 4, team := 4, cohort := 1, regs := 64 }
/-- Launch 1 of that image with cluster 0 reserved, and every site of D0 in its queue's mask. -/
def demoCohort (d : List Byte) (l : Launch) : State :=
  { demoLaunch { l with image := smallImage } with
    mem := Tab.writeLe [] 0 32 (2 ^ 128 - 1 + 2 ^ 198)
    resv := [(1, { live := true, qidx := 1, share := some { aShare with lslot := 2 } })]
    quotes := [(1, { state := .running, digest := d })] }

theorem test_cohort :
    let s := demoCohort [] { started := true }
    let u := s.startLaunch 1
    (s.launch 1).live = true ∧ (s.launch 1).placed < (s.launch 1).cohorts ∧ s.rel.undercoatBusy = false ∧ s.startOpen (s.launch 1) = true
      ∧ (s.placeCohort 1).isSome = true ∧ (u.beginLaunch 1).isSome = true ∧ (((u.beginLaunch 1).getD u).placeCohort 1).isSome = true
      ∧ (s.launch 1).teamsIn (s.launch 1).placed ≠ 0 ∧ ((u.beginLaunch 1).getD {}).launch 1 = s.launch 1
      ∧ (demoLaunch {} |>.placeCohort 1) = none := by decide +kernel

theorem begin_none {s : State} {lk : Nat} (h : (s.launch lk).started = false) (hp : (s.launch lk).parent = none)
    (hd : Config.shake256 (readImage (s.imageAt (s.launch lk).img)).bytes ≠ (s.quote (s.launch lk).qidx).digest) : s.beginLaunch lk = none := by
  simp [State.beginLaunch, h, hp, hd]

theorem test_cohort_changed : ∃ d : List Byte, ((demoCohort d {}).startLaunch 1).beginLaunch 1 = none := by
  refine ⟨0 :: Config.shake256 (readImage (((demoCohort [] {}).startLaunch 1).imageAt 0)).bytes, begin_none rfl rfl fun h => ?_⟩
  have := congrArg List.length (show Config.shake256 (readImage (((demoCohort [] {}).startLaunch 1).imageAt 0)).bytes
    = 0 :: Config.shake256 (readImage (((demoCohort [] {}).startLaunch 1).imageAt 0)).bytes from h)
  simp at this

theorem test_child_placement :
    let r : LaunchRec := { child := 0, groups := 1, nargs := 0, counter := 8, args := [] }
    let bytes : List Byte := field 10 0 ++ field 1 2 ++ field 1 0 ++ field 2 4 ++ field 1 1
    let s := fun (clusters : BitVec 128) => ({ demoCohort [] {} with
      launches := [(1, { live := true, qidx := 1, image := { smallImage with bytes := bytes, children := [(0, 1)] } })]
      resv := [(1, { live := true, qidx := 1, share := some { aShare with lslot := 2, cmask := clusters } })]
      teams := [(1, { aTeam with pend := [r], cluster := 0 })] } : State)
    let child := fun (t : State) => (t.setLaunch t.launches.fresh (childOf t 1 r)).placeCohort t.launches.fresh
    ((s 1).team 1).live = true ∧ ((s 1).team 1).phase = .running ∧ ((s 1).team 1).pend = [r] ∧ (s 1).rel.undercoatBusy = false
      ∧ ((s 1).childrenOf 1).length < (s 1).childSlots 1 ∧ child (s 1) = none ∧ child (s 3) ≠ none ∧ ((s 3).childrenOf 1).length < (s 3).childSlots 1 := by
  decide +kernel

theorem test_child_completion :
    let s := fun (stage : Nat) (p : Bool) => ({ State.reset with
      launches := [(1, { live := true, qidx := 1 })
        , (2, { live := true, qidx := 1, parent := some 1, placed := 1, root := 0x100000, counter := 8, prot := p, stage := stage, wbs := [4] })]
      mem := someTables 0x3000F } : State)
    let c := s 1 false
    let w : State := { c with reqs := [(4, { live := true })] }
    let b : State := { c with slices := [(homeSlice 0x30000, { locks := [(0x300, 9)] })] }
    (c.launch 2).live = true ∧ (c.launch 2).finished = false ∧ (c.launch 2).parent ≠ none ∧ c.teamsOver 2 = true ∧ (c.launch 2).stage ≠ 0
      ∧ c.releasing 2 = false ∧ ((s 1 true).launch 2).prot = true ∧ (s 1 true).teamsOver 2 = true ∧ c.spaceAddr 0x100000 8 = some 0x30008
      ∧ isGlobal 0x30008 = true ∧ 0x30008 % 4 = 0 ∧ c.lineBusy (0x30008 / 256) 0 = false ∧ (c.launch 1).parent = none
      ∧ ((s 0 false).launch 2).stage = 0 ∧ (s 0 false).teamsOver 2 = true ∧ w.releasing 2 = true ∧ w.teamsOver 2 = true
      ∧ b.spaceAddr 0x100000 8 = some 0x30008 ∧ b.lineBusy (0x30008 / 256) 0 = true ∧ b.releasing 2 = false ∧ b.teamsOver 2 = true := by decide +kernel

theorem test_launch_release :
    let s : State := { demoLaunch { placed := 1, packet := 3 } with packets := [(3, { rele := true, rels := 3 })] }
    s.launchOver 1 = true ∧ (s.packet (s.launch 1).packet).rele = true ∧ (s.release 1 (s.packet (s.launch 1).packet).rels).isSome = true
      ∧ ((demoLaunch { placed := 1 }).packet 0).rele = false := by decide

theorem test_launch_over : (demoLaunch { placed := 1, halts := 1 }).launchOver 1 = true ∧ ((demoLaunch { placed := 1, halts := 1 }).launch 1).halts ≠ 0
    ∧ (demoLaunch {}).launchOver 1 = false := by decide

theorem test_comparison :
    let w := fun (g : Group) => { g with wait := .compare }
    let d := fun (g : Group) => { g with wait := .compare, digest := some 5 }
    let f := fun (g : Group) => { g with pressed := true }
    let s := demoP w w
    let u := demoP f id
    let v := demoP (fun g => { f g with sig := 1 }) id
    let t := demoP (fun g => { w g with sig := 1 }) w
    let e := demoP d d
    s.partner 0 = some 64 ∧ (s.group 0).place.side = 0 ∧ s.widowed 0 64 = false ∧ s.widowed 64 0 = false ∧ (s.group 0).atPoint = true
      ∧ (s.group 64).atPoint = true ∧ (s.group 0).ended = (s.group 64).ended ∧ (s.group 0).digest = (s.group 64).digest ∧ (s.group 0).digest = none
      ∧ (s.group 0).sig = (s.group 64).sig ∧ (t.group 0).sig ≠ (t.group 64).sig ∧ t.widowed 0 64 = false ∧ t.widowed 64 0 = false
      ∧ (s.group 0).forcedWith (s.group 64) = false
      ∧ u.partner 0 = some 64 ∧ (u.group 0).place.side = 0 ∧ u.widowed 0 64 = false ∧ u.widowed 64 0 = false ∧ (u.group 0).forcedWith (u.group 64) = true
      ∧ (u.group 0).sig = (u.group 64).sig ∧ (v.group 0).forcedWith (v.group 64) = true ∧ (v.group 0).sig ≠ (v.group 64).sig
      ∧ v.widowed 0 64 = false ∧ v.widowed 64 0 = false ∧ (e.group 0).digest ≠ none ∧ (e.group 0).digest = (e.group 64).digest ∧ e.partner 0 = some 64 ∧ demo.partner 0 = none := by decide

/-! ### Teams -/

/-- A launch of class DL that holds cluster 0, where team 2 of a BLK launch stands. -/
def demoPreempt (ddl : Nat) (t : Team) : State :=
  { demoCohort [] {} with
    launches := [(1, { live := true, qidx := 1, cls := 0, started := true, image := smallImage }), (2, { live := true, qidx := 2, cls := 3, image := smallImage })]
    quotes := [(1, { state := .running, cls := 0, ddl := ddl }), (2, { state := .running, cls := 3 })]
    teams := [(2, { t with live := true, launch := 2, lanes := 4, phase := .running, cluster := 0 })] }

theorem test_preempt :
    let s := demoPreempt 100000 {}
    (s.launch 1).live = true ∧ (s.launch 1).parent = none ∧ (s.launch 1).placed < (s.launch 1).cohorts ∧ s.startOpen (s.launch 1) = true
      ∧ s.placeCohort 1 = none ∧ s.toPreempt 1 = [2] ∧ (s.team 2).phase = .running ∧ (s.team 2).partner = 0
      ∧ s.time.toNat + s.drainTime 2 + 1500 ≤ s.latestStart 1 := by decide +kernel

theorem test_preempt_late :
    let s := demoPreempt 0 { restartable := true }
    let n := demoPreempt 0 {}
    s.placeCohort 1 = none ∧ s.toPreempt 1 = [2] ∧ s.latestStart 1 < s.time.toNat + s.drainTime 2 + 1500 ∧ (s.team 2).restartable = true
      ∧ (s.team 2).marked = false ∧ (s.team 2).service < 2 * s.saveTime 2 ∧ n.toPreempt 1 = [2] ∧ n.placeCohort 1 = none ∧ (n.team 2).restartable = false := by
  decide +kernel

theorem test_team_save :
    let s : State := { demo with teams := [(1, { aTeam with phase := .saving })] }
    let r : State := { demo with teams := [(1, { aTeam with phase := .saving, wbs := some [4] })] }
    let w : State := { r with reqs := [(4, { live := true })] }
    let d : State := { demo with teams := [(1, { aTeam with phase := .draining 0 2 })] }
    (s.team 1).live = true ∧ (s.team 1).phase = .saving ∧ s.teamStill 1 = true ∧ (s.team 1).wbs = none ∧ (s.team 1).partner = 0
      ∧ (r.team 1).wbs ≠ none ∧ r.teamStill 1 = true ∧ r.released 1 = true ∧ r.areasFree [1] = true ∧ w.released 1 = false ∧ w.teamStill 1 = true
      ∧ (d.team 1).phase = .draining 0 2 ∧ 0 ≤ d.time.toNat ∧ (demo.team 1).phase ≠ .saving
      ∧ (({ demo with teams := [(1, { aTeam with phase := .draining 1 2 })] } : State).team 1).phase = .draining 1 2 ∧ demo.time.toNat < 1 := by decide

theorem test_team_restore :
    let at' := fun (s : State) (t : Team) => ({ s with teams := [(1, { t with live := true, launch := 1, run := true })] } : State)
    let home := fun (s : State) => s.homeFor 1 fun c => dieOf c == dieOf (s.team 1).cluster
    let s := at' (demoCohort [] {}) { phase := .saved, image := some {} }
    let d := at' (demoCohort [] {}) { phase := .discarded }
    let n := at' (demoLaunch { image := smallImage }) { phase := .discarded }
    (s.team 1).comesBack = true ∧ s.rel.undercoatBusy = false ∧ (s.team 1).partner = 0 ∧ home s = some (0, false) ∧ (s.team 1).image = some {}
      ∧ (d.team 1).comesBack = true ∧ home d = some (0, false) ∧ (d.team 1).image = none ∧ (n.team 1).comesBack = true ∧ home n = none
      ∧ (demo.team 1).comesBack = false := by decide +kernel

/-! ### Power -/

/-- Cluster 0 alone, in a power state. -/
def demoPow (c : Cluster) : State := { demo with clusters := [(0, c)], quotes := [(1, { state := .running, cls := 0 })] }

theorem test_power :
    let duty := fun (s : State) => (s.cluster 0).duty
    let s := demoPow { power := { level := 0, target := 0, boosting := true } }
    let o := demoPow { power := { level := 0, target := 0 } }
    let c := demoPow { power := { level := 0, ratio := 1, target := 1 } }
    let t := demoPow { power := { stretching := true }, duty := 500 }
    let f := demoPow { meters := [(1, 25000000)], power := { level := 2, target := 2 } }
    (s.cluster 0).power.window = [] ∧ dutyBST (duty s) < 500 ∧ (s.cluster 0).power.level = (s.cluster 0).power.target ∧ (s.cluster 0).power.level < 2
      ∧ (c.cluster 0).power.changing = true ∧ (o.cluster 0).power.changing = false ∧ (o.cluster 0).power.boosting = false ∧ dutyBST (duty o) < 500
      ∧ (o.cluster 0).power.level = (o.cluster 0).power.target ∧ (o.cluster 0).power.level = (o.cluster 0).power.ratio ∧ (o.cluster 0).power.level < 2
      ∧ (s.cluster 0).power.boosting = true ∧ 500 ≤ dutyBST (duty t) ∧ (t.cluster 0).power.boosting = false ∧ (t.cluster 0).power.stretching = true
      ∧ (f.cluster 0).power.stretching = false ∧ (f.cluster 0).power.boosting = false ∧ (f.cluster 0).meters = [(1, 25000000)] ∧ (f.quote 1).state ≠ .free := by decide

theorem test_thermal :
    let s : State := { demoPow {} with resv := [(1, { live := true, qidx := 1, share := some { aShare with floor := 1 } })] }
    (∃ e ∈ s.resv, ∃ h, e.1 / 4096 = dieOf 0 ∧ e.2.live = true ∧ e.2.share = some h ∧ h.cmask.getLsbD (siteOf 0) = true ∧ 0 < h.floor)
      ∧ (s.quote 1).cls = 0 ∧ (s.quote 1).state = .running ∧ (s.quote 1).causes.length < 4 :=
  ⟨⟨_, List.mem_singleton.2 rfl, _, by decide, rfl, rfl, by decide, by decide⟩, by decide⟩

theorem test_cap :
    let s : State := { demoPow { power := { level := 2, target := 2 } } with cap := 100 }
    let low : State := { demoPow {} with cap := 100 }
    0 ∈ s.clusterKeys ∧ 99 < s.cap ∧ s.cap ≤ 100 ∧ s.levelFloor 0 < (s.cluster 0).power.target
      ∧ (∀ k ∈ s.clusterKeys, s.levelFloor k < (s.cluster k).power.target → (s.cluster k).power.target ≤ (s.cluster 0).power.target)
      ∧ (low.cluster 0).power.target ≤ low.levelFloor 0 := by decide

theorem test_figures :
    let s := fun (q : QEntry) => ({ demo with quotes := [(1, q)] } : State)
    ((s { state := .running, cls := 1, svc := 5 }).quote (demo.launch 1).qidx).tmax < 5 ∧ ((s { state := .running, nrg := 1 }).quote 1).causes = []
      ∧ 0 ≤ ((s { state := .running, nrg := 1 }).quote 1).tmax ∧ ((s { state := .running, nrg := 1 }).quote 1).emax * 1000 < 1
      ∧ ((s {}).quote 1).state ≠ .running := by decide

/-! ### Reliability -/

theorem test_closes :
    let s := demoLaunch { started := true, prot := true }
    let c := fun (r : Reliability) => ({ demoLaunch { prot := true } with rel := r } : State)
    let w : State := { demoWait (.ckpt 3) with rel := { closeDue := true, closing := true } }
    let b : State := { demo with rel := { closeDue := true, closing := true }, launches := [(1, { aLaunch with prot := true, policyDue := true })] }
    (s.launch 1).started = true ∧ (s.launch 1).prot = true ∧ (s.launch 1).parent = none ∧ (s.launch 1).boundaryAt + (s.quote 1).cki * 1000 ≤ s.time.toNat
      ∧ (c {}).rel.closeDue = false ∧ (c { closeDue := true }).rel.closing = false ∧ (c { closeDue := true, closing := true }).allStill = true
      ∧ (c { closeDue := true, closing := true, stage := 1 }).allStill = true ∧ (c { closeDue := true, closing := true, stage := 2 }).allStill = true
      ∧ ({ c { stage := 1, wbs := [4] } with reqs := [(4, { live := true })] } : State).rel.wbs = [4]
      ∧ (({ c { stage := 1, wbs := [4] } with reqs := [(4, { live := true })] } : State).req 4).live = true
      ∧ 1 ∈ (c { closeDue := true, closing := true }).protectedLaunches ∧ w.allStill = true ∧ (w.group 0).wait = .ckpt 3 ∧ (w.quote 0xFFF).state ≠ .running
      ∧ b.allStill = false := by decide

theorem test_still_alone (k : Nat) : (({ demoLaunch { prot := true } with rel := { closeDue := true, closing := true } } : State).launch k).paired = false := by
  by_cases h : 1 = k <;> simp [State.launch, demoLaunch, Tab.get, h]

theorem test_errors : isGlobal 0x30000 = true ∧ isVault 0x080000000000 = true ∧ isGlobal 0x030000000000 = false ∧ isVault 0x030000000000 = false
    ∧ 0x080000000000 < 2 ^ 48 ∧ demo.scrOwner (2 ^ 48 / 2 ^ 24 % 512) (2 ^ 48 % 2 ^ 24) = some (1, 0) ∧ State.reset.scrOwner 0 0 = none
    ∧ ({ demo with teams := [(1, { aTeam with phase := .saving })], clusters := [(0, { imageArea := some 2 })] } : State).areaNeeded 0 = true
    ∧ demo.areaNeeded 0 = false := by decide

theorem test_undercoat :
    let s : State := { State.reset with rel := { undercoatBusy := true } }
    let t : State := { State.reset with rel := { undercoatTaken := true, undercoat := some 0x040000000000 } }
    s.noneResident = true ∧ s.rel.undercoatBusy = true ∧ t.noneResident = true ∧ t.rel.undercoatTaken = true ∧ t.rel.undercoatBusy = false
      ∧ isHbm 0x30000 = true ∧ demo.noneResident = false ∧ coatBase 0x040000000000 = true
      ∧ coatAt 0x040000000000 0x30000 = some 0x040000030000 ∧ coatAt 0x040000000000 0x2E0000000000 = none := by decide

/-! ### Firmware -/

/-- A request with its operands that waits in the mailbox of D0, where firmware runs; they stand in it as log 38 has it. -/
def demoMail (code : Nat) (ops : List Nat) : State :=
  let bytes := field 1 code ++ ((operandWidths code).zip ops).flatMap fun e => field e.1 e.2
  { State.reset with dies := [(0, { resetDie with ready := 0x80, mbTail := 1, mailbox := Tab.writeList [] 0 bytes }), (1, resetDie), (2, resetDie), (3, resetDie)] }
/-- The request waits, and its operands read as written. -/
def mailWaits (s : State) (code : Nat) (ops : List Nat) : Bool :=
  (s.die 0).ready.getLsbD 7 && (s.die 0).mbHead != (s.die 0).mbTail && s.reqCode 0 == code && s.reqOps 0 == ops

theorem test_unknown_request : (demoMail 9 []).reqCode 0 = 9 ∧ (demoMail 9 []).requestOk 0 = false ∧ (demoMail 9 []).asked 0 = true
    ∧ State.reset.asked 0 = false ∧ (State.reset.die 0).ready.getLsbD 7 = false := by decide

/-- A queue of 16 slots at 0x50000, its descriptor at 0x40000. -/
theorem test_createq :
    let ops := [0x50000 * 2 ^ 208 + 2 ^ 198, 0x40000, 0x100000]
    let s := demoMail 1 ops
    let d := BitVec.ofNat 256 (s.reqOp 0 0)
    mailWaits s 1 ops ∧ isGlobal (s.reqOp 0 1) = true ∧ homeDie (s.reqOp 0 1) = 0 ∧ s.reqOp 0 1 % 32 = 0 ∧ isGlobal (descBase d) = true
      ∧ homeDie (descBase d) = 0 ∧ descBase d % 64 = 0 ∧ homeDie (descBase d + 64 * descSlots d - 1) = 0 ∧ s.reqOp 0 2 % 8192 = 0
      ∧ isGlobal (descBase d + 64 * descSlots d - 1) = true ∧ tableOk (s.reqOp 0 2) = true ∧ d.toNat % 2 ^ 128 = 0 ∧ s.requestOk 0 = true := by
  decide +kernel

theorem test_destroyq :
    let s : State := { demoMail 2 [0x40000] with queues := [(1, { live := true, desc := 0x40000 })] }
    mailWaits s 2 [0x40000] ∧ (s.queue 1).live = true ∧ (s.queue 1).die = 0 ∧ (s.queue 1).desc = s.reqOp 0 0 ∧ s.requestOk 0 = true := by decide

theorem test_setcap : mailWaits (demoMail 3 [100]) 3 [100] ∧ (demoMail 3 [100]).reqOp 0 0 ≤ 5200 ∧ (demoMail 3 [100]).requestOk 0 = true
    ∧ (demoMail 3 [6000]).requestOk 0 = false := by decide

theorem test_setregions :
    let ops := [0x040000000000, 0x30000]
    let s := demoMail 4 ops
    mailWaits s 4 ops ∧ coatBase (s.reqOp 0 0) = true ∧ regionOf (s.reqOp 0 1) = .hbm 0 ∧ 0 / 6 = 0 ∧ s.requestOk 0 = true := by decide

theorem test_undercoat_request :
    let s := demoMail 5 []
    let r : State := { s with rel := { undercoat := some 0x040000000000 } }
    mailWaits s 5 [] ∧ s.rel.undercoat = none ∧ s.requestOk 0 = true ∧ mailWaits r 5 [] ∧ r.rel.undercoatBusy = false ∧ r.rel.undercoat ≠ none := by decide

theorem test_fwupdate : mailWaits (demoMail 6 [0x30000, 16]) 6 [0x30000, 16] := by decide

theorem test_attest :
    let ops := [5, 0x30000]
    let s := demoMail 7 ops
    mailWaits s 7 ops ∧ globalSpan (s.reqOp 0 1) 4096 = true ∧ s.requestOk 0 = true ∧ (s.die 0).nextLeaf ≠ none := by decide

theorem test_setfilter :
    let ops := [3, 63, 0, 0x0200_0000_0001, 0x0800, 0, 0x40000, 1]
    let s := demoMail 8 ops
    mailWaits s 8 ops ∧ s.reqOp 0 0 < 4 ∧ s.reqOp 0 1 < 64 ∧ s.requestOk 0 = true := by decide

theorem test_functions : functionBit 6 = true ∧ functionBit 7 = true ∧ functionBit 8 = false ∧ (0 : Nat) < 4 := by decide

/-! ### The outside -/

theorem test_host : holeIn 0x030000000000 4 = some 0x030000000000 ∧ holeIn 0x30000 4 = none ∧ regionOf 0x30000 ≠ .device ∧ isGlobal 0x30000 = true
    ∧ (∀ i, i < 4 → regionOf (0x30000 + i) ≠ .device) ∧ regionOf (mailboxPa 1) = .device ∧ winDie (mailboxPa 1) = 1 ∧ winOff (mailboxPa 1) = 0x10000
    ∧ holeIn (mailboxPa 1) 1 = none ∧ globalPart 0x30000 [1, 2, 3, 4] = [1, 2, 3, 4] ∧ State.reset.storable 0 0x30003 = true
    ∧ holeIn 0x080000000000 4 = none ∧ isGlobal 0x080000000000 = false ∧ regionOf 0x080000000000 ≠ .device := by decide

/-- A filter of port 0 of D0 with a ring of two slots of 64 bytes at 0x50000, its descriptor at 0x40000. -/
def demoRing (tail head : Nat) : State :=
  { State.reset with
    dies := [(0, { resetDie with ready := 2 ^ 20, filters := [(0, { live := true, ring := 0x40000 })] })]
    mem := Tab.writeLe [] 0x40000 32 (0x50000 * 2 ^ 208 + 6 * 2 ^ 204 + 2 ^ 200 + head * 2 ^ 128 + tail * 2 ^ 96) }

theorem test_ingress :
    let s := demoRing 0 0
    let d := fun (s : State) => leNat (s.homeBytes 0x40000 32)
    (s.die 0).ready.getLsbD (20 + 0) = true ∧ (s.die 0).filterFor 0 0 0 0 = some { live := true, ring := 0x40000 } ∧ (s.die 0).filterFor 0 1 0 0 = none
      ∧ 2 ^ bits (d s) 207 204 = 64 ∧ 2 ^ bits (d s) 203 200 = 2 ∧ bits (d s) 127 96 = 0 ∧ bits (d s) 255 208 = 0x50000 ∧ 0x40000 % 4 = 0
      ∧ (bits (d (demoRing 2 0)) 127 96 + 2 ^ 32 - bits (d (demoRing 2 0)) 159 128) % 2 ^ 32 = 2
      ∧ (State.reset.die 0).ready.getLsbD (20 + 0) = false := by decide

theorem test_time : State.reset.ptp.stepped = false ∧ ({ State.reset with ptp := { stepped := true } } : State).ptp.stepped = true
    ∧ (({ State.reset with quotes := [(1, { state := .running })] } : State).quote 1).state = .running
    ∧ clusterOf (groupKey (clusterKey 0 120) 0 0) = clusterKey 0 (State.reset.die 0).fwSite := by decide

/-! ### Numbers -/

theorem test_float_numbers : (f32.val 0x40490FDB).Fin ∧ (f16.val 0x3C00).Fin ∧ (b16.val 0x3F80).Fin ∧ (f32.val 0xC0490FDB).Fin ∧ f32.Wide
    ∧ f32.val 0x40490FDB = .fin false 0xC90FDB (-22) ∧ f32.val 0xC0490FDB = .fin true 0xC90FDB (-22) ∧ (0xC90FDB : Nat) ≠ 0
    ∧ (b16.val (0x3F80 % 2 ^ 16)).Fin ∧ (w8.narrow 0x38).Fin ∧ (w4.narrow 2).Fin ∧ f32.val 0xFF800000 = .inf true ∧ f16.val 0xFC00 = .inf true
    ∧ f16.val 0x7E03 = .nan false 3 ∧ (f32.val 0x7FC00000).isNan = true ∧ 0xFFFFFFFF < 2 ^ 32 :=
  ⟨⟨by decide, by decide⟩, ⟨by decide, by decide⟩, ⟨by decide, by decide⟩, ⟨by decide, by decide⟩, .inl rfl, by decide, by decide, by decide,
    ⟨by decide, by decide⟩, ⟨by decide, by decide⟩, ⟨by decide, by decide⟩, by decide, by decide, by decide, by decide, by decide⟩

/-- 2 is an integer and a power of two, 0 has no magnitude, and half a unit above the largest F16 number overflows where 1 does not. -/
theorem test_float_exact : (f32.val 0x40000000).rat = (2 : Int) ∧ (f32.val 0x40000000).rat = 2 ^ (1 : Int) ∧ (f32.val 0).rat = 0
    ∧ f16.Overflows 0 false 65536 ∧ ¬ f16.Overflows 0 false 1 := by
  have h : f32.val 0x40000000 = .fin false 8388608 (-22) := by decide
  have z : f32.val 0 = .fin false 0 (-149) := by decide
  rw [h, z]
  norm_num [Val.rat, Fmt.Overflows, TowardZero, FromZero, Fmt.limit, Fmt.bias, Fmt.frac, f16]

theorem test_dot_numbers : (∀ k, k < 4 → (w8.narrow (elem 0x38383838 8 k)).Fin) ∧ (∃ k, k < 4 ∧ (w8.narrow (elem 0x00000080 8 k)).isNan = true)
    ∧ (f32.val 0x7FC00003) = .nan false 3 ∧ (f32.val 0).Fin ∧ (∀ p ∈ [((.fin false 1 0 : Val), (.fin true 3 1 : Val))], p.1.Fin ∧ p.2.Fin) := by
  refine ⟨fun k h => ?_, ⟨0, by decide, by decide⟩, by decide, ⟨by decide, by decide⟩, fun p h => ?_⟩
  · have : k = 0 ∨ k = 1 ∨ k = 2 ∨ k = 3 := by omega
    rcases this with rfl | rfl | rfl | rfl <;> exact ⟨by decide, by decide⟩
  · rw [List.mem_singleton.1 h]; exact ⟨⟨rfl, by simp⟩, ⟨rfl, by simp⟩⟩

theorem test_float_order : (f32.val (0x3F800000 : Word).toNat).isNan = false ∧ (f32.val (0xBF800000 : Word).toNat).isNan = false
    ∧ (f32.val (0x7F800000 : Word).toNat).isNan = false ∧ fcmpCond 2 0xBF800000 0x3F800000 = true ∧ fcmpCond 4 0xBF800000 0x3F800000 = false
    ∧ fcmpCond 2 0x3F800000 0x7F800000 = true := by decide

/-! ### Division beyond its limit; pairs that wait -/

/-- Both sides of a division inhabited, its back-edge counted once already. -/
theorem test_divide_limit :
    let s := demoS fun st => { st with trips := [(1, 1)] }
    issues s (.bdiv 0 1 0) = true ∧ s.str.exm &&& s.seen.pred 0 ≠ 0 ∧ s.str.exm &&& ~~~ s.seen.pred 0 ≠ 0 ∧ (0 : BitVec 16).toInt ≤ 0
      ∧ s.backEdgeOk 0 s.str = false ∧ demo.backEdgeOk 0 demo.str = true ∧ (demo.me.strand 0).live = true := by decide

/-- A group of a pair whose partner has come to another packet. -/
def demoOdd : State := demoP id fun g => { g with progress := 1 }

theorem test_split_pair : demoW.pairEven 0 = true ∧ (demoW.after (demoW.me.strand 0)).isSome = true ∧ demoW.me.live = true ∧ demo.pairEven 0 = true
    ∧ demoOdd.pairEven 0 = false ∧ issues demoOdd (.split 0 2) = true := by decide

theorem test_fuse_pair :
    let s := demoB (.fuse 3 1024)
    let w := demoB .none
    let lo := s.group 0
    let hi := s.group 1
    demo.fuseEven = true ∧ demoOdd.fuseEven = false ∧ issues demoOdd (.fuse 0) = true
      ∧ s.fuseEven = true ∧ s.fuseStatus = 0 ∧ s.buddy s.cur.group = some 1 ∧ (1 : Nat) ≠ s.cur.group ∧ hi.wait = .fuse 3 1024
      ∧ (s.afterIn 0 (((fuseGroups lo hi).setG 0 0).strand 0)).isSome = true ∧ ((fuseGroups lo hi).setG 0 0).release.length ≤ 64 ∧ lo.release.Nodup
      ∧ w.fuseEven = true ∧ w.fuseStatus = 0 ∧ w.buddy w.cur.group = some 1 ∧ (w.group 1).wait = .none
      ∧ demo.fuseEven = true ∧ demo.fuseStatus ≠ 0
      ∧ ((demoB (.fuse 3 0)).afterIn 1 (((demoB (.fuse 3 0)).group 1).strand 0)).isSome = true := by decide

/-! ### Words of a pair -/

/-- A group of a pair whose partner has another width, so that it has none. -/
def demoLoneOf (f h : Group → Group) : State := demoP f fun g => h { g with place := { g.place with width := 8 } }
/-- The same as it stands. -/
def demoLone : State := demoLoneOf id id

theorem test_read_wait :
    let h := demoR (fun g => { g with fwd := [{ vals := [(0, 5)] }] }) id
    demoLone.partner 0 = none ∧ demoLone.pairedMe = true ∧ issues demoLone (.rdclk 0) = true ∧ demo.pairedMe = false
      ∧ (h.group 0).fwd = [{ vals := [(0, 5)] }] ∧ ({ vals := [(0, 5)] } : Forward).op = 0 ∧ ({ vals := [(0, 5)] } : Forward).wait = false := by decide

theorem test_privileged_none : (0x10200 ≤ 0x10200 ∧ 0x10200 < 0x20000) ∧ 0x1FFFF < 0x20000 ∧ (0x20200 ≤ 0x20200 ∧ 0x2FFFF < 0x30000)
    ∧ (0x30018 ≤ 0x30018 ∧ 0x3FFFF < 0x40000) ∧ (0 : Nat) = 0 ∧ (4 < 5 ∧ 0xFFFF < 0x10000) := by decide

/-- The pair of which one group moves, lane 0 alone, with a page for each side. -/
def demoTwo (e : TlbEntry) (s : (Group → Group) → (Group → Group) → State) (f h : Group → Group) : State :=
  let one := fun (g : Group) => { g with strands := [(0, { aStrand with exm := 1 })] }
  let p := s (f ∘ one) (h ∘ one)
  { p with launches := [(1, { aLaunch with paired := true, ranges := [aRange] })], clusters := [(0, { tlb := [e] }), (1, { tlb := [e] })] }

theorem test_ldg_pair :
    let ok := fun (x : State) => x.access { vault := false, rd := true } 4 false pageFormat (x.hardLanes (x.ea 126 8)) (x.softLanes (x.ea 126 8))
    let s := demoTwo aPage demoP id id
    let full := demoTwo aPage demoP (fun g => { g with fwd := List.replicate 256 { vals := [] } }) id
    let r := demoTwo aPage demoR (fun g => { g with fwd := [{ vals := [(0, 5)] }] }) id
    let w := demoTwo aPage demoR (fun g => { g with fwd := [{ vals := [], op := 9 }] }) id
    let l := demoTwo aPage demoLoneOf id id
    ok s = .ok [(anAcc 0x30008, aPage)] ∧ s.partner 0 = some 64 ∧ s.leftMe = true ∧ s.me.fwd.length < 256 ∧ s.mustWait 0 [(0x30008, 4)] = false
      ∧ s.txReads = false ∧ issues s (.ldg 0 127 126 2) = true ∧ ok full = .ok [(anAcc 0x30008, aPage)] ∧ 256 ≤ full.me.fwd.length
      ∧ issues full (.ldg 0 127 126 2) = true ∧ full.partner 0 = some 64
      ∧ ok r = .ok [(anAcc 0x30008, aPage)] ∧ r.partner 64 = some 0 ∧ r.rightMe = true ∧ (0 : Nat) ≠ r.cur.group ∧ issues r (.ldg 0 127 126 2) = true
      ∧ (r.group 0).fwd = [{ vals := [(0, 5)] }] ∧ r.mustWait 0 [(0x30008, 4)] = false ∧ r.txReads = false
      ∧ ok w = .ok [(anAcc 0x30008, aPage)] ∧ (w.group 0).fwd = [{ vals := [], op := 9 }] ∧ (9 : Nat) ≠ 0 ∧ issues w (.ldg 0 127 126 2) = true
      ∧ l.partner 0 = none ∧ l.pairedMe = true ∧ issues l (.ldg 0 127 126 2) = true ∧ ok l = .ok [(anAcc 0x30008, aPage)] := by decide

/-- Two lanes that store to one word: the higher one's data stand. -/
theorem test_stg_lanes :
    let m := demoM aPage fun g => { g with strands := [(0, { aStrand with exm := 3 })] }
    let s : State := { m with clusters := [(0, { tlb := [aPage], l1 := [(0x300, { live := true })] })] }
    let l := [(anAcc 0x30008, aPage), ({ lane := 1, ea := 8, pa := 0x30008 }, aPage)]
    issues s (.stg 0 127 126 2) = true ∧ s.access { vault := false, wr := true } 4 false (fun _ => true) (s.hardLanes (s.ea 126 8)) [] = .ok l
      ∧ s.mustWait 0 [(0x30008, 4), (0x30008, 4)] = false ∧ s.inTx = false ∧ s.pairedMe = false ∧ (∀ e ∈ (s.cluster s.myCluster).l1, e.2.held = [])
      ∧ (∀ e ∈ l, regionOf e.1.pa ≠ .device) ∧ (∀ x ∈ l, x.1.pa % 4 = 0 ∧ (s.l1Line s.myCluster (x.1.pa / 256)).live = true)
      ∧ s.me.release.length + l.length ≤ 64 ∧ (∀ i, i < 4 → s.storable s.me.place.qidx (0x30008 + i) = true ∧ s.reservedByte (0x30008 + i) = false)
      ∧ (l.filter fun x => decide (x.1.pa ≤ 0x30008) && decide (0x30008 < x.1.pa + 4)).getLast? = some ({ lane := 1, ea := 8, pa := 0x30008 }, aPage) := by
  decide

theorem test_atomics_pair :
    let v := demoTwo vPage demoP id id
    let l := demoTwo aPage demoLoneOf id id
    let ok := fun (w : Bool) (x : State) => x.access { vault := w, rd := true, wr := true } 4 false (fun _ => true) (x.hardLanes (x.ea 126 8)) []
    v.partner 0 = some 64 ∧ v.me.approved = false ∧ v.inTx = false ∧ issues v (.atomv 0 false 127 126 2) = true ∧ issues v (.atoms 0 false 127 127 2) = true
      ∧ ok true v = .ok [(anAcc 0x080000000008, vPage)] ∧ v.mustWait 1 [(0x080000000008, 4)] = false
      ∧ firstScrTrap v.myTeam (some v.myImage) 4 false (v.hardLanes (v.eaScr 127 8)) = none
      ∧ v.mustWait 2 ((v.hardLanes (v.eaScr 127 8)).map fun e => (e.2, 4)) = false ∧ v.pairedMe = true
      ∧ l.partner 0 = none ∧ l.pairedMe = true ∧ l.inTx = false ∧ ok false l = .ok [(anAcc 0x30008, aPage)] ∧ l.mustWait 0 [(0x30008, 4)] = false
      ∧ issues l (.atomg 0 false 127 126 2) = true ∧ demo.pairedMe = false := by decide

/-! ### Atomic steps of global memory; transactions -/

/-- A step of an atomic whose request is served at its home slice, the sector there or not. -/
def demoAtom (there : Bool) (locks : List (Nat × Nat)) : State :=
  { demoO { kind := .atomic 0 0 4 [anAcc 0x30008] [(0, 1)] [0x30008], reqs := [1] } with
    reqs := [(1, { live := true, kind := .atom 0x30008, op := 5, legs := [.slice (homeSlice 0x30008)] })]
    slices := [(homeSlice 0x30008, { lines := if there then [(0x300, { live := true, valid := 1 })] else [], locks := locks })] }

theorem test_atomic_served :
    let s := demoAtom true []
    let n := demoAtom false []
    let w := demoAtom true [(0x300, 9)]
    s.served (s.atomReq 5 0x30008) = true ∧ s.homeHas 0x30008 = true ∧ (∀ k, k < 4 → s.storable (s.op 5).qidx (0x30008 + k) = true
        ∧ s.reservedByte (0x30008 + k) = false) ∧ n.served (n.atomReq 5 0x30008) = true ∧ n.lacking (n.op 5).qidx [(0x30008, 4)] ≠ []
      ∧ w.served (w.atomReq 5 0x30008) = false := by decide

/-- A `TXB` at the packet at which the last transaction opened, and at another. -/
theorem test_txb_count :
    let s := demoG fun g => { g with tx := { count := 2, pc := some (aStrand.pc) } }
    let o := demoG fun g => { g with tx := { count := 2, pc := some (pcOf 0 7 0) } }
    pcSame aStrand.pc s.str.pc = true ∧ pcSame (pcOf 0 7 0) o.str.pc = false ∧ s.me.tx.isOpen = false ∧ s.seen.liveStrands.length ≤ 1
      ∧ issues s (.txb 0 2) = true ∧ issues o (.txb 0 1) = true ∧ (0 : Nat) + 1 ≤ (1 : BitVec 8).toNat ∧ s.pairedMe = false := by decide

theorem test_commit_gone :
    let s : State := { demoC {} id with groups := [] }
    (s.op 5).live = true ∧ s.opGone (s.op 5) = true ∧ ((demoC {} id).op 5).kind = .commit 3 [] [] ∧ (demoC {} id).opGone ((demoC {} id).op 5) = false
      ∧ (∀ l ∈ ((demoC {} id).group 0).tx.wlines, (((demoC {} id).slice (homeSlice (l * 256))).line l).live = true)
      ∧ (demoC {} id).reservedByte 0x30008 = false := by decide

/-- A fence of translations at its end: a walk of its cluster under way, then none stale; and one of firmware that reaches every die. -/
theorem test_tfence :
    let f : Fence := { scope := 3, kind := 2, paths := 1, translation := true, released := true, ops := [], wbs := [] }
    let a : State := { demoFence f [] with walks := [(2, { live := true, clusters := [0] })] }
    let b := demoFence { f with dropping := true } []
    let p : State := demoG fun g => { g with fence := some { f with dropping := true }, place := { g.place with priv := true } }
    (a.group 0).fence = some f ∧ a.fenceDone f = true ∧ (a.walks.get {} 2).live = true ∧ clusterOf 0 ∈ (a.walks.get {} 2).clusters
      ∧ (b.group 0).fence = some { f with dropping := true } ∧ b.fenceDone { f with dropping := true } = true ∧ (∀ e ∈ b.walks, e.2.stale = false)
      ∧ ((b.group 0).place.priv && decide (2 ≤ f.scope)) = false ∧ ((p.group 0).place.priv && decide (2 ≤ f.scope)) = true
      ∧ p.fenceDone { f with dropping := true } = true ∧ ({ demo with reqs := [(1, { live := true, legs := [.slice 0] })] } : State).req 1 ≠ {} := by decide

theorem test_cfetch_lacking :
    let s := demoO { kind := .cfetch 0 0x30000 }
    let g : State := { s with groups := [] }
    s.opAlive (s.op 5) = true ∧ isGlobal 0x30000 = true ∧ s.lacking (s.op 5).qidx [(0x30000, 2048)] ≠ [] ∧ g.opAlive (g.op 5) = false
      ∧ (g.op 5).live = true := by decide

/-- A fetch with every sector of its segment at home, the first poisoned or not. -/
def demoFetch (bad : Bool) : State :=
  let s := demoO { kind := .cfetch 0 0x30000 }
  let s := if bad then { s with sectorPoison := [(0x30000 / 64, true)] } else s
  (List.range 8).foldl (fun s i => s.modSlice (homeSlice (0x30000 + 256 * i)) fun x =>
    { x with lines := x.lines.set {} (0x300 + i) { live := true, valid := 15 } }) s

theorem test_cfetch_home : (demoFetch false).lacking ((demoFetch false).op 5).qidx [(0x30000, 2048)] = []
    ∧ (∀ i, i < 8 → (demoFetch false).lineBusy (0x30000 / 256 + i) 0 = false) ∧ (demoFetch true).lacking ((demoFetch true).op 5).qidx [(0x30000, 2048)] = []
    ∧ (demoFetch false).opAlive ((demoFetch false).op 5) = true := by decide +kernel

/-- A pin of a line that the slice holds, and of one that it lacks. -/
theorem test_pin_there :
    let k := sliceNo (0x300 * 256)
    let s := demoPin false true []
    let n := demoPin false false []
    (s.op 5).live = true ∧ (s.op 5).kind = .pin 3 0x300 false ∧ (s.op 5).mirror = 0 ∧ s.opAlive (s.op 5) = true
      ∧ ((s.slice k).line 0x300).live = true ∧ ((s.slice k).line 0x300).valid ≠ 0 ∧ ((n.slice k).line 0x300).live = false ∧ n.opAlive (n.op 5) = true
      ∧ (((demoPin true true []).slice k).line 0x300).pins = [] := by decide

theorem test_wait_saved :
    let s : State := { demoWait (.monitor 0 false { d := 3, outcome := some (0, 5) }) with teams := [(1, { aTeam with phase := .saving })] }
    (s.group 0).wait = .monitor 0 false { d := 3, outcome := some (0, 5) } ∧ (s.team (s.group 0).place.team).phase = .saving
      ∧ (demo.team (demo.group 0).place.team).phase ≠ .saving ∧ (s.group 0).place.priv = false := by decide

theorem test_wait_pending :
    let r : WaitRec := { d := 3 }
    let m : MonEntry := { v := true, waddr := 0x30000, cmp := 1, who := 0, exp := 0, tgt := 0 }
    let c : State := { demoWait (.scratch 1 0 r) with clusters := [(0, { clk := 1, scr := [(0, { v := true, cmp := 1, team := 1, expc := 2 })] })] }
    (c.group 0).wait = .scratch 1 0 r ∧ r.outcome = none ∧ c.clk (clusterOf 0) < 2 ∧ m.tgt = 0 ∧ (1 : Nat) < 1024 := by decide

/-! ### Marks, barriers, engines, collectives -/

theorem test_marks_due :
    let s : State := { demo with teams := [(1, { aTeam with marks := [(96, 0), (97, 16)] })] }
    (s.team 1).marks = (96, 0) :: [(97, 16)] ∧ (demo.team 1).marks = [] := by decide

theorem test_role_copy :
    let s : State := { demoBar [(0, 16)] [(20, 32)] with groups := [(0, { aGroup with place := { aGroup.place with role := .copy }, g := [(0, 16)] })] }
    issues s (.stagea 126 0) = true ∧ s.seen.place.role = .copy ∧ isStage s 16 = true := by decide

theorem test_coll_root :
    let s := demoE [(2, 8), (4, 1)] id
    let k := collCmd s.seen 0 8
    k.oper ≠ 3 ∧ (s.ranksOf s.seen.place.launch k.comm).idxOf (some s.cur.group) = 0 := by decide

theorem test_engine_head :
    let s := demoEng { kind := .copy aCopy }
    let g := demoEng { kind := .gather aGather }
    s.engineHead (s.op 5).cluster true = some 5 ∧ (s.op 5).kind = .copy aCopy ∧ s.opAlive (s.op 5) = true ∧ (s.op 5).mirror = 0 ∧ s.mayWrite 1 16 4
      ∧ g.engineHead (g.op 5).cluster false = some 5 ∧ demo.engineHead 0 true ≠ some 5 ∧ demo.engineHead 0 false ≠ some 5 := by decide

/-- A collective of one rank, the sectors of its source at hand, its record open; and one with a peer on another device. -/
theorem test_coll_alone :
    let l := fun (ranks : List (Option Nat)) => { aLaunch with ranges := [aRange], ranks := [ranks], colls := [{ id := 0, comm := 0, oper := 0, fmt := 0, n := 1, joined := [0] }] }
    let s : State := { demoEng { kind := .coll aColl, path := 7 } with
      launches := [(1, l [some 4])], slices := [(homeSlice 0x30000, { lines := [(0x300, { live := true, valid := 15 })] })] }
    let e : State := { s with launches := [(1, l [some 4, none])] }
    (s.op 5).kind = .coll aColl ∧ s.ranksOf (s.team (s.op 5).team).launch aColl.comm = [some (s.op 5).group]
      ∧ s.collOf (s.team (s.op 5).team).launch aColl.id (s.op 5).group = some (5, s.op 5, aColl) ∧ (s.op 5).mirror = 0 ∧ s.opAlive (s.op 5) = true
      ∧ (s.op 5).pos = 0 ∧ aColl.fmt ≤ 2 ∧ aColl.late = false ∧ s.lacking (s.op 5).qidx [(0x30000, 4)] = []
      ∧ foundAt (s.pieces 5 (s.op 5) 0 0 4 false) = [(0x30000, 4)] ∧ s.pieceBusy [(0x30000, 4)] = false
      ∧ (s.launch 1).coll 0 = some { id := 0, comm := 0, oper := 0, fmt := 0, n := 1, joined := [0] }
      ∧ e.ranksOf (e.team (e.op 5).team).launch aColl.comm = [some (e.op 5).group, none]
      ∧ e.collOf (e.team (e.op 5).team).launch aColl.id (e.op 5).group = some (5, e.op 5, aColl) ∧ e.opAlive (e.op 5) = true
      ∧ ([1, 2] : List Byte).length ≠ aColl.chunkElems 0 * aColl.size
      ∧ some 0 ∈ s.ranksOf 1 aColl.comm ∧ ({ s with ops := [] } : State).collOf 1 aColl.id 0 = none := by decide

/-! ### Caches, packets, launches -/

/-- No reservation holds an entry of a translation cache. -/
theorem test_walk_free (j : Nat) : ((demoWalk true {}).resv.get {} j).share = none := by
  have : (demoWalk true {}).resv = [] := by decide
  simp [this]

theorem test_write_back_order :
    let k : ReqKind := .wb 0x300 15 [(0, 1)] 1 0 false
    let two := fun (x : Slice) => ({ demoReq k x with reqs := [(1, { live := true, kind := k, legs := [.slice (homeSlice 0x30000)], seq := 1 })
      , (2, { live := true, kind := k, legs := [.slice (homeSlice 0x30000)], circled := true })] } : State)
    (two {}).mustCircle 2 0x300 = true ∧ ((two {}).req 2).legs = [.slice (homeSlice 0x30000)] ∧ ((two {}).slice (homeSlice 0x30000)).wbuf.length < 16
      ∧ ((two {}).req 2).offered = false ∧ ((two {}).req 2).kind = k := by decide

theorem test_wait_taken :
    let wait := demoQ 1 0x01000005 { slot := some 0 } {}
    let h := leNat (wait.homeBytes 0x50000 16)
    let p : Packet := { live := true, queue := 1, type := h % 256, len := 1, atHead := h % 256 == 5, body := (wait.homeBytes 0x50000 64).drop 16 }
    wait.functionsReady p = true ∧ h % 256 = 5 ∧ bits h 31 24 = 1 ∧ (wait.queue 1).packets = [] ∧ (wait.descriptor (wait.queue 1)).toNat ≠ 0
      ∧ (0x40000 : Nat) % 32 = 0 ∧ isGlobal (wait.queue 1).desc = true := by decide

/-- The page of a WAIT that an event has brought. -/
theorem test_wait_served :
    let s := demoPk 5 (field 8 8 ++ field 4 0) fun p => { p with started := true, eventAt := some 0 }
    (s.packet 3).live = true ∧ (s.packet 3).eventAt ≠ none ∧ s.queueBusy 1 8 = false ∧ s.queueLeaf 1 8 ≠ none
      ∧ (({ s with slices := [(homeSlice 0x100000, { locks := [(0x1000, 9)] })] } : State).queueBusy 1 8) = true := by decide

theorem test_request_busy :
    let s : State := { demoQuote aQuote with slices := [(homeSlice 0x200000, { locks := [(0x2000, 9)] })] }
    s.requestBusy (quoteBody aQuote).img (quoteBody aQuote).comm = true ∧ (demoQuote aQuote).requestBusy 0 0 = false := by decide +kernel

/-- An acceptance within the validity window, one after it, and a launch of what was accepted. -/
theorem test_accept_window :
    let q : QEntry := { state := .quoted, vdl := 11, cls := 1, plan := [aShare] }
    let s := demoEntry 2 [] q
    let start := fun (x : State) => x.modPacket 3 fun p => { p with started := true }
    let cap : State := { s with cap := 1 }
    (s.packet 3).type = 2 ∧ s.turn 3 = true ∧ (s.quote 1).state = .quoted ∧ s.time.toNat < (s.quote 1).vdl ∧ (start s).acceptFails q = false
      ∧ cap.turn 3 = true ∧ (start cap).acceptFails q = true ∧ ((demoEntry 2 [] { q with vdl := 10 }).quote 1).vdl ≤ 10
      ∧ (demoEntry 4 [0, 0] { state := .accepted, vdl := 11, cohn := 1 }).requestBusy 0 0 = false := by decide +kernel

theorem test_policy_marks :
    let s := demoLaunch { policyDue := true, policyAt := 200, image := {} }
    let m : State := { s with teams := [(1, { aTeam with marks := [(96, 0)] })] }
    s.markFirst 1 = false ∧ m.markFirst 1 = true ∧ (m.launch 1).policyDue = true := by decide

theorem test_cohort_open :
    let s := demoCohort [] { started := true }
    let n := demoCohort [] {}
    let b : State := { n with slices := [(homeSlice 0, { locks := [(0, 9)] })] }
    s.codeBusy 1 [] = false ∧ n.requestBusy (n.launch 1).img 0 = false ∧ n.spaceBusy 0 0 ((n.launch 1).image.dataBase 0 - 0 + (n.launch 1).image.data.length) = false
      ∧ b.requestBusy (b.launch 1).img 0 = true := by decide +kernel

/-- The child of a paired team, which its left side asks for. -/
theorem test_child_pair :
    let r : LaunchRec := { child := 0, groups := 1, nargs := 0, counter := 8, args := [] }
    let s := demoP id id
    let p : State := { s with teams := [(1, { aTeam with partner := 2, pend := [r] }), (2, { aTeam with partner := 1, side := 1, pend := [r], cluster := 1 })] }
    (p.team 1).side = 0 ∧ (p.team 1).partner ≠ 1 ∧ (p.team 1).partner ≠ 0 ∧ (p.team 2).side ≠ 0 ∧ (p.team 2).pend = [r] ∧ (p.team 1).phase = .running
      ∧ (p.childrenOf 1).length = 0 ∧ (p.rel.undercoatBusy) = false := by decide

theorem test_child_walk :
    let s : State := { State.reset with
      launches := [(1, { live := true, qidx := 1 }), (2, { live := true, qidx := 1, parent := some 1, placed := 1, root := 0x100000, counter := 8, stage := 1 })]
      mem := someTables 0x3000F, slices := [(homeSlice 0x100000, { locks := [(0x1000, 9)] })] }
    s.walkBusy 0x100000 8 = true ∧ s.teamsOver 2 = true ∧ (s.launch 2).stage ≠ 0 ∧ s.releasing 2 = false := by decide +kernel

/-- The left group of a pair has halted where the right one has passed. -/
theorem test_widowed :
    let r : TrapReport := { kind := .poison, pc := 0 }
    let s := demoP (fun g => { g with halt := some r }) fun g => { g with progress := 1 }
    s.partner 0 = some 64 ∧ (s.group 0).place.side = 0 ∧ s.widowed 0 64 = true ∧ (demoP id id).widowed 0 64 = false := by decide

theorem test_restore_open :
    let s : State := { demoCohort [] {} with teams := [(1, { live := true, launch := 1, run := true, phase := .saved, image := some {} })] }
    let b : State := { s with
      launches := [(1, { live := true, qidx := 1, root := 0x100000, image := { smallImage with segs := [{ num := 0, slot := 0, code := [], liveness := [], regions := [] }] } })]
      mem := someTables 0x3000F, slices := [(homeSlice 0x100000, { locks := [(0x1000, 9)] })]
      teams := [(1, { live := true, launch := 1, run := true, phase := .discarded })] }
    s.restoreBusy 1 = false ∧ b.restoreBusy 1 = true ∧ (b.team 1).comesBack = true := by decide +kernel

theorem test_droop_due :
    let s : State := { demoPow { power := { level := 0, target := 0, boosting := true, droopAt := 5 } } with time := 25 }
    let t : State := { demoPow { power := { stretching := true, droopAt := 5 } } with time := 45 }
    (s.cluster 0).power.boosting = true ∧ (s.cluster 0).power.droopAt + 20 ≤ s.time.toNat ∧ (t.cluster 0).power.boosting = false
      ∧ (t.cluster 0).power.stretching = true ∧ (t.cluster 0).power.droopAt + 40 ≤ t.time.toNat := by decide

/-- A cluster's image area holds an image that another save needs the place of. -/
theorem test_scrub_image :
    let s : State := { demo with teams := [(1, { aTeam with phase := .saving }), (2, { aTeam with phase := .saved, image := some { bytes := 128 } })]
                                 clusters := [(0, { imageArea := some 2 })] }
    s.areaNeeded 0 = true ∧ (s.cluster 0).imageArea = some 2 ∧ (s.team 2).live = true ∧ (s.team 2).image = some { bytes := 128 } := by decide

theorem test_undercoat_bytes :
    let s : State := { State.reset with rel := { undercoatBusy := true, undercoat := some 0x040000000000 } }
    coatBase (s.rel.undercoat.getD 0) = true ∧ coatAt 0x040000000000 0x30000 = some 0x040000030000 ∧ s.noneResident = true ∧ 0x30000 % 64 = 0
      ∧ isHbm 0x080000000000 = false := by decide

theorem test_mail_spans :
    let s := demoMail 4 [0x040000000000, 0x30000]
    let w := demoMail 8 [3, 63, 1, 0, 0, 0, 0x30000, 1]
    regionOf (s.reqOp 0 1 + 2 ^ 20 - 1) = .hbm 0 ∧ mailWaits w 8 [3, 63, 1, 0, 0, 0, 0x30000, 1] ∧ w.reqOp 0 7 ≠ 0 ∧ w.reqOp 0 6 % 32 = 0
      ∧ homedSpan 0 (w.reqOp 0 6) 32 = true ∧ functionBit 20 = true
      ∧ globalSpan 0x30000 16 = true ∧ (100 : Nat) < 5200 ∧ ¬ (100 : Nat) < ({ demoMail 3 [100] with resv := [] } : State).headroom
      ∧ 1 < ({ demoMail 3 [1] with resv := [(1, { live := true, qidx := 1, share := some aShare })] } : State).headroom := by decide

theorem test_ingress_open :
    let s := demoRing 0 0
    let b : State := { s with slices := [(homeSlice 0x40000, { locks := [(0x400, 9)] })] }
    s.rangeBusy 0x40000 32 = false ∧ b.rangeBusy 0x40000 32 = true ∧ 0x40000 % 32 = 0 ∧ (b.die 0).filterFor 0 0 0 0 = some { live := true, ring := 0x40000 } := by
  decide

/-- What the first offset of a master steps: an entry of the quotation table, a wait, a vote, a watchdog; and the lock that an offset has earned. -/
theorem test_time_shift :
    let m : MonEntry := { v := true, waddr := 0x30000, cmp := 1, who := 0, exp := 9 }
    let s : State := { demo with
      quotes := [(1, { state := .running, ddl := 5, causes := [(8, 3)] })], slices := [(0, { mon := [(0, m)] })]
      teams := [(1, { aTeam with phase := .draining 7 2 })] }
    let l : State := { s with ptp := { master := true, near := true, since := 0 }, time := 1000000000 }
    s.ptp.stepped = false ∧ (s.quote 1).state ≠ .free ∧ ((s.slice 0).mon.get {} 0).v = true ∧ ((s.slice 0).mon.get {} 0).tgt ≠ 2
      ∧ ((s.group 0).strand 0).live = true ∧ (s.team 1).phase = .draining 7 2
      ∧ l.ptp.locked ≠ true ∧ l.ptp.near = true ∧ l.ptp.master = true ∧ l.ptp.since + 1000000000 ≤ l.time.toNat ∧ s.ptp.near ≠ true := by decide

/-! ### Steps -/

/-- The machine whose next packet is one word, in block 3. -/
def demoStep (w : Word) : State :=
  { demo with
    clusters := [(0, { istore := [(64, { aStore with words := [(48, 0x4001), (52, w)] })] })]
    launches := [(1, { aLaunch with
      ranges := [aRange]
      image := { aLaunch.image with segs := [{ num := 0, slot := 0, code := [], liveness := [0, 0], regions := [] }] } })] }
/-- Whether the word of an instruction is what the machine does next, and whether it raises a trap, waits, or moves its strand. -/
def demoNext (i : Instr) : Option (Bool × Bool × Bool) :=
  let s := demoStep ((encode false i).getD 0)
  if s.chosen == some (.packet 0 0) && (s.fetchTrap 0 0).isNone then
    match packetInstrs (s.group 0) (s.packetWords 0 ((s.group 0).strand 0)), exec i (((s.keepBlock 0 0).atIssue 0 0).withWindows [i]) with
    | .ok [j], .next t => if i = j then some (t.cur.trap.isSome, t.cur.miss, t.cur.moved) else none
    | _, _ => none
  else none

theorem test_step_plain : demoNext (.mov false 1 2) = some (false, false, false) := by decide +kernel
theorem test_step_moved : demoNext (.bra 1) = some (false, false, true) := by decide +kernel
theorem test_step_trap : demoNext (.trap 5) = some (true, false, false) := by decide +kernel
theorem test_step_miss : demoNext (.ldg 0 1 8 0) = some (false, true, false) := by decide +kernel
theorem test_step_event : ({ demoLaunch { placed := 1 } with time := 1 } : State).chosen = some (.event (.launchCompletion 1)) := by decide +kernel
theorem test_step_idle : State.reset.chosen = none := by decide +kernel
theorem test_alone : legalIn (.iadd false 1 1 2) demo.me = true ∧ chainBit 0x13010102 = false ∧ decodeFields 0x13010102 = .ok (.iadd false 1 1 2) ∧ (usesOf (.iadd false 1 1 2)).wbit = false := by decide

theorem test_wellformed : (.iadd false 1 1 2 : Instr).WellFormed ∧ (.iadd false 1 1 2 : Instr).isWord = true ∧ ¬ (false = true ∧ (.iadd false 1 1 2 : Instr) = .nop)
    ∧ decode 0x13010102 = .ok (.iadd false 1 1 2) := by decide

theorem test_kept : Memory.wf State.reset.mem = true ∧ step State.reset = .next State.reset.tick := by
  refine ⟨rfl, ?_⟩
  simp only [step, State.advance, test_step_idle]

end Sys2Proof.Tests
end

section
/-! Tables mapped, filtered and written key by key; the lines of the address map; masks and bytes. -/

namespace Sys2Proof

/-! ### Tables mapped, filtered, written key by key -/

/-- A map of entries that leaves keys alone and does not look at them, at a listed key. -/
theorem Tab.get_map_of_mem_keys {V : Type} (d : V) {k : Nat} {t : Tab V} (g : Nat × V → Nat × V)
    (hg : ∀ e, g e = (e.1, (g (0, e.2)).2)) (h : k ∈ t.keys) : Tab.get d k (t.map g) = (g (0, Tab.get d k t)).2 := by
  induction t with
  | nil => simp [Tab.keys] at h
  | cons e t ih =>
    rw [List.map_cons, hg]
    obtain ⟨a, v⟩ := e
    by_cases ha : a = k
    · simp [Tab.get, ha]
    · have hk : k ∈ Tab.keys t := by simpa [Tab.keys, Ne.symm ha] using h
      simpa [Tab.get, ha] using ih hk

theorem Tab.mem_keys_of_get_ne {V : Type} {d : V} {k : Nat} {t : Tab V} (h : Tab.get d k t ≠ d) : k ∈ t.keys := by
  by_contra hk
  exact h (Tab.get_of_not_mem d k t fun e he hek => hk (List.mem_map.2 ⟨e, he, hek⟩))

theorem Tab.get_of_not_mem_keys {V : Type} (d : V) {k : Nat} {t : Tab V} (h : k ∉ t.keys) : Tab.get d k t = d := by
  by_contra hk
  exact h (Tab.mem_keys_of_get_ne hk)

/-- A map that fixes the absent entry, at every key. -/
theorem Tab.get_map {V : Type} {d : V} (k : Nat) (t : Tab V) (g : Nat × V → Nat × V)
    (hg : ∀ e, g e = (e.1, (g (0, e.2)).2)) (h : (g (0, d)).2 = d) : Tab.get d k (t.map g) = (g (0, Tab.get d k t)).2 := by
  by_cases hk : k ∈ t.keys
  · exact Tab.get_map_of_mem_keys d g hg hk
  · have keys : Tab.keys (t.map g) = t.keys := by
      unfold Tab.keys
      rw [List.map_map]
      exact List.map_congr_left fun e _ => by rw [Function.comp, hg]
    rw [Tab.get_of_not_mem_keys d hk, Tab.get_of_not_mem_keys d (keys ▸ hk), h]

/-- Entries kept by their keys. -/
theorem Tab.get_filter_key {V : Type} (d : V) (k : Nat) (t : Tab V) (p : Nat → Bool) :
    Tab.get d k (t.filter fun e => p e.1) = if p k = true then Tab.get d k t else d := by
  induction t with
  | nil => simp
  | cons e t ih =>
    obtain ⟨a, v⟩ := e
    by_cases ha : a = k
    · subst ha
      cases hp : p a <;> simp [hp, Tab.get, ih]
    · cases hp : p a <;> simp [hp, Tab.get, ha, ih]

/-- Writes at other keys, one after the other, leave a key alone. -/
theorem Tab.get_foldl_set_of_not_mem {V : Type} [DecidableEq V] (d : V) {a : Nat} (key : Nat → Nat) (v : Nat → V) (l : List Nat)
    (t : Tab V) (h : ∀ i ∈ l, key i ≠ a) : Tab.get d a (l.foldl (fun t i => Tab.set d (key i) (v i) t) t) = Tab.get d a t := by
  induction l generalizing t with
  | nil => rfl
  | cons i l ih =>
    rw [List.foldl_cons, ih _ fun j hj => h j (by simp [hj]), Tab.get_set_ne d (h i (by simp)).symm]

/-- Writes at different keys, one after the other, leave the value of each at its key. -/
theorem Tab.get_foldl_set_of_mem {V : Type} [DecidableEq V] (d : V) (key : Nat → Nat) (hkey : Function.Injective key) (v : Nat → V)
    {i : Nat} {l : List Nat} (t : Tab V) (h : i ∈ l) : Tab.get d (key i) (l.foldl (fun t i => Tab.set d (key i) (v i) t) t) = v i := by
  induction l generalizing t with
  | nil => simp at h
  | cons j l ih =>
    rw [List.foldl_cons]
    by_cases hl : i ∈ l
    · exact ih _ hl
    · obtain rfl : i = j := by simpa [hl] using h
      rw [Tab.get_foldl_set_of_not_mem d key v l _ fun j hj e => hl (by rwa [← hkey e]), Tab.get_set_same]

namespace Machine

/-! ### Addresses of one line -/

theorem line_lt {c : Nat} (h : c % 256 = 0) (pa : Nat) : pa / 256 * 256 < c ↔ pa < c := by omega
theorem line_sub {c : Nat} (h : c % 256 = 0) (pa : Nat) : pa / 256 * 256 - c = (pa - c) / 256 * 256 := by omega
theorem line_div {c : Nat} (h : c % 256 = 0) (pa : Nat) : pa / 256 * 256 / c = pa / c := by
  obtain ⟨m, rfl⟩ := Nat.dvd_of_mod_eq_zero h
  rw [← Nat.div_div_eq_div_mul, Nat.mul_div_cancel _ (by decide), Nat.div_div_eq_div_mul]
theorem line_mod {c : Nat} (h : c % 256 = 0) (pa : Nat) : pa / 256 * 256 % c = pa % c / 256 * 256 := by
  obtain ⟨m, rfl⟩ := Nat.dvd_of_mod_eq_zero h
  rw [Nat.mod_mul_right_div_self, Nat.mul_comm 256 m, Nat.mul_mod_mul_right]

/-- Regions are made of whole lines (09 Table 9-2). -/
theorem regionOf_line (pa : Nat) : regionOf (pa / 256 * 256) = regionOf pa := by
  unfold regionOf
  simp (disch := decide) only [line_lt, line_sub, line_mod, line_div]

theorem homeDie_line (pa : Nat) : homeDie (pa / 256 * 256) = homeDie pa := by rw [homeDie, regionOf_line, homeDie]

/-- A byte and its line have one home slice (09 R185). -/
@[simp] theorem homeSlice_line (pa : Nat) : homeSlice (pa / 256 * 256) = homeSlice pa := by
  unfold homeSlice sliceNo bits
  rw [homeDie_line, line_div (by decide), line_div (by decide)]

/-- A slice of another die is not a line's home. -/
theorem slice_ne_homeSlice {d pa : Nat} (h : d ≠ homeDie pa) : d * 32 + sliceNo pa ≠ homeSlice pa := by
  unfold homeSlice
  omega

/-! ### Masks of bytes -/

/-- The bits of a run of ones. -/
theorem getLsbD_run {n lo i : Nat} (hi : i < 256) :
    (BitVec.ofNat 256 ((2 ^ n - 1) * 2 ^ lo)).getLsbD i = (decide (lo ≤ i) && decide (i < lo + n)) := by
  rw [BitVec.getLsbD_ofNat, Nat.testBit_mul_two_pow, Nat.testBit_two_pow_sub_one]
  by_cases h : lo ≤ i
  · simp [h, hi]; omega
  · simp [h]

theorem getLsbD_sectorMask {i : Nat} (hi : i < 256) : (sectorMask (sectorOf i)).getLsbD i = true := by
  unfold sectorMask sectorOf
  rw [getLsbD_run hi]
  simp; omega

/-- A mask that covers a byte's sector names the byte. -/
theorem getLsbD_of_coversSector {m : BitVec 256} {i : Nat} (hi : i < 256) (h : coversSector m (sectorOf i) = true) : m.getLsbD i = true := by
  have e : m &&& sectorMask (sectorOf i) = sectorMask (sectorOf i) := by simpa [coversSector] using h
  have := getLsbD_sectorMask hi
  rw [← e, BitVec.getLsbD_and] at this
  simp_all

theorem mem_bytesOf {m : BitVec 256} {i : Nat} : i ∈ bytesOf m ↔ m.getLsbD i = true := by
  simp only [bytesOf, List.mem_filter, List.mem_range, and_iff_right_iff_imp]
  exact BitVec.lt_of_getLsbD

/-- Bits of four gathered one by one. -/
theorem getLsbD_gather (p : Nat → Bool) {k : Nat} (hk : k < 4) (l : List Nat) (v : BitVec 4) :
    (l.foldl (fun v k => if p k then v ||| (1#4 <<< k) else v) v).getLsbD k = (v.getLsbD k || (decide (k ∈ l) && p k)) := by
  induction l generalizing v with
  | nil => simp
  | cons j l ih =>
    rw [List.foldl_cons, ih]
    have bit : (1#4 <<< j).getLsbD k = decide (k = j) := by
      rw [BitVec.getLsbD_shiftLeft, BitVec.getLsbD_one]
      by_cases hj : k < j
      · simp [hj, Nat.ne_of_lt hj]
      · have : k - j = 0 ↔ k = j := by omega
        simp [hk, hj, this]
    by_cases hj : k = j
    · subst hj
      cases hp : p k <;> simp [bit]
    · cases p j <;> simp [bit, hj]

/-! ### Numbers and bytes -/

theorem length_toBytes (n v : Nat) : (toBytes n v).length = n := by
  induction n generalizing v with
  | zero => rfl
  | succ n ih => simp [toBytes, ih]

theorem length_field (n v : Nat) : (field n v).length = n := length_toBytes n v

/-- The bytes of a number give the number back, as far as they hold it. -/
theorem leNat_toBytes (n v : Nat) : leNat (toBytes n v) = v % 256 ^ n := by
  induction n generalizing v with
  | zero => simp [toBytes, leNat, Nat.mod_one]
  | succ n ih =>
    rw [toBytes, leNat, ih, BitVec.toNat_ofNat, show 256 ^ (n + 1) = 256 * 256 ^ n from Nat.pow_succ', Nat.mod_mul]

/-- Bytes at home that are those of a field. -/
theorem leNat_homeBytes_field {s : State} {pa n v : Nat} (h : ∀ i, i < n → s.homeByte (pa + i) = (field n v).getD i 0) :
    leNat (s.homeBytes pa n) = v % 256 ^ n := by
  have bytes : s.homeBytes pa n = field n v := by
    refine List.ext_getElem (by simp [State.homeBytes, length_field]) fun i h1 h2 => ?_
    rw [← List.getD_eq_getElem _ 0 h2, ← h i (by rwa [length_field] at h2)]
    simp [State.homeBytes]
  rw [bytes]
  exact leNat_toBytes n v

end Machine
end Sys2Proof
end

section
/-! What a write at the home slice leaves: the byte written stands through later write-backs, evictions and writes elsewhere. -/

namespace Sys2Proof.Machine

/-! ### A byte at home

A write must be found again after later writes of other lines, which may evict its line, and after write-backs. `State.homeByte` alone is no invariant
of these: an evicted clean line may have differed from memory. What they do keep is that a byte stands: dirty in its line, or in memory,
with every valid copy in the line equal to it. -/

/-- The line of an address in its home slice. -/
def State.homeLine (s : State) (pa : Nat) : L2Line := (s.slice (homeSlice pa)).line (pa / 256)

/-- A byte stands as b in a line with m behind it in memory, and does so after a write-back or an eviction. -/
structure L2Line.Holds (ln : L2Line) (m : Byte) (i : Nat) (b : Byte) : Prop where
  dirty : ln.live = true → ln.dirty.getLsbD i = true → ln.data.get 0 i = b
  valid : ln.live = true → ln.valid.getLsbD (sectorOf i) = true → ln.data.get 0 i = b
  clean : ¬ (ln.live = true ∧ ln.dirty.getLsbD i = true) → m = b

/-- A byte of memory stands as b. -/
def State.Stands (s : State) (pa : Nat) (b : Byte) : Prop := (s.homeLine pa).Holds (s.memByte pa) (pa % 256) b

/-- From s to t no line of L2 and no byte of memory has changed. -/
structure SameLines (s t : State) : Prop where
  mem : t.mem = s.mem
  lines : ∀ key, (t.slice key).lines = (s.slice key).lines

section
variable {s t u : State} {pa : Nat} {b : Byte}

theorem L2Line.Holds.of_not_live {ln : L2Line} {m : Byte} {i : Nat} (h : ln.live = false) (hm : m = b) : ln.Holds m i b where
  dirty hl := by simp [h] at hl
  valid hl := by simp [h] at hl
  clean _ := hm

/-- A byte that stands is what its home slice answers. -/
theorem State.Stands.homeByte (h : s.Stands pa b) : s.homeByte pa = b := by
  obtain ⟨hd, hv, hc⟩ := h
  show (if (s.homeLine pa).has (pa % 256) = true then (s.homeLine pa).data.get 0 (pa % 256) else s.memByte pa) = b
  split
  next has =>
    obtain ⟨hl, hv' | hd'⟩ : (s.homeLine pa).live = true ∧ (_ = true ∨ _ = true) := by simpa [L2Line.has] using has
    · exact hv hl hv'
    · exact hd hl hd'
  next has => exact hc fun ⟨hl, hd'⟩ => has (by simp [L2Line.has, hl, hd'])

theorem SameLines.refl (s : State) : SameLines s s := ⟨rfl, fun _ => rfl⟩
theorem SameLines.trans (h : SameLines s t) (k : SameLines t u) : SameLines s u :=
  ⟨k.mem.trans h.mem, fun key => (k.lines key).trans (h.lines key)⟩
theorem SameLines.of_slices (hm : t.mem = s.mem) (hs : t.slices = s.slices) : SameLines s t :=
  ⟨hm, fun key => by unfold State.slice; rw [hs]⟩
theorem Charges.sameLines (h : Charges s t) : SameLines s t := .of_slices h.mem h.slices
theorem SameLines.modSlice (s : State) (key : Nat) (f : Slice → Slice) (hf : ∀ x, (f x).lines = x.lines) : SameLines s (s.modSlice key f) where
  mem := rfl
  lines j := by
    by_cases hj : j = key
    · rw [hj, State.slice_modSlice, hf]
    · rw [State.slice_modSlice_ne _ hj]
theorem SameLines.foldl {α : Type} (f : State → α → State) (hf : ∀ s a, SameLines s (f s a)) (l : List α) (s : State) :
    SameLines s (l.foldl f s) := by
  induction l generalizing s with
  | nil => exact .refl s
  | cons a l ih => exact (hf s a).trans (ih _)

theorem SameLines.homeLine (h : SameLines s t) (pa : Nat) : t.homeLine pa = s.homeLine pa := by
  unfold State.homeLine Slice.line; rw [h.lines]
theorem SameLines.memByte (h : SameLines s t) (pa : Nat) : t.memByte pa = s.memByte pa := by unfold State.memByte; rw [h.mem]
theorem State.Stands.same (hs : s.Stands pa b) (h : SameLines s t) : t.Stands pa b := by
  unfold State.Stands; rw [h.homeLine, h.memByte]; exact hs

/-! ### What touches no line -/

theorem SameLines.decideWait (s : State) (e : MonEntry) (c v : Nat) : SameLines s (s.decideWait e c v) := by
  unfold State.decideWait
  split <;> exact .of_slices rfl rfl

/-- The evaluation of the watchers of a write touches no line. -/
theorem SameLines.evalWords (s : State) (key : Nat) (ws : List Nat) : SameLines s (s.evalWords key ws) := by
  unfold State.evalWords
  dsimp only
  have fold : ∀ l : Tab MonEntry, SameLines s (l.foldl _ s) := fun l => SameLines.foldl (fun s x =>
      match (s.chargeEval key x.2).monHit x.2 with
      | some (c, v) => ((s.chargeEval key x.2).modSlice key fun y => { y with mon := y.mon.set {} x.1 {} }).decideWait x.2 c v
      | none => s.chargeEval key x.2) (fun s x => by
    have h := (Charges.chargeEval s key x.2).sameLines
    split
    · refine (h.trans (.modSlice _ _ _ fun _ => ?_)).trans (.decideWait _ _ _ _)
      rfl
    · exact h) l s
  split
  · exact (fold _).trans (.modSlice _ _ _ fun _ => rfl)
  · exact fold _

theorem SameLines.logUndo (s : State) (l q : Nat) : SameLines s (s.logUndo l q) := by
  unfold State.logUndo
  dsimp only
  split
  · exact .refl s
  · split
    · split <;> exact .of_slices rfl rfl
    · exact .refl s

/-! ### One line changed -/

/-- The line of an address after one line of one slice has been replaced. -/
theorem State.homeLine_setSlice (s : State) (key l : Nat) (x : Slice) (v : L2Line) (hx : x.lines = (s.slice key).lines.set {} l v)
    (pa : Nat) : (s.setSlice key x).homeLine pa = if homeSlice pa = key ∧ pa / 256 = l then v else s.homeLine pa := by
  unfold State.homeLine Slice.line
  by_cases hk : homeSlice pa = key
  · subst hk
    have : (s.setSlice (homeSlice pa) x).slice (homeSlice pa) = x := Tab.get_set_same _ _ _ _
    rw [this, hx]
    by_cases hl : pa / 256 = l
    · simp [hl]
    · simp [hl, Tab.get_set_ne _ hl]
  · have : (s.setSlice key x).slice (homeSlice pa) = s.slice (homeSlice pa) := Tab.get_set_ne _ hk _ _
    rw [this, if_neg fun h => hk h.1]

/-- Bytes of a line put into memory. -/
theorem get_putLine (m : Memory) (l : Nat) (mask : BitVec 256) (v : Nat → Byte) (pa : Nat) :
    Tab.get 0 pa ((bytesOf mask).foldl (fun m i => m.set 0 (l * 256 + i) (v i)) m)
      = if pa / 256 = l ∧ mask.getLsbD (pa % 256) = true then v (pa % 256) else Tab.get 0 pa m := by
  split
  next h =>
    obtain ⟨rfl, hm⟩ := h
    have := Tab.get_foldl_set_of_mem 0 (pa / 256 * 256 + ·) (fun i j e => Nat.add_left_cancel e) v m (mem_bytesOf.2 hm)
    rwa [Nat.div_add_mod'] at this
  next h =>
    refine Tab.get_foldl_set_of_not_mem 0 _ v _ m fun i hi e => h ?_
    have := BitVec.lt_of_getLsbD (mem_bytesOf.1 hi)
    obtain ⟨h1, h2⟩ : pa / 256 = l ∧ pa % 256 = i := by omega
    exact ⟨h1, h2 ▸ mem_bytesOf.1 hi⟩

/-! ### Write-back and eviction -/

/-- A line written back: clean, with its whole sectors valid. -/
def L2Line.cleaned (ln : L2Line) : L2Line :=
  { ln with
    dirty := 0
    valid := (List.range 4).foldl (fun v k => if ln.valid.getLsbD k || coversSector ln.dirty k then v ||| (1#4 <<< k) else v) 0#4 }

theorem L2Line.Holds.cleaned {ln : L2Line} {m m' : Byte} {i : Nat} (h : ln.Holds m i b) (hi : i < 256) (hm : m' = b) :
    ln.cleaned.Holds m' i b where
  dirty _ hd := by simp [L2Line.cleaned] at hd
  valid hl hv := by
    have hk : sectorOf i < 4 := by unfold sectorOf; omega
    rw [L2Line.cleaned, getLsbD_gather _ hk] at hv
    obtain hv | hc : _ = true ∨ _ = true := by simpa [hk] using hv
    · exact h.valid hl hv
    · exact h.dirty hl (getLsbD_of_coversSector hi hc)
  clean _ := hm

/-- A line is written back: it is live and dirty, and its slice is its home. -/
abbrev State.writesBack (s : State) (key l : Nat) : Prop :=
  ((s.slice key).line l).live = true ∧ ((s.slice key).line l).dirty ≠ 0 ∧ homeSlice (l * 256) = key

theorem State.flushLine_of_not {key l : Nat} (h : ¬ s.writesBack key l) : s.flushLine key l = s := by
  unfold State.flushLine
  dsimp only
  rw [if_neg]
  simpa [State.writesBack, and_assoc] using h

/-- The dirty bytes of a line that is written back go to memory, and it stays, clean. -/
theorem State.flushLine_of_writesBack {key l : Nat} (h : s.writesBack key l) :
    ∃ w : State, w.slices = s.slices
      ∧ w.mem = (bytesOf ((s.slice key).line l).dirty).foldl (fun m i => m.set 0 (l * 256 + i) (((s.slice key).line l).data.get 0 i)) s.mem
      ∧ s.flushLine key l = w.setSlice key { s.slice key with lines := (s.slice key).lines.set {} l ((s.slice key).line l).cleaned } := by
  obtain ⟨hl, hd, hk⟩ := h
  unfold State.flushLine
  dsimp only
  rw [if_pos (by simpa [hl, hk] using hd)]
  refine ⟨_, ?_, ?_, rfl⟩
  · exact (Charges.chargeTag _ _ _ _).slices
  · exact (Charges.chargeTag _ _ _ _).mem

/-- The slice that writes an address's line back is the address's home. -/
theorem State.writesBack_homeSlice {key : Nat} (h : s.writesBack key (pa / 256)) : key = homeSlice pa := by
  obtain ⟨-, -, hk⟩ := h
  rw [← hk, homeSlice_line]

theorem State.homeLine_flushLine (s : State) (key l pa : Nat) :
    (s.flushLine key l).homeLine pa = if pa / 256 = l ∧ s.writesBack key l then (s.homeLine pa).cleaned else s.homeLine pa := by
  by_cases wb : s.writesBack key l
  · obtain ⟨w, hs, -, e⟩ := State.flushLine_of_writesBack wb
    have same : w.homeLine pa = s.homeLine pa := by unfold State.homeLine State.slice; rw [hs]
    rw [e, State.homeLine_setSlice w key l _ _ (by unfold State.slice; rw [hs]), same]
    by_cases here : pa / 256 = l
    · subst here
      obtain rfl := State.writesBack_homeSlice wb
      rw [if_pos ⟨rfl, rfl⟩, if_pos ⟨rfl, wb⟩]; rfl
    · simp [here]
  · rw [State.flushLine_of_not wb, if_neg fun h => wb h.2]

theorem State.memByte_flushLine (s : State) (key l pa : Nat) :
    (s.flushLine key l).memByte pa
      = if pa / 256 = l ∧ s.writesBack key l ∧ (s.homeLine pa).dirty.getLsbD (pa % 256) = true then (s.homeLine pa).data.get 0 (pa % 256)
        else s.memByte pa := by
  by_cases wb : s.writesBack key l
  · obtain ⟨w, -, hm, e⟩ := State.flushLine_of_writesBack wb
    have mem : (s.flushLine key l).memByte pa = Tab.get 0 pa w.mem := by rw [e]; rfl
    rw [mem, hm, get_putLine]
    by_cases here : pa / 256 = l
    · subst here
      obtain rfl := State.writesBack_homeSlice wb
      exact if_congr ⟨fun h => ⟨rfl, wb, h.2⟩, fun h => ⟨rfl, h.2.2⟩⟩ rfl rfl
    · simp [here]; rfl
  · rw [State.flushLine_of_not wb, if_neg fun h => wb h.2.1]

/-- A write-back brings a byte that stands to memory, or leaves memory alone. -/
theorem State.Stands.memByte_flushLine (h : s.Stands pa b) (key l : Nat) (hm : pa / 256 = l ∧ s.writesBack key l ∨ s.memByte pa = b) :
    (s.flushLine key l).memByte pa = b := by
  rw [State.memByte_flushLine]
  split
  next hh =>
    obtain ⟨rfl, wb, hd⟩ := hh
    obtain rfl := State.writesBack_homeSlice wb
    exact h.dirty wb.1 hd
  next hh =>
    rcases hm with ⟨here, wb⟩ | hm
    · exact h.clean fun ⟨_, hd⟩ => hh ⟨here, wb, hd⟩
    · exact hm

/-- A write-back of its own line brings a byte that stands to memory. -/
theorem State.Stands.memByte_flushLine_home (h : s.Stands pa b) : (s.flushLine (homeSlice pa) (pa / 256)).memByte pa = b := by
  by_cases wb : s.writesBack (homeSlice pa) (pa / 256)
  · exact h.memByte_flushLine _ _ (.inl ⟨rfl, wb⟩)
  · refine h.memByte_flushLine _ _ (.inr (h.clean fun ⟨hl, hd⟩ => wb ⟨hl, fun h0 => ?_, homeSlice_line pa⟩))
    simp [State.homeLine, h0] at hd

/-- A write-back keeps what stands. -/
theorem State.Stands.flushLine (h : s.Stands pa b) (key l : Nat) : (s.flushLine key l).Stands pa b := by
  unfold State.Stands
  rw [State.homeLine_flushLine]
  split
  next hh => exact L2Line.Holds.cleaned h (Nat.mod_lt _ (by decide)) (h.memByte_flushLine key l (.inl hh))
  next hh =>
    rw [State.memByte_flushLine, if_neg fun h' => hh ⟨h'.1, h'.2.1⟩]
    exact h

/-- A line replaced by one in which the byte stands, if it is the byte's own line. -/
theorem State.Stands.setLine (h : s.Stands pa b) (key l : Nat) (f : Slice → Slice) (v : L2Line)
    (hf : (f (s.slice key)).lines = (s.slice key).lines.set {} l v)
    (hv : homeSlice pa = key → pa / 256 = l → v.Holds (s.memByte pa) (pa % 256) b) : (s.modSlice key f).Stands pa b := by
  have mem : (s.modSlice key f).memByte pa = s.memByte pa := rfl
  unfold State.Stands
  rw [mem, State.modSlice, State.homeLine_setSlice s key l _ v hf]
  split
  next here => exact hv here.1 here.2
  next => exact h

/-- A place made for a line keeps what stands: a dirty victim at home goes to memory first. -/
theorem State.Stands.allocLine (h : s.Stands pa b) (key l q : Nat) : (s.allocLine key l q).Stands pa b := by
  unfold State.allocLine
  dsimp only
  have fresh : ∀ {t : State} (w : Nat), t.Stands pa b → (homeSlice pa = key → pa / 256 = l → t.memByte pa = b) →
      (t.modSlice key fun x => { x with lines := x.lines.set {} l { live := true, way := w, use := t.free } }).Stands pa b :=
    fun w ht hm => ht.setLine key l _ _ rfl fun hk hl =>
      { dirty := fun _ hd => by simp at hd, valid := fun _ hv => by simp at hv, clean := fun _ => hm hk hl }
  split
  · exact h
  next away =>
    have hm : homeSlice pa = key → pa / 256 = l → s.memByte pa = b := fun hk hl => h.clean fun ⟨hlive, _⟩ => away (by
      subst hk hl; exact hlive)
    split
    · exact fresh _ h hm
    · split
      · exact h
      next v e _ =>
        have drop : ((s.flushLine key v).modSlice key fun x => { x with lines := x.lines.set {} v {} }).Stands pa b :=
          (h.flushLine key v).setLine key v _ _ rfl fun hk hl => .of_not_live rfl (by
            subst hk hl; exact h.memByte_flushLine_home)
        exact fresh _ drop fun hk hl => h.memByte_flushLine key v (.inr (hm hk hl))

/-! ### Writes at the home slice -/

/-- A write past a slice changes memory alone, at the bytes of its mask. -/
theorem State.memByte_pastSlice (s : State) (l : Nat) (mask : BitVec 256) (data : Tab Byte) (marks : BitVec 4) (o pa : Nat) :
    (s.pastSlice l mask data marks o).memByte pa
      = if pa / 256 = l ∧ mask.getLsbD (pa % 256) = true then data.get 0 (pa % 256) else s.memByte pa := by
  have mem : (s.pastSlice l mask data marks o).mem = (bytesOf mask).foldl (fun m i => m.set 0 (l * 256 + i) (data.get 0 i)) s.mem :=
    (Charges.chargeTag _ _ _ _).mem
  unfold State.memByte
  rw [mem, get_putLine]

theorem State.homeLine_pastSlice (s : State) (l : Nat) (mask : BitVec 256) (data : Tab Byte) (marks : BitVec 4) (o pa : Nat) :
    (s.pastSlice l mask data marks o).homeLine pa = s.homeLine pa := by
  have slices : (s.pastSlice l mask data marks o).slices = s.slices := (Charges.chargeTag _ _ _ _).slices
  unfold State.homeLine State.slice
  rw [slices]

/-- The data of a line with the bytes of a mask replaced. -/
def mergeBytes (mask : BitVec 256) (new old : Tab Byte) : Tab Byte := (bytesOf mask).foldl (fun d i => d.set 0 i (new.get 0 i)) old

theorem get_mergeBytes (mask : BitVec 256) (new old : Tab Byte) (i : Nat) :
    (mergeBytes mask new old).get 0 i = if mask.getLsbD i = true then new.get 0 i else old.get 0 i := by
  unfold mergeBytes
  split
  next h => exact Tab.get_foldl_set_of_mem 0 id Function.injective_id (fun i => new.get 0 i) old (mem_bytesOf.2 h)
  next h => exact Tab.get_foldl_set_of_not_mem 0 id (fun i => new.get 0 i) _ old fun j hj e => h (e ▸ mem_bytesOf.1 hj)

/-- A line that takes a write holds the written bytes, and the others as before. -/
theorem L2Line.Holds.merge {ln v : L2Line} {m : Byte} {i : Nat} {mask : BitVec 256} {data : Tab Byte} (hlive : ln.live = true)
    (hvalid : v.valid = ln.valid) (hdirty : v.dirty = ln.dirty ||| mask) (hdata : v.data = mergeBytes mask data ln.data)
    (h : mask.getLsbD i = false → ln.Holds m i b) (hl : v.live = true) : v.Holds m i (if mask.getLsbD i = true then data.get 0 i else b) := by
  have data' : v.data.get 0 i = if mask.getLsbD i = true then data.get 0 i else ln.data.get 0 i := by rw [hdata, get_mergeBytes]
  have dirty' : v.dirty.getLsbD i = (ln.dirty.getLsbD i || mask.getLsbD i) := by rw [hdirty, BitVec.getLsbD_or]
  cases hm : mask.getLsbD i with
  | false =>
    obtain ⟨hd, hv, hc⟩ := h hm
    simp only [hm, Bool.or_false, Bool.false_eq_true, if_false] at dirty' data' ⊢
    exact { dirty := fun _ d => data'.trans (hd hlive (dirty'.symm.trans d))
            valid := fun _ x => data'.trans (hv hlive (hvalid ▸ x))
            clean := fun c => hc fun d => c ⟨hl, dirty'.trans d.2⟩ }
  | true =>
    simp only [hm, Bool.or_true, if_true] at dirty' data' ⊢
    exact { dirty := fun _ _ => data', valid := fun _ _ => data', clean := fun c => absurd ⟨hl, dirty'⟩ c }

/-- A write at the home slice: a byte of its mask stands as written, any other stands as before. -/
theorem State.Stands.stampLine {l : Nat} {mask : BitVec 256} (data : Tab Byte) (poison : BitVec 4) (o : Nat)
    (h : ¬ (pa / 256 = l ∧ mask.getLsbD (pa % 256) = true) → s.Stands pa b) :
    (s.stampLine l mask data poison o).Stands pa
      (if pa / 256 = l ∧ mask.getLsbD (pa % 256) = true then data.get 0 (pa % 256) else b) := by
  unfold State.stampLine
  dsimp only
  have ha : ¬ (pa / 256 = l ∧ mask.getLsbD (pa % 256) = true) → ((s.logUndo l o).allocLine (homeSlice (l * 256)) l o).Stands pa b :=
    fun hw => ((h hw).same (.logUndo s l o)).allocLine _ _ _
  generalize (s.logUndo l o).allocLine (homeSlice (l * 256)) l o = a at ha ⊢
  refine State.Stands.same ?_ (.evalWords _ _ _)
  by_cases there : ((a.slice (homeSlice (l * 256))).line l).live = true
  · simp only [there, if_true]
    unfold State.Stands
    rw [State.modSlice, State.homeLine_setSlice _ _ l _ _ rfl]
    split
    next here =>
      obtain ⟨-, rfl⟩ := here
      simp only [true_and]
      refine L2Line.Holds.merge there rfl rfl rfl (fun hm => ?_) there
      have := ha fun hw => by simp [hm] at hw
      rwa [State.Stands, State.homeLine, ← homeSlice_line] at this
    next away =>
      have hl : ¬ (pa / 256 = l ∧ mask.getLsbD (pa % 256) = true) := fun hw => away ⟨by rw [← hw.1, homeSlice_line], hw.1⟩
      rw [if_neg hl]
      exact ha hl
  · simp only [there, Bool.false_eq_true, if_false]
    generalize ew : a.modSlice _ _ = w
    have same : SameLines a w := ew ▸ .modSlice _ _ _ fun _ => rfl
    unfold State.Stands
    rw [State.homeLine_pastSlice, State.memByte_pastSlice, same.homeLine, same.memByte]
    split
    next hw =>
      obtain ⟨rfl, -⟩ := hw
      refine .of_not_live ?_ rfl
      simpa [State.homeLine] using there
    next hw => exact ha hw

/-- A change of one slice that leaves a byte's own line alone. -/
theorem State.Stands.modSlice (h : s.Stands pa b) (key : Nat) (f : Slice → Slice)
    (hf : homeSlice pa = key → (f (s.slice key)).line (pa / 256) = (s.slice key).line (pa / 256)) : (s.modSlice key f).Stands pa b := by
  have line : (s.modSlice key f).homeLine pa = s.homeLine pa := by
    unfold State.homeLine
    by_cases hk : homeSlice pa = key
    · rw [hk, State.slice_modSlice, hf hk]
    · rw [State.slice_modSlice_ne _ hk]
  unfold State.Stands
  rw [line]
  exact h

/-- The copies of other dies are none of a byte's home. -/
theorem State.Stands.dropCopy (h : s.Stands pa b) (d l : Nat) : (s.dropCopy d l).Stands pa b := by
  unfold State.dropCopy
  split
  · exact h
  next hd =>
    refine h.modSlice _ _ fun hk => ?_
    have hl : pa / 256 ≠ l := by
      rintro rfl
      exact slice_ne_homeSlice (by simpa using hd) (hk.symm.trans (homeSlice_line pa).symm)
    dsimp only
    split
    · rfl
    · split <;> exact Tab.get_set_ne _ hl _ _

/-- A write with its invalidations, likewise. -/
theorem State.Stands.homeWrite {l : Nat} {mask : BitVec 256} (data : Tab Byte) (poison : BitVec 4) (o : Nat)
    (h : ¬ (pa / 256 = l ∧ mask.getLsbD (pa % 256) = true) → s.Stands pa b) :
    (s.homeWrite l mask data poison o).Stands pa
      (if pa / 256 = l ∧ mask.getLsbD (pa % 256) = true then data.get 0 (pa % 256) else b) := by
  unfold State.homeWrite
  dsimp only
  refine State.Stands.same ?_ (.modSlice _ _ _ fun x => ?_)
  · exact foldl_keeps (fun x : State => x.Stands pa _) _ (fun x d hx => hx.dropCopy d l) _ _ (.stampLine data poison o h)
  · split <;> rfl

/-! ### Writes of several lines -/

/-- The part of a write that falls into its i-th line. -/
def State.writeChunk (pa : Nat) (bs : List Byte) (owner : Nat) (poison : Bool) (s : State) (i : Nat) : State :=
  let n := bs.length
  let l := pa / 256 + i
  let lo := max pa (l * 256) - l * 256
  let hi := min (pa + n) (l * 256 + 256) - l * 256
  let mask : BitVec 256 := BitVec.ofNat 256 ((2 ^ (hi - lo) - 1) * 2 ^ lo)
  let data := Tab.writeList [] lo ((bs.drop (l * 256 + lo - pa)).take (hi - lo))
  let pz : BitVec 4 := if poison then BitVec.ofNat 4 ((List.range 4).foldl (fun m k =>
    if mask &&& sectorMask k == 0 then m else m + 2 ^ k) 0) else 0
  s.homeWrite l mask data pz owner

theorem State.globalWrite_eq (s : State) (pa : Nat) (bs : List Byte) (o : Nat) (p : Bool) :
    s.globalWrite pa bs o p = (List.range ((pa + bs.length - 1) / 256 + 1 - pa / 256)).foldl (State.writeChunk pa bs o p) s := rfl

/-- One line of a write: its bytes there stand as written, any other stands as before. -/
theorem State.Stands.writeChunk {a : Nat} {bs : List Byte} (o : Nat) (p : Bool) (i : Nat)
    (h : ¬ (pa / 256 = a / 256 + i ∧ a ≤ pa ∧ pa < a + bs.length) → s.Stands pa b) :
    (State.writeChunk a bs o p s i).Stands pa
      (if pa / 256 = a / 256 + i ∧ a ≤ pa ∧ pa < a + bs.length then bs.getD (pa - a) 0 else b) := by
  unfold State.writeChunk
  dsimp only
  generalize a / 256 + i = l at h ⊢
  generalize elo : max a (l * 256) - l * 256 = lo
  generalize ehi : min (a + bs.length) (l * 256 + 256) - l * 256 = hi
  generalize emask : BitVec.ofNat 256 ((2 ^ (hi - lo) - 1) * 2 ^ lo) = mask
  have inMask : (pa / 256 = l ∧ mask.getLsbD (pa % 256) = true) ↔ (pa / 256 = l ∧ a ≤ pa ∧ pa < a + bs.length) := by
    refine and_congr_right fun hl => ?_
    rw [← emask, getLsbD_run (Nat.mod_lt _ (by decide)), Bool.and_eq_true, decide_eq_true_eq, decide_eq_true_eq]
    omega
  rw [← inMask] at h
  have chunk := fun data pz => State.Stands.homeWrite (s := s) data pz o h
  simp only [inMask] at chunk
  by_cases hw : pa / 256 = l ∧ a ≤ pa ∧ pa < a + bs.length
  · simp only [if_pos hw] at chunk ⊢
    have at_ : pa % 256 = lo + (pa % 256 - lo) := by omega
    have within : pa % 256 - lo < ((bs.drop (l * 256 + lo - a)).take (hi - lo)).length := by
      rw [List.length_take, List.length_drop]; omega
    have byte : Tab.get 0 (pa % 256) (Tab.writeList [] lo ((bs.drop (l * 256 + lo - a)).take (hi - lo))) = bs.getD (pa - a) 0 := by
      rw [at_, Tab.get_writeList _ _ _ _ within, List.getElem_take, List.getElem_drop, List.getD_eq_getElem _ _ (by omega)]
      congr 1
      omega
    exact byte ▸ chunk _ _
  · simp only [if_neg hw] at chunk ⊢
    exact chunk _ _

/-- The first m lines of a write. -/
theorem State.Stands.writeChunks {a : Nat} {bs : List Byte} (o : Nat) (p : Bool) (m : Nat)
    (h : ¬ (pa / 256 < a / 256 + m ∧ a ≤ pa ∧ pa < a + bs.length) → s.Stands pa b) :
    ((List.range m).foldl (State.writeChunk a bs o p) s).Stands pa
      (if pa / 256 < a / 256 + m ∧ a ≤ pa ∧ pa < a + bs.length then bs.getD (pa - a) 0 else b) := by
  induction m with
  | zero =>
    have none : ¬ (pa / 256 < a / 256 + 0 ∧ a ≤ pa ∧ pa < a + bs.length) := by omega
    rw [if_neg none]
    exact h none
  | succ m ih =>
    rw [List.range_succ, List.foldl_append, List.foldl_cons, List.foldl_nil]
    have last := State.Stands.writeChunk (a := a) (bs := bs) o p m fun away => ih fun before => h (by omega)
    split at last
    next here => rwa [if_pos (by omega)]
    next away =>
      have before : (pa / 256 < a / 256 + m ∧ a ≤ pa ∧ pa < a + bs.length)
          ↔ (pa / 256 < a / 256 + (m + 1) ∧ a ≤ pa ∧ pa < a + bs.length) := by omega
      rwa [if_congr before rfl rfl] at last

/-- A write of bytes: each stands as written, any other byte stands as before (11 R237). -/
theorem State.Stands.globalWrite {a : Nat} {bs : List Byte} (o : Nat) (p : Bool) (h : ¬ (a ≤ pa ∧ pa < a + bs.length) → s.Stands pa b) :
    (s.globalWrite a bs o p).Stands pa (if a ≤ pa ∧ pa < a + bs.length then bs.getD (pa - a) 0 else b) := by
  have all : pa / 256 < a / 256 + ((a + bs.length - 1) / 256 + 1 - a / 256) ∧ a ≤ pa ∧ pa < a + bs.length
      ↔ a ≤ pa ∧ pa < a + bs.length := by omega
  have chunks := State.Stands.writeChunks o p _ (by rwa [all] : _ → s.Stands pa b)
  rw [if_congr all rfl rfl] at chunks
  rwa [State.globalWrite_eq]

theorem State.globalWrite_written {a : Nat} {bs : List Byte} (s : State) (o : Nat) (p : Bool) {i : Nat} (hi : i < bs.length) :
    (s.globalWrite a bs o p).Stands (a + i) (bs.getD i 0) := by
  have w := State.Stands.globalWrite (s := s) (pa := a + i) (b := 0) (a := a) (bs := bs) o p fun h => absurd ⟨by omega, by omega⟩ h
  rwa [if_pos ⟨by omega, by omega⟩, Nat.add_sub_cancel_left] at w

/-- A write at SYS scope: each byte stands as written, and in memory. -/
theorem State.sysWrite_written {a : Nat} {bs : List Byte} (s : State) (o : Nat) (ha : isGlobal a = true) {i : Nat} (hi : i < bs.length) :
    (s.sysWrite a bs o).Stands (a + i) (bs.getD i 0) ∧ (s.sysWrite a bs o).memByte (a + i) = bs.getD i 0 := by
  unfold State.sysWrite
  rw [if_neg (by cases bs <;> simp_all)]
  dsimp only
  generalize ev : List.foldl _ (s.globalWrite a bs o false) _ = v
  have hv : v.Stands (a + i) (bs.getD i 0) :=
    ev ▸ foldl_keeps (fun x : State => x.Stands (a + i) (bs.getD i 0)) _ (fun x k hx => hx.flushLine _ _) _ _ (s.globalWrite_written o false hi)
  have mem : (v.writeMem a bs).memByte (a + i) = bs.getD i 0 := by rw [State.memByte_writeMem v a i bs hi, List.getD_eq_getElem _ _ hi]
  exact ⟨⟨hv.dirty, hv.valid, fun _ => mem⟩, mem⟩

end

end Sys2Proof.Machine
end

section
/-! What a step of device time shifts, what a reset logs, and what a reset of a firmware cluster takes away. -/

namespace Sys2Proof.Machine

/-! ### Device time: what a step of it shifts (20 R388) -/

section
variable {s : State} (d : Int)

/-- Every entry of the quotation table that is not free has its times shifted. -/
theorem State.quote_shiftTimes {k : Nat} (h : (s.quote k).state ≠ .free) :
    (s.shiftTimes d).quote k = { s.quote k with
      ddl := shift d (s.quote k).ddl, vdl := shift d (s.quote k).vdl, tstart := shift d (s.quote k).tstart
      causes := (s.quote k).causes.map fun c => (c.1, shift d c.2) } := by
  refine (Tab.get_map k s.quotes _ (fun e => ?_) rfl).trans ?_
  · dsimp only
    split <;> rfl
  · have h' : ¬ ((Tab.get {} k s.quotes).state == .free) = true := fun e => h (eq_of_beq e)
    simp only [if_neg h']
    rfl

/-- A wait watched in a slice has its expiry shifted. An entry that watches for the front end (TGT 2) has none. -/
theorem State.mon_shiftTimes {k : Nat} (j : Nat) (hv : ((s.slice k).mon.get {} j).v = true)
    (ht : ((s.slice k).mon.get {} j).tgt ≠ 2) :
    ((s.shiftTimes d).slice k).mon.get {} j
      = { (s.slice k).mon.get {} j with exp := shift d ((s.slice k).mon.get {} j).exp } := by
  have slice : (s.shiftTimes d).slice k = _ := Tab.get_map k s.slices _ (fun _ => rfl) rfl
  rw [slice]
  have listed : j ∈ Tab.keys (s.slice k).mon := Tab.mem_keys_of_get_ne (d := {}) fun e => by
    rw [e] at hv; cases hv
  exact (Tab.get_map_of_mem_keys _ _ (fun _ => rfl) listed).trans (if_neg (by simpa using ht))

theorem State.voteAt_shiftTimes (gk k : Nat) (h : ((s.group gk).strand k).live = true) :
    (((s.shiftTimes d).group gk).strand k).voteAt = shift d ((s.group gk).strand k).voteAt := by
  have group : (s.shiftTimes d).group gk = _ := Tab.get_map gk s.groups _ (fun _ => rfl) rfl
  have listed : k ∈ Tab.keys (s.group gk).strands := Tab.mem_keys_of_get_ne (d := {}) fun e => by
    rw [Group.strand, e] at h; cases h
  rw [group]
  exact congrArg Strand.voteAt (Tab.get_map_of_mem_keys _ _ (fun _ => rfl) listed)

theorem State.draining_shiftTimes {tk w r : Nat} (h : (s.team tk).phase = .draining w r) :
    ((s.shiftTimes d).team tk).phase = .draining (shift d w) r := by
  have team : (s.shiftTimes d).team tk = _ := Tab.get_map tk s.teams _ (fun _ => rfl) rfl
  rw [team]
  have h' : (Tab.get {} tk s.teams).phase = .draining w r := h
  simp only [h']

end

/-! ### The causes that a reset logs (20 R390) -/

/-- A cause stands among the first four logged, and a cause of its code and time goes in behind it. -/
def Logged (c : Nat × Nat) (cs : List (Nat × Nat)) : Prop :=
  ∃ p q, cs = p ++ c :: q ∧ p.length < 4 ∧ ∀ a ∈ p, ¬ (c.2 = a.2 ∧ c.1 < a.1)

theorem Logged.mem {c : Nat × Nat} {cs : List (Nat × Nat)} (h : Logged c cs) : c ∈ cs := by
  obtain ⟨p, q, rfl, -, -⟩ := h
  simp

theorem insertCause_cons_of_not {c a : Nat × Nat} (h : ¬ (c.2 = a.2 ∧ c.1 < a.1)) (t : List (Nat × Nat)) :
    insertCause c (a :: t) = a :: insertCause c t := by
  rw [insertCause, if_neg (by simpa using h)]

/-- Causes that a new one does not go before stay before it. -/
theorem insertCause_append {c : Nat × Nat} {p : List (Nat × Nat)} (h : ∀ a ∈ p, ¬ (c.2 = a.2 ∧ c.1 < a.1)) (t : List (Nat × Nat)) :
    insertCause c (p ++ t) = p ++ insertCause c t := by
  induction p with
  | nil => rfl
  | cons a p ih =>
    rw [List.cons_append, insertCause_cons_of_not (h a (by simp)), ih fun x hx => h x (by simp [hx]), List.cons_append]

/-- A cause goes in once, between those that it does not go before and the rest. -/
theorem insertCause_split (c : Nat × Nat) (cs : List (Nat × Nat)) :
    ∃ p q, cs = p ++ q ∧ insertCause c cs = p ++ c :: q ∧ ∀ a ∈ p, ¬ (c.2 = a.2 ∧ c.1 < a.1) := by
  induction cs with
  | nil => exact ⟨[], [], rfl, rfl, by simp⟩
  | cons a t ih =>
    by_cases h : c.2 = a.2 ∧ c.1 < a.1
    · exact ⟨[], a :: t, rfl, by rw [insertCause, if_pos (by simpa using h)]; rfl, by simp⟩
    · obtain ⟨p, q, rfl, e, hp⟩ := ih
      refine ⟨a :: p, q, rfl, ?_, ?_⟩
      · rw [insertCause_cons_of_not h, e, List.cons_append]
      · intro x hx
        rcases List.mem_cons.1 hx with rfl | hx
        · exact h
        · exact hp x hx

theorem Logged.take {c : Nat × Nat} {p q : List (Nat × Nat)} (hl : p.length < 4) (hp : ∀ a ∈ p, ¬ (c.2 = a.2 ∧ c.1 < a.1)) :
    Logged c ((p ++ c :: q).take 4) := by
  obtain ⟨n, hn⟩ : ∃ n, 4 - p.length = n + 1 := ⟨3 - p.length, by omega⟩
  refine ⟨p, q.take n, ?_, hl, hp⟩
  rw [List.take_append, List.take_of_length_le (by omega), hn, List.take_succ_cons]

/-- Where fewer than four causes are logged, a new one is among the four. -/
theorem Logged.insertCause {c : Nat × Nat} {cs : List (Nat × Nat)} (h : cs.length < 4) : Logged c ((insertCause c cs).take 4) := by
  obtain ⟨p, q, rfl, e, hp⟩ := insertCause_split c cs
  rw [e]
  exact .take (by rw [List.length_append] at h; omega) hp

/-- A cause that is logged again stays. -/
theorem Logged.again {c : Nat × Nat} {cs : List (Nat × Nat)} (h : Logged c cs) : Logged c ((Machine.insertCause c cs).take 4) := by
  obtain ⟨p, q, rfl, hl, hp⟩ := h
  rw [insertCause_append hp, insertCause_cons_of_not (by simp)]
  exact .take hl hp

theorem State.quote_logCause (s : State) (q code : Nat) (h : (s.quote q).state = .running) :
    ((s.logCause q code).quote q).state = .running
      ∧ ((s.logCause q code).quote q).causes = (insertCause (code, s.time.toNat) (s.quote q).causes).take 4 := by
  unfold State.logCause
  rw [State.quote_modQuote, if_pos (by rw [h]; rfl)]
  exact ⟨h, rfl⟩

/-- A cause is logged for each of a list of running launches, those before it untouched. -/
theorem State.logged_foldl {s : State} {q : Nat} (code : Nat) (l : List Nat) (hr : (s.quote q).state = .running)
    (h : (s.quote q).causes.length < 4 ∧ q ∈ l ∨ Logged (code, s.time.toNat) (s.quote q).causes) :
    Logged (code, s.time.toNat) ((l.foldl (fun s q => s.logCause q code) s).quote q).causes := by
  induction l generalizing s with
  | nil => exact h.resolve_left fun h => by simp at h
  | cons r l ih =>
    rw [List.foldl_cons]
    have time : (s.logCause r code).time = s.time := rfl
    rw [← time]
    by_cases hq : q = r
    · subst hq
      obtain ⟨hr', hc⟩ := s.quote_logCause q code hr
      refine ih hr' (.inr ?_)
      rw [hc, time]
      rcases h with ⟨hlen, -⟩ | hlog
      · exact .insertCause hlen
      · exact hlog.again
    · have same : (s.logCause r code).quote q = s.quote q := State.quote_modQuote_ne s hq _
      refine ih (same ▸ hr) ?_
      rw [same]
      exact h.imp_left fun ⟨hlen, hm⟩ => ⟨hlen, by simpa [hq] using hm⟩

/-! ### A reset of a firmware cluster (08 R181) -/

theorem State.group_resetFirmware (s : State) (d gk : Nat) :
    (s.resetFirmware d).group gk = if clusterOf gk = clusterKey d (s.die d).fwSite then {} else s.group gk := by
  have := Tab.get_filter_key ({} : Group) gk s.groups fun k => clusterOf k != clusterKey d (s.die d).fwSite
  refine Eq.trans this ?_
  by_cases h : clusterOf gk = clusterKey d (s.die d).fwSite <;> simp [h, State.group]

theorem State.fwSite_resetFirmware (s : State) (d k : Nat) : ((s.resetFirmware d).die k).fwSite = (s.die k).fwSite := by
  unfold State.resetFirmware
  dsimp only
  by_cases h : k = d
  · subst h; rw [State.die_modDie]; rfl
  · rw [State.die_modDie_ne _ h]; rfl

/-- Firmware clusters reset one after the other: the groups of each are gone. -/
theorem State.group_foldl_resetFirmware {s : State} {gk : Nat} (l : List Nat)
    (h : (∃ d ∈ l, clusterOf gk = clusterKey d (s.die d).fwSite) ∨ s.group gk = {}) : (l.foldl State.resetFirmware s).group gk = {} := by
  induction l generalizing s with
  | nil => exact h.resolve_left fun ⟨d, hd, _⟩ => by simp at hd
  | cons d l ih =>
    refine ih ?_
    rw [State.group_resetFirmware]
    simp only [State.fwSite_resetFirmware]
    rcases h with ⟨e, he, hc⟩ | h
    · rcases List.mem_cons.1 he with rfl | he
      · exact .inr (if_pos hc)
      · exact .inl ⟨e, he, hc⟩
    · right
      split
      · rfl
      · exact h

end Sys2Proof.Machine
end

section
/-! Host and Ethernet accesses (11 R249): what each answers, and what a host write leaves. -/

namespace Sys2Proof.Machine

/-! ### The host and the Ethernet (11 R249) -/

section
variable {s : State} {pa n port : Nat} {bs : List Byte}

theorem Writes.outside {s t : State} (h : Writes s t) : t.outside = s.outside := by rw [h]

/-- A byte written to a die window changes its die, or nothing. -/
theorem State.setWinByte_cases (s : State) (pa : Nat) (b : Byte) :
    s.setWinByte pa b = s ∨ ∃ f, s.setWinByte pa b = s.modDie (winDie pa) f := by
  unfold State.setWinByte
  extract_lets die o
  clear_value o
  split
  · exact .inl rfl
  · split
    · exact .inr ⟨_, rfl⟩
    · split
      · exact .inr ⟨_, rfl⟩
      · exact .inl rfl

theorem State.setWinByte_outside (s : State) (pa : Nat) (b : Byte) : (s.setWinByte pa b).outside = s.outside := by
  obtain h | ⟨f, h⟩ := s.setWinByte_cases pa b <;> rw [h]
  rfl

theorem State.winWrite_outside (s : State) (pa : Nat) (bs : List Byte) : (s.winWrite pa bs).outside = s.outside := by
  induction bs generalizing s pa with
  | nil => rfl
  | cons b bs ih => rw [State.winWrite, ih, State.setWinByte_outside]

theorem State.hostPut_outside (s : State) (pa : Nat) (bs : List Byte) : (s.hostPut pa bs).outside = s.outside := by
  unfold State.hostPut
  split
  · exact (Writes.sysWrite _ _ _ _).outside
  · split
    · exact s.winWrite_outside pa bs
    · rfl

theorem holeIn_one (h : regionOf pa ≠ .hole) : holeIn pa 1 = none := by
  simp [holeIn, h]

/-- A host write to a hole stops; any other is put and counted. -/
theorem exec_hostWrite_hole {a : Nat} (h : holeIn pa bs.length = some a) : exec (.hostWrite pa bs) s = .fault (.hole a) := by
  show execHostWrite pa bs s = _
  simp only [execHostWrite, h]

theorem exec_hostWrite (h : holeIn pa bs.length = none) :
    exec (.hostWrite pa bs) s = .next { s.hostPut pa bs with outside := { s.outside with writes := s.outside.writes + 1 } } := by
  show execHostWrite pa bs s = _
  simp only [execHostWrite, h, State.hostPut_outside]

theorem exec_hostRead_hole {a : Nat} (h : holeIn pa n = some a) : exec (.hostRead pa n) s = .fault (.hole a) := by
  show execHostRead pa n s = _
  simp only [execHostRead, h]

theorem exec_hostRead (h : holeIn pa n = none) :
    exec (.hostRead pa n) s = .next { s with outside := { s.outside with
      reads := (pa, (List.range n).map fun i => s.hostByte (pa + i)) :: s.outside.reads } } := by
  show execHostRead pa n s = _
  simp only [execHostRead, h]

theorem exec_ethernetEgress_no_port (h : 16 ≤ port) : exec (.ethernetEgress port pa n) s = .next s := if_pos h

theorem exec_ethernetEgress_hole {a : Nat} (hp : port < 16) (h : holeIn pa n = some a) :
    exec (.ethernetEgress port pa n) s = .fault (.hole a) := by
  show execEthernetEgress port pa n s = _
  simp only [execEthernetEgress, Nat.not_le.2 hp, if_false, h]

theorem exec_ethernetEgress (hp : port < 16) (h : holeIn pa n = none) :
    exec (.ethernetEgress port pa n) s = .next { s with outside := { s.outside with
      egress := (port, (List.range n).map fun i => s.hostByte (pa + i)) :: s.outside.egress } } := by
  show execEthernetEgress port pa n s = _
  simp only [execEthernetEgress, Nat.not_le.2 hp, if_false, h]

/-- The host reads memory as it stands, but for die windows and image areas. -/
theorem State.hostByte_eq_memByte (hd : regionOf pa ≠ .device) (hi : regionOf pa ≠ .imageArea) : s.hostByte pa = s.memByte pa := by
  unfold State.hostByte
  split
  · exact absurd ‹_› hd
  · exact absurd ‹_› hi
  · rfl

theorem State.hostByte_device (hd : regionOf pa = .device) : s.hostByte pa = s.winByte pa := by
  unfold State.hostByte
  rw [hd]

theorem not_isGlobal_of_device (hd : regionOf pa = .device) : isGlobal pa = false := by
  unfold isGlobal
  rw [hd]

/-! ### What a host write leaves -/

theorem globalPart_initial (pa : Nat) (bs : List Byte) : globalPart pa bs <+: bs := by
  unfold globalPart
  conv_rhs => rw [← List.zipIdx_map_fst 0 bs]
  exact (List.takeWhile_prefix _).map _

theorem getD_globalPart {i : Nat} (h : i < (globalPart pa bs).length) : (globalPart pa bs).getD i 0 = bs.getD i 0 := by
  have le := (globalPart_initial pa bs).length_le
  rw [List.getD_eq_getElem _ _ h, List.getD_eq_getElem _ _ (by omega), (globalPart_initial pa bs).getElem h]

theorem globalPart_of_not_global (h : isGlobal pa = false) : globalPart pa bs = [] := by
  cases bs with
  | nil => rfl
  | cons b bs => simp [globalPart, h]

theorem State.length_keepFixed (s : State) (pa : Nat) (bs : List Byte) : (s.keepFixed pa bs).length = bs.length := by
  simp [State.keepFixed]

/-- A byte that software may not write is put back as it stood. -/
theorem State.getD_keepFixed {i : Nat} (h : i < bs.length) :
    (s.keepFixed pa bs).getD i 0 = if s.storable 0 (pa + i) = true then bs.getD i 0 else s.homeByte (pa + i) := by
  rw [List.getD_eq_getElem _ _ (by rwa [State.length_keepFixed]), List.getD_eq_getElem _ _ h]
  simp only [State.keepFixed, State.storable, List.getElem_map, List.getElem_zipIdx, Nat.zero_add]
  by_cases hf : (s.fixedMask ((pa + i) / 256) false).getLsbD ((pa + i) % 256) = true <;> simp [hf]

/-- A byte of global memory that the host has written stands so, at home and in memory, where software may write it. -/
theorem State.hostPut_written {i : Nat} (h : i < (globalPart pa bs).length) :
    let b := if s.storable 0 (pa + i) = true then bs.getD i 0 else s.homeByte (pa + i)
    (s.hostPut pa bs).homeByte (pa + i) = b ∧ (s.hostPut pa bs).memByte (pa + i) = b := by
  have hg : isGlobal pa = true := by
    by_contra hg
    rw [globalPart_of_not_global (by simpa using hg)] at h
    simp at h
  obtain ⟨hs, hm⟩ := s.sysWrite_written (bs := s.keepFixed pa (globalPart pa bs)) fwIdx hg (i := i) (by rwa [State.length_keepFixed])
  rw [State.getD_keepFixed h, getD_globalPart h] at hs hm
  unfold State.hostPut
  rw [if_pos hg]
  exact ⟨hs.homeByte, hm⟩

theorem State.hostPut_elsewhere (hg : isGlobal pa = false) (hd : regionOf pa ≠ .device) : s.hostPut pa bs = s := by
  unfold State.hostPut
  rw [if_neg (by simp [hg]), if_neg (by simpa using hd)]

/-- A byte written to a mailbox is read there, and memory is as it was. -/
theorem State.winByte_hostPut_mailbox {b : Byte} (hd : regionOf pa = .device) (hw : winDie pa < 4) (hlo : 0x10000 ≤ winOff pa)
    (hhi : winOff pa < 0x20000) : (s.hostPut pa [b]).mem = s.mem ∧ (s.hostPut pa [b]).winByte pa = b := by
  have put : s.hostPut pa [b] = s.modDie (winDie pa) fun d => { d with mailbox := d.mailbox.set 0 (winOff pa - 0x10000) b } := by
    unfold State.hostPut
    rw [if_neg (by simp [not_isGlobal_of_device hd]), if_pos (by simp [hd])]
    show s.setWinByte pa b = _
    unfold State.setWinByte
    dsimp only
    rw [if_neg (by omega), if_pos (by simp [hlo, hhi])]
  rw [put]
  refine ⟨rfl, ?_⟩
  unfold State.winByte
  dsimp only
  rw [if_neg (by omega), if_neg (by omega), if_neg (by simp; omega), if_pos (by simp [hlo, hhi]), State.die_modDie]
  exact Tab.get_set_same _ _ _ _

end

end Sys2Proof.Machine
end

section
/-! Ingress frames (12 R272), PTP messages (20 R387, R388) and the resets (20 R390): what each answers. -/

namespace Sys2Proof.Machine

/-! ### Ingress rings (12 R271, R272) -/

section
variable {s : State} {die port : Nat} {mac : BitVec 48} {ethertype udp : BitVec 16} {frame : List Byte} {f : Filter}

/-- The descriptor of an ingress ring as it stands at home (12 Table 12-11). -/
def State.ringDesc (s : State) (ring : Nat) : Nat := leNat (s.homeBytes ring 32)
/-- Bytes of a slot of a ring. -/
def ringSize (d : Nat) : Nat := 2 ^ bits d 207 204
/-- The slot of a ring that TAIL names. -/
def frameSlot (d : Nat) : Nat := bits d 255 208 + ringSize d * (bits d 127 96 % 2 ^ bits d 203 200)
/-- A frame of n bytes finds no room: every slot is taken, or a slot is too small. -/
def ringFull (d n : Nat) : Prop := (bits d 127 96 + 2 ^ 32 - bits d 159 128) % 2 ^ 32 = 2 ^ bits d 203 200 ∨ ringSize d < n + 16

/-- The header of a frame in its slot. -/
def frameHead (time port n : Nat) : List Byte :=
  field 6 (time / 1000000000) ++ field 4 (time % 1000000000) ++ field 2 n ++ field 1 port ++ field 3 0

theorem length_frameHead (time port n : Nat) : (frameHead time port n).length = 16 := by simp [frameHead, length_field]

theorem exec_ingressFrame_down (h : ¬ (port < 4 ∧ (s.die die).ready.getLsbD (20 + port) = true)) :
    exec (.ingressFrame die port mac ethertype udp frame) s = .next s := by
  show execIngressFrame die port mac ethertype udp frame s = _
  unfold execIngressFrame
  rw [if_pos]
  rcases not_and_or.1 h with h | h <;> simp_all

section
variable (hup : port < 4 ∧ (s.die die).ready.getLsbD (20 + port) = true)
include hup

theorem exec_ingressFrame_no_filter (hf : (s.die die).filterFor port mac ethertype udp = none) :
    exec (.ingressFrame die port mac ethertype udp frame) s = .next s := by
  show execIngressFrame die port mac ethertype udp frame s = _
  unfold execIngressFrame
  rw [if_neg (by simp [hup])]
  simp only [hf]

variable (hf : (s.die die).filterFor port mac ethertype udp = some f)
include hf

theorem exec_ingressFrame_busy (hb : s.rangeBusy f.ring 32 = true) :
    exec (.ingressFrame die port mac ethertype udp frame) s = .next s := by
  show execIngressFrame die port mac ethertype udp frame s = _
  unfold execIngressFrame
  rw [if_neg (by simp [hup])]
  simp only [hf, hb, if_true]

variable (hb : s.rangeBusy f.ring 32 = false)
include hb

/-- A frame without room is counted in DROP. -/
theorem exec_ingressFrame_full (hfull : ringFull (s.ringDesc f.ring) frame.length) :
    exec (.ingressFrame die port mac ethertype udp frame) s
      = .next (s.globalWrite (f.ring + 20) (field 4 (bits (s.ringDesc f.ring) 191 160 + 1)) fwIdx false) := by
  show execIngressFrame die port mac ethertype udp frame s = _
  unfold execIngressFrame
  rw [if_neg (by simp [hup])]
  simp only [hf, hb, Bool.false_eq_true, if_false]
  exact if_pos (by simpa only [Bool.or_eq_true, beq_iff_eq, decide_eq_true_eq, ringFull, ringSize, State.ringDesc] using hfull)

/-- A frame with room goes into its slot, and then TAIL goes on. -/
theorem exec_ingressFrame_room (hroom : ¬ ringFull (s.ringDesc f.ring) frame.length) :
    exec (.ingressFrame die port mac ethertype udp frame) s
      = .next ((s.globalWrite (frameSlot (s.ringDesc f.ring)) (frameHead s.time.toNat port frame.length ++ frame) fwIdx false).globalWrite
          (f.ring + 12) (field 4 (bits (s.ringDesc f.ring) 127 96 + 1)) fwIdx false) := by
  show execIngressFrame die port mac ethertype udp frame s = _
  unfold execIngressFrame
  rw [if_neg (by simp [hup])]
  simp only [hf, hb, Bool.false_eq_true, if_false]
  exact if_neg (by simpa only [Bool.or_eq_true, beq_iff_eq, decide_eq_true_eq, ringFull, ringSize, State.ringDesc] using hroom)

end

/-- A field written at its home slice reads as its number. -/
theorem State.leNat_homeBytes_globalWrite (s : State) (pa n v o : Nat) :
    leNat ((s.globalWrite pa (field n v) o false).homeBytes pa n) = v % 256 ^ n :=
  leNat_homeBytes_field fun i hi => (s.globalWrite_written o false (by rwa [length_field])).homeByte

/-- Bytes written beside a later write of n bytes at r stay. -/
theorem State.homeByte_globalWrite_twice (s : State) {a r i : Nat} {bs cs : List Byte} (o : Nat) (hi : i < bs.length)
    (away : a + bs.length ≤ r ∨ r + cs.length ≤ a) :
    ((s.globalWrite a bs o false).globalWrite r cs o false).homeByte (a + i) = bs.getD i 0 := by
  have stands := (State.Stands.globalWrite (a := r) (bs := cs) o false fun _ => s.globalWrite_written (a := a) o false hi).homeByte
  rwa [if_neg (by omega)] at stands

theorem getD_frame (time port : Nat) (frame : List Byte) (i : Nat) :
    (frameHead time port frame.length ++ frame).getD (16 + i) 0 = frame.getD i 0 := by
  rw [List.getD_append_right _ _ _ _ (by rw [length_frameHead]; omega), length_frameHead, Nat.add_sub_cancel_left]

theorem getD_frame_length (time port : Nat) (frame : List Byte) {i : Nat} (hi : i < 2) :
    (frameHead time port frame.length ++ frame).getD (10 + i) 0 = (field 2 frame.length).getD i 0 := by
  rw [List.getD_append _ _ _ _ (by rw [length_frameHead]; omega)]
  unfold frameHead
  rw [List.append_assoc, List.append_assoc, List.getD_append_right _ _ _ _ (by simp [length_field]),
    List.getD_append _ _ _ _ (by simp [length_field]; omega)]
  simp [length_field]

/-- A frame in its slot, and its length in the slot's header, stand beside a field that is written after them. -/
theorem State.frame_stays (s : State) {a r : Nat} (time port o v : Nat) (frame : List Byte)
    (away : a + 16 + frame.length ≤ r ∨ r + 4 ≤ a) :
    let t := (s.globalWrite a (frameHead time port frame.length ++ frame) o false).globalWrite r (field 4 v) o false
    (∀ i, i < frame.length → t.homeByte (a + 16 + i) = frame.getD i 0) ∧ leNat (t.homeBytes (a + 10) 2) = frame.length % 2 ^ 16 := by
  intro t
  have len : (frameHead time port frame.length ++ frame).length = 16 + frame.length := by rw [List.length_append, length_frameHead]
  have stays : ∀ i, i < 16 + frame.length → t.homeByte (a + i) = (frameHead time port frame.length ++ frame).getD i 0 := fun i hi =>
    s.homeByte_globalWrite_twice o (by rwa [len]) (by rw [len, length_field]; omega)
  constructor
  · intro i hi
    rw [Nat.add_assoc, stays _ (by omega), getD_frame]
  · refine leNat_homeBytes_field fun i hi => ?_
    rw [Nat.add_assoc, stays _ (by omega), getD_frame_length _ _ _ hi]

end

/-! ### Device time and the resets -/

/-- The conditions of the lock (20 R387). -/
theorem Ptp.lockDue_iff (p : Ptp) (locked : Bool) (now : Nat) :
    p.lockDue locked now = true ↔ p.locked ≠ locked ∧ p.near = locked ∧ (p.master = true ∨ locked = false) ∧ p.since + 1000000000 ≤ now := by
  simp [Ptp.lockDue, and_assoc]

theorem exec_syncLockChange_not_due {s : State} {locked : Bool} (h : ¬ s.ptp.lockDue locked s.time.toNat = true) :
    exec (.syncLockChange locked) s = .next s := if_pos (by simpa using h)

/-- A lock that is due, or lost, is told by SYNC of every die. -/
theorem exec_syncLockChange_due {s : State} {locked : Bool} (h : s.ptp.lockDue locked s.time.toNat = true) :
    ∃ t, exec (.syncLockChange locked) s = .next t ∧ t.ptp = { s.ptp with locked := locked }
      ∧ ∀ d ∈ s.dies.keys, (t.die d).ready.getLsbD 27 = locked := by
  refine ⟨_, if_neg (by simpa using h), rfl, fun d hd => ?_⟩
  refine (congrArg (fun x : Die => x.ready.getLsbD 27) (Tab.get_map_of_mem_keys _ _ (fun _ => rfl) hd)).trans ?_
  cases locked <;> simp

theorem exec_ptpMessage_no_port {s : State} {port : Nat} (offset : Int) (h : 16 ≤ port) : exec (.ptpMessage port offset) s = .next s :=
  if_pos h

/-- What a master's offset leaves in the record of device time. -/
theorem Ptp.heard_eq (p : Ptp) (port : Nat) (offset : Int) (now : Nat) :
    p.heard port offset now = { p with
      master := true, port := port, offset := offset, near := decide (offset.natAbs ≤ 50)
      since := if decide (offset.natAbs ≤ 50) = p.near ∧ p.master = true then p.since else now } := by
  simp [Ptp.heard]

theorem exec_ptpMessage_later {s : State} {port : Nat} (offset : Int) (h : port < 16) (hs : s.ptp.stepped = true) :
    exec (.ptpMessage port offset) s = .next { s with ptp := { s.ptp.heard port offset s.time.toNat with slew := offset } } := by
  show execPtpMessage port offset s = _
  simp only [execPtpMessage, Nat.not_le.2 h, if_false, hs, if_true]

/-- The first offset steps device time and all that the device holds of it. -/
theorem exec_ptpMessage_first {s : State} {port : Nat} (offset : Int) (h : port < 16) (hs : s.ptp.stepped = false) :
    exec (.ptpMessage port offset) s = .next { s.shiftTimes offset with
      time := BitVec.ofNat 64 (shift offset s.time.toNat)
      ptp := { s.ptp.heard port 0 (shift offset s.time.toNat) with stepped := true } } := by
  show execPtpMessage port offset s = _
  simp only [execPtpMessage, Nat.not_le.2 h, if_false, hs, Bool.false_eq_true]
  rfl

theorem exec_eventMessageTransmission {s : State} {port : Nat} (h : port < 16) :
    exec (.eventMessageTransmission port) s = .next { s with outside := { s.outside with
      sent := (port, s.time.toNat / 1000000000 % 2 ^ 48, s.time.toNat % 1000000000) :: s.outside.sent } } := if_neg (Nat.not_le.2 h)

theorem exec_eventMessageTransmission_no_port {s : State} {port : Nat} (h : 16 ≤ port) :
    exec (.eventMessageTransmission port) s = .next s := if_pos h

/-- Causes that are logged change the quotation table alone. -/
theorem State.foldl_logCause_rest (s : State) (code : Nat) (l : List Nat) :
    ∃ qs, l.foldl (fun s q => s.logCause q code) s = { s with quotes := qs } :=
  foldl_keeps (fun t : State => ∃ qs, t = { s with quotes := qs }) _ (by rintro _ q ⟨qs, rfl⟩; exact ⟨_, rfl⟩) l s ⟨_, rfl⟩

/-- A reset of the device: the running launches log cause 0x04, and the groups of firmware are gone. -/
theorem exec_deviceReset (s : State) :
    ∃ t, exec .deviceReset s = .next t ∧ t.mem = s.mem ∧ t.staged = none
      ∧ (∀ q, (s.quote q).state = .running → (s.quote q).causes.length < 4 → (4, s.time.toNat) ∈ (t.quote q).causes)
      ∧ ∀ d gk, d < 4 → clusterOf gk = clusterKey d (s.die d).fwSite → t.group gk = {} := by
  show ∃ t, execDeviceReset s = .next t ∧ _
  unfold execDeviceReset
  have logged := fun q => State.logged_foldl (s := s) (q := q) 4 s.running
  obtain ⟨qs, rest⟩ := s.foldl_logCause_rest 4 s.running
  generalize s.running.foldl (fun s q => s.logCause q 4) s = v at rest logged ⊢
  refine ⟨_, rfl, ?_, rfl, fun q hr hlen => ?_, fun d gk hd hc => ?_⟩
  · show v.mem = s.mem
    rw [rest]
  · have listed : q ∈ s.quotes.keys := Tab.mem_keys_of_get_ne (d := {}) fun e => by
      rw [State.quote, e] at hr; cases hr
    exact (logged q hr (.inl ⟨hlen, List.mem_filter.2 ⟨listed, by rw [hr]; rfl⟩⟩)).mem
  · refine State.group_foldl_resetFirmware (s := v) [0, 1, 2, 3] (.inl ⟨d, by simp; omega, ?_⟩)
    rw [rest]
    exact hc

theorem exec_powerOnReset (s : State) :
    ∃ t, exec .powerOnReset s = .next t ∧ t.mem = [] ∧ t.groups = [] ∧ t.clusters = [] ∧ t.quotes = [] ∧ t.time = 0 ∧ t.cap = 5200
      ∧ ∀ d, d < 4 → t.die d = { resetDie with leaf := (s.die d).leaf, keys := (s.die d).keys } := by
  refine ⟨_, rfl, rfl, rfl, rfl, rfl, rfl, rfl, fun d hd => ?_⟩
  obtain rfl | rfl | rfl | rfl : d = 0 ∨ d = 1 ∨ d = 2 ∨ d = 3 := by omega
  · rfl
  · rfl
  · rfl
  · rfl

end Sys2Proof.Machine
end

section
/-! The settled statements of the outside and of power-on. -/

namespace Sys2Proof.Machine

/-- The cluster, whatever its key, that nothing has touched since power-on. -/
theorem State.cluster_reset (cl : Nat) : State.reset.cluster cl = {} := rfl

/-- A die has its reset values, or stands nowhere. -/
theorem State.die_reset (d : Nat) : State.reset.die d = resetDie ∨ State.reset.die d = {} := by
  by_cases h : d < 4
  · left
    obtain rfl | rfl | rfl | rfl : d = 0 ∨ d = 1 ∨ d = 2 ∨ d = 3 := by omega
    · rfl
    · rfl
    · rfl
    · rfl
  · right
    have keys : State.reset.dies.keys = [0, 1, 2, 3] := rfl
    exact Tab.get_of_not_mem_keys _ (by rw [keys]; simp; omega)

/-- Settles O60: after power-on every table but that of the dies is empty, so that a lookup gives the record of an absent thing, and each die is
`resetDie`. -/
theorem resetState : Obligations.ResetState := by
  unfold Obligations.ResetState
  have cluster : ∀ cl, (State.reset.cluster cl).sramsplit = 0x664 ∧ (State.reset.cluster cl).duty = 0 ∧ (State.reset.cluster cl).inj = 0
      ∧ State.reset.clk cl = 0 ∧ (State.reset.cluster cl).tlb = [] ∧ (State.reset.cluster cl).power.level = 0 := fun cl => by
    rw [State.clk, State.cluster_reset]
    exact ⟨rfl, rfl, rfl, rfl, rfl, rfl⟩
  have die : ∀ d, (State.reset.die d).ready = 0 := fun d =>
    (State.die_reset d).elim (fun h => congrArg Die.ready h) fun h => congrArg Die.ready h
  exact ⟨State.reset_mem_wf, rfl, fun _ => rfl, fun _ => rfl, cluster, rfl, rfl, fun _ => rfl, die, rfl, rfl, rfl⟩

/-- Settles O55. Bytes are found again because a write leaves them standing (`State.Stands`) through every later write-back, eviction and
write elsewhere; the rest follows from what each event's execution is. -/
theorem outsideEvents : Obligations.OutsideEvents := by
  unfold Obligations.OutsideEvents
  refine ⟨fun s pa n port bs => ⟨fun a h => exec_hostWrite_hole h, fun h hd => ?written, fun b hd hw hlo hhi => ?mailbox,
      fun a h => ⟨exec_hostRead_hole h, fun hp => exec_ethernetEgress_hole hp h⟩, State.hostByte_eq_memByte, exec_ethernetEgress_no_port,
      fun h => ⟨exec_hostRead h, fun hp => exec_ethernetEgress hp h⟩, fun h hd => ?window⟩,
    fun s die port mac ethertype udp frame => ⟨exec_ingressFrame_down, exec_ingressFrame_no_filter,
      fun f hup hf hb => exec_ingressFrame_busy hup hf hb, fun f hup hf hb _ => ⟨fun hfull => ?full, fun hroom away => ?room⟩⟩,
    fun s port offset locked => ⟨fun hp hs => ?later, fun hp hs => ?first, fun h => exec_syncLockChange_due ((Ptp.lockDue_iff _ _ _).2 h),
      fun h => exec_syncLockChange_not_due fun hd => h ((Ptp.lockDue_iff _ _ _).1 hd), rfl, exec_eventMessageTransmission,
      fun hp => ⟨exec_ptpMessage_no_port offset hp, exec_eventMessageTransmission_no_port hp⟩⟩,
    fun s => ⟨exec_powerOnReset s, exec_deviceReset s⟩⟩
  case written =>
    refine ⟨_, exec_hostWrite h, rfl, fun i hi hst => ?_, fun i hi => (State.hostPut_written hi).1, fun hg => ?_⟩
    · exact (State.hostPut_written hi).2.trans (if_pos hst)
    · rw [State.hostPut_elsewhere hg hd]
  case mailbox =>
    have put := s.winByte_hostPut_mailbox hd hw hlo hhi (b := b)
    exact ⟨_, exec_hostWrite (holeIn_one (by simp [hd])), put.1, put.2⟩
  case window =>
    rw [exec_hostRead h, ← State.hostByte_device hd]
    rfl
  case full =>
    exact ⟨_, exec_ingressFrame_full hup hf hb hfull, s.leNat_homeBytes_globalWrite _ 4 _ _⟩
  case room =>
    obtain ⟨bytes, length⟩ := s.frame_stays s.time.toNat port fwIdx _ frame away
    exact ⟨_, exec_ingressFrame_room hup hf hb hroom, State.leNat_homeBytes_globalWrite _ _ 4 _ _, bytes, length⟩
  case later =>
    rw [exec_ptpMessage_later offset hp hs, Ptp.heard_eq]
  case first =>
    exact ⟨_, exec_ptpMessage_first offset hp hs, rfl, rfl, rfl, fun k => State.quote_shiftTimes offset, fun x k => State.mon_shiftTimes offset k,
      fun gk k => State.voteAt_shiftTimes offset gk k, fun tk w r => State.draining_shiftTimes offset⟩

end Sys2Proof.Machine
end

section
/-! Power: the level that a cluster is asked for, droops and their ends, what a limit logs, and the checks of a quotation's figures. -/

namespace Sys2Proof.Machine

/-! ### Folds of numbers and of logged causes -/

/-- A fold that never falls is at least what its step gives at one entry. -/
theorem le_foldl_of_mem {α : Type} {f : Nat → α → Nat} (rises : ∀ m a, m ≤ f m a) {n : Nat} {x : α} (hx : ∀ m, n ≤ f m x) {l : List α}
    (h : x ∈ l) (m : Nat) : n ≤ l.foldl f m := by
  induction l generalizing m with
  | nil => simp at h
  | cons a l ih =>
    rw [List.foldl_cons]
    rcases List.mem_cons.1 h with rfl | h
    · exact foldl_keeps (n ≤ ·) f (fun m a hm => hm.trans (rises m a)) l _ (hx m)
    · exact ih h _

theorem foldl_max_le {α : Type} {f : α → Nat} {n : Nat} {l : List α} (bound : ∀ a ∈ l, f a ≤ n) {m : Nat} (hm : m ≤ n) :
    l.foldl (fun m a => max m (f a)) m ≤ n := by
  induction l generalizing m with
  | nil => exact hm
  | cons a l ih => exact ih (fun b hb => bound b (by simp [hb])) (Nat.max_le.2 ⟨hm, bound a (by simp)⟩)

/-- The greatest of the figures of a list, at an entry that no other exceeds. -/
theorem foldl_max_eq {α : Type} (f : α → Nat) {x : α} {l : List α} (h : x ∈ l) (top : ∀ a ∈ l, f a ≤ f x) :
    l.foldl (fun m a => max m (f a)) 0 = f x :=
  Nat.le_antisymm (foldl_max_le top (Nat.zero_le _))
    (le_foldl_of_mem (f := fun m a => max m (f a)) (fun _ _ => Nat.le_max_left _ _) (fun _ => Nat.le_max_right _ _) h 0)

section
variable {s t : State} {cl k q code : Nat}

/-- No cause that is logged changes a class. -/
theorem State.cls_logCause (s : State) (q code k : Nat) : ((s.logCause q code).quote k).cls = (s.quote k).cls := by
  by_cases h : k = q
  · subst h
    unfold State.logCause
    rw [State.quote_modQuote]
    split <;> rfl
  · exact congrArg QEntry.cls (State.quote_modQuote_ne s h _)

/-- The first cause of a running entry. -/
theorem State.quote_logCause_first (hr : (s.quote q).state = .running) (hc : (s.quote q).causes = []) :
    (s.logCause q code).quote q
      = { s.quote q with causes := [(code, s.time.toNat)], brc := code, party := causeParty code } := by
  unfold State.logCause
  rw [State.quote_modQuote, if_pos (by rw [hr]; rfl), hc]
  rfl

/-- The time that a quotation's entry is measured by: device time for DL, else service time (17 R347). -/
def State.measured (s : State) (q : Nat) : Nat := if (s.quote q).cls = 0 then s.time.toNat - (s.quote q).tstart else (s.quote q).svc

/-- The check of an entry's figures: the first that has been passed is logged, where no cause is (16 R334). -/
theorem State.checkFigures_eq (s : State) (q : Nat) :
    s.checkFigures q = if (s.quote q).state = .running ∧ (s.quote q).causes = [] then
      if (s.quote q).tmax < s.measured q then s.logCause q 0x0B
      else if (s.quote q).emax * 1000 < (s.quote q).nrg then s.logCause q 0x0C else s
    else s := by
  unfold State.checkFigures State.measured
  simp

theorem State.nrg_logCause (s : State) (q code : Nat) : ((s.logCause q code).quote q).nrg = (s.quote q).nrg := by
  unfold State.logCause
  rw [State.quote_modQuote]
  split <;> rfl

/-- The check of the figures changes the quotation table alone, and keeps the energy. -/
theorem State.checkFigures_rest (s : State) (q : Nat) :
    ∃ qs, s.checkFigures q = { s with quotes := qs } ∧ ((s.checkFigures q).quote q).nrg = (s.quote q).nrg := by
  rw [State.checkFigures_eq]
  repeat' split
  · exact ⟨_, rfl, s.nrg_logCause q _⟩
  · exact ⟨_, rfl, s.nrg_logCause q _⟩
  · exact ⟨_, rfl, rfl⟩
  · exact ⟨_, rfl, rfl⟩

/-- Causes logged where a condition holds that no logged cause changes: those of the entries that meet it at the start. -/
theorem State.foldl_logCause_if {α : Type} (p : State → α → Bool) (key : α → Nat) (hp : ∀ s q a, p (s.logCause q code) a = p s a)
    (l : List α) (s : State) : l.foldl (fun s a => if p s a = true then s.logCause (key a) code else s) s
      = ((l.filter (p s)).map key).foldl (fun s q => s.logCause q code) s := by
  induction l generalizing s with
  | nil => rfl
  | cons a l ih =>
    rw [List.foldl_cons]
    cases h : p s a with
    | false => simpa [h] using ih s
    | true =>
      have same : p (s.logCause (key a) code) = p s := funext fun b => hp s _ b
      simpa [h, same] using ih (s.logCause (key a) code)

/-! ### What the accounting leaves -/

@[simp] theorem State.quote_modCluster (s : State) (k : Nat) (f : Cluster → Cluster) (q : Nat) : (s.modCluster k f).quote q = s.quote q := rfl
@[simp] theorem State.cluster_modQuote (s : State) (k : Nat) (f : QEntry → QEntry) (cl : Nat) : (s.modQuote k f).cluster cl = s.cluster cl := rfl
theorem Charges.modCluster (s : State) (k : Nat) (f : Cluster → Cluster) : Charges s (s.modCluster k f) := rfl
theorem Charges.retarget (s : State) (k : Nat) : Charges s (s.retarget k) := rfl
theorem Charges.quotes (h : Charges s t) : t.quotes = s.quotes := by rw [h]
theorem Charges.quote (h : Charges s t) (k : Nat) : t.quote k = s.quote k := by unfold State.quote; rw [h.quotes]
theorem Charges.resv (h : Charges s t) : t.resv = s.resv := by rw [h]
theorem Charges.levelFloor (h : Charges s t) (cl : Nat) : t.levelFloor cl = s.levelFloor cl := by
  unfold State.levelFloor State.quote
  rw [h.resv, h.quotes]

/-! ### The level asked for (08 R175, 19 R377) -/

@[simp] theorem Power.begin_target (p : Power) : p.begin.target = p.target := by
  unfold Power.begin
  repeat' split
  all_goals rfl
@[simp] theorem Power.begin_ceiling (p : Power) : p.begin.ceiling = p.ceiling := by
  unfold Power.begin
  repeat' split
  all_goals rfl
@[simp] theorem Power.begin_forced (p : Power) : p.begin.forced = p.forced := by
  unfold Power.begin
  repeat' split
  all_goals rfl

/-- What a cluster is asked for: its votes and floors, within its limits. -/
theorem State.power_retarget (s : State) (cl : Nat) :
    ((s.retarget cl).cluster cl).power = { (s.cluster cl).power with
      target := min (s.cluster cl).power.forced (max (s.levelFloor cl) (min (s.cluster cl).power.ceiling (s.wantedLevel cl))) : Power }.begin := by
  unfold State.retarget
  rw [State.cluster_modCluster]

theorem State.cluster_retarget_ne (h : k ≠ cl) : (s.retarget cl).cluster k = s.cluster k := State.cluster_modCluster_ne s h _

/-- The floor of a live DL reservation that holds the cluster. -/
theorem State.floor_le_levelFloor {e : Nat × REntry} {h : Share} (he : e ∈ s.resv) (hd : e.1 / 4096 = dieOf cl) (hl : e.2.live = true)
    (hs : e.2.share = some h) (hm : h.cmask.getLsbD (siteOf cl) = true) (hc : (s.quote e.2.qidx).cls = 0) : h.floor ≤ s.levelFloor cl := by
  refine le_foldl_of_mem (x := e) (fun m a => ?_) (fun m => ?_) he 0
  · obtain ⟨i, a⟩ := a
    dsimp only
    repeat' split
    all_goals simp
  · obtain ⟨i, a⟩ := e
    simp_all

/-! ### Events of one cluster's power (01 R24, 19 R377 to R380) -/

/-- An event has left memory and groups alone and a cluster as given. -/
def Becomes (s : State) (cl : Nat) (o : Outcome) (x : Cluster) : Prop :=
  ∃ t, o = .next t ∧ t.mem = s.mem ∧ t.groups = s.groups ∧ t.cluster cl = x

theorem Becomes.modCluster (s : State) (cl : Nat) (f : Cluster → Cluster) : Becomes s cl (.next (s.modCluster cl f)) (f (s.cluster cl)) :=
  ⟨_, rfl, rfl, rfl, s.cluster_modCluster cl f⟩

theorem Becomes.logged {u : State} {x : Cluster} (h : Becomes s cl (.next u) x) (code : Nat) (l : List Nat) :
    Becomes s cl (.next (l.foldl (fun s q => s.logCause q code) u)) x := by
  obtain ⟨t, e, hm, hg, hx⟩ := h
  cases e
  obtain ⟨qs, rest⟩ := u.foldl_logCause_rest code l
  exact ⟨_, rfl, by rw [rest]; exact hm, by rw [rest]; exact hg, by rw [rest]; exact hx⟩

theorem exec_levelChangeComplete (h : (s.cluster cl).power.changing = true) :
    Becomes s cl (exec (.levelChangeComplete cl) s) { s.cluster cl with
      power := (if (s.cluster cl).power.level < (s.cluster cl).power.ratio then { (s.cluster cl).power with level := (s.cluster cl).power.ratio }
        else { (s.cluster cl).power with ratio := (s.cluster cl).power.level } : Power).begin } := by
  have e : exec (.levelChangeComplete cl) s = _ := if_neg (by simp [h])
  rw [e]
  exact .modCluster s cl _

theorem exec_levelChangeComplete_idle (h : (s.cluster cl).power.changing = false) : exec (.levelChangeComplete cl) s = .next s :=
  if_pos (by rw [h]; rfl)

theorem exec_droopDetect_busy (h : (s.cluster cl).power.boosting = true ∨ (s.cluster cl).power.stretching = true) :
    exec (.droopDetect cl) s = .next s :=
  if_pos (by simpa using h)

/-- A cluster may boost: the boost is not exhausted, no level change is under way, and the level is below H (19 R380). -/
def Cluster.mayBoost (c : Cluster) : Prop :=
  dutyBST c.duty < 500 ∧ c.power.level = c.power.target ∧ c.power.level = c.power.ratio ∧ c.power.level < 2

theorem exec_droopDetect_boost (hb : (s.cluster cl).power.boosting = false) (hs : (s.cluster cl).power.stretching = false)
    (h : (s.cluster cl).mayBoost) :
    Becomes s cl (exec (.droopDetect cl) s) { s.cluster cl with
      power := { (s.cluster cl).power with boosting := true, ratio := (s.cluster cl).power.level + 1, droopAt := s.time.toNat } } := by
  obtain ⟨hd, ht, hr, hl⟩ := h
  have e : exec (.droopDetect cl) s = _ := (if_neg (by simp [hb, hs])).trans (if_pos (by simp [hd, ← ht, ← hr, hl]))
  rw [e]
  exact .modCluster s cl _

theorem exec_droopDetect_stretch (hb : (s.cluster cl).power.boosting = false) (hs : (s.cluster cl).power.stretching = false)
    (h : ¬ (s.cluster cl).mayBoost) :
    Becomes s cl (exec (.droopDetect cl) s) { s.cluster cl with
      power := { (s.cluster cl).power with stretching := true, droopAt := s.time.toNat } } := by
  have e : exec (.droopDetect cl) s = _ :=
    (if_neg (by simp [hb, hs])).trans (if_neg fun b => h (by simpa [Cluster.mayBoost, and_assoc] using b))
  rw [e]
  exact .modCluster s cl _

/-- A cluster after a boost of n ns, of which 20 count at most (17 R348). -/
def Cluster.boosted (c : Cluster) (now n : Nat) : Cluster :=
  { c with
    duty := dutyOf (min 500 (dutyBST c.duty + min n 20)) (dutySTR c.duty)
      (c.duty.getLsbD 28 || min 500 (dutyBST c.duty + min n 20) == 500) (c.duty.getLsbD 29)
    boosts := (now, min n 20) :: c.boosts, power := ({ c.power with boosting := false, ratio := c.power.level } : Power).begin }

/-- Cycles that a stretch of n ns counts, 40 ns at most (17 R348). -/
def Power.stretchCycles (p : Power) (n : Nat) : Nat := min n 40 * clockRate p.level / 20

/-- A cluster after a stretch of n ns. -/
def Cluster.stretched (c : Cluster) (now n : Nat) : Cluster :=
  { c with
    duty := dutyOf (dutyBST c.duty) (dutySTR c.duty + c.power.stretchCycles n) (c.duty.getLsbD 28)
      (c.duty.getLsbD 29 || decide (clockRate c.power.level * 100 < dutySTR c.duty + c.power.stretchCycles n))
    stretches := (now, c.power.stretchCycles n) :: c.stretches, power := { c.power with stretching := false } }

theorem Becomes.boosted (n : Nat) (h : (s.cluster cl).power.boosting = true) :
    Becomes s cl (.next (s.droopOver cl n)) ((s.cluster cl).boosted s.time.toNat n) := by
  have e : s.droopOver cl n = _ := if_pos h
  rw [e]
  exact ⟨_, rfl, rfl, rfl, State.cluster_modCluster _ _ _⟩

theorem Becomes.stretched (n : Nat) (hb : (s.cluster cl).power.boosting = false) (hs : (s.cluster cl).power.stretching = true) :
    Becomes s cl (.next (s.droopOver cl n)) ((s.cluster cl).stretched s.time.toNat n) := by
  have e : s.droopOver cl n = _ := (if_neg (by simp [hb])).trans (if_pos hs)
  rw [e]
  dsimp only
  split
  · exact (Becomes.modCluster s cl _).logged 9 _
  · exact .modCluster s cl _

theorem State.droopOver_idle (n : Nat) (hb : (s.cluster cl).power.boosting = false) (hs : (s.cluster cl).power.stretching = false) :
    s.droopOver cl n = s :=
  (if_neg (by simp [hb])).trans (if_neg (by simp [hs]))

theorem State.droopDue_boost (hb : (s.cluster cl).power.boosting = true) (h : (s.cluster cl).power.droopAt + 20 ≤ s.time.toNat) :
    s.droopDue cl = s.droopOver cl 20 :=
  (if_pos hb).trans (if_pos h)

theorem State.droopDue_stretch (hb : (s.cluster cl).power.boosting = false) (hs : (s.cluster cl).power.stretching = true)
    (h : (s.cluster cl).power.droopAt + 40 ≤ s.time.toNat) : s.droopDue cl = s.droopOver cl 40 :=
  (if_neg (by simp [hb])).trans (if_pos (by simp [hs, h]))

/-! ### Meters and figures (17 R346, R347) -/

/-- A fold keeps the remainder in the meter. -/
theorem State.cluster_foldMeter (s : State) (cl q : Nat) :
    (s.foldMeter cl q).cluster cl = { s.cluster cl with
      meters := (s.cluster cl).meters.set 0 q ((s.cluster cl).meters.get 0 q % 10000000) } := by
  unfold State.foldMeter
  dsimp only
  split
  · exact State.cluster_modCluster s cl _
  · rw [State.cluster_modQuote, State.cluster_modCluster]

/-- A fold adds whole nJ to NRG. -/
theorem State.nrg_foldMeter (cl : Nat) (h : (s.quote q).state ≠ .free) :
    ((s.foldMeter cl q).quote q).nrg = (s.quote q).nrg + (s.cluster cl).meters.get 0 q / 10000000 := by
  unfold State.foldMeter
  dsimp only
  rw [if_neg (by simp [h]), State.quote_modQuote, State.quote_modCluster]

theorem State.mem_foldMeter (s : State) (cl q : Nat) : (s.foldMeter cl q).mem = s.mem := by
  unfold State.foldMeter
  dsimp only
  split <;> rfl

theorem exec_energyMeterFold {e : Nat} (h : (s.cluster cl).meters = [(q, e)]) (hq : (s.quote q).state ≠ .free) :
    ∃ t, exec (.energyMeterFold cl) s = .next t ∧ t.mem = s.mem ∧ (t.cluster cl).meters.get 0 q = e % 10000000
      ∧ (t.quote q).nrg = (s.quote q).nrg + e / 10000000 := by
  have run : exec (.energyMeterFold cl) s = .next ((s.foldMeter cl q).checkFigures q) :=
    congrArg Host.Outcome.next (congrArg (List.foldl (fun s e => (s.foldMeter cl e.1).checkFigures e.1) s) h)
  have get : (s.cluster cl).meters.get 0 q = e := by rw [h]; exact if_pos rfl
  obtain ⟨qs, check, nrg⟩ := (s.foldMeter cl q).checkFigures_rest q
  have cluster : ((s.foldMeter cl q).checkFigures q).cluster cl = (s.foldMeter cl q).cluster cl := by rw [check]; rfl
  refine ⟨_, run, ?_, ?_, ?_⟩
  · rw [check]; exact s.mem_foldMeter cl q
  · rw [cluster, State.cluster_foldMeter, Tab.get_set_same, get]
  · rw [nrg, State.nrg_foldMeter cl hq, get]

/-- A figure that has been passed is the first cause of a running entry, at the device's charge (16 Table 16-9). -/
theorem exec_tmaxCheck_breach {k q code : Nat} (hk : (s.launch k).qidx = q) (hr : (s.quote q).state = .running) (hc : (s.quote q).causes = [])
    (h : s.checkFigures q = s.logCause q code) :
    ∃ t, exec (.tmaxCheck k) s = .next t ∧ t.mem = s.mem ∧ (t.quote q).causes = [(code, s.time.toNat)]
      ∧ (t.quote q).brc = code ∧ (t.quote q).party = causeParty code := by
  subst hk
  refine ⟨_, congrArg Host.Outcome.next h, rfl, ?_⟩
  rw [State.quote_logCause_first hr hc]
  exact ⟨rfl, rfl, rfl⟩

/-! ### Heat (01 R24) -/

/-- A reservation's entry holds a cluster for a DL launch at a floor above a level. -/
def State.breaksFloor (s : State) (cl lvl : Nat) (e : Nat × REntry) : Bool :=
  e.1 / 4096 == dieOf cl && e.2.live && (s.quote e.2.qidx).cls == 0
    && (match e.2.share with | some h => h.cmask.getLsbD (siteOf cl) && decide (lvl < h.floor) | none => false)

/-- A cluster forced to a level. -/
def State.force (s : State) (cl lvl : Nat) : State := (s.modCluster cl fun c => { c with power := { c.power with forced := lvl } }).retarget cl

theorem exec_thermalEvent_eq (s : State) (cl lvl : Nat) :
    exec (.thermalEvent cl lvl) s = .next (if decide (lvl < s.levelFloor cl) = true then
      s.resv.foldl (fun t e => if t.breaksFloor cl lvl e = true then t.logCause e.2.qidx 8 else t) (s.force cl lvl) else s.force cl lvl) := rfl

theorem State.power_force (s : State) (cl lvl : Nat) :
    ((s.force cl lvl).cluster cl).power.forced = lvl ∧ ((s.force cl lvl).cluster cl).power.target ≤ lvl := by
  unfold State.force
  rw [State.power_retarget, State.cluster_modCluster, Power.begin_forced, Power.begin_target]
  exact ⟨rfl, Nat.min_le_left _ _⟩

theorem Charges.force (s : State) (cl lvl : Nat) : Charges s (s.force cl lvl) := rfl

theorem exec_thermalEvent (s : State) (cl lvl : Nat) :
    ∃ t, exec (.thermalEvent cl lvl) s = .next t ∧ t.mem = s.mem ∧ (t.cluster cl).power.forced = lvl ∧ (t.cluster cl).power.target ≤ lvl
      ∧ ∀ e ∈ s.resv, ∀ h, e.1 / 4096 = dieOf cl → e.2.live = true → e.2.share = some h → h.cmask.getLsbD (siteOf cl) = true → lvl < h.floor →
          (s.quote e.2.qidx).cls = 0 → (s.quote e.2.qidx).state = .running → (s.quote e.2.qidx).causes.length < 4 →
            (8, s.time.toNat) ∈ (t.quote e.2.qidx).causes := by
  refine ⟨_, exec_thermalEvent_eq s cl lvl, ?_⟩
  have power := s.power_force cl lvl
  rw [State.foldl_logCause_if (fun t e => t.breaksFloor cl lvl e) (fun e => e.2.qidx) fun t q e => by
    unfold State.breaksFloor
    rw [State.cls_logCause]]
  split
  next below =>
    obtain ⟨qs, rest⟩ := (s.force cl lvl).foldl_logCause_rest 8 ((s.resv.filter ((s.force cl lvl).breaksFloor cl lvl)).map fun e => e.2.qidx)
    refine ⟨by rw [rest]; rfl, by rw [rest]; exact power.1, by rw [rest]; exact power.2, ?_⟩
    intro e he h hd hl hs hm hf hc hr hn
    refine (State.logged_foldl (s := s.force cl lvl) 8 _ hr (.inl ⟨hn, List.mem_map.2 ⟨e, List.mem_filter.2 ⟨he, ?_⟩, rfl⟩⟩)).mem
    have cls : ((s.force cl lvl).quote e.2.qidx).cls = 0 := hc
    simp [State.breaksFloor, hd, hl, cls, hs, hm, hf]
  next above =>
    refine ⟨rfl, power.1, power.2, ?_⟩
    intro e he h hd hl hs hm hf hc
    exact absurd (hf.trans_le (State.floor_le_levelFloor he hd hl hs hm hc)) (by simpa using above)

/-! ### The power cap (01 R23) -/

/-- A cluster held at a level at most by the controller. -/
def State.hold (s : State) (cl lvl : Nat) : State := (s.modCluster cl fun c => { c with power := { c.power with ceiling := lvl } }).retarget cl

theorem Charges.hold (s : State) (cl lvl : Nat) : Charges s (s.hold cl lvl) := rfl

theorem State.cluster_hold_ne {lvl : Nat} (h : cl ≠ k) : (s.hold k lvl).cluster cl = s.cluster cl :=
  (State.cluster_retarget_ne h).trans (State.cluster_modCluster_ne s h _)

theorem State.ceiling_hold (s : State) (cl lvl : Nat) : ((s.hold cl lvl).cluster cl).power.ceiling = lvl := by
  unfold State.hold
  rw [State.power_retarget, State.cluster_modCluster, Power.begin_ceiling]

/-- A cluster held at a level is asked for no more than that and its floor. -/
theorem State.target_hold (s : State) (cl lvl : Nat) : ((s.hold cl lvl).cluster cl).power.target ≤ max (s.levelFloor cl) lvl := by
  have floor : (s.modCluster cl fun c => { c with power := { c.power with ceiling := lvl } }).levelFloor cl = s.levelFloor cl :=
    (Charges.modCluster s cl _).levelFloor cl
  unfold State.hold
  rw [State.power_retarget, State.cluster_modCluster, Power.begin_target, floor]
  exact (Nat.min_le_right _ _).trans (max_le_max_left _ (Nat.min_le_left _ _))

/-- Held clusters of a list: each has its new ceiling. -/
theorem State.ceiling_foldl_hold {lvl : Nat} (l : List Nat) (s : State) (h : cl ∈ l ∨ (s.cluster cl).power.ceiling = lvl) :
    ((l.foldl (fun s k => s.hold k lvl) s).cluster cl).power.ceiling = lvl := by
  induction l generalizing s with
  | nil => exact h.resolve_left (by simp)
  | cons k l ih =>
    refine ih _ ?_
    by_cases hk : cl = k
    · subst hk
      exact .inr (s.ceiling_hold cl lvl)
    · rw [State.cluster_hold_ne hk]
      exact h.imp_left fun m => by simpa [hk] using m

/-- The clusters of a list that are asked for the level top are held one level lower. -/
def State.lower (s : State) (top : Nat) (l : List Nat) : State :=
  l.foldl (fun s k => if (s.cluster k).power.target == top then s.hold k (top - 1) else s) s

theorem Charges.lower (s : State) (top : Nat) (l : List Nat) : Charges s (s.lower top l) := by
  refine Charges.foldl _ (fun s k => ?_) l s
  split
  · exact .hold s k _
  · exact .refl s

theorem State.cluster_lower_of_not_mem {top : Nat} {l : List Nat} (h : cl ∉ l) : (s.lower top l).cluster cl = s.cluster cl := by
  unfold State.lower
  induction l generalizing s with
  | nil => rfl
  | cons k l ih =>
    rw [List.mem_cons, not_or] at h
    obtain ⟨hk, hl⟩ := h
    rw [List.foldl_cons, ih hl]
    split
    · exact State.cluster_hold_ne hk
    · rfl

/-- A cluster of the list that is asked for the level top, above its floor, is held one level lower. -/
theorem State.power_lower {top : Nat} (l : List Nat) (s : State) (hf : s.levelFloor cl < top)
    (h : cl ∈ l ∧ (s.cluster cl).power.target = top ∨ (s.cluster cl).power.ceiling = top - 1 ∧ (s.cluster cl).power.target < top) :
    ((s.lower top l).cluster cl).power.ceiling = top - 1 ∧ ((s.lower top l).cluster cl).power.target < top := by
  unfold State.lower
  induction l generalizing s with
  | nil => exact h.resolve_left (by simp)
  | cons k l ih =>
    rw [List.foldl_cons]
    split
    next hit =>
      refine ih _ (by rwa [(Charges.hold s k _).levelFloor]) ?_
      by_cases hk : cl = k
      · subst hk
        have := s.target_hold cl (top - 1)
        exact .inr ⟨s.ceiling_hold cl _, by omega⟩
      · rw [State.cluster_hold_ne hk]
        exact h.imp_left fun ⟨m, ht⟩ => ⟨by simpa [hk] using m, ht⟩
    next miss =>
      refine ih _ hf (h.imp_left fun ⟨m, ht⟩ => ⟨?_, ht⟩)
      rcases List.mem_cons.1 m with rfl | m
      · exact absurd ht (by simpa using miss)
      · exact m

/-- Clusters that run above their floors. -/
def State.aboveFloor (s : State) : List Nat := s.clusterKeys.filter fun cl => decide (s.levelFloor cl < (s.cluster cl).power.target)

theorem State.mem_aboveFloor : cl ∈ s.aboveFloor ↔ cl ∈ s.clusterKeys ∧ s.levelFloor cl < (s.cluster cl).power.target := by
  simp [State.aboveFloor]

theorem exec_powerCapReached {draw : Nat} (h : s.cap ≤ draw) :
    exec (.powerCapReached draw) s = .next (s.lower (s.aboveFloor.foldl (fun m cl => max m (s.cluster cl).power.target) 0) s.aboveFloor) := if_pos h

theorem exec_powerCapReached_below {draw : Nat} (h : draw < s.cap) :
    exec (.powerCapReached draw) s = .next (s.clusterKeys.foldl (fun s cl => s.hold cl 2) s) := if_neg (Nat.not_le.2 h)

end

/-- Settles O52. Each event of one cluster changes that cluster alone (`Becomes`), and what it logs changes the quotation table alone. The cap's
controller works cluster by cluster: a fold keeps what it did to one (`State.power_lower`, `State.ceiling_foldl_hold`). -/
theorem powerEvents : Obligations.PowerEvents := by
  unfold Obligations.PowerEvents
  refine ⟨fun s cl ns lvl => ⟨exec_levelChangeComplete, exec_levelChangeComplete_idle, Becomes.modCluster s cl _, exec_droopDetect_busy,
      exec_droopDetect_boost, exec_droopDetect_stretch, Becomes.boosted ns, Becomes.stretched ns, ?dueBoost, ?dueStretch, ?idle,
      Becomes.modCluster s cl _, fun q e => exec_energyMeterFold, exec_thermalEvent s cl lvl⟩, fun s draw cl hcl => ⟨?lift, ?lower, ?floor⟩,
    fun s k => ⟨?time, ?energy, ?met⟩⟩
  case dueBoost => exact fun hb h => State.droopDue_boost hb h ▸ Becomes.boosted 20 hb
  case dueStretch => exact fun hb hs h => State.droopDue_stretch hb hs h ▸ Becomes.stretched 40 hb hs
  case idle => exact fun hb hs => congrArg Host.Outcome.next (State.droopOver_idle ns hb hs)
  case lift =>
    refine fun h => ⟨_, exec_powerCapReached_below h, ?_, State.ceiling_foldl_hold _ s (.inl hcl)⟩
    exact (Charges.foldl _ (fun s k => .hold s k 2) _ s).mem
  case lower =>
    intro h hf hm
    have open_ : cl ∈ s.aboveFloor := State.mem_aboveFloor.2 ⟨hcl, hf⟩
    have top := foldl_max_eq (fun k => (s.cluster k).power.target) open_ fun k hk => hm k (State.mem_aboveFloor.1 hk).1 (State.mem_aboveFloor.1 hk).2
    rw [exec_powerCapReached h, top]
    exact ⟨_, rfl, (Charges.lower s _ _).mem, State.power_lower _ s hf (.inl ⟨open_, rfl⟩)⟩
  case floor =>
    exact fun h hf => ⟨_, exec_powerCapReached h, State.cluster_lower_of_not_mem fun hk => Nat.not_lt.2 hf (State.mem_aboveFloor.1 hk).2⟩
  case time =>
    intro hr hc ht
    exact exec_tmaxCheck_breach rfl hr hc (by rw [State.checkFigures_eq, if_pos ⟨hr, hc⟩]; exact if_pos ht)
  case energy =>
    intro hr hc ht he
    refine exec_tmaxCheck_breach rfl hr hc ?_
    rw [State.checkFigures_eq, if_pos ⟨hr, hc⟩]
    exact (if_neg (Nat.not_lt.2 ht)).trans (if_pos he)
  case met =>
    intro h
    refine congrArg Host.Outcome.next ?_
    rw [State.checkFigures_eq]
    split
    next run =>
      obtain ⟨hr, hc⟩ := run
      obtain ⟨ht, he⟩ := (h.resolve_left (· hr)).resolve_left (· hc)
      exact (if_neg (Nat.not_lt.2 ht)).trans (if_neg (Nat.not_lt.2 he))
    next => rfl

end Sys2Proof.Machine
end

section
/-! Packets: what one that is over leaves, and what a packet that starts leaves. -/

namespace Sys2Proof.Machine

/-! ### Records in memory (12 R257) -/

/-- Addresses of one line are global memory together. -/
theorem isGlobal_of_line {a c : Nat} (h : a / 256 = c / 256) : isGlobal a = isGlobal c := by
  unfold isGlobal
  rw [← regionOf_line a, h, regionOf_line]

section
variable {s t u : State} {pa a : Nat} {b : Byte} {bs : List Byte}

/-- A write at SYS scope within a line brings every other byte of the line that stands to memory. -/
theorem State.Stands.memByte_sysWrite_line (h : s.Stands pa b) (o : Nat) (hg : isGlobal a = true) (hne : bs ≠ [])
    (hfirst : a / 256 = pa / 256) (hlast : (a + bs.length - 1) / 256 = pa / 256) (away : pa < a ∨ a + bs.length ≤ pa) :
    (s.sysWrite a bs o).memByte pa = b := by
  have one : (a + bs.length - 1) / 256 + 1 - a / 256 = 1 := by omega
  have after : (s.globalWrite a bs o false).Stands pa b := by
    have stands := State.Stands.globalWrite (a := a) (bs := bs) o false fun _ => h
    rwa [if_neg (by omega)] at stands
  unfold State.sysWrite
  rw [if_neg (by simp [hg, hne])]
  dsimp only
  rw [State.memByte_writeMem_ne _ _ _ _ away, one, hfirst]
  simpa using after.memByte_flushLine_home

theorem State.put_global (s : State) (hg : isGlobal a = true) (bs : List Byte) : s.put a bs = s.sysWrite a bs fwIdx :=
  if_pos (by simp [memoryAt, hg])

/-- A completion record in global memory: status word, SEQ and datum (12 Table 12-4). -/
theorem State.memByte_completion (s : State) {cpa : Nat} (seq : Word) (status datum : Nat) (hg : isGlobal cpa = true) (h0 : cpa ≠ 0)
    (ha : cpa % 16 = 0) {i : Nat} (hi : i < 16) :
    (s.completion cpa seq status datum).memByte (cpa + i) = (field 4 status ++ field 4 seq.toNat ++ field 8 datum).getD i 0 := by
  have hg4 : isGlobal (cpa + 4) = true := (isGlobal_of_line (by omega)).trans hg
  have len : (field 4 seq.toNat ++ field 8 datum).length = 12 := by simp [length_field]
  have e : s.completion cpa seq status datum = _ := if_neg (by simp [h0, ha])
  rw [e, State.put_global _ hg4, State.put_global _ hg, List.append_assoc]
  by_cases h4 : i < 4
  · rw [(State.sysWrite_written _ _ hg (by rwa [length_field])).2, List.getD_append _ _ _ _ (by rwa [length_field])]
  · obtain ⟨j, rfl⟩ := Nat.exists_eq_add_of_le (Nat.le_of_not_lt h4)
    have stands := (s.sysWrite_written (a := cpa + 4) (bs := field 4 seq.toNat ++ field 8 datum) fwIdx hg4 (i := j) (by omega)).1
    rw [List.getD_append_right _ _ _ _ (by rw [length_field]; omega), length_field, Nat.add_sub_cancel_left, ← Nat.add_assoc]
    refine stands.memByte_sysWrite_line fwIdx hg (List.ne_nil_of_length_pos (by simp [length_field])) (by omega) ?_ ?_
    · rw [length_field]; omega
    · rw [length_field]; omega

/-! ### What a write of the front end leaves -/

theorem Writes.resv (h : Writes s t) : t.resv = s.resv := by rw [h]
theorem Writes.time (h : Writes s t) : t.time = s.time := by rw [h]
theorem Writes.packet (h : Writes s t) (k : Nat) : t.packet k = s.packet k := by unfold State.packet; rw [h.packets]
theorem Writes.quote (h : Writes s t) (k : Nat) : t.quote k = s.quote k := by unfold State.quote; rw [h.quotes]

theorem Writes.put (s : State) (pa : Nat) (bs : List Byte) : Writes s (s.put pa bs) := .ite (.sysWrite s pa bs fwIdx) (.refl s)
theorem Writes.completion (s : State) (cpa : Nat) (seq : Word) (status datum : Nat) : Writes s (s.completion cpa seq status datum) :=
  .ite (.refl s) ((Writes.put s _ _).trans (.put _ _ _))
theorem Writes.advanceHead (s : State) (q len : Nat) : Writes s (s.advanceHead q len) := .put s _ _
theorem Writes.setDie (s : State) (d : Nat) (v : Die) : Writes s (s.setDie d v) := rfl
theorem Writes.signRecord (s : State) (die kind q mt me : Nat) : Writes s (s.signRecord die kind q mt me) := by
  unfold State.signRecord State.signed
  dsimp only
  split
  · exact .put _ _ _
  · exact (Writes.setDie _ _ _).trans (.put _ _ _)

/-! ### A packet that is over -/

/-- A packet is forgotten: nothing else but what a write may change is different. -/
theorem Writes.complete (s : State) (pk status datum : Nat) :
    Writes { s with packets := s.packets.set {} pk {} } (s.complete pk status datum) := by
  unfold State.complete
  dsimp only
  generalize hv : (if (s.packet pk).atHead = true then s.advanceHead (s.packet pk).queue (s.packet pk).len else s) = v
  have head : Writes s v := hv ▸ .ite (.advanceHead s _ _) (.refl s)
  have all := head.trans (.completion v (s.packet pk).cpa (s.packet pk).seq status datum)
  generalize v.completion (s.packet pk).cpa (s.packet pk).seq status datum = w at all ⊢
  unfold Writes at all ⊢
  rw [all]
  rfl

@[simp] theorem State.quotes_complete (s : State) (pk status datum : Nat) : (s.complete pk status datum).quotes = s.quotes :=
  (Writes.complete s pk status datum).quotes
@[simp] theorem State.quote_complete (s : State) (pk status datum k : Nat) : (s.complete pk status datum).quote k = s.quote k :=
  (Writes.complete s pk status datum).quote k
@[simp] theorem State.resv_complete (s : State) (pk status datum : Nat) : (s.complete pk status datum).resv = s.resv :=
  (Writes.complete s pk status datum).resv
theorem State.packet_complete (s : State) (pk status datum : Nat) : (s.complete pk status datum).packet pk = {} :=
  ((Writes.complete s pk status datum).packet pk).trans (Tab.get_set_same _ _ _ _)
theorem State.packet_complete_ne {k pk : Nat} (h : k ≠ pk) (status datum : Nat) : (s.complete pk status datum).packet k = s.packet k :=
  ((Writes.complete s pk status datum).packet k).trans (Tab.get_set_ne _ h _ _)

/-- Two states of a packet that has been taken: its type, its queue and where and as what it will be recorded. -/
structure SameRequest (p q : Packet) : Prop where
  type : q.type = p.type
  queue : q.queue = p.queue
  cpa : q.cpa = p.cpa
  seq : q.seq = p.seq

theorem SameRequest.refl (p : Packet) : SameRequest p p := ⟨rfl, rfl, rfl, rfl⟩
theorem SameRequest.trans {p q r : Packet} (h : SameRequest p q) (k : SameRequest q r) : SameRequest p r :=
  ⟨k.type.trans h.type, k.queue.trans h.queue, k.cpa.trans h.cpa, k.seq.trans h.seq⟩

/-- A packet whose work began as it stood in s has completed. -/
theorem Completed.complete {pk : Nat} (h : SameRequest (s.packet pk) (u.packet pk)) (status datum : Nat) :
    Completed s (u.complete pk status datum) pk status datum where
  gone := u.packet_complete pk status datum
  queue := by
    rw [← h.queue]
    unfold State.complete State.queue State.modQueue Tab.update
    dsimp only
    rw [Tab.get_set_same]
    simp
  record hg h0 ha i hi := by
    rw [← h.cpa] at hg h0 ha ⊢
    rw [← h.seq]
    exact State.memByte_completion _ _ status datum hg h0 ha hi

/-! ### A packet that starts -/

theorem State.packet_modPacket (s : State) (k : Nat) (f : Packet → Packet) : (s.modPacket k f).packet k = f (s.packet k) := Tab.get_set_same _ _ _ _
theorem State.packet_modPacket_ne {j k : Nat} (h : j ≠ k) (f : Packet → Packet) : (s.modPacket k f).packet j = s.packet j := Tab.get_set_ne _ h _ _

/-- From s to t only packets have changed, and no request of theirs. -/
structure SameRequests (s t : State) : Prop where
  rest : t = { s with packets := t.packets }
  packet : ∀ j, SameRequest (s.packet j) (t.packet j)

theorem SameRequests.refl (s : State) : SameRequests s s := ⟨rfl, fun _ => .refl _⟩
theorem SameRequests.trans (h : SameRequests s t) (k : SameRequests t u) : SameRequests s u where
  rest := by rw [k.rest, h.rest]
  packet j := (h.packet j).trans (k.packet j)
theorem SameRequests.modPacket (s : State) (k : Nat) (f : Packet → Packet) (hf : ∀ p, SameRequest p (f p)) :
    SameRequests s (s.modPacket k f) where
  rest := rfl
  packet j := by
    by_cases h : j = k
    · subst h
      rw [State.packet_modPacket]
      exact hf _
    · rw [State.packet_modPacket_ne h]
      exact .refl _

theorem SameRequests.dropHeld (s : State) (q : Nat) : SameRequests s (s.dropHeld q) := by
  refine foldl_keeps (SameRequests s) _ (fun t k h => ?_) _ s (.refl s)
  split
  · exact h.trans (.modPacket t k _ fun _ => by exact ⟨rfl, rfl, rfl, rfl⟩)
  · exact h
theorem SameRequests.startPacket (s : State) (pk : Nat) : SameRequests s (s.startPacket pk) :=
  (SameRequests.dropHeld s _).trans (.modPacket _ pk _ fun _ => by exact ⟨rfl, rfl, rfl, rfl⟩)

@[simp] theorem State.quotes_startPacket (s : State) (pk : Nat) : (s.startPacket pk).quotes = s.quotes := by
  rw [(SameRequests.startPacket s pk).rest]
@[simp] theorem State.time_startPacket (s : State) (pk : Nat) : (s.startPacket pk).time = s.time := by
  rw [(SameRequests.startPacket s pk).rest]
@[simp] theorem State.quote_startPacket (s : State) (pk k : Nat) : (s.startPacket pk).quote k = s.quote k := by
  unfold State.quote
  rw [State.quotes_startPacket]
@[simp] theorem State.freeQuotes_startPacket (s : State) (pk : Nat) : (s.startPacket pk).freeQuotes = s.freeQuotes := by
  unfold State.freeQuotes State.quote
  rw [State.quotes_startPacket]

variable {type pk : Nat} {opens : Packet → Bool}

theorem whenOpen_open (ht : (s.packet pk).type = type) (hturn : s.turn pk = true) (ho : opens (s.packet pk) = true)
    (k : State → Packet → State) : whenOpen type pk s opens k = .next (k (s.startPacket pk) (s.packet pk)) :=
  if_pos (by simp [ht, hturn, ho])
theorem whenTurn_turn (ht : (s.packet pk).type = type) (hturn : s.turn pk = true) (k : State → Packet → State) :
    whenTurn type pk s k = .next (k (s.startPacket pk) (s.packet pk)) := whenOpen_open ht hturn rfl k
theorem whenOpen_shut (h : opens (s.packet pk) = false) (k : State → Packet → State) : whenOpen type pk s opens k = .next s :=
  if_neg (by simp [h])
theorem whenOpen_not_turn (h : s.turn pk = false) (k : State → Packet → State) : whenOpen type pk s opens k = .next s :=
  if_neg (by simp [h])
theorem whenTurn_not_turn (h : s.turn pk = false) (k : State → Packet → State) : whenTurn type pk s k = .next s := whenOpen_not_turn h k

end
end Sys2Proof.Machine
end

section
/-! Quotations: shares granted and given back, and what each packet and each end of a validity window does to the tables (16 R320 to R332). -/

namespace Sys2Proof.Machine

section
variable {s t u : State} {k pk : Nat}

/-! ### Entries freed (16 R330) -/

/-- An entry of the quotation table is free, and it holds no share on any die. -/
structure Freed (t : State) (k : Nat) : Prop where
  quote : t.quote k = {}
  resv : ∀ d, d < 4 → t.resv.get {} (d * 4096 + k) = {}

theorem Freed.tables (h : Freed t k) : t.quote k = {} ∧ ∀ d, d < 4 → t.resv.get {} (d * 4096 + k) = {} := ⟨h.quote, h.resv⟩

theorem Freed.of_tables (h : Freed s k) (hq : t.quotes = s.quotes) (hr : t.resv = s.resv) : Freed t k where
  quote := by unfold State.quote; rw [hq]; exact h.quote
  resv d hd := by rw [hr]; exact h.resv d hd

/-- From s to t only the tables of quotations and reservations have changed, and slices, clusters and dies. -/
def TablesOnly (s t : State) : Prop :=
  t = { s with quotes := t.quotes, resv := t.resv, slices := t.slices, clusters := t.clusters, dies := t.dies }

theorem TablesOnly.refl (s : State) : TablesOnly s s := rfl
theorem TablesOnly.trans (h : TablesOnly s t) (k : TablesOnly t u) : TablesOnly s u := by unfold TablesOnly at *; rw [k, h]
theorem TablesOnly.mem (h : TablesOnly s t) : t.mem = s.mem := by rw [h]
theorem TablesOnly.time (h : TablesOnly s t) : t.time = s.time := by rw [h]
theorem TablesOnly.packets (h : TablesOnly s t) : t.packets = s.packets := by rw [h]
theorem TablesOnly.packet (h : TablesOnly s t) (j : Nat) : t.packet j = s.packet j := by unfold State.packet; rw [h.packets]
theorem Charges.tablesOnly (h : Charges s t) : TablesOnly s t := by unfold Charges at h; unfold TablesOnly; rw [h]

theorem TablesOnly.setQuote (s : State) (k : Nat) (v : QEntry) : TablesOnly s (s.setQuote k v) := rfl
theorem TablesOnly.grant (s : State) (k : Nat) (h : Share) : TablesOnly s (s.grant k h) := rfl

@[simp] theorem State.quote_setQuote (s : State) (k : Nat) (v : QEntry) : (s.setQuote k v).quote k = v := Tab.get_set_same _ _ _ _
theorem State.quote_setQuote_ne (s : State) {j k : Nat} (h : j ≠ k) (v : QEntry) : (s.setQuote k v).quote j = s.quote j := Tab.get_set_ne _ h _ _

/-- A packet that has started completes over whatever tables its work has left. -/
theorem Completed.tablesOnly (h : TablesOnly (s.startPacket pk) u) (status datum : Nat) :
    Completed s (u.complete pk status datum) pk status datum := by
  refine .complete ?_ status datum
  rw [h.packet]
  exact (SameRequests.startPacket s pk).packet pk

/-- Shares given back on every die. -/
def State.dropShares (s : State) (k : Nat) : State :=
  { s with resv := (List.range 4).foldl (fun r d => r.set {} (d * 4096 + k) {}) s.resv }

theorem TablesOnly.dropShares (s : State) (k : Nat) (xs : Tab Slice) : TablesOnly s { s.dropShares k with slices := xs } := rfl

/-- The shares of a context are gone, and nothing else but its pins and the levels of its clusters has changed. -/
theorem State.releaseShares_rest (s : State) (k : Nat) :
    ∃ xs, Charges { s.dropShares k with slices := xs } (s.releaseShares k) := by
  unfold State.releaseShares
  exact ⟨_, Charges.foldl _ (fun s cl => .retarget s cl) _ _⟩

theorem Freed.freeEntry (s : State) (k : Nat) : Freed (s.freeEntry k) k where
  quote := State.quote_setQuote _ _ _
  resv d hd := by
    obtain ⟨xs, rest⟩ := s.releaseShares_rest k
    unfold State.freeEntry
    rw [State.setQuote_resv, rest.resv]
    exact Tab.get_foldl_set_of_mem {} (· * 4096 + k) (fun a b h => by simp at h; omega) (fun _ => {}) s.resv (List.mem_range.2 hd)

theorem TablesOnly.freeEntry (s : State) (k : Nat) : TablesOnly s (s.freeEntry k) := by
  obtain ⟨xs, rest⟩ := s.releaseShares_rest k
  exact ((TablesOnly.dropShares s k xs).trans rest.tablesOnly).trans (.setQuote _ k _)

/-! ### Packets that wait for a place (16 R330) -/

/-- Packets completed one after the other leave both tables alone, and every packet that is none of them. -/
theorem State.foldl_complete_rest (status datum : Nat) (l : List Nat) (s : State) :
    (l.foldl (fun s k => s.complete k status datum) s).quotes = s.quotes
      ∧ (l.foldl (fun s k => s.complete k status datum) s).resv = s.resv
      ∧ ∀ j, j ∉ l → (l.foldl (fun s k => s.complete k status datum) s).packet j = s.packet j := by
  induction l generalizing s with
  | nil => exact ⟨rfl, rfl, fun _ _ => rfl⟩
  | cons k l ih =>
    obtain ⟨hq, hr, hp⟩ := ih (s.complete k status datum)
    refine ⟨hq.trans (s.quotes_complete k _ _), hr.trans (s.resv_complete k _ _), fun j hj => ?_⟩
    rw [List.mem_cons, not_or] at hj
    exact (hp j hj.2).trans (State.packet_complete_ne hj.1 _ _)

/-- LAUNCH packets that wait are dropped: the tables stay, and so does every packet of another type. -/
theorem State.dropWaiting_rest (s : State) (k : Nat) (taken : Bool) :
    (s.dropWaiting k taken).quotes = s.quotes ∧ (s.dropWaiting k taken).resv = s.resv
      ∧ ∀ j, (s.packet j).type ≠ 4 → (s.dropWaiting k taken).packet j = s.packet j := by
  unfold State.dropWaiting
  dsimp only
  obtain ⟨hq, hr, hp⟩ := State.foldl_complete_rest 4 notStarted _ s
  exact ⟨hq, hr, fun j hj => hp j (by simp [hj])⟩

theorem Freed.dropWaiting (h : Freed s k) (taken : Bool) : Freed (s.dropWaiting k taken) k := by
  obtain ⟨hq, hr, -⟩ := s.dropWaiting_rest k taken
  exact h.of_tables hq hr
theorem Freed.complete (h : Freed s k) (pk status datum : Nat) : Freed (s.complete pk status datum) k :=
  h.of_tables (s.quotes_complete _ _ _) (s.resv_complete _ _ _)

/-! ### QUOTE (16 R320 to R329) -/

/-- The walk of a checked request: the plan of its clusters, and what follows from it. -/
def State.walkOf (s : State) (p : Packet) (b : QuoteBody) : Option Quotation :=
  (s.planClusters (descMask (s.descriptor (s.queue p.queue))) b (flowOf (readImage (s.imageAt b.img)))).bind fun cs =>
    s.quoteWalk b (s.imageAt b.img) (flowOf (readImage (s.imageAt b.img))) cs

variable {p : Packet} {b : QuoteBody} {z : Quotation}

theorem State.quoteWork_none (h : s.walkOf p b = none) : s.quoteWork pk p b = s.complete pk 3 0x11 := by
  unfold State.walkOf at h
  unfold State.quoteWork
  dsimp only
  rw [h]

theorem State.quoteWork_not_free (h : s.walkOf p b = some z) (hf : z.shares.all s.shareFree = false) :
    s.quoteWork pk p b = s.complete pk 3 0x11 := by
  unfold State.walkOf at h
  unfold State.quoteWork
  dsimp only
  rw [h]
  simp [hf]

theorem State.quoteWork_full (h : s.walkOf p b = some z) (hf : z.shares.all s.shareFree = true) (hn : s.freeQuotes = []) :
    s.quoteWork pk p b = s.complete pk 3 0x10 := by
  unfold State.walkOf at h
  unfold State.quoteWork
  dsimp only
  rw [h]
  simp [hf, hn]

/-- A request that fits takes a free entry. -/
theorem State.quoteWork_quoted (h : s.walkOf p b = some z) (hf : z.shares.all s.shareFree = true) (hn : s.freeQuotes ≠ []) :
    ∃ k digest qslot qdie dl, k ∈ s.freeQuotes
      ∧ s.quoteWork pk p b = ((s.setQuote k (quoteEntry b z digest qslot qdie s.time.toNat dl)).signRecord p.die 1 k 0 0).complete pk 0
          (k + datumField z.tmax * 2 ^ 12 + datumField z.emax * 2 ^ 38) := by
  have pos : 0 < s.freeQuotes.length := List.length_pos_iff.2 hn
  have lt : Config.pick s.free % max 1 s.freeQuotes.length < s.freeQuotes.length := by
    rw [max_eq_right pos]
    exact Nat.mod_lt _ pos
  unfold State.walkOf at h
  unfold State.quoteWork
  dsimp only
  rw [h, List.getElem?_eq_getElem lt]
  exact ⟨_, _, _, _, _, List.getElem_mem lt, if_neg (by simp [hf])⟩

/-- Its record is signed and the packet completes: the entry stands, and every other as before. -/
theorem State.quote_quoted (s : State) (pk die k status datum : Nat) (e : QEntry) :
    let t := ((s.setQuote k e).signRecord die 1 k 0 0).complete pk status datum
    t.quote k = e ∧ ∀ j, j ≠ k → t.quote j = s.quote j := by
  intro t
  have quote : ∀ j, t.quote j = (s.setQuote k e).quote j := fun j =>
    (State.quote_complete _ _ _ _ j).trans ((Writes.signRecord _ _ _ _ _ _).quote j)
  exact ⟨(quote k).trans (State.quote_setQuote _ _ _), fun j hj => (quote j).trans (State.quote_setQuote_ne s hj _)⟩

theorem exec_quote_not_turn (h : s.turn pk = false) : exec (.quote pk) s = .next s := by
  show execQuote pk s = _
  unfold execQuote
  exact whenOpen_not_turn h _

theorem exec_quote_busy (h : ¬ s.requestBusy (quoteBody (s.packet pk).body).img (quoteBody (s.packet pk).body).comm = false) :
    exec (.quote pk) s = .next s := by
  show execQuote pk s = _
  unfold execQuote
  exact whenOpen_shut (by simpa using h) _

section
variable (ht : (s.packet pk).type = 1) (hturn : s.turn pk = true)
  (hr : s.requestBusy (quoteBody (s.packet pk).body).img (quoteBody (s.packet pk).body).comm = false)
include ht hturn hr

/-- A QUOTE whose turn it is and whose image may be read: refused early, or walked. -/
theorem exec_quote :
    exec (.quote pk) s = .next (
      if (s.startPacket pk).earlyRefusal (s.packet pk).body (quoteBody (s.packet pk).body) ≠ 0 then
        (s.startPacket pk).complete pk 3 ((s.startPacket pk).earlyRefusal (s.packet pk).body (quoteBody (s.packet pk).body))
      else (s.startPacket pk).quoteWork pk (s.packet pk) (quoteBody (s.packet pk).body)) := by
  show execQuote pk s = _
  unfold execQuote
  rw [whenOpen_open ht hturn (by simpa using hr)]
  simp

theorem exec_quote_refused (he : (s.startPacket pk).earlyRefusal (s.packet pk).body (quoteBody (s.packet pk).body) ≠ 0) :
    exec (.quote pk) s = .next ((s.startPacket pk).complete pk 3
      ((s.startPacket pk).earlyRefusal (s.packet pk).body (quoteBody (s.packet pk).body))) := by
  rw [exec_quote ht hturn hr, if_pos he]

theorem exec_quote_walked (he : (s.startPacket pk).earlyRefusal (s.packet pk).body (quoteBody (s.packet pk).body) = 0) :
    exec (.quote pk) s = .next ((s.startPacket pk).quoteWork pk (s.packet pk) (quoteBody (s.packet pk).body)) := by
  rw [exec_quote ht hturn hr, if_neg (not_not.2 he)]

end

/-! ### ACCEPT (16 R330, R331) -/

/-- Shares granted one after the other. -/
def State.grantAll (s : State) (k : Nat) (l : List Share) : State := l.foldl (fun s h => s.grant k h) s

theorem TablesOnly.grantAll (s : State) (k : Nat) (l : List Share) : TablesOnly s (s.grantAll k l) :=
  foldl_keeps (TablesOnly s) _ (fun t h hs => hs.trans (.grant t k h)) l s (.refl s)

theorem State.quotes_grantAll (s : State) (k : Nat) (l : List Share) : (s.grantAll k l).quotes = s.quotes :=
  foldl_keeps (fun t : State => t.quotes = s.quotes) (fun s h => s.grant k h) (fun _ _ h => h) l s rfl

/-- Shares on other dies leave a share alone. -/
theorem State.resv_grantAll_ne {d : Nat} (l : List Share) (s : State) (h : ∀ x ∈ l, x.die ≠ d) :
    (s.grantAll k l).resv.get {} (d * 4096 + k) = s.resv.get {} (d * 4096 + k) := by
  unfold State.grantAll
  induction l generalizing s with
  | nil => rfl
  | cons x l ih =>
    have hx := h x (by simp)
    rw [List.foldl_cons, ih _ fun y hy => h y (by simp [hy])]
    exact Tab.get_set_ne _ (by omega) _ _

/-- Every share of a plan with one share for a die stands once all have been granted. -/
theorem State.resv_grantAll {h : Share} (l : List Share) (s : State) (hd : (l.map Share.die).Nodup) (hm : h ∈ l) :
    ((s.grantAll k l).resv.get {} (h.die * 4096 + k)).live = true ∧ ((s.grantAll k l).resv.get {} (h.die * 4096 + k)).share = some h := by
  induction l generalizing s with
  | nil => simp at hm
  | cons x l ih =>
    rw [List.map_cons, List.nodup_cons] at hd
    obtain ⟨hx, hl⟩ := hd
    rcases List.mem_cons.1 hm with rfl | hm
    · have later : ((s.grantAll k (h :: l)).resv.get {} (h.die * 4096 + k)) = (s.grant k h).resv.get {} (h.die * 4096 + k) :=
        State.resv_grantAll_ne l (s.grant k h) fun y hy e => hx (List.mem_map.2 ⟨y, hy, e⟩)
      rw [later]
      unfold State.grant
      rw [Tab.get_set_same]
      exact ⟨rfl, rfl⟩
    · exact ih (s.grant k x) hl hm

/-- The share of every die granted, and the entry ACCEPTED. -/
def State.acceptShares (s : State) (k : Nat) : State :=
  (s.grantAll k (s.quote k).plan).modQuote k fun q =>
    { q with state := .accepted, vdl := (s.grantAll k (s.quote k).plan).time.toNat + validity q.val }

/-- An entry accepted, with the levels of its clusters asked for anew. -/
def State.acceptEntry (s : State) (k : Nat) : State := ((s.acceptShares k).reserved k).foldl State.retarget (s.acceptShares k)

theorem Charges.acceptEntry (s : State) (k : Nat) : Charges (s.acceptShares k) (s.acceptEntry k) :=
  Charges.foldl _ (fun s cl => .retarget s cl) _ _

theorem State.quote_acceptEntry (s : State) (k : Nat) :
    (s.acceptEntry k).quote k = { s.quote k with state := .accepted, vdl := s.time.toNat + validity (s.quote k).val } := by
  have same : (s.grantAll k (s.quote k).plan).quote k = s.quote k := by unfold State.quote; rw [State.quotes_grantAll]
  rw [(Charges.acceptEntry s k).quote, State.acceptShares, State.quote_modQuote, same, (TablesOnly.grantAll s k _).time]

theorem State.resv_acceptEntry (s : State) (k : Nat) : (s.acceptEntry k).resv = (s.grantAll k (s.quote k).plan).resv :=
  (Charges.acceptEntry s k).resv

theorem TablesOnly.acceptEntry (s : State) (k : Nat) : TablesOnly s (s.acceptEntry k) :=
  ((TablesOnly.grantAll s k _).trans (.setQuote _ k _)).trans (Charges.acceptEntry s k).tablesOnly

section
variable (ht : (s.packet pk).type = 2) (hturn : s.turn pk = true) (hk : (s.packet pk).num 0 2 = k)
include ht hturn hk

/-- An ACCEPT whose turn it is. -/
theorem exec_accept :
    exec (.accept pk) s = .next (
      if (s.quote k).state ≠ .quoted then (s.startPacket pk).complete pk 4 1
      else if (s.quote k).vdl ≤ s.time.toNat then ((s.startPacket pk).freeEntry k).complete pk 4 1
      else if (s.startPacket pk).acceptFails (s.quote k) = true then (s.startPacket pk).complete pk 4 0
      else ((s.startPacket pk).acceptEntry k).complete pk 0 0) := by
  subst hk
  show execAccept pk s = _
  unfold execAccept
  rw [whenTurn_turn ht hturn]
  simp only [State.quote_startPacket, State.lapsed, State.time_startPacket, bne_iff_ne, decide_eq_true_eq]
  unfold State.acceptEntry State.acceptShares State.grantAll
  rw [State.quote_startPacket]

theorem exec_accept_not_quoted (hq : (s.quote k).state ≠ .quoted) : exec (.accept pk) s = .next ((s.startPacket pk).complete pk 4 1) := by
  rw [exec_accept ht hturn hk, if_pos hq]

theorem exec_accept_lapsed (hq : (s.quote k).state = .quoted) (hv : (s.quote k).vdl ≤ s.time.toNat) :
    exec (.accept pk) s = .next (((s.startPacket pk).freeEntry k).complete pk 4 1) := by
  rw [exec_accept ht hturn hk, if_neg (not_not.2 hq), if_pos hv]

theorem exec_accept_fails (hq : (s.quote k).state = .quoted) (hv : s.time.toNat < (s.quote k).vdl)
    (hf : (s.startPacket pk).acceptFails (s.quote k) = true) : exec (.accept pk) s = .next ((s.startPacket pk).complete pk 4 0) := by
  rw [exec_accept ht hturn hk, if_neg (not_not.2 hq), if_neg (Nat.not_le.2 hv), if_pos hf]

theorem exec_accept_accepted (hq : (s.quote k).state = .quoted) (hv : s.time.toNat < (s.quote k).vdl)
    (hf : (s.startPacket pk).acceptFails (s.quote k) = false) :
    exec (.accept pk) s = .next (((s.startPacket pk).acceptEntry k).complete pk 0 0) := by
  rw [exec_accept ht hturn hk, if_neg (not_not.2 hq), if_neg (Nat.not_le.2 hv), if_neg (Bool.eq_false_iff.1 hf)]

end

theorem exec_accept_not_turn (h : s.turn pk = false) : exec (.accept pk) s = .next s := by
  show execAccept pk s = _
  unfold execAccept
  exact whenTurn_not_turn h _

/-! ### DECLINE and the ends of validity (01 R20, 16 R330) -/

section
variable (ht : (s.packet pk).type = 3) (hturn : s.turn pk = true) (hk : (s.packet pk).num 0 2 = k)
include ht hturn hk

/-- A DECLINE whose turn it is. -/
theorem exec_decline :
    exec (.decline pk) s = .next (
      if (s.quote k).state = .quoted ∨ (s.quote k).state = .accepted then
        (((s.startPacket pk).freeEntry k).dropWaiting k true).complete pk 0 0
      else (s.startPacket pk).complete pk 4 1) := by
  subst hk
  show execDecline pk s = _
  unfold execDecline
  rw [whenTurn_turn ht hturn]
  simp only [State.quote_startPacket, Bool.or_eq_true, beq_iff_eq]

theorem exec_decline_freed (hq : (s.quote k).state = .quoted ∨ (s.quote k).state = .accepted) :
    exec (.decline pk) s = .next ((((s.startPacket pk).freeEntry k).dropWaiting k true).complete pk 0 0) := by
  rw [exec_decline ht hturn hk, if_pos hq]

theorem exec_decline_neither (hq : (s.quote k).state ≠ .quoted) (ha : (s.quote k).state ≠ .accepted) :
    exec (.decline pk) s = .next ((s.startPacket pk).complete pk 4 1) := by
  rw [exec_decline ht hturn hk, if_neg (not_or.2 ⟨hq, ha⟩)]

end

theorem exec_decline_not_turn (h : s.turn pk = false) : exec (.decline pk) s = .next s := by
  show execDecline pk s = _
  unfold execDecline
  exact whenTurn_not_turn h _

/-- A packet that frees an entry completes, unless it is itself a LAUNCH. -/
theorem SameRequest.freeEntry_dropWaiting (s : State) (k : Nat) (taken : Bool) (h : (s.packet pk).type ≠ 4) :
    SameRequest (s.packet pk) (((s.startPacket pk).freeEntry k).dropWaiting k taken |>.packet pk) := by
  have start := (SameRequests.startPacket s pk).packet pk
  obtain ⟨-, -, drop⟩ := ((s.startPacket pk).freeEntry k).dropWaiting_rest k taken
  have free := (TablesOnly.freeEntry (s.startPacket pk) k).packet pk
  rw [drop pk (by rwa [free, start.type]), free]
  exact start

/-- An end of validity is not due. -/
theorem validity_not_due {st : QState} (h : (s.quote k).state ≠ st ∨ s.time.toNat < (s.quote k).vdl) :
    ¬ ((s.quote k).state == st && decide ((s.quote k).vdl ≤ s.time.toNat)) = true := by
  rw [Bool.and_eq_true, beq_iff_eq, decide_eq_true_eq]
  exact fun ⟨hs, hv⟩ => h.elim (· hs) (Nat.not_lt.2 hv)

theorem exec_quotationExpiry (h : (s.quote k).state = .quoted) (hv : (s.quote k).vdl ≤ s.time.toNat) :
    exec (.quotationExpiry k) s = .next (s.freeEntry k) := if_pos (by simp [h, hv])
theorem exec_quotationExpiry_idle (h : (s.quote k).state ≠ .quoted ∨ s.time.toNat < (s.quote k).vdl) :
    exec (.quotationExpiry k) s = .next s := if_neg (validity_not_due h)
theorem exec_acceptedValidityExpiry (h : (s.quote k).state = .accepted) (hv : (s.quote k).vdl ≤ s.time.toNat) :
    exec (.acceptedValidityExpiry k) s = .next ((s.freeEntry k).dropWaiting k false) := if_pos (by simp [h, hv])
theorem exec_acceptedValidityExpiry_idle (h : (s.quote k).state ≠ .accepted ∨ s.time.toNat < (s.quote k).vdl) :
    exec (.acceptedValidityExpiry k) s = .next s := if_neg (validity_not_due h)

/-! ### LAUNCH (12 R254, 16 R330, 18 R356) -/

section
variable (ht : (s.packet pk).type = 4) (hturn : s.turn pk = true) (hk : (s.packet pk).num 0 2 = k)
include ht hturn hk

/-- A LAUNCH whose turn it is. -/
theorem exec_launchPacket :
    exec (.launchPacket pk) s = .next (
      if (s.quote k).state ≠ .accepted ∨ (s.quote k).vdl ≤ s.time.toNat then s.complete pk 4 notStarted
      else if launchBad (s.quote k) (s.packet pk) = true then s.complete pk 1 0
      else if (s.launches.any fun e => e.2.live && e.2.qidx == k) = true then s
      else if s.requestBusy (s.quote k).img (s.quote k).comm = true then s
      else (s.modPacket pk fun p => { p with placing := true }).setLaunch s.launches.fresh
        (launchOf s pk k (s.packet pk) (s.quote k) (readImage (s.imageAt (s.quote k).img)))) := by
  subst hk
  show execLaunchPacket pk s = _
  unfold execLaunchPacket
  simp only [ht, hturn, bne_self_eq_false, Bool.not_true, Bool.or_self, Bool.false_eq_true, if_false, Bool.or_eq_true, bne_iff_ne,
    decide_eq_true_eq]
  repeat' split
  all_goals rfl

theorem exec_launchPacket_stale (h : (s.quote k).state ≠ .accepted ∨ (s.quote k).vdl ≤ s.time.toNat) :
    exec (.launchPacket pk) s = .next (s.complete pk 4 notStarted) := by
  rw [exec_launchPacket ht hturn hk, if_pos h]

theorem exec_launchPacket_bad (hq : (s.quote k).state = .accepted) (hv : s.time.toNat < (s.quote k).vdl)
    (hb : launchBad (s.quote k) (s.packet pk) = true) : exec (.launchPacket pk) s = .next (s.complete pk 1 0) := by
  rw [exec_launchPacket ht hturn hk, if_neg (not_or.2 ⟨not_not.2 hq, Nat.not_le.2 hv⟩), if_pos hb]

/-- A LAUNCH that its entry permits asks for a place. -/
theorem exec_launchPacket_placing (hq : (s.quote k).state = .accepted) (hv : s.time.toNat < (s.quote k).vdl)
    (hb : launchBad (s.quote k) (s.packet pk) = false) (hl : ∀ e ∈ s.launches, e.2.live = true → e.2.qidx ≠ k)
    (hr : s.requestBusy (s.quote k).img (s.quote k).comm = false) :
    exec (.launchPacket pk) s = .next ((s.modPacket pk fun p => { p with placing := true }).setLaunch s.launches.fresh
      (launchOf s pk k (s.packet pk) (s.quote k) (readImage (s.imageAt (s.quote k).img)))) := by
  rw [exec_launchPacket ht hturn hk, if_neg (not_or.2 ⟨not_not.2 hq, Nat.not_le.2 hv⟩), if_neg (Bool.eq_false_iff.1 hb),
    if_neg (by simpa using hl), if_neg (Bool.eq_false_iff.1 hr)]

end

theorem exec_launchPacket_not_turn (h : s.turn pk = false) : exec (.launchPacket pk) s = .next s := if_pos (by simp [h])

theorem State.launch_setLaunch (s : State) (k : Nat) (v : Launch) : (s.setLaunch k v).launch k = v := Tab.get_set_same _ _ _ _

@[simp] theorem State.packet_setLaunch (s : State) (k : Nat) (v : Launch) (j : Nat) : (s.setLaunch k v).packet j = s.packet j := rfl

/-- No launch stands at a fresh key. -/
theorem State.launch_fresh (s : State) : s.launch s.launches.fresh = {} := Tab.get_fresh _ _

/-! ### Revocation (16 R332, Table 16-9) -/

/-- A cause later than those logged goes behind them. -/
theorem insertCause_last {c : Nat × Nat} {cs : List (Nat × Nat)} (h : ∀ a ∈ cs, a.2 < c.2) : insertCause c cs = cs ++ [c] := by
  have e := insertCause_append (c := c) (p := cs) (fun a ha hc => Nat.ne_of_gt (h a ha) hc.1) []
  rwa [List.append_nil] at e

/-- A cause later than those logged, of which there are fewer than four. -/
theorem State.causes_logCause_last {code : Nat} (hr : (s.quote k).state = .running) (hn : (s.quote k).causes.length < 4)
    (h : ∀ c ∈ (s.quote k).causes, c.2 < s.time.toNat) :
    ((s.logCause k code).quote k).causes = (s.quote k).causes ++ [(code, s.time.toNat)] := by
  rw [(s.quote_logCause k code hr).2, insertCause_last h]
  exact List.take_of_length_le (by rw [List.length_append]; exact hn)

/-- A share of which everything but its clusters has been revoked. -/
def Share.revoked (h : Share) : Share := { h with ways := 0, pinq := 0, mon := 0, slices := 0, tlbe := 0 }

/-- An entry's reservation on a die revoked, with the slices as they are then. -/
def State.revoke (s : State) (die k : Nat) (xs : Tab Slice) : State :=
  let r := s.resv.get {} (die * 4096 + k)
  { s with resv := s.resv.set {} (die * 4096 + k) { r with share := r.share.map Share.revoked, wayMask := 0 }, slices := xs }

theorem State.resv_revoke (s : State) (die k : Nat) (xs : Tab Slice) :
    (s.revoke die k xs).resv.get {} (die * 4096 + k) = { s.resv.get {} (die * 4096 + k) with
      share := (s.resv.get {} (die * 4096 + k)).share.map Share.revoked, wayMask := 0 } := Tab.get_set_same _ _ _ _

theorem State.resv_logCause (s : State) (k code : Nat) : (s.logCause k code).resv = s.resv := rfl

/-- A revocation is cause 0x05 of the entry. -/
theorem exec_reservationRevoked {die : Nat} (h : (s.resv.get {} (die * 4096 + k)).live = true) :
    ∃ xs, exec (.reservationRevoked die k) s = .next ((s.revoke die k xs).logCause k 5) := ⟨_, if_neg (by simp [h])⟩

theorem exec_reservationRevoked_idle {die : Nat} (h : (s.resv.get {} (die * 4096 + k)).live = false) :
    exec (.reservationRevoked die k) s = .next s := if_pos (by simp [h])

end

/-- Settles O49. Packets complete over whatever tables their work has left (`Completed.tablesOnly`); a free entry and the shares given back stay
so through what follows (`Freed`); the shares of a plan stand at keys of their own (`State.resv_grantAll`). -/
theorem quotationEvents : Obligations.QuotationEvents := by
  unfold Obligations.QuotationEvents
  intro s pk qi die p n q x now ends u b f walk reads asks freed
  have completes : ∀ status datum, Completed s (u.complete pk status datum) pk status datum := Completed.tablesOnly (.refl u)
  have walked : asks → exec (.quote pk) s = .next (u.quoteWork pk p b) := fun ⟨ht, hturn, hr, he⟩ => exec_quote_walked ht hturn hr he
  have free : u.freeQuotes = s.freeQuotes := s.freeQuotes_startPacket pk
  refine ⟨exec_quote_busy, fun ht hturn hr he => ⟨_, exec_quote_refused ht hturn hr he, completes 3 _⟩, ?noPlan, ?noShare, ?tableFull, ?quoted,
    fun ht hturn hq => ⟨_, exec_accept_not_quoted ht hturn rfl hq, completes 4 1⟩, ?lapsed,
    fun ht hturn hq hv hf => ⟨_, exec_accept_fails ht hturn rfl hq hv hf, completes 4 0⟩, ?accepted, ?declined,
    fun ht hturn hq ha => ⟨_, exec_decline_neither ht hturn rfl hq ha, completes 4 1⟩,
    fun h hv => ⟨_, exec_quotationExpiry h hv, (TablesOnly.freeEntry s qi).mem, (Freed.freeEntry s qi).tables⟩, exec_quotationExpiry_idle,
    fun h hv => ⟨_, exec_acceptedValidityExpiry h hv, ((Freed.freeEntry s qi).dropWaiting false).tables⟩, exec_acceptedValidityExpiry_idle,
    fun ht hturn h => ⟨_, exec_launchPacket_stale ht hturn rfl h, .complete (.refl _) 4 5⟩,
    fun ht hturn hq hv hb => ⟨_, exec_launchPacket_bad ht hturn rfl hq hv hb, .complete (.refl _) 1 0⟩, ?placing,
    fun h => ⟨exec_quote_not_turn h, exec_accept_not_turn h, exec_decline_not_turn h, exec_launchPacket_not_turn h⟩, ?revoked,
    exec_reservationRevoked_idle⟩
  case noPlan => exact fun ha hw => ⟨_, by rw [walked ha, State.quoteWork_none hw], completes 3 _⟩
  case noShare => exact fun z ha hw hf => ⟨_, by rw [walked ha, State.quoteWork_not_free hw hf], completes 3 _⟩
  case tableFull => exact fun z ha hw hf hn => ⟨_, by rw [walked ha, State.quoteWork_full hw hf (free.trans hn)], completes 3 _⟩
  case quoted =>
    intro z ha hw hf hn
    obtain ⟨k, digest, qslot, qdie, dl, hk, work⟩ := State.quoteWork_quoted (pk := pk) hw hf fun e => hn (free.symm.trans e)
    obtain ⟨entry, others⟩ := u.quote_quoted pk p.die k 0 (k + datumField z.tmax * 2 ^ 12 + datumField z.emax * 2 ^ 38)
      (quoteEntry b z digest qslot qdie u.time.toNat dl)
    have vdl : u.time.toNat + validity b.val = now + validity b.val := by rw [State.time_startPacket]
    refine ⟨_, k, by rw [walked ha, work], by rwa [free] at hk, .complete ?_ 0 _, ?_⟩
    · rw [(Writes.signRecord _ _ _ _ _ _).packet]
      exact (SameRequests.startPacket s pk).packet pk
    · rw [entry]
      exact ⟨rfl, rfl, rfl, rfl, vdl, fun j hj => (others j hj).trans (s.quote_startPacket pk j)⟩
  case lapsed =>
    exact fun ht hturn hq hv => ⟨_, exec_accept_lapsed ht hturn rfl hq hv, .tablesOnly (.freeEntry u n) 4 1,
      ((Freed.freeEntry u n).complete pk 4 1).tables⟩
  case accepted =>
    refine fun ht hturn hq hv hf => ⟨_, exec_accept_accepted ht hturn rfl hq hv hf, .tablesOnly (.acceptEntry u n) 0 0, ?_, fun hd h hm => ?_⟩
    · rw [State.quote_complete, State.quote_acceptEntry, State.quote_startPacket, State.time_startPacket]
    · rw [State.resv_complete, State.resv_acceptEntry, State.quote_startPacket]
      exact State.resv_grantAll _ _ hd hm
  case declined =>
    refine fun ht hturn hq => ⟨_, exec_decline_freed ht hturn rfl hq, .complete (.freeEntry_dropWaiting s n true ?_) 0 0,
      (((Freed.freeEntry u n).dropWaiting true).complete pk 0 0).tables⟩
    rw [ht]
    decide
  case placing =>
    refine fun ht hturn hq hv hb hl hr => ⟨_, s.launches.fresh, exec_launchPacket_placing ht hturn rfl hq hv hb hl hr, rfl, ?_,
      by rw [State.launch_fresh], ?_⟩
    · rw [State.packet_setLaunch, State.packet_modPacket]
    · rw [State.launch_setLaunch]
      exact ⟨rfl, rfl, rfl, rfl, rfl, rfl⟩
  case revoked =>
    intro h hlive hshare
    obtain ⟨xs, run⟩ := exec_reservationRevoked hlive
    refine ⟨_, run, ?_, ?_, State.causes_logCause_last (s := s.revoke die qi xs), fun hr hc => ?_⟩
    · rw [State.resv_logCause, State.resv_revoke]
    · rw [State.resv_logCause, State.resv_revoke, hshare]
      rfl
    · rw [State.quote_logCause_first (s := s.revoke die qi xs) hr hc]
      exact ⟨rfl, rfl⟩

end Sys2Proof.Machine
end

section
/-! The encoding both ways: every word of an instruction reads back as it, and a word that reads as an instruction is its encoding (03 R35, R36,
R60). -/

namespace Sys2Proof.Laws.Encoding

/-- The laws of all instructions in one: every word that the encoder gives reads back as its instruction. -/
theorem statement (i : Instr) : Statement i := by
  cases i with
  | nop => exact nop
  | bra disp => exact bra disp
  | bany p disp => exact bany p disp
  | ball p disp => exact ball p disp
  | bnone p disp => exact bnone p disp
  | bdiv p jb disp => exact bdiv p jb disp
  | join bound => exact join bound
  | call disp => exact call disp
  | ret => exact ret
  | loop g disp => exact loop g disp
  | jmpf slot seg blk => exact jmpf slot seg blk
  | cfetch slot a => exact cfetch slot a
  | trap code => exact trap code
  | exit => exact exit
  | eret => exact eret
  | mov w d a => exact mov w d a
  | movi w d imm => exact movi w d imm
  | movhi w d imm => exact movhi w d imm
  | iadd w d a b => exact iadd w d a b
  | iaddi w d a imm => exact iaddi w d a imm
  | isub w d a b => exact isub w d a b
  | imul w d a b => exact imul w d a b
  | imulh w d a b => exact imulh w d a b
  | imulhu w d a b => exact imulhu w d a b
  | imad w d a b => exact imad w d a b
  | iadd64 w d a b => exact iadd64 w d a b
  | lea w d a b => exact lea w d a b
  | and w d a b => exact and w d a b
  | or w d a b => exact or w d a b
  | xor w d a b => exact xor w d a b
  | andn w d a b => exact andn w d a b
  | shl w d a b => exact shl w d a b
  | shr w d a b => exact shr w d a b
  | sar w d a b => exact sar w d a b
  | shli w d a imm => exact shli w d a imm
  | shri w d a imm => exact shri w d a imm
  | sari w d a imm => exact sari w d a imm
  | imin w d a b => exact imin w d a b
  | imax w d a b => exact imax w d a b
  | umin w d a b => exact umin w d a b
  | umax w d a b => exact umax w d a b
  | iabs w d a => exact iabs w d a
  | bfe w d a b => exact bfe w d a b
  | fadd w d a b => exact fadd w d a b
  | fsub w d a b => exact fsub w d a b
  | fmul w d a b => exact fmul w d a b
  | ffma w d a b => exact ffma w d a b
  | fmin w d a b => exact fmin w d a b
  | fmax w d a b => exact fmax w d a b
  | hadd2 w d a b => exact hadd2 w d a b
  | hmul2 w d a b => exact hmul2 w d a b
  | hfma2 w d a b => exact hfma2 w d a b
  | badd2 w d a b => exact badd2 w d a b
  | bmul2 w d a b => exact bmul2 w d a b
  | bfma2 w d a b => exact bfma2 w d a b
  | frcp w d a => exact frcp w d a
  | frsq w d a => exact frsq w d a
  | fexp2 w d a => exact fexp2 w d a
  | flog2 w d a => exact flog2 w d a
  | cvt w d a imm => exact cvt w d a imm
  | fscale w d a b => exact fscale w d a b
  | qscale w d a b => exact qscale w d a b
  | frnd w d a imm => exact frnd w d a imm
  | icmp cond p a b => exact icmp cond p a b
  | ucmp cond p a b => exact ucmp cond p a b
  | fcmp cond p a b => exact fcmp cond p a b
  | plop f p a b => exact plop f p a b
  | sel w d a b => exact sel w d a b
  | vote w d a mode => exact vote w d a mode
  | mset a mode => exact mset a mode
  | pmovGet d => exact pmovGet d
  | pmovPut a => exact pmovPut a
  | dot8w w d a b => exact dot8w w d a b
  | dot8i w d a b => exact dot8i w d a b
  | dot4w w d a b => exact dot4w w d a b
  | dot4i w d a b => exact dot4i w d a b
  | shfl w d a b => exact shfl w d a b
  | shflx w d a imm => exact shflx w d a imm
  | qxch w d a imm => exact qxch w d a imm
  | lred w d a imm => exact lred w d a imm
  | split d f => exact split d f
  | fuse d => exact fuse d
  | region idx => exact region idx
  | rdid w d sl => exact rdid w d sl
  | mrd w d a b => exact mrd w d a b
  | strd w d => exact strd w d
  | gmov w d a => exact gmov w d a
  | gmovi w d imm => exact gmovi w d imm
  | gmovhi w d imm => exact gmovhi w d imm
  | gadd w d a b => exact gadd w d a b
  | gaddi w d a imm => exact gaddi w d a imm
  | gsub w d a b => exact gsub w d a b
  | gmul w d a b => exact gmul w d a b
  | gand w d a b => exact gand w d a b
  | gor w d a b => exact gor w d a b
  | gxor w d a b => exact gxor w d a b
  | gshift w d a b => exact gshift w d a b
  | gcmp cond p a b => exact gcmp cond p a b
  | gminmax w d a b => exact gminmax w d a b
  | gadd64 w d a b => exact gadd64 w d a b
  | gbcast w d a b => exact gbcast w d a b
  | vbcast w d a => exact vbcast w d a
  | ldg sz d a off => exact ldg sz d a off
  | stg sz d a off => exact stg sz d a off
  | lds sz d a off => exact lds sz d a off
  | sts sz d a off => exact sts sz d a off
  | ldv sz d a off => exact ldv sz d a off
  | stv sz d a off => exact stv sz d a off
  | atomg aop sz d a off => exact atomg aop sz d a off
  | atoms aop sz d a off => exact atoms aop sz d a off
  | atomv aop sz d a off => exact atomv aop sz d a off
  | txb d n => exact txb d n
  | txe d => exact txe d
  | txa code => exact txa code
  | fence scope kind paths => exact fence scope kind paths
  | tfence scope => exact tfence scope
  | waitu cmp sp sz d a => exact waitu cmp sp sz d a
  | waitc path a => exact waitc path a
  | mma g a an tb => exact mma g a an tb
  | copy g wup win dsp ssp => exact copy g wup win dsp ssp
  | gather g a sx esz vault scat => exact gather g a sx esz vault scat
  | coll g n => exact coll g n
  | launch g => exact launch g
  | msend g n => exact msend g n
  | popc w d a => exact popc w d a
  | clz w d a => exact clz w d a
  | brev w d a => exact brev w d a
  | bfi w d a => exact bfi w d a
  | yield => exact yield
  | setpl d a => exact setpl d a
  | rdclk d => exact rdclk d
  | rdsync d => exact rdsync d
  | rdprog d => exact rdprog d
  | rdnrg d => exact rdnrg d
  | ckpt d => exact ckpt d
  | view v a => exact view v a
  | sfmt k a => exact sfmt k a
  | gang d a => exact gang d a
  | pin d a => exact pin d a
  | unpin d a => exact unpin d a
  | msr n a => exact msr n a
  | mrs d a => exact mrs d a
  | bari a => exact bari a
  | bara d a => exact bara d a
  | barx a => exact barx a
  | barw d a => exact barw d a
  | stagea d a => exact stagea d a
  | stager a => exact stager a
  | ringadv k a => exact ringadv k a
  | lqrd d => exact lqrd d
  | l1wb a => exact l1wb a
  | l1inv a => exact l1inv a
  | _ => exact no_word rfl

/-! ### What a word reads as rebuilds it -/

theorem toNat_fld (k n lo : Nat) : (fld k n lo).toNat = n / 2 ^ lo % 2 ^ k := BitVec.toNat_ofNat ..

theorem toNat_bit (n lo : Nat) : (bit n lo).toNat = n / 2 ^ lo % 2 := by
  unfold bit
  obtain h | h : n / 2 ^ lo % 2 = 0 ∨ n / 2 ^ lo % 2 = 1 := by omega
  · rw [h]; rfl
  · rw [h]; rfl

/-- What the decoder answers for the number n, if it is an instruction, has n's low 31 bits for its word. -/
def Rebuilds (n : Nat) (r : Except WordError Instr) : Prop := ∀ i, r = .ok i → encodeBits i = some (n % 2 ^ 31)

theorem rebuilds_error (n : Nat) (e : WordError) : Rebuilds n (.error e) := by
  intro i h; cases h

theorem rebuilds_ok {n k : Nat} {i : Instr} (bits : encodeBits i = some k) (h : k = n % 2 ^ 31) : Rebuilds n (.ok i) := by
  intro j e; cases e; rw [bits, h]

theorem rebuilds_zero {n k : Nat} {c : Bool} {i : Instr} (bits : encodeBits i = some k) (h : c = true → k = n % 2 ^ 31) :
    Rebuilds n (zero c i) := by
  cases hc : c with
  | true => exact rebuilds_ok bits (h hc)
  | false => exact rebuilds_error n _

/-! The formats: the fields of a word, each put back in its place, make up its bits. -/

section
variable (k n : Nat)

/-- W, D, A, B. -/
theorem put_w_d_a_b : k + put (bit n 23).toNat 23 + put (fld 7 n 16).toNat 16 + put (fld 8 n 8).toNat 8 + put (fld 8 n 0).toNat 0
    = k + n % 2 ^ 24 := by
  simp only [put, toNat_fld, toNat_bit]; omega

/-- W, D, IMM16. -/
theorem put_w_d_imm : k + put (bit n 23).toNat 23 + put (fld 7 n 16).toNat 16 + put (fld 16 n 0).toNat 0 = k + n % 2 ^ 24 := by
  simp only [put, toNat_fld, toNat_bit]; omega

/-- Format M. -/
theorem put_access : k + put (fld 2 n 22).toNat 22 + put (fld 7 n 15).toNat 15 + put (fld 7 n 8).toNat 8 + put (fld 8 n 0).toNat 0
    = k + n % 2 ^ 24 := by
  simp only [put, toNat_fld]; omega

/-- Format A. -/
theorem put_atomic : k + put (fld 4 n 20).toNat 20 + put (bit n 19).toNat 19 + put (fld 7 n 12).toNat 12 + put (fld 7 n 5).toNat 5
    + put (fld 5 n 0).toNat 0 = k + n % 2 ^ 24 := by
  simp only [put, toNat_fld, toNat_bit]; omega
end

/-- The opcode is bits [30:24] (R35). -/
theorem mod_eq_opcode {op n : Nat} (h : n / 2 ^ 24 % 128 = op) : n % 2 ^ 31 = op * 16777216 + n % 2 ^ 24 := by omega

section
variable {n op k : Nat} (h : n / 2 ^ 24 % 128 = op) (hk : op * 16777216 = k)
include h hk

/-- W, D, A. -/
theorem put_w_d_a (z : (n % 256 == 0) = true) :
    k + put (bit n 23).toNat 23 + put (fld 7 n 16).toNat 16 + put (fld 8 n 8).toNat 8 = n % 2 ^ 31 := by
  simp only [put, toNat_fld, toNat_bit]; rw [beq_iff_eq] at z; omega

/-- IMM16 alone. -/
theorem put_imm (z : (n / 2 ^ 16 % 256 == 0) = true) : k + put (fld 16 n 0).toNat 0 = n % 2 ^ 31 := by
  simp only [put, toNat_fld]; rw [beq_iff_eq] at z; omega

/-- COND, P, A, B. -/
theorem put_cond_p_a_b (z : (n / 2 ^ 23 % 2 == 0) = true) :
    k + put (fld 4 n 19).toNat 19 + put (fld 3 n 16).toNat 16 + put (fld 8 n 8).toNat 8 + put (fld 8 n 0).toNat 0 = n % 2 ^ 31 := by
  simp only [put, toNat_fld]; rw [beq_iff_eq] at z; omega
end

section
variable {n op sec k : Nat} (h : n / 2 ^ 24 % 128 = op) (hs : n % 256 = sec) (hk : op * 16777216 + sec = k)
include h hs hk

/-- W, D, A and the secondary opcode. -/
theorem put_w_d_a_sec : k + put (bit n 23).toNat 23 + put (fld 7 n 16).toNat 16 + put (fld 8 n 8).toNat 8 = n % 2 ^ 31 := by
  simp only [put, toNat_fld, toNat_bit]; omega

/-- D, A and the secondary opcode. -/
theorem put_d_a_sec (z : (n / 2 ^ 23 % 2 == 0) = true) : k + put (fld 7 n 16).toNat 16 + put (fld 8 n 8).toNat 8 = n % 2 ^ 31 := by
  simp only [put, toNat_fld]; rw [beq_iff_eq] at z; omega

/-- D and the secondary opcode. -/
theorem put_d_sec (z : (n / 2 ^ 8 % 256 == 0 && n / 2 ^ 23 % 2 == 0) = true) : k + put (fld 7 n 16).toNat 16 = n % 2 ^ 31 := by
  simp only [put, toNat_fld]; rw [Bool.and_eq_true, beq_iff_eq, beq_iff_eq] at z; omega

/-- A and the secondary opcode. -/
theorem put_a_sec (z : (n / 2 ^ 16 % 256 == 0) = true) : k + put (fld 8 n 8).toNat 8 = n % 2 ^ 31 := by
  simp only [put, toNat_fld]; rw [beq_iff_eq] at z; omega
end

/-- Opcodes 0x00 to 0x3F: the fields of each word, with the bits that must be zero, make up its bits [30:0]. -/
theorem decodeLow_rebuilds {op n : Nat} (h : n / 2 ^ 24 % 128 = op) : Rebuilds n (decodeLow op n) := by
  unfold decodeLow
  split
  case h_1 =>
    split
    next hn => exact rebuilds_ok rfl (by rw [beq_iff_eq.1 hn]; rfl)
    next => exact rebuilds_error n _
  case h_64 => exact rebuilds_error n _
  -- IMM16 alone; W, D and A
  case h_2 | h_7 | h_8 | h_13 => exact rebuilds_zero rfl (put_imm h rfl)
  case h_16 | h_42 | h_56 | h_57 | h_58 | h_59 => exact rebuilds_zero rfl (put_w_d_a h rfl)
  -- the other control words, which have zero bits, and the register words, which have none
  any_goals refine rebuilds_ok rfl ?_
  any_goals refine rebuilds_zero rfl ?_
  all_goals simp only [put_w_d_a_b, put_w_d_imm, Nat.reduceMul, mod_eq_opcode h]
  all_goals
    simp only [Bool.and_eq_true, beq_iff_eq, put, toNat_fld]
    omega

theorem decodePmov_rebuilds {n : Nat} (h : n / 2 ^ 24 % 128 = 0x47) : Rebuilds n (decodePmov n) := by
  unfold decodePmov
  split
  case h_1 hs => exact rebuilds_zero rfl (put_d_sec h hs rfl)
  case h_2 hs => exact rebuilds_zero rfl (put_a_sec h hs rfl)
  case h_3 => exact rebuilds_error n _

theorem decodeSecondary_rebuilds {n : Nat} (h : n / 2 ^ 24 % 128 = 0x7F) : Rebuilds n (decodeSecondary n) := by
  unfold decodeSecondary
  split
  case h_29 => exact rebuilds_error n _
  case h_1 hs | h_2 hs | h_3 hs | h_4 hs => exact rebuilds_ok rfl (put_w_d_a_sec h hs rfl)
  case h_6 hs | h_12 hs | h_14 hs | h_15 hs | h_16 hs | h_17 hs | h_18 hs | h_20 hs | h_22 hs | h_23 hs | h_25 hs =>
    exact rebuilds_zero rfl (put_d_a_sec h hs rfl)
  case h_7 hs | h_8 hs | h_9 hs | h_10 hs | h_11 hs | h_26 hs => exact rebuilds_zero rfl (put_d_sec h hs rfl)
  case h_19 hs | h_21 hs | h_24 hs | h_27 hs | h_28 hs => exact rebuilds_zero rfl (put_a_sec h hs rfl)
  -- YIELD and SFMT
  all_goals
    refine rebuilds_zero rfl ?_
    simp only [beq_iff_eq, put, toNat_fld]
    omega

theorem decodeHigh_rebuilds {op n : Nat} (h : n / 2 ^ 24 % 128 = op) : Rebuilds n (decodeHigh op n) := by
  unfold decodeHigh
  split
  case h_8 => exact decodePmov_rebuilds h
  case h_61 => exact decodeSecondary_rebuilds h
  case h_62 => exact rebuilds_error n _
  -- the compares; W, D and A
  case h_1 | h_2 | h_3 | h_34 => exact rebuilds_zero rfl (put_cond_p_a_b h rfl)
  case h_23 | h_38 => exact rebuilds_zero rfl (put_w_d_a h rfl)
  -- the formats of a few words, which have zero bits, and the register and memory words, which have none
  any_goals refine rebuilds_ok rfl ?_
  any_goals refine rebuilds_zero rfl ?_
  all_goals simp only [put_w_d_a_b, put_w_d_imm, Nat.reduceMul, put_access, put_atomic, mod_eq_opcode h]
  all_goals
    simp only [Bool.and_eq_true, beq_iff_eq, put, toNat_fld, toNat_bit]
    omega

/-- A word that reads as an instruction has the instruction's bits for its low 31. -/
theorem encodeBits_of_decodeFields {w : Word} {i : Instr} (h : decodeFields w = .ok i) :
    encodeBits i = some (w.toNat % 2 ^ 31) := by
  have rebuilds : Rebuilds w.toNat (decodeFields w) := by
    show Rebuilds _ (if _ then _ else _)
    split
    · exact decodeLow_rebuilds rfl
    · exact decodeHigh_rebuilds rfl
  exact rebuilds i h

/-- Of the two words whose low 31 bits are 0 only the one with its chain bit clear reads as `NOP` (R36). -/
theorem eq_zero_of_decodeFields_nop {w : Word} (h : decodeFields w = .ok .nop) : w = 0 := by
  have low : w.toNat % 2 ^ 31 = 0 := (Option.some.inj (encodeBits_of_decodeFields h)).symm
  have op : w.toNat / 2 ^ 24 % 128 = 0 := by omega
  simp only [decodeFields, op, decodeLow] at h
  by_contra hw
  have : w.toNat ≠ 0 := fun h0 => hw (BitVec.eq_of_toNat_eq h0)
  simp [this] at h

/-- A word is its low 31 bits and its chain bit (R35). -/
theorem toNat_chainBit (w : Word) : w.toNat % 2 ^ 31 + put (chainBit w).toNat 31 = w.toNat := by
  have := w.isLt
  rw [chainBit, BitVec.msb_eq_decide, put]
  by_cases h : 2 ^ 31 ≤ w.toNat
  · rw [decide_eq_true h, Bool.toNat_true]; omega
  · rw [decide_eq_false h, Bool.toNat_false]; omega

/-- A word that reads as an instruction is the instruction's encoding under its own chain bit. -/
theorem encode_of_decodeFields {w : Word} {i : Instr} (h : decodeFields w = .ok i) : encode (chainBit w) i = some w := by
  have noChainedNop : ¬ (chainBit w = true ∧ i = .nop) := by
    rintro ⟨hc, rfl⟩
    rw [eq_zero_of_decodeFields_nop h] at hc
    exact absurd hc (by decide)
  rw [encode, if_neg noChainedNop, encodeBits_of_decodeFields h, Option.map_some, toNat_chainBit, BitVec.ofNat_toNat, BitVec.setWidth_eq]

end Sys2Proof.Laws.Encoding

namespace Sys2Proof

/-- What decodes is what the fields read as, where it breaks no condition of Table 3-8 (R60). -/
theorem decode_eq_ok_iff {w : Word} {i : Instr} : decode w = .ok i ↔ decodeFields w = .ok i ∧ i.WellFormed := by
  unfold decode
  cases decodeFields w with
  | error e => simp
  | ok j =>
    rw [Except.ok.injEq]
    constructor
    · intro h
      cases hc : j.check with
      | some e => simp [hc] at h
      | none =>
        obtain rfl : j = i := by simpa [hc] using h
        exact ⟨rfl, hc⟩
    · rintro ⟨rfl, wf⟩
      simp [show j.check = none from wf]

theorem encode_isSome {c : Bool} {i : Instr} (hw : i.isWord = true) (hn : ¬ (c = true ∧ i = .nop)) : ∃ w, encode c i = some w := by
  obtain ⟨n, hn'⟩ := Option.isSome_iff_exists.1 hw
  exact ⟨_, by rw [encode, if_neg hn, hn', Option.map_some]⟩

/-- Settles O58. One way each instruction's law says that its word reads back (`Encoding.statement`); the other way the fields that the decoder
reads, put back in their places, are the word's bits (`Encoding.encode_of_decodeFields`). -/
theorem encodeDecode : Obligations.EncodeDecode := by
  unfold Obligations.EncodeDecode
  refine ⟨fun c i wf word notNop => ?_, fun w i h => ?_⟩
  · obtain ⟨w, hw⟩ := encode_isSome word notNop
    obtain ⟨reads, chain⟩ := Laws.Encoding.statement i c w hw
    exact ⟨w, hw, chain, decode_eq_ok_iff.2 ⟨reads, wf⟩⟩
  · obtain ⟨reads, wf⟩ := decode_eq_ok_iff.1 h
    exact ⟨wf, Laws.Encoding.encode_of_decodeFields reads⟩

end Sys2Proof
end

section
/-! The conditions of `FCMP` and the choice of `FMIN` and `FMAX` follow the exact order of the values (03 R54, 04 R68); the wait
conditions (03 R55). -/

namespace Sys2Proof.Machine

/-! ### Magnitudes in units of the smallest -/

/-- Units of 2^emin in the magnitude m of an encoding; an infinity counts as 2^200, as `Val.rat` has it. -/
def Fmt.units (f : Fmt) (m : Nat) : Nat :=
  if m / 2 ^ f.frac = 2 ^ f.ebits - 1 then 2 ^ (200 - f.emin).toNat
  else if m / 2 ^ f.frac = 0 then m % 2 ^ f.frac else (2 ^ f.frac + m % 2 ^ f.frac) * 2 ^ (m / 2 ^ f.frac - 1)

/-- Signed units of an encoding. -/
def Fmt.signed (f : Fmt) (x : Nat) : Int := (if x / f.signW % 2 == 1 then -1 else 1) * f.units (x % f.signW)

theorem Fmt.Wide.expBound {f : Fmt} (hf : f.Wide) : f.frac + (2 ^ f.ebits - 2) ≤ (200 - f.emin).toNat := by
  obtain rfl | rfl | rfl := hf <;> decide

theorem Fmt.Wide.expTop {f : Fmt} (hf : f.Wide) : 0 < 2 ^ f.ebits - 1 := by
  obtain rfl | rfl | rfl := hf <;> decide

theorem Fmt.Wide.emin_le {f : Fmt} (hf : f.Wide) : f.emin ≤ 200 := by
  obtain rfl | rfl | rfl := hf <;> decide

/-- The units of a finite magnitude are less than those of the next exponent. -/
theorem Fmt.units_lt_pow {f : Fmt} {m : Nat} (h : m / 2 ^ f.frac ≠ 2 ^ f.ebits - 1) : f.units m < 2 ^ f.frac * 2 ^ (m / 2 ^ f.frac) := by
  have fr : m % 2 ^ f.frac < 2 ^ f.frac := Nat.mod_lt _ (by positivity)
  rw [units, if_neg h]
  split
  next h0 => simpa [h0] using fr
  next h0 =>
    obtain ⟨e, he⟩ := Nat.exists_eq_succ_of_ne_zero h0
    rw [he, Nat.succ_sub_one, pow_succ', ← mul_assoc]
    exact Nat.mul_lt_mul_of_pos_right (by omega) (by positivity)

/-- The units of a magnitude are at least those of its exponent with fraction 0. -/
theorem Fmt.pow_le_units {f : Fmt} (hf : f.Wide) {m : Nat} (h0 : m / 2 ^ f.frac ≠ 0) :
    2 ^ f.frac * 2 ^ (m / 2 ^ f.frac - 1) ≤ f.units m := by
  rw [units]
  split
  next he =>
    rw [he, ← pow_add]
    have := hf.expBound
    exact Nat.pow_le_pow_right (by omega) (by omega)
  next =>
    exact Nat.mul_le_mul_right _ (by omega)

/-- Of two magnitudes with one exponent the greater fraction decides; else the greater exponent does. -/
theorem Fmt.units_lt {f : Fmt} (hf : f.Wide) {m n : Nat} (hmn : m < n) (hn : n ≤ f.infMag) : f.units m < f.units n := by
  have hm : m / 2 ^ f.frac < 2 ^ f.ebits - 1 := Nat.div_lt_of_lt_mul (by rw [mul_comm]; exact hmn.trans_le hn)
  obtain he | he := (Nat.div_le_div_right hmn.le : m / 2 ^ f.frac ≤ n / 2 ^ f.frac).eq_or_lt
  · have fr : m % 2 ^ f.frac < n % 2 ^ f.frac := by
      have := Nat.div_add_mod m (2 ^ f.frac)
      have := Nat.div_add_mod n (2 ^ f.frac)
      rw [he] at *
      omega
    rw [units, units, ← he, if_neg hm.ne, if_neg hm.ne]
    split
    · exact fr
    · exact Nat.mul_lt_mul_of_pos_right (by omega) (by positivity)
  · calc f.units m < 2 ^ f.frac * 2 ^ (m / 2 ^ f.frac) := units_lt_pow hm.ne
      _ ≤ 2 ^ f.frac * 2 ^ (n / 2 ^ f.frac - 1) := Nat.mul_le_mul_left _ (Nat.pow_le_pow_right (by omega) (by omega))
      _ ≤ f.units n := pow_le_units hf (Nat.zero_le _ |>.trans_lt he).ne'

theorem Fmt.mod_signW (f : Fmt) (x : Nat) :
    x % f.signW / 2 ^ f.frac = x / 2 ^ f.frac % 2 ^ f.ebits ∧ x % f.signW % 2 ^ f.frac = x % 2 ^ f.frac := by
  rw [signW, add_comm, pow_add]
  exact ⟨Nat.mod_mul_right_div_self .., Nat.mod_mul_right_mod ..⟩

/-- The magnitude of a number is at most that of the infinity. -/
theorem Fmt.mod_signW_le {f : Fmt} {x : Nat} (h : (f.val x).isNan = false) : x % f.signW ≤ f.infMag := by
  obtain ⟨ex, fr⟩ := f.mod_signW x
  have le : x / 2 ^ f.frac % 2 ^ f.ebits ≤ 2 ^ f.ebits - 1 := Nat.le_sub_one_of_lt (Nat.mod_lt _ (by positivity))
  have lt : x % 2 ^ f.frac < 2 ^ f.frac := Nat.mod_lt _ (by positivity)
  rw [infMag, ← Nat.div_add_mod (x % f.signW) (2 ^ f.frac), ex, fr, mul_comm]
  simp only [val, beq_iff_eq] at h
  generalize x / 2 ^ f.frac % 2 ^ f.ebits = e at h le ⊢
  generalize x % 2 ^ f.frac = r at h lt ⊢
  by_cases he : e = 2 ^ f.ebits - 1
  · by_cases hr : r = 0
    · rw [he, hr]; rfl
    · simp [he, hr, Val.isNan] at h
  · calc e * 2 ^ f.frac + r ≤ e * 2 ^ f.frac + 2 ^ f.frac := by omega
      _ = (e + 1) * 2 ^ f.frac := by ring
      _ ≤ (2 ^ f.ebits - 1) * 2 ^ f.frac := Nat.mul_le_mul_right _ (by omega)

theorem Fmt.Wide.inf_units {f : Fmt} (hf : f.Wide) : (2 : ℚ) ^ 200 = 2 ^ (200 - f.emin).toNat * 2 ^ f.emin := by
  have nonneg : 0 ≤ 200 - f.emin := by have := hf.emin_le; omega
  calc (2 : ℚ) ^ 200 = 2 ^ (200 - f.emin + f.emin) := by rw [sub_add_cancel]; rfl
    _ = 2 ^ (200 - f.emin) * 2 ^ f.emin := zpow_add₀ two_ne_zero _ _
    _ = 2 ^ (200 - f.emin).toNat * 2 ^ f.emin := by rw [← zpow_natCast, Int.toNat_of_nonneg nonneg]

/-- A number is its signed units times the smallest value of its format. -/
theorem Fmt.rat_val {f : Fmt} (hf : f.Wide) {x : Nat} (hx : (f.val x).isNan = false) :
    (f.val x).rat = f.signed x * 2 ^ f.emin := by
  obtain ⟨ex, fr⟩ := f.mod_signW x
  simp only [signed, units, ex, fr, Fmt.val] at hx ⊢
  generalize (x / f.signW % 2 == 1) = s at hx ⊢
  generalize x / 2 ^ f.frac % 2 ^ f.ebits = e at hx ⊢
  generalize x % 2 ^ f.frac = r at hx ⊢
  simp only [beq_iff_eq] at hx ⊢
  by_cases he : e = 2 ^ f.ebits - 1
  · by_cases hr : r = 0
    · simp only [he, hr, if_true, Val.rat, hf.inf_units]
      cases s <;> simp
    · simp [he, hr, Val.isNan] at hx
  · simp only [he, if_false, finite]
    cases e with
    | zero => cases s <;> simp [Val.rat]
    | succ k =>
      have step : (2 : ℚ) ^ (f.emin + ((k + 1 : ℕ) : ℤ) - 1) = 2 ^ k * 2 ^ f.emin := by
        rw [← zpow_natCast, ← zpow_add₀ two_ne_zero]
        congr 1
        push_cast
        ring
      rw [if_neg (Nat.succ_ne_zero k), if_neg (by simp), Val.rat, step, Nat.add_sub_cancel]
      cases s <;> push_cast <;> ring_nf

/-- The sign is that of the encoding. -/
theorem Fmt.sgn_val (f : Fmt) (x : Nat) : (f.val x).sgn = (x / f.signW % 2 == 1) := by
  simp only [val, finite]
  split
  · split <;> rfl
  · split <;> rfl

theorem Fmt.units_zero {f : Fmt} (hf : f.Wide) : f.units 0 = 0 := by
  simp [units, hf.expTop.ne]

theorem Fmt.units_strictMono {f : Fmt} (hf : f.Wide) : StrictMonoOn f.units (Set.Iic f.infMag) :=
  fun _ _ _ hn hmn => units_lt hf hmn hn

/-! ### The order of encodings -/

/-- The magnitude of an encoding with its sign; both zeros stand at 0. -/
def Fmt.place (f : Fmt) (x : Nat) : Int := if x / f.signW % 2 == 1 then -(x % f.signW : Nat) else (x % f.signW : Nat)

section
variable {f : Fmt} (hf : f.Wide) {a b : Nat} (ha : (f.val a).isNan = false) (hb : (f.val b).isNan = false)
include hf ha hb

/-- Numbers are ordered as their magnitudes with their signs are. -/
theorem Fmt.rat_lt_iff : (f.val a).rat < (f.val b).rat ↔ f.place a < f.place b := by
  have pos : (0 : ℚ) < 2 ^ f.emin := by positivity
  have order := (units_strictMono hf).lt_iff_lt (mod_signW_le ha) (mod_signW_le hb)
  have posA := (units_strictMono hf).lt_iff_lt (Nat.zero_le _) (mod_signW_le ha)
  have posB := (units_strictMono hf).lt_iff_lt (Nat.zero_le _) (mod_signW_le hb)
  have order' := (units_strictMono hf).lt_iff_lt (mod_signW_le hb) (mod_signW_le ha)
  rw [units_zero hf] at posA posB
  rw [rat_val hf ha, rat_val hf hb, mul_lt_mul_iff_of_pos_right pos, Int.cast_lt, signed, signed, place, place]
  cases a / f.signW % 2 == 1 <;> cases b / f.signW % 2 == 1 <;> simp only [if_true, Bool.false_eq_true, if_false] <;> omega

end

theorem Fmt.rat_eq_iff {f : Fmt} (hf : f.Wide) {a b : Nat} (ha : (f.val a).isNan = false) (hb : (f.val b).isNan = false) :
    (f.val a).rat = (f.val b).rat ↔ f.place a = f.place b := by
  have lt := rat_lt_iff hf ha hb
  have gt := rat_lt_iff hf hb ha
  rw [le_antisymm_iff, le_antisymm_iff, ← not_lt, ← not_lt, lt, gt, not_lt, not_lt]

/-- The keys that FMIN and FMAX compare have the order of the signed magnitudes, −0 below +0. -/
theorem Fmt.key_le_iff (f : Fmt) (a b : Nat) :
    f.key a ≤ f.key b ↔ f.place a < f.place b ∨ f.place a = f.place b ∧ ((f.val a).sgn = true ∨ (f.val b).sgn = false) := by
  rw [key, key, place, place, sgn_val, sgn_val]
  cases a / f.signW % 2 == 1 <;> cases b / f.signW % 2 == 1 <;> simp only [if_true, Bool.false_eq_true, if_false] <;> simp <;> omega

/-- F32's key with both zeros at 0, as `f32Rel` compares, has the order of the signed magnitudes. -/
theorem f32_zeroedKey (x y : Nat) :
    ((if x % 2 ^ 31 = 0 then (0 : Int) else f32.key x) < (if y % 2 ^ 31 = 0 then (0 : Int) else f32.key y) ↔ f32.place x < f32.place y)
    ∧ ((if x % 2 ^ 31 = 0 then (0 : Int) else f32.key x) = (if y % 2 ^ 31 = 0 then (0 : Int) else f32.key y) ↔ f32.place x = f32.place y) := by
  have weight : f32.signW = 2 ^ 31 := rfl
  simp only [Fmt.key, Fmt.place, weight]
  cases x / 2 ^ 31 % 2 == 1 <;> cases y / 2 ^ 31 % 2 == 1 <;> simp only [if_true, Bool.false_eq_true, if_false] <;> omega

theorem f32Rel_of_numbers {a b : Nat} (ha : (f32.val a).isNan = false) (hb : (f32.val b).isNan = false) :
    f32Rel a b = (decide ((f32.val a).rat < (f32.val b).rat), decide ((f32.val a).rat = (f32.val b).rat), false) := by
  have wide : f32.Wide := .inl rfl
  obtain ⟨lt, eq⟩ := f32_zeroedKey a b
  simp only [f32Rel, ha, hb, beq_eq_decide, decide_eq_true_eq, Bool.or_self, Bool.not_false, Bool.true_and, lt, eq,
    Fmt.rat_lt_iff wide ha hb, Fmt.rat_eq_iff wide ha hb]

theorem f32Rel_of_nan {a b : Nat} (h : (f32.val a).isNan = true ∨ (f32.val b).isNan = true) : f32Rel a b = (false, false, true) := by
  have : ((f32.val a).isNan || (f32.val b).isNan) = true := by simpa using h
  simp [f32Rel, this]

theorem Fmt.min_of_numbers {f : Fmt} {a b : Nat} (ha : (f.val a).isNan = false) (hb : (f.val b).isNan = false) :
    f.min a b = if f.key a ≤ f.key b then a else b := by
  simp [Fmt.min, firstNan, ha, hb]

theorem Fmt.max_of_numbers {f : Fmt} {a b : Nat} (ha : (f.val a).isNan = false) (hb : (f.val b).isNan = false) :
    f.max a b = if f.key a ≤ f.key b then b else a := by
  simp [Fmt.max, firstNan, ha, hb]

/-- An encoding with no magnitude is a zero. -/
theorem f32_zero {x : Nat} (h : x % 2 ^ 31 = 0) : (f32.val x).isNan = false ∧ (f32.val x).rat = 0 := by
  have ex : x / 2 ^ f32.frac % 2 ^ f32.ebits = 0 := by show x / 2 ^ 23 % 2 ^ 8 = 0; omega
  have fr : x % 2 ^ f32.frac = 0 := by show x % 2 ^ 23 = 0; omega
  simp only [Fmt.val, Fmt.finite, ex, fr]
  exact ⟨rfl, by simp [f32, Val.rat]⟩

/-- Every condition of two numbers, by their exact order. -/
theorem fcmpCond_of_numbers {a b : Word} (ha : (f32.val a.toNat).isNan = false) (hb : (f32.val b.toNat).isNan = false) :
    let x := (f32.val a.toNat).rat
    let y := (f32.val b.toNat).rat
    ((List.range 14).map fun c => fcmpCond c a b)
        = [decide (x = y), decide (x ≠ y), decide (x < y), decide (x ≤ y), decide (y < x), decide (y ≤ x), true, false,
          decide (x ≠ y), decide (x < y), decide (x ≤ y), decide (y < x), decide (y ≤ x), decide (x = y)] := by
  simp only [fcmpCond, f32Rel_of_numbers ha hb]
  obtain h | h | h := lt_trichotomy (f32.val a.toNat).rat (f32.val b.toNat).rat
  · simp [h, h.ne, h.not_gt, h.le, h.not_ge, List.range_succ]
  · simp [h, List.range_succ]
  · simp [h, h.ne', h.not_gt, h.le, h.not_ge, List.range_succ]

/-- Settles O11: the magnitudes of a format are strictly monotone in their encodings (`Fmt.units_lt`), so the keys that the model compares have the
order of the exact values. -/
theorem floatCompare : Obligations.FloatCompare := by
  unfold Obligations.FloatCompare
  refine ⟨fun a b h => ⟨fun c hc => ?_, fun c h7 hc => ?_⟩, fun a b ha hb => ?_, fun a b ha hb => ?_, fun a b => fcmpCond_of_numbers,
    fun f a b hf ha hb => ?_⟩
  · simp only [fcmpCond, f32Rel_of_nan h]
    interval_cases c <;> rfl
  · simp only [fcmpCond, f32Rel_of_nan h]
    interval_cases c <;> rfl
  · obtain ⟨numA, zeroA⟩ := f32_zero ha
    obtain ⟨numB, zeroB⟩ := f32_zero hb
    simp [fcmpCond, f32Rel_of_numbers numA numB, zeroA, zeroB]
  · simp only [fcmpCond, f32Rel_of_numbers ha hb, f32Rel_of_numbers hb ha]
    obtain h | h | h := lt_trichotomy (f32.val a.toNat).rat (f32.val b.toNat).rat
    · simp [h, h.ne, h.not_gt]
    · simp [h]
    · simp [h, h.ne', h.not_gt]
  · intro x y below
    have order : below ↔ f.key a ≤ f.key b := by rw [Fmt.key_le_iff, ← Fmt.rat_lt_iff hf ha hb, ← Fmt.rat_eq_iff hf ha hb]
    rw [order, Fmt.min_of_numbers ha hb, Fmt.max_of_numbers ha hb]
    exact ⟨fun h => by rw [if_pos h, if_pos h]; exact ⟨rfl, rfl⟩, fun h => by rw [if_neg h, if_neg h]; exact ⟨rfl, rfl⟩⟩

/-! ### Wait conditions (03 R55) -/

/-- The signed value of the low w bits, w > 0, is that of the vector. -/
theorem sint_toNat {w : Nat} (hw : 0 < w) (x : BitVec w) : sint w x.toNat = x.toInt := by
  have half : 2 ^ w = 2 * 2 ^ (w - 1) := by rw [← Nat.pow_succ', Nat.succ_eq_add_one, Nat.sub_add_cancel hw]
  rw [sint, Nat.mod_eq_of_lt x.isLt, BitVec.toInt_eq_toNat_cond]
  exact if_congr (by omega) rfl rfl

/-- Settles O37: the model compares the numbers of the low bits, whose order and signs are those of the vectors. -/
theorem waitCondition : Obligations.WaitCondition := by
  unfold Obligations.WaitCondition
  intro sz v o
  have hw : 0 < if sz then 64 else 32 := by cases sz <;> decide
  simp only [waitCond]
  generalize (if sz then 64 else 32 : Nat) = w at hw ⊢
  have low : ∀ n, n % 2 ^ w = (BitVec.ofNat w n).toNat := fun n => (BitVec.toNat_ofNat n w).symm
  simp only [low]
  generalize BitVec.ofNat w v = x
  generalize BitVec.ofNat w o = y
  simp only [sint_toNat hw, ← BitVec.toNat_and]
  have equal : ∀ a b : BitVec w, (a.toNat == b.toNat) = decide (a = b) := fun a b => by
    rw [beq_eq_decide, decide_eq_decide, BitVec.toNat_eq]
  have zero : ∀ a : BitVec w, (a.toNat == 0) = decide (a = 0) := fun a => by
    simpa using equal a 0
  simp only [bne, equal, zero, decide_not, and_self]

end Sys2Proof.Machine
end

section
/-! `NOP`, the branches on a predicate, `LOOP`, falling through and entering a block (03 R42, R45, R46, 08 R159, R162, R167). -/

namespace Sys2Proof.Machine

/-! ### NOP and the branches (03 R42, 08 R159) -/

theorem legal_nop (s : State) : legal .nop s = true := rfl

theorem latchesOpen_nop (s : State) : (usesOf .nop).latchesOpen s = true := rfl

theorem exec_nop (s : State) : exec .nop s = .next s := issue_ready ⟨legal_nop s, latchesOpen_nop s⟩ .next

theorem State.act_of_moves {s u : State} {own : Bool} {l : Tab Latch} (h : Moves s u own s.me l) : u.act = s.act := by
  rw [State.act, State.act, h.str, h.seen]

/-- A branch on a condition that reads what the packet reads. -/
theorem condBranch_branches {i : Instr} {s : State} (h : Ready i s) {disp : BitVec 16} {taken : State → Bool} {P : Prop}
    (hP : taken s = true ↔ P) (ht : ∀ u, Moves s u s.cur.moved s.me s.myLatches → taken u = taken s) :
    Branches s (condBranch i taken disp s) s.me P disp := by
  rw [← propext hP]
  exact branches_of h id (fun _ => rfl) id (fun u hu => ⟨hu, hu.str⟩) ht

theorem exec_bra (disp : BitVec 16) (s : State) : exec (.bra disp) s = condBranch (.bra disp) (fun _ => true) disp s := rfl

theorem exec_bany (p : BitVec 3) (disp : BitVec 16) (s : State) :
    exec (.bany p disp) s = condBranch (.bany p disp) (fun s => s.seen.pred p.toNat &&& s.act != 0) disp s := rfl

theorem exec_ball (p : BitVec 3) (disp : BitVec 16) (s : State) :
    exec (.ball p disp) s = condBranch (.ball p disp) (fun s => s.seen.pred p.toNat &&& s.act == s.act) disp s := rfl

theorem exec_bnone (p : BitVec 3) (disp : BitVec 16) (s : State) :
    exec (.bnone p disp) s = condBranch (.bnone p disp) (fun s => s.seen.pred p.toNat &&& s.act == 0) disp s := rfl

/-- Settles O15: each branch is `condBranch` on a condition that reads the predicate and the lanes as the packet reads them. -/
theorem branchWords : Obligations.BranchWords := by
  unfold Obligations.BranchWords
  intro s p disp
  rw [exec_bra, exec_bany, exec_ball, exec_bnone]
  refine ⟨exec_nop s, fun h => condBranch_branches h (by simp) fun _ _ => rfl, fun h => condBranch_branches h bne_iff_ne ?_,
    fun h => condBranch_branches h beq_iff_eq ?_, fun h => condBranch_branches h beq_iff_eq ?_⟩
  all_goals
    intro u hu
    rw [hu.seen, State.act_of_moves hu]

/-! ### LOOP and the entry of a block (08 R162, R167) -/

/-- A write of G registers leaves the strand that the packet reads. -/
theorem str_modMe_setG {s u : State} (hu : Moves s u s.cur.moved s.me s.myLatches) (n : Nat) (v : Word) :
    (u.modMe fun g => g.setG n v).str = s.str := by
  have moved := hu.modMe fun g => g.setG n v
  unfold State.str State.seen
  rw [moved.cur_view, moved.cur_strand, moved.now]
  cases s.cur.view <;> rfl

/-- `LOOP` is a branch of the group whose G has been counted down (R167). -/
theorem exec_loop {s : State} {g : BitVec 7} {disp : BitVec 16} (h : Ready (.loop g disp) s) :
    Branches s (exec (.loop g disp) s) (s.me.setG g.toNat (s.seen.greg g.toNat - 1)) (s.seen.greg g.toNat ≠ 1) disp := by
  have taken : (s.seen.greg g.toNat - 1 != 0) = true ↔ s.seen.greg g.toNat ≠ 1 := by
    rw [bne_iff_ne, ne_eq, sub_eq_zero]
  rw [← propext taken]
  refine branches_of h (fun x => x.setG g.toNat (s.seen.greg g.toNat - 1)) (fun x => rfl)
    (fun u => u.modMe fun x => x.setG g.toNat (u.seen.greg g.toNat - 1)) (fun u hu => ⟨?_, str_modMe_setG hu _ _⟩)
    (taken := fun s => s.seen.greg g.toNat - 1 != 0) fun u hu => by rw [hu.seen]
  rw [hu.seen]
  exact hu.modMe _


/-- In an image without limits an entry pops nothing where the stack is empty. -/
theorem Strand.enter_nil {st : Strand} (h : st.rstack = []) (skip : Option Nat) (n : Nat) : Strand.enter [] skip n st = st := by
  cases st
  cases h
  cases n <;> rfl

/-- One entry that names the block at this call depth is popped, another stands. -/
theorem Strand.enter_single {st : Strand} {e : BitVec 128} (h : st.rstack = [e]) (skip : Option Nat) :
    Strand.enter [] skip 1 st =
      if rsSlot e = pcSlot st.pc ∧ rsBlk e = pcBlk st.pc ∧ rsCD e = st.calls.length then
        if rsDeferred e then { st with rstack := [], exm := rsLanes e, pc := pcOf (rsSlot e) (rsDBlk e) (rsDPk e) }
        else { st with rstack := [], exm := st.exm ||| (rsLanes e &&& st.members) }
      else st := by
  cases st
  cases h
  rw [Strand.enter]
  simp only [Bool.and_eq_true, beq_iff_eq, and_assoc]
  split
  · split <;> rfl
  · rfl

/-- Settles O16, from what falling through and entering a block do (`fallMe_some`, `Moves.enterAt`). -/
theorem loopAndFallThrough : Obligations.LoopAndFallThrough := by
  unfold Obligations.LoopAndFallThrough
  refine ⟨fun s g disp => exec_loop, fun s st => fallMe_some, fun s => fallMe_none, fun s pc skip => (Moves.refl s).enterAt rfl _ _ _,
    fun n st skip h => Strand.enter_nil h skip n, fun st e skip h hd => ?_, fun st e skip h hd => ?_⟩
  · rw [Strand.enter_single h, hd]; rfl
  · rw [Strand.enter_single h, hd]; rfl

end Sys2Proof.Machine
end

section
/-! A word outside its conditions is ILLEGAL, one that may not read a latch is LATCH (03 R50, R51, R61, R62). -/

namespace Sys2Proof.Machine

/-- The outcome is that of an issue of the word: its checks come before anything that it does. -/
def Issues (i : Instr) (s : State) (o : Outcome) : Prop := ∃ k, o = issue i s k

theorem issues_issue (i : Instr) (s : State) (k : State → Outcome) : Issues i s (issue i s k) := ⟨k, rfl⟩

/-- Every word begins with the checks of issue, whatever it does after them (R62). -/
theorem exec_issues {i : Instr} (hw : i.isWord = true) (s : State) : Issues i s (exec i s) := by
  cases i
  all_goals dsimp only [exec, condBranch, brWord, lane1, lane2, lane3, laneWord, predWordOf, g1, g2, groupWord, groupWord64,
    readWord, scrObject, pageLoad, pageAtomic, pinWord, l1Word, widthWord,
    execNop, execBra, execBany, execBall, execBnone, execBdiv, execJoin, execCall, execRet, execLoop, execJmpf, execCfetch, execTrap,
    execExit, execEret, execMov, execMovi, execMovhi, execIadd, execIaddi, execIsub, execImul, execImulh, execImulhu, execImad, execIadd64,
    execLea, execAnd, execOr, execXor, execAndn, execShl, execShr, execSar, execShli, execShri, execSari, execImin, execImax, execUmin,
    execUmax, execIabs, execBfe, execFadd, execFsub, execFmul, execFfma, execFmin, execFmax, execHadd2, execHmul2, execHfma2, execBadd2,
    execBmul2, execBfma2, execFrcp, execFrsq, execFexp2, execFlog2, execCvt, execFscale, execQscale, execFrnd, execIcmp, execUcmp, execFcmp,
    execPlop, execSel, execVote, execMset, execPmovGet, execPmovPut, execDot8w, execDot8i, execDot4w, execDot4i, execShfl, execShflx,
    execQxch, execLred, execSplit, execFuse, execRegion, execRdid, execMrd, execStrd, execGmov, execGmovi, execGmovhi, execGadd, execGaddi,
    execGsub, execGmul, execGand, execGor, execGxor, execGshift, execGcmp, execGminmax, execGadd64, execGbcast, execVbcast, execLdg,
    execStg, execLds, execSts, execLdv, execStv, execAtomg, execAtoms, execAtomv, execTxb, execTxe, execTxa, execFence, execTfence,
    execWaitu, execWaitc, execMma, execCopy, execGather, execColl, execLaunch, execMsend, execPopc, execClz, execBrev, execBfi, execYield,
    execSetpl, execRdclk, execRdsync, execRdprog, execRdnrg, execCkpt, execView, execSfmt, execGang, execPin, execUnpin, execMsr, execMrs,
    execBari, execBara, execBarx, execBarw, execStagea, execStager, execRingadv, execLqrd, execL1wb, execL1inv]
  any_goals exact issues_issue _ _ _
  -- what is left are the events, which are no words
  all_goals cases hw

/-- Outside firmware a privileged word may not issue (R61). -/
theorem legal_privileged {i : Instr} {s : State} (hi : isPrivileged i = true) (hs : s.seen.place.priv = false) : legal i s = false := by
  simp [legal, legalIn, hi, hs]

/-- Settles O25: every word begins with `issue`, whose checks are ILLEGAL and then LATCH. -/
theorem illegalWords : Obligations.IllegalWords := by
  unfold Obligations.IllegalWords
  refine ⟨fun i s hw h => ?_, fun i s hw h hl => ?_,
    fun s d a hs => ⟨legal_privileged rfl hs, legal_privileged rfl hs, legal_privileged rfl hs⟩⟩
  · obtain ⟨k, hk⟩ := exec_issues hw s
    rw [hk, issue_illegal h]
  · obtain ⟨k, hk⟩ := exec_issues hw s
    rw [hk, issue_latch h hl]

end Sys2Proof.Machine
end

section
/-! What a trap does to a group of a program: the stages of a halt, what each leaves as it was, and the statement of O23. -/

namespace Sys2Proof.Machine

/-- From g to h a group has lost nothing but a wait that is over, and gained nothing but status in G and the end of operations. -/
structure Group.Kept (g h : Group) : Prop where
  rest : h = { g with g := h.g, wait := h.wait, paths := h.paths }
  idle : g.wait = .none → h.wait = .none

theorem Group.Kept.refl (g : Group) : g.Kept g := ⟨rfl, id⟩

theorem Group.Kept.trans {g h k : Group} (a : g.Kept h) (b : h.Kept k) : g.Kept k :=
  ⟨by rw [b.rest, a.rest], fun w => b.idle (a.idle w)⟩

theorem Group.Kept.setG (g : Group) (n : Nat) (v : Word) : g.Kept (g.setG n v) := ⟨rfl, id⟩

theorem Group.Kept.completeOp (g : Group) (path op : Nat) : g.Kept (g.completeOp path op) := by
  unfold Group.completeOp
  dsimp only
  split
  next =>
    split
    · exact ⟨rfl, fun _ => rfl⟩
    · exact ⟨rfl, id⟩
  next => exact ⟨rfl, id⟩

/-- From s to t groups are at most told that something they wait for is over, and the marks due to barriers stand. -/
structure Woken (s t : State) : Prop where
  kept : ∀ k, (s.group k).Kept (t.group k)
  marks : ∀ k, (t.team k).marks = (s.team k).marks

section
variable {s t u : State}

theorem Woken.refl (s : State) : Woken s s := ⟨fun _ => .refl _, fun _ => rfl⟩

theorem Woken.trans (a : Woken s t) (b : Woken t u) : Woken s u :=
  ⟨fun k => (a.kept k).trans (b.kept k), fun k => (b.marks k).trans (a.marks k)⟩

theorem Behind.woken (h : Behind s t) : Woken s t := ⟨fun k => by rw [h.group]; exact .refl _, fun k => by rw [h.team]⟩

theorem Woken.ite {c : Prop} [Decidable c] (h : Woken s t) (k : Woken s u) : Woken s (if c then t else u) := by
  split
  · exact h
  · exact k

theorem Woken.foldl {α : Type} (f : State → α → State) (hf : ∀ s a, Woken s (f s a)) (l : List α) (s : State) : Woken s (l.foldl f s) :=
  foldl_keeps (fun t => Woken s t) f (fun t a h => h.trans (hf t a)) l s (.refl s)

theorem Woken.modGroup (s : State) (j : Nat) (f : Group → Group) (hf : (s.group j).Kept (f (s.group j))) : Woken s (s.modGroup j f) := by
  refine ⟨fun k => ?_, fun _ => rfl⟩
  by_cases h : k = j
  · subst h; rw [State.group_modGroup]; exact hf
  · rw [State.group_modGroup_ne _ h]; exact .refl _

theorem Woken.modTeam (s : State) (j : Nat) (f : Team → Team) (hf : (f (s.team j)).marks = (s.team j).marks) : Woken s (s.modTeam j f) := by
  refine ⟨fun k => .refl _, fun k => ?_⟩
  by_cases h : k = j
  · subst h; rw [State.team_modTeam]; exact hf
  · rw [State.team_modTeam_ne _ h]

theorem Woken.decideWait (s : State) (e : MonEntry) (c v : Nat) : Woken s (s.decideWait e c v) := by
  unfold State.decideWait
  dsimp only
  split
  · refine .modGroup _ _ _ ?_
    split
    next w => exact ⟨rfl, fun h => by rw [h] at w; cases w⟩
    next => exact .refl _
  · exact .modTeam _ _ _ rfl
  · exact ⟨fun _ => .refl _, fun _ => rfl⟩

theorem Woken.evalWords (s : State) (key : Nat) (ws : List Nat) : Woken s (s.evalWords key ws) := by
  unfold State.evalWords
  dsimp only
  have fold : ∀ l : Tab MonEntry, Woken s (l.foldl (fun s x =>
      match (s.chargeEval key x.2).monHit x.2 with
      | some (c, v) => ((s.chargeEval key x.2).modSlice key fun y => { y with mon := y.mon.set {} x.1 {} }).decideWait x.2 c v
      | none => s.chargeEval key x.2) s) := fun l => by
    refine Woken.foldl _ (fun s x => ?_) l s
    have h1 := (Charges.chargeEval s key x.2).behind.woken
    split
    · exact h1.trans ((Behind.modSlice _ _ _).woken.trans (.decideWait _ _ _ _))
    · exact h1
  exact .ite ((fold _).trans (Behind.modSlice _ _ _).woken) (fold _)

theorem Woken.stampLine (s : State) (l : Nat) (m : BitVec 256) (d : Tab Byte) (p : BitVec 4) (o : Nat) : Woken s (s.stampLine l m d p o) := by
  unfold State.stampLine
  dsimp only
  have h := (Behind.logUndo s l o).trans (Behind.allocLine _ (homeSlice (l * 256)) l o)
  refine Woken.trans (Behind.woken ?_) (.evalWords _ _ _)
  split
  · exact h.trans (.modSlice _ _ _)
  · exact (h.trans (.modSlice _ _ _)).trans (.pastSlice _ _ _ _ _ _)

theorem Woken.homeWrite (s : State) (l : Nat) (m : BitVec 256) (d : Tab Byte) (p : BitVec 4) (o : Nat) : Woken s (s.homeWrite l m d p o) := by
  unfold State.homeWrite
  exact (Woken.stampLine s l m d p o).trans ((Behind.foldl _ (fun s d => .dropCopy s d l) _ _).trans (.modSlice _ _ _)).woken

theorem Woken.globalWrite (s : State) (pa : Nat) (bs : List Byte) (o : Nat) (p : Bool) : Woken s (s.globalWrite pa bs o p) := by
  unfold State.globalWrite
  exact Woken.foldl _ (fun _ _ => .homeWrite _ _ _ _ _ _) _ _

theorem Woken.sysWrite (s : State) (pa : Nat) (bs : List Byte) (o : Nat) : Woken s (s.sysWrite pa bs o) := by
  unfold State.sysWrite
  split
  · exact .refl s
  · exact (Woken.globalWrite s pa bs o false).trans (Behind.foldl _ (fun _ _ => .flushLine _ _ _) _ _).woken
      |>.trans (Behind.woken rfl)
end

/-! ### What a group that halts lets go -/

/-- From s to t only groups, clusters, operations, slices and rendezvous have changed, and no cluster's time. -/
structure Frees (s t : State) : Prop where
  rest : t = { s with groups := t.groups, clusters := t.clusters, ops := t.ops, slices := t.slices, rdvs := t.rdvs }
  time : ∀ c, (t.cluster c).clk = (s.cluster c).clk

/-- From s to t, besides, no group has lost anything but a wait that is over. -/
structure Parts (s t : State) : Prop extends Frees s t where
  kept : ∀ k, (s.group k).Kept (t.group k)

section
variable {s t u : State}

theorem Frees.trans (a : Frees s t) (b : Frees t u) : Frees s u := ⟨by rw [b.rest, a.rest], fun c => (b.time c).trans (a.time c)⟩
theorem Frees.clk (h : Frees s t) (c : Nat) : t.clk c = s.clk c := by
  have q : t.quiet = s.quiet := by rw [h.rest]
  unfold State.clk; rw [q, h.time]
theorem Frees.teams (h : Frees s t) : t.teams = s.teams := by rw [h.rest]
theorem Frees.launches (h : Frees s t) : t.launches = s.launches := by rw [h.rest]
theorem Frees.now (h : Frees s t) : t.time = s.time := by rw [h.rest]
theorem Frees.modGroup (s : State) (k : Nat) (f : Group → Group) : Frees s (s.modGroup k f) := ⟨rfl, fun _ => rfl⟩
theorem Frees.modSlice (s : State) (k : Nat) (f : Slice → Slice) : Frees s (s.modSlice k f) := ⟨rfl, fun _ => rfl⟩
theorem Frees.modCluster (s : State) (k : Nat) (f : Cluster → Cluster) (hf : (f (s.cluster k)).clk = (s.cluster k).clk) :
    Frees s (s.modCluster k f) := by
  refine ⟨rfl, fun c => ?_⟩
  by_cases h : c = k
  · subst h; rw [State.cluster_modCluster]; exact hf
  · rw [State.cluster_modCluster_ne _ h]
theorem Frees.unlock (s : State) (op : Nat) : Frees s (s.unlock op) :=
  foldl_keeps (Frees s) _ (fun t e h => by
    split
    · exact h.trans (.modSlice _ _ _)
    · exact h) s.slices s ⟨rfl, fun _ => rfl⟩

theorem Parts.refl (s : State) : Parts s s := ⟨⟨rfl, fun _ => rfl⟩, fun _ => .refl _⟩
theorem Parts.trans (a : Parts s t) (b : Parts t u) : Parts s u := ⟨a.toFrees.trans b.toFrees, fun k => (a.kept k).trans (b.kept k)⟩
theorem Parts.foldl {α : Type} (f : State → α → State) (hf : ∀ s a, Parts s (f s a)) (l : List α) (s : State) : Parts s (l.foldl f s) :=
  foldl_keeps (Parts s) f (fun t a h => h.trans (hf t a)) l s (.refl s)
theorem Parts.modGroup (s : State) (j : Nat) (f : Group → Group) (hf : (s.group j).Kept (f (s.group j))) : Parts s (s.modGroup j f) :=
  ⟨.modGroup s j f, (Woken.modGroup s j f hf).kept⟩
/-- A change of operations, rendezvous or slices alone. -/
theorem Parts.of_groups (h : Frees s t) (hg : t.groups = s.groups) : Parts s t :=
  ⟨h, fun k => by unfold State.group; rw [hg]; exact .refl _⟩
theorem Parts.endOp (s : State) (k : Nat) : Parts s (s.endOp k) := by
  unfold State.endOp
  dsimp only
  have h : Parts s (s.setOp k {}) := .of_groups ⟨rfl, fun _ => rfl⟩ rfl
  split
  · exact h.trans (.modGroup _ _ _ (.completeOp _ _ _))
  · exact h
theorem Parts.sweepRdv (s : State) (k : Nat) : Parts s (s.sweepRdv k) := by
  unfold State.sweepRdv
  dsimp only
  split
  · exact .of_groups ⟨rfl, fun _ => rfl⟩ rfl
  · exact .refl s
theorem Parts.passRdv (s : State) (k off : Nat) : Parts s (s.passRdv k off) := .of_groups ⟨rfl, fun _ => rfl⟩ rfl
theorem Parts.setRdvs (s : State) (x : Tab Rdv) : Parts s { s with rdvs := x } := .of_groups ⟨rfl, fun _ => rfl⟩ rfl
theorem Parts.failRdv (s : State) (k code : Nat) : Parts s (s.failRdv k code) := by
  unfold State.failRdv
  dsimp only
  refine ((Parts.foldl _ (fun s o => ?_) _ s).trans (.setRdvs _ _)).trans (.sweepRdv _ k)
  split
  · split
    · exact (Parts.modGroup _ _ _ (.setG _ _ _)).trans (.endOp _ _)
    · exact .endOp _ _
  · exact .refl s
theorem Parts.abandonRdvs (s : State) (g : Group) : Parts s (s.abandonRdvs g) := by
  refine Parts.foldl _ (fun s e => ?_) _ s
  dsimp only
  split
  · split
    · exact (Parts.passRdv _ _ _).trans (.failRdv _ _ _)
    · exact (Parts.passRdv _ _ _).trans (.sweepRdv _ _)
  · exact .refl s
theorem Parts.endFuse (s : State) (gk code : Nat) : Parts s (s.endFuse gk code) := by
  unfold State.endFuse
  split
  · exact .refl s
  · refine .modGroup _ _ _ ?_
    split
    next w => exact ⟨rfl, fun h => by rw [h] at w; cases w⟩
    next => exact .refl _
theorem Parts.freeWaits (s : State) (gk : Nat) : Parts s (s.freeWaits gk) := by
  unfold State.freeWaits
  split
  · exact .of_groups (.modSlice _ _ _) rfl
  · exact .of_groups (.modCluster _ _ _ rfl) rfl
  · exact .refl s

theorem Frees.discardHeld (s : State) (gk : Nat) : Frees s (s.discardHeld gk) := by
  unfold State.discardHeld
  exact (Frees.modCluster _ _ _ rfl).trans (.modGroup _ _ _)
theorem State.group_discardHeld (s : State) (gk : Nat) : (s.discardHeld gk).group gk = { s.group gk with heldVault := [] } :=
  State.group_modGroup _ _ _
theorem State.groups_unlock (s : State) (op : Nat) : (s.unlock op).groups = s.groups :=
  foldl_keeps (fun t => t.groups = s.groups) _ (fun t e h => by split <;> exact h) s.slices s rfl
/-- The locks of a commit under way are released, and no more. -/
theorem Parts.unlock (s : State) (op : Nat) : Parts s (s.unlock op) := .of_groups (.unlock s op) (State.groups_unlock s op)
theorem State.discardTx_eq (s : State) (gk : Nat) :
    ∃ u, Frees s u ∧ u.groups = s.groups ∧ s.discardTx gk = u.modGroup gk fun g => { g with tx := g.tx.discard } := by
  refine ⟨_, ?_, ?_, rfl⟩
  · refine (Parts.foldl _ (fun s e => ?_) s.ops s).toFrees
    split
    · split
      · exact .unlock _ _
      · exact .refl s
    · exact .refl s
  · refine foldl_keeps (fun t => t.groups = s.groups) _ (fun t e h => ?_) s.ops s rfl
    split
    · split
      · exact (State.groups_unlock _ _).trans h
      · exact h
    · exact h
theorem Frees.discardTx (s : State) (gk : Nat) : Frees s (s.discardTx gk) := by
  obtain ⟨u, hu, -, e⟩ := s.discardTx_eq gk
  rw [e]; exact hu.trans (.modGroup _ _ _)
theorem State.group_discardTx (s : State) (gk : Nat) : (s.discardTx gk).group gk = { s.group gk with tx := (s.group gk).tx.discard } := by
  obtain ⟨u, -, hg, e⟩ := s.discardTx_eq gk
  have h : u.group gk = s.group gk := by unfold State.group; rw [hg]
  rw [e, State.group_modGroup, h]
end

/-! ### A group that halts, stage by stage -/

/-- A group has let go what others wait for or hold for it. -/
def State.parted (s : State) (gk : Nat) : State := ((s.freeWaits gk).abandonRdvs (s.group gk)).endFuse gk 7
/-- Its held stores and the logs of its transaction are gone. -/
def State.stripped (s : State) (gk : Nat) : State := ((s.parted gk).discardHeld gk).discardTx gk
/-- A group halted with a report. -/
def Group.halted (g : Group) (r : TrapReport) : Group :=
  { g with halt := some r, wait := .none, flight := none, fence := none, yielded := [], digest := none, pressed := false }
/-- Barriers due to be marked after a halt at a time of a cluster's clock. -/
def marksDue (barriers : List Nat) (now : Nat) (l : List (Nat × Nat)) : List (Nat × Nat) :=
  barriers.zipIdx.foldl (fun m b => dueIn (now + 96 + b.2, b.1) m) l
/-- The group is halted, and its team's barriers are due to be marked. -/
def State.downed (s : State) (gk : Nat) (r : TrapReport) : State :=
  let u := (s.stripped gk).modGroup gk fun g => g.halted r
  u.modTeam (s.group gk).place.team fun t =>
    { t with marks := marksDue (s.imageOf (s.group gk).place.launch).barriers (u.clk (clusterOf gk)) t.marks }
/-- A launch that counts a halt with a report. -/
def Launch.countHalt (l : Launch) (r : TrapReport) (now time : Nat) : Launch :=
  if !l.live then l
  else { l with
    halts := l.halts + 1, first := l.first.orElse fun _ => some r
    policyDue := true, policyAt := if l.policyDue then l.policyAt else now + 200
    haltAt := if l.policyDue then l.haltAt else (time, r.kind == .poison || r.kind == .mismatch) }
theorem Launch.countHalt_of_live {l : Launch} (h : l.live = true) (r : TrapReport) (now time : Nat) :
    l.countHalt r now time = { l with
      halts := l.halts + 1, first := l.first.orElse fun _ => some r, policyDue := true
      policyAt := if l.policyDue then l.policyAt else now + 200
      haltAt := if l.policyDue then l.haltAt else (time, r.kind == .poison || r.kind == .mismatch) } := by
  unfold Launch.countHalt
  rw [h]; rfl
/-- The fault entry is written, where the launch has room for it. -/
def State.faulted (s u : State) (gk : Nat) (r : TrapReport) : State :=
  let l := s.launch (s.rootLaunch (s.group gk).place.launch)
  if l.live && decide (l.halts < 32) then
    u.sysWrite (l.reca + 0x1C00 + 32 * l.halts) (faultEntry u (s.group gk) r) 0xFFF else u

section
variable (s : State) (gk : Nat) (r : TrapReport)

theorem State.halt_eq : ∃ qidx code, s.halt gk r
    = (State.logCause ((s.faulted (s.downed gk r) gk r).modLaunch (s.rootLaunch (s.group gk).place.launch) fun l =>
        l.countHalt r ((s.stripped gk).clk (clusterOf gk)) (s.faulted (s.downed gk r) gk r).time.toNat) qidx code) :=
  ⟨_, _, rfl⟩

theorem Parts.parted : Parts s (s.parted gk) :=
  ((Parts.freeWaits s gk).trans (.abandonRdvs _ _)).trans (.endFuse _ _ _)
theorem Frees.stripped : Frees s (s.stripped gk) :=
  ((Parts.parted s gk).toFrees.trans (.discardHeld _ _)).trans (.discardTx _ _)
theorem Woken.faulted (u : State) : Woken u (s.faulted u gk r) := by
  unfold State.faulted
  exact .ite (.sysWrite _ _ _ _) (.refl u)
theorem Writes.faulted (u : State) : Writes u (s.faulted u gk r) := by
  unfold State.faulted
  exact .ite (.sysWrite _ _ _ _) (.refl u)

theorem State.group_stripped : ∃ h, (s.group gk).Kept h
    ∧ (s.stripped gk).group gk = { h with heldVault := [], tx := h.tx.discard } := by
  refine ⟨_, (Parts.parted s gk).kept gk, ?_⟩
  unfold State.stripped
  rw [State.group_discardTx, State.group_discardHeld]

/-- What stands in a group that has halted, and what is gone. -/
theorem State.group_halt : ∃ h, (s.group gk).Kept h
    ∧ (Group.halted { h with heldVault := [], tx := h.tx.discard } r).Kept ((s.halt gk r).group gk) := by
  obtain ⟨q, c, e⟩ := s.halt_eq gk r
  obtain ⟨h, hk, hg⟩ := s.group_stripped gk
  refine ⟨h, hk, ?_⟩
  have w := (Woken.faulted s gk r (s.downed gk r)).kept gk
  have d : (s.downed gk r).group gk = ((s.stripped gk).group gk).halted r :=
    State.group_modGroup (s.stripped gk) gk fun g => g.halted r
  rw [d, hg] at w
  rw [e]; exact w

theorem State.marks_halt : ((s.halt gk r).team (s.group gk).place.team).marks
    = marksDue (s.imageOf (s.group gk).place.launch).barriers (s.clk (clusterOf gk)) (s.team (s.group gk).place.team).marks := by
  obtain ⟨q, c, e⟩ := s.halt_eq gk r
  have w := (Woken.faulted s gk r (s.downed gk r)).marks (s.group gk).place.team
  have hc : ((s.stripped gk).modGroup gk fun g => g.halted r).clk (clusterOf gk) = s.clk (clusterOf gk) :=
    ((Frees.stripped s gk).trans (.modGroup _ _ _)).clk _
  have ht : ((s.stripped gk).modGroup gk fun g => g.halted r).team (s.group gk).place.team = s.team (s.group gk).place.team := by
    unfold State.team; rw [((Frees.stripped s gk).trans (.modGroup _ _ _)).teams]
  have d : ((s.downed gk r).team (s.group gk).place.team).marks = _ := congrArg Team.marks (State.team_modTeam _ _ _)
  rw [hc, ht] at d
  rw [e]; exact w.trans d

theorem State.launch_halt : (s.halt gk r).launch (s.rootLaunch (s.group gk).place.launch)
    = (s.launch (s.rootLaunch (s.group gk).place.launch)).countHalt r (s.clk (clusterOf gk)) s.time.toNat := by
  obtain ⟨q, c, e⟩ := s.halt_eq gk r
  have w := Writes.faulted s gk r (s.downed gk r)
  have ht : (s.faulted (s.downed gk r) gk r).time = s.time := w.time.trans (Frees.stripped s gk).now
  have hl : (s.faulted (s.downed gk r) gk r).launches = s.launches := w.launches.trans (Frees.stripped s gk).launches
  have hr : ∀ l, (s.faulted (s.downed gk r) gk r).launch l = s.launch l := fun l => by unfold State.launch; rw [hl]
  have hc : ∀ u : State, (u.logCause q c).launches = u.launches := fun _ => rfl
  rw [e, ht, (Frees.stripped s gk).clk, State.launch, hc, ← State.launch, State.launch_modLaunch, hr]

/-- A trap of a group of a program halts it, and is what the word has taken. -/
theorem State.takeTrap_program (k : Nat) (h : (s.group gk).place.priv = false) :
    s.takeTrap gk k r = { s with cur := { s.cur with trap := some r } }.halt gk r := by
  unfold State.takeTrap
  exact if_neg fun p => Bool.false_ne_true (h.symm.trans p)
end

/-- Settles O23: the stages of a halt each keep what stands, and the group, its team's marks and its launch are read off at the end. -/
theorem groupTraps : Obligations.GroupTraps := by
  intro s gk k r hp
  dsimp only
  rw [s.takeTrap_program gk r k hp]
  obtain ⟨h, hk, kept⟩ := State.group_halt { s with cur := { s.cur with trap := some r } } gk r
  have idle := kept.idle rfl
  have a := hk.rest
  have b := kept.rest
  change h = { s.group gk with g := h.g, wait := h.wait, paths := h.paths } at a
  refine ⟨?_, idle, ?_, ?_, ?_, ?_, ?_, ?_, ?_, ?_, ?_, State.marks_halt _ gk r,
    fun live => (State.launch_halt _ gk r).trans (Launch.countHalt_of_live live r _ _)⟩
  all_goals rw [b, a]; rfl
end Sys2Proof.Machine
end

section
/-! What the end of a step leaves of the quarters, and the packet that refutes O56. -/

namespace Sys2Proof.Machine

/-! ### What a step's end leaves of the quarters -/

/-- The quarters of the clusters, their switch holds among them, are the same. -/
def SameQuarters (s t : State) : Prop := ∀ c, (t.cluster c).quarters = (s.cluster c).quarters

section
variable {s t u : State}

theorem SameQuarters.refl (s : State) : SameQuarters s s := fun _ => rfl
theorem SameQuarters.trans (h : SameQuarters s t) (k : SameQuarters t u) : SameQuarters s u := fun c => (k c).trans (h c)
theorem SameQuarters.of_clusters (h : t.clusters = s.clusters) : SameQuarters s t := fun c => by unfold State.cluster; rw [h]
theorem SameQuarters.foldl {α : Type} (f : State → α → State) (hf : ∀ s a, SameQuarters s (f s a)) (l : List α) (s : State) :
    SameQuarters s (l.foldl f s) :=
  foldl_keeps (SameQuarters s) f (fun t a h => h.trans (hf t a)) l s (.refl s)
theorem SameQuarters.modCluster (s : State) (k : Nat) (f : Cluster → Cluster) (hf : ∀ c, (f c).quarters = c.quarters) :
    SameQuarters s (s.modCluster k f) := fun c => by
  by_cases h : c = k
  · subst h; rw [State.cluster_modCluster]; exact hf _
  · rw [State.cluster_modCluster_ne _ h]

theorem SameQuarters.rest (s : State) : SameQuarters s s.rest := .of_clusters rfl

theorem SameQuarters.fall (s : State) (cl q : Nat) : SameQuarters s (s.fall cl q) := by
  unfold State.fall
  dsimp only
  split
  · exact .refl s
  · refine (SameQuarters.foldl _ (fun s e => ?_) _ s).trans (.modCluster _ _ _ ?_)
    · exact .modCluster s cl _ fun _ => rfl
    · exact fun _ => rfl

theorem SameQuarters.parkings (s : State) (cl : Nat) : SameQuarters s (s.parkings cl) := by
  unfold State.parkings
  dsimp only
  split
  · exact .refl s
  · refine (SameQuarters.foldl _ (fun s q => .fall s cl q) _ s).trans (.modCluster _ _ _ ?_)
    exact fun _ => rfl

theorem SameQuarters.droopOver (s : State) (cl ns : Nat) : SameQuarters s (s.droopOver cl ns) := by
  unfold State.droopOver
  dsimp only
  split
  · refine SameQuarters.trans (u := State.modCluster (s.chargeOverhead _ _) cl _) (.of_clusters rfl) (.modCluster _ cl _ ?_)
    exact fun _ => rfl
  · split
    · split
      · refine SameQuarters.trans (.modCluster s cl _ ?_) (.foldl _ (fun s q => ?_) _ _)
        · exact fun _ => rfl
        · exact .of_clusters rfl
      · exact .modCluster s cl _ fun _ => rfl
    · exact .refl s

theorem SameQuarters.droopDue (s : State) (cl : Nat) : SameQuarters s (s.droopDue cl) := by
  unfold State.droopDue
  dsimp only
  split
  · split
    · exact .droopOver s cl 20
    · exact .refl s
  · split
    · exact .droopOver s cl 40
    · exact .refl s

theorem SameQuarters.staticTick (s : State) (n cl : Nat) : SameQuarters s (s.staticTick n cl) := by
  unfold State.staticTick
  dsimp only
  refine SameQuarters.trans (SameQuarters.foldl _ (fun s q => ?_) _ s) (.of_clusters rfl)
  have add : ∀ (s : State) (q e : Nat), SameQuarters s (s.addStatic cl q e) := fun s q e => .modCluster s cl _ fun _ => rfl
  split
  · split
    · exact add _ _ _
    · exact (add _ _ _).trans (add _ _ _)
  · exact add _ _ _

/-- The state of a step's end, before the clocks advance. -/
def State.settled (s : State) (n : Nat) : State :=
  let s := s.clusters.keys.foldl (fun s cl => (s.parkings cl).droopDue cl) s
  let s := s.clusters.keys.foldl (State.staticTick · n ·) s
  [0, 1, 2, 3].foldl (State.staticRest · n ·) s

theorem SameQuarters.settled (s : State) (n : Nat) : SameQuarters s (s.settled n) := by
  unfold State.settled
  dsimp only
  refine (SameQuarters.foldl _ (fun s cl => ?_) _ s).trans (.trans (.foldl _ (fun s cl => ?_) _ _) (.foldl _ (fun s d => ?_) _ _))
  · exact (SameQuarters.parkings s cl).trans (.droopDue _ cl)
  · exact .staticTick s n cl
  · exact .of_clusters rfl

/-- What a map of entries leaves of each, at any key. -/
theorem Tab.get_map_left {V W : Type} (d : V) (g : Nat × V → Nat × V) (p : V → W) (hg : ∀ e, (g e).1 = e.1 ∧ p (g e).2 = p e.2)
    (k : Nat) (t : Tab V) : p (Tab.get d k (t.map g)) = p (Tab.get d k t) := by
  induction t with
  | nil => rfl
  | cons e t ih =>
    obtain ⟨hk, hp⟩ := hg e
    by_cases h : e.1 = k <;> simp [Tab.get, hk, h, hp, ih]

theorem State.clusters_tick (s : State) : ∃ f : Nat → BitVec 64, s.tick.clusters
    = (s.settled (Config.elapse (s.free * 1024 + 0))).clusters.map fun e => (e.1, { e.2 with clk := e.2.clk + f e.1 }) :=
  ⟨fun k => BitVec.ofNat 64 (Config.elapse (s.free * 1024 + (1 + k))), rfl⟩

/-- Time that passes leaves every quarter as it is. -/
theorem SameQuarters.tick (s : State) : SameQuarters s s.tick := by
  obtain ⟨f, hf⟩ := s.clusters_tick
  refine (SameQuarters.settled s (Config.elapse (s.free * 1024 + 0))).trans fun c => ?_
  unfold State.cluster
  rw [hf]
  refine Tab.get_map_left _ _ Cluster.quarters (fun e => ?_) _ _
  exact ⟨rfl, rfl⟩

theorem SameQuarters.spillOut (t s : State) : SameQuarters t (t.spillOut s) := by
  refine SameQuarters.foldl _ (fun t k => ?_) _ t
  dsimp only
  split
  · exact .refl t
  · exact .of_clusters rfl
end

/-! ### The switch hold after a packet (05 R91) -/

theorem State.quarter_modQuarter (s : State) (cl q : Nat) (f : Quarter → Quarter) : (s.modQuarter cl q f).quarter cl q = f (s.quarter cl q) := by
  unfold State.quarter State.modQuarter
  rw [State.cluster_modCluster]
  exact Tab.get_set_same _ _ _ _

theorem SameQuarters.quarter {s t : State} (h : SameQuarters s t) (cl q : Nat) : t.quarter cl q = s.quarter cl q := by
  unfold State.quarter; rw [h]

theorem SameQuarters.letGo (s : State) (gk : Nat) : SameQuarters s (s.letGo gk) := by
  refine SameQuarters.foldl _ (fun s k => ?_) _ s
  split
  · exact .refl s
  · exact .of_clusters rfl

/-- The turn of a group leaves the switch hold of its quarter as the packet has left it. -/
theorem State.hold_turnDone (s : State) (gk : Nat) :
    ((s.turnDone gk).quarter (clusterOf gk) (quarterOf gk)).hold = (s.quarter (clusterOf gk) (quarterOf gk)).hold := by
  unfold State.turnDone
  rw [State.quarter_modQuarter, (SameQuarters.letGo s gk).quarter]

/-- After a packet with W the quarter holds. -/
theorem State.hold_holdAfter (s : State) (gk k : Nat) (pc : Word) {us : List Uses} (h : us.any Uses.wbit = true) :
    ((s.holdAfter gk k pc us).quarter (clusterOf gk) (quarterOf gk)).hold.isSome = true := by
  unfold State.holdAfter
  rw [State.quarter_modQuarter]
  unfold nextHold
  rw [if_pos h]
  split
  · dsimp only
    split <;> rfl
  · rfl

/-- What a step does with a packet leaves every quarter as the packet has left it. -/
theorem SameQuarters.stepEnd (s t : State) : SameQuarters t (t.spillOut s).rest.tick :=
  ((SameQuarters.spillOut t s).trans (.rest _)).trans (.tick _)

/-- A step whose choice is a packet issues it. -/
theorem step_packet {s : State} {gk k : Nat} (h : s.chosen = some (.packet gk k)) :
    step s = .next ((s.packet1 gk k).spillOut s).rest.tick := by
  unfold step State.advance
  rw [h]; rfl

/-- Two steps of a packet that end alike leave the quarter's switch hold alike. -/
theorem State.hold_eq_of_stepEnd {s u v : State} {gk : Nat} (h : (u.spillOut s).rest.tick = ((v.turnDone gk).rest.spillOut s).rest.tick) :
    (u.quarter (clusterOf gk) (quarterOf gk)).hold = (v.quarter (clusterOf gk) (quarterOf gk)).hold := by
  have quarter := (SameQuarters.stepEnd s u).quarter (clusterOf gk) (quarterOf gk)
  rw [h, (SameQuarters.stepEnd s _).quarter, (SameQuarters.rest _).quarter] at quarter
  rw [← quarter, State.hold_turnDone]

/-- A word with W alone in the last packet of block 31. -/
def lastWord : Instr := .mov true 1 2

/-- A group of a program with that packet next: its strand is at packet 1, the last, of block 31 of slot 0. -/
def lastPacket : State :=
  { State.reset with
    groups := [(0, { live := true, uid := 7, place := { launch := 1, team := 1, width := 4, regs := 512, depth := 2, qidx := 1 }
                     strands := [(0, { live := true, pc := pcOf 0 31 1, members := 0xF, exm := 0xF })] })]
    teams := [(1, { live := true, launch := 1, lanes := 4, cohort := 1, size := 272, phase := .running })]
    launches := [(1, { live := true, qidx := 1
                       image := { slots := 1, segs := [{ num := 0, slot := 0, code := [], liveness := [0, 0], regions := [] }] } })]
    clusters := [(0, { istore := [(64, { landed := true, bound := true, launch := 1
                                         words := [(31 * 16, 0x4001), (31 * 16 + 4, (encode false lastWord).getD 0)] })] })] }

/-- The word does its work without a trap. -/
def doneWord : Outcome → Bool
  | .next t => t.cur.trap.isNone && !t.cur.miss && !t.cur.moved
  | _ => false

theorem doneWord_iff {o : Outcome} (h : doneWord o = true) :
    ∃ t, o = .next t ∧ t.cur.trap = none ∧ t.cur.miss = false ∧ t.cur.moved = false := by
  cases o with
  | next t => exact ⟨t, rfl, by simpa [doneWord, and_assoc] using h⟩
  | _ => cases h

/-- The fall through past block 31 halts the group with SEGMENT, and the step leaves the hold as it was: none. -/
theorem lastPacket_end : ((lastPacket.packet1 0 0).group 0).halt = some { kind := .segment, pc := pcOf 0 31 1 }
    ∧ ((lastPacket.packet1 0 0).quarter (clusterOf 0) (quarterOf 0)).hold = none := by decide +kernel

/-- Refutes O56: a `MOV` with W in the last packet of block 31 completes without a trap, but the fall through after it raises SEGMENT, and then
the step leaves the switch hold of the quarter as it stood, where the statement has it follow the packet. -/
theorem not_stepRunsDecoded : ¬ Obligations.StepRunsDecoded := by
  unfold Obligations.StepRunsDecoded
  rintro ⟨packets, -⟩
  have chosen : lastPacket.chosen = some (.packet 0 0) := by decide +kernel
  have fetch : lastPacket.fetchTrap 0 0 = none := by decide +kernel
  have decoded : packetInstrs (lastPacket.group 0) (lastPacket.packetWords 0 ((lastPacket.group 0).strand 0)) = .ok [lastWord] := by
    decide +kernel
  obtain ⟨t, ran, trap, miss, moved⟩ := doneWord_iff (o := exec lastWord (((lastPacket.keepBlock 0 0).atIssue 0 0).withWindows [lastWord]))
    (by decide +kernel)
  have claimed := (packets lastPacket t 0 0 lastWord chosen fetch decoded ran).1 trap miss moved
  have same := Host.Outcome.next.inj ((step_packet chosen).symm.trans claimed)
  have hold := State.hold_eq_of_stepEnd same
  have held := State.hold_holdAfter ((((lastPacket.keepBlock 0 0).atIssue 0 0).issued t 0 0).fallThrough 0 0) 0 0
    ((lastPacket.group 0).strand 0).pc (us := [usesOf lastWord]) rfl
  rw [← hold, lastPacket_end.2] at held
  exact absurd held Bool.false_ne_true
end Sys2Proof.Machine
end

section
/-! The NaNs of float operations (04 R67, R68): a source NaN stands before every new event. -/

namespace Sys2Proof.Machine

@[simp] theorem firstNan_nil : firstNan [] = none := rfl

@[simp] theorem firstNan_cons_nan (s : Bool) (c : Nat) (l : List Val) : firstNan (.nan s c :: l) = some (.nan s c) := rfl

theorem firstNan_cons_number {v : Val} (h : v.isNan = false) (l : List Val) : firstNan (v :: l) = firstNan l := by
  simp [firstNan, h]

theorem Fmt.op_of_firstNan (f : Fmt) {l : List Val} {s : Bool} {c : Nat} (h : firstNan l = some (.nan s c)) (r : Val) :
    f.op l r = f.nanBits s c := by
  simp [Fmt.op, h, Fmt.round]

theorem Fmt.op_of_numbers (f : Fmt) {l : List Val} (h : firstNan l = none) (r : Val) : f.op l r = f.round 0 r := by
  simp [Fmt.op, h]

/-- The first of two sources that is a NaN is the first NaN of every list that begins with them. -/
theorem firstNan_of_pair {v w : Val} {s : Bool} {c : Nat} (h : v = .nan s c ∨ v.isNan = false ∧ w = .nan s c) (l : List Val) :
    firstNan (v :: w :: l) = some (.nan s c) := by
  obtain rfl | ⟨number, rfl⟩ := h
  · rfl
  · rw [firstNan_cons_number number, firstNan_cons_nan]

theorem firstNan_pair_of_numbers {v w : Val} (hv : v.isNan = false) (hw : w.isNan = false) : firstNan [v, w] = none := by
  rw [firstNan_cons_number hv, firstNan_cons_number hw, firstNan_nil]

theorem Fmt.min_of_firstNan (f : Fmt) {a b : Nat} {s : Bool} {c : Nat} (h : firstNan [f.val a, f.val b] = some (.nan s c)) :
    f.min a b = f.nanBits s c := by
  simp [Fmt.min, h, Fmt.round]

theorem Fmt.max_of_firstNan (f : Fmt) {a b : Nat} {s : Bool} {c : Nat} (h : firstNan [f.val a, f.val b] = some (.nan s c)) :
    f.max a b = f.nanBits s c := by
  simp [Fmt.max, h, Fmt.round]

/-- A NaN without a sign stands at the least quiet encoding plus its code. -/
theorem Fmt.nanBits_plus (f : Fmt) (c : Nat) : f.nanBits false c = f.infMag + 2 ^ (f.frac - 1) + c := by
  simp [Fmt.nanBits]

/-- Settles O5: an operation takes the first NaN of its sources (`Fmt.op_of_firstNan`), and with none among them rounds what the exact operation
gives (`Fmt.op_of_numbers`), which is the NaN of the new event. -/
theorem floatNans : Obligations.FloatNans := by
  unfold Obligations.FloatNans
  refine ⟨fun f a b s c _ h => ?_, fun f a b x s c _ ha hb hx => ?_, fun f a b s t e _ => ⟨fun ha hb => ?_, fun ha hb => ?_, fun ha hb => ?_⟩,
    fun c => ?_⟩
  · have two := firstNan_of_pair h []
    exact ⟨f.op_of_firstNan two _, f.op_of_firstNan two _, f.op_of_firstNan two _, f.min_of_firstNan two, f.max_of_firstNan two,
      fun x => f.op_of_firstNan (firstNan_of_pair h [f.val x]) _⟩
  · refine f.op_of_firstNan ?_ _
    rw [firstNan_cons_number ha, firstNan_cons_number hb, hx, firstNan_cons_nan]
  · have na : (f.val a).isNan = false := by rw [ha]; rfl
    have nb : (f.val b).isNan = false := by rw [hb]; rfl
    constructor
    · rw [Fmt.mul, f.op_of_numbers (firstNan_pair_of_numbers na nb), ha, hb]; rfl
    · rw [Fmt.mul, f.op_of_numbers (firstNan_pair_of_numbers nb na), ha, hb]; rfl
  · rw [Fmt.add, ha, hb, f.op_of_numbers (firstNan_pair_of_numbers rfl rfl)]
    cases s <;> rfl
  · rw [Fmt.sub, ha, hb, f.op_of_numbers (firstNan_pair_of_numbers rfl rfl)]
    cases s <;> rfl
  · simp only [Fmt.nanBits_plus, Nat.add_right_cancel_iff]
    decide

end Sys2Proof.Machine
end

section
/-! Rounding to an integer, and from there among the magnitudes of a format (04 R70). -/

namespace Sys2Proof.Machine

/-! ### Rounding to an integer -/

/-- k is the integer to which a magnitude t of sign s rounds (04 Table 4-5). -/
def RoundsInt (mode : Nat) (s : Bool) (t : ℚ) (k : Nat) : Prop :=
  if TowardZero mode s then k ≤ t ∧ t < k + 1
  else if FromZero mode s then t ≤ k ∧ k < t + 1
  else |k - t| ≤ 1 / 2 ∧ (|k - t| = 1 / 2 → if mode = 0 then k % 2 = 0 else t < k)

/-- y is m × 2^e, or lies strictly between it and the next multiple where a rest is left (the `sticky` of `roundAt`). -/
def Brackets (m : Nat) (e : Int) (sticky : Bool) (y : ℚ) : Prop :=
  if sticky then m * 2 ^ e < y ∧ y < (m + 1) * 2 ^ e else y = m * 2 ^ e

theorem Brackets.le {m : Nat} {e : Int} {b : Bool} {y : ℚ} (h : Brackets m e b y) : m * 2 ^ e ≤ y := by
  cases b with
  | false => exact (show y = _ from h).ge
  | true => exact (show _ ∧ _ from h).1.le

theorem Brackets.lt {m : Nat} {e : Int} {b : Bool} {y : ℚ} (h : Brackets m e b y) : y < (m + 1) * 2 ^ e := by
  cases b with
  | false =>
    rw [show y = m * 2 ^ e from h]
    exact mul_lt_mul_of_pos_right (lt_add_one _) (by positivity)
  | true => exact (show _ ∧ _ from h).2

/-- The four kinds of rounding: toward zero, away from it, to the nearest with ties to even, to the nearest with ties away. -/
theorem mode_cases (mode : Nat) (s : Bool) :
    TowardZero mode s ∨ ¬ TowardZero mode s ∧ FromZero mode s ∨ mode = 0 ∨ 4 ≤ mode := by
  rcases mode with _ | _ | _ | _ | mode <;> cases s <;> simp [TowardZero, FromZero]

theorem roundsUp_of_toward {mode : Nat} {s : Bool} (h : TowardZero mode s) (odd : Bool) (half : Ordering) (exact : Bool) :
    roundsUp mode s odd half exact = false := by
  obtain rfl | ⟨rfl, rfl⟩ | ⟨rfl, rfl⟩ := h <;> simp [roundsUp]

theorem roundsUp_of_from {mode : Nat} {s : Bool} (h : FromZero mode s) (odd : Bool) (half : Ordering) (exact : Bool) :
    roundsUp mode s odd half exact = !exact := by
  obtain ⟨rfl, rfl⟩ | ⟨rfl, rfl⟩ := h <;> simp [roundsUp]

theorem roundsUp_even {r : ℚ} (s : Bool) (n : Nat) (exact : Bool) :
    roundsUp 0 s (n % 2 == 1) (cmp r (1 / 2)) exact = true ↔ 1 / 2 < r ∨ r = 1 / 2 ∧ n % 2 = 1 := by
  simp only [roundsUp, Bool.or_eq_true, Bool.and_eq_true, beq_iff_eq, cmp_eq_gt_iff, cmp_eq_eq_iff]

theorem roundsUp_away {mode : Nat} (h : 4 ≤ mode) {r : ℚ} (s odd exact : Bool) :
    roundsUp mode s odd (cmp r (1 / 2)) exact = true ↔ 1 / 2 ≤ r := by
  obtain ⟨n, rfl⟩ := Nat.exists_eq_add_of_le' h
  show (cmp r (1 / 2) != .lt) = true ↔ _
  rw [bne_iff_ne, Ne, cmp_eq_lt_iff, not_lt]

section
variable {mode : Nat} {s : Bool} {t : ℚ} {k : Nat}

theorem roundsInt_toward (h : TowardZero mode s) : RoundsInt mode s t k ↔ k ≤ t ∧ t < k + 1 := by
  rw [RoundsInt, if_pos h]

theorem roundsInt_from (h : ¬ TowardZero mode s) (h' : FromZero mode s) : RoundsInt mode s t k ↔ t ≤ k ∧ k < t + 1 := by
  rw [RoundsInt, if_neg h, if_pos h']

theorem roundsInt_even : RoundsInt 0 s t k ↔ |k - t| ≤ 1 / 2 ∧ (|k - t| = 1 / 2 → k % 2 = 0) := by
  simp [RoundsInt, TowardZero, FromZero]

theorem roundsInt_away (h : 4 ≤ mode) : RoundsInt mode s t k ↔ |k - t| ≤ 1 / 2 ∧ (|k - t| = 1 / 2 → t < k) := by
  rw [RoundsInt, if_neg (by simp [TowardZero]; omega), if_neg (by simp [FromZero]; omega), if_neg (by omega)]

end

/-- `roundsUp` decides right when it is told the parity below, where the rest lies against the half, and whether there is a rest. -/
theorem roundsInt_roundsUp (mode : Nat) (s : Bool) {n : Nat} {r : ℚ} (h0 : 0 ≤ r) (h1 : r < 1) {half : Ordering}
    (hh : half = cmp r (1 / 2)) {exact : Bool} (he : exact = true ↔ r = 0) :
    RoundsInt mode s (n + r) (n + if roundsUp mode s (n % 2 == 1) half exact then 1 else 0) := by
  have up : |((n + 1 : ℕ) : ℚ) - (n + r)| = 1 - r := by
    rw [abs_of_nonneg] <;> push_cast <;> linarith
  have down : |(n : ℚ) - (n + r)| = r := by
    rw [abs_of_nonpos] <;> linarith
  obtain h | ⟨h, h'⟩ | rfl | h := mode_cases mode s
  · rw [roundsInt_toward h, roundsUp_of_toward h]
    constructor <;> simp [h0, h1]
  · rw [roundsInt_from h h', roundsUp_of_from h']
    cases exact with
    | true => simp [he.1 rfl]
    | false =>
      have pos : 0 < r := lt_of_le_of_ne h0 fun z => by simpa using he.2 z.symm
      constructor <;> simp <;> linarith
  · rw [roundsInt_even]
    by_cases raise : 1 / 2 < r ∨ r = 1 / 2 ∧ n % 2 = 1
    · rw [hh, if_pos ((roundsUp_even ..).2 raise), up]
      obtain above | ⟨tie, odd⟩ := raise
      · exact ⟨by linarith, fun e => by linarith⟩
      · exact ⟨by linarith, fun _ => by omega⟩
    · rw [hh, if_neg (mt (roundsUp_even ..).1 raise), add_zero, down]
      push Not at raise
      exact ⟨raise.1, fun e => by have := raise.2 e; omega⟩
  · rw [roundsInt_away h]
    by_cases raise : 1 / 2 ≤ r
    · rw [hh, if_pos ((roundsUp_away h ..).2 raise), up]
      exact ⟨by linarith, fun _ => by push_cast; linarith⟩
    · rw [hh, if_neg (mt (roundsUp_away h ..).1 raise), add_zero, down]
      push Not at raise
      exact ⟨raise.le, fun e => absurd e raise.ne⟩

/-- An integer rounds to itself. -/
theorem roundsInt_self (mode : Nat) (s : Bool) (k : Nat) : RoundsInt mode s k k := by
  obtain h | ⟨h, h'⟩ | rfl | h := mode_cases mode s
  · exact (roundsInt_toward h).2 ⟨le_rfl, lt_add_one _⟩
  · exact (roundsInt_from h h').2 ⟨le_rfl, lt_add_one _⟩
  · exact roundsInt_even.2 (by norm_num)
  · exact (roundsInt_away h).2 (by norm_num)

theorem zpow_toNat {d : Int} (h : 0 ≤ d) : (2 : ℚ) ^ d = ((2 ^ d.toNat : ℕ) : ℚ) := by
  rw [Nat.cast_pow, Nat.cast_ofNat, ← zpow_natCast, Int.toNat_of_nonneg h]

/-- Below its own last bit a number is a multiple of the unit. -/
theorem roundAt_of_lt (mode : Nat) (s : Bool) (m : Nat) {e q : Int} (h : q < e) : roundAt mode s m e q false = m * 2 ^ (e - q).toNat := by
  have exact : roundsUp mode s false .lt true = false := by
    rcases mode with _ | _ | _ | _ | mode <;> rfl
  simp [roundAt, h, exact]

/-- Where a whole unit p of the last place is even, the half of it that `roundAt` looks for is that of the rest with what lies below it. -/
theorem half_eq_cmp {r p : Nat} {b : Bool} {d : ℚ} (hp : 0 < p) (h0 : 0 ≤ d) (h1 : d < 1) (exact : b = false → d = 0)
    (rest : b = true → 0 < d ∧ 2 ∣ p) :
    (if 2 * r < p then .lt else if 2 * r == p then (if b then .gt else .eq) else Ordering.gt) = cmp ((r + d) / p) (1 / 2) := by
  have pos : (0 : ℚ) < p := by exact_mod_cast hp
  obtain below | tie | above := lt_trichotomy (2 * r) p
  · rw [if_pos below, eq_comm, cmp_eq_lt_iff, div_lt_iff₀ pos]
    cases b with
    | false =>
      have : (2 * r : ℚ) < p := by exact_mod_cast below
      linarith [exact rfl]
    | true =>
      obtain ⟨c, rfl⟩ := (rest rfl).2
      have : (r : ℚ) + 1 ≤ c := by exact_mod_cast (by omega : r + 1 ≤ c)
      push_cast
      linarith
  · have : (2 * r : ℚ) = p := by exact_mod_cast tie
    rw [if_neg tie.not_lt, if_pos (by simpa using tie), eq_comm]
    cases b with
    | false =>
      rw [exact rfl, add_zero, if_neg (by simp), cmp_eq_eq_iff, div_eq_iff pos.ne']
      linarith
    | true =>
      rw [if_pos rfl, cmp_eq_gt_iff, lt_div_iff₀ pos]
      linarith [(rest rfl).1]
  · have : (p : ℚ) < 2 * r := by exact_mod_cast above
    rw [if_neg above.not_gt, if_neg (by simpa using above.ne'), eq_comm, cmp_eq_gt_iff, lt_div_iff₀ pos]
    linarith

/-- `roundAt` rounds what it is given of a number, in units of 2^q, to an integer. -/
theorem roundsInt_roundAt (mode : Nat) (s : Bool) {m : Nat} {e q : Int} {b : Bool} {y : ℚ} (h : Brackets m e b y) (hb : b = true → e < q) :
    RoundsInt mode s (y / 2 ^ q) (roundAt mode s m e q b) := by
  by_cases hq : q < e
  · cases b with
    | true => exact absurd (hb rfl) hq.not_gt
    | false =>
      have whole : y / 2 ^ q = ((m * 2 ^ (e - q).toNat : ℕ) : ℚ) := by
        rw [show y = _ from h, Nat.cast_mul, ← zpow_toNat (by omega), zpow_sub₀ two_ne_zero, mul_div_assoc]
      rw [roundAt_of_lt mode s m hq, whole]
      exact roundsInt_self _ _ _
  · rw [not_lt] at hq
    have unit : (0 : ℚ) < 2 ^ e := by positivity
    have p0 : 0 < 2 ^ (q - e).toNat := by positivity
    have pow : (2 : ℚ) ^ q = ((2 ^ (q - e).toNat : ℕ) : ℚ) * 2 ^ e := by
      rw [← zpow_toNat (by omega), ← zpow_add₀ two_ne_zero, sub_add_cancel]
    have p2 : b = true → 2 ∣ 2 ^ (q - e).toNat := fun t => dvd_pow_self 2 (by have := hb t; omega)
    simp only [roundAt, if_neg hq.not_gt]
    generalize 2 ^ (q - e).toNat = p at p0 pow p2 ⊢
    have pos : (0 : ℚ) < p := by exact_mod_cast p0
    obtain ⟨d, hd⟩ : ∃ d, y / 2 ^ e = m + d := ⟨y / 2 ^ e - m, by ring⟩
    have d0 : 0 ≤ d := by have := (le_div_iff₀ unit).2 h.le; linarith
    have d1 : d < 1 := by have := (div_lt_iff₀ unit).2 h.lt; linarith
    have exact : b = false → d = 0 := by
      rintro rfl
      have := (div_eq_iff unit.ne').2 (show y = _ from h)
      linarith
    have rest : b = true → 0 < d := by
      rintro rfl
      have := (lt_div_iff₀ unit).2 (show _ ∧ _ from h).1
      linarith
    have split : (m : ℚ) = p * (m / p : ℕ) + (m % p : ℕ) := by exact_mod_cast (Nat.div_add_mod m p).symm
    have value : y / 2 ^ q = (m / p : ℕ) + ((m % p : ℕ) + d) / p := by
      rw [pow, mul_comm, ← div_div, hd, split]
      field_simp
      ring
    have r1 : ((m % p : ℕ) : ℚ) + 1 ≤ p := by exact_mod_cast Nat.mod_lt m p0
    rw [value]
    refine roundsInt_roundsUp mode s (by positivity) ((div_lt_one pos).2 (by linarith)) (half_eq_cmp p0 d0 d1 exact fun t => ⟨rest t, p2 t⟩) ?_
    rw [div_eq_zero_iff, or_iff_left pos.ne', Bool.and_eq_true, beq_iff_eq, Bool.not_eq_true']
    constructor
    · rintro ⟨r0, hb0⟩
      rw [r0, exact hb0]; simp
    · intro zero
      have : (0 : ℚ) ≤ (m % p : ℕ) := by positivity
      have r0 : ((m % p : ℕ) : ℚ) = 0 := by linarith
      refine ⟨by exact_mod_cast r0, ?_⟩
      cases b with
      | false => rfl
      | true => have := rest rfl; linarith

/-! ### Magnitudes -/

/-- Magnitude number k of a format whose exponent has no bound above. -/
def Fmt.mag (f : Fmt) (k : Nat) : ℚ := (f.finite false (k / 2 ^ f.frac) (k % 2 ^ f.frac)).rat

theorem Fmt.mag_low (f : Fmt) {c : Nat} (h : c < 2 ^ f.frac) : f.mag c = c * 2 ^ f.emin := by
  simp [mag, finite, Nat.div_eq_of_lt h, Nat.mod_eq_of_lt h, Val.rat]

theorem Fmt.mag_high (f : Fmt) (i : Nat) {c : Nat} (h : c < 2 ^ f.frac) :
    f.mag ((i + 1) * 2 ^ f.frac + c) = (2 ^ f.frac + c : ℕ) * 2 ^ (f.emin + i) := by
  have pos : 0 < 2 ^ f.frac := by positivity
  have ex : ((i + 1) * 2 ^ f.frac + c) / 2 ^ f.frac = i + 1 := by
    rw [mul_comm, Nat.mul_add_div pos, Nat.div_eq_of_lt h, add_zero]
  have fr : ((i + 1) * 2 ^ f.frac + c) % 2 ^ f.frac = c := by
    rw [mul_comm, Nat.mul_add_mod, Nat.mod_eq_of_lt h]
  have exp : f.emin + ((i : ℤ) + 1) - 1 = f.emin + i := by ring
  simp [mag, finite, ex, fr, Val.rat, exp]

/-- A binade also reaches the first number of the next. -/
theorem Fmt.mag_binade (f : Fmt) (i : Nat) {c : Nat} (h : c ≤ 2 ^ f.frac) :
    f.mag ((i + 1) * 2 ^ f.frac + c) = (2 ^ f.frac + c : ℕ) * 2 ^ (f.emin + i) := by
  obtain lt | rfl := h.lt_or_eq
  · exact f.mag_high i lt
  · have next : (i + 1) * 2 ^ f.frac + 2 ^ f.frac = (i + 1 + 1) * 2 ^ f.frac + 0 := by ring
    rw [next, f.mag_high (i + 1) (by positivity), add_zero, Nat.cast_succ, ← add_assoc, zpow_add_one₀ two_ne_zero]
    push_cast
    ring

/-- A number of the format is one of the least binade, or of one above it. -/
theorem Fmt.place_cases (f : Fmt) (k : Nat) : k < 2 ^ f.frac ∨ ∃ i c, c < 2 ^ f.frac ∧ k = (i + 1) * 2 ^ f.frac + c := by
  have fr : k % 2 ^ f.frac < 2 ^ f.frac := Nat.mod_lt _ (by positivity)
  have div := Nat.div_add_mod k (2 ^ f.frac)
  by_cases zero : k / 2 ^ f.frac = 0
  · exact .inl (by rw [zero] at div; omega)
  · obtain ⟨i, hi⟩ := Nat.exists_eq_succ_of_ne_zero zero
    exact .inr ⟨i, _, fr, by rw [hi, mul_comm] at div; exact div.symm⟩

theorem Fmt.mag_subnormal (f : Fmt) {c : Nat} (h : c ≤ 2 ^ f.frac) : f.mag c = c * 2 ^ f.emin := by
  obtain lt | rfl := h.lt_or_eq
  · exact f.mag_low lt
  · simpa using f.mag_binade 0 (Nat.zero_le _)

theorem Fmt.mag_strictMono (f : Fmt) : StrictMono f.mag := by
  refine strictMono_nat_of_lt_succ fun k => ?_
  obtain h | ⟨i, c, h, rfl⟩ := f.place_cases k
  · rw [f.mag_low h, f.mag_subnormal h]
    exact mul_lt_mul_of_pos_right (by push_cast; exact lt_add_one _) (by positivity)
  · rw [f.mag_high i h, add_assoc, f.mag_binade i h]
    exact mul_lt_mul_of_pos_right (by push_cast; linarith) (by positivity)

@[simp] theorem Fmt.mag_zero (f : Fmt) : f.mag 0 = 0 := by
  simp [f.mag_low (c := 0) (by positivity)]

theorem Fmt.mag_nonneg (f : Fmt) (k : Nat) : 0 ≤ f.mag k := by
  simpa using f.mag_strictMono.monotone (Nat.zero_le k)

/-- Every magnitude is a multiple of a unit that the format reaches, or lies below the binade of that unit, which the unit is not the least of. -/
theorem Fmt.mag_multiple (f : Fmt) {q : Int} (hq : f.emin ≤ q) (j : Nat) :
    (∃ i : Nat, f.mag j = i * 2 ^ q) ∨ f.emin < q ∧ f.mag j < (2 ^ f.frac : ℕ) * 2 ^ q := by
  obtain h | ⟨i, c, h, rfl⟩ := f.place_cases j
  · obtain rfl | lt := hq.eq_or_lt
    · exact .inl ⟨j, f.mag_low h⟩
    · refine .inr ⟨lt, ?_⟩
      rw [f.mag_low h]
      exact mul_lt_mul (by exact_mod_cast h) (zpow_le_zpow_right₀ one_le_two lt.le) (by positivity) (by positivity)
  · rw [f.mag_high i h]
    obtain le | lt := le_or_gt q (f.emin + i)
    · left
      refine ⟨(2 ^ f.frac + c) * 2 ^ (f.emin + i - q).toNat, ?_⟩
      rw [Nat.cast_mul, ← zpow_toNat (by omega), mul_assoc, ← zpow_add₀ two_ne_zero, sub_add_cancel]
    · refine .inr ⟨by omega, ?_⟩
      calc ((2 ^ f.frac + c : ℕ) : ℚ) * 2 ^ (f.emin + i) < ((2 * 2 ^ f.frac : ℕ) : ℚ) * 2 ^ (f.emin + i) :=
            mul_lt_mul_of_pos_right (by exact_mod_cast (by omega)) (by positivity)
        _ = (2 ^ f.frac : ℕ) * 2 ^ (f.emin + i + 1) := by rw [zpow_add_one₀ two_ne_zero]; push_cast; ring
        _ ≤ (2 ^ f.frac : ℕ) * 2 ^ q := by gcongr <;> [exact one_le_two; omega]

/-! ### From integers to magnitudes -/

/-- The nearest integer is as near as every other, and of two as near the mode decides. -/
theorem nearest_int {t : ℚ} {n : Nat} (half : |(n : ℚ) - t| ≤ 1 / 2) (i : Nat) :
    |(n : ℚ) - t| ≤ |(i : ℚ) - t| ∧ (|(n : ℚ) - t| = |(i : ℚ) - t| → i = n ∨ |(n : ℚ) - t| = 1 / 2 ∧ (t < n → i < n)) := by
  obtain rfl | ne := eq_or_ne i n
  · exact ⟨le_rfl, fun _ => .inl rfl⟩
  have apart : 1 ≤ |(i : ℚ) - n| := by
    have : (1 : ℤ) ≤ |(i : ℤ) - n| := Int.one_le_abs (by omega)
    exact_mod_cast this
  have triangle : |(i : ℚ) - n| ≤ |(i : ℚ) - t| + |(n : ℚ) - t| := by
    rw [abs_sub_comm (n : ℚ) t]; exact abs_sub_le _ _ _
  refine ⟨by linarith, fun tie => .inr ⟨by linarith, fun lt => ?_⟩⟩
  by_contra ge
  have : (n : ℚ) ≤ i := by exact_mod_cast not_lt.1 ge
  rw [abs_of_pos (by linarith), abs_of_pos (by linarith)] at tie
  exact ne (by exact_mod_cast (by linarith : (i : ℚ) = n))

/-- An integer to which y rounds in units of u gives the rounding of y among magnitudes of which it is one, when each of them is a multiple of
the unit or lies below a multiple that y reaches. -/
theorem roundsIn_of_roundsInt {v : Nat → ℚ} (mono : StrictMono v) {mode : Nat} {s : Bool} {u y : ℚ} (hu : 0 < u) {n k : Nat}
    (hn : RoundsInt mode s (y / u) n) (hv : v k = n * u) (parity : k % 2 = n % 2)
    (grid : ∀ j, (∃ i : Nat, v j = i * u) ∨ ∃ i : Nat, v j < i * u ∧ i * u ≤ y) {top : Nat} (hk : k < top) :
    RoundsIn v top mode s y k := by
  have scale : ∀ i : Nat, |i * u - y| = |(i : ℚ) - y / u| * u := fun i => by
    rw [← abs_of_pos hu, ← abs_mul, abs_of_pos hu, sub_mul, div_mul_cancel₀ _ hu.ne']
  have nearest (half : |(n : ℚ) - y / u| ≤ 1 / 2) (tie : |(n : ℚ) - y / u| = 1 / 2 → if mode = 0 then n % 2 = 0 else y / u < n) (j : Nat) :
      |v k - y| ≤ |v j - y| ∧ (|v k - y| = |v j - y| → j = k ∨ if mode = 0 then k % 2 = 0 else j ≤ k) := by
    obtain ⟨i, hi⟩ | ⟨i, below, reached⟩ := grid j
    · obtain ⟨near, decide⟩ := nearest_int half i
      rw [hv, hi, scale, scale, mul_right_cancel_iff_of_pos hu]
      refine ⟨mul_le_mul_of_nonneg_right near hu.le, fun eq => ?_⟩
      obtain rfl | ⟨mid, lt⟩ := decide eq
      · exact .inl (mono.injective (hi.trans hv.symm))
      · right
        have := tie mid
        split at this
        · rwa [if_pos ‹_›, parity]
        · rw [if_neg ‹_›]
          refine (mono.lt_iff_lt.1 ?_).le
          rw [hi, hv]
          exact mul_lt_mul_of_pos_right (by exact_mod_cast lt this) hu
    · have near : |v k - y| ≤ |i * u - y| := by
        rw [hv, scale, scale]
        exact mul_le_mul_of_nonneg_right (nearest_int half i).1 hu.le
      have far : |i * u - y| < |v j - y| := by
        rw [abs_of_nonpos (by linarith), abs_of_neg (by linarith)]; linarith
      exact ⟨near.trans far.le, fun eq => absurd eq (near.trans_lt far).ne⟩
  obtain h | ⟨h, h'⟩ | rfl | h := mode_cases mode s
  · obtain ⟨le, lt⟩ := (roundsInt_toward h).1 hn
    rw [RoundsIn, if_pos h]
    rw [le_div_iff₀ hu] at le
    rw [div_lt_iff₀ hu] at lt
    have below (i : Nat) (hi : i * u ≤ y) : i * u ≤ v k := by
      rw [hv]
      have : (i : ℚ) < n + 1 := lt_of_mul_lt_mul_right (hi.trans_lt lt) hu.le
      exact mul_le_mul_of_nonneg_right (by exact_mod_cast Nat.lt_succ_iff.1 (by exact_mod_cast this)) hu.le
    refine ⟨hk, hv ▸ le, fun j _ hj => mono.le_iff_le.1 ?_⟩
    obtain ⟨i, hi⟩ | ⟨i, lt, reached⟩ := grid j
    · rw [hi] at hj ⊢; exact below i hj
    · exact lt.le.trans (below i reached)
  · obtain ⟨ge, lt⟩ := (roundsInt_from h h').1 hn
    rw [RoundsIn, if_neg h, if_pos h']
    rw [div_le_iff₀ hu] at ge
    refine ⟨hk.le, fun _ => hv ▸ ge, fun j _ hj => mono.le_iff_le.1 ?_⟩
    obtain ⟨i, hi⟩ | ⟨i, below, reached⟩ := grid j
    · rw [hi] at hj
      rw [hi, hv]
      have : (n : ℚ) < i + 1 := lt.trans_le (by linarith [(div_le_iff₀ hu).2 hj])
      exact mul_le_mul_of_nonneg_right (by exact_mod_cast Nat.lt_succ_iff.1 (by exact_mod_cast this)) hu.le
    · linarith
  · obtain ⟨half, tie⟩ := roundsInt_even.1 hn
    rw [RoundsIn, if_neg (by simp), if_neg (by simp)]
    exact ⟨hk, fun j _ => nearest half (by simpa using tie) j⟩
  · obtain ⟨half, tie⟩ := (roundsInt_away h).1 hn
    rw [RoundsIn, if_neg (by rintro (_ | ⟨_, _⟩ | ⟨_, _⟩) <;> omega), if_neg (by rintro (⟨_, _⟩ | ⟨_, _⟩) <;> omega)]
    exact ⟨hk, fun j _ => nearest half (by rwa [if_neg (by omega)]) j⟩

end Sys2Proof.Machine
end

section
/-! `Fmt.roundMag` is the rounding among the magnitudes of a format (04 R70), and `Fmt.pack` ends it as IEEE 754 overflow does (04 R71). -/

namespace Sys2Proof.Machine

/-- Magnitude number k of the format is the rounding of y when its exponent has no bound above (04 R71). -/
def Fmt.RoundsFree (f : Fmt) (mode : Nat) (s : Bool) (y : ℚ) (k : Nat) : Prop :=
  ∀ top, k < top → RoundsIn f.mag top mode s y k

/-! ### `Fmt.roundMag` -/

theorem RoundsInt.near {mode : Nat} {s : Bool} {t : ℚ} {n : Nat} (h : RoundsInt mode s t n) : |(n : ℚ) - t| < 1 := by
  rw [RoundsInt] at h
  split at h
  · rw [abs_lt]; constructor <;> linarith
  split at h
  · rw [abs_lt]; constructor <;> linarith
  · linarith

theorem RoundsInt.le {mode : Nat} {s : Bool} {t : ℚ} {n N : Nat} (h : RoundsInt mode s t n) (ht : t ≤ N) : n ≤ N := by
  have := (abs_lt.1 h.near).2
  exact Nat.lt_succ_iff.1 (by exact_mod_cast (by push_cast; linarith : (n : ℚ) < (N.succ : ℕ)))

theorem RoundsInt.ge {mode : Nat} {s : Bool} {t : ℚ} {n N : Nat} (h : RoundsInt mode s t n) (ht : N ≤ t) : N ≤ n := by
  have := (abs_lt.1 h.near).1
  exact Nat.lt_succ_iff.1 (by exact_mod_cast (by push_cast; linarith : (N : ℚ) < (n.succ : ℕ)))

/-- The place in the format of n units of 2^q, as `Fmt.roundMag` computes it. -/
theorem Fmt.mag_of_units (f : Fmt) {q : Int} (hq : f.emin ≤ q) {n : Nat} (hn : n ≤ 2 ^ (f.frac + 1)) (low : n < 2 ^ f.frac → q = f.emin) :
    f.mag (if n < 2 ^ f.frac then n else (q - f.emin + 1).toNat * 2 ^ f.frac + (n - 2 ^ f.frac)) = n * 2 ^ q := by
  split
  next h => rw [low h, f.mag_low h]
  next h =>
    obtain ⟨i, hi⟩ := Int.eq_ofNat_of_zero_le (sub_nonneg.2 hq)
    have exp : f.emin + i = q := by omega
    have place : (q - f.emin + 1).toNat = i + 1 := by omega
    have whole : 2 ^ f.frac + (n - 2 ^ f.frac) = n := by omega
    rw [place, f.mag_binade i (by rw [pow_succ] at hn; omega), whole, exp]

theorem Fmt.parity_of_units {f : Fmt} (hf : 1 ≤ f.frac) (i n : Nat) :
    (if n < 2 ^ f.frac then n else i * 2 ^ f.frac + (n - 2 ^ f.frac)) % 2 = n % 2 := by
  have even : 2 ∣ 2 ^ f.frac := dvd_pow_self 2 (by omega)
  have : 2 ∣ i * 2 ^ f.frac := even.mul_left i
  split <;> omega

theorem Brackets.pow_le {m : Nat} {e : Int} {b : Bool} {y : ℚ} (h : Brackets m e b y) (hm : m ≠ 0) : 2 ^ ((Nat.log2 m : Int) + e) ≤ y := by
  rw [zpow_add₀ two_ne_zero, zpow_natCast]
  refine le_trans ?_ h.le
  gcongr
  exact_mod_cast Nat.log2_self_le hm

theorem Brackets.lt_pow {m : Nat} {e : Int} {b : Bool} {y : ℚ} (h : Brackets m e b y) : y < 2 ^ ((Nat.log2 m : Int) + 1 + e) := by
  refine h.lt.trans_le ?_
  rw [zpow_add₀ two_ne_zero, ← Nat.cast_succ]
  gcongr
  exact_mod_cast Nat.lt_log2_self

/-- One rounding to a format: the unit of the last place is 2^q, and n units of it are the result. -/
theorem Fmt.roundMag_of_ne_zero (f : Fmt) (mode : Nat) (s : Bool) {m : Nat} (e : Int) (b : Bool) (hm : m ≠ 0) :
    f.roundMag mode s m e b =
      let q := Max.max ((Nat.log2 m : Int) + e - (f.frac : Int)) f.emin
      let n := roundAt mode s m e q b
      if n < 2 ^ f.frac then n else (q - f.emin + 1).toNat * 2 ^ f.frac + (n - 2 ^ f.frac) := by
  simp only [roundMag, beq_iff_eq, hm, Bool.and_eq_true, false_and, if_false]

theorem Fmt.roundMag_zero (f : Fmt) (mode : Nat) (s : Bool) (e : Int) : f.roundMag mode s 0 e false = 0 := rfl

/-- `Fmt.roundMag` rounds the number that its arguments bracket. -/
theorem Fmt.roundsFree_roundMag {f : Fmt} (hf : 1 ≤ f.frac) (mode : Nat) (s : Bool) {m : Nat} {e : Int} {b : Bool} {y : ℚ}
    (h : Brackets m e b y) (hb : b = true → f.frac < Nat.log2 m) : f.RoundsFree mode s y (f.roundMag mode s m e b) := by
  intro top hk
  by_cases hm : m = 0
  · subst hm
    cases b with
    | true => exact absurd (hb rfl) (by simp)
    | false =>
      rw [f.roundMag_zero] at hk ⊢
      rw [show y = _ from h, Nat.cast_zero, zero_mul]
      have zero : RoundsInt mode s (0 / 2 ^ f.emin) 0 := by simpa using roundsInt_self mode s 0
      refine roundsIn_of_roundsInt f.mag_strictMono (by positivity) zero (by simp) rfl (fun j => ?_) hk
      exact (f.mag_multiple le_rfl j).imp_right fun ⟨lt, _⟩ => absurd lt (lt_irrefl _)
  · rw [f.roundMag_of_ne_zero mode s e b hm] at hk ⊢
    dsimp only at hk ⊢
    have hq : f.emin ≤ Max.max ((Nat.log2 m : Int) + e - (f.frac : Int)) f.emin := le_max_right _ _
    have log_le : (Nat.log2 m : Int) + e - (f.frac : Int) ≤ Max.max ((Nat.log2 m : Int) + e - (f.frac : Int)) f.emin := le_max_left _ _
    have log_eq : f.emin < Max.max ((Nat.log2 m : Int) + e - (f.frac : Int)) f.emin →
        Max.max ((Nat.log2 m : Int) + e - (f.frac : Int)) f.emin = (Nat.log2 m : Int) + e - (f.frac : Int) := by omega
    generalize Max.max ((Nat.log2 m : Int) + e - (f.frac : Int)) f.emin = q at hk hq log_le log_eq ⊢
    have unit : (0 : ℚ) < 2 ^ q := by positivity
    have hn := roundsInt_roundAt mode s h (q := q) fun t => by have := hb t; omega
    have base : f.emin < q → (2 ^ f.frac : ℕ) * 2 ^ q ≤ y := fun lt => by
      rw [Nat.cast_pow, Nat.cast_ofNat, ← zpow_natCast, ← zpow_add₀ two_ne_zero]
      exact le_of_eq_of_le (by rw [log_eq lt, add_sub_cancel]) (h.pow_le hm)
    have small : roundAt mode s m e q b ≤ 2 ^ (f.frac + 1) := by
      refine hn.le ((div_le_iff₀ unit).2 (h.lt_pow.le.trans ?_))
      rw [Nat.cast_pow, Nat.cast_ofNat, ← zpow_natCast, ← zpow_add₀ two_ne_zero]
      exact zpow_le_zpow_right₀ one_le_two (by push_cast; omega)
    have low : roundAt mode s m e q b < 2 ^ f.frac → q = f.emin := fun lt => by
      by_contra ne
      exact lt.not_ge (hn.ge ((le_div_iff₀ unit).2 (base (by omega))))
    refine roundsIn_of_roundsInt f.mag_strictMono unit hn (f.mag_of_units hq small low) (parity_of_units hf _ _) (fun j => ?_) hk
    exact (f.mag_multiple hq j).imp_right fun ⟨lt, below⟩ => ⟨_, below, base lt⟩

/-! ### What a rounding satisfies -/

theorem abs_sub_le_abs_sub_iff {a b : ℚ} (h : a < b) (y : ℚ) : |b - y| ≤ |a - y| ↔ a + b ≤ 2 * y := by
  rw [← sq_le_sq]
  constructor <;> intro <;> nlinarith

theorem abs_sub_eq_abs_sub_iff {a b : ℚ} (h : a < b) (y : ℚ) : |b - y| = |a - y| ↔ a + b = 2 * y := by
  rw [← sq_eq_sq_iff_abs_eq_abs]
  constructor
  · intro eq
    exact mul_left_cancel₀ (sub_pos.2 h).ne' (by linarith)
  · intro eq
    nlinarith

theorem roundsIn_nearest {v : Nat → ℚ} {top mode : Nat} {s : Bool} {y : ℚ} {k : Nat} (h : ¬ TowardZero mode s) (h' : ¬ FromZero mode s) :
    RoundsIn v top mode s y k ↔
      k < top ∧ ∀ j, j < top → |v k - y| ≤ |v j - y| ∧ (|v k - y| = |v j - y| → j = k ∨ if mode = 0 then k % 2 = 0 else j ≤ k) := by
  rw [RoundsIn, if_neg h, if_neg h']

theorem roundsIn_congr {v w : Nat → ℚ} {top : Nat} (h : ∀ j, j < top → v j = w j) {mode : Nat} {s : Bool} {y : ℚ} {k : Nat} :
    RoundsIn v top mode s y k ↔ RoundsIn w top mode s y k := by
  rw [RoundsIn, RoundsIn]
  split
  · exact and_congr_right fun hk => by rw [h k hk]; exact and_congr_right' (forall₂_congr fun j hj => by rw [h j hj])
  split
  · exact and_congr_right fun _ => and_congr (forall_congr' fun hk => by rw [h k hk]) (forall₂_congr fun j hj => by rw [h j hj])
  · exact and_congr_right fun hk => forall₂_congr fun j hj => by rw [h j hj, h k hk]

section
variable {f : Fmt} {mode : Nat} {s : Bool} {y : ℚ} {k : Nat} (h : f.RoundsFree mode s y k)
include h

theorem Fmt.RoundsFree.le_iff_of_toward (toward : TowardZero mode s) (N : Nat) : N ≤ k ↔ f.mag N ≤ y := by
  have := h (Max.max k N + 1) (by omega)
  rw [RoundsIn, if_pos toward] at this
  obtain ⟨-, below, greatest⟩ := this
  exact ⟨fun le => (f.mag_strictMono.monotone le).trans below, greatest N (by omega)⟩

theorem Fmt.RoundsFree.lt_iff_of_from (toward : ¬ TowardZero mode s) (away : FromZero mode s) (N : Nat) : N < k ↔ f.mag N < y := by
  have := h (Max.max k N + 1) (by omega)
  rw [RoundsIn, if_neg toward, if_pos away] at this
  obtain ⟨-, above, least⟩ := this
  constructor
  · exact fun lt => not_le.1 fun le => lt.not_ge (least N (by omega) le)
  · exact fun lt => f.mag_strictMono.lt_iff_lt.1 (lt.trans_le (above (by omega)))

theorem Fmt.RoundsFree.nearest (toward : ¬ TowardZero mode s) (away : ¬ FromZero mode s) (j : Nat) :
    |f.mag k - y| ≤ |f.mag j - y| ∧ (|f.mag k - y| = |f.mag j - y| → j = k ∨ if mode = 0 then k % 2 = 0 else j ≤ k) :=
  ((roundsIn_nearest toward away).1 (h (Max.max k j + 1) (by omega))).2 j (by omega)

/-- A nearest rounding goes past N from the middle on, where N is odd. -/
theorem Fmt.RoundsFree.lt_iff_of_nearest (toward : ¬ TowardZero mode s) (away : ¬ FromZero mode s) {N : Nat} (odd : N % 2 = 1) :
    N < k ↔ f.mag N + f.mag (N + 1) ≤ 2 * y := by
  constructor
  · intro lt
    have := (abs_sub_le_abs_sub_iff (f.mag_strictMono lt) y).1 (h.nearest toward away N).1
    have := f.mag_strictMono.monotone (Nat.succ_le_of_lt lt)
    rw [Nat.succ_eq_add_one] at this
    linarith
  · intro middle
    by_contra ge
    have lt := f.mag_strictMono (by omega : k < N + 1)
    have back := (abs_sub_le_abs_sub_iff lt y).2 ((add_le_add_left (f.mag_strictMono.monotone (not_lt.1 ge)) _).trans middle)
    obtain ⟨near, tie⟩ := h.nearest toward away (N + 1)
    have eq := (abs_sub_eq_abs_sub_iff lt y).1 (le_antisymm back near)
    obtain rfl : k = N := by
      refine le_antisymm (not_lt.1 ge) (f.mag_strictMono.le_iff_le.1 (by linarith))
    have := tie (le_antisymm near back)
    split at this <;> omega

/-- A rounding keeps to the numbers between which it starts. -/
theorem Fmt.RoundsFree.le {N : Nat} (hy : y ≤ f.mag N) : k ≤ N := by
  by_contra lt
  rw [not_le] at lt
  have gap := f.mag_strictMono lt
  by_cases toward : TowardZero mode s
  · exact ((h.le_iff_of_toward toward k).1 le_rfl).not_gt (hy.trans_lt gap)
  by_cases away : FromZero mode s
  · exact ((h.lt_iff_of_from toward away N).1 lt).not_ge hy
  · have := (abs_sub_le_abs_sub_iff gap y).1 (h.nearest toward away N).1
    linarith

theorem Fmt.RoundsFree.ge {N : Nat} (hy : f.mag N ≤ y) : N ≤ k := by
  by_contra lt
  rw [not_le] at lt
  have gap := f.mag_strictMono lt
  by_cases toward : TowardZero mode s
  · exact lt.not_ge ((h.le_iff_of_toward toward N).2 hy)
  by_cases away : FromZero mode s
  · exact (lt_irrefl k) ((h.lt_iff_of_from toward away k).2 (gap.trans_le hy))
  · obtain ⟨near, -⟩ := h.nearest toward away N
    have back := (abs_sub_le_abs_sub_iff gap y).2 (by linarith)
    have := (abs_sub_eq_abs_sub_iff gap y).1 (le_antisymm back near)
    linarith

end

/-- A number of the format rounds to itself. -/
theorem Fmt.RoundsFree.eq_of_exact {f : Fmt} {mode : Nat} {s : Bool} {k j : Nat} (h : f.RoundsFree mode s (f.mag j) k) : k = j :=
  le_antisymm (h.le le_rfl) (h.ge le_rfl)

end Sys2Proof.Machine
end

section
/-! Encodings and the exact values that they stand for; sums, products and conversions to F32, F16 and B16 are their exact values rounded
once (04 R70, R71, 06 R116). -/

namespace Sys2Proof.Machine

/-! ### Encodings -/

/-- The sign of an encoding, and what it weighs. -/
def Fmt.signBits (f : Fmt) (s : Bool) : Nat := if s then f.signW else 0

theorem Fmt.infMag_lt_signW (f : Fmt) : f.infMag < f.signW := by
  rw [infMag, signW, pow_add]
  exact Nat.mul_lt_mul_of_pos_right (Nat.sub_lt (by positivity) one_pos) (by positivity)

theorem Fmt.signBits_add (f : Fmt) (s : Bool) {k : Nat} (h : k < f.signW) :
    ((f.signBits s + k) / f.signW % 2 == 1) = s ∧ (f.signBits s + k) % f.signW = k := by
  have pos : 0 < f.signW := by rw [signW]; positivity
  cases s
  · simp [signBits, Nat.div_eq_of_lt h, Nat.mod_eq_of_lt h]
  · simp [signBits, Nat.add_div_left _ pos, Nat.div_eq_of_lt h, Nat.mod_eq_of_lt h]

/-- The number that an encoding of a sign and a magnitude below the infinity stands for. -/
theorem Fmt.val_signBits_add (f : Fmt) (s : Bool) {k : Nat} (h : k < f.infMag) :
    f.val (f.signBits s + k) = f.finite s (k / 2 ^ f.frac) (k % 2 ^ f.frac) := by
  obtain ⟨sign, rest⟩ := f.signBits_add s (h.trans f.infMag_lt_signW)
  obtain ⟨ex, fr⟩ := f.mod_signW (f.signBits s + k)
  rw [rest] at ex fr
  have lt : k / 2 ^ f.frac < 2 ^ f.ebits - 1 := Nat.div_lt_of_lt_mul (by rwa [mul_comm])
  simp only [val, sign, ← ex, ← fr, beq_iff_eq, lt.ne, if_false]

theorem Fmt.val_infMag (f : Fmt) (s : Bool) : f.val (f.signBits s + f.infMag) = .inf s := by
  obtain ⟨sign, rest⟩ := f.signBits_add s f.infMag_lt_signW
  obtain ⟨ex, fr⟩ := f.mod_signW (f.signBits s + f.infMag)
  have quot : f.infMag / 2 ^ f.frac = 2 ^ f.ebits - 1 := Nat.mul_div_cancel _ (by positivity)
  have rem : f.infMag % 2 ^ f.frac = 0 := Nat.mul_mod_left _ _
  rw [rest, quot] at ex
  rw [rest, rem] at fr
  simp [val, sign, ← ex, ← fr]

theorem Fmt.finite_fin (f : Fmt) (s : Bool) (ex fr : Nat) : (f.finite s ex fr).Fin := by
  rw [finite]; split <;> exact ⟨rfl, fun _ h => by cases h⟩

theorem Fmt.finite_sgn (f : Fmt) (s : Bool) (ex fr : Nat) : (f.finite s ex fr).sgn = s := by
  rw [finite]; split <;> rfl

theorem Fmt.finite_rat (f : Fmt) (s : Bool) (k : Nat) :
    (f.finite s (k / 2 ^ f.frac) (k % 2 ^ f.frac)).rat = (if s then -1 else 1) * f.mag k := by
  rw [mag, finite, finite]
  split <;> simp only [Val.rat, Bool.false_eq_true, if_false, one_mul, mul_assoc]

theorem Fmt.rat_signBits_add (f : Fmt) (s : Bool) {k : Nat} (h : k < f.infMag) :
    (f.val (f.signBits s + k)).rat = (if s then -1 else 1) * f.mag k := by
  rw [f.val_signBits_add s h, f.finite_rat]

theorem Fmt.rat_of_lt (f : Fmt) {k : Nat} (h : k < f.infMag) : (f.val k).rat = f.mag k := by
  simpa [signBits] using f.rat_signBits_add false h

theorem Fmt.narrow_of_lt (f : Fmt) {k : Nat} (h : k < f.signW) :
    f.narrow k = f.finite false (k / 2 ^ f.frac) (k % 2 ^ f.frac) := by
  have ex : k / 2 ^ f.frac < 2 ^ f.ebits := Nat.div_lt_of_lt_mul (by rwa [signW, add_comm, pow_add] at h)
  simp [narrow, Nat.mod_eq_of_lt (by omega : k < 2 * f.signW), h.ne, Nat.div_eq_of_lt h, Nat.mod_eq_of_lt ex]

theorem Fmt.rat_narrow_of_lt (f : Fmt) {k : Nat} (h : k < f.signW) : (f.narrow k).rat = f.mag k := by
  rw [f.narrow_of_lt h, mag]

/-! ### Overflow (04 R71) -/

theorem Fmt.Wide.frac_pos {f : Fmt} (hf : f.Wide) : 1 ≤ f.frac := by
  obtain rfl | rfl | rfl := hf <;> decide

/-- The exponents above the least binade, and where they end. -/
theorem Fmt.Wide.exponents {f : Fmt} (hf : f.Wide) :
    (∃ i, f.infMag = (i + 1) * 2 ^ f.frac + 2 ^ f.frac ∧ f.emin + i + f.frac = f.bias) ∧ f.infMag % 2 = 0 := by
  obtain rfl | rfl | rfl := hf
  · exact ⟨⟨253, by decide⟩, by decide⟩
  · exact ⟨⟨29, by decide⟩, by decide⟩
  · exact ⟨⟨253, by decide⟩, by decide⟩

theorem Fmt.Wide.infMag_pos {f : Fmt} (hf : f.Wide) : 0 < f.infMag := by
  obtain ⟨⟨i, top, -⟩, -⟩ := hf.exponents
  rw [top]; positivity

theorem Fmt.Wide.mag_infMag {f : Fmt} (hf : f.Wide) : f.mag f.infMag = 2 ^ (f.bias + 1) := by
  obtain ⟨⟨i, top, exp⟩, -⟩ := hf.exponents
  have unit : (2 : ℚ) ^ (f.bias + 1) = 2 * 2 ^ f.frac * 2 ^ (f.emin + i) := by
    rw [mul_assoc, ← zpow_natCast 2 f.frac, ← zpow_add₀ two_ne_zero, add_comm (f.frac : ℤ), exp, zpow_natCast, pow_succ']
  rw [top, f.mag_binade i le_rfl, unit]
  push_cast
  ring

/-- The limit of a nearest rounding is the middle between the largest number and the next that an unbounded exponent would give. -/
theorem Fmt.Wide.two_limit {f : Fmt} (hf : f.Wide) : 2 * f.limit = f.mag (f.infMag - 1) + f.mag f.infMag := by
  obtain ⟨⟨i, top, exp⟩, -⟩ := hf.exponents
  obtain ⟨c, hc⟩ := Nat.exists_eq_succ_of_ne_zero (n := 2 ^ f.frac) (by positivity)
  have below : f.infMag - 1 = (i + 1) * 2 ^ f.frac + c := by omega
  have hc' : (c : ℚ) = 2 ^ f.frac - 1 := by rw [eq_sub_iff_add_eq]; exact_mod_cast hc.symm
  have unit : (2 : ℚ) ^ f.bias = 2 ^ f.frac * 2 ^ (f.emin + i) := by
    rw [← zpow_natCast 2 f.frac, ← zpow_add₀ two_ne_zero, add_comm (f.frac : ℤ), exp, zpow_natCast]
  rw [hf.mag_infMag, below, f.mag_binade i (by omega), limit, pow_succ 2 f.bias, unit]
  push_cast
  rw [hc']
  field_simp
  ring

/-- `Fmt.pack` tells the modes that round toward zero. -/
theorem pack_toward_iff {mode : Nat} {s : Bool} : (mode == 1 || (mode == 2 && s) || (mode == 3 && !s)) = true ↔ TowardZero mode s := by
  simp only [TowardZero, Bool.or_eq_true, Bool.and_eq_true, beq_iff_eq, Bool.not_eq_true', or_assoc]

theorem Fmt.RoundsFree.roundsIn_of_lt {f : Fmt} {mode : Nat} {s : Bool} {y : ℚ} {k : Nat} (h : f.RoundsFree mode s y k) (lt : k < f.infMag) :
    RoundsIn (fun j => (f.val j).rat) f.infMag mode s y k :=
  (roundsIn_congr fun _ hj => f.rat_of_lt hj).2 (h _ lt)

section
variable {f : Fmt} (hf : f.Wide) {mode : Nat} {s : Bool} {y : ℚ} {k : Nat} (h : f.RoundsFree mode s y k)
include hf h

/-- A rounding with an unbounded exponent reaches the encoding of the infinity just where the magnitude overflows. -/
theorem Fmt.RoundsFree.infMag_le_iff : f.infMag ≤ k ↔ f.Overflows mode s y := by
  have even := hf.exponents.2
  have pos := hf.infMag_pos
  rw [Overflows]
  split
  next toward => rw [h.le_iff_of_toward toward, hf.mag_infMag]
  split
  next toward away =>
    rw [f.rat_of_lt (by omega), ← h.lt_iff_of_from toward away]
    omega
  next toward away =>
    have := h.lt_iff_of_nearest toward away (N := f.infMag - 1) (by omega)
    rw [Nat.sub_add_cancel pos, ← hf.two_limit, mul_le_mul_iff_of_pos_left two_pos] at this
    rw [← this]
    omega

theorem Fmt.RoundsFree.infMag_le_of_limit (toward : ¬ TowardZero mode s) (le : f.limit ≤ y) : f.infMag ≤ k := by
  rw [h.infMag_le_iff hf, Overflows, if_neg toward]
  have := f.mag_strictMono (Nat.sub_lt hf.infMag_pos one_pos)
  have pos := hf.infMag_pos
  split
  · rw [f.rat_of_lt (by omega)]
    linarith [hf.two_limit]
  · exact le

/-- A magnitude rounded with an unbounded exponent and packed is the magnitude rounded to the format. -/
theorem Fmt.RoundsFree.rounded_pack : f.Rounded mode s y (f.pack mode s k) := by
  have pos := hf.infMag_pos
  by_cases lt : k < f.infMag
  · refine ⟨k, by simp [pack, lt], ?_⟩
    rw [if_neg fun ⟨le, toward⟩ => lt.not_ge (h.infMag_le_of_limit hf toward le)]
    exact h.roundsIn_of_lt lt
  by_cases toward : TowardZero mode s
  · have packed : f.pack mode s k = (if s then f.signW else 0) + (f.infMag - 1) := by
      rw [pack, if_neg lt, if_pos (pack_toward_iff.2 toward)]
    refine ⟨f.infMag - 1, packed, ?_⟩
    rw [if_neg fun h' => h'.2 toward, roundsIn_congr fun _ hj => f.rat_of_lt hj, RoundsIn, if_pos toward]
    exact ⟨by omega, (h.le_iff_of_toward toward _).1 (by omega), fun j hj _ => by omega⟩
  · have packed : f.pack mode s k = (if s then f.signW else 0) + f.infMag := by
      rw [pack, if_neg lt, if_neg (mt pack_toward_iff.1 toward)]
    refine ⟨f.infMag, packed, ?_⟩
    split
    next => rfl
    next below =>
      have small : y < f.limit := not_le.1 fun le => below ⟨le, toward⟩
      have past := (h.infMag_le_iff hf).1 (not_lt.1 lt)
      rw [Overflows, if_neg toward] at past
      split at past
      next away =>
        rw [f.rat_of_lt (by omega)] at past
        rw [roundsIn_congr fun _ hj => f.rat_of_lt hj, RoundsIn, if_neg toward, if_pos away]
        refine ⟨le_rfl, fun lt => absurd lt (lt_irrefl _), fun j hj le => ?_⟩
        have := f.mag_strictMono.lt_iff_lt.1 (past.trans_le le)
        omega
      next => exact absurd past small.not_ge

end

end Sys2Proof.Machine
end

section
/-! Exact operations and their single rounding (04 R70, 06 R116, R117). -/

namespace Sys2Proof.Machine

/-! ### Finite values -/

theorem Val.fin_fin (s : Bool) (m : Nat) (e : Int) : (Val.fin s m e).Fin := ⟨rfl, fun _ h => by cases h⟩

theorem Val.Fin.exists {v : Val} (h : v.Fin) : ∃ s m e, v = .fin s m e := by
  cases v with
  | nan => exact absurd h.1 (by simp [Val.isNan])
  | inf s => exact absurd rfl (h.2 s)
  | fin s m e => exact ⟨s, m, e, rfl⟩

/-- The sign as a factor. -/
def signFactor (s : Bool) : ℚ := if s then -1 else 1

theorem Val.rat_fin (s : Bool) (m : Nat) (e : Int) : (Val.fin s m e).rat = signFactor s * (m * 2 ^ e) := by
  rw [Val.rat, mul_assoc]; rfl

theorem abs_signFactor_mul (s : Bool) {t : ℚ} (h : 0 ≤ t) : |signFactor s * t| = t := by
  cases s <;> simp [signFactor, abs_of_nonneg h]

theorem signFactor_mul_eq_zero {s : Bool} {t : ℚ} : signFactor s * t = 0 ↔ t = 0 := by
  cases s <;> simp [signFactor]

theorem signFactor_mul_neg_iff {s : Bool} {t : ℚ} (h : 0 < t) : signFactor s * t < 0 ↔ s = true := by
  cases s <;> simp [signFactor, h, h.le]

theorem signFactor_bne (s t : Bool) : signFactor (s != t) = signFactor s * signFactor t := by
  cases s <;> cases t <;> simp [signFactor]

theorem signFactor_not (s : Bool) : signFactor (!s) = -signFactor s := by
  cases s <;> simp [signFactor]

theorem Val.abs_rat_fin (s : Bool) (m : Nat) (e : Int) : |(Val.fin s m e).rat| = m * 2 ^ e := by
  rw [Val.rat_fin, abs_signFactor_mul s (by positivity)]

theorem Val.rat_fin_eq_zero {s : Bool} {m : Nat} {e : Int} : (Val.fin s m e).rat = 0 ↔ m = 0 := by
  rw [Val.rat_fin, signFactor_mul_eq_zero, mul_eq_zero_iff_right (by positivity), Nat.cast_eq_zero]

/-- The sign of a number is that of its value; a zero alone has one of its own. -/
theorem Val.sgn_fin_iff (s : Bool) (m : Nat) (e : Int) :
    s = true ↔ (Val.fin s m e).rat < 0 ∨ (Val.fin s m e).rat = 0 ∧ s = true := by
  obtain rfl | pos := m.eq_zero_or_pos
  · simp [Val.rat]
  · have : (0 : ℚ) < m * 2 ^ e := by positivity
    rw [Val.rat_fin, signFactor_mul_neg_iff this, signFactor_mul_eq_zero]
    simp [this.ne']

/-! ### Rounding a value -/

theorem brackets_self (m : Nat) (e : Int) : Brackets m e false (m * 2 ^ e) := rfl

theorem Fmt.roundsFree_exact {f : Fmt} (hf : 1 ≤ f.frac) (mode : Nat) (s : Bool) (m : Nat) (e : Int) :
    f.RoundsFree mode s (m * 2 ^ e) (f.roundMag mode s m e false) :=
  roundsFree_roundMag hf mode s (brackets_self m e) (by simp)

theorem Fmt.rounded_round {f : Fmt} (hf : f.Wide) (mode : Nat) (s : Bool) (m : Nat) (e : Int) :
    f.Rounded mode s (m * 2 ^ e) (f.round mode (.fin s m e)) :=
  (roundsFree_exact hf.frac_pos mode s m e).rounded_pack hf

/-- A value rounded is the exact x rounded once, when it is x and has the sign of a zero that is asked for. -/
theorem Fmt.gives_round {f : Fmt} (hf : f.Wide) (mode : Nat) {v : Val} (hv : v.Fin) {x : ℚ} {z : Prop} (hx : v.rat = x)
    (hz : x = 0 → (v.sgn = true ↔ z)) : f.Gives mode x z (f.round mode v) := by
  obtain ⟨s, m, e, rfl⟩ := hv.exists
  refine ⟨s, ?_, ?_⟩
  · rw [← hx, Val.abs_rat_fin]
    exact rounded_round hf mode s m e
  · rw [Val.sgn_fin_iff s m e, hx]
    exact or_congr_right (and_congr_right hz)

/-! ### Exact operations -/

theorem Val.Fin.neg {v : Val} (h : v.Fin) : v.neg.Fin ∧ v.neg.rat = -v.rat ∧ v.neg.sgn = !v.sgn := by
  obtain ⟨s, m, e, rfl⟩ := h.exists
  refine ⟨Val.fin_fin _ _ _, ?_, rfl⟩
  rw [Val.neg, Val.rat_fin, Val.rat_fin, signFactor_not, neg_mul]

theorem Val.Fin.mul {v w : Val} (hv : v.Fin) (hw : w.Fin) :
    (v.mul w).Fin ∧ (v.mul w).rat = v.rat * w.rat ∧ (v.mul w).sgn = (v.sgn != w.sgn) := by
  obtain ⟨s, m, e, rfl⟩ := hv.exists
  obtain ⟨t, n, d, rfl⟩ := hw.exists
  refine ⟨Val.fin_fin _ _ _, ?_, rfl⟩
  rw [Val.mul, Val.rat_fin, Val.rat_fin, Val.rat_fin, signFactor_bne, zpow_add₀ two_ne_zero]
  push_cast
  ring

theorem scaled_mul (s : Bool) (m : Nat) {e q : Int} (h : q ≤ e) : (scaled s m e q : ℚ) * 2 ^ q = (Val.fin s m e).rat := by
  have unit : ((2 ^ (e - q).toNat : ℕ) : ℚ) * 2 ^ q = 2 ^ e := by
    rw [← zpow_toNat (by omega), ← zpow_add₀ two_ne_zero, sub_add_cancel]
  rw [Val.rat_fin, ← unit, scaled]
  cases s <;> simp [signFactor, mul_assoc]

theorem Val.Fin.add {v w : Val} (hv : v.Fin) (hw : w.Fin) :
    (v.add w).Fin ∧ (v.add w).rat = v.rat + w.rat ∧ ((v.add w).rat = 0 → ((v.add w).sgn = true ↔ v.sgn = true ∧ w.sgn = true)) := by
  obtain ⟨s, m, e, rfl⟩ := hv.exists
  obtain ⟨t, n, d, rfl⟩ := hw.exists
  have sum : ((scaled s m e (min e d) + scaled t n d (min e d) : ℤ) : ℚ) * 2 ^ min e d = (Val.fin s m e).rat + (Val.fin t n d).rat := by
    rw [Int.cast_add, add_mul, scaled_mul s m (min_le_left e d), scaled_mul t n (min_le_right e d)]
  rw [← sum, Val.add]
  generalize scaled s m e (min e d) + scaled t n d (min e d) = x
  have value : (Val.fin (if x == 0 then s && t else decide (x < 0)) x.natAbs (min e d)).rat = x * 2 ^ min e d := by
    rw [Val.rat_fin, ← mul_assoc]
    congr 1
    obtain neg | rfl | pos := lt_trichotomy x 0
    · simp [signFactor, neg, neg.ne, Nat.cast_natAbs, abs_of_neg neg]
    · simp
    · simp [signFactor, pos.ne', pos.le, Nat.cast_natAbs, abs_of_pos pos]
  refine ⟨Val.fin_fin _ _ _, value, fun zero => ?_⟩
  have : x = 0 := by simpa using Val.rat_fin_eq_zero.1 zero
  simp [this, Val.sgn]

theorem firstNan_of_fin {l : List Val} (h : ∀ v ∈ l, v.Fin) : firstNan l = none :=
  List.find?_eq_none.2 fun v hv => by simp [(h v hv).1]

theorem Fmt.gives_product {f : Fmt} (hf : f.Wide) {v w : Val} (hv : v.Fin) (hw : w.Fin) :
    f.Gives 0 (v.rat * w.rat) (v.sgn ≠ w.sgn) (f.op [v, w] (v.mul w)) := by
  obtain ⟨fin, rat, sgn⟩ := hv.mul hw
  rw [f.op_of_numbers (firstNan_of_fin (by simp [hv, hw]))]
  exact gives_round hf 0 fin rat fun _ => by rw [sgn, bne_iff_ne]

section
variable {f : Fmt} (hf : f.Wide) {a b c : Nat} (ha : (f.val a).Fin) (hb : (f.val b).Fin)
include hf ha hb

theorem Fmt.gives_add : f.Gives 0 ((f.val a).rat + (f.val b).rat) ((f.val a).sgn = true ∧ (f.val b).sgn = true) (f.add a b) := by
  obtain ⟨fin, rat, sgn⟩ := ha.add hb
  rw [Fmt.add, f.op_of_numbers (firstNan_of_fin (by simp [ha, hb]))]
  exact gives_round hf 0 fin rat (rat ▸ sgn)

theorem Fmt.gives_sub : f.Gives 0 ((f.val a).rat - (f.val b).rat) ((f.val a).sgn = true ∧ (f.val b).sgn = false) (f.sub a b) := by
  obtain ⟨fin', rat', sgn'⟩ := hb.neg
  obtain ⟨fin, rat, sgn⟩ := ha.add fin'
  rw [Fmt.sub, f.op_of_numbers (firstNan_of_fin (by simp [ha, hb]))]
  rw [rat', ← sub_eq_add_neg] at rat
  rw [sgn', Bool.not_eq_true'] at sgn
  exact gives_round hf 0 fin rat (rat ▸ sgn)

theorem Fmt.gives_fma (hc : (f.val c).Fin) : f.Gives 0 ((f.val a).rat * (f.val b).rat + (f.val c).rat)
    ((f.val a).sgn ≠ (f.val b).sgn ∧ (f.val c).sgn = true) (f.fma a b c) := by
  obtain ⟨fin', rat', sgn'⟩ := ha.mul hb
  obtain ⟨fin, rat, sgn⟩ := fin'.add hc
  rw [Fmt.fma, f.op_of_numbers (firstNan_of_fin (by simp [ha, hb, hc]))]
  rw [rat'] at rat
  rw [sgn', bne_iff_ne] at sgn
  exact gives_round hf 0 fin rat (rat ▸ sgn)

end

/-! ### Rounding to an integer with its sign -/

theorem floor_of_roundsInt {t : ℚ} {k : Nat} (h : k ≤ t ∧ t < k + 1) : ⌊t⌋ = k := Int.floor_eq_iff.2 (by exact_mod_cast h)

theorem ceil_of_roundsInt {t : ℚ} {k : Nat} (h : t ≤ k ∧ k < t + 1) : ⌈t⌉ = k :=
  Int.ceil_eq_iff.2 ⟨by push_cast; linarith, by exact_mod_cast h.1⟩

/-- The rounding of a magnitude with its sign is the rounding of the number. -/
theorem whole_of_roundsInt {mode : Nat} {s : Bool} {t : ℚ} (ht : 0 ≤ t) {k : Nat} (h : RoundsInt mode s t k) :
    Whole mode (signFactor s * t) (if s then -k else k : ℤ) := by
  have dist : |(((if s then -k else k : ℤ) : ℤ) : ℚ) - signFactor s * t| = |(k : ℚ) - t| := by
    cases s
    · simp [signFactor]
    · rw [← abs_neg]; congr 1; simp [signFactor]; ring
  rw [Whole]
  split
  next one =>
    have floor := floor_of_roundsInt ((roundsInt_toward (.inl one)).1 h)
    cases s
    · simp [signFactor, ht.not_gt, floor]
    · obtain rfl | pos := ht.eq_or_lt
      · simpa [signFactor] using floor.symm
      · simp [signFactor, pos, Int.ceil_neg, floor]
  split
  next two =>
    cases s
    · simp [signFactor, ceil_of_roundsInt ((roundsInt_from (by simp [TowardZero, two]) (.inl ⟨two, rfl⟩)).1 h)]
    · simp [signFactor, Int.ceil_neg, floor_of_roundsInt ((roundsInt_toward (.inr (.inl ⟨two, rfl⟩))).1 h)]
  split
  next three =>
    cases s
    · simp [signFactor, floor_of_roundsInt ((roundsInt_toward (.inr (.inr ⟨three, rfl⟩))).1 h)]
    · simp [signFactor, Int.floor_neg, ceil_of_roundsInt ((roundsInt_from (by simp [TowardZero, three]) (.inr ⟨three, rfl⟩)).1 h)]
  next one two three =>
    rw [RoundsInt, if_neg (by simp [TowardZero, one, two, three]), if_neg (by simp [FromZero, two, three])] at h
    rw [dist, abs_signFactor_mul s ht]
    refine h.imp_right fun tie eq => ?_
    have := tie eq
    split
    next even =>
      rw [if_pos even] at this
      cases s <;> simp <;> omega
    next =>
      rw [if_neg ‹_›] at this
      cases s <;> simpa using this

theorem whole_toInt (mode : Nat) {v : Val} (h : v.Fin) : Whole mode v.rat (v.toInt mode) := by
  obtain ⟨s, m, e, rfl⟩ := h.exists
  rw [Val.rat_fin]
  refine whole_of_roundsInt (by positivity) ?_
  simpa using roundsInt_roundAt mode s (brackets_self m e) (q := 0) (by simp)

end Sys2Proof.Machine
end

section
/-! Numbers that a format holds exactly, and the words whose result is one: `FSCALE`, `FRND` and widening conversions (04 R71, 06 R120,
R121). -/

namespace Sys2Proof.Machine

/-! ### Numbers that a format holds -/

theorem Fmt.finite_bounds {f : Fmt} {s t : Bool} {ex fr m : Nat} {e : Int} (h : f.finite s ex fr = .fin t m e) (hex : ex < 2 ^ f.ebits)
    (hfr : fr < 2 ^ f.frac) : m < 2 ^ (f.frac + 1) ∧ f.emin ≤ e ∧ e ≤ f.emin + 2 ^ f.ebits := by
  have pow : 2 ^ (f.frac + 1) = 2 * 2 ^ f.frac := pow_succ' ..
  have hex' : (ex : ℤ) < 2 ^ f.ebits := by exact_mod_cast hex
  simp only [finite, beq_iff_eq] at h
  split at h
  · cases h; exact ⟨by omega, le_rfl, by omega⟩
  · cases h; exact ⟨by omega, by omega, by omega⟩

theorem Fmt.val_fin_bounds {f : Fmt} {a : Nat} {s : Bool} {m : Nat} {e : Int} (h : f.val a = .fin s m e) :
    m < 2 ^ (f.frac + 1) ∧ f.emin ≤ e ∧ e ≤ f.emin + 2 ^ f.ebits := by
  simp only [val] at h
  split at h
  · split at h <;> cases h
  · exact finite_bounds h (Nat.mod_lt _ (by positivity)) (Nat.mod_lt _ (by positivity))

theorem Fmt.narrow_fin_bounds {f : Fmt} {a : Nat} {s : Bool} {m : Nat} {e : Int} (h : f.narrow a = .fin s m e) :
    m < 2 ^ (f.frac + 1) ∧ f.emin ≤ e ∧ e ≤ f.emin + 2 ^ f.ebits := by
  simp only [narrow] at h
  split at h
  · cases h
  · exact finite_bounds h (Nat.mod_lt _ (by positivity)) (Nat.mod_lt _ (by positivity))

/-- The magnitude of a finite number is one of those below the infinity. -/
theorem Fmt.exists_mag_of_val {f : Fmt} {a : Nat} {s : Bool} {m : Nat} {e : Int} (h : f.val a = .fin s m e) :
    ∃ k, k < f.infMag ∧ f.mag k = m * 2 ^ e := by
  have num : (f.val a).isNan = false := by rw [h]; rfl
  obtain ⟨ex, fr⟩ := f.mod_signW a
  have le := mod_signW_le num
  have lt : a % f.signW < f.infMag := by
    refine lt_of_le_of_ne le fun eq => ?_
    have quot : f.infMag / 2 ^ f.frac = 2 ^ f.ebits - 1 := Nat.mul_div_cancel _ (by positivity)
    have rem : f.infMag % 2 ^ f.frac = 0 := Nat.mul_mod_left _ _
    rw [eq, quot] at ex
    rw [eq, rem] at fr
    simp [val, ← ex, ← fr] at h
  refine ⟨_, lt, ?_⟩
  have whole : a % f.signW / 2 ^ f.frac ≠ 2 ^ f.ebits - 1 := (Nat.div_lt_of_lt_mul (by rwa [mul_comm])).ne
  simp only [val, ← ex, ← fr, beq_iff_eq, whole, if_false, finite] at h
  rw [mag, finite]
  split at h
  next zero => rw [if_pos (beq_iff_eq.2 zero)]; cases h; simp [Val.rat]
  next pos => rw [if_neg (mt beq_iff_eq.1 pos)]; cases h; simp [Val.rat]

/-- Every multiple of a reached unit with no more than the digits of the format is one of its magnitudes. -/
theorem Fmt.exists_mag (f : Fmt) (i : Nat) {c : Nat} (h : c ≤ 2 ^ (f.frac + 1)) : ∃ k, f.mag k = c * 2 ^ (f.emin + i) := by
  induction i generalizing c with
  | zero =>
    by_cases low : c < 2 ^ f.frac
    · exact ⟨c, by simpa using f.mag_low low⟩
    · refine ⟨(0 + 1) * 2 ^ f.frac + (c - 2 ^ f.frac), ?_⟩
      rw [f.mag_binade 0 (by rw [pow_succ] at h; omega), Nat.add_sub_of_le (not_lt.1 low)]
  | succ i ih =>
    by_cases low : c < 2 ^ f.frac
    · obtain ⟨k, hk⟩ := ih (c := 2 * c) (by rw [pow_succ]; omega)
      refine ⟨k, hk.trans ?_⟩
      rw [Nat.cast_succ, ← add_assoc, zpow_add_one₀ two_ne_zero]
      push_cast
      ring
    · refine ⟨(i + 1 + 1) * 2 ^ f.frac + (c - 2 ^ f.frac), ?_⟩
      rw [f.mag_binade (i + 1) (by rw [pow_succ] at h; omega), Nat.add_sub_of_le (not_lt.1 low)]

section
variable {f : Fmt} (hf : f.Wide)
include hf

theorem Fmt.Wide.exists_mag_lt {c : Nat} {d : Int} (hc : c ≤ 2 ^ (f.frac + 1)) (hd : f.emin ≤ d) (lt : (c : ℚ) * 2 ^ d < 2 ^ (f.bias + 1)) :
    ∃ k, k < f.infMag ∧ f.mag k = c * 2 ^ d := by
  obtain ⟨i, hi⟩ := Int.eq_ofNat_of_zero_le (sub_nonneg.2 hd)
  obtain ⟨k, hk⟩ := f.exists_mag i hc
  have exp : f.emin + i = d := by omega
  rw [exp] at hk
  exact ⟨k, f.mag_strictMono.lt_iff_lt.1 (by rwa [hk, hf.mag_infMag]), hk⟩

theorem Fmt.Wide.fin_lt {a : Nat} {s : Bool} {m : Nat} {e : Int} (h : f.val a = .fin s m e) : (m : ℚ) * 2 ^ e < 2 ^ (f.bias + 1) := by
  obtain ⟨k, hk, mag⟩ := exists_mag_of_val h
  rw [← mag, ← hf.mag_infMag]
  exact f.mag_strictMono hk

/-- A number that the format holds rounds to it. -/
theorem Fmt.Wide.val_round {k m : Nat} {e : Int} (hk : k < f.infMag) (h : f.mag k = m * 2 ^ e) (mode : Nat) (s : Bool) :
    (f.val (f.round mode (.fin s m e))).Fin ∧ (f.val (f.round mode (.fin s m e))).rat = (Val.fin s m e).rat
      ∧ (f.val (f.round mode (.fin s m e))).sgn = s := by
  have exact : f.roundMag mode s m e false = k :=
    Fmt.RoundsFree.eq_of_exact (by rw [h]; exact roundsFree_exact hf.frac_pos mode s m e)
  have code : f.round mode (.fin s m e) = f.signBits s + k := by
    simp [round, exact, pack, hk, signBits]
  rw [code, f.val_signBits_add s hk, f.finite_rat, h, Val.rat_fin]
  exact ⟨f.finite_fin .., rfl, f.finite_sgn ..⟩

end

/-! ### `FSCALE` and `FRND` -/

theorem wide_f32 : f32.Wide := .inl rfl

theorem f32_constants : f32.frac = 23 ∧ f32.ebits = 8 ∧ f32.bias = 127 ∧ f32.emin = -149 ∧ f32.infMag = 255 * 2 ^ 23 := by decide

theorem f32_bounds {a : Nat} {s : Bool} {m : Nat} {e : Int} (h : f32.val a = .fin s m e) : m < 2 ^ 24 ∧ -149 ≤ e ∧ e ≤ 107 := by
  have := Fmt.val_fin_bounds h
  obtain ⟨frac, ebits, -, emin, -⟩ := f32_constants
  rw [frac, ebits, emin] at this
  norm_num at this ⊢
  exact this

theorem f32_limit_le {y : ℚ} (h : 2 ^ (128 : ℤ) ≤ y) : f32.limit ≤ y := by
  refine le_trans ?_ h
  norm_num [Fmt.limit, f32, Fmt.bias]

theorem f32_mag_one : f32.mag 1 = 2 ^ (-149 : ℤ) := by
  rw [f32.mag_low (by decide), f32_constants.2.2.2.1, Nat.cast_one, one_mul]

/-- A magnitude below half the least rounds to zero. -/
theorem Fmt.RoundsFree.eq_zero {f : Fmt} {s : Bool} {y : ℚ} {k : Nat} (h : f.RoundsFree 0 s y k) (small : 2 * y < f.mag 1) : k = 0 := by
  by_contra ne
  have step := f.mag_strictMono.monotone (Nat.one_le_iff_ne_zero.2 ne)
  have := (abs_sub_le_abs_sub_iff (f.mag_strictMono (Nat.pos_of_ne_zero ne)) y).1 (h.nearest (by simp) (by simp) 0).1
  rw [f.mag_zero] at this
  linarith

theorem Fmt.roundsFree_zero (f : Fmt) (s : Bool) {y : ℚ} (h0 : 0 ≤ y) (small : 2 * y < f.mag 1) : f.RoundsFree 0 s y 0 := by
  intro top hk
  rw [roundsIn_nearest (by simp) (by simp)]
  refine ⟨hk, fun j _ => ?_⟩
  obtain rfl | pos := j.eq_zero_or_pos
  · exact ⟨le_rfl, fun _ => .inl rfl⟩
  · have := f.mag_strictMono.monotone (Nat.one_le_iff_ne_zero.2 pos.ne')
    rw [f.mag_zero, zero_sub, abs_neg, abs_of_nonneg h0, abs_of_nonneg (by linarith)]
    exact ⟨by linarith, fun eq => by linarith⟩

/-- Past the limit every magnitude has one rounding to the nearest, the infinity. -/
theorem Fmt.Rounded.of_limit {f : Fmt} {s : Bool} {y z : ℚ} {r : Nat} (h : f.Rounded 0 s y r) (hy : f.limit ≤ y) (hz : f.limit ≤ z) :
    f.Rounded 0 s z r := by
  obtain ⟨k, code, h⟩ := h
  rw [if_pos ⟨hy, by simp⟩] at h
  exact ⟨k, code, by rwa [if_pos ⟨hz, by simp⟩]⟩

theorem rounded_fscale {a : Nat} {s : Bool} {m : Nat} {e : Int} (h : f32.val a = .fin s m e) (hm : m ≠ 0) (n : Int) :
    f32.Rounded 0 s (|(f32.val a).rat| * 2 ^ n) (fscale a n) := by
  obtain ⟨mlt, le, ge⟩ := f32_bounds h
  have one : (1 : ℚ) ≤ m := by exact_mod_cast Nat.one_le_iff_ne_zero.2 hm
  have small : (m : ℚ) < 2 ^ (24 : ℤ) := by exact_mod_cast mlt
  have word : fscale a n = f32.round 0 (.fin s m (e + max (-1000) (min 1000 n))) := by simp [fscale, h, hm]
  rw [word, h, Val.abs_rat_fin, mul_assoc, ← zpow_add₀ two_ne_zero]
  have rounded := Fmt.rounded_round wide_f32 0 s m (e + max (-1000) (min 1000 n))
  have huge (d : Int) (hd : 128 ≤ d) : f32.limit ≤ m * 2 ^ d :=
    f32_limit_le ((zpow_le_zpow_right₀ one_le_two hd).trans (le_mul_of_one_le_left (by positivity) one))
  have tiny (d : Int) (hd : d ≤ -174) : 2 * (m * 2 ^ d : ℚ) < f32.mag 1 := by
    rw [f32_mag_one]
    calc (2 : ℚ) * (m * 2 ^ d) < 2 * (2 ^ (24 : ℤ) * 2 ^ d) := by gcongr
      _ = 2 ^ (25 + d) := by rw [show (25 : ℤ) + d = 1 + (24 + d) by ring, zpow_add₀ two_ne_zero, zpow_add₀ two_ne_zero, zpow_one]
      _ ≤ 2 ^ (-149 : ℤ) := zpow_le_zpow_right₀ one_le_two (by omega)
  obtain low | high | mid : n < -1000 ∨ 1000 < n ∨ (-1000 ≤ n ∧ n ≤ 1000) := by omega
  · have zero := (Fmt.roundsFree_exact (f := f32) (by decide) 0 s m (e + max (-1000) (min 1000 n))).eq_zero (tiny _ (by omega))
    rw [Fmt.round, zero]
    exact (f32.roundsFree_zero s (by positivity) (tiny _ (by omega))).rounded_pack wide_f32
  · exact rounded.of_limit (huge _ (by omega)) (huge _ (by omega))
  · rw [min_eq_right mid.2, max_eq_right mid.1] at rounded ⊢
    exact rounded

theorem whole_frnd {a : Nat} {s : Bool} {m : Nat} {e : Int} (h : f32.val a = .fin s m e) (hm : m ≠ 0) (mode : Nat) :
    ∃ n, Whole mode (f32.val a).rat n ∧ (f32.val (frnd mode a)).rat = n ∧ (f32.val (frnd mode a)).sgn = s := by
  obtain ⟨mlt, le, ge⟩ := f32_bounds h
  have word : frnd mode a = f32.round 0 (.fin s (roundAt mode s m e 0 false) 0) := by simp [frnd, h, hm]
  have near : RoundsInt mode s (m * 2 ^ e) (roundAt mode s m e 0 false) := by
    simpa using roundsInt_roundAt mode s (brackets_self m e) (q := 0) (by simp)
  have held : ∃ k, k < f32.infMag ∧ f32.mag k = (roundAt mode s m e 0 false : ℕ) * 2 ^ (0 : ℤ) := by
    by_cases whole : 0 ≤ e
    · obtain ⟨k, hk, mag⟩ := Fmt.exists_mag_of_val h
      have integer : (m : ℚ) * 2 ^ e = (m * 2 ^ e.toNat : ℕ) := by rw [zpow_toNat whole, Nat.cast_mul]
      refine ⟨k, hk, ?_⟩
      rw [mag, zpow_zero, mul_one, integer, Nat.cast_inj]
      exact le_antisymm (near.ge integer.ge) (near.le integer.le)
    · have bound : roundAt mode s m e 0 false ≤ 2 ^ 24 := by
        refine near.le ?_
        have : (2 : ℚ) ^ e ≤ 1 := zpow_le_one_of_nonpos₀ one_le_two (by omega)
        have : (m : ℚ) ≤ 2 ^ 24 := by exact_mod_cast mlt.le
        push_cast
        nlinarith
      have : ((roundAt mode s m e 0 false : ℕ) : ℚ) ≤ 2 ^ 24 := by exact_mod_cast bound
      refine wide_f32.exists_mag_lt bound (by decide) ?_
      rw [zpow_zero, mul_one]
      exact this.trans_lt (by norm_num [f32, Fmt.bias])
  obtain ⟨k, hk, mag⟩ := held
  obtain ⟨-, rat, sgn⟩ := wide_f32.val_round hk mag 0 s
  refine ⟨(Val.fin s m e).toInt mode, by rw [h]; exact whole_toInt mode (Val.fin_fin s m e), ?_, word ▸ sgn⟩
  rw [word, rat, Val.rat_fin, zpow_zero, mul_one]
  cases s <;> simp [signFactor, Val.toInt]

theorem fscale_frnd_of_inf_or_zero {a : Nat} (mode : Nat) (n : Int)
    (h : (∃ s, f32.val a = .inf s) ∨ (f32.val a).Fin ∧ (f32.val a).rat = 0) : fscale a n = a ∧ frnd mode a = a := by
  obtain ⟨s, inf⟩ | ⟨fin, zero⟩ := h
  · simp [fscale, frnd, inf]
  · obtain ⟨s, m, e, val⟩ := fin.exists
    rw [val, Val.rat_fin_eq_zero] at zero
    simp [fscale, frnd, val, zero]

end Sys2Proof.Machine
end

section
/-! `FRCP`, `FRSQ`, `FEXP2` of an integer and `FLOG2` of a power of two (04 R72). -/

namespace Sys2Proof.Machine

/-! ### `FRCP` -/

/-- An integer quotient with the mark of a rest brackets the exact one. -/
theorem brackets_div (n : Nat) {m : Nat} (hm : 0 < m) (e : Int) : Brackets (n / m) e (n % m != 0) ((n : ℚ) / m * 2 ^ e) := by
  have pos : (0 : ℚ) < m := by exact_mod_cast hm
  have unit : (0 : ℚ) < 2 ^ e := by positivity
  have split : (n : ℚ) = (n / m : ℕ) * m + (n % m : ℕ) := by exact_mod_cast (Nat.div_add_mod' n m).symm
  have rest : ((n % m : ℕ) : ℚ) < m := by exact_mod_cast Nat.mod_lt n hm
  rw [Brackets]
  split
  next inexact =>
    have : (0 : ℚ) < (n % m : ℕ) := by
      exact_mod_cast Nat.pos_of_ne_zero (by simpa using inexact)
    constructor
    · refine mul_lt_mul_of_pos_right ?_ unit
      rw [lt_div_iff₀ pos]; linarith
    · refine mul_lt_mul_of_pos_right ?_ unit
      rw [div_lt_iff₀ pos]; linarith
  next exact =>
    have zero : n % m = 0 := by simpa using exact
    rw [zero, Nat.cast_zero, add_zero] at split
    rw [split, mul_div_cancel_right₀ _ pos.ne']

theorem rounded_frcp {a : Nat} {s : Bool} {m : Nat} {e : Int} (h : f32.val a = .fin s m e) (hm : m ≠ 0) :
    f32.Rounded 0 s (1 / |(f32.val a).rat|) (frcp a) := by
  have pos : (0 : ℚ) < m := by exact_mod_cast Nat.pos_of_ne_zero hm
  have word : frcp a = f32.pack 0 s
      (f32.roundMag 0 s (2 ^ (Nat.log2 m + 64) / m) (-e - (Nat.log2 m + 64 : ℕ)) (2 ^ (Nat.log2 m + 64) % m != 0)) := by
    simp [frcp, h, hm]
  have value : (1 : ℚ) / |(f32.val a).rat| = ((2 ^ (Nat.log2 m + 64) : ℕ) : ℚ) / m * 2 ^ (-e - (Nat.log2 m + 64 : ℕ)) := by
    rw [h, Val.abs_rat_fin, zpow_sub₀ two_ne_zero, zpow_neg, zpow_natCast]
    push_cast
    field_simp
  have digits : f32.frac < Nat.log2 (2 ^ (Nat.log2 m + 64) / m) := by
    have quot : 2 ^ 24 ≤ 2 ^ (Nat.log2 m + 64) / m := by
      rw [Nat.le_div_iff_mul_le (Nat.pos_of_ne_zero hm)]
      calc 2 ^ 24 * m ≤ 2 ^ 24 * 2 ^ (Nat.log2 m + 1) := Nat.mul_le_mul_left _ Nat.lt_log2_self.le
        _ = 2 ^ (Nat.log2 m + 25) := by rw [← pow_add]; congr 1; omega
        _ ≤ 2 ^ (Nat.log2 m + 64) := Nat.pow_le_pow_right two_pos (by omega)
    exact (Nat.le_log2 (by omega)).2 quot
  rw [word, value]
  exact (Fmt.roundsFree_roundMag (by decide) 0 s (brackets_div _ (Nat.pos_of_ne_zero hm) _) fun _ => digits).rounded_pack wide_f32

/-! ### `FRSQ` -/

/-- The bits that `isqrtFrom` finds make up the root, when the root lies within 2^k above what is known of it. -/
theorem isqrtFrom_spec (n : Nat) {k r : Nat} (lo : r * r ≤ n) (hi : n < (r + 2 ^ k) * (r + 2 ^ k)) :
    isqrtFrom n k r * isqrtFrom n k r ≤ n ∧ n < (isqrtFrom n k r + 1) * (isqrtFrom n k r + 1) := by
  induction k generalizing r with
  | zero => exact ⟨lo, hi⟩
  | succ k ih =>
    rw [isqrtFrom]
    split
    next le => exact ih le (by rwa [add_assoc, ← two_mul, ← pow_succ'])
    next gt => exact ih lo (not_le.1 gt)

/-- A nearest rounding lies between the middles on either side of it. -/
theorem Fmt.RoundsFree.middles {f : Fmt} {s : Bool} {y : ℚ} {k : Nat} (h : f.RoundsFree 0 s y k) (pos : 0 < k) :
    f.mag (k - 1) + f.mag k ≤ 2 * y ∧ 2 * y ≤ f.mag k + f.mag (k + 1) := by
  constructor
  · exact (abs_sub_le_abs_sub_iff (f.mag_strictMono (Nat.sub_lt pos one_pos)) y).1 (h.nearest (by simp) (by simp) (k - 1)).1
  · obtain le | lt := le_or_gt (2 * y) (f.mag k + f.mag (k + 1))
    · exact le
    · have step := f.mag_strictMono (Nat.lt_add_one k)
      have near := (h.nearest (by simp) (by simp) (k + 1)).1
      have back := (abs_sub_le_abs_sub_iff step y).2 lt.le
      exact ((abs_sub_eq_abs_sub_iff step y).1 (le_antisymm back near)).ge

/-- What bounds every number of a bracket from below bounds its lower end. -/
theorem le_of_brackets {r : Nat} {e : Int} {b : Bool} {L : ℚ} (h : ∀ y, Brackets r e b y → L ≤ 2 * y) : L ≤ 2 * (r * 2 ^ e) := by
  cases b with
  | false => exact h _ rfl
  | true =>
    have gap : (r : ℚ) * 2 ^ e < (r + 1) * 2 ^ e := mul_lt_mul_of_pos_right (lt_add_one _) (by positivity)
    by_contra lt
    obtain ⟨y, lo, hi⟩ := exists_between (lt_min gap (by linarith : (r : ℚ) * 2 ^ e < L / 2))
    have := h y ⟨lo, hi.trans_le (min_le_left _ _)⟩
    linarith [hi.trans_le (min_le_right _ _)]

/-- What bounds every number of a bracket from above bounds its upper end. -/
theorem le_of_brackets_above {r : Nat} {e : Int} {b : Bool} {L : ℚ} (h : ∀ y, Brackets r e b y → 2 * y ≤ L) :
    2 * ((r + if b then 1 else 0) * 2 ^ e) ≤ L := by
  cases b with
  | false => simpa using h _ (brackets_self r e)
  | true =>
    rw [if_pos rfl]
    have gap : (r : ℚ) * 2 ^ e < (r + 1) * 2 ^ e := mul_lt_mul_of_pos_right (lt_add_one _) (by positivity)
    by_contra lt
    obtain ⟨y, lo, hi⟩ := exists_between (max_lt gap (by linarith : L / 2 < (r + 1) * 2 ^ e))
    have := h y ⟨(le_max_left _ _).trans_lt lo, hi⟩
    linarith [(le_max_right _ _).trans_lt lo]

/-- `FRSQ` takes the root of a significand M at an even exponent 2d: it rounds r × 2^(-d - 128), where r is the integer root of 2^256 / M. -/
theorem frsq_of_fin {a m : Nat} {e : Int} (h : f32.val a = .fin false m e) (hm : m ≠ 0) :
    ∃ (M : Nat) (d : Int), (0 < M ∧ M < 2 ^ 25) ∧ (-75 ≤ d ∧ d ≤ 53) ∧ (m : ℚ) * 2 ^ e = M * (2 ^ d) ^ 2
      ∧ frsq a = f32.pack 0 false (f32.roundMag 0 false (isqrtFrom (2 ^ 256 / M) 130 0) (-d - 128)
          (isqrtFrom (2 ^ 256 / M) 130 0 * isqrtFrom (2 ^ 256 / M) 130 0 * M != 2 ^ 256)) := by
  obtain ⟨mlt, le, ge⟩ := f32_bounds h
  have square (d : Int) : ((2 : ℚ) ^ d) ^ 2 = 2 ^ (2 * d) := by rw [← zpow_natCast, ← zpow_mul, mul_comm]; rfl
  by_cases even : e % 2 = 0
  · refine ⟨m, e / 2, by omega, by omega, ?_, by simp [frsq, h, hm, even]⟩
    rw [square, show 2 * (e / 2) = e by omega]
  · refine ⟨2 * m, (e - 1) / 2, by omega, by omega, ?_, by simp [frsq, h, hm, even]⟩
    rw [square, show 2 * ((e - 1) / 2) = e - 1 by omega, zpow_sub_one₀ two_ne_zero]
    push_cast
    ring

/-- r and r + 1 enclose the root of 2^256 / m, and r has many digits. -/
theorem isqrt_bounds {m : Nat} (pos : 0 < m) (small : m < 2 ^ 25) :
    let r := isqrtFrom (2 ^ 256 / m) 130 0
    r * r * m ≤ 2 ^ 256 ∧ 2 ^ 256 < (r + 1) * (r + 1) * m ∧ 2 ^ 60 ≤ r ∧ r ≤ 2 ^ 128 := by
  have top : 2 ^ 256 / m < (0 + 2 ^ 130) * (0 + 2 ^ 130) := (Nat.div_le_self _ _).trans_lt (by norm_num)
  obtain ⟨lo, hi⟩ := isqrtFrom_spec (2 ^ 256 / m) (Nat.zero_le _) top
  dsimp only
  generalize isqrtFrom (2 ^ 256 / m) 130 0 = r at lo hi ⊢
  have below : r * r * m ≤ 2 ^ 256 := (Nat.le_div_iff_mul_le pos).1 lo
  have above : 2 ^ 256 < (r + 1) * (r + 1) * m := (Nat.div_lt_iff_lt_mul pos).1 hi
  refine ⟨below, above, ?_, ?_⟩
  · by_contra lt
    have : (r + 1) * (r + 1) * m ≤ 2 ^ 60 * 2 ^ 60 * 2 ^ 25 :=
      Nat.mul_le_mul (Nat.mul_le_mul (by omega) (by omega)) small.le
    omega
  · by_contra gt
    have : (2 ^ 128 + 1) * (2 ^ 128 + 1) ≤ r * r := Nat.mul_le_mul (by omega) (by omega)
    have : r * r * 1 ≤ r * r * m := Nat.mul_le_mul_left _ pos
    omega

theorem exists_brackets (r : Nat) (e : Int) (b : Bool) : ∃ y, Brackets r e b y := by
  cases b with
  | false => exact ⟨_, brackets_self r e⟩
  | true => exact exists_between (mul_lt_mul_of_pos_right (lt_add_one _) (by positivity))

section
variable {r M k : Nat} {d : Int} (free : ∀ y, Brackets r (-d - 128) (r * r * M != 2 ^ 256) y → f32.RoundsFree 0 false y k)
include free

/-- The root of a number of F32 lies well inside the range of the format. -/
theorem root_in_range (dlo : -75 ≤ d) (dhi : d ≤ 53) (large : 2 ^ 60 ≤ r) (small : r ≤ 2 ^ 128) : 0 < k ∧ k + 1 < f32.infMag := by
  obtain ⟨y, hy⟩ := exists_brackets r (-d - 128) (r * r * M != 2 ^ 256)
  constructor
  · refine (free y hy).ge (N := 1) ((le_trans ?_ hy.le))
    have : (2 : ℚ) ^ (60 : ℤ) ≤ r := by exact_mod_cast large
    calc f32.mag 1 ≤ 2 ^ ((60 : ℤ) + (-d - 128)) := by
          rw [f32_mag_one]; exact zpow_le_zpow_right₀ one_le_two (by omega)
      _ ≤ r * 2 ^ (-d - 128) := by rw [zpow_add₀ two_ne_zero]; gcongr
  · have top : f32.mag ((202 + 1) * 2 ^ f32.frac + 0) = 2 ^ (76 : ℤ) := by
      rw [f32.mag_binade 202 (Nat.zero_le _), f32_constants.2.2.2.1]
      norm_num [f32]
    have : (r : ℚ) + 1 ≤ 2 ^ (129 : ℤ) := by exact_mod_cast (by omega : r + 1 ≤ 2 ^ 129)
    have : k ≤ (202 + 1) * 2 ^ f32.frac + 0 := by
      refine (free y hy).le (hy.lt.le.trans ?_)
      calc ((r : ℚ) + 1) * 2 ^ (-d - 128) ≤ 2 ^ (129 : ℤ) * 2 ^ (-53 : ℤ) := by gcongr <;> [exact one_le_two; omega]
        _ = f32.mag ((202 + 1) * 2 ^ f32.frac + 0) := by rw [top, ← zpow_add₀ two_ne_zero]; norm_num
    obtain ⟨frac, -, -, -, inf⟩ := f32_constants
    rw [frac] at this
    omega

/-- The middles beside the rounded root enclose the exact root: their squares times M × (2^d)^2 enclose 1. -/
theorem root_nearest (pos : 0 < k) (below : r * r * M ≤ 2 ^ 256) (above : 2 ^ 256 < (r + 1) * (r + 1) * M) :
    (f32.mag (k - 1) + f32.mag k) ^ 2 * (M * (2 ^ d) ^ 2) ≤ 4 ∧ 4 ≤ (f32.mag k + f32.mag (k + 1)) ^ 2 * (M * (2 ^ d) ^ 2) := by
  have lower := le_of_brackets fun y hy => ((free y hy).middles pos).1
  have upper := le_of_brackets_above fun y hy => ((free y hy).middles pos).2
  have unit : ((2 : ℚ) ^ (-d - 128) * 2 ^ d) ^ 2 = 1 / 2 ^ 256 := by
    rw [← zpow_add₀ two_ne_zero, show -d - 128 + d = -128 by ring]; norm_num
  have scale (R : ℚ) : (2 * (R * 2 ^ (-d - 128))) ^ 2 * (M * (2 ^ d) ^ 2) = 4 * (R * R * M / 2 ^ 256) := by
    calc (2 * (R * 2 ^ (-d - 128))) ^ 2 * (M * (2 ^ d) ^ 2) = 4 * (R * R * M) * ((2 : ℚ) ^ (-d - 128) * 2 ^ d) ^ 2 := by ring
      _ = 4 * (R * R * M / 2 ^ 256) := by rw [unit]; ring
  constructor
  · have root : (r : ℚ) * r * M / 2 ^ 256 ≤ 1 := (div_le_one (by positivity)).2 (by exact_mod_cast below)
    calc (f32.mag (k - 1) + f32.mag k) ^ 2 * (M * (2 ^ d) ^ 2) ≤ (2 * (r * 2 ^ (-d - 128))) ^ 2 * (M * (2 ^ d) ^ 2) := by
          have := add_nonneg (f32.mag_nonneg (k - 1)) (f32.mag_nonneg k)
          gcongr
      _ ≤ 4 := by rw [scale]; linarith
  · have root : (1 : ℚ) ≤ (r + if r * r * M != 2 ^ 256 then 1 else 0) * (r + if r * r * M != 2 ^ 256 then 1 else 0) * M / 2 ^ 256 := by
      rw [one_le_div (by positivity)]
      split
      next => exact_mod_cast above.le
      next exact =>
        rw [add_zero]
        exact_mod_cast (by simpa using exact : r * r * M = 2 ^ 256).ge
    calc (4 : ℚ) ≤ (2 * ((r + if r * r * M != 2 ^ 256 then 1 else 0) * 2 ^ (-d - 128))) ^ 2 * (M * (2 ^ d) ^ 2) := by rw [scale]; linarith
      _ ≤ (f32.mag k + f32.mag (k + 1)) ^ 2 * (M * (2 ^ d) ^ 2) := by gcongr

end

theorem frsq_nearest {a m : Nat} {e : Int} (h : f32.val a = .fin false m e) (hm : m ≠ 0) :
    0 < frsq a ∧ frsq a + 1 < f32.infMag
      ∧ ((f32.val (frsq a - 1)).rat + (f32.val (frsq a)).rat) ^ 2 * (f32.val a).rat ≤ 4
      ∧ 4 ≤ ((f32.val (frsq a)).rat + (f32.val (frsq a + 1)).rat) ^ 2 * (f32.val a).rat := by
  obtain ⟨M, d, ⟨pos, small⟩, ⟨dlo, dhi⟩, value, word⟩ := frsq_of_fin h hm
  obtain ⟨below, above, large, bound⟩ := isqrt_bounds pos small
  generalize isqrtFrom (2 ^ 256 / M) 130 0 = r at word below above large bound
  have digits : f32.frac < Nat.log2 r := (Nat.le_log2 (by omega)).2 (le_trans (by decide) large)
  have free (y : ℚ) (hy : Brackets r (-d - 128) (r * r * M != 2 ^ 256) y) :=
    Fmt.roundsFree_roundMag (f := f32) (by decide) 0 false hy fun _ => digits
  generalize f32.roundMag 0 false r (-d - 128) (r * r * M != 2 ^ 256) = k at word free
  obtain ⟨kpos, top⟩ := root_in_range free dlo dhi large bound
  have code : frsq a = k := by simp [word, Fmt.pack, (by omega : k < f32.infMag)]
  rw [code, h, Val.rat_fin, show signFactor false = 1 from rfl, one_mul, value, f32.rat_of_lt (by omega), f32.rat_of_lt (by omega),
    f32.rat_of_lt top]
  exact ⟨kpos, top, root_nearest free kpos below above⟩

/-! ### Negative sources -/

theorem frsq_flog2_of_neg {a m : Nat} {e : Int} (h : f32.val a = .fin true m e) (hm : m ≠ 0) :
    frsq a = 0x7FC00003 ∧ flog2 a = 0x7FC00003 := by
  have neg : f32.nanBits false 3 = 0x7FC00003 := by decide
  simp [frsq, flog2, h, hm, neg]

/-! ### `FEXP2` -/

/-- The model takes an integer to be at least 2^9 by the place of its highest bit. -/
theorem fexp2_of_large {a : Nat} {s : Bool} {m : Nat} {e : Int} (h : f32.val a = .fin s m e) (large : 8 < (Nat.log2 m : Int) + e) :
    fexp2 a = if s then 0 else f32.infMag := by
  simp [fexp2, h, large]

theorem fexp2_of_int {a : Nat} {s : Bool} {m : Nat} {e : Int} (h : f32.val a = .fin s m e) (small : ¬ 8 < (Nat.log2 m : Int) + e) {n : Int}
    (hn : (f32.val a).rat = n) : fexp2 a = f32.round 0 (.fin false 1 n) := by
  obtain ⟨-, le, -⟩ := f32_bounds h
  have places : Max.max e (-320) = e := max_eq_left (by omega)
  have units : scaled s m e (-320) = n * (2 ^ 320 : ℕ) := by
    have := scaled_mul s m (by omega : -320 ≤ e)
    rw [← h, hn, zpow_neg, ← div_eq_mul_inv, div_eq_iff (by positivity), zpow_toNat (by decide), show (320 : ℤ).toNat = 320 from rfl,
      ← Int.cast_natCast, ← Int.cast_mul, Int.cast_inj] at this
    exact this
  have pos : ((2 ^ 320 : ℕ) : ℤ) ≠ 0 := by positivity
  simp only [fexp2, h, small, places, units, if_false, Int.mul_ediv_cancel _ pos, Int.mul_emod_left, Int.toNat_zero, BEq.rfl, if_true,
    -Nat.reducePow]

theorem rounded_fexp2_of_int {a : Nat} {s : Bool} {m : Nat} {e : Int} (h : f32.val a = .fin s m e) (hm : m ≠ 0) {n : Int}
    (hn : (f32.val a).rat = n) : f32.Rounded 0 false (2 ^ n) (fexp2 a) := by
  by_cases large : 8 < (Nat.log2 m : Int) + e
  · have big : (512 : ℚ) ≤ m * 2 ^ e := by
      refine le_trans ?_ ((brackets_self m e).pow_le hm)
      calc (512 : ℚ) = 2 ^ (9 : ℤ) := by norm_num
        _ ≤ 2 ^ ((Nat.log2 m : Int) + e) := zpow_le_zpow_right₀ one_le_two (by omega)
    rw [fexp2_of_large h large]
    rw [h, Val.rat_fin] at hn
    cases s with
    | false =>
      have : 512 ≤ n := by
        rw [signFactor, if_neg (by simp), one_mul] at hn
        exact_mod_cast hn ▸ big
      refine ⟨f32.infMag, by simp, ?_⟩
      rw [if_pos ⟨f32_limit_le (zpow_le_zpow_right₀ one_le_two (by omega)), by simp⟩]
    | true =>
      have : n ≤ -512 := by
        rw [signFactor, if_pos rfl, neg_one_mul, neg_eq_iff_eq_neg] at hn
        have : (512 : ℚ) ≤ (-n : ℤ) := by push_cast; exact hn ▸ big
        have : 512 ≤ -n := by exact_mod_cast this
        omega
      have tiny : 2 * (2 : ℚ) ^ n < f32.mag 1 := by
        rw [f32_mag_one, mul_comm, ← zpow_add_one₀ two_ne_zero]
        exact zpow_lt_zpow_right₀ one_lt_two (by omega)
      exact (f32.roundsFree_zero false (by positivity) tiny).rounded_pack wide_f32
  · rw [fexp2_of_int h large hn]
    simpa using Fmt.rounded_round wide_f32 0 false 1 n

/-! ### `FLOG2` -/

theorem flog2_of_pow {a : Nat} {s : Bool} {m : Nat} {e : Int} (h : f32.val a = .fin s m e) (hm : m ≠ 0) {n : Int}
    (hn : (f32.val a).rat = 2 ^ n) : (f32.val (flog2 a)).rat = n := by
  obtain ⟨mlt, le, ge⟩ := f32_bounds h
  have positive : s = false := by
    cases s with
    | false => rfl
    | true =>
      have : (f32.val a).rat < 0 := by
        rw [h, Val.rat_fin, signFactor_mul_neg_iff (by positivity)]
      exact absurd (hn ▸ this) (by positivity : (0 : ℚ) < 2 ^ n).not_gt
  subst positive
  have value : (m : ℚ) = 2 ^ (n - e) := by
    rw [h, Val.rat_fin, signFactor, if_neg (by simp), one_mul] at hn
    rw [zpow_sub₀ two_ne_zero, eq_div_iff (by positivity), hn]
  have nonneg : 0 ≤ n - e := by
    by_contra neg
    have : (m : ℚ) < 1 := value ▸ zpow_lt_one_of_neg₀ one_lt_two (by omega)
    exact hm (Nat.lt_one_iff.1 (by exact_mod_cast this))
  have pow : m = 2 ^ (n - e).toNat := by rw [zpow_toNat nonneg] at value; exact_mod_cast value
  have log : Nat.log2 m = (n - e).toNat := by rw [pow, Nat.log2_two_pow]
  have exp : (Nat.log2 m : Int) + e = n := by omega
  have digits : (n - e).toNat < 24 := (Nat.pow_lt_pow_iff_right one_lt_two).1 (pow ▸ mlt)
  have word : flog2 a = f32.round 0 (.fin (decide (n < 0)) n.natAbs 0) := by
    have whole : m = 2 ^ Nat.log2 m := by rw [log]; exact pow
    simp [flog2, h, hm, exp, ← whole]
  have small : n.natAbs ≤ 2 ^ (f32.frac + 1) := by rw [f32_constants.1]; omega
  have inside : (n.natAbs : ℚ) * 2 ^ (0 : ℤ) < 2 ^ (f32.bias + 1) := by
    rw [zpow_zero, mul_one, f32_constants.2.2.1]
    exact_mod_cast (by omega : n.natAbs < 2 ^ 128)
  obtain ⟨k, hk, mag⟩ := wide_f32.exists_mag_lt small (by decide) inside
  rw [word, (wide_f32.val_round hk mag 0 _).2.1, Val.rat_fin, zpow_zero, mul_one]
  by_cases neg : n < 0
  · simp [signFactor, neg, Nat.cast_natAbs, abs_of_neg neg]
  · simp [signFactor, neg, Nat.cast_natAbs, abs_of_nonneg (not_lt.1 neg)]

end Sys2Proof.Machine
end

section
/-! `CVT` (04 R69, R71): conversions to integers, to and from F16, B16 and the narrow formats. -/

namespace Sys2Proof.Machine

/-! ### To integers -/

/-- The conversions to integers, with the range to which each saturates. -/
def intConversions : List (Nat × Int × Int) :=
  [(0, -2147483648, 2147483647), (1, 0, 4294967295), (12, -128, 127), (13, 0, 255), (14, -8, 7), (15, 0, 15)]

theorem intConversions_range {p : Nat × Int × Int} (hp : p ∈ intConversions) : -2 ^ 200 ≤ p.2.1 ∧ p.2.1 ≤ p.2.2 ∧ p.2.2 ≤ 2 ^ 200 := by
  have all : ∀ p ∈ intConversions, -2 ^ 200 ≤ p.2.1 ∧ p.2.1 ≤ p.2.2 ∧ p.2.2 ≤ 2 ^ 200 := by decide
  exact all p hp

theorem convert_int_nan {p : Nat × Int × Int} (hp : p ∈ intConversions) {a : Nat} (h : (f32.val a).isNan = true) (mode : Nat) (ovn : Bool) :
    convert p.1 mode ovn a = 0 := by
  cases v : f32.val a with
  | nan s c =>
    simp only [intConversions, List.mem_cons, List.not_mem_nil, or_false] at hp
    obtain rfl | rfl | rfl | rfl | rfl | rfl := hp <;> simp [convert, v]
  | _ => rw [v] at h; cases h

theorem convert_int {p : Nat × Int × Int} (hp : p ∈ intConversions) {a : Nat} (h : (f32.val a).isNan = false) (mode : Nat) (ovn : Bool) :
    convert p.1 mode ovn a = (max p.2.1 (min p.2.2 ((f32.val a).toInt mode)) % 2 ^ 32).toNat := by
  cases v : f32.val a with
  | nan s c => rw [v] at h; cases h
  | _ =>
    simp only [intConversions, List.mem_cons, List.not_mem_nil, or_false] at hp
    obtain rfl | rfl | rfl | rfl | rfl | rfl := hp <;> simp only [convert, v, saturate] <;> rfl

theorem convert_int_inf {p : Nat × Int × Int} (hp : p ∈ intConversions) {a : Nat} {s : Bool} (h : f32.val a = .inf s) (mode : Nat) (ovn : Bool) :
    convert p.1 mode ovn a = ((if s then p.2.1 else p.2.2) % 2 ^ 32).toNat := by
  obtain ⟨lo, le, hi⟩ := intConversions_range hp
  rw [convert_int hp (by rw [h]; rfl), h]
  cases s with
  | false =>
    have far : p.2.2 ≤ (Val.inf false).toInt mode := hi
    rw [min_eq_left far, max_eq_right le, if_neg (by simp)]
  | true =>
    have far : (Val.inf true).toInt mode ≤ p.2.1 := lo
    rw [min_eq_right (far.trans le), max_eq_left far, if_pos rfl]

/-! ### From integers -/

theorem gives_convert_signed {a : Nat} (ha : a < 2 ^ 32) (mode : Nat) (ovn : Bool) :
    f32.Gives mode (BitVec.ofNat 32 a).toInt False (convert 2 mode ovn a) := by
  have int : (BitVec.ofNat 32 a).toInt = if a < 2 ^ 31 then (a : ℤ) else a - 2 ^ 32 := by
    rw [BitVec.toInt_eq_toNat_cond, BitVec.toNat_ofNat, Nat.mod_eq_of_lt ha]
    exact if_congr (by omega) rfl rfl
  have word : convert 2 mode ovn a = if a / 2 ^ 31 == 1 then f32.round mode (.fin true (2 ^ 32 - a) 0) else f32.round mode (.fin false a 0) := rfl
  rw [int, word]
  by_cases neg : a < 2 ^ 31
  · rw [if_pos neg, if_neg (by simp; omega)]
    exact Fmt.gives_round wide_f32 mode (Val.fin_fin _ _ _) (by simp [Val.rat]) (by simp [Val.sgn])
  · rw [if_neg neg, if_pos (by simp; omega)]
    refine Fmt.gives_round wide_f32 mode (Val.fin_fin _ _ _) ?_ fun zero => ?_
    · rw [Val.rat_fin, Nat.cast_sub ha.le]
      simp [signFactor]
    · have : (a : ℤ) - 2 ^ 32 = 0 := by exact_mod_cast zero
      omega

theorem gives_convert_unsigned (a mode : Nat) (ovn : Bool) : f32.Gives mode a False (convert 3 mode ovn a) :=
  Fmt.gives_round wide_f32 mode (Val.fin_fin false a 0) (by simp [Val.rat]) (by simp [Val.sgn])

/-! ### To F16 and B16 -/

/-- The conversions to F16 and B16. -/
def halfConversions : List (Nat × Fmt) := [(4, f16), (6, b16)]

section
variable {p : Nat × Fmt} (hp : p ∈ halfConversions)
include hp

theorem halfConversions_wide : p.2.Wide := by
  simp only [halfConversions, List.mem_cons, List.not_mem_nil, or_false] at hp
  obtain rfl | rfl := hp
  · exact .inr (.inl rfl)
  · exact .inr (.inr rfl)

theorem convert_half_fin {a : Nat} {s : Bool} {m : Nat} {e : Int} (h : f32.val a = .fin s m e) (mode : Nat) (ovn : Bool) :
    convert p.1 mode ovn a = if ovn && decide (p.2.infMag ≤ p.2.roundMag mode s m e false) then p.2.nanBits false 4
      else p.2.round mode (.fin s m e) := by
  simp only [halfConversions, List.mem_cons, List.not_mem_nil, or_false] at hp
  obtain rfl | rfl := hp <;> simp only [convert, h] <;> rfl

theorem convert_half_nan {a : Nat} {s : Bool} {c : Nat} (h : f32.val a = .nan s c) (mode : Nat) (ovn : Bool) :
    convert p.1 mode ovn a = p.2.nanBits s c := by
  simp only [halfConversions, List.mem_cons, List.not_mem_nil, or_false] at hp
  obtain rfl | rfl := hp <;> simp only [convert, h] <;> rfl

theorem convert_half {a : Nat} (fin : (f32.val a).Fin) (mode : Nat) :
    p.2.Gives mode (f32.val a).rat ((f32.val a).sgn = true) (convert p.1 mode false a)
      ∧ (p.2.Overflows mode (f32.val a).sgn |(f32.val a).rat| → convert p.1 mode true a = p.2.nanBits false 4)
      ∧ (¬ p.2.Overflows mode (f32.val a).sgn |(f32.val a).rat| → convert p.1 mode true a = convert p.1 mode false a) := by
  have wide := halfConversions_wide hp
  obtain ⟨s, m, e, v⟩ := fin.exists
  have reach := (Fmt.roundsFree_exact wide.frac_pos mode s m e).infMag_le_iff wide
  have word := convert_half_fin hp v mode
  rw [word, word, v, Val.abs_rat_fin, show (Val.fin s m e).sgn = s from rfl, ← reach, if_neg (by simp)]
  exact ⟨Fmt.gives_round wide mode (Val.fin_fin s m e) rfl fun _ => .rfl, fun past => by simp [past], fun within => by simp [within]⟩

end

/-! ### To W8 and W4 -/

/-- The rounding of a magnitude depends on the sign of its number alone, not on the sign of a zero. -/
theorem Fmt.roundMag_sign (f : Fmt) (mode : Nat) (s : Bool) (m : Nat) (e : Int) :
    f.roundMag mode s m e false = f.roundMag mode (decide ((Val.fin s m e).rat < 0)) m e false := by
  obtain rfl | pos := m.eq_zero_or_pos
  · rw [f.roundMag_zero, f.roundMag_zero]
  · have neg : (Val.fin s m e).rat < 0 ↔ s = true := by rw [Val.rat_fin, signFactor_mul_neg_iff (by positivity)]
    simp only [neg, Bool.decide_eq_true]

theorem Fmt.roundNarrow_fin (f : Fmt) (mode : Nat) (s : Bool) (m : Nat) (e : Int) :
    f.roundNarrow mode (.fin s m e) =
      (if (Val.fin s m e).rat < 0 ∧ Min.min (f.roundMag mode s m e false) (f.signW - 1) ≠ 0 then f.signW else 0)
        + Min.min (f.roundMag mode s m e false) (f.signW - 1) := by
  by_cases zero : Min.min (f.roundMag mode s m e false) (f.signW - 1) = 0
  · simp [roundNarrow, zero]
  · have pos : 0 < m := by
      refine Nat.pos_of_ne_zero fun m0 => zero ?_
      rw [m0, f.roundMag_zero, Nat.zero_min]
    have neg : (Val.fin s m e).rat < 0 ↔ s = true := by rw [Val.rat_fin, signFactor_mul_neg_iff (by positivity)]
    simp only [roundNarrow, beq_iff_eq, zero, neg, if_false, ne_eq, not_false_iff, and_true]

/-- Below the largest number a saturating conversion is the rounding, and from it on it is that number (04 R69). -/
theorem saturates_roundNarrow {f : Fmt} (hf : 1 ≤ f.frac) {v : Val} (fin : v.Fin) (mode : Nat) : f.Saturates mode v.rat (f.roundNarrow mode v) := by
  obtain ⟨s, m, e, rfl⟩ := fin.exists
  have pos : 0 < f.signW := by rw [Fmt.signW]; positivity
  have free := Fmt.roundsFree_exact hf mode (decide ((Val.fin s m e).rat < 0)) m e
  rw [← f.roundMag_sign] at free
  refine ⟨_, f.roundNarrow_fin mode s m e, ?_⟩
  rw [Val.abs_rat_fin, f.rat_narrow_of_lt (Nat.sub_lt pos one_pos)]
  split
  next past => exact min_eq_right (free.ge past)
  next within =>
    have le := free.le (not_le.1 within).le
    rw [min_eq_left le, roundsIn_congr fun _ hj => f.rat_narrow_of_lt hj]
    exact free _ (by omega)

/-- The conversions to W8 and W4. -/
def narrowConversions : List (Nat × Fmt) := [(8, w8), (10, w4)]

theorem convert_narrow {p : Nat × Fmt} (hp : p ∈ narrowConversions) (a mode : Nat) (ovn : Bool) :
    convert p.1 mode ovn a = p.2.roundNarrow mode (f32.val a) ∧ 1 ≤ p.2.frac := by
  simp only [narrowConversions, List.mem_cons, List.not_mem_nil, or_false] at hp
  obtain rfl | rfl := hp
  · exact ⟨rfl, by decide⟩
  · exact ⟨rfl, by decide⟩

theorem Fmt.roundNarrow_nan (f : Fmt) (mode : Nat) {v : Val} (h : v.isNan = true) : f.roundNarrow mode v = f.signW := by
  cases v with
  | nan => rfl
  | _ => cases h

/-! ### Widening -/

/-- The widening conversions, each with the value of its source. -/
def wideningConversions (a : Nat) : List (Nat × Val) :=
  [(5, f16.val (a % 2 ^ 16)), (7, b16.val (a % 2 ^ 16)), (9, w8.narrow (a % 256)), (11, w4.narrow (a % 16))]

theorem convert_widening {a : Nat} {p : Nat × Val} (hp : p ∈ wideningConversions a) (mode : Nat) (ovn : Bool) :
    convert p.1 mode ovn a = f32.round 0 p.2 := by
  simp only [wideningConversions, List.mem_cons, List.not_mem_nil, or_false] at hp
  obtain rfl | rfl | rfl | rfl := hp <;> rfl

/-- F32 holds every number of a narrower format. -/
theorem f32_holds {m : Nat} {e : Int} (digits : m ≤ 2 ^ 24) (unit : -149 ≤ e) (lt : (m : ℚ) * 2 ^ e < 2 ^ (128 : ℤ)) :
    ∃ k, k < f32.infMag ∧ f32.mag k = m * 2 ^ e :=
  wide_f32.exists_mag_lt digits unit (by rw [f32_constants.2.2.1]; exact_mod_cast lt)

theorem f32_holds_wide {f : Fmt} (hf : f.Wide) {a : Nat} {s : Bool} {m : Nat} {e : Int} (h : f.val a = .fin s m e) :
    ∃ k, k < f32.infMag ∧ f32.mag k = m * 2 ^ e := by
  obtain ⟨digits, unit, -⟩ := Fmt.val_fin_bounds h
  have within : f.frac + 1 ≤ 24 ∧ -149 ≤ f.emin ∧ f.bias + 1 ≤ 128 := by
    obtain rfl | rfl | rfl := hf <;> decide
  obtain ⟨frac, emin, bias⟩ := within
  refine f32_holds (digits.le.trans (Nat.pow_le_pow_right two_pos frac)) (emin.trans unit) ((hf.fin_lt h).trans_le ?_)
  exact_mod_cast pow_le_pow_right₀ one_le_two bias

theorem f32_holds_narrow {f : Fmt} (hf : f = w8 ∨ f = w4) {a : Nat} {s : Bool} {m : Nat} {e : Int} (h : f.narrow a = .fin s m e) :
    ∃ k, k < f32.infMag ∧ f32.mag k = m * 2 ^ e := by
  obtain ⟨digits, unit, top⟩ := Fmt.narrow_fin_bounds h
  have within : f.frac + 1 ≤ 24 ∧ -149 ≤ f.emin ∧ f.emin + 2 ^ f.ebits ≤ 7 := by
    obtain rfl | rfl := hf <;> decide
  obtain ⟨frac, emin, exp⟩ := within
  have small : m ≤ 2 ^ 24 := digits.le.trans (Nat.pow_le_pow_right two_pos frac)
  have small' : (m : ℚ) ≤ 2 ^ (24 : ℤ) := by exact_mod_cast small
  refine f32_holds small (emin.trans unit) ?_
  calc (m : ℚ) * 2 ^ e ≤ 2 ^ (24 : ℤ) * 2 ^ (7 : ℤ) := by gcongr <;> [exact one_le_two; omega]
    _ < 2 ^ (128 : ℤ) := by norm_num

theorem widening_held {a : Nat} {p : Nat × Val} (hp : p ∈ wideningConversions a) {s : Bool} {m : Nat} {e : Int} (h : p.2 = .fin s m e) :
    ∃ k, k < f32.infMag ∧ f32.mag k = m * 2 ^ e := by
  simp only [wideningConversions, List.mem_cons, List.not_mem_nil, or_false] at hp
  obtain rfl | rfl | rfl | rfl := hp
  · exact f32_holds_wide (.inr (.inl rfl)) h
  · exact f32_holds_wide (.inr (.inr rfl)) h
  · exact f32_holds_narrow (.inl rfl) h
  · exact f32_holds_narrow (.inr rfl) h

/-- A widening conversion is exact, of an infinity and a NaN as well. -/
theorem convert_widening_exact {a : Nat} {p : Nat × Val} (hp : p ∈ wideningConversions a) (mode : Nat) (ovn : Bool) :
    let y := f32.val (convert p.1 mode ovn a)
    (p.2.Fin → y.Fin ∧ y.rat = p.2.rat ∧ y.sgn = p.2.sgn) ∧ (∀ s, p.2 = .inf s → y = .inf s)
      ∧ ∀ s c, p.2 = .nan s c → convert p.1 mode ovn a = f32.nanBits s c := by
  dsimp only
  rw [convert_widening hp]
  refine ⟨fun fin => ?_, fun s inf => ?_, fun s c nan => ?_⟩
  · obtain ⟨s, m, e, v⟩ := fin.exists
    obtain ⟨k, hk, mag⟩ := widening_held hp v
    rw [v]
    exact wide_f32.val_round hk mag 0 s
  · rw [inf]
    exact f32.val_infMag s
  · rw [nan]; rfl

end Sys2Proof.Machine
end

section
/-! The statement of rounding (04 R69 to R72, 06 R116 to R121), assembled. -/

namespace Sys2Proof.Machine

/-! ### `roundAt` in whole units -/

section
variable {mode : Nat} {s : Bool} {m p k : Nat} (hp : 0 < p) (h : RoundsInt mode s ((m : ℚ) / p) k)
include hp h

theorem RoundsInt.eq_floor (toward : TowardZero mode s) : k = m / p := by
  have pos : (0 : ℚ) < p := by exact_mod_cast hp
  obtain ⟨le, lt⟩ := (roundsInt_toward toward).1 h
  rw [le_div_iff₀ pos] at le
  rw [div_lt_iff₀ pos] at lt
  exact (Nat.div_eq_of_lt_le (by exact_mod_cast le) (by exact_mod_cast lt)).symm

theorem RoundsInt.eq_ceil (toward : ¬ TowardZero mode s) (away : FromZero mode s) : k = (m + p - 1) / p := by
  have pos : (0 : ℚ) < p := by exact_mod_cast hp
  obtain ⟨ge, lt⟩ := (roundsInt_from toward away).1 h
  rw [div_le_iff₀ pos] at ge
  rw [← sub_lt_iff_lt_add, lt_div_iff₀ pos, sub_mul, one_mul, sub_lt_iff_lt_add] at lt
  have ge : m ≤ k * p := by exact_mod_cast ge
  have lt : k * p < m + p := by exact_mod_cast lt
  exact (Nat.div_eq_of_lt_le (by omega) (by rw [Nat.succ_mul]; omega)).symm

end

section
variable {s : Bool} {m p k : Nat} (hp : 0 < p)
include hp

/-- Within half a unit, in whole units. -/
theorem half_unit (h : |(k : ℚ) - m / p| ≤ 1 / 2) : 2 * (k * p) ≤ 2 * m + p ∧ 2 * m ≤ 2 * (k * p) + p := by
  have pos : (0 : ℚ) < p := by exact_mod_cast hp
  obtain ⟨lo, hi⟩ := abs_le.1 h
  have lo : (m : ℚ) / p ≤ k + 1 / 2 := by linarith
  have hi : (k : ℚ) - 1 / 2 ≤ m / p := by linarith
  rw [div_le_iff₀ pos] at lo
  rw [le_div_iff₀ pos] at hi
  constructor
  · have : (2 : ℚ) * (k * p) ≤ 2 * m + p := by linarith
    exact_mod_cast this
  · have : (2 : ℚ) * m ≤ 2 * (k * p) + p := by linarith
    exact_mod_cast this

theorem RoundsInt.even_in_units (h : RoundsInt 0 s ((m : ℚ) / p) k) :
    2 * (k * p) ≤ 2 * m + p ∧ 2 * m ≤ 2 * (k * p) + p ∧ (2 * (m % p) = p → k % 2 = 0) := by
  have pos : (0 : ℚ) < p := by exact_mod_cast hp
  obtain ⟨half, tie⟩ := roundsInt_even.1 h
  obtain ⟨hi, lo⟩ := half_unit hp half
  refine ⟨hi, lo, fun middle => tie ?_⟩
  have split := Nat.div_add_mod' m p
  have le : k ≤ m / p + 1 := Nat.le_of_mul_le_mul_right (by rw [Nat.succ_mul]; omega) hp
  have ge : m / p ≤ k := Nat.le_of_mul_le_mul_right (by omega) hp
  have value : (m : ℚ) / p = (m / p : ℕ) + 1 / 2 := by
    have : (2 : ℚ) * m = 2 * (m / p : ℕ) * p + p := by exact_mod_cast (by rw [mul_assoc]; omega : 2 * m = 2 * (m / p) * p + p)
    rw [div_eq_iff pos.ne']
    linarith
  rw [value]
  obtain rfl | rfl : k = m / p ∨ k = m / p + 1 := by omega
  · rw [abs_of_nonpos] <;> linarith
  · rw [abs_of_nonneg] <;> push_cast <;> linarith

theorem RoundsInt.away_in_units (h : RoundsInt 4 s ((m : ℚ) / p) k) : k = (2 * m + p) / (2 * p) := by
  have pos : (0 : ℚ) < p := by exact_mod_cast hp
  obtain ⟨half, tie⟩ := (roundsInt_away le_rfl).1 h
  obtain ⟨hi, lo⟩ := half_unit hp half
  have ne : 2 * m ≠ 2 * (k * p) + p := fun eq => by
    have value : (m : ℚ) / p = k + 1 / 2 := by
      have : (2 : ℚ) * m = 2 * (k * p) + p := by exact_mod_cast eq
      rw [div_eq_iff pos.ne']
      linarith
    have := tie (by rw [value, abs_of_nonpos] <;> linarith)
    linarith
  refine (Nat.div_eq_of_lt_le ?_ ?_).symm
  · rw [mul_left_comm]; exact hi
  · rw [mul_left_comm, add_mul, one_mul]; omega

end

theorem roundsInt_roundAt_div (mode : Nat) (s : Bool) (m : Nat) {e q : Int} (h : e ≤ q) :
    RoundsInt mode s ((m : ℚ) / (2 ^ (q - e).toNat : ℕ)) (roundAt mode s m e q false) := by
  have unit : (m : ℚ) * 2 ^ e / 2 ^ q = (m : ℚ) / (2 ^ (q - e).toNat : ℕ) := by
    rw [← zpow_toNat (by omega), zpow_sub₀ two_ne_zero, div_div_eq_mul_div]
  exact unit ▸ roundsInt_roundAt mode s (brackets_self m e) (by simp)

theorem roundAt_up (s : Bool) (m : Nat) {e q : Int} (h : e ≤ q) :
    roundAt 2 s m e q false = if s then m / 2 ^ (q - e).toNat else (m + 2 ^ (q - e).toNat - 1) / 2 ^ (q - e).toNat := by
  have pos : 0 < 2 ^ (q - e).toNat := by positivity
  cases s
  · exact (roundsInt_roundAt_div 2 false m h).eq_ceil pos (by simp) (.inl ⟨rfl, rfl⟩)
  · exact (roundsInt_roundAt_div 2 true m h).eq_floor pos (.inr (.inl ⟨rfl, rfl⟩))

theorem roundAt_down (s : Bool) (m : Nat) {e q : Int} (h : e ≤ q) :
    roundAt 3 s m e q false = if s then (m + 2 ^ (q - e).toNat - 1) / 2 ^ (q - e).toNat else m / 2 ^ (q - e).toNat := by
  have pos : 0 < 2 ^ (q - e).toNat := by positivity
  cases s
  · exact (roundsInt_roundAt_div 3 false m h).eq_floor pos (.inr (.inr ⟨rfl, rfl⟩))
  · exact (roundsInt_roundAt_div 3 true m h).eq_ceil pos (by simp) (.inr ⟨rfl, rfl⟩)

/-! ### The statement -/

/-- Settles O6: `roundAt` rounds to an integer (`roundsInt_roundAt`), so `Fmt.roundMag` rounds among the magnitudes of a format
(`Fmt.roundsFree_roundMag`) and `Fmt.pack` ends it (`Fmt.RoundsFree.rounded_pack`); every word is one such rounding of its exact result. -/
theorem rounding : Obligations.Rounding := by
  unfold Obligations.Rounding
  refine ⟨fun s m e q le => ?units, fun f mode s m e hf _ => ⟨Fmt.rounded_round hf mode s m e, whole_toInt mode (Val.fin_fin s m e)⟩,
    fun f a b c hf ha hb => ⟨Fmt.gives_add hf ha hb, Fmt.gives_sub hf ha hb, Fmt.gives_product hf ha hb, Fmt.gives_fma hf ha hb⟩,
    fun a s m e h hm => ?words, fun a b ha hb => Fmt.gives_product wide_f32 ha hb, fun a mode n => fscale_frnd_of_inf_or_zero mode n,
    fun a mode ha _ => ⟨fun p hp => ?int, gives_convert_signed ha mode false, gives_convert_unsigned a mode false, fun p hp => ?half,
      fun p hp => ?narrow, fun p hp => convert_widening_exact hp mode false⟩, ?special⟩
  case units =>
    have pos : 0 < 2 ^ (q - e).toNat := by positivity
    have rounds (mode : Nat) := roundsInt_roundAt_div mode s m le
    exact ⟨(rounds 0).even_in_units pos, (rounds 1).eq_floor pos (.inl rfl), roundAt_up s m le, roundAt_down s m le, (rounds 4).away_in_units pos⟩
  case words =>
    exact ⟨rounded_fscale h hm, fun mode _ => whole_frnd h hm mode, rounded_frcp h hm, fun pos => frsq_nearest (pos ▸ h) hm,
      fun neg => frsq_flog2_of_neg (neg ▸ h) hm, fun n => rounded_fexp2_of_int h hm, fun n => flog2_of_pow h hm⟩
  case int =>
    exact ⟨fun fin => ⟨_, whole_toInt mode fin, convert_int hp fin.1 mode false⟩, fun inf => convert_int_inf hp inf mode false,
      fun inf => convert_int_inf hp inf mode false, fun nan => convert_int_nan hp nan mode false⟩
  case half => exact ⟨fun fin => convert_half hp fin mode, fun s c nan => convert_half_nan hp nan mode false⟩
  case narrow =>
    obtain ⟨word, frac⟩ := convert_narrow hp a mode false
    rw [word]
    exact ⟨fun fin => saturates_roundNarrow frac fin mode, p.2.roundNarrow_nan mode, fun s inf => by rw [inf]; rfl⟩
  case special => decide +kernel

end Sys2Proof.Machine
end

section
/-! Falling through in any slot: where a strand comes to depends on the code of its group alone, and its group alone changes. -/

namespace Sys2Proof.Machine

/-- Slot j of t runs the code that slot i of s runs, with the same limits. -/
structure SameCode (s t : State) (i j : Nat) : Prop where
  istore : (t.cluster (clusterOf j)).istore = (s.cluster (clusterOf i)).istore
  launch : (t.group j).place.launch = (s.group i).place.launch
  image : ∀ l, (t.launch l).image = (s.launch l).image

section
variable {s t : State} {i j gk k : Nat} {a : Strand}

theorem SameCode.headOf (h : SameCode s t i j) (st : Strand) : t.headOf j st = s.headOf i st := by
  have word : ∀ slot blk w, t.codeWord j slot blk w = s.codeWord i slot blk w := fun slot blk w => by
    unfold State.codeWord State.islot
    rw [h.istore, h.launch]
  unfold State.headOf State.blockOf
  rw [funext (word (pcSlot st.pc) (pcBlk st.pc))]

theorem SameCode.limitsOf (h : SameCode s t i j) : t.limitsOf j = s.limitsOf i := by
  unfold State.limitsOf State.imageOf
  rw [h.launch, h.image]

theorem SameCode.afterIn (h : SameCode s t i j) (st : Strand) : t.afterIn j st = s.afterIn i st := by
  unfold State.afterIn
  rw [h.headOf, h.limitsOf]

/-- Whether there is a packet to come to depends on where the strand stands, not on its lanes. -/
theorem State.isSome_afterIn (s : State) (gk : Nat) {a b : Strand} (hpc : a.pc = b.pc) (hblock : a.block = b.block) :
    (s.afterIn gk a).isSome = (s.afterIn gk b).isSome := by
  have head : s.headOf gk a = s.headOf gk b := by
    unfold State.headOf State.blockOf
    rw [hpc, hblock]
  unfold State.afterIn
  rw [head, hpc]
  by_cases packet : pcPk b.pc + 1 < hdrNP (s.headOf gk b)
  · simp only [packet, if_true, Option.isSome_some]
  · by_cases last : pcBlk b.pc < 31 <;> simp only [packet, last, if_true, if_false, Option.isSome_some, Option.isSome_none]

/-- A strand with a packet to come to falls through to it. -/
theorem State.fallThrough_of_afterIn (h : s.afterIn gk ((s.group gk).strand k) = some a) :
    s.fallThrough gk k = s.modGroup gk fun g => g.setStrand k a := by
  rw [fallThrough_at s gk k _ rfl]
  unfold State.afterIn at h
  by_cases packet : pcPk ((s.group gk).strand k).pc + 1 < hdrNP (s.headOf gk ((s.group gk).strand k))
  · rw [if_pos packet] at h ⊢
    cases h
    rfl
  · rw [if_neg packet] at h ⊢
    by_cases last : pcBlk ((s.group gk).strand k).pc < 31
    · rw [if_pos last] at h ⊢
      cases h
      rfl
    · rw [if_neg last] at h
      cases h

end

end Sys2Proof.Machine
end

section
/-! The state of a group across a division and a union (05 Table 5-8): tables cut and stacked, lane registers, masks and strands. -/

namespace Sys2Proof.Machine

/-! ### Tables cut and stacked -/

/-- A part of a table reads at a key what the whole reads higher up. -/
theorem Tab.get_slice {V : Type} (d : V) {a b c : Nat} (h : a + c < b) (t : Tab V) : Tab.get d c (Tab.slice a b t) = Tab.get d (a + c) t := by
  induction t with
  | nil => rfl
  | cons e t ih =>
    obtain ⟨k, v⟩ := e
    by_cases inside : a ≤ k ∧ k < b
    · have cons : Tab.slice a b ((k, v) :: t) = (k - a, v) :: Tab.slice a b t := by simp [Tab.slice, inside]
      rw [cons]
      by_cases hk : k = a + c
      · simp [Tab.get, hk]
      · rw [Tab.get, Tab.get, if_neg (by omega), if_neg hk, ih]
    · have skip : Tab.slice a b ((k, v) :: t) = Tab.slice a b t := by
        simp only [Tab.slice, List.filter_cons, Bool.and_eq_true, decide_eq_true_eq, if_neg inside]
      rw [skip, ih, Tab.get, if_neg (by omega)]

/-- Below w a stacked table is the lower one. -/
theorem get_stack_of_lt {V : Type} (d : V) {c w : Nat} (h : c < w) (a b : Tab V) : Tab.get d c (stack a b w) = Tab.get d c a := by
  induction a with
  | nil =>
    refine Tab.get_of_not_mem d c (b.map fun e => (e.1 + w, e.2)) fun e he => ?_
    obtain ⟨x, -, rfl⟩ := List.mem_map.1 he
    dsimp only
    omega
  | cons e a ih =>
    obtain ⟨k, v⟩ := e
    by_cases low : k < w
    · have cons : stack ((k, v) :: a) b w = (k, v) :: stack a b w := by simp [stack, low]
      rw [cons, Tab.get, Tab.get, ih]
    · have skip : stack ((k, v) :: a) b w = stack a b w := by simp [stack, low]
      rw [skip, ih, Tab.get, if_neg (by omega)]

/-- From w up it is the upper one. -/
theorem get_stack_of_le {V : Type} (d : V) {c w : Nat} (h : w ≤ c) (a b : Tab V) : Tab.get d c (stack a b w) = Tab.get d (c - w) b := by
  induction a with
  | nil =>
    induction b with
    | nil => rfl
    | cons e b ih =>
      obtain ⟨k, v⟩ := e
      have cons : stack [] ((k, v) :: b) w = (k + w, v) :: stack [] b w := rfl
      rw [cons, Tab.get, Tab.get, ih]
      exact if_congr (by omega) rfl rfl
  | cons e a ih =>
    obtain ⟨k, v⟩ := e
    by_cases low : k < w
    · have cons : stack ((k, v) :: a) b w = (k, v) :: stack a b w := by simp [stack, low]
      rw [cons, Tab.get, ih, if_neg (by omega)]
    · have skip : stack ((k, v) :: a) b w = stack a b w := by simp [stack, low]
      rw [skip, ih]

/-- Runs of equal bytes are equal numbers. -/
theorem Tab.readLe_congr {t u : Tab Byte} {a b n : Nat} (h : ∀ c, c < n → Tab.get 0 (a + c) t = Tab.get 0 (b + c) u) :
    Tab.readLe t a n = Tab.readLe u b n := by
  induction n generalizing a b with
  | zero => rfl
  | succ n ih =>
    have first := h 0 (by omega)
    rw [Nat.add_zero, Nat.add_zero] at first
    rw [Tab.readLe, Tab.readLe, first, ih fun c hc => ?_]
    rw [Nat.add_assoc, Nat.add_assoc, Nat.add_comm 1]
    exact h (c + 1) (by omega)

/-- A value for each of the first n keys. -/
theorem Tab.get_foldl_set_range {V : Type} [DecidableEq V] (d : V) (v : Nat → V) {n j : Nat} (h : j < n) :
    Tab.get d j ((List.range n).foldl (fun t i => Tab.set d i (v i) t) []) = v j :=
  Tab.get_foldl_set_of_mem d (fun i => i) (fun _ _ e => e) v [] (List.mem_range.2 h)

/-! ### Masks cut and joined -/

/-- The lanes of part k, of width w. -/
def cutLanes (w k : Nat) (m : LaneMask) : LaneMask := (m >>> (k * w)) &&& fullMask w
/-- A strand of a group in part k of it. -/
def Strand.cut (w k : Nat) (st : Strand) : Strand := { st with members := cutLanes w k st.members, exm := cutLanes w k st.exm }
/-- The lanes of a lower mask with those of an upper one above lane w. -/
def joinLanes (w : Nat) (a b : LaneMask) : LaneMask := a ||| (b <<< w)

theorem getLsbD_fullMask {w i : Nat} (hw : w ≤ 64) (hi : i < w) : (fullMask w).getLsbD i = true := by
  rw [fullMask, BitVec.getLsbD_ofNat, Nat.testBit_two_pow_sub_one]
  simp [hi, hi.trans_le hw]

theorem getLsbD_cutLanes {w i : Nat} (hw : w ≤ 64) (hi : i < w) (k : Nat) (m : LaneMask) :
    (cutLanes w k m).getLsbD i = m.getLsbD (k * w + i) := by
  rw [cutLanes, BitVec.getLsbD_and, BitVec.getLsbD_ushiftRight, getLsbD_fullMask hw hi, Bool.and_true]

theorem getLsbD_joinLanes {w i : Nat} (hi : i < 64) (a b : LaneMask) :
    (joinLanes w a b).getLsbD i = (a.getLsbD i || (decide (w ≤ i) && b.getLsbD (i - w))) := by
  rw [joinLanes, BitVec.getLsbD_or, BitVec.getLsbD_shiftLeft]
  by_cases h : i < w
  · simp [h, Nat.not_le.2 h]
  · simp [h, hi, Nat.not_lt.1 h]

/-! ### A part of a group -/

section
variable (g : Group) (w k : Nat)

theorem Group.readLane_part {i b n : Nat} (hi : i < w) (hb : b + n ≤ 1024) : (g.part w k).readLane i b n = g.readLane (k * w + i) b n := by
  refine Tab.readLe_congr fun c hc => (Tab.get_slice 0 ?_ g.lanes).trans (congrArg (Tab.get 0 · g.lanes) ?_)
  · have lane : i * 1024 + 1024 ≤ w * 1024 := by omega
    rw [Nat.add_mul k 1, Nat.add_mul, Nat.one_mul]
    omega
  · rw [Nat.add_mul]
    omega

theorem Group.pred_part {j : Nat} (hj : j < 8) : (g.part w k).pred j = cutLanes w k (g.pred j) :=
  Tab.get_foldl_set_range 0 (fun n => cutLanes w k (g.pred n)) hj

theorem Group.strand_part {j : Nat} (hj : j < 4) : (g.part w k).strand j = (g.strand j).cut w k :=
  Tab.get_foldl_set_range ({} : Strand) (fun n => (g.strand n).cut w k) hj

theorem Group.hlp_part : (g.part w k).hlp = cutLanes w k g.hlp := rfl

end

/-! ### Two groups joined -/

section
variable (lo hi : Group)

theorem readLane_fuseGroups {i b n : Nat} (hb : b + n ≤ 1024) : (fuseGroups lo hi).readLane i b n =
    if i < lo.place.width then lo.readLane i b n else hi.readLane (i - lo.place.width) b n := by
  split
  next low => exact Tab.readLe_congr fun c hc => get_stack_of_lt 0 (by omega) _ _
  next high =>
    refine Tab.readLe_congr fun c hc => (get_stack_of_le 0 (by omega) _ _).trans (congrArg (Tab.get 0 · hi.lanes) ?_)
    rw [Nat.sub_mul]
    omega

theorem pred_fuseGroups {j : Nat} (hj : j < 8) : (fuseGroups lo hi).pred j = joinLanes lo.place.width (lo.pred j) (hi.pred j) :=
  Tab.get_foldl_set_range 0 (fun n => joinLanes lo.place.width (lo.pred n) (hi.pred n)) hj

/-- The one strand of two groups joined. -/
def fusedStrand : Strand :=
  let a := lo.strand (lo.liveStrands.headD 0)
  let b := hi.strand (hi.liveStrands.headD 0)
  { a with members := joinLanes lo.place.width a.members b.members, exm := joinLanes lo.place.width a.exm b.exm }

theorem strands_fuseGroups : (fuseGroups lo hi).strands = [(lo.liveStrands.headD 0, fusedStrand lo hi)] := rfl

theorem strand_fuseGroups : (fuseGroups lo hi).strand (lo.liveStrands.headD 0) = fusedStrand lo hi := by
  rw [Group.strand, strands_fuseGroups]
  exact if_pos rfl

theorem strand_fuseGroups_ne {j : Nat} (h : j ≠ lo.liveStrands.headD 0) : (fuseGroups lo hi).strand j = {} := by
  rw [Group.strand, strands_fuseGroups]
  exact if_neg h.symm

/-- Its number is that of the lower group's first strand. -/
theorem headD_liveStrands_fuseGroups : (fuseGroups lo hi).liveStrands.headD 0 = lo.liveStrands.headD 0 := by
  have live : (fusedStrand lo hi).live = (lo.strand (lo.liveStrands.headD 0)).live := rfl
  have only : (fuseGroups lo hi).liveStrands
      = (List.range 4).filter fun j => j == lo.liveStrands.headD 0 && (lo.strand (lo.liveStrands.headD 0)).live := by
    refine List.filter_congr fun j _ => ?_
    by_cases h : j = lo.liveStrands.headD 0
    · rw [h, strand_fuseGroups, live, beq_self_eq_true, Bool.true_and]
    · rw [strand_fuseGroups_ne lo hi h, beq_eq_false_iff_ne.2 h, Bool.false_and]
  rw [only]
  cases first : lo.liveStrands with
  | nil =>
    have idle : (lo.strand 0).live = false := by
      have := List.filter_eq_nil_iff.1 first 0 (by decide)
      simpa using this
    simp [idle]
  | cons k l =>
    obtain ⟨hk, hl⟩ : k < 4 ∧ (lo.strand k).live = true := by
      have := List.mem_filter.1 (first ▸ List.mem_cons_self : k ∈ lo.liveStrands)
      simpa using this
    simp only [List.headD_cons, hl, Bool.and_true]
    interval_cases k <;> rfl

/-! ### Release sets united (23 R396) -/

theorem putAged_perm (age : Nat → Nat) (l : Nat) (r : List Nat) : (putAged age l r).Perm (l :: r) := by
  induction r with
  | nil => exact .refl _
  | cons x r ih =>
    rw [putAged]
    split
    · exact .refl _
    · exact (ih.cons x).trans (.swap l x r)

/-- The union has the lines of the lower group and those of the upper that the lower lacks. -/
theorem unite_perm : (unite lo hi).Perm (lo.release ++ hi.release.filter fun l => !lo.release.contains l) := by
  have fold : ∀ ls r : List Nat, (ls.foldl (fun r l => putAged (Group.since lo hi) l r) r).Perm (r ++ ls) := fun ls => by
    induction ls with
    | nil => intro r; rw [List.append_nil]; exact .refl r
    | cons l ls ih =>
      intro r
      rw [List.foldl_cons]
      exact (ih _).trans (((putAged_perm _ l r).append_right ls).trans List.perm_middle.symm)
  exact fold _ []

theorem mem_unite (l : Nat) : l ∈ unite lo hi ↔ l ∈ lo.release ∨ l ∈ hi.release := by
  rw [(unite_perm lo hi).mem_iff]
  by_cases h : l ∈ lo.release <;> simp [h]

theorem nodup_unite (hlo : lo.release.Nodup) (hhi : hi.release.Nodup) : (unite lo hi).Nodup := by
  refine (unite_perm lo hi).nodup_iff.2 (List.nodup_append.2 ⟨hlo, hhi.filter _, fun a ha b hb => ?_⟩)
  rintro rfl
  simp [ha] at hb

end

end Sys2Proof.Machine
end

section
/-! `SPLIT`: the parts of a group put into their slots, and each fallen through to the next packet (05 R98, R100, 07 R139). -/

namespace Sys2Proof.Machine

section
variable {s t : State}

/-! ### What energy leaves of the checks -/

theorem Charges.me (h : Charges s t) : t.me = s.me := by rw [h]; rfl
theorem Charges.launch (h : Charges s t) (l : Nat) : t.launch l = s.launch l := by rw [h]; rfl
theorem Charges.splitStatus (h : Charges s t) (f : Nat) : t.splitStatus f = s.splitStatus f := by rw [h]; rfl
theorem Charges.partSlots (h : Charges s t) (f : Nat) : t.partSlots f = s.partSlots f := by rw [h]; rfl

/-- Energy changes nothing of a cluster but its meters. -/
theorem State.cluster_chargeMe (s : State) (a : Nat) : (s.chargeMe a).cluster s.myCluster =
    { s.cluster s.myCluster with
      meters := ((s.chargeMe a).cluster s.myCluster).meters
      power := { (s.cluster s.myCluster).power with window := ((s.chargeMe a).cluster s.myCluster).power.window } } := by
  have code := ((Moves.refl s).chargeMe a).mine
  have l1 := ((Quiet.refl s).chargeMe a).mine
  have quarters : ((s.chargeMe a).cluster s.myCluster).quarters = (s.cluster s.myCluster).quarters := by rw [l1]
  rw [quarters] at code
  exact code

theorem State.cluster_chargeMe_ne (s : State) (a : Nat) {c : Nat} (h : c ≠ s.myCluster) : (s.chargeMe a).cluster c = s.cluster c :=
  ((Moves.refl s).chargeMe a).away c h

/-- A width word that issues does its work behind the charge, or waits for the partner of a pair (log 82). -/
theorem widthWord_eq {i : Instr} (h : Ready i s) (opens : State → Bool) (go : State → State) :
    widthWord i opens go s = .next (if opens s then go (s.chargeMe eG1) else s.missed) := issue_ready h _

/-! ### The checks of Table 5-6 -/

theorem Group.diverged_iff (g : Group) :
    g.diverged = true ↔ 1 < g.liveStrands.length ∨ ∃ k ∈ g.liveStrands, (g.strand k).rstack ≠ [] := by
  simp [Group.diverged]

theorem Group.pending_iff (g : Group) (paired : Bool) :
    g.pending paired = true ↔ g.paths ≠ [] ∨ g.tx.isOpen = true ∨ paired = true ∧ g.sig ≠ BitVec.allOnes 64 := by
  simp [Group.pending, or_assoc]

theorem State.length_freeSlots (s : State) (gk : Nat) :
    (s.freeSlots gk).length = ((List.range 16).filter fun i => (s.group (gk / 16 * 16 + i)).live = false).length := by
  rw [State.freeSlots, List.filter_map, List.length_map]
  refine congrArg List.length (List.filter_congr fun i _ => ?_)
  simp

theorem State.splitStatus_eq (s : State) (f : Nat) : s.splitStatus f =
    if s.seen.place.width / f < 4 ∨ s.seen.place.width / f < (s.launch s.seen.place.launch).image.wmin then 1
    else if ((List.range 16).filter fun i => (s.group (s.cur.group / 16 * 16 + i)).live = false).length < f - 1 then 2
    else if 1 < s.seen.liveStrands.length ∨ ∃ k ∈ s.seen.liveStrands, (s.seen.strand k).rstack ≠ [] then 3
    else if s.seen.paths ≠ [] ∨ s.seen.tx.isOpen = true
        ∨ (s.launch s.seen.place.launch).paired = true ∧ s.seen.sig ≠ BitVec.allOnes 64 then 4
    else 0 := by
  unfold State.splitStatus
  simp only [Bool.or_eq_true, decide_eq_true_eq, Group.diverged_iff, Group.pending_iff, State.length_freeSlots]

/-! ### The slots that the parts take -/

theorem State.mem_freeSlots {gk k : Nat} (h : k ∈ s.freeSlots gk) : clusterOf k = clusterOf gk ∧ (s.group k).live = false := by
  obtain ⟨hk, free⟩ := List.mem_filter.1 h
  obtain ⟨i, hi, rfl⟩ := List.mem_map.1 hk
  have := List.mem_range.1 hi
  refine ⟨?_, by simpa using free⟩
  unfold clusterOf
  omega

theorem State.clusterOf_partSlots {f k : Nat} (h : k ∈ s.partSlots f) : clusterOf k = s.myCluster := by
  rcases List.mem_cons.1 h with rfl | h
  · rfl
  · exact (State.mem_freeSlots (List.mem_of_mem_take h)).1

theorem State.nodup_partSlots (s : State) (f : Nat) (live : s.me.live = true) : (s.partSlots f).Nodup := by
  have free : (s.freeSlots s.cur.group).Nodup := (List.nodup_range.map fun _ _ h => Nat.add_left_cancel h).filter _
  refine List.nodup_cons.2 ⟨fun h => ?_, free.sublist (List.take_sublist _ _)⟩
  exact Bool.false_ne_true ((State.mem_freeSlots (List.mem_of_mem_take h)).2.symm.trans live)

/-- A group that may be divided by f has the slots for it. -/
theorem State.splits {f : Nat} (h : s.splitStatus f = 0) : 0 < f ∧ f - 1 ≤ (s.freeSlots s.cur.group).length := by
  unfold State.splitStatus at h
  dsimp only at h
  by_cases small : (decide (s.seen.place.width / f < 4)
      || decide (s.seen.place.width / f < (s.launch s.seen.place.launch).image.wmin)) = true
  · rw [if_pos small] at h
    cases h
  · rw [if_neg small] at h
    refine ⟨Nat.pos_of_ne_zero fun zero => small (by simp [zero]), ?_⟩
    by_cases few : (s.freeSlots s.cur.group).length < f - 1
    · rw [if_pos few] at h
      cases h
    · omega

/-- Slot number j of those that the parts take. -/
def State.partSlot (s : State) (j : Nat) : Nat := if j = 0 then s.cur.group else (s.freeSlots s.cur.group).getD (j - 1) 0

theorem State.length_partSlots {f : Nat} (h : s.splitStatus f = 0) : (s.partSlots f).length = f := by
  have := State.splits h
  simp only [State.partSlots, List.length_cons, List.length_take]
  omega

theorem State.getElem_partSlots {f j : Nat} (h : j < (s.partSlots f).length) : (s.partSlots f)[j] = s.partSlot j := by
  cases j with
  | zero => rfl
  | succ j =>
    have bound : j < (s.freeSlots s.cur.group).length := by
      simp only [State.partSlots, List.length_cons, List.length_take] at h
      omega
    simp only [State.partSlots, State.partSlot, List.getElem_cons_succ, List.getElem_take, Nat.succ_ne_zero, if_false, Nat.add_sub_cancel]
    exact (List.getD_eq_getElem _ _ bound).symm

/-! ### The parts in their slots -/

/-- Part e.2 of a group put into slot e.1, all but the first under a new serial number. -/
def State.putPart (g : Group) (w : Nat) (s : State) (e : Nat × Nat) : State :=
  let u := if e.2 == 0 then g.uid else s.nextUid
  { s.setGroup e.1 { g.part w e.2 with uid := u } with nextUid := if e.2 == 0 then s.nextUid else s.nextUid + 1 }

/-- Parts put from number m + 1 up. -/
theorem State.foldl_putPart (g : Group) (w : Nat) (l : List Nat) (distinct : l.Nodup) (m : Nat) (s : State) :
    let t := (l.zipIdx (m + 1)).foldl (State.putPart g w) s
    t = { s with groups := t.groups, nextUid := s.nextUid + l.length } ∧ (∀ i, i ∉ l → t.group i = s.group i)
      ∧ ∀ j (h : j < l.length), t.group l[j] = { g.part w (m + 1 + j) with uid := s.nextUid + j } := by
  induction l generalizing m s with
  | nil => exact ⟨rfl, fun _ _ => rfl, fun j h => absurd h (Nat.not_lt_zero j)⟩
  | cons k l ih =>
    obtain ⟨new, distinct⟩ := List.nodup_cons.1 distinct
    obtain ⟨rest, others, parts⟩ := ih distinct (m + 1) (s.putPart g w (k, m + 1))
    have here : (s.putPart g w (k, m + 1)).group k = { g.part w (m + 1) with uid := s.nextUid } := State.group_setGroup s k _
    have there : ∀ i, i ≠ k → (s.putPart g w (k, m + 1)).group i = s.group i := fun i hi => State.group_setGroup_ne s hi _
    have next : (s.putPart g w (k, m + 1)).nextUid = s.nextUid + 1 := rfl
    rw [next] at rest parts
    rw [List.zipIdx_cons, List.foldl_cons]
    refine ⟨?_, fun i hi => ?_, fun j h => ?_⟩
    · rw [List.length_cons, Nat.add_comm l.length, ← Nat.add_assoc, rest]
      rfl
    · rw [List.mem_cons, not_or] at hi
      exact (others i hi.2).trans (there i hi.1)
    · cases j with
      | zero => exact (others k new).trans here
      | succ j =>
        have part := parts j (Nat.lt_of_succ_lt_succ h)
        rwa [show m + 1 + 1 + j = m + 1 + (j + 1) by omega, show s.nextUid + 1 + j = s.nextUid + (j + 1) by omega] at part

/-- The serial number of part j of a group. -/
def State.partUid (s : State) (g : Group) (j : Nat) : Nat := if j = 0 then g.uid else s.nextUid + (j - 1)

/-- All parts put, the first under the group's own serial number. -/
theorem State.foldl_putPart_all (g : Group) (w : Nat) (k : Nat) (l : List Nat) (distinct : (k :: l).Nodup) (s : State) :
    let t := (k :: l).zipIdx.foldl (State.putPart g w) s
    t = { s with groups := t.groups, nextUid := s.nextUid + l.length } ∧ (∀ i, i ∉ k :: l → t.group i = s.group i)
      ∧ ∀ j (h : j < (k :: l).length), t.group (k :: l)[j] = { g.part w j with uid := s.partUid g j } := by
  obtain ⟨new, distinct⟩ := List.nodup_cons.1 distinct
  obtain ⟨rest, others, parts⟩ := State.foldl_putPart g w l distinct 0 (s.putPart g w (k, 0))
  rw [List.zipIdx_cons, List.foldl_cons]
  refine ⟨?_, fun i hi => ?_, fun j h => ?_⟩
  · rw [rest]
    rfl
  · rw [List.mem_cons, not_or] at hi
    exact (others i hi.2).trans (State.group_setGroup_ne s hi.1 _)
  · cases j with
    | zero => exact (others k new).trans (State.group_setGroup s k _)
    | succ j =>
      have part := parts j (Nat.lt_of_succ_lt_succ h)
      rwa [Nat.zero_add, Nat.add_comm 1] at part

/-- Groups of different slots fall through one after the other, each strand to where its group's code leads. -/
theorem State.foldl_fallThrough (l : List Nat) (distinct : l.Nodup) (s : State)
    (h : ∀ x ∈ l, (s.afterIn x ((s.group x).strand s.cur.strand)).isSome = true) :
    let t := l.foldl (fun s x => s.fallThrough x s.cur.strand) s
    t = { s with groups := t.groups } ∧ (∀ i, i ∉ l → t.group i = s.group i)
      ∧ ∀ x ∈ l, ∃ a, s.afterIn x ((s.group x).strand s.cur.strand) = some a
        ∧ t.group x = (s.group x).setStrand s.cur.strand a := by
  induction l generalizing s with
  | nil => exact ⟨rfl, fun _ _ => rfl, fun x hx => absurd hx List.not_mem_nil⟩
  | cons y l ih =>
    obtain ⟨new, distinct⟩ := List.nodup_cons.1 distinct
    obtain ⟨a, ha⟩ := Option.isSome_iff_exists.1 (h y List.mem_cons_self)
    have other : ∀ x, x ≠ y → (s.modGroup y fun g => g.setStrand s.cur.strand a).group x = s.group x := fun x hx =>
      State.group_modGroup_ne s hx _
    have same : ∀ x, x ≠ y → ∀ st, (s.modGroup y fun g => g.setStrand s.cur.strand a).afterIn x st = s.afterIn x st := fun x hx =>
      SameCode.afterIn ⟨rfl, by rw [other x hx], fun _ => rfl⟩
    have apart : ∀ x ∈ l, x ≠ y := fun x hx e => new (e ▸ hx)
    obtain ⟨rest, others, each⟩ := ih distinct (s.modGroup y fun g => g.setStrand s.cur.strand a) fun x hx => by
      rw [State.modGroup_cur, same x (apart x hx), other x (apart x hx)]
      exact h x (List.mem_cons_of_mem y hx)
    rw [List.foldl_cons, State.fallThrough_of_afterIn ha]
    refine ⟨by rw [rest]; rfl, fun i hi => ?_, fun x hx => ?_⟩
    · rw [List.mem_cons, not_or] at hi
      exact (others i hi.2).trans (other i hi.1)
    · rcases List.mem_cons.1 hx with rfl | hx
      · exact ⟨a, ha, (others x new).trans (State.group_modGroup s x _)⟩
      · obtain ⟨b, hb, hg⟩ := each x hx
        rw [State.modGroup_cur, same x (apart x hx), other x (apart x hx)] at hb
        rw [State.modGroup_cur, other x (apart x hx)] at hg
        exact ⟨b, hb, hg⟩

/-! ### The whole division -/

theorem State.splitGroup_eq (s : State) (d f : Nat) : s.splitGroup d f =
    ((s.partSlots f).foldl (fun t k => t.fallThrough k t.cur.strand)
      ((s.partSlots f).zipIdx.foldl (State.putPart (s.me.setG d 0) (s.me.place.width / f)) s)).moved := rfl

/-- Part j of the moving group once it has been divided by f with its status in G(d), before it falls through. -/
def State.splitPart (s : State) (d f j : Nat) : Group := (s.me.setG d 0).part (s.me.place.width / f) j

/-- A division changes no group but those of the slots that the parts take, which hold the parts at the next packet. -/
theorem State.splitGroup_spec {d f : Nat} (h : s.splitStatus f = 0) (live : s.me.live = true) (hk : s.cur.strand < 4)
    (next : (s.after (s.me.strand s.cur.strand)).isSome = true) :
    let t := s.splitGroup d f
    t = { s with cur := { s.cur with moved := true }, groups := t.groups, nextUid := s.nextUid + (f - 1) }
      ∧ (∀ i, (∀ j, j < f → i ≠ s.partSlot j) → t.group i = s.group i)
      ∧ ∀ j, j < f → ∃ a, s.after ((s.splitPart d f j).strand s.cur.strand) = some a
        ∧ t.group (s.partSlot j) = { (s.splitPart d f j).setStrand s.cur.strand a with uid := s.partUid s.me j } := by
  have length := State.length_partSlots h
  have distinct := s.nodup_partSlots f live
  obtain ⟨rest, others, parts⟩ := State.foldl_putPart_all (s.me.setG d 0) (s.me.place.width / f) _ _ distinct s
  rw [State.splitGroup_eq]
  generalize hu : (s.partSlots f).zipIdx.foldl (State.putPart (s.me.setG d 0) (s.me.place.width / f)) s = u
  change (s.cur.group :: _).zipIdx.foldl _ s = u at hu
  rw [hu] at rest others parts
  have part : ∀ j, j < f → u.group (s.partSlot j) = { s.splitPart d f j with uid := s.partUid s.me j } := fun j hj => by
    rw [← State.getElem_partSlots (length.symm ▸ hj)]
    exact parts j (length.symm ▸ hj)
  have mem : ∀ x ∈ s.partSlots f, ∃ j, j < f ∧ x = s.partSlot j := fun x hx => by
    obtain ⟨j, hj, rfl⟩ := List.getElem_of_mem hx
    exact ⟨j, length ▸ hj, State.getElem_partSlots hj⟩
  have slot : ∀ j, j < f → s.partSlot j ∈ s.partSlots f := fun j hj =>
    State.getElem_partSlots (length.symm ▸ hj) ▸ List.getElem_mem _
  have cur : u.cur = s.cur := by rw [rest]
  have code : ∀ j, j < f → ∀ st, u.afterIn (s.partSlot j) st = s.after st := fun j hj =>
    SameCode.afterIn ⟨by rw [State.clusterOf_partSlots (slot j hj), rest]; rfl, by rw [part j hj]; rfl, by rw [rest]; exact fun _ => rfl⟩
  have strand : ∀ j, (s.splitPart d f j).strand s.cur.strand = (s.me.strand s.cur.strand).cut (s.me.place.width / f) j := fun j =>
    Group.strand_part _ _ _ hk
  obtain ⟨rest', others', each⟩ := State.foldl_fallThrough (s.partSlots f) distinct u fun x hx => by
    obtain ⟨j, hj, rfl⟩ := mem x hx
    rw [code j hj, part j hj, cur]
    change (s.after ((s.splitPart d f j).strand s.cur.strand)).isSome = true
    rw [strand]
    exact (s.isSome_afterIn s.cur.group (a := (s.me.strand s.cur.strand).cut _ j) (b := s.me.strand s.cur.strand) rfl rfl).trans next
  refine ⟨?_, fun i hi => ?_, fun j hj => ?_⟩
  · have count : ((s.freeSlots s.cur.group).take (f - 1)).length = f - 1 := by
      rw [List.length_take, Nat.min_eq_left (State.splits h).2]
    rw [count] at rest
    rw [State.moved, rest', rest]
  · have out : i ∉ s.partSlots f := fun hx => by
      obtain ⟨j, hj, e⟩ := mem i hx
      exact hi j hj e
    exact (others' i out).trans (others i out)
  · obtain ⟨a, ha, hg⟩ := each _ (slot j hj)
    rw [code j hj, part j hj, cur] at ha
    rw [part j hj, cur] at hg
    exact ⟨a, ha, hg⟩

end

end Sys2Proof.Machine
end

section
/-! `FUSE`: its checks, the lines that a union sheds, and the two partners joined (05 R99, R100, 07 R140, 23 R396). -/

namespace Sys2Proof

/-! ### Keys of a table -/

section
variable {V : Type} {j k : Nat} {t : Tab V}

theorem Tab.not_mem_keys_erase (k : Nat) (t : Tab V) : k ∉ (Tab.erase k t).keys := by
  induction t with
  | nil => exact List.not_mem_nil
  | cons e t ih =>
    obtain ⟨a, v⟩ := e
    by_cases h : a = k
    · rw [Tab.erase, if_pos h]
      exact ih
    · rw [Tab.erase, if_neg h]
      exact List.not_mem_cons_of_ne_of_not_mem (Ne.symm h) ih

theorem Tab.mem_keys_of_mem_keys_erase (h : j ∈ (Tab.erase k t).keys) : j ∈ t.keys := by
  induction t with
  | nil => exact h
  | cons e t ih =>
    obtain ⟨a, v⟩ := e
    by_cases ha : a = k
    · rw [Tab.erase, if_pos ha] at h
      exact List.mem_cons_of_mem a (ih h)
    · rw [Tab.erase, if_neg ha] at h
      exact (List.mem_cons.1 h).elim (fun e => List.mem_cons.2 (.inl e)) fun h => List.mem_cons_of_mem a (ih h)

variable [DecidableEq V] {d v : V}

/-- A key that takes the value of an absent one is gone. -/
theorem Tab.not_mem_keys_set_default (k : Nat) (t : Tab V) : k ∉ (Tab.set d k d t).keys := by
  induction t with
  | nil => rw [Tab.set, if_pos rfl]; exact List.not_mem_nil
  | cons e t ih =>
    obtain ⟨a, w⟩ := e
    rw [Tab.set]
    by_cases low : k < a
    · rw [if_pos low, if_pos rfl]
      exact List.not_mem_cons_of_ne_of_not_mem (Nat.ne_of_lt low) (Tab.not_mem_keys_erase k t)
    · by_cases here : k = a
      · rw [if_neg low, if_pos here, if_pos rfl]
        exact Tab.not_mem_keys_erase k t
      · rw [if_neg low, if_neg here]
        exact List.not_mem_cons_of_ne_of_not_mem here ih

/-- A write brings no other key. -/
theorem Tab.not_mem_keys_set (hjk : j ≠ k) (h : j ∉ t.keys) : j ∉ (Tab.set d k v t).keys := by
  have gone : ∀ u : Tab V, j ∉ u.keys → j ∉ (Tab.erase k u).keys := fun u hu he => hu (Tab.mem_keys_of_mem_keys_erase he)
  induction t with
  | nil =>
    rw [Tab.set]
    split
    · exact h
    · exact List.not_mem_cons_of_ne_of_not_mem hjk h
  | cons e t ih =>
    obtain ⟨a, w⟩ := e
    obtain ⟨ha, ht⟩ := List.ne_and_not_mem_of_not_mem_cons h
    rw [Tab.set]
    repeat' split
    · exact List.not_mem_cons_of_ne_of_not_mem ha (gone t ht)
    · exact List.not_mem_cons_of_ne_of_not_mem hjk h
    · exact gone t ht
    · exact List.not_mem_cons_of_ne_of_not_mem hjk ht
    · exact List.not_mem_cons_of_ne_of_not_mem ha (ih ht)

end

namespace Machine

/-! ### Lines written back (10 R221) -/

/-- From s to t lines have been written back from L1: of code, clocks and groups everything stands but release sets and what has left them. -/
structure WroteBack (s t : State) : Prop where
  cur : t.cur = s.cur
  istore : ∀ c, (t.cluster c).istore = (s.cluster c).istore
  image : ∀ l, (t.launch l).image = (s.launch l).image
  group : ∀ i, t.group i = { s.group i with release := (t.group i).release, sent := (t.group i).sent }
  absent : ∀ i, i ∉ s.groups.keys → i ∉ t.groups.keys

section
variable {s t u : State} {gk l : Nat}

theorem WroteBack.refl (s : State) : WroteBack s s := ⟨rfl, fun _ => rfl, fun _ => rfl, fun _ => rfl, fun _ h => h⟩

theorem WroteBack.trans (a : WroteBack s t) (b : WroteBack t u) : WroteBack s u where
  cur := b.cur.trans a.cur
  istore c := (b.istore c).trans (a.istore c)
  image l := (b.image l).trans (a.image l)
  group i := by rw [b.group i, a.group i]
  absent i h := b.absent i (a.absent i h)

theorem WroteBack.of_reqs (s : State) (r : Tab Req) : WroteBack s { s with reqs := r } :=
  ⟨rfl, fun _ => rfl, fun _ => rfl, fun _ => rfl, fun _ h => h⟩

theorem WroteBack.modCluster (s : State) (c : Nat) (f : Cluster → Cluster) (hf : ∀ x, (f x).istore = x.istore) :
    WroteBack s (s.modCluster c f) := by
  refine ⟨rfl, fun i => ?_, fun _ => rfl, fun _ => rfl, fun _ h => h⟩
  by_cases h : i = c
  · subst h
    rw [State.cluster_modCluster, hf]
  · rw [State.cluster_modCluster_ne s h]

/-- A group that was there changes, or one that is absent and stays so. -/
theorem WroteBack.modGroup (a : WroteBack s t) {f : Group → Group} (hf : ∀ g, f g = { g with release := (f g).release, sent := (f g).sent })
    (h : gk ∈ s.groups.keys ∨ f {} = {}) : WroteBack s (t.modGroup gk f) := by
  refine ⟨a.cur, a.istore, a.image, fun i => ?_, fun i hi => ?_⟩
  · by_cases e : i = gk
    · subst e
      rw [State.group_modGroup, hf, a.group]
    · rw [State.group_modGroup_ne t e]
      exact a.group i
  · by_cases e : i = gk
    · subst e
      have vacant : t.group i = {} := Tab.get_of_not_mem_keys ({} : Group) (a.absent i hi)
      have stays : f (t.group i) = {} := (congrArg f vacant).trans (h.resolve_left hi)
      have written : (t.modGroup i f).groups = t.groups.set {} i (f (t.group i)) := rfl
      rw [written, stays]
      exact Tab.not_mem_keys_set_default i t.groups
    · exact Tab.not_mem_keys_set e (a.absent i hi)

/-- From s to t lines have been written back, and of a release set no line has gone but l. -/
structure Drops (l : Nat) (s t : State) : Prop extends WroteBack s t where
  kept : ∀ i, (t.group i).release.filter (· != l) = (s.group i).release.filter (· != l)

theorem Drops.trans (a : Drops l s t) (b : Drops l t u) : Drops l s u :=
  ⟨a.toWroteBack.trans b.toWroteBack, fun i => (b.kept i).trans (a.kept i)⟩

theorem Drops.of_groups (h : WroteBack s t) (hg : t.groups = s.groups) : Drops l s t :=
  ⟨h, fun i => by unfold State.group; rw [hg]⟩

theorem Drops.refl (s : State) : Drops l s s := .of_groups (.refl s) rfl

theorem Drops.dropLine (a : Drops l s t) (h : gk ∈ s.groups.keys) : Drops l s (t.modGroup gk (·.dropLine l)) := by
  refine ⟨a.toWroteBack.modGroup (fun _ => rfl) (.inl h), fun i => ?_⟩
  rw [← a.kept i]
  by_cases e : i = gk
  · subst e
    rw [State.group_modGroup, Group.dropLine]
    simp only [List.filter_filter, Bool.and_self]
  · rw [State.group_modGroup_ne t e]

theorem Drops.dropRelease (s : State) (c l : Nat) : Drops l s (s.dropRelease c l) := by
  unfold State.dropRelease
  dsimp only
  have groups : Drops l s ((s.groupsOn c).foldl (fun s e => if e.2.release.contains l then s.modGroup e.1 (·.dropLine l) else s) s) :=
    List.foldlRecOn _ _ (Drops.refl s) fun t a e he => by
      split
      · exact a.dropLine (List.mem_map.2 ⟨e, (List.mem_filter.1 he).1, rfl⟩)
      · exact a
  generalize (s.groupsOn c).foldl _ s = t at groups ⊢
  split
  · refine groups.trans (.of_groups ⟨rfl, fun _ => rfl, fun i => ?_, fun _ => rfl, fun _ h => h⟩ rfl)
    exact Tab.get_map_left ({} : Launch) _ Launch.image (fun e => by exact ⟨rfl, rfl⟩) i t.launches
  · exact groups

theorem Drops.writeBack (s : State) (c l op : Nat) (sys : Bool) : Drops l s (s.writeBack c l op sys).1 := by
  unfold State.writeBack
  dsimp only
  split
  · exact .refl s
  · refine Drops.trans (.of_groups (.modCluster s c _ ?_) rfl) ((Drops.dropRelease _ c l).trans (.of_groups (.of_reqs _ _) rfl))
    exact fun _ => rfl

/-- A line written back and dropped from the release set of a group. -/
def State.shedLine (gk : Nat) (s : State) (l : Nat) : State :=
  ((s.writeBack (clusterOf gk) l 0 false).1).modGroup gk fun g => { g with release := g.release.filter (· != l) }

theorem WroteBack.shedLine (s : State) (gk l : Nat) : WroteBack s (s.shedLine gk l) :=
  (Drops.writeBack s (clusterOf gk) l 0 false).toWroteBack.modGroup (fun _ => rfl) (.inr rfl)

theorem State.release_shedLine (s : State) (gk l : Nat) :
    ((s.shedLine gk l).group gk).release = (s.group gk).release.filter (· != l) := by
  rw [State.shedLine, State.group_modGroup]
  exact (Drops.writeBack s (clusterOf gk) l 0 false).kept gk

theorem WroteBack.shedLines (gk : Nat) (ls : List Nat) (s : State) : WroteBack s (ls.foldl (State.shedLine gk) s) :=
  List.foldlRecOn ls _ (WroteBack.refl s) fun t a l _ => a.trans (.shedLine t gk l)

theorem State.release_shedLines (gk : Nat) (ls : List Nat) (s : State) :
    ((ls.foldl (State.shedLine gk) s).group gk).release = (s.group gk).release.filter fun x => !ls.contains x := by
  induction ls generalizing s with
  | nil => simp
  | cons l ls ih =>
    rw [List.foldl_cons, ih, State.release_shedLine, List.filter_filter]
    refine List.filter_congr fun x _ => ?_
    rw [List.contains_cons, Bool.not_or, Bool.and_comm]
    rfl

theorem State.shedRelease_eq (s : State) (gk n : Nat) : s.shedRelease gk n =
    ((s.group gk).release.take ((s.group gk).release.length - n)).foldl (State.shedLine gk) s := rfl

/-- What stays of a list without the elements of its first part. -/
theorem filter_not_mem_take (r : List Nat) (m : Nat) :
    r.filter (fun x => !(r.take m).contains x) = (r.drop m).filter fun x => !(r.take m).contains x := by
  conv_lhs => arg 2; rw [← List.take_append_drop m r]
  rw [List.filter_append, List.filter_eq_nil_iff.2 fun x hx => by simp [hx], List.nil_append]

/-- At most n lines stay of a release set, all of a small one, and the newest of one without repetition. -/
theorem State.release_shedRelease (s : State) (gk n : Nat) :
    let r := (s.group gk).release
    let x := ((s.shedRelease gk n).group gk).release
    x.length ≤ n ∧ (r.length ≤ n → x = r) ∧ (r.Nodup → x = r.drop (r.length - n)) := by
  intro r x
  have stays : x = (r.drop (r.length - n)).filter fun y => !(r.take (r.length - n)).contains y :=
    (State.release_shedLines gk _ s).trans (filter_not_mem_take r _)
  refine ⟨?_, fun small => ?_, fun distinct => ?_⟩
  · rw [stays]
    refine (List.length_filter_le _ _).trans ?_
    rw [List.length_drop]
    omega
  · rw [stays, Nat.sub_eq_zero_of_le small]
    simp
  · rw [stays, List.filter_eq_self]
    intro y hy
    have apart := List.disjoint_take_drop distinct (Nat.le_refl (r.length - n))
    simpa using fun h => apart h hy

end

end Machine
end Sys2Proof
end

section
/-! `FUSE`: the two partners joined in the lower slot (05 R100), the checks of Table 5-7, and the end of its wait (05 R99). -/

namespace Sys2Proof.Machine

section
variable {s t : State} {lo hi k d : Nat} {g : Group} {a : Strand}

/-! ### The two partners joined -/

theorem WroteBack.shedRelease (s : State) (gk n : Nat) : WroteBack s (s.shedRelease gk n) := by
  rw [State.shedRelease_eq]
  exact .shedLines gk _ s

/-- A group that falls through to a known packet once lines have been written back: it alone changes, and its release set stands. -/
theorem WroteBack.fallThrough (w : WroteBack s t) (h : s.afterIn lo ((s.group lo).strand k) = some a) :
    t.fallThrough lo k = t.modGroup lo fun g => g.setStrand k a := by
  have place : (t.group lo).place = (s.group lo).place := by rw [w.group lo]
  have strand : (t.group lo).strand k = (s.group lo).strand k := by rw [w.group lo]; rfl
  have code : SameCode s t lo lo := ⟨w.istore _, congrArg Place.launch place, w.image⟩
  exact State.fallThrough_of_afterIn (by rw [strand, code.afterIn]; exact h)

/-- A slot freed and another filled: what the lines written back for the other leave of them. -/
theorem State.shedRelease_setGroup (s : State) (g : Group) (apart : hi ≠ lo) :
    let t := ((s.setGroup hi {}).setGroup lo g).shedRelease lo 64
    t.group hi = {} ∧ t.group lo = { g with release := (t.group lo).release, sent := (t.group lo).sent }
      ∧ (t.group lo).release.length ≤ 64 ∧ (g.release.length ≤ 64 → (t.group lo).release = g.release)
      ∧ (g.release.Nodup → (t.group lo).release = g.release.drop (g.release.length - 64))
      ∧ ∀ i, i ≠ lo → i ≠ hi → t.group i = { s.group i with release := (t.group i).release, sent := (t.group i).sent } := by
  have seated : ((s.setGroup hi {}).setGroup lo g).group lo = g := State.group_setGroup _ lo g
  have gone : hi ∉ ((s.setGroup hi {}).setGroup lo g).groups.keys :=
    Tab.not_mem_keys_set apart (Tab.not_mem_keys_set_default hi s.groups)
  generalize hu : (s.setGroup hi {}).setGroup lo g = u at seated gone
  intro t
  have w : WroteBack u t := .shedRelease u lo 64
  obtain ⟨few, small, newest⟩ := State.release_shedRelease u lo 64
  rw [seated] at small newest
  refine ⟨Tab.get_of_not_mem_keys ({} : Group) (w.absent hi gone), ?_, few, small, newest, fun i hlo hhi => ?_⟩
  · rw [← seated]
    exact w.group lo
  · have other : u.group i = s.group i := by
      rw [← hu, State.group_setGroup_ne _ hlo, State.group_setGroup_ne _ hhi]
    rw [← other]
    exact w.group i

/-- The lower slot of two partners of which the moving group is one. -/
def State.lowerSlot (s : State) (k : Nat) : Nat := if (s.group k).place.off < s.me.place.off then k else s.cur.group
/-- The upper slot. -/
def State.upperSlot (s : State) (k : Nat) : Nat := if s.lowerSlot k = k then s.cur.group else k

theorem State.upperSlot_ne (h : k ≠ s.cur.group) : s.upperSlot k ≠ s.lowerSlot k := by
  unfold State.upperSlot
  split
  next e => rw [e]; exact h.symm
  next e => exact fun x => e x.symm

/-- The group of the two partners, with its status in G(d), before it falls through. -/
def State.fused (s : State) (d k : Nat) : Group := (fuseGroups (s.group (s.lowerSlot k)) (s.group (s.upperSlot k))).setG d 0

theorem State.joinGroups_eq (s : State) (d k : Nat) : s.joinGroups d k =
    (((((s.setGroup (s.upperSlot k) {}).setGroup (s.lowerSlot k) (s.fused d k)).shedRelease (s.lowerSlot k) 64).fallThrough
      (s.lowerSlot k) ((s.fused d k).liveStrands.headD 0)).retarget (clusterOf (s.lowerSlot k))).moved := by
  unfold State.joinGroups State.fused State.upperSlot State.lowerSlot
  simp only [beq_iff_eq]

theorem State.joinGroups_spec (apart : k ≠ s.cur.group)
    (h : s.afterIn (s.lowerSlot k) ((s.fused d k).strand ((s.fused d k).liveStrands.headD 0)) = some a) :
    let t := s.joinGroups d k
    let lo := s.lowerSlot k
    let hi := s.upperSlot k
    let g := s.fused d k
    let n := g.liveStrands.headD 0
    t.cur = { s.cur with moved := true } ∧ t.group hi = {}
      ∧ t.group lo = { g with strands := (t.group lo).strands, release := (t.group lo).release, sent := (t.group lo).sent }
      ∧ (t.group lo).strand n = a ∧ (∀ i, i ≠ n → (t.group lo).strand i = {})
      ∧ (t.group lo).release.length ≤ 64 ∧ (g.release.length ≤ 64 → (t.group lo).release = g.release)
      ∧ ((s.group lo).release.Nodup → (s.group hi).release.Nodup → (t.group lo).release = g.release.drop (g.release.length - 64))
      ∧ ∀ i, i ≠ lo → i ≠ hi → t.group i = { s.group i with release := (t.group i).release, sent := (t.group i).sent } := by
  intro t lo hi g n
  have slots : hi ≠ lo := State.upperSlot_ne apart
  obtain ⟨free, joined, few, small, newest, others⟩ := State.shedRelease_setGroup s g slots
  have w : WroteBack ((s.setGroup hi {}).setGroup lo g) _ := .shedRelease _ lo 64
  have seated : ((s.setGroup hi {}).setGroup lo g).group lo = g := State.group_setGroup _ lo g
  have code : SameCode s ((s.setGroup hi {}).setGroup lo g) lo lo := ⟨rfl, by rw [seated]; rfl, fun _ => rfl⟩
  have next := w.fallThrough (lo := lo) (k := n) (a := a) (by rw [seated, code.afterIn]; exact h)
  have first : n = (s.group lo).liveStrands.headD 0 := headD_liveStrands_fuseGroups (s.group lo) (s.group hi)
  have alone : ∀ i, i ≠ n → g.strand i = {} := fun i hi' => strand_fuseGroups_ne (s.group lo) (s.group hi) (first ▸ hi')
  have united : (s.group lo).release.Nodup → (s.group hi).release.Nodup → g.release.Nodup := nodup_unite (s.group lo) (s.group hi)
  have made : t = (((((s.setGroup hi {}).setGroup lo g).shedRelease lo 64).fallThrough lo n).retarget (clusterOf lo)).moved :=
    State.joinGroups_eq s d k
  rw [next] at made
  generalize ((s.setGroup hi {}).setGroup lo g).shedRelease lo 64 = u at *
  have group : ∀ i, t.group i = (u.modGroup lo fun x => x.setStrand n a).group i := fun i => by rw [made]; rfl
  have here : t.group lo = (u.group lo).setStrand n a := (group lo).trans (State.group_modGroup u lo _)
  have there : ∀ i, i ≠ lo → t.group i = u.group i := fun i hi => (group i).trans (State.group_modGroup_ne u hi _)
  have release : (t.group lo).release = (u.group lo).release := by rw [here]; rfl
  refine ⟨?_, (there hi slots).trans free, ?_, ?_, fun i hi => ?_, ?_, ?_, ?_, fun i hlo hhi => ?_⟩
  · have cur : u.cur = s.cur := w.cur
    rw [made, ← cur]
    rfl
  · rw [here, joined]
    rfl
  · rw [here]
    exact Group.strand_setStrand _ n a
  · rw [here, Group.strand_setStrand_ne _ hi, joined]
    exact alone i hi
  · exact release ▸ few
  · exact release ▸ small
  · exact fun hl hh => release.trans (newest (united hl hh))
  · rw [there i hlo]
    exact others i hlo hhi

end
end Sys2Proof.Machine
end

section
/-! The checks of Table 5-7, the end of the wait for a partner, and the statement on words of width (05 R98 to R100, 07 R139, R140, 23 R396). -/

namespace Sys2Proof.Machine

section
variable {s t : State}

/-! ### What energy leaves of the checks of `FUSE` -/

theorem Charges.buddy (h : Charges s t) (gk : Nat) : t.buddy gk = s.buddy gk := by rw [h]; rfl
theorem Charges.fuseStatus (h : Charges s t) : t.fuseStatus = s.fuseStatus := by rw [h]; rfl

/-! ### The checks of Table 5-7 -/

theorem State.fuseStatus_eq (s : State) : s.fuseStatus =
    if (s.launch s.seen.place.launch).image.wmax < 2 * s.seen.place.width then 6
    else if 1 < s.seen.liveStrands.length ∨ ∃ k ∈ s.seen.liveStrands, (s.seen.strand k).rstack ≠ [] then 3
    else if s.seen.paths ≠ [] ∨ s.seen.tx.isOpen = true
        ∨ (s.launch s.seen.place.launch).paired = true ∧ s.seen.sig ≠ BitVec.allOnes 64 then 4
    else match s.buddy s.cur.group with
      | none => 1
      | some k =>
        let p := s.group k
        if p.place.role ≠ s.seen.place.role then 8
        else if (p.vwv, p.vwt, p.vwa) ≠ (s.seen.vwv, s.seen.vwt, s.seen.vwa) then 5
        else if p.descheduled = true then 7
        else match p.wait with
          | .fuse _ _ =>
            let q := p.strand (p.liveStrands.headD 0)
            if pcSame q.pc s.str.pc = false ∨ q.calls ≠ s.str.calls then 2 else 0
          | _ => 0 := by
  unfold State.fuseStatus
  simp only [Group.diverged_iff, Group.pending_iff]
  refine if_congr Iff.rfl rfl (if_congr Iff.rfl rfl (if_congr Iff.rfl rfl ?_))
  cases s.buddy s.cur.group with
  | none => rfl
  | some k =>
    have windows : ((s.group k).vwv != s.seen.vwv || (s.group k).vwt != s.seen.vwt || (s.group k).vwa != s.seen.vwa) = true
        ↔ ((s.group k).vwv, (s.group k).vwt, (s.group k).vwa) ≠ (s.seen.vwv, s.seen.vwt, s.seen.vwa) := by
      simp only [Bool.or_eq_true, bne_iff_ne, ne_eq, Prod.mk.injEq, not_and_or, or_assoc]
    refine if_congr bne_iff_ne rfl (if_congr windows rfl (if_congr Iff.rfl rfl ?_))
    cases (s.group k).wait with
    | fuse _ _ => exact if_congr (by simp) rfl rfl
    | _ => rfl

/-! ### FUSE_WAIT_TIMEOUT -/

/-- A group that has its status moves on alone. -/
theorem State.fuseWait_over (s : State) (gk : Nat) (g : Group) {k : Nat} {a : Strand} (place : g.place = (s.group gk).place)
    (strands : g.strands = (s.group gk).strands) (h : s.afterIn gk ((s.group gk).strand k) = some a) :
    let t := (s.setGroup gk g).fallThrough gk k
    t = { s with groups := t.groups } ∧ t.group gk = g.setStrand k a ∧ ∀ i, i ≠ gk → t.group i = s.group i := by
  have here : (s.setGroup gk g).group gk = g := State.group_setGroup s gk g
  have code : SameCode s (s.setGroup gk g) gk gk := ⟨rfl, by rw [here, place], fun _ => rfl⟩
  have strand : g.strand k = (s.group gk).strand k := by rw [Group.strand, strands, Group.strand]
  intro t
  have made : t = (s.setGroup gk g).modGroup gk fun g => g.setStrand k a :=
    State.fallThrough_of_afterIn (by rw [here, code.afterIn, strand]; exact h)
  refine ⟨by rw [made]; rfl, ?_, fun i hi => ?_⟩
  · rw [made, State.group_modGroup, here]
  · rw [made, State.group_modGroup_ne _ hi]
    exact State.group_setGroup_ne s hi g

theorem execFuseWaitTimeout_late {gk d x : Nat} (h : (s.group gk).wait = .fuse d x) (late : x ≤ s.clk (clusterOf gk)) :
    exec (.fuseWaitTimeout gk) s = .next
      ((s.modGroup gk fun g => { g.setG d 7 with wait := .none }).fallThrough gk ((s.group gk).liveStrands.headD 0)) := by
  change execFuseWaitTimeout gk s = _
  unfold execFuseWaitTimeout
  simp only [h, late, if_true]

theorem execFuseWaitTimeout_early {gk d x : Nat} (h : (s.group gk).wait = .fuse d x) (early : s.clk (clusterOf gk) < x) :
    exec (.fuseWaitTimeout gk) s = .next s := by
  change execFuseWaitTimeout gk s = _
  unfold execFuseWaitTimeout
  simp only [h, Nat.not_le.2 early, if_false]

theorem execFuseWaitTimeout_over {gk : Nat} (h : (s.group gk).wait = .fuseOver) :
    exec (.fuseWaitTimeout gk) s = .next
      ((s.modGroup gk fun g => { g with wait := .none }).fallThrough gk ((s.group gk).liveStrands.headD 0)) := by
  change execFuseWaitTimeout gk s = _
  unfold execFuseWaitTimeout
  simp only [h]

/-! ### `SPLIT` -/

theorem execSplit_eq {d : BitVec 7} {f : BitVec 8} (h : Ready (.split d f) s) : exec (.split d f) s =
    .next (if s.pairEven s.cur.group then
      if s.splitStatus f.toNat = 0 then (s.chargeMe eG1).splitGroup d.toNat f.toNat
      else ((s.chargeMe eG1).modMe fun g => g.setG d.toNat (BitVec.ofNat 32 (s.splitStatus f.toNat))).fallMe.moved
    else s.missed) := by
  change execSplit d f s = _
  rw [execSplit, widthWord_eq h]
  simp only [(Charges.chargeMe s eG1).splitStatus, beq_iff_eq]

/-! ### `FUSE` -/

theorem execFuse_uneven {d : BitVec 7} (h : Ready (.fuse d) s) (uneven : s.fuseEven = false) : exec (.fuse d) s = .next s.missed := by
  change execFuse d s = _
  rw [execFuse, widthWord_eq h]
  rw [uneven]
  rfl

theorem execFuse_refused {d : BitVec 7} (h : Ready (.fuse d) s) (even : s.fuseEven = true) (refused : s.fuseStatus ≠ 0) :
    exec (.fuse d) s = .next
      (((s.chargeMe eG1).endFuse s.cur.group s.fuseStatus).modMe fun g => g.setG d.toNat (BitVec.ofNat 32 s.fuseStatus)).fallMe.moved := by
  have c := Charges.chargeMe s eG1
  change execFuse d s = _
  rw [execFuse, widthWord_eq h]
  simp only [even, if_true, c.fuseStatus, c.cur, bne_iff_ne, ne_eq, refused, not_false_eq_true]

theorem execFuse_joins {d : BitVec 7} {k e x : Nat} (h : Ready (.fuse d) s) (even : s.fuseEven = true) (ok : s.fuseStatus = 0)
    (partner : s.buddy s.cur.group = some k) (parked : (s.group k).wait = .fuse e x) :
    exec (.fuse d) s = .next ((s.chargeMe eG1).joinGroups d.toNat k) := by
  have c := Charges.chargeMe s eG1
  change execFuse d s = _
  rw [execFuse, widthWord_eq h]
  simp [even, c.fuseStatus, c.cur, c.buddy, c.group, ok, partner, parked]

theorem execFuse_parks {d : BitVec 7} {k : Nat} (h : Ready (.fuse d) s) (even : s.fuseEven = true) (ok : s.fuseStatus = 0)
    (partner : s.buddy s.cur.group = some k) (away : ∀ e x, (s.group k).wait ≠ .fuse e x) :
    Leaves s (exec (.fuse d) s) true { s.me with wait := .fuse d.toNat (s.clk s.myCluster + 1024) } := by
  have c := Charges.chargeMe s eG1
  have m := (Moves.refl s).chargeMe eG1
  have parks := (m.modMe fun g => { g with wait := .fuse d.toNat ((s.chargeMe eG1).clk (s.chargeMe eG1).myCluster + 1024) }).moved
  rw [m.clk, m.myCluster] at parks
  refine ⟨_, ?_, parks⟩
  change execFuse d s = _
  rw [execFuse, widthWord_eq h]
  simp only [even, if_true, c.fuseStatus, c.cur, c.buddy, c.group, ok, partner, bne_self_eq_false, Bool.false_eq_true, if_false,
    m.clk, m.myCluster]

end

theorem SameCode.chargeMe (s : State) (a gk : Nat) : SameCode s (s.chargeMe a) gk gk :=
  ⟨((Moves.refl s).chargeMe a).istore _, by rw [(Charges.chargeMe s a).group], fun l => by rw [(Charges.chargeMe s a).launch]⟩

/-- A division behind its charge: only the groups in the slots of the parts, a serial number for each new one, and energy. -/
theorem State.splitGroup_chargeMe {s : State} {d f : Nat} (ok : s.splitStatus f = 0) (live : s.me.live = true) (hk : s.cur.strand < 4)
    (next : (s.after (s.me.strand s.cur.strand)).isSome = true) :
    let t := (s.chargeMe eG1).splitGroup d f
    t = { s with cur := { s.cur with moved := true }, groups := t.groups, clusters := t.clusters, nextUid := s.nextUid + (f - 1) }
      ∧ t.clusters = (s.chargeMe eG1).clusters
      ∧ (∀ i, (∀ j, j < f → i ≠ s.partSlot j) → t.group i = s.group i)
      ∧ ∀ j, j < f → ∃ a, s.after ((s.splitPart d f j).strand s.cur.strand) = some a
        ∧ t.group (s.partSlot j) = { (s.splitPart d f j).setStrand s.cur.strand a with uid := s.partUid s.me j } := by
  have m := (Moves.refl s).chargeMe eG1
  have c := Charges.chargeMe s eG1
  have after : ∀ st, (s.chargeMe eG1).after st = s.after st := fun st => by
    unfold State.after
    rw [c.cur]
    exact (SameCode.chargeMe s eG1 _).afterIn st
  have strand : (s.chargeMe eG1).cur.strand = s.cur.strand := m.cur_strand
  have slot : ∀ j, (s.chargeMe eG1).partSlot j = s.partSlot j := fun j => by rw [c]; rfl
  have part : ∀ j, (s.chargeMe eG1).splitPart d f j = s.splitPart d f j := fun j => by rw [State.splitPart, c.me]; rfl
  have uid : ∀ j, (s.chargeMe eG1).partUid (s.chargeMe eG1).me j = s.partUid s.me j := fun j => by rw [c.me, c]; rfl
  obtain ⟨rest, others, parts⟩ := State.splitGroup_spec (s := s.chargeMe eG1) (d := d) (c.splitStatus f ▸ ok) (c.me ▸ live)
    (strand ▸ hk) (by rw [after, c.me, strand]; exact next)
  generalize (s.chargeMe eG1).splitGroup d f = t at rest others parts ⊢
  refine ⟨?_, by rw [rest], fun i hi => ?_, fun j hj => ?_⟩
  · rw [rest, m.rest]
  · rw [← c.group]
    exact others i fun j hj => slot j ▸ hi j hj
  · obtain ⟨a, ha, hg⟩ := parts j hj
    rw [after, part, strand] at ha
    rw [slot, part, strand, uid] at hg
    exact ⟨a, ha, hg⟩

/-- Settles O20: `SPLIT` gives its parts to the slots by one walk over them (`State.splitGroup_spec`), `FUSE` seats the joined group and
writes its oldest lines back (`State.joinGroups_spec`), and what a part or a union holds is read through its tables cut or stacked. -/
theorem widthWords : Obligations.WidthWords := by
  refine ⟨fun s d f ready => ?_, State.splitStatus_eq, fun s d ready => ?_, State.fuseStatus_eq, fun g w k i b n j hi hw hb hj => ?_,
    fun lo hi i b n j hi' hw hb hj => ?_, fun s gk => ?_⟩
  · intro o k slot
    have made := execSplit_eq ready
    refine ⟨fun uneven => ?_, fun even refused => ?_, fun even ok live hk next => ?_⟩
    · rw [uneven] at made
      exact made
    · rw [if_pos even, if_neg refused] at made
      exact ⟨_, ((Moves.refl s).chargeMe eG1).modMe _, made⟩
    · rw [if_pos even, if_pos ok] at made
      obtain ⟨rest, clusters, others, parts⟩ := State.splitGroup_chargeMe (d := d.toNat) ok live hk next
      have cluster : ∀ c, (((s.chargeMe eG1).splitGroup d.toNat f.toNat).cluster c) = (s.chargeMe eG1).cluster c := fun c =>
        congrArg (Tab.get ({} : Cluster) c) clusters
      refine ⟨_, made, rest, fun c hc => (cluster c).trans (State.cluster_chargeMe_ne s eG1 hc), ?_, others, fun j hj => ?_⟩
      · rw [cluster]
        exact State.cluster_chargeMe s eG1
      · obtain ⟨a, ha, hg⟩ := parts j hj
        intro p g
        have held : g = { p.setStrand k a with uid := s.partUid s.me j } := hg
        have strand : g.strand k = a := by rw [held]; exact Group.strand_setStrand p k a
        refine ⟨by rw [held]; rfl, strand ▸ ha, fun i hi => ?_⟩
        rw [held]
        exact Group.strand_setStrand_ne p hi a
  · refine ⟨execFuse_uneven ready, fun even refused => ⟨_, (Moves.refl s).chargeMe eG1, execFuse_refused ready even refused⟩,
      fun k e x even ok partner apart parked => ?_, fun k even ok partner away => execFuse_parks ready even ok partner away⟩
    intro lo hi g n a next
    have c := Charges.chargeMe s eG1
    have lower : (s.chargeMe eG1).lowerSlot k = lo := by unfold State.lowerSlot; rw [c.group, c.me, c.cur]
    have upper : (s.chargeMe eG1).upperSlot k = hi := by
      unfold State.upperSlot
      rw [lower, c.cur]
    have fused : (s.chargeMe eG1).fused d.toNat k = g := by
      unfold State.fused
      rw [lower, upper, c.group, c.group]
    have joined := State.joinGroups_spec (s := s.chargeMe eG1) (d := d.toNat) (a := a) (c.cur ▸ apart)
      (by rw [lower, fused, (SameCode.chargeMe s eG1 lo).afterIn]; exact next)
    simp only [lower, upper, fused, c.cur, c.group] at joined
    exact ⟨_, execFuse_joins ready even ok partner parked, joined⟩
  · exact ⟨g.readLane_part w k hi hb, by rw [Group.pred_part g w k hj, getLsbD_cutLanes hw hi],
      by rw [Group.hlp_part, getLsbD_cutLanes hw hi], fun hj => by
        rw [Group.strand_part g w k hj]
        exact ⟨getLsbD_cutLanes hw hi k _, getLsbD_cutLanes hw hi k _, rfl⟩, rfl, rfl⟩
  · have lane : i < 64 := by omega
    intro w g k h both
    have strand : g.strand k = fusedStrand lo hi := strand_fuseGroups lo hi
    refine ⟨readLane_fuseGroups lo hi hb, ?_, getLsbD_joinLanes lane _ _, ?_, ?_, ?_, rfl, rfl, mem_unite lo hi⟩
    · rw [pred_fuseGroups lo hi hj]
      exact getLsbD_joinLanes lane _ _
    · rw [strand]
      exact getLsbD_joinLanes lane _ _
    · rw [strand]
      exact getLsbD_joinLanes lane _ _
    · rw [strand]
      rfl
  · refine ⟨fun d x => execFuseWaitTimeout_late, fun d x a wait late next => ⟨_, execFuseWaitTimeout_late wait late, ?_⟩,
      fun d x => execFuseWaitTimeout_early, execFuseWaitTimeout_over⟩
    exact State.fuseWait_over s gk { (s.group gk).setG d 7 with wait := .none } rfl rfl next

end Sys2Proof.Machine
end

section
/-! Groups that end, strands that merge, deadlines and broken holds (05 R87, R91, 08 R163, R164, R174). -/

namespace Sys2Proof.Machine

/-! ### The end of a group (08 R174) -/

/-- From s to t memory, the slices, the groups and the bytes of every scratchpad stand. -/
structure Stands (s t : State) : Prop where
  mem : t.mem = s.mem
  slices : t.slices = s.slices
  groups : t.groups = s.groups
  scratch : ∀ x, (t.team x).scratch = (s.team x).scratch

section
variable {s t u : State}

theorem Stands.refl (s : State) : Stands s s := ⟨rfl, rfl, rfl, fun _ => rfl⟩

theorem Stands.trans (a : Stands s t) (b : Stands t u) : Stands s u :=
  ⟨b.mem.trans a.mem, b.slices.trans a.slices, b.groups.trans a.groups, fun x => (b.scratch x).trans (a.scratch x)⟩

theorem SameBytes.of_slices (mem : t.mem = s.mem) (slices : t.slices = s.slices) (scratch : ∀ x, (t.team x).scratch = (s.team x).scratch) :
    SameBytes s t where
  mem := mem
  home pa := by
    unfold State.homeByte State.slice State.memByte
    rw [slices, mem]
  scratch := scratch

theorem Stands.group (h : Stands s t) (k : Nat) : t.group k = s.group k := by
  unfold State.group
  rw [h.groups]

theorem Charges.stands (h : Charges s t) : Stands s t :=
  ⟨h.mem, h.slices, h.groups, fun x => by rw [h.behind.team]⟩

theorem Stands.ite {c : Prop} [Decidable c] (h : Stands s t) (k : Stands s u) : Stands s (if c then t else u) := by
  split
  · exact h
  · exact k

theorem Stands.modLaunch (s : State) (k : Nat) (f : Launch → Launch) : Stands s (s.modLaunch k f) := ⟨rfl, rfl, rfl, fun _ => rfl⟩
theorem Stands.modQuote (s : State) (k : Nat) (f : QEntry → QEntry) : Stands s (s.modQuote k f) := ⟨rfl, rfl, rfl, fun _ => rfl⟩

theorem Stands.modTeam (s : State) (k : Nat) (f : Team → Team) (hf : ∀ x, (f x).scratch = x.scratch) : Stands s (s.modTeam k f) := by
  refine ⟨rfl, rfl, rfl, fun x => ?_⟩
  by_cases h : x = k
  · subst h
    rw [State.team_modTeam, hf]
  · rw [State.team_modTeam_ne s h]

theorem Charges.fall (s : State) (cl q : Nat) : Charges s (s.fall cl q) := by
  unfold State.fall
  dsimp only
  split
  · exact .refl s
  · exact (Charges.foldl _ (fun s _ => .modCluster s cl _) _ s).trans (.modCluster _ cl _)

theorem Charges.unbind (s : State) (cl lk : Nat) : Charges s (s.unbind cl lk) := by
  unfold State.unbind
  split
  · exact .refl s
  · exact .modCluster s cl _

theorem Stands.pauseSvc (s : State) (lk : Nat) : Stands s (s.pauseSvc lk) := .ite (.modQuote s _ _) (.refl s)

/-- A group that leaves changes its own slot, and of the rest neither a group nor a byte. -/
theorem Stands.leave (s : State) (gk : Nat) : Stands (s.setGroup gk {}) (s.leave gk) := by
  have team : ∀ (s : State) (k : Nat) (f : Team → Team), (∀ x, (f x).scratch = x.scratch) →
      Stands s (s.modTeam k fun t => if t.live then f t else t) := fun s k f hf => .modTeam s k _ fun x => by
    split
    · exact hf x
    · rfl
  unfold State.leave
  extract_lets g cl lines left gone rest done fallen
  have hleft : Stands (s.setGroup gk {}) left := .modLaunch _ _ _
  have hgone : Stands left gone := team _ _ _ fun _ => rfl
  have hdone : Stands gone done := by
    refine .ite (.refl _) (Stands.trans ?_ (.pauseSvc _ _))
    refine Stands.trans ?_ (Charges.unbind _ _ _).stands
    exact team _ _ _ fun _ => rfl
  have hfallen : Stands done fallen := .ite (.refl _) (Charges.fall _ _ _).stands
  exact (((hleft.trans hgone).trans hdone).trans hfallen).trans (Charges.retarget _ _).stands

theorem execGroupEnd_idle {g : Nat} (live : (s.group g).live = true) (ended : (s.group g).ended = true) (paths : (s.group g).paths = [])
    (fence : (s.group g).fence = none) (ops : ∀ e ∈ s.ops, e.2.live = true → e.2.group ≠ g)
    (single : (s.launch (s.group g).place.launch).paired = false) : exec (.groupEnd g) s = .next (s.leave g) := by
  have idle : (s.ops.any fun e => e.2.live && e.2.group == g && e.2.uid == (s.group g).uid) = false :=
    List.any_eq_false.2 fun e he h => by
      simp only [Bool.and_eq_true, beq_iff_eq] at h
      exact ops e he h.1.1 h.1.2
  change execGroupEnd g s = _
  unfold execGroupEnd
  simp only [live, ended, paths, fence, idle, single]
  rfl

theorem execGroupEnd_busy {g : Nat}
    (busy : (s.group g).live = false ∨ (s.group g).ended = false ∨ (s.group g).paths ≠ [] ∨ (s.group g).fence ≠ none) :
    exec (.groupEnd g) s = .next s := by
  change execGroupEnd g s = _
  unfold execGroupEnd
  refine if_neg fun h => ?_
  simp only [Bool.and_eq_true, List.isEmpty_iff, Option.isNone_iff_eq_none] at h
  obtain ⟨⟨⟨⟨⟨live, ended⟩, paths⟩, fence⟩, -⟩, -⟩ := h
  simp [live, ended, paths, fence] at busy

/-! ### Two strands become one (05 R87, 08 R163) -/

/-- Of every key the larger value. -/
theorem Tab.get_foldl_max (b : Tab Nat) (l : List Nat) (t : Tab Nat) (j : Nat) :
    Tab.get 0 j (l.foldl (fun t k => Tab.set 0 k (max (Tab.get 0 k b) (Tab.get 0 k t)) t) t)
      = if j ∈ l then max (Tab.get 0 j t) (Tab.get 0 j b) else Tab.get 0 j t := by
  induction l generalizing t with
  | nil => simp
  | cons k l ih =>
    rw [List.foldl_cons, ih]
    by_cases hk : j = k
    · subst hk
      rw [Tab.get_set_same, if_pos List.mem_cons_self]
      split <;> omega
    · rw [Tab.get_set_ne _ hk]
      simp only [List.mem_cons, hk, false_or]

theorem get_trips_mergeStrands (a b : Strand) (j : Nat) :
    (mergeStrands a b).trips.get 0 j = max (a.trips.get 0 j) (b.trips.get 0 j) := by
  refine (Tab.get_foldl_max b.trips b.trips.keys a.trips j).trans ?_
  split
  · rfl
  next away => rw [Tab.get_of_not_mem_keys 0 away, Nat.max_zero]

theorem park_mergeStrands {a b : Strand} (ha : a.park = .running) (hb : b.park = .running) : (mergeStrands a b).park = .running := by
  unfold mergeStrands
  simp only [ha, hb]

/-- Strands of which none is parked at a `JOIN` stay as they are. -/
theorem State.settleJoins_of_none {gk : Nat} (h : ∀ k d, k < 4 → ((s.group gk).strand k).park ≠ .join d) : s.settleJoins gk = s := by
  refine List.foldlRecOn (List.range 4) _ (motive := fun t => t = s) rfl fun t ht k hk => ?_
  rw [ht]
  dsimp only
  split
  next d park => exact absurd park (h k d (List.mem_range.1 hk))
  · rfl

/-- A group of which a strand runs has not ended. -/
theorem State.settleEnd_of_running {gk k : Nat} (hk : k < 4) (live : ((s.group gk).strand k).live = true)
    (runs : ((s.group gk).strand k).park = .running) : s.settleEnd gk = s := by
  refine if_neg fun h => ?_
  simp only [Bool.and_eq_true, List.all_eq_true] at h
  have := h.2 k (List.mem_filter.2 ⟨List.mem_range.2 hk, live⟩)
  rw [runs] at this
  cases this

/-- The group with two of its strands merged. -/
def Group.merged (x : Group) (lo hi : Nat) : Group :=
  { (x.setStrand lo { mergeStrands (x.strand lo) (x.strand hi) with drain := x.openOps lo ++ x.openOps hi }).setStrand hi {} with
    paths := x.paths.map fun o => if o.strand == hi then { o with strand := lo } else o }

theorem Group.strand_merged_same (x : Group) {lo hi : Nat} (h : lo ≠ hi) : (x.merged lo hi).strand lo =
    { mergeStrands (x.strand lo) (x.strand hi) with drain := x.openOps lo ++ x.openOps hi } :=
  (Group.strand_setStrand_ne _ h _).trans (Group.strand_setStrand _ _ _)

theorem Group.strand_merged_gone (x : Group) (lo hi : Nat) : (x.merged lo hi).strand hi = {} := Group.strand_setStrand _ _ _

theorem Group.strand_merged_ne (x : Group) {lo hi k : Nat} (hl : k ≠ lo) (hh : k ≠ hi) : (x.merged lo hi).strand k = x.strand k :=
  (Group.strand_setStrand_ne _ hh _).trans (Group.strand_setStrand_ne _ hl _)

theorem live_of_mergeable {a b : Strand} (h : mergeable a b = true) : a.live = true := by
  simp only [mergeable, Bool.and_eq_true] at h
  exact h.1.1.1.1.1

theorem execStrandMerge_running {g lo hi : Nat} (live : (s.group g).live = true) (order : lo < hi) (hhi : hi < 4)
    (alike : mergeable ((s.group g).strand lo) ((s.group g).strand hi) = true)
    (runs : ((s.group g).strand lo).park = .running) (runs' : ((s.group g).strand hi).park = .running)
    (none : ∀ k d, k < 4 → ((s.group g).strand k).park ≠ .join d) :
    exec (.strandMerge g lo hi) s = .next (s.modGroup g fun x => x.merged lo hi) := by
  have here : (s.modGroup g fun x => x.merged lo hi).group g = (s.group g).merged lo hi := State.group_modGroup s g _
  have first := (s.group g).strand_merged_same (Nat.ne_of_lt order)
  have park := park_mergeStrands runs runs'
  have joins : (s.modGroup g fun x => x.merged lo hi).settleJoins g = s.modGroup g fun x => x.merged lo hi :=
    State.settleJoins_of_none fun k d hk => by
      rw [here]
      by_cases hl : k = lo
      · rw [hl, first]
        simp only [park, ne_eq, reduceCtorEq, not_false_eq_true]
      · by_cases hh : k = hi
        · rw [hh, Group.strand_merged_gone]
          simp
        · rw [Group.strand_merged_ne _ hl hh]
          exact none k d hk
  have ends : (s.modGroup g fun x => x.merged lo hi).settleEnd g = s.modGroup g fun x => x.merged lo hi :=
    State.settleEnd_of_running (k := lo) (by omega) (by rw [here, first]; exact live_of_mergeable alike)
      (by rw [here, first]; exact park)
  change execStrandMerge g lo hi s = _
  unfold execStrandMerge
  simp only [live, order, hhi, alike, decide_true, Bool.and_self, if_true]
  exact congrArg Host.Outcome.next ((congrArg (State.settleEnd · g) joins).trans ends)

theorem execStrandMerge_apart {g lo hi : Nat} (apart : mergeable ((s.group g).strand lo) ((s.group g).strand hi) = false) :
    exec (.strandMerge g lo hi) s = .next s := by
  change execStrandMerge g lo hi s = _
  unfold execStrandMerge
  simp only [apart, Bool.and_false, Bool.false_eq_true, if_false]

theorem SameBytes.modGroup (s : State) (k : Nat) (f : Group → Group) : SameBytes s (s.modGroup k f) := ⟨rfl, fun _ => rfl, fun _ => rfl⟩

/-! ### Deadlines and broken holds (05 R91, 08 R164) -/

theorem execJoinDeadline_eq {g st d : Nat} (h : ((s.group g).strand st).park = .join d) : exec (.joinDeadline g st) s =
    if (s.group g).live && decide (d ≤ s.clk (clusterOf g)) then .next (s.completeJoin g st) else .next s := by
  change execJoinDeadline g st s = _
  unfold execJoinDeadline
  simp only [h]

/-- A group back at the first packet of its broken run. -/
def Group.unheld (g : Group) (h : Hold) (awaits : List Nat × List (Nat × Dword)) : Group :=
  let late := (g.flight.map Flight.strand) == some h.strand
  { g.setStrand h.strand { g.strand h.strand with pc := h.first, block := [] } with
    progress := g.progress - BitVec.ofNat 64 (if late then h.packets - 1 else h.packets)
    flight := if late then none else g.flight
    lost := g.lost ||| h.latches, awaits := awaits.1, awaitsFlight := awaits.2 }

theorem execSwitchHoldBreak_eq {cl q : Nat} {h : Hold} (held : (s.quarter cl q).hold = some h) : exec (.switchHoldBreak cl q) s =
    if h.since + 32 ≤ s.clk cl then
      .next ((s.modQuarter cl q fun x => { x with hold := none }).modGroup h.group fun g => g.unheld h (s.holdingOps h.group h.strand))
    else .next s := by
  change execSwitchHoldBreak cl q s = _
  unfold execSwitchHoldBreak
  simp only [held]
  rfl

end

end Sys2Proof.Machine
end

section
/-! Bytes that an engine or a message lands in a scratchpad: which they change, and what of groups, teams and operations stands (12 R262,
14 R304). -/

namespace Sys2Proof.Machine

section
variable {s t u : State} {team a : Nat}

/-- From s to t bytes of scratchpads have been written and waits on them decided: of memory, operations, groups and teams all else stands. -/
structure Fills (s t : State) : Prop where
  mem : t.mem = s.mem
  writes : Writes s t
  group : ∀ k, t.group k = { s.group k with wait := (t.group k).wait }
  team : ∀ k, t.team k = { s.team k with scratch := (t.team k).scratch, poison := (t.team k).poison }

theorem Fills.refl (s : State) : Fills s s := ⟨rfl, .refl s, fun _ => rfl, fun _ => rfl⟩

theorem Fills.trans (a : Fills s t) (b : Fills t u) : Fills s u where
  mem := b.mem.trans a.mem
  writes := a.writes.trans b.writes
  group k := by rw [b.group k, a.group k]
  team k := by rw [b.team k, a.team k]

theorem Charges.fills (h : Charges s t) : Fills s t :=
  ⟨h.mem, h.behind.writes, fun k => by rw [h.group], fun k => by rw [h.behind.team]⟩

theorem Fills.launch (h : Fills s t) (l : Nat) : t.launch l = s.launch l := by
  unfold State.launch
  rw [h.writes.launches]

theorem Fills.opAlive (h : Fills s t) (o : Op) : t.opAlive o = s.opAlive o := by
  unfold State.opAlive
  rw [h.group o.group]

theorem Fills.fixedScr (h : Fills s t) (k : Nat) : t.fixedScr k = s.fixedScr k := by
  unfold State.fixedScr State.imageOf
  rw [h.team k]
  simp only [h.launch]
  rfl

theorem Fills.setTeam (s : State) (k : Nat) (b : Tab Byte) (p : Tab Bool) :
    Fills s (s.setTeam k { s.team k with scratch := b, poison := p }) := by
  refine ⟨rfl, rfl, fun _ => rfl, fun x => ?_⟩
  by_cases h : x = k
  · subst h
    rw [State.team_setTeam]
  · have other : (s.setTeam k { s.team k with scratch := b, poison := p }).team x = s.team x := Tab.get_set_ne _ h _ _
    rw [other]

theorem Fills.decideScratch (s : State) (gk code v : Nat) : Fills s (s.decideScratch gk code v) := by
  refine ⟨rfl, rfl, fun k => ?_, fun _ => rfl⟩
  unfold State.decideScratch
  by_cases h : k = gk
  · subst h
    rw [State.group_modGroup]
    split <;> rfl
  · rw [State.group_modGroup_ne s h]

/-- An evaluation decides waits, and no team changes. -/
theorem Fills.evalScr_and_teams (s : State) (team a n : Nat) : Fills s (s.evalScr team a n) ∧ (s.evalScr team a n).teams = s.teams := by
  unfold State.evalScr
  refine foldl_keeps (fun t => Fills s t ∧ t.teams = s.teams) _ (fun t e h => ?_) _ s ⟨.refl s, rfl⟩
  obtain ⟨k, e⟩ := e
  refine iteInduction (motive := fun t => Fills s t ∧ t.teams = s.teams) (fun _ => ?_) fun _ => h
  have c := Charges.charge t (s.team team).cluster (t.launch (s.team team).launch).qidx 30000
  have charged := h.1.trans c.fills
  have teams := c.behind.teams.trans h.2
  cases scrHit (s.team team) e with
  | none => exact ⟨charged, teams⟩
  | some _ => exact ⟨(charged.trans (Charges.modCluster _ _ _).fills).trans (.decideScratch _ _ _ _), teams⟩

theorem Fills.evalScr (s : State) (team a n : Nat) : Fills s (s.evalScr team a n) := (Fills.evalScr_and_teams s team a n).1
theorem State.teams_evalScr (s : State) (team a n : Nat) : (s.evalScr team a n).teams = s.teams := (Fills.evalScr_and_teams s team a n).2

/-- A write puts its bytes and marks into the team, and spends at most the injected poison of the cluster. -/
theorem State.scrPut_charges (s : State) (team a : Nat) (bs : List Byte) (taking mark : Bool) :
    ∃ pz, Charges (s.setTeam team { s.team team with scratch := Tab.writeList (s.team team).scratch a bs, poison := pz })
      (s.scrPut team a bs taking mark) := by
  unfold State.scrPut
  dsimp only
  generalize List.foldl _ (s.team team).poison _ = pz
  exact ⟨pz, iteInduction (motive := Charges _) (fun _ => .modCluster _ _ _) fun _ => .refl _⟩

theorem Fills.scrPut (s : State) (team a : Nat) (bs : List Byte) (taking mark : Bool) : Fills s (s.scrPut team a bs taking mark) := by
  obtain ⟨pz, c⟩ := s.scrPut_charges team a bs taking mark
  exact (Fills.setTeam s team _ pz).trans c.fills

theorem State.scratch_scrPut (s : State) (team a : Nat) (bs : List Byte) (taking mark : Bool) :
    ((s.scrPut team a bs taking mark).team team).scratch = Tab.writeList (s.team team).scratch a bs := by
  obtain ⟨pz, c⟩ := s.scrPut_charges team a bs taking mark
  rw [c.behind.team, State.team_setTeam]

theorem Fills.scrWrite (s : State) (team a : Nat) (bs : List Byte) (taking mark : Bool) : Fills s (s.scrWrite team a bs taking mark) :=
  (Fills.scrPut s team a bs taking mark).trans (.evalScr _ team a bs.length)

theorem State.scratch_evalScr (s : State) (team a n k : Nat) : ((s.evalScr team a n).team k).scratch = (s.team k).scratch := by
  unfold State.team
  rw [State.teams_evalScr]

theorem State.scratch_scrWrite (s : State) (team a : Nat) (bs : List Byte) (taking mark : Bool) :
    ((s.scrWrite team a bs taking mark).team team).scratch = Tab.writeList (s.team team).scratch a bs :=
  (State.scratch_evalScr _ team a bs.length team).trans (s.scratch_scrPut team a bs taking mark)

/-! ### Bytes that may change -/

/-- A store that meets no read-only byte keeps all that it brings. -/
theorem State.scrKeep_of_mayWrite {bs : List Byte} (h : s.mayWrite team a bs.length) : s.scrKeep team a bs = bs := by
  unfold State.scrKeep
  dsimp only
  split
  · rfl
  · refine List.ext_getElem (by simp) fun i hi hi' => ?_
    have open' : ¬ ((s.fixedScr team).any fun r => decide (r.1 ≤ a + i) && decide (a + i < r.1 + r.2)) = true := by
      rw [List.any_eq_true]
      rintro ⟨r, hr, within⟩
      simp only [Bool.and_eq_true, decide_eq_true_eq] at within
      have := h r hr
      omega
    simp only [List.getElem_map, List.getElem_zipIdx, Nat.zero_add]
    exact if_neg open'

theorem State.scratch_scrStore {bs : List Byte} (h : s.mayWrite team a bs.length) (mark : Bool) :
    ((s.scrStore team a bs mark).team team).scratch = Tab.writeList (s.team team).scratch a bs := by
  rw [State.scrStore, State.scratch_scrPut, State.scrKeep_of_mayWrite h]

theorem Fills.scrStore (s : State) (team a : Nat) (bs : List Byte) (mark : Bool) : Fills s (s.scrStore team a bs mark) :=
  .scrPut s team a _ true mark

/-! ### A run of bytes landed word by word -/

theorem Fills.landScratch (s : State) (team a : Nat) (l : List Marked) : Fills s (s.landScratch team a l) := by
  unfold State.landScratch
  split
  · exact (foldl_keeps (Fills s) _ (fun t w h => h.trans (.scrStore t team _ _ _)) _ s (.refl s)).trans (.evalScr _ team a l.length)
  · exact .refl s

/-- A byte of a table with some bytes written from a key up. -/
theorem Tab.get_writeList_ite (t : Tab Byte) (a j : Nat) (l : List Byte) :
    Tab.get 0 j (Tab.writeList t a l) = if a ≤ j ∧ j < a + l.length then l.getD (j - a) 0 else Tab.get 0 j t := by
  split
  next within =>
    obtain ⟨i, rfl⟩ := Nat.exists_eq_add_of_le within.1
    have hi : i < l.length := by omega
    rw [Tab.get_writeList t a i l hi, Nat.add_sub_cancel_left, List.getD_eq_getElem l 0 hi]
  next out => exact Tab.get_writeList_ne t a j l (by omega)

/-- The scratchpad after the first m words of a run of bytes. -/
theorem State.scratch_landWords {l : List Marked} (h : s.mayWrite team a l.length) (m : Nat) (hm : m ≤ (l.length + 3) / 4) :
    let t := (List.range m).foldl (fun s i =>
      s.scrStore team (a + 4 * i) (((l.drop (4 * i)).take 4).map Prod.fst) (anyMark ((l.drop (4 * i)).take 4))) s
    Fills s t ∧ ∀ j, Tab.get 0 j (t.team team).scratch
      = if a ≤ j ∧ j < a + min (4 * m) l.length then (l.map Prod.fst).getD (j - a) 0 else Tab.get 0 j (s.team team).scratch := by
  induction m with
  | zero => exact ⟨.refl s, fun j => (if_neg (by omega)).symm⟩
  | succ m ih =>
    obtain ⟨fills, bytes⟩ := ih (by omega)
    rw [List.range_succ, List.foldl_append]
    generalize (List.range m).foldl _ s = u at fills bytes ⊢
    have size : (((l.drop (4 * m)).take 4).map Prod.fst).length = min 4 (l.length - 4 * m) := by simp
    have free : u.mayWrite team (a + 4 * m) (((l.drop (4 * m)).take 4).map Prod.fst).length := fun r hr => by
      have := h r (fills.fixedScr team ▸ hr)
      omega
    refine ⟨fills.trans (.scrStore u team _ _ _), fun j => ?_⟩
    rw [List.foldl_cons, List.foldl_nil, State.scratch_scrStore free, Tab.get_writeList_ite, size, bytes]
    by_cases word : a + 4 * m ≤ j ∧ j < a + 4 * m + min 4 (l.length - 4 * m)
    · rw [if_pos word, if_pos (by omega), List.getD_eq_getElem?_getD, List.getD_eq_getElem?_getD, List.getElem?_map, List.getElem?_map,
        List.getElem?_take_of_lt (by omega), List.getElem?_drop, show 4 * m + (j - (a + 4 * m)) = j - a by omega]
    · rw [if_neg word]
      exact if_congr (by omega) rfl rfl

theorem State.scratch_landScratch {l : List Marked} (live : (s.team team).live = true) (h : s.mayWrite team a l.length) (j : Nat) :
    Tab.get 0 j ((s.landScratch team a l).team team).scratch
      = if a ≤ j ∧ j < a + l.length then (l.map Prod.fst).getD (j - a) 0 else Tab.get 0 j (s.team team).scratch := by
  have words := (State.scratch_landWords h ((l.length + 3) / 4) (Nat.le_refl _)).2 j
  rw [Nat.min_eq_right (by omega)] at words
  rw [State.landScratch, if_pos live, State.scratch_evalScr, markedWords, List.foldl_map]
  exact words

theorem Tab.writeList_toBytes (t : Tab Byte) (a n v : Nat) : Tab.writeList t a (toBytes n v) = Tab.writeLe t a n v := by
  induction n generalizing t a v with
  | zero => rfl
  | succ n ih => exact ih _ _ _

end

end Sys2Proof.Machine
end

section
/-! Messages on their way: the tries of a delivery, the ring of a team in place and of one that is saved, and the statement on the events of
groups and strands (12 R262 to R266). -/

namespace Sys2Proof.Machine

section
variable {s t u : State} {op team tries slot tail : Nat} {c : SendCmd} {again : Bool}

/-! ### The answer to the sender (12 R263) -/

theorem Group.g_completeOp (g : Group) (path op : Nat) : (g.completeOp path op).g = g.g := by
  unfold Group.completeOp
  dsimp only
  split
  · split <;> rfl
  · rfl

/-- The refused mask of a command once a team has answered. -/
def State.answered (s : State) (team : Nat) (c : SendCmd) (refused : Bool) : Nat :=
  if refused then c.refused ||| 2 ^ (s.team team).inCohort else c.refused

/-- The last destination of a message: its operation ends, and the refused mask is in the G register of its group; but for groups and
operations the state stands. -/
theorem State.settleSend_last (refused : Bool) (pending : c.pending = [(team, tries, again)]) (single : (s.op op).mirror = 0)
    (alive : s.opAlive (s.op op) = true) :
    let t := s.settleSend op team c refused
    t = { s with groups := t.groups, ops := t.ops } ∧ t.op op = {}
      ∧ (t.group (s.op op).group).greg c.out = BitVec.ofNat 32 (s.answered team c refused) := by
  let o := s.op op
  let v := BitVec.ofNat 32 (s.answered team c refused)
  let given := s.modGroup o.group fun g => g.setG c.out v
  have gives : (s.give op fun g => g.setG c.out v) = given := by
    unfold State.give
    simp only [alive, single, if_true, bne_self_eq_false, Bool.false_and, Bool.false_eq_true, if_false]
    rfl
  have same : given.op op = o := rfl
  have here : (given.setOp op {}).group o.group = (s.group o.group).setG c.out v := State.group_modGroup s o.group fun g => g.setG c.out v
  have still : (given.setOp op {}).opAlive o = true := by
    unfold State.opAlive at alive ⊢
    rw [here]
    exact alive
  have ends : given.finish op = (given.setOp op {}).modGroup o.group fun g => g.completeOp o.path op := by
    unfold State.finish State.endOp
    rw [same, single]
    simp only [still, if_true, bne_self_eq_false, Bool.false_eq_true, if_false]
  have settled : s.settleSend op team c refused = (given.setOp op {}).modGroup o.group fun g => g.completeOp o.path op := by
    unfold State.settleSend
    simp only [pending, List.filter_cons, List.filter_nil, bne_self_eq_false, Bool.false_eq_true, if_false, List.isEmpty_nil, if_true]
    exact (congrArg (State.finish · op) gives).trans ends
  dsimp only
  rw [settled]
  refine ⟨rfl, State.op_setOp given op {}, ?_⟩
  rw [State.group_modGroup, Group.greg, Group.g_completeOp, ← Group.greg, here]
  exact Group.greg_setG _ _ _

/-! ### A try (12 R264, R266) -/

/-- The event that tries a message: the first time or again. -/
theorem exec_message (live : (s.op op).live = true) (kind : (s.op op).kind = .send c) (pending : c.pending = [(team, tries, again)])
    (first : s.behind op team (s.op op) c = false) :
    exec (if again then .msendRetry op team else .msendDelivery op team) s = .next (s.trySend op team c tries) := by
  cases again with
  | false =>
    change execMsendDelivery op team s = _
    unfold execMsendDelivery
    simp [live, kind, pending, first]
  | true =>
    change execMsendRetry op team s = _
    unfold execMsendRetry
    simp [live, kind, pending, first]

theorem exec_message_other (live : (s.op op).live = true) (kind : (s.op op).kind = .send c)
    (pending : c.pending = [(team, tries, !again)]) :
    exec (if again then .msendRetry op team else .msendDelivery op team) s = .next s := by
  cases again with
  | false =>
    change execMsendDelivery op team s = _
    unfold execMsendDelivery
    simp [live, kind, pending]
  | true =>
    change execMsendRetry op team s = _
    unfold execMsendRetry
    simp [live, kind, pending]

theorem exec_message_behind (live : (s.op op).live = true) (kind : (s.op op).kind = .send c)
    (late : s.behind op team (s.op op) c = true) :
    exec (if again then .msendRetry op team else .msendDelivery op team) s = .next s := by
  cases again with
  | false =>
    change execMsendDelivery op team s = _
    unfold execMsendDelivery
    simp only [live, kind, late, if_true]
    split <;> rfl
  | true =>
    change execMsendRetry op team s = _
    unfold execMsendRetry
    simp only [live, kind, late, if_true]
    split <;> rfl

/-- The ring of a team that a message goes to. -/
def State.ringBase (s : State) (team : Nat) (c : SendCmd) : Nat :=
  (((s.launch (s.team team).launch).image.rings[c.ring]?).map Sync.base).getD 0

/-- The bytes of a message on their way to a team. -/
def State.messageTo (s : State) (op team : Nat) (c : SendCmd) : List Byte :=
  messageBytes c (s.team (s.op op).team).inCohort ((s.team (s.op op).team).seqs.get 0 team)

/-- A message accepted: its number counts, its energy is drawn and the sender has its answer. -/
def State.acceptMessage (s u : State) (op team : Nat) (c : SendCmd) : State :=
  let o := s.op op
  let n := (s.messageTo op team c).length
  let far := decide (siteOf (s.team team).cluster / 4 != siteOf o.cluster / 4)
  ((u.modTeam o.team fun x => { x with seqs := x.seqs.update 0 team (· + 1) }).charge o.cluster o.qidx
    (12000 * n + if far then 10000 * n else 0)).settleSend op team c false

/-- A message that finds no place. -/
def State.fullRing (s : State) (op team : Nat) (c : SendCmd) (tries : Nat) : State :=
  if c.retry ≤ tries then s.settleSend op team c true
  else s.setOp op { s.op op with
    kind := .send { c with pending := c.pending.map fun p => if p.1 == team then (team, tries + 1, true) else p } }

theorem State.sides_single (h : (s.launch (s.team team).launch).paired = false) : s.sides team = [team] := by
  unfold State.sides
  simp only [h, Bool.false_eq_true, if_false]

/-- A message that finds its place in the ring of a team that runs. (In these three lemmas the search for the place is any function: the
kernel does not get through its numbers of 32 bits.) -/
theorem State.trySend_running (live : (s.team team).live = true) (runs : (s.launch (s.team team).launch).live = true)
    (single : (s.launch (s.team team).launch).paired = false) (phase : (s.team team).phase = .running)
    (place : ringSlot (fun a => (s.team team).read a 4) (s.ringBase team c) = some (slot, tail)) :
    s.trySend op team c tries =
      s.acceptMessage (s.deliver team (s.ringBase team c) slot tail (s.messageTo op team c) c.marks) op team c := by
  have sides := State.sides_single single
  obtain ⟨search, any⟩ : ∃ f, ringSlot = f := ⟨_, rfl⟩
  unfold State.ringBase at place
  unfold State.trySend
  rw [any] at place ⊢
  simp only [live, runs, phase, place, sides, Bool.not_true, Bool.or_self, Bool.false_eq_true, if_false]
  rfl

theorem State.trySend_running_full (live : (s.team team).live = true) (runs : (s.launch (s.team team).launch).live = true)
    (phase : (s.team team).phase = .running)
    (full : ringSlot (fun a => (s.team team).read a 4) (s.ringBase team c) = none) :
    s.trySend op team c tries = s.fullRing op team c tries := by
  obtain ⟨search, any⟩ : ∃ f, ringSlot = f := ⟨_, rfl⟩
  unfold State.ringBase at full
  unfold State.trySend
  rw [any] at full ⊢
  simp only [live, runs, phase, full, Bool.not_true, Bool.or_self, Bool.false_eq_true, if_false]
  rfl

theorem State.trySend_saved {i : SavedTeam} (live : (s.team team).live = true) (runs : (s.launch (s.team team).launch).live = true)
    (single : (s.launch (s.team team).launch).paired = false) (phase : (s.team team).phase = .saved) (image : (s.team team).image = some i)
    (place : ringSlot (fun a => Tab.readLe i.scratch a 4) (s.ringBase team c) = some (slot, tail)) :
    s.trySend op team c tries =
      s.acceptMessage (s.deliverImage team (s.ringBase team c) slot tail (s.messageTo op team c) c.marks) op team c := by
  have sides := State.sides_single single
  obtain ⟨search, any⟩ : ∃ f, ringSlot = f := ⟨_, rfl⟩
  unfold State.ringBase at place
  unfold State.trySend
  rw [any] at place ⊢
  simp only [live, runs, phase, image, place, sides, Bool.not_true, Bool.or_self, Bool.false_eq_true, if_false]
  rfl

/-! ### What an accepted message leaves -/

/-- The answer to a message that was the sender's last one out, accepted once its bytes have been laid down in u: its operation ends, the refused
mask is written, and the team of the sender counts it. -/
theorem State.acceptMessage_last (op' : u.op op = s.op op) (alive : u.opAlive (s.op op) = true)
    (pending : c.pending = [(team, tries, again)]) (single : (s.op op).mirror = 0) :
    let t := s.acceptMessage u op team c
    t.mem = u.mem ∧ t.slices = u.slices ∧ t.op op = {} ∧ (t.group (s.op op).group).greg c.out = BitVec.ofNat 32 c.refused
      ∧ (∀ k, t.team k = { u.team k with seqs := (t.team k).seqs })
      ∧ (t.team (s.op op).team).seqs.get 0 team = (u.team (s.op op).team).seqs.get 0 team + 1 := by
  let counted := u.modTeam (s.op op).team fun x => { x with seqs := x.seqs.update 0 team (· + 1) }
  let far := decide (siteOf (s.team team).cluster / 4 != siteOf (s.op op).cluster / 4)
  let n := (s.messageTo op team c).length
  have c' := Charges.charge counted (s.op op).cluster (s.op op).qidx (12000 * n + if far then 10000 * n else 0)
  intro t
  have made : t = (counted.charge (s.op op).cluster (s.op op).qidx (12000 * n + if far then 10000 * n else 0)).settleSend op team c false := rfl
  generalize counted.charge (s.op op).cluster (s.op op).qidx (12000 * n + if far then 10000 * n else 0) = v at c' made
  have same : v.op op = s.op op := (c'.op op).trans op'
  have alive' : v.opAlive (v.op op) = true := by
    rw [same]
    unfold State.opAlive at alive ⊢
    rw [c'.group]
    exact alive
  obtain ⟨rest, ended, answer⟩ := State.settleSend_last false pending (same ▸ single) alive'
  rw [← made] at rest ended answer
  rw [same] at answer
  have team' : ∀ k, t.team k = counted.team k := fun k => by
    rw [rest]
    exact c'.behind.team k
  have here : counted.team (s.op op).team = { u.team (s.op op).team with seqs := (u.team (s.op op).team).seqs.update 0 team (· + 1) } :=
    State.team_modTeam u _ _
  refine ⟨?_, ?_, ended, answer, fun k => ?_, ?_⟩
  · rw [rest]
    exact c'.mem
  · rw [rest]
    exact c'.slices
  · rw [team']
    by_cases h : k = (s.op op).team
    · rw [h, here]
    · rw [State.team_modTeam_ne u h]
  · rw [team', here]
    exact Tab.get_set_same _ _ _ _

/-! ### The bytes of a message -/

theorem map_fst_marked (bs : List Byte) (f : Byte × Nat → Bool) :
    ((bs.take 16).map (fun x => (x, false)) ++ ((bs.drop 16).zipIdx).map fun e => (e.1, f e)).map Prod.fst = bs := by
  rw [List.map_append, List.map_map, List.map_map]
  have marked : (Prod.fst ∘ fun e : Byte × Nat => (e.1, f e)) = Prod.fst := rfl
  have clear : (Prod.fst ∘ fun x : Byte => (x, false)) = id := rfl
  rw [marked, clear, List.map_id, List.zipIdx_map_fst, List.take_append_drop]

/-- A message in the ring of a team that runs: its bytes stand in the slot, TAIL has moved, and of the scratchpad all else stands. -/
theorem State.deliver_spec {bs : List Byte} (marks : List Bool) {b : Nat} (live : (s.team team).live = true)
    (free : s.mayWrite team slot bs.length) (apart : slot + bs.length ≤ b + 8 ∨ b + 12 ≤ slot) :
    let t := s.deliver team b slot tail bs marks
    Fills s t ∧ (∀ i, i < bs.length → (t.team team).scratch.get 0 (slot + i) = bs.getD i 0)
      ∧ (t.team team).read (b + 8) 4 = (tail + 1) % 2 ^ 32
      ∧ ∀ a, (a < slot ∨ slot + bs.length ≤ a) → (a < b + 8 ∨ b + 12 ≤ a) →
          (t.team team).scratch.get 0 a = (s.team team).scratch.get 0 a := by
  unfold State.deliver
  dsimp only
  have bytes := map_fst_marked bs fun e => marks.getD (e.2 / 4) false
  generalize (bs.take 16).map _ ++ _ = l at bytes
  have size : l.length = bs.length := by rw [← bytes, List.length_map]
  have landed := State.scratch_landScratch live (size ▸ free : s.mayWrite team slot l.length)
  have fills := Fills.landScratch s team slot l
  rw [bytes, size] at landed
  generalize s.landScratch team slot l = u at landed fills
  have scratch : ∀ v, ((u.scrWrite team (b + 8) (field 4 v) false false).team team).scratch
      = Tab.writeLe (u.team team).scratch (b + 8) 4 v := fun v => by
    rw [State.scratch_scrWrite, field, Tab.writeList_toBytes]
  refine ⟨fills.trans (.scrWrite u team _ _ _ _), fun i hi => ?_, ?_, fun a out tail' => ?_⟩
  · rw [scratch, Tab.get_writeLe_ne _ _ _ _ _ (by omega), landed, if_pos (by omega), Nat.add_sub_cancel_left]
  · rw [Team.read, scratch, Tab.readLe_writeLe]
    exact Nat.mod_mod _ _
  · rw [scratch, Tab.get_writeLe_ne _ _ _ _ _ (by omega), landed, if_neg (by omega)]

theorem SavedTeam.scratch_wake (i : SavedTeam) (spans : List (Nat × Nat)) : (i.wake spans).1.scratch = i.scratch := by
  unfold SavedTeam.wake
  refine foldl_keeps (fun r : SavedTeam × Bool => r.1.scratch = i.scratch) _ (fun r e h => ?_) _ _ rfl
  split
  · exact h
  · exact h

/-- A message in the ring of a team that is saved: it changes the image alone, which holds its bytes and the new TAIL. -/
theorem State.deliverImage_spec {i : SavedTeam} {bs : List Byte} (marks : List Bool) {b : Nat} (image : (s.team team).image = some i)
    (apart : slot + bs.length ≤ b + 8 ∨ b + 12 ≤ slot) :
    let t := s.deliverImage team b slot tail bs marks
    t.mem = s.mem ∧ t.slices = s.slices ∧ t.groups = s.groups ∧ t.ops = s.ops ∧ (∀ k, (t.team k).scratch = (s.team k).scratch)
      ∧ ∃ j, (t.team team).image = some j ∧ (∀ k, k < bs.length → j.scratch.get 0 (slot + k) = bs.getD k 0)
        ∧ Tab.readLe j.scratch (b + 8) 4 = (tail + 1) % 2 ^ 32 := by
  unfold State.deliverImage
  dsimp only
  have c' := Charges.charge s (s.team team).cluster (s.launch (s.team team).launch).qidx
    (30000 * ((s.team team).image.map fun i => (i.watching [(slot, bs.length), (b + 8, 4)]).length).getD 0)
  generalize s.charge _ _ _ = u at c'
  have image' : (u.team team).image = some i := by rw [c'.behind.team]; exact image
  refine ⟨c'.mem, c'.slices, c'.groups, c'.ops, fun k => ?_, ?_⟩
  · rw [← c'.behind.team k]
    by_cases h : k = team
    · rw [h, State.team_modTeam, image']
    · rw [State.team_modTeam_ne u h]
  · rw [State.team_modTeam, image']
    refine ⟨_, rfl, fun k hk => ?_, ?_⟩
    · rw [SavedTeam.scratch_wake]
      dsimp only
      rw [Tab.get_writeLe_ne _ _ _ _ _ (by omega), Tab.get_writeList _ _ _ _ hk, List.getD_eq_getElem _ _ hk]
    · rw [SavedTeam.scratch_wake]
      exact Tab.readLe_writeLe _ _ _ _

/-! ### What a try leaves -/

theorem State.trySend_lands {b : Nat} {bs : List Byte} (hb : s.ringBase team c = b) (hbs : s.messageTo op team c = bs)
    (pending : c.pending = [(team, tries, again)]) (single : (s.op op).mirror = 0) (alive : s.opAlive (s.op op) = true)
    (live : (s.team team).live = true) (runs : (s.launch (s.team team).launch).live = true)
    (unpaired : (s.launch (s.team team).launch).paired = false) (phase : (s.team team).phase = .running)
    (place : ringSlot (fun a => (s.team team).read a 4) b = some (slot, tail))
    (apart : slot + bs.length ≤ b + 8 ∨ b + 12 ≤ slot) (free : s.mayWrite team slot bs.length) :
    let t := s.trySend op team c tries
    t.mem = s.mem ∧ t.op op = {} ∧ (t.group (s.op op).group).greg c.out = BitVec.ofNat 32 c.refused
      ∧ (∀ i, i < bs.length → (t.team team).scratch.get 0 (slot + i) = bs.getD i 0)
      ∧ (t.team team).read (b + 8) 4 = (tail + 1) % 2 ^ 32
      ∧ (∀ a, (a < slot ∨ slot + bs.length ≤ a) → (a < b + 8 ∨ b + 12 ≤ a) →
          (t.team team).scratch.get 0 a = (s.team team).scratch.get 0 a)
      ∧ (t.team (s.op op).team).seqs.get 0 team = (s.team (s.op op).team).seqs.get 0 team + 1 := by
  intro t
  have made : t = s.acceptMessage (s.deliver team b slot tail bs c.marks) op team c := by
    rw [← hb, ← hbs]
    exact State.trySend_running live runs unpaired phase (hb ▸ place)
  obtain ⟨fills, bytes, moves, others⟩ := State.deliver_spec (tail := tail) c.marks live free apart
  generalize s.deliver team b slot tail bs c.marks = u at made fills bytes moves others
  obtain ⟨mem, -, ended, answer, teams, counts⟩ :=
    State.acceptMessage_last (fills.writes.op op) ((fills.opAlive _).trans alive) pending single
  rw [← made] at mem ended answer teams counts
  have scratch : (t.team team).scratch = (u.team team).scratch := by rw [teams team]
  have seqs : (u.team (s.op op).team).seqs = (s.team (s.op op).team).seqs := by rw [fills.team]
  rw [Team.read, scratch]
  exact ⟨mem.trans fills.mem, ended, answer, bytes, moves, others, seqs ▸ counts⟩

theorem State.trySend_lands_image {i : SavedTeam} {b : Nat} {bs : List Byte} (hb : s.ringBase team c = b)
    (hbs : s.messageTo op team c = bs)
    (pending : c.pending = [(team, tries, again)]) (single : (s.op op).mirror = 0) (alive : s.opAlive (s.op op) = true)
    (live : (s.team team).live = true) (runs : (s.launch (s.team team).launch).live = true)
    (unpaired : (s.launch (s.team team).launch).paired = false) (phase : (s.team team).phase = .saved) (image : (s.team team).image = some i)
    (place : ringSlot (fun a => Tab.readLe i.scratch a 4) b = some (slot, tail)) (apart : slot + bs.length ≤ b + 8 ∨ b + 12 ≤ slot) :
    let t := s.trySend op team c tries
    SameBytes s t ∧ t.op op = {} ∧ ∃ j, (t.team team).image = some j
      ∧ (∀ k, k < bs.length → j.scratch.get 0 (slot + k) = bs.getD k 0) ∧ Tab.readLe j.scratch (b + 8) 4 = (tail + 1) % 2 ^ 32 := by
  intro t
  have made : t = s.acceptMessage (s.deliverImage team b slot tail bs c.marks) op team c := by
    rw [← hb, ← hbs]
    exact State.trySend_saved live runs unpaired phase image (hb ▸ place)
  obtain ⟨mem, slices, groups, ops, scratch, j, image', bytes, moves⟩ := State.deliverImage_spec (tail := tail) c.marks image apart
  generalize s.deliverImage team b slot tail bs c.marks = u at made mem slices groups ops scratch image'
  have alive' : u.opAlive (s.op op) = true := by
    unfold State.opAlive State.group at alive ⊢
    rw [groups]
    exact alive
  obtain ⟨mem', slices', ended, -, teams, -⟩ := State.acceptMessage_last (congrArg (Tab.get ({} : Op) op) ops) alive' pending single
  rw [← made] at mem' slices' ended teams
  exact ⟨.of_slices (mem'.trans mem) (slices'.trans slices) fun k => (congrArg Team.scratch (teams k)).trans (scratch k), ended,
    j, (congrArg Team.image (teams team)).trans image', bytes, moves⟩

theorem State.fullRing_tired (tired : c.retry ≤ tries) (pending : c.pending = [(team, tries, again)]) (single : (s.op op).mirror = 0)
    (alive : s.opAlive (s.op op) = true) :
    let t := s.fullRing op team c tries
    SameBytes s t ∧ t.op op = {}
      ∧ (t.group (s.op op).group).greg c.out = BitVec.ofNat 32 (c.refused ||| 2 ^ (s.team team).inCohort) := by
  intro t
  have made : t = s.settleSend op team c true := if_pos tired
  obtain ⟨rest, ended, answer⟩ := State.settleSend_last true pending single alive
  rw [← made] at rest ended answer
  refine ⟨?_, ended, answer⟩
  rw [rest]
  exact ⟨rfl, fun _ => rfl, fun _ => rfl⟩

theorem State.fullRing_again (left : tries < c.retry) (pending : c.pending = [(team, tries, again)]) :
    let t := s.fullRing op team c tries
    SameBytes s t ∧ t.op op = { s.op op with kind := .send { c with pending := [(team, tries + 1, true)] } } := by
  intro t
  have made : t = s.setOp op { s.op op with
      kind := .send { c with pending := c.pending.map fun p => if p.1 == team then (team, tries + 1, true) else p } } :=
    if_neg (Nat.not_le.2 left)
  rw [made]
  refine ⟨⟨rfl, fun _ => rfl, fun _ => rfl⟩, ?_⟩
  rw [State.op_setOp, pending]
  simp only [List.map_cons, List.map_nil, beq_self_eq_true, if_true]

end

/-- Settles O47: an event of a group or a strand does the one change that its equation gives (`Stands.leave`, `execStrandMerge_running`,
`execJoinDeadline_eq`, `execSwitchHoldBreak_eq`), and the try of a message lays its bytes down before it answers the sender
(`State.trySend_lands`, `State.trySend_lands_image`) or finds the ring full (`State.fullRing_tired`, `State.fullRing_again`). -/
theorem groupEvents : Obligations.GroupEvents := by
  refine ⟨fun s g => ⟨fun ⟨live, ended, paths, fence, ops, single⟩ => ?_, execGroupEnd_busy⟩,
    fun s g lo hi => ⟨?_, execStrandMerge_apart⟩, fun s g st d park => ?_, fun s cl q h held => ?_,
    fun s op team tries again c slot tail => ?_⟩
  · have stands := Stands.leave s g
    refine ⟨_, execGroupEnd_idle live ended paths fence ops single, (stands.group g).trans (State.group_setGroup s g _),
      fun k hk => (stands.group k).trans (State.group_setGroup_ne s hk _), ?_⟩
    exact .of_slices stands.mem stands.slices stands.scratch
  · intro live order hhi alike runs runs' none
    have here : (s.modGroup g fun x => x.merged lo hi).group g = (s.group g).merged lo hi := State.group_modGroup s g _
    have first := (s.group g).strand_merged_same (Nat.ne_of_lt order)
    refine ⟨_, execStrandMerge_running live order hhi alike runs runs' none, .modGroup s g _, ?_⟩
    rw [here, first, Group.strand_merged_gone]
    exact ⟨rfl, rfl, rfl, park_mergeStrands runs runs', rfl, get_trips_mergeStrands _ _, rfl, rfl, rfl⟩
  · have ends := execJoinDeadline_eq park
    refine ⟨fun live due => ?_, fun early => ?_⟩
    · rw [ends, live, decide_eq_true due]
      rfl
    · rw [ends, decide_eq_false (Nat.not_le.2 early), Bool.and_false]
      rfl
  · have breaks := execSwitchHoldBreak_eq held
    refine ⟨fun due => ?_, fun early => ?_⟩
    · rw [if_pos due] at breaks
      refine ⟨_, breaks, ⟨rfl, fun _ => rfl, fun _ => rfl⟩, congrArg Quarter.hold (State.quarter_modQuarter s cl q _), ?_⟩
      rw [State.group_modGroup, Group.unheld]
      simp only [beq_iff_eq]
      rfl
    · rw [breaks, if_neg (Nat.not_le.2 early)]
  · intro ev o x l b bs due apart
    refine ⟨?_, ?_, ?_, ?_, exec_message_other, exec_message_behind⟩
    · rintro ⟨live, kind, pending, single, alive, there, runs, unpaired, first⟩ phase place clear free
      exact ⟨_, exec_message live kind pending first,
        State.trySend_lands rfl rfl pending single alive there runs unpaired phase place clear free⟩
    · rintro ⟨live, kind, pending, single, alive, there, runs, -, first⟩ phase full tired
      refine ⟨_, exec_message live kind pending first, ?_⟩
      rw [State.trySend_running_full there runs phase full]
      exact State.fullRing_tired tired pending single alive
    · rintro ⟨live, kind, pending, -, -, there, runs, -, first⟩ phase full left
      refine ⟨_, exec_message live kind pending first, ?_⟩
      rw [State.trySend_running_full there runs phase full]
      exact State.fullRing_again left pending
    · rintro i ⟨live, kind, pending, single, alive, there, runs, unpaired, first⟩ phase image place clear
      obtain ⟨same, ended, j, held⟩ :=
        State.trySend_lands_image rfl rfl pending single alive there runs unpaired phase image place clear
      exact ⟨_, j, exec_message live kind pending first, same, ended, held⟩

end Sys2Proof.Machine
end

section
/-! The results of chapter 06 as numbers: what each integer operation on words gives, and how a word of the chapter ends once its result
in each lane is known (06 R107, R112 to R115, Table 6-3). -/

namespace Sys2Proof.Machine

/-! ### A word that issues ends with its result in each lane (06 R107, R122) -/

section
variable {i : Instr} {s : State} {pipe : Pipe} {cost : Nat} {w : Bool} {d : BitVec 7} {a b : BitVec 8} {r : Nat → Nat}

theorem laneWord_gives {f : State → Nat → Nat} (h : Ready i s) (c : Nat) (hd : .v d.toNat c ∈ (usesOf i).vdst) (hr : ∀ l, f s l = r l) :
    LaneDone s (laneWord i pipe w d (4 * c) cost f s) pipe w d.toNat (4 * c) r := by
  rw [← funext hr]
  exact laneWord_done h pipe w d _ c cost f hd rfl

theorem lane1_gives {f : Word → Word} (h : Ready i s) (hd : .v d.toNat 1 ∈ (usesOf i).vdst) (hr : ∀ l, (f (s.src a l)).toNat = r l) :
    LaneDone s (lane1 i pipe cost w d a f s) pipe w d.toNat 4 r := laneWord_gives h 1 hd hr

theorem lane2_gives {f : Word → Word → Word} (h : Ready i s) (hd : .v d.toNat 1 ∈ (usesOf i).vdst)
    (hr : ∀ l, (f (s.src a l) (s.src b l)).toNat = r l) :
    LaneDone s (lane2 i pipe cost w d a b f s) pipe w d.toNat 4 r := laneWord_gives h 1 hd hr

theorem lane3_gives {f : Word → Word → Word → Word} (h : Ready i s) (hd : .v d.toNat 1 ∈ (usesOf i).vdst)
    (hr : ∀ l, (f (s.src a l) (s.src b l) (s.dreg d l)).toNat = r l) :
    LaneDone s (lane3 i pipe cost w d a b f s) pipe w d.toNat 4 r := laneWord_gives h 1 hd hr

theorem predWordOf_gives {n : Nat} {f : State → Nat → Bool} {r : Nat → Bool} (h : Ready i s) (hr : ∀ l, f s l = r l) :
    PredDone s (predWordOf i n f s) n r := by
  rw [← funext hr]
  exact predWordOf_done h n f

end

/-! ### Integers behind words -/

/-- `BitVec.toNat_ofInt`, the power an integer as the statements of results write it. -/
theorem toNat_ofInt_emod (n : Nat) (x : Int) : (BitVec.ofInt n x).toNat = (x % 2 ^ n).toNat := by
  rw [BitVec.toNat_ofInt, Nat.cast_pow, Nat.cast_ofNat]

theorem toNat_eq_toInt_emod {n : Nat} (x : BitVec n) : x.toNat = (x.toInt % 2 ^ n).toNat := by
  rw [← toNat_ofInt_emod, BitVec.ofInt_toInt]

theorem toNat_add_signExtend {n k : Nat} (x : BitVec n) (y : BitVec k) :
    (x + y.signExtend n).toNat = ((x.toNat + y.toInt) % 2 ^ n).toNat := by
  rw [← toNat_ofInt_emod, BitVec.ofInt_add, BitVec.ofInt_natCast, BitVec.ofNat_toNat, BitVec.setWidth_eq, BitVec.signExtend]

theorem toNat_sub_emod {n : Nat} (x y : BitVec n) : (x - y).toNat = ((x.toNat - y.toNat : Int) % 2 ^ n).toNat := by
  rw [← toNat_ofInt_emod, Int.sub_eq_add_neg, BitVec.ofInt_add, BitVec.ofInt_neg, BitVec.ofInt_natCast, BitVec.ofInt_natCast,
    BitVec.ofNat_toNat, BitVec.ofNat_toNat, BitVec.setWidth_eq, BitVec.setWidth_eq, BitVec.sub_eq_add_neg]

/-! ### Arithmetic (Table 6-3, R113) -/

theorem toNat_highWord (imm : BitVec 16) : (highWord imm).toNat = imm.toNat * 65536 := by
  rw [highWord, BitVec.toNat_append, Nat.shiftLeft_eq]
  exact Nat.or_zero _

theorem toNat_mul_add {n : Nat} (x y z : BitVec n) : (x * y + z).toNat = (x.toNat * y.toNat + z.toNat) % 2 ^ n := by
  rw [BitVec.toNat_add, BitVec.toNat_mul, Nat.mod_add_mod]

theorem toNat_mulHighU (x y : Word) : (mulHighU x y).toNat = x.toNat * y.toNat / 2 ^ 32 := by
  have h : x.toNat * y.toNat < 2 ^ 32 * 2 ^ 32 := Nat.mul_lt_mul'' x.isLt y.isLt
  have e : (x.zeroExtend 64 * y.zeroExtend 64).toNat = x.toNat * y.toNat := by
    rw [BitVec.toNat_mul, BitVec.toNat_setWidth_of_le (by decide), BitVec.toNat_setWidth_of_le (by decide)]
    exact Nat.mod_eq_of_lt h
  rw [mulHighU, BitVec.toNat_setWidth, BitVec.toNat_ushiftRight, e, Nat.shiftRight_eq_div_pow]
  omega

theorem toNat_mulHighS (x y : Word) : (mulHighS x y).toNat = (x.toInt * y.toInt / 2 ^ 32 % 2 ^ 32).toNat := by
  have e : (x.signExtend 64 * y.signExtend 64).toNat = (x.toInt * y.toInt % 2 ^ 64).toNat := by
    rw [← toNat_ofInt_emod, BitVec.ofInt_mul]
    rfl
  rw [mulHighS, BitVec.toNat_setWidth, BitVec.toNat_ushiftRight, e, Nat.shiftRight_eq_div_pow]
  omega

/-- A choice by `<` is the choice by `≤` where equal words leave nothing to choose. -/
theorem ite_slt {α : Type} {x y : Word} {u v : α} (h : x = y → u = v) :
    (if x.slt y then u else v) = if x.toInt ≤ y.toInt then u else v := by
  rw [BitVec.slt_eq_decide]
  by_cases e : x = y
  · rw [h e, ite_self, ite_self]
  · have := lt_iff_le_and_ne (a := x.toInt) (b := y.toInt)
    simp [this, BitVec.toInt_inj, e]

theorem toNat_iminW (x y : Word) : (iminW x y).toNat = if x.toInt ≤ y.toInt then x.toNat else y.toNat := by
  rw [iminW, ite_slt id, apply_ite BitVec.toNat]

theorem toNat_imaxW (x y : Word) : (imaxW x y).toNat = if x.toInt ≤ y.toInt then y.toNat else x.toNat := by
  rw [imaxW, ite_slt Eq.symm, apply_ite BitVec.toNat]

theorem toNat_uminW (x y : Word) : (uminW x y).toNat = min x.toNat y.toNat := by
  rw [uminW, BitVec.ult_eq_decide]
  split
  · next h => exact (min_eq_left_of_lt (of_decide_eq_true h)).symm
  · next h => exact (min_eq_right (Nat.le_of_not_lt (h ∘ decide_eq_true))).symm

theorem toNat_umaxW (x y : Word) : (umaxW x y).toNat = max x.toNat y.toNat := by
  rw [umaxW, BitVec.ult_eq_decide]
  split
  · next h => exact (max_eq_right_of_lt (of_decide_eq_true h)).symm
  · next h => exact (max_eq_left (Nat.le_of_not_lt (h ∘ decide_eq_true))).symm

theorem toNat_absW (x : Word) : (absW x).toNat = x.toInt.natAbs := by
  have small : x.toNat < 2 ^ 32 := x.isLt
  have sign := BitVec.msb_eq_decide x
  rw [absW, BitVec.toInt_eq_msb_cond]
  cases h : x.msb
  · rfl
  · simp only [h, true_eq_decide_iff, if_true, BitVec.toNat_neg] at *
    omega

/-- Settles O1: each word is a lane word (`laneWord_gives`) whose operation gives the number of Table 6-3. -/
theorem integerWords : Obligations.IntegerWords := by
  unfold Obligations.IntegerWords
  intro s w d a b imm
  dsimp only [exec]
  refine ⟨fun h => ?mov, fun h => ?movi, fun h => ?movhi, fun h => ?iadd, fun h => ?iaddi, fun h => ?isub, fun h => ?imul,
    fun h => ?imulh, fun h => ?imulhu, fun h => ?imad, fun h => ?iadd64, fun h => ?lea, fun h => ?and, fun h => ?or, fun h => ?xor,
    fun h => ?andn, fun h => ?imin, fun h => ?imax, fun h => ?umin, fun h => ?umax, fun h => ?iabs⟩
  case mov => exact lane1_gives h (.head _) fun _ => rfl
  case movi => exact laneWord_gives h 1 (.head _) fun _ => rfl
  case movhi => exact laneWord_gives h 1 (.head _) fun _ => toNat_highWord imm
  case iadd => exact lane2_gives h (.head _) fun _ => BitVec.toNat_add _ _
  case iaddi => exact lane1_gives h (.head _) fun _ => toNat_add_signExtend _ b
  case isub => exact lane2_gives h (.head _) fun _ => toNat_sub_emod _ _
  case imul => exact lane2_gives h (.head _) fun _ => BitVec.toNat_mul _ _
  case imulh => exact lane2_gives h (.head _) fun _ => toNat_mulHighS _ _
  case imulhu => exact lane2_gives h (.head _) fun _ => toNat_mulHighU _ _
  case imad => exact lane3_gives h (.head _) fun _ => toNat_mul_add _ _ _
  case iadd64 => exact laneWord_gives h 2 (.head _) fun _ => BitVec.toNat_add _ _
  case lea => exact laneWord_gives h 2 (.head _) fun l => toNat_add_signExtend (s.src64 a l) (s.src b l)
  case and => exact lane2_gives h (.head _) fun _ => rfl
  case or => exact lane2_gives h (.head _) fun _ => rfl
  case xor => exact lane2_gives h (.head _) fun _ => rfl
  case andn => exact lane2_gives h (.head _) fun _ => rfl
  case imin => exact lane2_gives h (.head _) fun _ => toNat_iminW _ _
  case imax => exact lane2_gives h (.head _) fun _ => toNat_imaxW _ _
  case umin => exact lane2_gives h (.head _) fun _ => toNat_uminW _ _
  case umax => exact lane2_gives h (.head _) fun _ => toNat_umaxW _ _
  case iabs => exact lane1_gives h (.head _) fun _ => toNat_absW _

/-! ### Shifts (06 R114) -/

/-- The bound of the amount in `shiftL` says only what a shift by 32 or more does anyway. -/
theorem shiftL_eq (x : Word) (n : Nat) : shiftL x n = x <<< n := by
  unfold shiftL
  split
  · next h => exact (BitVec.shiftLeft_eq_zero h).symm
  · rfl

theorem shiftR_eq (x : Word) (n : Nat) : shiftR x n = x >>> n := by
  unfold shiftR
  split
  · next h => exact (BitVec.ushiftRight_eq_zero h).symm
  · rfl

theorem shiftA_eq (x : Word) (n : Nat) : shiftA x n = x.sshiftRight n := by
  unfold shiftA
  split
  · next h =>
    apply BitVec.eq_of_getLsbD_eq
    intro k hk
    have beyond : ¬ n + k < 32 := by omega
    have ones : (-1 : Word).getLsbD k = true := by
      rw [show (-1 : Word) = BitVec.allOnes 32 from rfl, BitVec.getLsbD_allOnes, decide_eq_true hk]
    rw [BitVec.getLsbD_sshiftRight, decide_eq_false (Nat.not_le.2 hk), if_neg beyond]
    cases x.msb
    · simp
    · exact ones
  · rfl

theorem toNat_shiftL (x : Word) (n : Nat) : (shiftL x n).toNat = x.toNat * 2 ^ n % 2 ^ 32 := by
  rw [shiftL_eq, BitVec.toNat_shiftLeft, Nat.shiftLeft_eq]

theorem toNat_shiftR (x : Word) (n : Nat) : (shiftR x n).toNat = x.toNat / 2 ^ n := by
  rw [shiftR_eq, BitVec.toNat_ushiftRight, Nat.shiftRight_eq_div_pow]

theorem toNat_shiftA (x : Word) (n : Nat) : (shiftA x n).toNat = (x.toInt / 2 ^ n % 2 ^ 32).toNat := by
  rw [shiftA_eq, toNat_eq_toInt_emod, BitVec.toInt_sshiftRight, Int.shiftRight_eq_div_pow, Nat.cast_pow, Nat.cast_ofNat]

/-! ### The conditions of Table 3-8 on codes -/

theorem coded_of_or_eq_none {e : Option WordError} {c : Bool} (h : e.or (Field.coded c) = none) : c = true := by
  cases c
  · cases e <;> cases h
  · rfl

theorem legal_check_eq_none {i : Instr} {s : State} (h : legal i s = true) : i.check = none := by
  simp only [legal, legalIn, Bool.and_eq_true] at h
  exact Option.isNone_iff_eq_none.1 h.1.1

/-- A word is ILLEGAL on every state where the last condition on its fields, that on its code, fails. -/
theorem exec_of_not_coded (i : Instr) {e : Option WordError} {c : Bool} (hw : i.isWord = true) (hi : i.check = e.or (Field.coded c))
    (hc : c = false) (s : State) : exec i s = .next (s.trapWord .illegal) := by
  have illegal : legal i s = false := by
    by_contra h
    rw [legal_check_eq_none (Bool.not_eq_false _ ▸ h)] at hi
    exact Bool.false_ne_true (hc ▸ coded_of_or_eq_none hi.symm)
  exact illegalWords.1 i s hw illegal

/-- Settles O2: each word is a lane word whose result is that of a shift by any amount, and an immediate from 32 on breaks Table 3-8. -/
theorem shiftWords : Obligations.ShiftWords := by
  unfold Obligations.ShiftWords
  intro s w d a b
  dsimp only [exec]
  refine ⟨fun h => ?shl, fun h => ?shr, fun h => ?sar, fun h => ?shli, fun h => ?shri, fun h => ?sari, fun h => ?large⟩
  case shl => exact lane2_gives h (.head _) fun _ => toNat_shiftL _ _
  case shr => exact lane2_gives h (.head _) fun _ => toNat_shiftR _ _
  case sar => exact lane2_gives h (.head _) fun _ => toNat_shiftA _ _
  case shli => exact lane1_gives h (.head _) fun _ => toNat_shiftL _ _
  case shri => exact lane1_gives h (.head _) fun _ => toNat_shiftR _ _
  case sari => exact lane1_gives h (.head _) fun _ => toNat_shiftA _ _
  case large =>
    have hc : decide (b.toNat < 32) = false := decide_eq_false (Nat.not_lt.2 h)
    exact ⟨exec_of_not_coded (.shli w d a b) rfl rfl hc s, exec_of_not_coded (.shri w d a b) rfl rfl hc s,
      exec_of_not_coded (.sari w d a b) rfl rfl hc s⟩

/-! ### Bit fields (06 R115) -/

theorem fieldLen_le (c : Word) : fieldLen c ≤ 32 := (Nat.min_le_right _ _).trans (Nat.sub_le _ _)

/-- `BFE`: the field, and above it the copies of its top bit are the number 2^32 − 2^m, whose ones begin where the field ends. -/
theorem getLsbD_bfeW (x c : Word) {k : Nat} (hk : k < 32) :
    (bfeW x c).getLsbD k = if k < fieldLen c then x.getLsbD (c.toNat % 32 + k)
      else c.getLsbD 16 && decide (0 < fieldLen c) && x.getLsbD (c.toNat % 32 + fieldLen c - 1) := by
  have hm := fieldLen_le c
  unfold bfeW
  generalize fieldLen c = m at hm
  generalize c.toNat % 32 = p
  have field : ∀ j, (x.toNat / 2 ^ p % 2 ^ m).testBit j = (decide (j < m) && x.getLsbD (p + j)) := fun j => by
    rw [Nat.testBit_mod_two_pow, Nat.testBit_div_two_pow, BitVec.testBit_toNat, Nat.add_comm]
  have small : x.toNat / 2 ^ p % 2 ^ m < 2 ^ m := Nat.mod_lt _ (Nat.two_pow_pos m)
  have ones : 2 ^ 32 - 2 ^ m = 2 ^ m * (2 ^ (32 - m) - 1) := by
    rw [Nat.mul_sub, ← Nat.pow_add, Nat.add_sub_cancel' hm, Nat.mul_one]
  have sign : (m != 0 && c.getLsbD 16 && (x.toNat / 2 ^ p % 2 ^ m).testBit (m - 1)) =
      (c.getLsbD 16 && decide (0 < m) && x.getLsbD (p + m - 1)) := by
    rcases m with _ | m
    · simp
    · rw [field]
      simp
  dsimp only
  rw [sign]
  generalize x.toNat / 2 ^ p % 2 ^ m = v at field small
  generalize (c.getLsbD 16 && decide (0 < m) && x.getLsbD (p + m - 1)) = e
  cases e
  · rw [if_neg Bool.false_ne_true, BitVec.getLsbD_ofNat, field]
    by_cases h : k < m <;> simp [h, hk]
  · rw [if_pos rfl, BitVec.getLsbD_ofNat, ones, Nat.add_comm v, Nat.testBit_two_pow_mul_add _ small, field, Nat.testBit_two_pow_sub_one]
    by_cases h : k < m
    · simp [h, hk]
    · have : k - m < 32 - m := by omega
      simp [h, hk, this]

/-- The mask of m bits from p up. -/
theorem getLsbD_fieldMask (m p : Nat) {k : Nat} (hk : k < 32) :
    (BitVec.ofNat 32 ((2 ^ m - 1) * 2 ^ p)).getLsbD k = decide (p ≤ k ∧ k < p + m) := by
  rw [BitVec.getLsbD_ofNat, Nat.testBit_mul_two_pow, Nat.testBit_two_pow_sub_one]
  simp only [hk, decide_true, Bool.true_and, ← Bool.decide_and, decide_eq_decide]
  omega

theorem truncate_append_ushiftRight (c v : Word) : ((c ++ v) >>> 32).truncate 32 = c := by
  apply BitVec.eq_of_getLsbD_eq
  intro k hk
  rw [BitVec.getLsbD_setWidth, BitVec.getLsbD_ushiftRight, BitVec.getLsbD_append]
  simp [hk]

theorem getLsbD_bfiW (v c x : Word) {k : Nat} (hk : k < 32) :
    (bfiW (c ++ v) x).getLsbD k
      = if c.toNat % 32 ≤ k ∧ k < c.toNat % 32 + fieldLen c then v.getLsbD (k - c.toNat % 32) else x.getLsbD k := by
  have control : ((c ++ v : Dword) >>> 32).truncate 32 = c := truncate_append_ushiftRight c v
  have value : (c ++ v : Dword).truncate 32 = v := BitVec.setWidth_append_eq_right
  unfold bfiW
  dsimp only
  rw [control, value, BitVec.getLsbD_or, BitVec.getLsbD_and, BitVec.getLsbD_and, BitVec.getLsbD_not, getLsbD_fieldMask _ _ hk,
    BitVec.getLsbD_shiftLeft]
  by_cases h : c.toNat % 32 ≤ k ∧ k < c.toNat % 32 + fieldLen c <;> simp [h, hk]

/-! ### Counts and reversal (06 R112) -/

theorem length_filter_eq_sum {α : Type} (p : α → Bool) (l : List α) : (l.filter p).length = (l.map fun x => if p x then 1 else 0).sum := by
  induction l with
  | nil => rfl
  | cons x l ih => cases h : p x <;> simp [h, ih, Nat.add_comm]

theorem toNat_popW (x : Word) : (popW x).toNat = ((List.range 32).map fun k => if x.getLsbD k then 1 else 0).sum := by
  have h := List.length_filter_le (fun k => x.getLsbD k) (List.range 32)
  rw [List.length_range] at h
  rw [popW, BitVec.toNat_ofNat, Nat.mod_eq_of_lt (by omega), length_filter_eq_sum]

theorem toNat_clzW {x : Word} (hx : x ≠ 0) : (clzW x).toNat = 31 - Nat.log2 x.toNat := by
  have : (x == 0) = false := beq_false_of_ne hx
  rw [clzW, this, BitVec.toNat_ofNat, if_neg Bool.false_ne_true]
  omega

theorem clzW_bounds {x : Word} (hx : x ≠ 0) :
    (clzW x).toNat < 32 ∧ 2 ^ (31 - (clzW x).toNat) ≤ x.toNat ∧ x.toNat < 2 ^ (32 - (clzW x).toNat) := by
  have h0 : x.toNat ≠ 0 := fun h => hx (BitVec.eq_of_toNat_eq h)
  have top : Nat.log2 x.toNat < 32 := (Nat.log2_lt h0).2 x.isLt
  rw [toNat_clzW hx, show 31 - (31 - Nat.log2 x.toNat) = Nat.log2 x.toNat by omega,
    show 32 - (31 - Nat.log2 x.toNat) = Nat.log2 x.toNat + 1 by omega]
  exact ⟨by omega, Nat.log2_self_le h0, Nat.lt_log2_self⟩

/-- The number whose bits, highest first, are those of a sequence. -/
theorem testBit_foldl_bits (f : Nat → Bool) (n k : Nat) :
    ((List.range n).foldl (fun v j => 2 * v + (if f j then 1 else 0)) 0).testBit k = (decide (k < n) && f (n - 1 - k)) := by
  induction n generalizing k with
  | zero => simp
  | succ n ih =>
    rw [List.range_succ, List.foldl_append, List.foldl_cons, List.foldl_nil]
    cases k with
    | zero => cases h : f n <;> simp [Nat.testBit_zero, h, Nat.add_mod]
    | succ k =>
      have half : ∀ v : Nat, (2 * v + (if f n then 1 else 0)) / 2 = v := fun v => by split <;> omega
      rw [Nat.testBit_add_one, half, ih]
      simp [Nat.add_comm 1, Nat.sub_sub]

theorem getLsbD_brevW (x : Word) {k : Nat} (hk : k < 32) : (brevW x).getLsbD k = x.getLsbD (31 - k) := by
  rw [brevW, BitVec.getLsbD_ofNat, testBit_foldl_bits]
  simp [hk]

/-- Settles O3: the words are lane words of operations whose bits are those of `getLsbD_bfeW`, `getLsbD_bfiW`, `toNat_popW`,
`clzW_bounds` and `getLsbD_brevW`. -/
theorem bitWords : Obligations.BitWords := by
  unfold Obligations.BitWords
  dsimp only [exec]
  refine ⟨fun s w d a b => ⟨fun h => ?bfe, fun h => ?bfi, fun h => ?popc, fun h => ?clz, fun h => ?brev⟩,
    fun a c k => getLsbD_bfeW a c, fun v c d k => getLsbD_bfiW v c d, toNat_popW, fun a => clzW_bounds, rfl,
    fun a k => getLsbD_brevW a⟩
  case bfe => exact lane2_gives h (.head _) fun _ => rfl
  case bfi => exact laneWord_gives h 1 (.head _) fun _ => rfl
  case popc => exact lane1_gives h (.head _) fun _ => rfl
  case clz => exact lane1_gives h (.head _) fun _ => rfl
  case brev => exact lane1_gives h (.head _) fun _ => rfl

end Sys2Proof.Machine
end

section
/-! The float words of chapter 06: each applies its operation of chapter 04 to encodings and keeps the word that this gives (06 R116 to
R121). -/

namespace Sys2Proof.Machine

theorem toNat_num1 (f : Nat → Nat) (x : Word) : (num1 f x).toNat = f x.toNat % 2 ^ 32 := BitVec.toNat_ofNat _ _

theorem toNat_num2 (f : Nat → Nat → Nat) (x y : Word) : (num2 f x y).toNat = f x.toNat y.toNat % 2 ^ 32 := BitVec.toNat_ofNat _ _

theorem toNat_num3 (f : Nat → Nat → Nat → Nat) (x y z : Word) : (num3 f x y z).toNat = f x.toNat y.toNat z.toNat % 2 ^ 32 :=
  BitVec.toNat_ofNat _ _

section
variable {i : Instr} {s : State} {pipe : Pipe} {cost : Nat} {w : Bool} {d : BitVec 7} {a b : BitVec 8}

theorem lane1_num (h : Ready i s) (hd : .v d.toNat 1 ∈ (usesOf i).vdst) (f : Nat → Nat) :
    LaneDone s (lane1 i pipe cost w d a (num1 f) s) pipe w d.toNat 4 fun l => f (s.src a l).toNat % 2 ^ 32 :=
  lane1_gives h hd fun _ => toNat_num1 _ _

theorem lane2_num (h : Ready i s) (hd : .v d.toNat 1 ∈ (usesOf i).vdst) (f : Nat → Nat → Nat) :
    LaneDone s (lane2 i pipe cost w d a b (num2 f) s) pipe w d.toNat 4 fun l => f (s.src a l).toNat (s.src b l).toNat % 2 ^ 32 :=
  lane2_gives h hd fun _ => toNat_num2 _ _ _

theorem lane3_num (h : Ready i s) (hd : .v d.toNat 1 ∈ (usesOf i).vdst) (f : Nat → Nat → Nat → Nat) :
    LaneDone s (lane3 i pipe cost w d a b (num3 f) s) pipe w d.toNat 4 fun l =>
      f (s.src a l).toNat (s.src b l).toNat (s.dreg d l).toNat % 2 ^ 32 :=
  lane3_gives h hd fun _ => toNat_num3 _ _ _ _

/-- A packed word of two sources. -/
theorem lane2_packed (h : Ready i s) (hd : .v d.toNat 1 ∈ (usesOf i).vdst) (f : Nat → Nat → Nat) :
    LaneDone s (lane2 i pipe cost w d a b (fun a b => num3 (packed fun x y _ => f x y) a b 0) s) pipe w d.toNat 4 fun l =>
      packed (fun x y _ => f x y) (s.src a l).toNat (s.src b l).toNat 0 % 2 ^ 32 :=
  lane2_gives h hd fun _ => toNat_num3 _ _ _ 0

end

/-- Settles O4: each word is a lane word of its operation on encodings. -/
theorem floatWords : Obligations.FloatWords := by
  unfold Obligations.FloatWords
  intro s w d a b
  dsimp only [exec]
  refine ⟨fun h => ?fadd, fun h => ?fsub, fun h => ?fmul, fun h => ?ffma, fun h => ?fmin, fun h => ?fmax, fun h => ?hadd2,
    fun h => ?hmul2, fun h => ?hfma2, fun h => ?badd2, fun h => ?bmul2, fun h => ?bfma2, fun h => ?frcp, fun h => ?frsq,
    fun h => ?fexp2, fun h => ?flog2, fun h => ?cvt, fun h => ?fscale, fun h => ?qscale, fun h => ?frnd⟩
  case fadd => exact lane2_num h (.head _) f32.add
  case fsub => exact lane2_num h (.head _) f32.sub
  case fmul => exact lane2_num h (.head _) f32.mul
  case ffma => exact lane3_num h (.head _) f32.fma
  case fmin => exact lane2_num h (.head _) f32.min
  case fmax => exact lane2_num h (.head _) f32.max
  case hadd2 => exact lane2_packed h (.head _) f16.add
  case hmul2 => exact lane2_packed h (.head _) f16.mul
  case hfma2 => exact lane3_num h (.head _) (packed f16.fma)
  case badd2 => exact lane2_packed h (.head _) b16.add
  case bmul2 => exact lane2_packed h (.head _) b16.mul
  case bfma2 => exact lane3_num h (.head _) (packed b16.fma)
  case frcp => exact lane1_num h (.head _) Machine.frcp
  case frsq => exact lane1_num h (.head _) Machine.frsq
  case fexp2 => exact lane1_num h (.head _) Machine.fexp2
  case flog2 => exact lane1_num h (.head _) Machine.flog2
  case cvt => exact lane1_num h (.head _) (convert (b.toNat % 16) (bits b.toNat 6 4) b.msb)
  case fscale => exact lane2_gives h (.head _) fun _ => BitVec.toNat_ofNat _ _
  case qscale => exact lane2_num h (.head _) Machine.qscale
  case frnd => exact lane1_num h (.head _) (Machine.frnd b.toNat)

end Sys2Proof.Machine
end

section
/-! The compare words, the votes, and the words that write EXM and the predicates (06 R122 to R127). -/

namespace Sys2Proof.Machine

/-! ### Conditions of integer compares (03 Table 3-5) -/

theorem orderCond_eq_getD (lt eq : Bool) {c : Nat} (hc : c ≤ 5) :
    orderCond c lt eq = [eq, !eq, lt, lt || eq, !(lt || eq), !lt].getD c false := by
  have : c = 0 ∨ c = 1 ∨ c = 2 ∨ c = 3 ∨ c = 4 ∨ c = 5 := by omega
  rcases this with rfl | rfl | rfl | rfl | rfl | rfl <;> rfl

/-- Less and equal decide every condition, since the order is linear. -/
theorem orderCond_linear {α : Type} [LinearOrder α] (x y : α) {lt eq : Bool} (hlt : lt = decide (x < y)) (heq : eq = decide (x = y))
    {c : Nat} (hc : c ≤ 5) : orderCond c lt eq =
      [decide (x = y), !decide (x = y), decide (x < y), decide (x ≤ y), decide (y < x), decide (y ≤ x)].getD c false := by
  have le : (lt || eq) = decide (x ≤ y) := by
    rw [hlt, heq, ← Bool.decide_or]
    exact decide_eq_decide.2 le_iff_lt_or_eq.symm
  have gt : (!decide (x ≤ y)) = decide (y < x) := by
    rw [← decide_not]
    exact decide_eq_decide.2 not_le
  have ge : (!lt) = decide (y ≤ x) := by
    rw [hlt, ← decide_not]
    exact decide_eq_decide.2 not_lt
  rw [orderCond_eq_getD lt eq hc, le, gt, ge, hlt, heq]

theorem icmpCond_eq (x y : Word) {c : Nat} (hc : c ≤ 5) : icmpCond c x y =
    let x := x.toInt
    let y := y.toInt
    [x == y, x != y, decide (x < y), decide (x ≤ y), decide (y < x), decide (y ≤ x)].getD c false :=
  orderCond_linear x.toInt y.toInt BitVec.slt_eq_decide (decide_eq_decide.2 BitVec.toInt_inj.symm) hc

theorem ucmpCond_eq (x y : Word) {c : Nat} (hc : c ≤ 5) : ucmpCond c x y =
    let x := x.toNat
    let y := y.toNat
    [x == y, x != y, decide (x < y), decide (x ≤ y), decide (y < x), decide (y ≤ x)].getD c false :=
  orderCond_linear x.toNat y.toNat BitVec.ult_eq_decide (decide_eq_decide.2 BitVec.toNat_inj.symm) hc

section
variable {s : State} {c : BitVec 4} {p : BitVec 3} {a b : BitVec 8}

theorem Ready.icmp_cond (h : Ready (.icmp c p a b) s) : c.toNat ≤ 5 :=
  of_decide_eq_true (coded_of_or_eq_none (legal_check_eq_none h.1))

theorem Ready.ucmp_cond (h : Ready (.ucmp c p a b) s) : c.toNat ≤ 5 :=
  of_decide_eq_true (coded_of_or_eq_none (legal_check_eq_none h.1))

end

/-! ### Votes (06 R125) -/

section
variable {s : State} {w : Bool} {d : BitVec 7} {p : BitVec 3}

theorem execVote_mask (h : Ready (.vote w d p 0) s) : GDone64 s (execVote w d p 0 s) w d.toNat (s.votes p.toNat) := by
  rw [execVote, issue_ready h]
  exact gResult64_done _ _ _ _ _

theorem execVote_any (h : Ready (.vote w d p 1) s) : GDone s (execVote w d p 1 s) w d.toNat (if s.votes p.toNat ≠ 0 then 1 else 0) := by
  simp only [← bne_iff_ne]
  rw [execVote, issue_ready h]
  exact gResult_done _ _ _ _ _

theorem execVote_all (h : Ready (.vote w d p 2) s) :
    GDone s (execVote w d p 2 s) w d.toNat (if s.votes p.toNat = s.str.exm &&& ~~~ s.seen.hlp then 1 else 0) := by
  simp only [← beq_iff_eq (a := s.votes p.toNat)]
  rw [execVote, issue_ready h]
  exact gResult_done _ _ _ _ _

theorem execVote_count (h : Ready (.vote w d p 3) s) :
    GDone s (execVote w d p 3 s) w d.toNat (BitVec.ofNat 32 (popcount (s.votes p.toNat))) := by
  rw [execVote, issue_ready h]
  exact gResult_done _ _ _ _ _

end

/-! ### `MSET` (06 R126) -/

theorem msetMask_eq (mode : BitVec 2) (members exm p : LaneMask) :
    msetMask mode.toNat members exm p = if mode = 0 then members &&& p else if mode = 1 then exm &&& p else members := by
  have : mode = 0 ∨ mode = 1 ∨ mode = 2 ∨ mode = 3 := by revert mode; decide
  rcases this with rfl | rfl | rfl | rfl <;> rfl

theorem execMset_leaves {s : State} {p : BitVec 3} {mode : BitVec 2} (h : Ready (.mset p mode) s) :
    Leaves s (execMset p mode s) s.cur.moved
      (s.me.setStrand s.cur.strand { s.me.strand s.cur.strand with
        exm := msetMask mode.toNat s.str.members s.str.exm (s.seen.pred p.toNat) }) :=
  ⟨_, issue_ready h _, ((Moves.refl s).chargeMe eG1).modStr _⟩

/-! ### `PMOV` (06 R127) -/

/-- The bits of P7 to P0 of a lane are powers of two, summed. -/
theorem State.predByte_eq_sum (s : State) (l : Nat) :
    s.predByte l = ((List.range 8).map fun k => if (s.seen.pred k).getLsbD l then 2 ^ k else 0).sum := by
  rw [List.sum_eq_foldl, List.foldl_map]
  unfold State.predByte State.predBit
  congr 1
  funext n k
  split <;> rfl

theorem State.predByte_lt (s : State) (l : Nat) : s.predByte l < 2 ^ 8 := by
  rw [State.predByte_eq_sum]
  calc _ ≤ ((List.range 8).map (2 ^ ·)).sum := List.sum_le_sum fun k _ => by split <;> simp
    _ < 2 ^ 8 := by decide

theorem execPmovGet_leaves {s : State} {d : BitVec 7} (h : Ready (.pmovGet d) s) :
    Leaves s (execPmovGet d s) s.cur.moved (s.me.writeLanes (s.seen.vAt d.toNat) 4 s.predByte (lanesOf s.str.exm)) :=
  ⟨_, issue_ready h _, ((Moves.refl s).chargeMe _).modMe _⟩

section
variable {m : LaneMask} {v : Nat → LaneMask}

theorem Group.pred_writePred_same (g : Group) (n : Nat) (x : LaneMask) : (g.writePred n m x).pred n = (g.pred n &&& ~~~ m) ||| (x &&& m) :=
  Tab.get_set_same _ _ _ _

theorem Group.pred_writePred_ne (g : Group) {j n : Nat} (h : j ≠ n) (x : LaneMask) : (g.writePred n m x).pred j = g.pred j :=
  Tab.get_set_ne _ h _ _

/-- Predicates of a list written in the lanes of a mask, one after the other, as `PMOV.PUT` does. -/
def Group.writePreds (g : Group) (m : LaneMask) (v : Nat → LaneMask) (l : List Nat) : Group :=
  l.foldl (fun g n => g.writePred n m (v n)) g

/-- Writing predicates writes nothing else. -/
theorem Group.writePreds_rest (l : List Nat) (g : Group) : g.writePreds m v l = { g with p := (g.writePreds m v l).p } := by
  induction l generalizing g with
  | nil => rfl
  | cons n l ih => exact ih (g.writePred n m (v n))

theorem Group.pred_writePreds_of_not_mem (l : List Nat) (g : Group) {j : Nat} (h : j ∉ l) : (g.writePreds m v l).pred j = g.pred j := by
  induction l generalizing g with
  | nil => rfl
  | cons n l ih =>
    obtain ⟨hn, hl⟩ := List.ne_and_not_mem_of_not_mem_cons h
    exact (ih _ hl).trans (g.pred_writePred_ne hn _)

theorem Group.pred_writePreds_of_mem (l : List Nat) (g : Group) {j : Nat} (hn : l.Nodup) (h : j ∈ l) :
    (g.writePreds m v l).pred j = (g.pred j &&& ~~~ m) ||| (v j &&& m) := by
  induction l generalizing g with
  | nil => cases h
  | cons n l ih =>
    obtain ⟨hnl, hl⟩ := List.nodup_cons.1 hn
    rcases List.mem_cons.1 h with rfl | hj
    · exact (Group.pred_writePreds_of_not_mem l _ hnl).trans (g.pred_writePred_same _ _)
    · rw [← g.pred_writePred_ne (m := m) (ne_of_mem_of_not_mem hj hnl) (v n)]
      exact ih _ hl hj

end

/-- A predicate written in the lanes of a mask takes a test's outcome there and keeps its other bits (05 R85). -/
theorem getLsbD_merge_maskOf (x m : LaneMask) (f : Nat → Bool) {i : Nat} (hi : i < 64) :
    ((x &&& ~~~ m) ||| (maskOf f (lanesOf m) &&& m)).getLsbD i = if m.getLsbD i = true then f i else x.getLsbD i := by
  rw [BitVec.getLsbD_or, BitVec.getLsbD_and, BitVec.getLsbD_and, BitVec.getLsbD_not, maskOf_bit _ _ hi]
  cases hm : m.getLsbD i <;> simp [mem_lanesOf, hi, hm]

theorem execPmovPut_leaves {s : State} {a : BitVec 8} (h : Ready (.pmovPut a) s) :
    Leaves s (execPmovPut a s) s.cur.moved
      (s.me.writePreds s.str.exm (fun n => maskOf (fun l => (s.src a l).getLsbD n) (lanesOf s.str.exm)) (List.range 8)) :=
  ⟨_, issue_ready h _, ((Moves.refl s).chargeMe _).modMe _⟩

/-- Settles O10: compares and `PLOP` are predicate words (`predWordOf_gives`), `SEL` is a lane word, the votes end as group-wide words, and
`MSET` and `PMOV` change the group at their strand's EXM, its lane bytes and its predicates alone. -/
theorem predicateWords : Obligations.PredicateWords := by
  unfold Obligations.PredicateWords
  intro s w d c f p q r a b mode
  dsimp only [exec]
  refine ⟨fun h => ?icmp, fun h => ?ucmp, fun h => ?fcmp, fun h => ?plop, fun h => ?sel, fun h hm => ?mask, fun h hm => ?any,
    fun h hm => ?all, fun h hm => ?count, fun h => ?mset, fun h => ?get, fun h => ?put⟩
  case icmp => exact predWordOf_gives h fun _ => icmpCond_eq _ _ h.icmp_cond
  case ucmp => exact predWordOf_gives h fun _ => ucmpCond_eq _ _ h.ucmp_cond
  case fcmp => exact predWordOf_gives h fun _ => rfl
  case plop => exact predWordOf_gives h fun _ => rfl
  case sel => exact laneWord_gives h 1 (.head _) fun _ => apply_ite BitVec.toNat _ _ _
  case mask =>
    subst hm
    exact execVote_mask h
  case any =>
    subst hm
    exact execVote_any h
  case all =>
    subst hm
    exact execVote_all h
  case count =>
    subst hm
    exact execVote_count h
  case mset =>
    rw [← msetMask_eq]
    exact execMset_leaves h
  case get =>
    have hb : s.seen.vAt d.toNat + 4 ≤ 1024 := h.dst (.head _)
    refine ⟨_, execPmovGet_leaves h, Group.writeLanes_rest _ _, fun i hi hm => ?_, fun i k hi hk out => ?_⟩
    · have small := s.predByte_lt i
      rw [Group.readLane_writeLanes _ _ hb (lanesOf_nodup _) (mem_lanesOf.2 ⟨hi, hm⟩), ← State.predByte_eq_sum]
      exact Nat.mod_eq_of_lt (by omega)
    · refine Group.byteAt_writeLanes _ _ hk hb (out.imp_left fun hm hi => ?_)
      rw [(mem_lanesOf.1 hi).2] at hm
      cases hm
  case put =>
    refine ⟨_, execPmovPut_leaves h, Group.writePreds_rest _ _, fun n i hn hi => ?_⟩
    rw [Group.pred_writePreds_of_mem _ _ List.nodup_range (List.mem_range.2 hn)]
    exact getLsbD_merge_maskOf _ _ _ hi

end Sys2Proof.Machine
end

section
/-! Exact sums and the dot words (04 R68, R73, 07 R131). -/

namespace Sys2Proof.Machine

/-! ### Exact sums -/

theorem Val.Fin.rat_nonpos {v : Val} (h : v.Fin) (neg : v.sgn = true) : v.rat ≤ 0 := by
  obtain ⟨s, m, e, rfl⟩ := h.exists
  obtain lt | ⟨eq, -⟩ := (Val.sgn_fin_iff s m e).1 neg
  · exact lt.le
  · exact eq.le

/-- A sum of two negative numbers is negative, be they zeros. -/
theorem Val.Fin.add_neg {v w : Val} (hv : v.Fin) (hw : w.Fin) (nv : v.sgn = true) (nw : w.sgn = true) : (v.add w).sgn = true := by
  obtain ⟨fin, rat, sgn⟩ := hv.add hw
  by_cases zero : (v.add w).rat = 0
  · exact (sgn zero).2 ⟨nv, nw⟩
  · have nonpos : (v.add w).rat ≤ 0 := by linarith [hv.rat_nonpos nv, hw.rat_nonpos nw]
    have lt := lt_of_le_of_ne nonpos zero
    obtain ⟨s, m, e, eq⟩ := fin.exists
    rw [eq] at lt ⊢
    exact (Val.sgn_fin_iff s m e).2 (.inl lt)

/-- A sum of finite numbers is exact, and a zero sum is −0 only where every one is negative. -/
theorem foldl_add_fin (l : List Val) {v : Val} (hv : v.Fin) (hl : ∀ w ∈ l, w.Fin) :
    (l.foldl Val.add v).Fin ∧ (l.foldl Val.add v).rat = v.rat + (l.map Val.rat).sum
      ∧ (v.sgn = true → (∀ w ∈ l, w.sgn = true) → (l.foldl Val.add v).sgn = true)
      ∧ ((l.foldl Val.add v).rat = 0 → (l.foldl Val.add v).sgn = true → v.sgn = true ∧ ∀ w ∈ l, w.sgn = true) := by
  induction l generalizing v with
  | nil => exact ⟨hv, by simp, fun h _ => h, fun _ h => ⟨h, by simp⟩⟩
  | cons w l ih =>
    rw [List.forall_mem_cons] at hl
    obtain ⟨fin, rat, sgn⟩ := hv.add hl.1
    obtain ⟨fin', rat', neg', zero'⟩ := ih fin hl.2
    refine ⟨fin', ?_, fun nv nl => ?_, fun zero neg => ?_⟩
    · rw [List.foldl_cons, rat', rat, List.map_cons, List.sum_cons, add_assoc]
    · rw [List.forall_mem_cons] at nl
      exact neg' (hv.add_neg hl.1 nv nl.1) nl.2
    · obtain ⟨nvw, nl⟩ := zero' zero neg
      have nonpos : ∀ x ∈ l.map Val.rat, x ≤ 0 := List.forall_mem_map.2 fun w hw => (hl.2 w hw).rat_nonpos (nl w hw)
      have rest : (l.map Val.rat).sum ≤ 0 := (List.sum_le_card_nsmul _ 0 nonpos).trans_eq (nsmul_zero _)
      have sum : (v.add w).rat + (l.map Val.rat).sum = 0 := rat'.symm.trans zero
      have : (v.add w).rat = 0 := by linarith [fin.rat_nonpos nvw]
      obtain ⟨nv, nw⟩ := (sgn this).1 nvw
      exact ⟨nv, List.forall_mem_cons.2 ⟨nw, nl⟩⟩

theorem exactSum_of_fin {l : List Val} (h : ∀ v ∈ l, v.Fin) : exactSum l = l.foldl Val.add (.fin true 0 0) := by
  rw [exactSum, firstNan_of_fin h, Option.getD_none]

/-! ### A chunk of products added to a number (04 R73) -/

section
variable {chunk : List (Val × Val)}

/-- The products of a chunk. -/
def products (chunk : List (Val × Val)) : List Val := chunk.map fun p => p.1.mul p.2

theorem products_fin (h : ∀ p ∈ chunk, p.1.Fin ∧ p.2.Fin) : ∀ v ∈ products chunk, v.Fin := fun v hv => by
  obtain ⟨p, hp, rfl⟩ := List.mem_map.1 hv
  exact ((h p hp).1.mul (h p hp).2).1

theorem products_rat (h : ∀ p ∈ chunk, p.1.Fin ∧ p.2.Fin) :
    (products chunk).map Val.rat = chunk.map fun p => p.1.rat * p.2.rat := by
  rw [products, List.map_map]
  exact List.map_congr_left fun p hp => ((h p hp).1.mul (h p hp).2).2.1

theorem products_neg (h : ∀ p ∈ chunk, p.1.Fin ∧ p.2.Fin) :
    (∀ v ∈ products chunk, v.sgn = true) ↔ ∀ p ∈ chunk, p.1.sgn ≠ p.2.sgn := by
  rw [products, List.forall_mem_map]
  refine forall₂_congr fun p hp => ?_
  rw [((h p hp).1.mul (h p hp).2).2.2, bne_iff_ne]

/-- No product of finite numbers is a NaN of its chunk. -/
theorem find_nan_product (h : ∀ p ∈ chunk, p.1.Fin ∧ p.2.Fin) : (chunk.find? fun p => (p.1.mul p.2).isNan) = none :=
  List.find?_eq_none.2 fun p hp => by
    rw [((h p hp).1.mul (h p hp).2).1.1]
    exact Bool.false_ne_true

/-- A chunk without a NaN comes behind the number. -/
theorem accumulate_of_fin (acc : Nat) (h : ∀ p ∈ chunk, p.1.Fin ∧ p.2.Fin) :
    accumulate acc chunk = f32.op [f32.val acc, exactSum (products chunk)] ((f32.val acc).add (exactSum (products chunk))) := by
  rw [accumulate, find_nan_product h]
  rfl

/-- A number and a chunk of products give their exact sum, rounded once. -/
theorem gives_accumulate {acc : Nat} (ha : (f32.val acc).Fin) (h : ∀ p ∈ chunk, p.1.Fin ∧ p.2.Fin) :
    f32.Gives 0 ((f32.val acc).rat + (chunk.map fun p => p.1.rat * p.2.rat).sum)
      ((f32.val acc).sgn = true ∧ ∀ p ∈ chunk, p.1.sgn ≠ p.2.sgn) (accumulate acc chunk) := by
  obtain ⟨fin, rat, neg, zero⟩ := foldl_add_fin (products chunk) (Val.fin_fin true 0 0) (products_fin h)
  rw [← exactSum_of_fin (products_fin h)] at fin rat neg zero
  obtain ⟨fin', rat', sgn'⟩ := ha.add fin
  have start : (Val.fin true 0 0).rat = 0 := by simp [Val.rat]
  rw [start, zero_add, products_rat h] at rat
  rw [accumulate_of_fin acc h, f32.op_of_numbers (firstNan_of_fin (by simp [ha, fin])), ← products_neg h, ← rat, ← rat']
  refine Fmt.gives_round wide_f32 0 fin' rfl fun sum => ?_
  rw [sgn' sum]
  refine and_congr_right fun na => ⟨fun ns => ?_, fun nl => neg rfl nl⟩
  have : (exactSum (products chunk)).rat = 0 := by linarith [ha.rat_nonpos na, fin.rat_nonpos ns]
  exact (zero this ns).2

/-- A NaN in the number stands where the chunk holds none (04 R68). -/
theorem accumulate_nan {acc : Nat} {s : Bool} {c : Nat} (ha : f32.val acc = .nan s c) (h : ∀ p ∈ chunk, p.1.Fin ∧ p.2.Fin) :
    accumulate acc chunk = f32.nanBits s c := by
  rw [accumulate_of_fin acc h, f32.op_of_firstNan (firstNan_of_pair (.inl ha) [])]

end

/-- Finite, or the NaN of one event without a sign, as every number of a narrow format is (04 R65). -/
def Val.FinOrNan (c : Nat) (v : Val) : Prop := v.Fin ∨ v = .nan false c

theorem Fmt.narrow_finOrNan (f : Fmt) (x : Nat) : (f.narrow x).FinOrNan 7 := by
  rw [Fmt.narrow]
  split
  · exact .inr rfl
  · exact .inl (f.finite_fin _ _ _)

theorem Val.FinOrNan.eq_nan {v : Val} {c : Nat} (h : v.FinOrNan c) (nan : v.isNan = true) : v = .nan false c :=
  h.resolve_left fun fin => by simp [fin.1] at nan

theorem Val.FinOrNan.mul {v w : Val} {c : Nat} (hv : v.FinOrNan c) (hw : w.FinOrNan c) :
    (v.mul w).FinOrNan c ∧ (v.mul w).isNan = (v.isNan || w.isNan) := by
  obtain fv | rfl := hv
  · obtain fw | rfl := hw
    · have fin := (fv.mul fw).1
      exact ⟨.inl fin, by rw [fin.1, fv.1, fw.1]; rfl⟩
    · obtain ⟨s, m, e, rfl⟩ := fv.exists
      exact ⟨.inr rfl, rfl⟩
  · exact ⟨.inr rfl, rfl⟩

/-- A NaN operand of the chunk comes before all else (04 R68). -/
theorem accumulate_nan_operand {chunk : List (Val × Val)} {c : Nat} (acc : Nat)
    (h : ∀ p ∈ chunk, p.1.FinOrNan c ∧ p.2.FinOrNan c) (hasNan : ∃ p ∈ chunk, (p.1.isNan || p.2.isNan) = true) :
    accumulate acc chunk = f32.nanBits false c := by
  have nan : ∀ p ∈ chunk, (p.1.mul p.2).isNan = (p.1.isNan || p.2.isNan) := fun p hp => ((h p hp).1.mul (h p hp).2).2
  obtain ⟨q, hq, hn⟩ := hasNan
  obtain ⟨p, found⟩ := Option.isSome_iff_exists.1
    ((List.find?_isSome (p := fun p : Val × Val => (p.1.mul p.2).isNan)).2 ⟨q, hq, (nan q hq).trans hn⟩)
  have mem := List.mem_of_find?_eq_some found
  have born : (p.1.mul p.2).isNan = true := List.find?_some (p := fun p : Val × Val => (p.1.mul p.2).isNan) found
  have value : p.1.mul p.2 = .nan false c := ((h p mem).1.mul (h p mem).2).1.eq_nan born
  have first : firstNan (products chunk) = some (.nan false c) := by
    rw [firstNan, products, List.find?_map]
    exact (congrArg _ found).trans (congrArg some value)
  have sum : exactSum (products chunk) = .nan false c := by rw [exactSum, first, Option.getD_some]
  rw [accumulate, found]
  dsimp only
  rw [if_pos ((nan p mem).symm.trans born), ← products, sum]
  exact f32.op_of_firstNan (firstNan_cons_nan _ _ _) _

/-! ### Dot words (07 R131) -/

section
variable {f : Fmt} {n w a b d : Nat}

/-- The chunk of a dot word. -/
def dotChunk (f : Fmt) (n w a b : Nat) : List (Val × Val) := (List.range n).map fun k => (f.narrow (elem a w k), f.narrow (elem b w k))

theorem forall_mem_dotChunk {P : Val × Val → Prop} :
    (∀ p ∈ dotChunk f n w a b, P p) ↔ ∀ k, k < n → P (f.narrow (elem a w k), f.narrow (elem b w k)) := by
  simp only [dotChunk, List.forall_mem_map, List.mem_range]

theorem gives_dotW (hd : (f32.val d).Fin) (h : ∀ k, k < n → (f.narrow (elem a w k)).Fin ∧ (f.narrow (elem b w k)).Fin) :
    f32.Gives 0 ((f32.val d).rat + ((List.range n).map fun k => (f.narrow (elem a w k)).rat * (f.narrow (elem b w k)).rat).sum)
      ((f32.val d).sgn = true ∧ ∀ k, k < n → (f.narrow (elem a w k)).sgn ≠ (f.narrow (elem b w k)).sgn) (dotW f n w a b d) := by
  have chunk := gives_accumulate hd (forall_mem_dotChunk.2 h)
  rw [forall_mem_dotChunk, dotChunk, List.map_map] at chunk
  exact chunk

theorem dotW_nan {s : Bool} {c : Nat} (hd : f32.val d = .nan s c)
    (h : ∀ k, k < n → (f.narrow (elem a w k)).Fin ∧ (f.narrow (elem b w k)).Fin) : dotW f n w a b d = f32.nanBits s c :=
  accumulate_nan hd (forall_mem_dotChunk.2 h)

theorem dotW_nan_operand (h : ∃ k, k < n ∧ ((f.narrow (elem a w k)).isNan = true ∨ (f.narrow (elem b w k)).isNan = true)) :
    dotW f n w a b d = 0x7FC00007 := by
  obtain ⟨k, hk, nan⟩ := h
  exact accumulate_nan_operand d (forall_mem_dotChunk.2 fun _ _ => ⟨f.narrow_finOrNan _, f.narrow_finOrNan _⟩)
    ⟨_, List.mem_map.2 ⟨k, List.mem_range.2 hk, rfl⟩, (Bool.or_eq_true _ _).mpr nan⟩

end

theorem dotI_eq (n w a b d : Nat) : dotI n w a b d =
    (((d : Int) + ((List.range n).map fun k => signed w (elem a w k) * signed w (elem b w k)).sum) % 2 ^ 32).toNat := by
  have sum : ∀ (l : List Nat) (g : Nat → Int) (x : Int), l.foldl (fun y k => y + g k) x = x + (l.map g).sum := fun l g x => by
    rw [← List.foldl_map, ← List.sum_cons, List.sum_eq_foldl, List.foldl_cons, zero_add]
  rw [dotI, sum]
  rfl

/-- The number below 2^32 that a dot word of integers ends with. -/
theorem toNat_dotI (n w : Nat) (x y z : Word) : (num3 (dotI n w) x y z).toNat =
    (((z.toNat : Int) + ((List.range n).map fun k => signed w (elem x.toNat w k) * signed w (elem y.toNat w k)).sum) % 2 ^ 32).toNat := by
  rw [toNat_num3, dotI_eq]
  omega

/-- Settles O7: a dot word is a lane word of `dotW` or `dotI`; a chunk is added exactly and rounded once (`gives_accumulate`), and its NaN
operands come before the number's NaN (`accumulate_nan_operand`, `accumulate_nan`). -/
theorem dotWords : Obligations.DotWords := by
  unfold Obligations.DotWords
  dsimp only [exec]
  refine ⟨fun s w d a b => ⟨fun h => ?dot8w, fun h => ?dot4w, fun h => ?dot8i, fun h => ?dot4i⟩, fun acc chunk => gives_accumulate,
    fun f n a b d _ => ⟨gives_dotW, dotW_nan_operand, fun s c => dotW_nan⟩⟩
  case dot8w => exact lane3_num h (.head _) (dotW w8 4 8)
  case dot4w => exact lane3_num h (.head _) (dotW w4 8 4)
  case dot8i => exact lane3_gives h (.head _) fun _ => toNat_dotI 4 8 _ _ _
  case dot4i => exact lane3_gives h (.head _) fun _ => toNat_dotI 8 4 _ _ _

end Sys2Proof.Machine
end

section
/-! Cross-lane words and identity words: where each lane's value comes from (07 R132 to R138, Tables 7-3, 7-5). -/

namespace Sys2Proof.Machine

/-! ### Partners and lanes that are combined (07 R132 to R136) -/

section
variable (s : State) (a : BitVec 8) (l : Nat)

/-- A partner's source counts where the partner is in the strand's EXM (R132). -/
theorem State.toNat_fromLane_some (j : Nat) : (s.fromLane a l (some j)).toNat =
    if j < 64 ∧ s.str.exm.getLsbD j = true then (s.src a j).toNat else (s.src a l).toNat := by
  simp only [State.fromLane, Bool.and_eq_true, decide_eq_true_eq, apply_ite BitVec.toNat]

/-- A lane without a partner keeps its own source. -/
theorem State.toNat_fromLane_ite (c : Prop) [Decidable c] (j : Nat) : (s.fromLane a l (if c then some j else none)).toNat =
    if c then (s.fromLane a l (some j)).toNat else (s.src a l).toNat := by
  split <;> rfl

end

theorem lredLanes_eq (mode l : Nat) (set : List Nat) : lredLanes mode l set =
    if mode = 0 then set else if mode = 1 then set.filter fun j => j / 4 == l / 4 else set.filter fun j => j ≤ l :=
  match mode with
  | 0 => rfl
  | 1 => rfl
  | _ + 2 => rfl

/-- Settles O8: each word is a lane word whose value in a lane is its partner's (`State.toNat_fromLane_some`); `LRED` combines the lanes
that its mode picks. -/
theorem crossLaneWords : Obligations.CrossLaneWords := by
  unfold Obligations.CrossLaneWords
  intro s w d a b
  dsimp only [exec]
  refine ⟨fun h => ?shfl, fun h mode => ?xor, fun h mode => ?down, fun h mode => ?up, fun h => ?qxch, fun h => ?lred⟩
  case shfl => exact laneWord_gives h 1 (.head _) fun l => s.toNat_fromLane_some a l _
  case xor =>
    refine laneWord_gives h 1 (.head _) fun l => ?_
    rw [mode]
    exact s.toNat_fromLane_some a l _
  case down =>
    refine laneWord_gives h 1 (.head _) fun l => ?_
    rw [mode, ← s.toNat_fromLane_some a l]
    exact s.toNat_fromLane_ite a l _ _
  case up =>
    refine laneWord_gives h 1 (.head _) fun l => ?_
    rw [mode, ← s.toNat_fromLane_some a l]
    exact s.toNat_fromLane_ite a l _ _
  case qxch => exact laneWord_gives h 1 (.head _) fun l => s.toNat_fromLane_some a l _
  case lred =>
    refine laneWord_gives h 1 (.head _) fun l => ?_
    dsimp only
    rw [lredLanes_eq]

/-! ### Identity (07 R137, R138) -/

section
variable {s : State} {w : Bool} {d : BitVec 7} {a b : BitVec 8}

theorem Ready.rdid_sel (h : Ready (.rdid w d b) s) : b.toNat ≤ 10 :=
  of_decide_eq_true (coded_of_or_eq_none (e := none) (legal_check_eq_none h.1))

theorem Ready.mrd_sel (h : Ready (.mrd w d a b) s) : b.toNat ≤ 3 := by
  have h := legal_check_eq_none h.1
  exact of_decide_eq_true (coded_of_or_eq_none (Option.or_eq_none_iff.1 h).1)

end

/-- The values of Table 7-5 in the order of their selectors. -/
theorem State.identity_eq_getD (s : State) {sel : Nat} (h : sel ≤ 10) (l : Nat) : s.identity sel l =
    [l, s.seen.place.off + l, s.seen.place.width, l / 4, (s.team s.seen.place.team).inCohort, (s.team s.seen.place.team).cohort,
      s.myCluster, s.seen.place.off, s.myQuarter, s.cur.strand, if s.seen.hlp.getLsbD l then 1 else 0].getD sel 0 := by
  interval_cases sel <;> rfl

theorem State.maskSel_eq_getD (s : State) {sel : Nat} (h : sel ≤ 3) (n : Nat) : s.maskSel sel n =
    [s.str.exm, s.str.members, s.seen.hlp, s.seen.pred n].getD sel 0 &&& fullMask s.seen.place.width := by
  interval_cases sel <;> rfl

/-- Settles O9: `RDID` is a lane word, `MRD` and `STRD` are group-wide words, of the values that their selectors name. -/
theorem identityWords : Obligations.IdentityWords := by
  unfold Obligations.IdentityWords
  intro s w d a b
  dsimp only [exec]
  refine ⟨fun h => ?rdid, fun h => ?mrd, fun h => ?strd⟩
  case rdid => exact laneWord_gives h 1 (.head _) fun l => s.identity_eq_getD h.rdid_sel l
  case mrd =>
    rw [← s.maskSel_eq_getD h.mrd_sel]
    exact groupWord64_done h w d _
  case strd => exact groupWord_done h w d _

end Sys2Proof.Machine
end

section
/-! Group-wide words and broadcasts (07 R153 to R155, Table 7-12). -/

namespace Sys2Proof.Machine

/-! ### Group-wide arithmetic (07 R153, R154) -/

theorem Ready.gcmp_cond {s : State} {c : BitVec 4} {p : BitVec 3} {a b : BitVec 8} (h : Ready (.gcmp c p a b) s) : c.toNat ≤ 9 :=
  of_decide_eq_true (coded_of_or_eq_none (legal_check_eq_none h.1))

/-- The conditions of `GCMP`: 0 to 5 signed, 6 to 9 unsigned (03 R54). -/
theorem gcmpCond_eq (x y : Word) {c : Nat} (hc : c ≤ 9) : gcmpCond c x y =
    [x == y, x != y, decide (x.toInt < y.toInt), decide (x.toInt ≤ y.toInt), decide (y.toInt < x.toInt), decide (y.toInt ≤ x.toInt),
      decide (x.toNat < y.toNat), decide (x.toNat ≤ y.toNat), decide (y.toNat < x.toNat), decide (y.toNat ≤ x.toNat)].getD c false := by
  by_cases signed : c ≤ 5
  · have eq : (x.toInt == y.toInt) = (x == y) := decide_eq_decide.2 BitVec.toInt_inj
    have signedOnly : gcmpCond c x y = icmpCond c x y := by interval_cases c <;> rfl
    rw [signedOnly, icmpCond_eq x y signed]
    dsimp only
    rw [bne, eq]
    interval_cases c <;> rfl
  · have unsigned : c = 6 ∨ c = 7 ∨ c = 8 ∨ c = 9 := by omega
    rcases unsigned with rfl | rfl | rfl | rfl
    · exact BitVec.ult_eq_decide
    · exact BitVec.ule_eq_decide
    · exact BitVec.ult_eq_decide
    · exact BitVec.ule_eq_decide

/-- The four kinds of `GSHIFT` (R154). -/
theorem gshiftW_eq (x y : Word) : gshiftW x y =
    if y.toNat / 256 % 4 = 0 then BitVec.ofNat 32 (x.toNat * 2 ^ (y.toNat % 64))
    else if y.toNat / 256 % 4 = 1 then BitVec.ofNat 32 (x.toNat / 2 ^ (y.toNat % 64))
    else if y.toNat / 256 % 4 = 2 then BitVec.ofInt 32 (x.toInt / 2 ^ (y.toNat % 64))
    else x.rotateRight (y.toNat % 32) := by
  have kind : bits y.toNat 9 8 = y.toNat / 256 % 4 := rfl
  have turn : y.toNat % 64 % 32 = y.toNat % 32 := Nat.mod_mod_of_dvd _ (by decide)
  rw [gshiftW, kind, turn]
  generalize y.toNat % 64 = n
  generalize y.toNat / 256 % 4 = k
  split
  next => exact BitVec.eq_of_toNat_eq ((toNat_shiftL x n).trans (BitVec.toNat_ofNat _ _).symm)
  next =>
    rw [if_neg (by decide), if_pos rfl]
    refine BitVec.eq_of_toNat_eq ((toNat_shiftR x n).trans ?_)
    rw [BitVec.toNat_ofNat, Nat.mod_eq_of_lt ((Nat.div_le_self _ _).trans_lt x.isLt)]
  next =>
    rw [if_neg (by decide), if_neg (by decide), if_pos rfl]
    exact BitVec.eq_of_toNat_eq ((toNat_shiftA x n).trans (toNat_ofInt_emod _ _).symm)
  next h0 h1 h2 => rw [if_neg h0, if_neg h1, if_neg h2]

section
variable {i : Instr} {s : State} {w : Bool} {d : BitVec 7} {a b : BitVec 8}

theorem g1_done (h : Ready i s) (f : Word → Word) : GDone s (g1 i w d a f s) w d.toNat (f (s.gsrc a)) := groupWord_done h w d _

theorem g2_done (h : Ready i s) (f : Word → Word → Word) : GDone s (g2 i w d a b f s) w d.toNat (f (s.gsrc a) (s.gsrc b)) :=
  groupWord_done h w d _

end

theorem execGcmp_leaves {s : State} {c : BitVec 4} {p : BitVec 3} {a b : BitVec 8} (h : Ready (.gcmp c p a b) s) :
    Leaves s (execGcmp c p a b s) s.cur.moved (s.me.setGPred p.toNat (gcmpCond c.toNat (s.gsrc a) (s.gsrc b))) :=
  ⟨_, issue_ready h _, ((Moves.refl s).chargeMe _).modMe _⟩

/-- Settles O12: the words are group-wide words (`groupWord_done`, `groupWord64_done`) of the operations on words; `GCMP` writes its bit of
GP alone. -/
theorem groupWords : Obligations.GroupWords := by
  unfold Obligations.GroupWords
  intro s w d c p a b imm
  dsimp only [exec]
  refine ⟨fun h => g1_done h id, fun h => groupWord_done h w d _, fun h => groupWord_done h w d _, fun h => g2_done h (· + ·),
    fun h => g1_done h (· + b.signExtend 32), fun h => g2_done h (· - ·), fun h => g2_done h (· * ·), fun h => g2_done h (· &&& ·),
    fun h => g2_done h (· ||| ·), fun h => g2_done h (· ^^^ ·), fun h => ?gshift, fun h => ?gcmp, fun h => ?gminmax,
    fun h => groupWord64_done h w d _⟩
  case gshift =>
    rw [← gshiftW_eq]
    exact g2_done h gshiftW
  case gcmp =>
    rw [← gcmpCond_eq _ _ h.gcmp_cond]
    exact execGcmp_leaves h
  case gminmax =>
    rw [← ite_slt Eq.symm, ← ite_slt id]
    exact groupWord64_done h w d _

/-! ### Broadcasts (07 R155) -/

theorem execVbcast_done {s : State} {w : Bool} {d : BitVec 7} {a : BitVec 8} (h : Ready (.vbcast w d a) s) :
    GroupDone s (execVbcast w d a s) 32 ((s.gsrc a).zeroExtend 64)
      (if w then s.me else s.me.writeLanes (s.seen.vAt d.toNat) 4 (fun _ => (s.gsrc a).toNat) (lanesOf s.str.exm)) := by
  have charged := (Moves.refl s).chargeMe eG1
  rw [execVbcast, issue_ready h]
  cases w
  · have lost := congrArg Group.lost (Group.writeLanes_rest (b := s.seen.vAt d.toNat) (n := 4) (f := fun _ => (s.gsrc a).toNat)
      (lanesOf s.str.exm) s.me)
    exact (charged.modMe _).shared lost rfl _ _
  · exact charged.shared rfl rfl _ _

/-- Settles O13: `GBCAST` is a group-wide word; `VBCAST` ends with its value in L2 and in the lanes of EXM (`execVbcast_done`). -/
theorem broadcastWords : Obligations.BroadcastWords := by
  unfold Obligations.BroadcastWords
  intro s w d a b
  dsimp only [exec]
  refine ⟨fun h => groupWord_done h w d _, fun h => ⟨_, execVbcast_done h, ?_⟩⟩
  have hb : s.seen.vAt d.toNat + 4 ≤ 1024 := h.dst (.head _)
  cases w
  · refine ⟨Group.writeLanes_rest _ _, fun _ i hi hm => ?_, fun i k hi hk out => ?_⟩
    · rw [if_neg Bool.false_ne_true, Group.readLane_writeLanes _ _ hb (lanesOf_nodup _) (mem_lanesOf.2 ⟨hi, hm⟩)]
      exact Nat.mod_eq_of_lt (s.gsrc a).isLt
    · refine Group.byteAt_writeLanes _ _ hk hb ?_
      simpa [mem_lanesOf, hi] using out
  · exact ⟨rfl, fun h => absurd h (by decide), fun _ _ _ _ _ => rfl⟩

end Sys2Proof.Machine
end

section
/-! The words that set a view register, a format window, the gang register and the region set (07 R141 to R144, 05 R93). -/

namespace Sys2Proof.Machine

/-! ### Registers that a word of chapter 07 sets (R141 to R144) -/

/-- Bits [9:0] aligned, as `VIEW` writes them. -/
theorem div_mul_eq_sub_mod (n k : Nat) : n / k * k = n - n % k := by
  rw [Nat.mul_comm]
  exact Nat.eq_sub_of_add_eq (Nat.div_add_mod n k)

/-- The group once `VIEW` has set a view register and emptied the region set (R142). -/
def Group.takeView (g : Group) (v n : Nat) : Group :=
  let g := { g with region := 0 }
  if v == 0 then { g with vwv := BitVec.ofNat 32 (n - n % 4) }
  else if v == 1 then { g with vwt := BitVec.ofNat 32 (n - n % 32) }
  else { g with vwa := BitVec.ofNat 32 (n - n % 128) }

theorem Group.takeView_eq (g : Group) (v : Nat) (a : Word) : g.takeView v (a.toNat % 1024) =
    let g := { g with region := 0 }
    let o := viewOff v a
    if v == 0 then { g with vwv := o } else if v == 1 then { g with vwt := o } else { g with vwa := o } := by
  unfold Group.takeView viewOff
  simp only [← div_mul_eq_sub_mod]
  cases v == 0
  · cases v == 1 <;> rfl
  · rfl

section
variable {s : State} {a : BitVec 8}

theorem execView_leaves {v : BitVec 7} (h : Ready (.view v a) s) :
    Leaves s (execView v a s) s.cur.moved (s.me.takeView v.toNat ((s.gsrc a).toNat % 1024)) := by
  rw [Group.takeView_eq]
  exact ⟨_, issue_ready h _, ((Moves.refl s).chargeMe _).modMe _⟩

theorem execSfmt_moves {k : BitVec 3} (h : Ready (.sfmt k a) s) :
    ∃ u, Moves s u s.cur.moved s.me s.myLatches ∧ execSfmt k a s =
      .next (u.modTeam s.me.place.team fun t => { t with windows := t.windows.set 0 k.toNat (s.gsrc64 a &&& ~~~ 0x1FFFF#64) }) :=
  ⟨_, (Moves.refl s).chargeMe eG1, issue_ready h _⟩

end


/-! ### `GANG` (07 R144) -/

/-- From s to t nothing but rendezvous has changed. -/
def OnlyRdvs (s t : State) : Prop := t = { s with rdvs := t.rdvs }

theorem OnlyRdvs.refl (s : State) : OnlyRdvs s s := rfl

theorem OnlyRdvs.trans {s t u : State} (h : OnlyRdvs s t) (k : OnlyRdvs t u) : OnlyRdvs s u := by
  rw [OnlyRdvs, k, h]

theorem OnlyRdvs.passRdv (s : State) (k off : Nat) : OnlyRdvs s (s.passRdv k off) := rfl

theorem OnlyRdvs.sweepRdv (s : State) (k : Nat) : OnlyRdvs s (s.sweepRdv k) := by
  unfold State.sweepRdv
  dsimp only
  split <;> rfl

/-- Leaving a gang changes rendezvous alone. -/
theorem OnlyRdvs.leaveGang (s : State) (g : Group) : OnlyRdvs s (s.leaveGang g) :=
  List.foldlRecOn (motive := OnlyRdvs s) s.rdvs _ (.refl s) fun t only e _ => by
    dsimp only
    split
    · exact only.trans ((OnlyRdvs.passRdv _ _ _).trans (.sweepRdv _ _))
    · exact only

/-- It changes none that has not failed. -/
theorem State.leaveGang_of_none_failed {s : State} (g : Group) (h : ∀ e ∈ s.rdvs, e.2.failed = 0) : s.leaveGang g = s :=
  List.foldlRecOn (motive := (· = s)) s.rdvs _ rfl fun t same e he => by
    simp only [h e he, same, bne_self_eq_false, Bool.and_false, Bool.false_and, Bool.false_eq_true, if_false]

/-- A pair that the gang register may take names 0 or 2 to 6 members and, where there are any, the group's own number among them. -/
theorem gangStatus_free (x : Dword) : gangStatus false x =
    if x.toNat / 2 ^ 61 ≠ 1 ∧ x.toNat / 2 ^ 61 ≠ 7 ∧ (x.toNat / 2 ^ 61 ≠ 0 → x.toNat / 2 ^ 58 % 8 ≠ 0 ∧ x.toNat / 2 ^ 58 % 8 ≤ x.toNat / 2 ^ 61)
    then 0 else 1 := by
  have top : bits x.toNat 63 61 = x.toNat / 2 ^ 61 := Nat.mod_eq_of_lt (Nat.div_lt_of_lt_mul x.isLt)
  have own : bits x.toNat 60 58 = x.toNat / 2 ^ 58 % 8 := rfl
  rw [gangStatus, top, own]
  generalize x.toNat / 2 ^ 61 = cnt
  generalize x.toNat / 2 ^ 58 % 8 = idx
  rw [if_neg Bool.false_ne_true, ← ite_not (_ ∧ _)]
  refine if_congr ?_ rfl rfl
  simp only [Bool.or_eq_true, Bool.and_eq_true, beq_iff_eq, bne_iff_ne, decide_eq_true_eq]
  omega

section
variable {s u : State} {g : Group}

/-- A group-wide result of a word that has changed its group before, but for what a latch content takes from it. -/
theorem Moves.gResult (h : Moves s u s.cur.moved g s.myLatches) (place : g.place = s.me.place) (uid : g.uid = s.me.uid)
    (lost : g.lost = s.me.lost) (d : Nat) (v : Word) :
    GroupDone s (.next (u.gResult false d v)) 32 (v.zeroExtend 64) (g.setG d v) := by
  have latch : sharedLatch u.me 32 (v.zeroExtend 64) = sharedLatch s.me 32 (v.zeroExtend 64) := by
    rw [h.now, sharedLatch, place, uid, sharedLatch]
  rw [State.gResult, latch, h.cur_group]
  exact (h.modMe fun g => g.setG d v).shared lost rfl _ _

theorem GroupDone.rdvs {t : State} {w : Nat} {v : Dword} (h : GroupDone s (.next t) w v g) : t.rdvs = s.rdvs := by
  obtain ⟨_, _, _, same, moves, _⟩ := h
  cases same
  rw [moves.rest]

end

/-- What `GANG` writes into the gang register with its status. -/
def gangValue (status : Nat) (v : Dword) : Dword := if status == 0 then v &&& gangMask else 0

/-- The group after `GANG`, but for its status. -/
def Group.takeGang (status : Nat) (v : Dword) (g : Group) : Group := if status == 2 then g else { g with gang := gangValue status v }

/-- The state once `GANG` has left the gang of a group, where it leaves it. -/
def State.quitGang (s : State) (status : Nat) (v : Dword) (g : Group) : State :=
  if status == 2 || gangKey (gangValue status v) == gangKey g.gang then s else s.leaveGang g

theorem OnlyRdvs.quitGang (s : State) (status : Nat) (v : Dword) (g : Group) : OnlyRdvs s (s.quitGang status v g) := by
  unfold State.quitGang
  split
  · exact .refl s
  · exact .leaveGang s g

theorem State.quitGang_same {s : State} {status : Nat} (h : status = 2 ∨ ∀ e ∈ s.rdvs, e.2.failed = 0) (v : Dword) (g : Group) :
    s.quitGang status v g = s := by
  unfold State.quitGang
  split
  · rfl
  next leaves =>
    refine State.leaveGang_of_none_failed g (h.resolve_left fun two => leaves ?_)
    rw [two]
    rfl

theorem execGang_eq {s : State} {d : BitVec 7} {a : BitVec 8} (h : Ready (.gang d a) s) {status : Nat}
    (hs : gangStatus (s.seen.counter pMMA != 0) (s.gsrc64 a) = status) : execGang d a s =
      .next ((((s.chargeMe eG1).quitGang status (s.gsrc64 a) s.seen).modMe (·.takeGang status (s.gsrc64 a))).gResult false d.toNat
        (BitVec.ofNat 32 status)) := by
  rw [execGang, issue_ready h, ← hs]
  rfl

/-- `GANG` as it issues: its status in L2 and its register, what its group becomes, and the rendezvous, which may change only where it leaves a
gang of which one has failed. -/
theorem execGang_done {s : State} {d : BitVec 7} {a : BitVec 8} (h : Ready (.gang d a) s) {status : Nat}
    (hs : gangStatus (s.seen.counter pMMA != 0) (s.gsrc64 a) = status) :
    ∃ t r, GroupDone s (.next t) 32 ((BitVec.ofNat 32 status).zeroExtend 64)
        ((s.me.takeGang status (s.gsrc64 a)).setG d.toNat (BitVec.ofNat 32 status))
      ∧ execGang d a s = .next { t with rdvs := r } ∧ (status = 2 ∨ (∀ e ∈ s.rdvs, e.2.failed = 0) → r = s.rdvs) := by
  have charged := (Moves.refl s).chargeMe eG1
  have rdvs : (s.chargeMe eG1).rdvs = s.rdvs := by rw [charged.rest]
  have taken : s.me.takeGang status (s.gsrc64 a) = { s.me with gang := (s.me.takeGang status (s.gsrc64 a)).gang } := by
    unfold Group.takeGang
    split <;> rfl
  refine ⟨_, ((s.chargeMe eG1).quitGang status (s.gsrc64 a) s.seen).rdvs,
    (charged.modMe (·.takeGang status (s.gsrc64 a))).gResult (by rw [taken]) (by rw [taken]) (by rw [taken]) d.toNat _, ?_, fun still => ?_⟩
  · rw [execGang_eq h hs, OnlyRdvs.quitGang (s.chargeMe eG1) status (s.gsrc64 a) s.seen]
    rfl
  · rw [State.quitGang_same (by rwa [rdvs]), rdvs]

/-! ### `REGION` (07 R141) -/

section
variable {s : State} {idx : BitVec 5}

theorem execRegion_listed (h : Ready (.region idx) s) {m : BitVec 128} (listed : s.regionSet idx.toNat = some m) :
    Leaves s (execRegion idx s) s.cur.moved { s.me with region := m } := by
  rw [execRegion, issue_ready h]
  dsimp only
  rw [listed]
  exact ⟨_, rfl, ((Moves.refl s).chargeMe _).modMe _⟩

theorem execRegion_unlisted (h : Ready (.region idx) s) (unlisted : s.regionSet idx.toNat = none) :
    execRegion idx s = .next (s.trapWord .illegal) := by
  rw [execRegion, issue_ready h, unlisted]

end

/-- Settles O14: `VIEW` and `REGION` change their group alone, `SFMT` a window of the team; `GANG` ends as a group-wide word with the status
that `gangStatus` gives its pair. -/
theorem viewWords : Obligations.ViewWords := by
  unfold Obligations.ViewWords
  intro s v d k a idx
  dsimp only [exec]
  have pair := gangStatus_free (s.gsrc64 a)
  have counted : (s.seen.counter pMMA != 0) = !decide (s.seen.counter pMMA = 0) := rfl
  refine ⟨fun h hv => ?vwv, fun h hv => ?vwt, fun h hv => ?vwa, fun h => execSfmt_moves h, fun h free fits => ?fits,
    fun h free unfit => ?unfit, fun h busy => ?busy, fun h m listed => execRegion_listed h listed, fun h => execRegion_unlisted h⟩
  case vwv =>
    subst hv
    exact execView_leaves h
  case vwt =>
    subst hv
    exact execView_leaves h
  case vwa =>
    subst hv
    exact execView_leaves h
  case fits =>
    rw [if_pos fits] at pair
    obtain ⟨t, r, done, eq, still⟩ := execGang_done h (status := 0) (by rw [counted, free]; exact pair)
    exact ⟨t, r, done, eq, still ∘ .inr⟩
  case unfit =>
    rw [if_neg unfit] at pair
    obtain ⟨t, r, done, eq, still⟩ := execGang_done h (status := 1) (by rw [counted, free]; exact pair)
    exact ⟨t, r, done, eq, still ∘ .inr⟩
  case busy =>
    obtain ⟨t, r, done, eq, still⟩ := execGang_done h (status := 2) (by rw [counted, decide_eq_false busy]; rfl)
    have same : { t with rdvs := r } = t := by rw [still (.inl rfl), ← done.rdvs]
    rw [eq, same]
    exact done

end Sys2Proof.Machine
end

section
/-! The tiles of a rendezvous and the write of a result (07 R146, R147, R149 to R151). -/

namespace Sys2Proof.Machine

/-! ### A full rendezvous opens (R149, R150) -/

/-- The tile of a member, kept by lanes. -/
def tileLanes (g : Group) (t : Team) (c : MmaCmd) (col : Nat → Nat → Val) : Tab Nat :=
  (List.range 32).foldl (fun o lane => o.set 0 lane (mmaLane g t c col lane)) []

theorem get_tileLanes (g : Group) (t : Team) (c : MmaCmd) (col : Nat → Nat → Val) {lane : Nat} (h : lane < 32) :
    (tileLanes g t c col).get 0 lane = mmaLane g t c col lane :=
  Tab.get_foldl_set_of_mem 0 id Function.injective_id _ [] (List.mem_range.2 h)

/-- What an operation becomes as its rendezvous opens in a state. -/
def State.openedOp (s : State) (col : Nat → Nat → Val) (k : Nat) (c : MmaCmd) : Op :=
  { s.op k with kind := .mma { c with
      out := tileLanes (s.tileGroup (s.op k).group) (s.team (s.tileGroup (s.op k).group).place.team) c col, opened := true, turn := s.free } }

/-- One member's tile computed in s and kept in t. -/
def State.keepTile (s : State) (col : Nat → Nat → Val) (t : State) (k : Nat) : State :=
  match (s.op k).kind with
  | .mma c => t.setOp k (s.openedOp col k c)
  | _ => t

/-- The tiles of members computed in s and kept, one after the other. -/
def State.keepTiles (s : State) (col : Nat → Nat → Val) (t : State) (l : List Nat) : State := l.foldl (s.keepTile col) t

theorem State.openRdv_full {s : State} {r : Nat} (h : (s.rdvs.get {} r).full = true) : s.openRdv r =
    let t := s.keepTiles (fun n k => s.bElem (s.rdvs.get {} r).joined n k) s (s.rdvs.get {} r).joined
    { t with rdvs := t.rdvs.set {} r { s.rdvs.get {} r with opened := true } } := by
  rw [State.openRdv, if_pos h]
  rfl

theorem State.openRdv_not_full {s : State} {r : Nat} (h : (s.rdvs.get {} r).full = false) : s.openRdv r = s := by
  rw [State.openRdv, if_neg (by rw [h]; exact Bool.false_ne_true)]

section
variable {s : State} {col : Nat → Nat → Val}

theorem State.keepTiles_rest (l : List Nat) (t : State) : s.keepTiles col t l = { t with ops := (s.keepTiles col t l).ops } :=
  foldl_keeps (fun u : State => u = { t with ops := u.ops }) (s.keepTile col) (fun u k h => by
    unfold State.keepTile
    split
    · rw [State.setOp, h]
    · exact h) l t rfl

theorem State.op_keepTile_ne {t : State} {j k : Nat} (h : j ≠ k) : (s.keepTile col t k).op j = t.op j := by
  unfold State.keepTile
  split
  · exact State.op_setOp_ne _ h _
  · rfl

theorem State.op_keepTiles_of_not_mem {k : Nat} (l : List Nat) (t : State) (h : k ∉ l) : (s.keepTiles col t l).op k = t.op k := by
  induction l generalizing t with
  | nil => rfl
  | cons j l ih =>
    obtain ⟨ne, rest⟩ := List.ne_and_not_mem_of_not_mem_cons h
    exact (ih _ rest).trans (State.op_keepTile_ne ne)

/-- A member's tile depends on the state alone in which the rendezvous opens, so it does not matter when it is kept. -/
theorem State.op_keepTiles_of_mem {k : Nat} {c : MmaCmd} {l : List Nat} (t : State) (h : k ∈ l) (kind : (s.op k).kind = .mma c) :
    (s.keepTiles col t l).op k = s.openedOp col k c := by
  induction l generalizing t with
  | nil => cases h
  | cons j l ih =>
    by_cases later : k ∈ l
    · exact ih _ later
    · obtain rfl : k = j := (List.mem_cons.1 h).resolve_right later
      refine (State.op_keepTiles_of_not_mem l _ later).trans ?_
      rw [State.keepTile, kind]
      exact State.op_setOp _ _ _

/-- A full rendezvous opens: the tile of every member is computed and kept. -/
theorem State.openRdv_spec {r : Nat} (full : (s.rdvs.get {} r).full = true) :
    (s.openRdv r).mem = s.mem ∧ (s.openRdv r).groups = s.groups
      ∧ (s.openRdv r).rdvs.get {} r = { s.rdvs.get {} r with opened := true }
      ∧ ∀ k c, k ∈ (s.rdvs.get {} r).joined → (s.op k).kind = .mma c →
          (s.openRdv r).op k = s.openedOp (fun n i => s.bElem (s.rdvs.get {} r).joined n i) k c := by
  have rest := s.keepTiles_rest (col := fun n i => s.bElem (s.rdvs.get {} r).joined n i) (s.rdvs.get {} r).joined s
  rw [State.openRdv_full full]
  exact ⟨by rw [rest], by rw [rest], Tab.get_set_same _ _ _ _, fun k c mem kind => State.op_keepTiles_of_mem s mem kind⟩

end

/-- A member that no packet reads ahead stands as its group stands. -/
theorem State.tileGroup_of_no_view {s : State} (h : s.cur.view = none) (k : Nat) : s.tileGroup k = s.group k := by
  rw [State.tileGroup, h]
  rfl

/-! ### A result is written (R151) -/

/-- The operations of a group once one of a path has completed. -/
def Group.pathsAfter (g : Group) (path op : Nat) : List PathOp :=
  retirePaths path (g.paths.map fun o => if o.op == op then { o with done := true } else o)

/-- A wait, where these operations are left: it is over when it waits for a counter that has fallen so far. -/
def Wait.after (paths : List PathOp) : Wait → Wait
  | .counter p t => if (paths.filter fun o => o.path == p).length ≤ t then .none else .counter p t
  | w => w

/-- The end of an operation touches the paths and the wait of its group, and depends on nothing else of it. -/
theorem Group.completeOp_eq (g : Group) (path op : Nat) :
    g.completeOp path op = { g with paths := g.pathsAfter path op, wait := g.wait.after (g.pathsAfter path op) } := by
  unfold Group.completeOp Group.counter
  rw [← Group.pathsAfter]
  generalize g.pathsAfter path op = l
  dsimp only
  split
  next p t wait =>
    rw [wait, Wait.after]
    split
    · rfl
    · rw [← wait]
  next other =>
    have : g.wait.after l = g.wait := by
      unfold Wait.after
      split
      next p t wait => exact absurd wait (other p t)
      next => rfl
    rw [this]

/-- It is the same in a group of other registers. -/
theorem Group.completeOp_of_rest {g h : Group} (rest : h = { g with lanes := h.lanes, g := h.g }) (path op : Nat) :
    h.completeOp path op = { g with
      lanes := h.lanes, g := h.g, paths := (g.completeOp path op).paths, wait := (g.completeOp path op).wait } := by
  have paths : h.pathsAfter path op = g.pathsAfter path op := by rw [rest]; rfl
  have wait : h.wait = g.wait := by rw [rest]
  rw [Group.completeOp_eq g, Group.completeOp_eq h, paths, wait]
  exact congrArg (fun x : Group => { x with paths := g.pathsAfter path op, wait := g.wait.after (g.pathsAfter path op) }) rest

theorem State.endOp_alive {s : State} {k : Nat} (h : s.opAlive (s.op k) = true) :
    s.endOp k = (s.setOp k {}).modGroup (s.op k).group (·.completeOp (s.op k).path k) := by
  rw [State.endOp]
  exact if_pos h

theorem Charges.opAlive {s t : State} (h : Charges s t) (o : Op) : t.opAlive o = s.opAlive o := by
  rw [State.opAlive, h.group, State.opAlive]

/-- A group changed in no more than its registers still holds its operations. -/
theorem State.opAlive_modGroup {s : State} {o : Op} {f : Group → Group} (live : (f (s.group o.group)).live = (s.group o.group).live)
    (uid : (f (s.group o.group)).uid = (s.group o.group).uid) : (s.modGroup o.group f).opAlive o = s.opAlive o := by
  rw [State.opAlive, State.group_modGroup, live, uid, State.opAlive]

theorem Group.lanes_setG (g : Group) (n : Nat) (v : Word) : (g.setG n v).lanes = g.lanes := rfl

/-- The group of a member once D has been written and its status reads 0. -/
def Group.takeTile (g : Group) (b : Nat) (c : MmaCmd) : Group :=
  (g.writeLanes b 128 (fun i => c.out.get 0 i) (List.range 32)).setG c.status 0

theorem Group.takeTile_regs (g : Group) (b : Nat) (c : MmaCmd) : g.takeTile b c = { g.setG c.status 0 with lanes := (g.takeTile b c).lanes } :=
  congrArg (·.setG c.status 0) (Group.writeLanes_rest (List.range 32) g)

theorem Group.takeTile_rest (g : Group) (b : Nat) (c : MmaCmd) :
    g.takeTile b c = { g with lanes := (g.takeTile b c).lanes, g := (g.takeTile b c).g } := by
  have regs := g.takeTile_regs b c
  generalize g.takeTile b c = h at regs
  rw [regs]
  rfl

section
variable {g : Group} {b : Nat} {c : MmaCmd}

/-- The status lies in no lane. -/
theorem Group.lanes_takeTile : (g.takeTile b c).lanes = (g.writeLanes b 128 (fun i => c.out.get 0 i) (List.range 32)).lanes := by
  rw [Group.takeTile, Group.lanes_setG]

variable (hb : b + 128 ≤ 1024)
include hb

theorem Group.readLane_takeTile {i : Nat} (hi : i < 32) : (g.takeTile b c).readLane i b 128 = c.out.get 0 i % 2 ^ 1024 := by
  rw [Group.readLane, Group.lanes_takeTile, ← Group.readLane]
  rw [Group.readLane_writeLanes (List.range 32) g hb List.nodup_range (List.mem_range.2 hi)]

theorem Group.byteAt_takeTile {i j : Nat} (hj : j < 1024) (out : 32 ≤ i ∨ j < b ∨ b + 128 ≤ j) :
    (g.takeTile b c).byteAt i j = g.byteAt i j := by
  rw [Group.byteAt, Group.lanes_takeTile, ← Group.byteAt]
  exact Group.byteAt_writeLanes (List.range 32) g hj hb (out.imp_left fun h mem => Nat.not_lt.2 h (List.mem_range.1 mem))

end

/-- The rendezvous once an operation of one of them has ended. -/
def State.rdvsWithout (s : State) (rdv op : Nat) : Tab Rdv :=
  let r := s.rdvs.get {} rdv
  let left := r.joined.filter (· != op)
  s.rdvs.set {} rdv (if left.isEmpty then {} else { r with joined := left })

/-- The write of a result that is due: D and the status are in the group's registers, and the operation is over. -/
theorem execMmaResultWrite_due {s : State} {op b : Nat} {c : MmaCmd} (live : (s.op op).live = true) (kind : (s.op op).kind = .mma c)
    (due : (c.opened && s.mmaTurn op c) = true) (alive : s.opAlive (s.op op) = true) (dst : (s.op op).dst = [(b, 128)]) :
    ∃ u, Charges (s.modGroup (s.op op).group (·.takeTile b c)) u
      ∧ execMmaResultWrite op s = .next { u.endOp op with rdvs := (u.endOp op).rdvsWithout c.rdv op } := by
  refine ⟨_, Charges.charge _ (s.op op).cluster (s.op op).qidx (mmaCost c), ?_⟩
  rw [execMmaResultWrite]
  dsimp only
  rw [live, kind]
  dsimp only
  rw [if_pos due, if_pos alive, dst]
  rfl

theorem execMmaResultWrite_not_due {s : State} {op : Nat} {c : MmaCmd} (live : (s.op op).live = true) (kind : (s.op op).kind = .mma c)
    (early : (c.opened && s.mmaTurn op c) = false) : execMmaResultWrite op s = .next s := by
  rw [execMmaResultWrite]
  dsimp only
  rw [live, kind]
  dsimp only
  rw [if_neg (by rw [early]; exact Bool.false_ne_true)]

/-- What the write of a result leaves. -/
theorem execMmaResultWrite_spec {s : State} {op b : Nat} {c : MmaCmd} (live : (s.op op).live = true) (kind : (s.op op).kind = .mma c)
    (due : (c.opened && s.mmaTurn op c) = true) (alive : s.opAlive (s.op op) = true) (dst : (s.op op).dst = [(b, 128)]) :
    ∃ t, execMmaResultWrite op s = .next t ∧ t.mem = s.mem ∧ t.op op = {}
      ∧ t.group (s.op op).group = ((s.group (s.op op).group).takeTile b c).completeOp (s.op op).path op
      ∧ ∀ k, k ≠ (s.op op).group → t.group k = s.group k := by
  obtain ⟨u, charges, eq⟩ := execMmaResultWrite_due live kind due alive dst
  have op' : u.op op = s.op op := charges.op op
  have alive' : u.opAlive (u.op op) = true := by
    rw [op', charges.opAlive, State.opAlive_modGroup, alive]
    · rw [Group.takeTile_rest]
    · rw [Group.takeTile_rest]
  rw [State.endOp_alive alive', op'] at eq
  refine ⟨_, eq, charges.mem, State.op_setOp _ _ _, ?_, fun k hk => ?_⟩
  · have here : u.group (s.op op).group = (s.group (s.op op).group).takeTile b c :=
      (charges.group _).trans (State.group_modGroup s (s.op op).group _)
    rw [← here]
    exact State.group_modGroup (u.setOp op {}) (s.op op).group (·.completeOp (s.op op).path op)
  · have there : u.group k = s.group k := (charges.group k).trans (State.group_modGroup_ne s hk _)
    rw [← there]
    exact State.group_modGroup_ne (u.setOp op {}) hk (·.completeOp (s.op op).path op)

/-! ### Elements of a tile (R147, R150) -/

/-- A number from digits of w bits, lowest first. -/
def digitSum (w n : Nat) (e : Nat → Nat) : Nat := (List.range n).foldl (fun x i => x + e i % 2 ^ w * 2 ^ (w * i)) 0

theorem digitSum_succ (w n : Nat) (e : Nat → Nat) : digitSum w (n + 1) e = digitSum w n e + e n % 2 ^ w * 2 ^ (w * n) := by
  rw [digitSum, List.range_succ, List.foldl_append]
  rfl

theorem digitSum_lt (w n : Nat) (e : Nat → Nat) : digitSum w n e < 2 ^ (w * n) := by
  induction n with
  | zero => exact Nat.one_pos
  | succ n ih =>
    have digit : e n % 2 ^ w + 1 ≤ 2 ^ w := Nat.mod_lt _ (Nat.two_pow_pos w)
    calc digitSum w (n + 1) e = digitSum w n e + e n % 2 ^ w * 2 ^ (w * n) := digitSum_succ w n e
      _ < (e n % 2 ^ w + 1) * 2 ^ (w * n) := by rw [Nat.add_mul, Nat.one_mul, Nat.add_comm]; exact Nat.add_lt_add_left ih _
      _ ≤ 2 ^ w * 2 ^ (w * n) := Nat.mul_le_mul_right _ digit
      _ = 2 ^ (w * (n + 1)) := by rw [← Nat.pow_add, Nat.mul_succ, Nat.add_comm]

/-- Each digit stands at its place. -/
theorem digitSum_digit (w : Nat) (e : Nat → Nat) {n k : Nat} (h : k < n) : digitSum w n e / 2 ^ (w * k) % 2 ^ w = e k % 2 ^ w := by
  induction n with
  | zero => cases h
  | succ n ih =>
    rw [digitSum_succ]
    obtain lt | rfl := Nat.lt_succ_iff_lt_or_eq.1 h
    · obtain ⟨m, rfl⟩ := Nat.exists_eq_add_of_lt lt
      have split : e (k + m + 1) % 2 ^ w * 2 ^ (w * (k + m + 1)) = 2 ^ (w * k) * (2 ^ w * (e (k + m + 1) % 2 ^ w * 2 ^ (w * m))) := by
        rw [show w * (k + m + 1) = w * k + (w + w * m) by ring, Nat.pow_add, Nat.pow_add]
        ring
      rw [split, Nat.add_mul_div_left _ _ (Nat.two_pow_pos _), Nat.add_mul_mod_self_left, ih lt]
    · rw [Nat.add_mul_div_right _ _ (Nat.two_pow_pos _), Nat.div_eq_of_lt (digitSum_lt w k e), Nat.zero_add, Nat.mod_mod]

theorem mmaLane_eq_digitSum (g : Group) (t : Team) (c : MmaCmd) (col : Nat → Nat → Val) (lane : Nat) : mmaLane g t c col lane =
    digitSum (mmaWidth c.cmd.toNat) 32 fun i => mmaElem g t c (col (lane % 2 * 32 + i)) (lane / 2) (lane % 2 * 32 + i) := rfl

/-- Element (r, i) of a tile that is not requantised stands in lane 2r + i / 32. -/
theorem mmaLane_elem (g : Group) (t : Team) (c : MmaCmd) (col : Nat → Nat → Val) {r i : Nat} (hi : i < 64)
    (h : mmaReq c.cmd.toNat = false) :
    mmaLane g t c col (2 * r + i / 32) / 2 ^ (32 * (i % 32)) % 2 ^ 32 = mmaElem g t c (col i) r i % 2 ^ 32 := by
  have width : mmaWidth c.cmd.toNat = 32 := by rw [mmaWidth, h]; rfl
  have row : (2 * r + i / 32) / 2 = r := by omega
  have column : (2 * r + i / 32) % 2 * 32 + i % 32 = i := by omega
  rw [mmaLane_eq_digitSum, width, digitSum_digit 32 _ (Nat.mod_lt i (Nat.zero_lt_succ 31) : i % 32 < 32), row, column]

/-- With every bit of the command word but the format clear, an element is the sum of products from 0. -/
theorem mmaElem_plain (g : Group) (t : Team) (c : MmaCmd) (col : Nat → Val) (r n : Nat) (h : c.cmd.toNat < 4) :
    mmaElem g t c col r n = (List.range (mmaK c.cmd.toNat / 32)).foldl (fun acc j => accumulate acc ((List.range 32).map fun i =>
      (tileElem g (c.cmd.toNat % 4) c.ta r (32 * j + i), col (32 * j + i)))) 0 := by
  have clear : ∀ k, 2 ≤ k → c.cmd.toNat.testBit k = false := fun k hk =>
    Nat.testBit_lt_two_pow (h.trans_le (Nat.pow_le_pow_right two_pos hk))
  have acc : mmaAcc c.cmd.toNat = false := clear 2 (by decide)
  have bias : mmaBias c.cmd.toNat = false := clear 3 (by decide)
  have act : mmaAct c.cmd.toNat = false := clear 4 (by decide)
  have req : mmaReq c.cmd.toNat = false := clear 5 (by decide)
  simp [mmaElem, acc, bias, act, req, mmaIfmt, Team.entry]

/-- Settles O44: a full rendezvous keeps each member's tile (`State.op_keepTiles_of_mem`), the write puts it into the lanes
(`execMmaResultWrite_spec`), and an element is a digit of its lane (`mmaLane_elem`). -/
theorem matrixResults : Obligations.MatrixResults := by
  unfold Obligations.MatrixResults
  dsimp only [exec]
  refine ⟨fun s r => ⟨fun full _ view => ?whole, fun part => ?part⟩, fun s op b c live kind => ⟨fun opened turn alive dst hb => ?write,
    fun early => ?early⟩, fun g t c col r i _ hi => mmaLane_elem g t c col hi, mmaElem_plain⟩
  case whole =>
    obtain ⟨mem, groups, rdv, tile⟩ := State.openRdv_spec full
    refine ⟨_, rfl, mem, groups, rdv, fun k c joined kind => ⟨_, congrArg Op.kind (tile k c joined kind), fun lane hlane => ?_⟩⟩
    rw [get_tileLanes _ _ _ _ hlane, State.tileGroup_of_no_view view]
  case part => rw [execMmaRendezvousOpen, State.openRdv_not_full part]
  case write =>
    obtain ⟨t, eq, mem, gone, group, others⟩ := execMmaResultWrite_spec live kind (by rw [opened, turn]; rfl) alive dst
    have rest := (s.group (s.op op).group).takeTile_rest b c
    have group := group.trans (Group.completeOp_of_rest rest (s.op op).path op)
    have lanes : (t.group (s.op op).group).lanes = ((s.group (s.op op).group).takeTile b c).lanes := by rw [group]
    refine ⟨t, eq, mem, gone, ?_, fun i hi => ?_, fun i j hi hj out => ?_, others⟩
    · have regs := (s.group (s.op op).group).takeTile_regs b c
      generalize (s.group (s.op op).group).takeTile b c = h at regs group lanes
      rw [lanes, group, regs]
      rfl
    · rw [Group.readLane, lanes, ← Group.readLane]
      exact Group.readLane_takeTile hb hi
    · rw [Group.byteAt, lanes, ← Group.byteAt]
      exact Group.byteAt_takeTile hb hj out
  case early => exact execMmaResultWrite_not_due live kind (by rw [Bool.and_eq_false_iff]; exact early)

end Sys2Proof.Machine
end

section
/-! `MMA`: what turns it away, the rendezvous that a member joins, and how one fails (07 R145, R148, R149). -/

namespace Sys2Proof.Machine

/-! ### Members that have halted or ended (R149) -/

/-- A group is gone from a place of a team. -/
def Group.goneAt (g : Group) (team off : Nat) : Bool :=
  g.live && g.place.team == team && g.place.off == off && (g.halt.isSome || g.ended)

theorem State.memberGone_iff (s : State) (team off : Nat) :
    s.memberGone team off = true ↔ (∃ k, (s.group k).goneAt team off = true) ∨ (s.team team).gone.contains (off, 32) = true := by
  rw [State.memberGone, Bool.or_eq_true]
  refine or_congr_left (List.any_eq_true.trans ⟨fun ⟨k, _, gone⟩ => ⟨k, gone⟩, fun ⟨k, gone⟩ => ⟨k, ?_, gone⟩⟩)
  refine Tab.mem_keys_of_get_ne (d := {}) fun vacant => ?_
  rw [State.group, vacant] at gone
  cases gone

/-- Whether a member is gone depends on no more than that of each group, and on the team. -/
theorem State.memberGone_congr {s t : State} (groups : ∀ k team off, (t.group k).goneAt team off = (s.group k).goneAt team off)
    (teams : t.teams = s.teams) (team off : Nat) : t.memberGone team off = s.memberGone team off := by
  refine Bool.eq_iff_iff.2 ?_
  simp only [State.memberGone_iff, groups, State.team, teams]

/-! ### A rendezvous fails (R149) -/

theorem OnlyRdvs.setRdvs (s : State) (x : Tab Rdv) : OnlyRdvs s { s with rdvs := x } := rfl

theorem OnlyRdvs.op {s t : State} (h : OnlyRdvs s t) (j : Nat) : t.op j = s.op j := by rw [h]; rfl
theorem OnlyRdvs.group {s t : State} (h : OnlyRdvs s t) (j : Nat) : t.group j = s.group j := by rw [h]; rfl

section
variable {s : State} {k code op : Nat} {c : MmaCmd}

/-- The state once the operation of one member has ended with a status. -/
def State.statusGiven (s : State) (op : Nat) (c : MmaCmd) (code : Nat) : State :=
  (s.modGroup (s.op op).group (·.setG c.status (BitVec.ofNat 32 code))).endOp op

/-- A rendezvous in which one member waits gives it the status. -/
theorem OnlyRdvs.failRdv_single (waits : (s.rdvs.get {} k).joined = [op]) (kind : (s.op op).kind = .mma c)
    (alive : s.opAlive (s.op op) = true) : OnlyRdvs (s.statusGiven op c code) (s.failRdv k code) := by
  unfold State.failRdv
  dsimp only
  rw [waits, List.foldl_cons, List.foldl_nil, kind]
  dsimp only
  rw [if_pos alive]
  exact (OnlyRdvs.setRdvs _ _).trans (.sweepRdv _ _)

theorem State.statusGiven_eq (alive : s.opAlive (s.op op) = true) : s.statusGiven op c code =
    ((s.modGroup (s.op op).group (·.setG c.status (BitVec.ofNat 32 code))).setOp op {}).modGroup (s.op op).group
      (·.completeOp (s.op op).path op) :=
  State.endOp_alive ((State.opAlive_modGroup rfl rfl).trans alive)

theorem State.op_statusGiven (alive : s.opAlive (s.op op) = true) : (s.statusGiven op c code).op op = {} := by
  rw [State.statusGiven_eq alive]
  exact State.op_setOp _ _ _

theorem State.op_statusGiven_ne (alive : s.opAlive (s.op op) = true) {j : Nat} (h : j ≠ op) : (s.statusGiven op c code).op j = s.op j := by
  rw [State.statusGiven_eq alive]
  exact State.op_setOp_ne _ h _

theorem State.group_statusGiven (alive : s.opAlive (s.op op) = true) : (s.statusGiven op c code).group (s.op op).group =
    ((s.group (s.op op).group).setG c.status (BitVec.ofNat 32 code)).completeOp (s.op op).path op := by
  rw [State.statusGiven_eq alive, State.group_modGroup]
  exact congrArg (Group.completeOp · (s.op op).path op)
    (State.group_modGroup s (s.op op).group (·.setG c.status (BitVec.ofNat 32 code)))

theorem State.statusGiven_rest (alive : s.opAlive (s.op op) = true) : s.statusGiven op c code =
    { s with groups := (s.statusGiven op c code).groups, ops := (s.statusGiven op c code).ops } := by
  rw [State.statusGiven_eq alive]
  rfl

end

theorem State.failRdv_single_rest {s : State} {k code op : Nat} {c : MmaCmd} (waits : (s.rdvs.get {} k).joined = [op])
    (kind : (s.op op).kind = .mma c) (alive : s.opAlive (s.op op) = true) : s.failRdv k code =
      { s with groups := (s.failRdv k code).groups, ops := (s.failRdv k code).ops, rdvs := (s.failRdv k code).rdvs } := by
  rw [OnlyRdvs.failRdv_single waits kind alive, State.statusGiven_rest alive]

/-! ### 4,096 cycles without the others (Table 7-9) -/

section
variable {s : State} {r op : Nat} {x : Rdv} {c : MmaCmd}

theorem execMmaAbsentTimeout_eq (hx : s.rdvs.get {} r = x) (live : x.live = true) (shut : x.opened = false) (sound : x.failed = 0)
    (part : x.full = false) (waits : x.joined = [op]) : execMmaAbsentTimeout r s =
      if x.since + 4096 ≤ s.clk (s.op op).cluster then .next (s.failRdv r 2) else .next s := by
  rw [execMmaAbsentTimeout, hx, waits]
  simp only [live, shut, sound, part, Bool.not_false, Bool.and_true, Bool.true_and, beq_self_eq_true, decide_eq_true_eq]

end

/-! ### A member joins (R149) -/

/-- The rendezvous that a member begins where none waits for it. -/
def State.newRdv (s : State) (op : Nat) (c : MmaCmd) : Rdv :=
  let g := s.group (s.op op).group
  { live := true, team := g.place.team, gang := g.gang, ifmt := mmaIfmt c.cmd.toNat, since := s.clk (clusterOf (s.op op).group) }

/-- The rendezvous that a member joins, and its key. -/
def State.rdvMet (s : State) (op : Nat) (c : MmaCmd) : Nat × Rdv :=
  let g := s.group (s.op op).group
  (s.rdvFor g.place.team g.place.off g.gang).getD (s.rdvs.fresh, s.newRdv op c)

/-- A member of an offset has joined with an operation. -/
def Rdv.joinedBy (r : Rdv) (off op : Nat) : Rdv := { r with who := r.who ++ [off], joined := r.joined ++ [op] }

/-- The state once a member has joined the rendezvous of a key, before it opens or fails. -/
def State.enterRdv (s : State) (op : Nat) (c : MmaCmd) (k : Nat) (r : Rdv) : State :=
  let t := s.setOp op { s.op op with kind := .mma { c with rdv := k } }
  { t with rdvs := t.rdvs.set {} k (r.joinedBy (s.group (s.op op).group).place.off op) }

/-- A member whose gang, format or number does not fit the rendezvous that it meets. -/
def Rdv.misfit (r : Rdv) (g : Group) (c : MmaCmd) : Bool :=
  gangKey g.gang != gangKey r.gang || r.ifmt != mmaIfmt c.cmd.toNat || gangIdx g.gang == 0
    || (gangMembers g.gang)[gangIdx g.gang - 1]? != some g.place.off

/-- A listed member of a rendezvous is gone. -/
def State.rdvGone (s : State) (team : Nat) (r : Rdv) : Bool := (gangMembers r.gang).any fun m => s.memberGone team m

section
variable {s : State} {op : Nat} {c : MmaCmd} (kind : (s.op op).kind = .mma c)
include kind

theorem State.joinRdv_eq : s.joinRdv op =
    let g := s.group (s.op op).group
    let k := (s.rdvMet op c).1
    let r := (s.rdvMet op c).2
    let t := s.enterRdv op c k r
    if r.failed != 0 then t.failRdv k r.failed
    else if t.rdvGone g.place.team r then t.failRdv k 1
    else if r.misfit g c then t.failRdv k 3 else t.openRdv k := by
  unfold State.joinRdv State.rdvMet
  rw [kind]
  dsimp only
  cases s.rdvFor _ _ _ <;> rfl

variable {k : Nat} {r : Rdv} (met : s.rdvMet op c = (k, r)) (sound : r.failed = 0)
include met sound

/-- A member that meets a rendezvous of which a listed member is gone fails it. -/
theorem State.joinRdv_gone (gone : (s.enterRdv op c k r).rdvGone (s.group (s.op op).group).place.team r = true) :
    s.joinRdv op = (s.enterRdv op c k r).failRdv k 1 := by
  rw [State.joinRdv_eq kind, met]
  dsimp only
  rw [sound, if_neg (by decide), if_pos gone]

/-- A member that fits a rendezvous of which nobody is gone opens it if it is the last. -/
theorem State.joinRdv_fits (here : (s.enterRdv op c k r).rdvGone (s.group (s.op op).group).place.team r = false)
    (fits : r.misfit (s.group (s.op op).group) c = false) : s.joinRdv op = (s.enterRdv op c k r).openRdv k := by
  rw [State.joinRdv_eq kind, met]
  dsimp only
  rw [sound, if_neg (by decide), if_neg (by rw [here]; decide), if_neg (by rw [fits]; decide)]

end

theorem Rdv.misfit_eq_false {r : Rdv} {g : Group} {c : MmaCmd} (gang : gangKey r.gang = gangKey g.gang) (ifmt : r.ifmt = mmaIfmt c.cmd.toNat)
    (idx : gangIdx g.gang ≠ 0) (own : (gangMembers g.gang)[gangIdx g.gang - 1]? = some g.place.off) : r.misfit g c = false := by
  rw [Rdv.misfit, gang, ifmt, own]
  simp [idx]

/-! ### `MMA` issues (R145, R148) -/

/-- The command of an `MMA`, as its packet reads it. -/
def State.mmaCmd (s : State) (g : BitVec 7) (a : BitVec 8) (an : BitVec 3) (tb : BitVec 5) : MmaCmd :=
  let x := s.seen
  let n := g.toNat
  { an := an.toNat, ta := fieldNo a, tb := tb.toNat, cmd := x.greg n, bias := (x.greg (n + 1)).toNat
    table := (x.greg (n + 2)).toNat, scale := (x.greg (n + 3)).toNat, status := n + 4
    held := quartersOf (gangCnt x.gang) (gangIdx x.gang), idx := gangIdx x.gang, rdv := 0, out := [], opened := false }

/-- The operation that an `MMA` starts. -/
def State.mmaOp (s : State) (g : BitVec 7) (a : BitVec 8) (an : BitVec 3) (tb : BitVec 5) : Op :=
  let x := s.seen
  let c := s.mmaCmd g a an tb
  let sp := mmaS c.cmd.toNat
  { kind := .mma c, path := pMMA, dst := [(x.aAt an.toNat, 128)]
    src := [(x.tAt (fieldNo a), 32 * sp), (x.tAt tb.toNat, 32 * sp * c.held.length)], gdst := [g.toNat + 4] }

/-- A strand without all lanes of its group, or a group with other strands or of another role (R148). -/
def State.mmaMasked (s : State) : Bool :=
  s.str.exm != fullMask s.seen.place.width || decide (1 < s.seen.liveStrands.length) || s.seen.place.role != .matrix

/-- A group that is no member of width 32 of a gang of groups that exist (R148). -/
def State.mmaSmall (s : State) : Bool :=
  s.seen.place.width != 32 || gangCnt s.seen.gang == 0 || (gangMembers s.seen.gang).any fun m => !s.memberThere s.seen.place.team m

/-- FORMAT of the command of an `MMA` (R148). -/
def State.mmaFormat (s : State) (g : BitVec 7) (a : BitVec 8) (an : BitVec 3) (tb : BitVec 5) : Bool :=
  let c := s.mmaCmd g a an tb
  mmaBad s.seen s.myTeam c.ta c.tb c.held.length c.cmd.toNat c.bias c.table c.scale

theorem State.mmaMasked_iff (s : State) : s.mmaMasked = true ↔
    s.str.exm ≠ fullMask s.seen.place.width ∨ 1 < s.seen.liveStrands.length ∨ s.seen.place.role ≠ .matrix := by
  simp only [State.mmaMasked, Bool.or_eq_true, bne_iff_ne, decide_eq_true_eq, or_assoc]

theorem State.mmaSmall_iff (s : State) : s.mmaSmall = true ↔
    s.seen.place.width ≠ 32 ∨ gangCnt s.seen.gang = 0 ∨ ∃ m ∈ gangMembers s.seen.gang, s.memberThere s.seen.place.team m = false := by
  simp only [State.mmaSmall, Bool.or_eq_true, bne_iff_ne, beq_iff_eq, List.any_eq_true, Bool.not_eq_true', or_assoc]

section
variable {s : State} {g : BitVec 7} {a : BitVec 8} {an : BitVec 3} {tb : BitVec 5} (h : Ready (.mma g a an tb) s)
include h

theorem execMma_inTx (tx : s.inTx = true) : execMma g a an tb s = .next (s.doomMe 4) := by
  rw [execMma, issue_ready h, unlessTx, if_pos tx]

theorem execMma_eq (tx : s.inTx = false) : execMma g a an tb s = .next
    (if s.mmaMasked then s.trapWord .engmask
    else if s.mmaSmall then s.trapWord .engwidth
    else if s.mmaFormat g a an tb then s.trapWord .format
    else (s.placeOp s.ops.fresh (s.mmaOp g a an tb)).joinRdv s.ops.fresh) := by
  rw [execMma, issue_ready h, unlessTx, if_neg (by rw [tx]; decide)]
  rfl

end

/-! ### The new operation of an `MMA` in its rendezvous -/

section
variable (s : State) (g : BitVec 7) (a : BitVec 8) (an : BitVec 3) (tb : BitVec 5)

/-- The rendezvous that an `MMA` begins. -/
def State.mmaRdv (s : State) (g : BitVec 7) : Rdv :=
  { live := true, team := s.me.place.team, gang := s.me.gang, ifmt := mmaIfmt (s.seen.greg g.toNat).toNat, since := s.clk s.myCluster }

/-- The state once an `MMA` has started its operation. -/
def State.mmaStarted : State := s.placeOp s.ops.fresh (s.mmaOp g a an tb)

/-- The state once it has joined the rendezvous of a key, before that opens or fails. -/
def State.mmaEntered (key : Nat) (r : Rdv) : State := (s.mmaStarted g a an tb).enterRdv s.ops.fresh (s.mmaCmd g a an tb) key r

theorem State.op_mmaStarted : (s.mmaStarted g a an tb).op s.ops.fresh =
    { s.mmaOp g a an tb with
      live := true, group := s.cur.group, uid := s.me.uid, cluster := s.myCluster, team := s.me.place.team, qidx := s.me.place.qidx
      pc := s.str.pc, word := s.cur.word } := Tab.get_set_same _ _ _ _

theorem State.me_mmaStarted : (s.mmaStarted g a an tb).group s.cur.group = s.me.raise pMMA s.ops.fresh s.cur.strand :=
  Tab.get_set_same _ _ _ _

theorem State.group_mmaStarted_ne {j : Nat} (hj : j ≠ s.cur.group) : (s.mmaStarted g a an tb).group j = s.group j :=
  Tab.get_set_ne _ hj _ _

theorem State.goneAt_mmaStarted (j team off : Nat) : ((s.mmaStarted g a an tb).group j).goneAt team off = (s.group j).goneAt team off := by
  by_cases hj : j = s.cur.group
  · rw [hj, State.me_mmaStarted]
    rfl
  · rw [State.group_mmaStarted_ne s g a an tb hj]

/-- The rendezvous that the member meets is the one found before it joins, or one begun now. -/
theorem State.rdvMet_mmaStarted : (s.mmaStarted g a an tb).rdvMet s.ops.fresh (s.mmaCmd g a an tb) =
    (s.rdvFor s.me.place.team s.me.place.off s.me.gang).getD (s.rdvs.fresh, s.mmaRdv g) := by
  rw [State.rdvMet, State.newRdv, State.op_mmaStarted, State.me_mmaStarted]
  rfl

variable (key : Nat) (r : Rdv)

theorem State.op_mmaEntered : (s.mmaEntered g a an tb key r).op s.ops.fresh =
    { (s.mmaStarted g a an tb).op s.ops.fresh with kind := .mma { s.mmaCmd g a an tb with rdv := key } } := Tab.get_set_same _ _ _ _

theorem State.op_mmaEntered_ne {j : Nat} (hj : j ≠ s.ops.fresh) : (s.mmaEntered g a an tb key r).op j = s.op j :=
  (Tab.get_set_ne _ hj _ _).trans (Tab.get_set_ne _ hj _ _)

theorem State.rdv_mmaEntered : (s.mmaEntered g a an tb key r).rdvs.get {} key = r.joinedBy s.me.place.off s.ops.fresh := by
  rw [State.mmaEntered, State.enterRdv, State.op_mmaStarted, State.me_mmaStarted]
  exact Tab.get_set_same _ _ _ _

theorem State.rdvGone_mmaEntered (team : Nat) : (s.mmaEntered g a an tb key r).rdvGone team r = s.rdvGone team r := by
  unfold State.rdvGone
  congr 1
  funext m
  exact State.memberGone_congr (s.goneAt_mmaStarted g a an tb) rfl team m

theorem State.starts_mmaEntered : Starts s (s.mmaEntered g a an tb key r) s.ops.fresh pMMA s.me := by
  refine (Starts.placeOp s.op_fresh (s.mmaOp g a an tb)).next rfl rfl (fun j hj => Tab.get_set_ne _ hj _ _) ?_
  rw [State.op_mmaEntered]
  rfl

theorem State.sameBytes_mmaEntered : SameBytes s (s.mmaEntered g a an tb key r) := .of_slices rfl rfl fun _ => rfl

end

/-! ### What becomes of the rendezvous -/

theorem Tab.find_some {V : Type} {p : Nat → V → Bool} {t : Tab V} {k : Nat} {v : V} (h : Tab.find p t = some (k, v)) : p k v = true := by
  induction t with
  | nil => cases h
  | cons e t ih =>
    rw [Tab.find] at h
    split at h
    · cases h
      assumption
    · exact ih h

/-- A member joins no rendezvous that has opened. -/
theorem State.rdvFor_waits {s : State} {team off k : Nat} {gang : Dword} {r : Rdv} (h : s.rdvFor team off gang = some (k, r)) :
    r.live = true ∧ r.opened = false := by
  rw [State.rdvFor, Option.orElse_eq_or, Option.or_eq_some_iff] at h
  obtain found | ⟨-, found⟩ := h
  · have := Tab.find_some found
    simp only [Bool.and_eq_true, Bool.not_eq_true'] at this
    tauto
  · have := Tab.find_some found
    simp only [Bool.and_eq_true, Bool.not_eq_true'] at this
    tauto

theorem State.rdvGone_eq_false {s : State} {team : Nat} {r : Rdv} :
    s.rdvGone team r = false ↔ ∀ m ∈ gangMembers r.gang, s.memberGone team m = false := by
  simp only [State.rdvGone, List.any_eq_false, Bool.not_eq_true]

theorem State.rdvGone_eq_true {s : State} {team : Nat} {r : Rdv} :
    s.rdvGone team r = true ↔ ∃ m ∈ gangMembers r.gang, s.memberGone team m = true := by
  rw [State.rdvGone, List.any_eq_true]

theorem Rdv.full_joinedBy {r : Rdv} {off op : Nat} (live : r.live = true) (shut : r.opened = false) (sound : r.failed = 0) :
    (r.joinedBy off op).full = true ↔ ∀ m ∈ gangMembers r.gang, m ∈ r.who ∨ m = off := by
  simp [Rdv.full, Rdv.joinedBy, live, shut, sound]

section
variable {s : State} {g : BitVec 7} {a : BitVec 8} {an : BitVec 3} {tb : BitVec 5}

theorem execMma_joins (h : Ready (.mma g a an tb) s) (tx : s.inTx = false) (masked : s.mmaMasked = false) (small : s.mmaSmall = false)
    (format : s.mmaFormat g a an tb = false) : execMma g a an tb s = .next ((s.mmaStarted g a an tb).joinRdv s.ops.fresh) := by
  rw [execMma_eq h tx, masked, small, format]
  rfl

theorem State.kind_mmaStarted : ((s.mmaStarted g a an tb).op s.ops.fresh).kind = .mma (s.mmaCmd g a an tb) := by
  rw [State.op_mmaStarted]
  rfl

theorem State.holder_mmaStarted : (s.mmaStarted g a an tb).group ((s.mmaStarted g a an tb).op s.ops.fresh).group =
    s.me.raise pMMA s.ops.fresh s.cur.strand := by
  rw [State.op_mmaStarted]
  exact s.me_mmaStarted g a an tb

variable {key : Nat} {r : Rdv} (met : (s.rdvFor s.me.place.team s.me.place.off s.me.gang).getD (s.rdvs.fresh, s.mmaRdv g) = (key, r))
  (sound : r.failed = 0)
include met sound

/-- The member meets a rendezvous of which a listed member is gone. -/
theorem State.mma_gone (gone : ∃ m ∈ gangMembers r.gang, s.memberGone s.me.place.team m = true) :
    (s.mmaStarted g a an tb).joinRdv s.ops.fresh = (s.mmaEntered g a an tb key r).failRdv key 1 := by
  refine State.joinRdv_gone State.kind_mmaStarted ((s.rdvMet_mmaStarted g a an tb).trans met) sound ?_
  rw [State.holder_mmaStarted]
  exact (s.rdvGone_mmaEntered g a an tb key r _).trans (State.rdvGone_eq_true.2 gone)

/-- The member fits the rendezvous that it meets. -/
theorem State.mma_fits (here : ∀ m ∈ gangMembers r.gang, s.memberGone s.me.place.team m = false)
    (fits : r.misfit s.me (s.mmaCmd g a an tb) = false) :
    (s.mmaStarted g a an tb).joinRdv s.ops.fresh = (s.mmaEntered g a an tb key r).openRdv key := by
  refine State.joinRdv_fits State.kind_mmaStarted ((s.rdvMet_mmaStarted g a an tb).trans met) sound ?_ ?_
  · rw [State.holder_mmaStarted]
    exact (s.rdvGone_mmaEntered g a an tb key r _).trans (State.rdvGone_eq_false.2 here)
  · rw [State.holder_mmaStarted]
    exact fits

end

/-- An `MMA` that nothing turns away, of a member whose gang register names it at its own number (07 R148, R149). -/
structure MmaRuns (s : State) (g : BitVec 7) (a : BitVec 8) (an : BitVec 3) (tb : BitVec 5) : Prop where
  ready : Ready (.mma g a an tb) s
  live : s.me.live = true
  tx : s.inTx = false
  masked : s.mmaMasked = false
  small : s.mmaSmall = false
  format : s.mmaFormat g a an tb = false
  idx : gangIdx s.me.gang ≠ 0
  own : (gangMembers s.me.gang)[gangIdx s.me.gang - 1]? = some s.me.place.off

section
variable {s : State} {g : BitVec 7} {a : BitVec 8} {an : BitVec 3} {tb : BitVec 5} (runs : MmaRuns s g a an tb)
include runs

theorem MmaRuns.joins : execMma g a an tb s = .next ((s.mmaStarted g a an tb).joinRdv s.ops.fresh) :=
  execMma_joins runs.ready runs.tx runs.masked runs.small runs.format

theorem MmaRuns.fits {r : Rdv} (gang : gangKey r.gang = gangKey s.me.gang) (ifmt : r.ifmt = mmaIfmt (s.seen.greg g.toNat).toNat) :
    r.misfit s.me (s.mmaCmd g a an tb) = false := Rdv.misfit_eq_false gang ifmt runs.idx runs.own

/-- The first member of a gang waits in a rendezvous of its own. -/
theorem MmaRuns.waits (new : s.rdvFor s.me.place.team s.me.place.off s.me.gang = none)
    (here : ∀ m ∈ gangMembers s.me.gang, s.memberGone s.me.place.team m = false) (others : ∃ m ∈ gangMembers s.me.gang, m ≠ s.me.place.off) :
    execMma g a an tb s = .next (s.mmaEntered g a an tb s.rdvs.fresh (s.mmaRdv g)) := by
  have part : ((s.mmaEntered g a an tb s.rdvs.fresh (s.mmaRdv g)).rdvs.get {} s.rdvs.fresh).full = false := by
    rw [State.rdv_mmaEntered, ← Bool.not_eq_true, Rdv.full_joinedBy rfl rfl rfl]
    obtain ⟨m, mem, ne⟩ := others
    exact fun all => (all m mem).elim (fun none => by cases none) ne
  have meets : (s.rdvFor s.me.place.team s.me.place.off s.me.gang).getD (s.rdvs.fresh, s.mmaRdv g) = (s.rdvs.fresh, s.mmaRdv g) := by
    rw [new, Option.getD_none]
  have fits : (s.mmaRdv g).misfit s.me (s.mmaCmd g a an tb) = false := runs.fits rfl rfl
  rw [runs.joins, State.mma_fits meets rfl here fits, State.openRdv_not_full part]

/-- The last listed member opens the rendezvous that it meets. -/
theorem MmaRuns.opens {k : Nat} {r : Rdv} (found : s.rdvFor s.me.place.team s.me.place.off s.me.gang = some (k, r)) (sound : r.failed = 0)
    (gang : gangKey r.gang = gangKey s.me.gang) (ifmt : r.ifmt = mmaIfmt (s.seen.greg g.toNat).toNat)
    (all : ∀ m ∈ gangMembers r.gang, s.memberGone s.me.place.team m = false ∧ (m ∈ r.who ∨ m = s.me.place.off)) :
    ∃ t c, execMma g a an tb s = .next t ∧ t.mem = s.mem ∧ (t.op s.ops.fresh).kind = .mma c ∧ c.opened = true ∧ c.rdv = k
      ∧ s.ops.fresh ∈ (t.rdvs.get {} k).joined ∧ (t.rdvs.get {} k).opened = true := by
  obtain ⟨live, shut⟩ := State.rdvFor_waits found
  have entered := s.rdv_mmaEntered g a an tb k r
  have full : ((s.mmaEntered g a an tb k r).rdvs.get {} k).full = true := by
    rw [entered, Rdv.full_joinedBy live shut sound]
    exact fun m mem => (all m mem).2
  have last : s.ops.fresh ∈ ((s.mmaEntered g a an tb k r).rdvs.get {} k).joined := by
    rw [entered]
    exact List.mem_append_right _ (List.mem_singleton_self _)
  have kind := congrArg Op.kind (s.op_mmaEntered g a an tb k r)
  have meets : (s.rdvFor s.me.place.team s.me.place.off s.me.gang).getD (s.rdvs.fresh, s.mmaRdv g) = (k, r) := by
    rw [found, Option.getD_some]
  obtain ⟨mem, -, rdv, tile⟩ := State.openRdv_spec full
  refine ⟨_, _, runs.joins.trans (congrArg _ (State.mma_fits meets sound (fun m mem => (all m mem).1) (runs.fits gang ifmt))),
    mem.trans (s.sameBytes_mmaEntered g a an tb k r).mem, congrArg Op.kind (tile _ _ last kind), rfl, rfl, ?_, ?_⟩
  · rw [rdv]
    exact last
  · rw [rdv]

/-- A member that begins a rendezvous of which a listed member is gone has its status at once. -/
theorem MmaRuns.fails (new : s.rdvFor s.me.place.team s.me.place.off s.me.gang = none)
    (gone : ∃ m ∈ gangMembers s.me.gang, s.memberGone s.me.place.team m = true) :
    ∃ t, execMma g a an tb s = .next t ∧ SameBytes s t ∧ t.me = { s.me.setG (g.toNat + 4) 1 with paths := t.me.paths, wait := t.me.wait }
      ∧ ∀ k, t.op k = s.op k := by
  let u := s.mmaEntered g a an tb s.rdvs.fresh (s.mmaRdv g)
  have op : u.op s.ops.fresh = _ := s.op_mmaEntered g a an tb s.rdvs.fresh (s.mmaRdv g)
  have me : u.group s.cur.group = s.me.raise pMMA s.ops.fresh s.cur.strand := s.me_mmaStarted g a an tb
  have holder : (u.op s.ops.fresh).group = s.cur.group := by rw [op, State.op_mmaStarted]
  have alive : u.opAlive (u.op s.ops.fresh) = true := by
    rw [State.opAlive, holder, me, op, State.op_mmaStarted]
    simp [Group.raise, runs.live]
  have waits : (u.rdvs.get {} s.rdvs.fresh).joined = [s.ops.fresh] := congrArg Rdv.joined (s.rdv_mmaEntered g a an tb _ _)
  have only := OnlyRdvs.failRdv_single (code := 1) waits (congrArg Op.kind op) alive
  have rest := State.failRdv_single_rest (code := 1) waits (congrArg Op.kind op) alive
  have meets : (s.rdvFor s.me.place.team s.me.place.off s.me.gang).getD (s.rdvs.fresh, s.mmaRdv g) = (s.rdvs.fresh, s.mmaRdv g) := by
    rw [new, Option.getD_none]
  refine ⟨_, runs.joins.trans (congrArg _ (State.mma_gone meets rfl gone)), ?_, ?_, fun k => ?_⟩
  · exact .of_slices (by rw [rest]; rfl) (by rw [rest]; rfl) fun x => by rw [rest]; rfl
  · have group := State.group_statusGiven (c := { s.mmaCmd g a an tb with rdv := s.rdvs.fresh }) (code := 1) alive
    rw [holder, me, Group.completeOp_eq, ← only.group] at group
    have cur : (u.failRdv s.rdvs.fresh 1).cur = s.cur := by rw [rest]; rfl
    rw [State.me, cur, group]
    rfl
  · rw [only.op]
    by_cases hk : k = s.ops.fresh
    · rw [hk, State.op_statusGiven alive, s.op_fresh]
    · rw [State.op_statusGiven_ne alive hk]
      exact s.op_mmaEntered_ne g a an tb _ _ hk

end

/-- Settles O43: an `MMA` that nothing turns away joins the rendezvous that it meets (`execMma_joins`), opens it as the last listed member and
fails it where one is gone (`State.mma_fits`, `State.mma_gone`); what a failed rendezvous leaves is `OnlyRdvs.failRdv_single`. -/
theorem matrixWord : Obligations.MatrixWord := by
  unfold Obligations.MatrixWord
  dsimp only [exec]
  refine ⟨fun s g a an tb => ?word, fun s r k c live shut sound part waits kind => ⟨fun late alive => ?late, fun early => ?early⟩⟩
  case late =>
    have only := OnlyRdvs.failRdv_single (code := 2) waits kind alive
    refine ⟨_, (execMmaAbsentTimeout_eq rfl live shut sound part waits).trans (if_pos late), ?_, ?_⟩
    · rw [only.group, State.group_statusGiven alive, Group.completeOp_eq]
      exact Group.greg_setG _ _ _
    · rw [only.op, State.op_statusGiven alive]
  case early => exact (execMmaAbsentTimeout_eq rfl live shut sound part waits).trans (if_neg (Nat.not_le.2 early))
  case word =>
    simp only [← State.mmaMasked_iff, ← State.mmaSmall_iff, Bool.not_eq_true]
    refine ⟨fun h tx masked => ?engmask, fun h tx masked small => ?engwidth, fun h tx masked small bad => ?format,
      fun ⟨h, live, tx, masked, small, format, _, idx, own⟩ new here others => ?waits,
      fun r y ⟨h, live, tx, masked, small, format, _, idx, own⟩ found sound gang ifmt all => ?opens,
      fun ⟨h, live, tx, masked, small, format, _, idx, own⟩ new gone => MmaRuns.fails ⟨h, live, tx, masked, small, format, idx, own⟩ new gone,
      fun h tx => execMma_inTx h tx⟩
    case engmask => rw [execMma_eq h tx, masked, if_pos rfl]
    case engwidth => rw [execMma_eq h tx, masked, small, if_neg Bool.false_ne_true, if_pos rfl]
    case format =>
      have format : s.mmaFormat g a an tb = true := bad
      rw [execMma_eq h tx, masked, small, format, if_neg Bool.false_ne_true, if_neg Bool.false_ne_true, if_pos rfl]
    case waits =>
      have op := s.op_mmaEntered g a an tb s.rdvs.fresh (s.mmaRdv g)
      refine ⟨_, s.ops.fresh, _, MmaRuns.waits ⟨h, live, tx, masked, small, format, idx, own⟩ new here others,
        s.sameBytes_mmaEntered g a an tb _ _, s.starts_mmaEntered g a an tb _ _, congrArg Op.kind op, rfl, rfl, rfl, rfl, rfl, rfl, rfl,
        ?_, ?_, s.rdv_mmaEntered g a an tb _ _⟩
      · rw [op, State.op_mmaStarted]
        rfl
      · rw [op, State.op_mmaStarted]
        rfl
    case opens =>
      obtain ⟨t, c, opens⟩ := MmaRuns.opens ⟨h, live, tx, masked, small, format, idx, own⟩ found sound gang ifmt all
      exact ⟨t, _, c, opens⟩

end Sys2Proof.Machine
end

section
/-! `BDIV`: what stops it, one side or both, a free strand or a deferred side (03 R46, R57, 08 R160). -/

namespace Sys2Proof.Machine

theorem exec_bdiv (p : BitVec 3) (jb : BitVec 5) (disp : BitVec 16) (s : State) : exec (.bdiv p jb disp) s =
    brWord (.bdiv p jb disp) (bdivTrap p jb disp)
      (fun s => if s.divT p == 0 then s.fallMe.moved else if s.divN p == 0 then branchGo s disp else bdivSplit p jb disp s) s := rfl

/-- A BR word depends on its trap where it issues and on its effect behind the charge. -/
theorem brWord_congr {i : Instr} {s : State} {trap trap' : State → Option TrapKind} {go go' : State → State} (ht : trap s = trap' s)
    (hgo : go (s.chargeMe eG1) = go' (s.chargeMe eG1)) : brWord i trap go s = brWord i trap' go' s := by
  unfold brWord issue
  simp only [ht, hgo]

/-! ### What stops it -/

section
variable {s : State} {p : BitVec 3} {jb : BitVec 5} {disp : BitVec 16}

theorem bdivTrap_outside (h : 32 ≤ pcBlk s.str.pc + jb.toNat) : bdivTrap p jb disp s = some .segment := if_pos h

section
variable (inside : pcBlk s.str.pc + jb.toNat < 32)
include inside

theorem bdivTrap_branch {k : TrapKind} (h : branchTrap s (s.divT p != 0) disp = some k) : bdivTrap p jb disp s = some k := by
  rw [bdivTrap, if_neg (Nat.not_le.2 inside), h]

/-- With a side empty it is stopped by what stops the branch. -/
theorem bdivTrap_one_side (one : s.divT p = 0 ∨ s.divN p = 0) : bdivTrap p jb disp s = branchTrap s (s.divT p != 0) disp := by
  rw [bdivTrap, if_neg (Nat.not_le.2 inside)]
  cases branchTrap s (s.divT p != 0) disp with
  | some k => rfl
  | none => exact if_pos (by simpa using one)

/-- With both sides inhabited it needs room on the reconvergence stack besides. -/
theorem bdivTrap_two_sides (taken : s.divT p ≠ 0) (other : s.divN p ≠ 0) (free : branchTrap s true disp = none) :
    bdivTrap p jb disp s =
      if 8 < s.str.rstack.length + (if s.seen.liveStrands.length < 4 then 1 else 2) then some .depth else none := by
  have both : ¬ (s.divT p == 0 || s.divN p == 0) = true := by
    rw [Bool.or_eq_true, beq_iff_eq, beq_iff_eq]
    exact not_or.2 ⟨taken, other⟩
  rw [bdivTrap, if_neg (Nat.not_le.2 inside), bne_iff_ne.2 taken, free]
  exact if_neg both

end

/-- A taken branch into its slot that its limit permits is not stopped. -/
theorem branchTrap_none (hb : 0 ≤ (pcBlk s.str.pc : Int) + disp.toInt ∧ (pcBlk s.str.pc : Int) + disp.toInt < 32)
    (limit : disp.toInt ≤ 0 → s.backEdgeOk s.cur.group s.str = true) : branchTrap s true disp = none := by
  rw [branchTrap_eq, if_neg (not_not.2 hb), if_neg]
  rintro ⟨-, back, no⟩
  rw [limit back] at no
  cases no

end

/-! ### The count of a back-edge -/

/-- The moving strand changed, as the claims write it. -/
theorem Moves.withStrand {s t : State} {own : Bool} {g : Group} {l : Tab Latch} (h : Moves s t own g l) (f : Strand → Strand) :
    Moves s (t.modStr f) own (g.withStrand s.cur.strand f) l := h.modStr f

theorem Moves.countBackEdge {s u : State} (h : Moves s u s.cur.moved s.me s.myLatches) :
    Moves s u.countBackEdge s.cur.moved (s.me.withStrand s.cur.strand (·.tripped (s.limOf s.cur.group s.str))) s.myLatches := by
  have e : u.countBackEdge = u.modStr fun st => st.tripped (s.limOf s.cur.group s.str) := by
    unfold State.countBackEdge
    rw [h.cur_group, h.str, h.limOf rfl]
    rfl
  rw [e]
  exact h.withStrand _

/-- The group with a trip of strand k counted, if its branch is a back-edge. -/
def Group.counted (g : Group) (k j : Nat) (back : Bool) : Group := if back then g.withStrand k (·.tripped j) else g

section
variable (g : Group) (k j : Nat) (back : Bool)

theorem Group.counted_rest : g.counted k j back = { g with strands := (g.counted k j back).strands } := by
  cases back <;> rfl

theorem Group.strand_counted_same : (g.counted k j back).strand k = if back then (g.strand k).tripped j else g.strand k := by
  cases back
  · rfl
  · exact Group.strand_setStrand _ _ _

theorem Group.strand_counted_ne {i : Nat} (h : i ≠ k) : (g.counted k j back).strand i = g.strand i := by
  cases back
  · rfl
  · exact Group.strand_setStrand_ne _ h _

theorem Group.live_counted (i : Nat) : ((g.counted k j back).strand i).live = (g.strand i).live := by
  by_cases h : i = k
  · subst h
    rw [Group.strand_counted_same]
    cases back <;> rfl
  · rw [Group.strand_counted_ne _ _ _ _ h]

theorem Group.liveStrands_counted : (g.counted k j back).liveStrands = g.liveStrands := by
  unfold Group.liveStrands
  simp only [Group.live_counted]

end

/-- The state with the moving strand's trip counted, if its branch is a back-edge. -/
def State.counted (s : State) (disp : BitVec 16) : State := if disp == 0 || disp.msb then s.countBackEdge else s

theorem Moves.counted {s u : State} (h : Moves s u s.cur.moved s.me s.myLatches) (disp : BitVec 16) :
    Moves s (u.counted disp) s.cur.moved (s.me.counted s.cur.strand (s.limOf s.cur.group s.str) (decide (disp.toInt ≤ 0))) s.myLatches := by
  rw [State.counted, backward_iff]
  cases decide (disp.toInt ≤ 0)
  · exact h
  · exact h.countBackEdge

/-! ### The strands after it -/

/-- Of fewer than four strands the lowest free number. -/
theorem Group.freeStrand_spec {g : Group} (room : g.liveStrands.length < 4) :
    g.freeStrand < 4 ∧ (g.strand g.freeStrand).live = false ∧ ∀ i, i < g.freeStrand → (g.strand i).live = true := by
  unfold Group.freeStrand
  cases found : (List.range 4).find? fun k => !(g.strand k).live with
  | none =>
    have all : g.liveStrands = List.range 4 := List.filter_eq_self.2 fun k hk => by simpa using List.find?_eq_none.1 found k hk
    rw [all] at room
    cases (lt_irrefl 4 room)
  | some f =>
    obtain ⟨free, four, lower⟩ := List.find?_range_eq_some.1 found
    exact ⟨List.mem_range.1 four, by simpa using free, fun i hi => by simpa using lower i hi⟩

/-- Strand k divided: strand f takes the lanes t, strand k keeps n, both with a stack of reconvergence entries. -/
def Group.divided (g : Group) (k f : Nat) (stack : List (BitVec 128)) (t n : LaneMask) : Group :=
  let st := { g.strand k with rstack := stack }
  (g.setStrand k { st with members := st.members &&& ~~~ t, exm := n }).setStrand f { st with members := t, exm := t }

section
variable {s : State} {p : BitVec 3} {jb : BitVec 5} {disp : BitVec 16}

/-- The Rejoin entry of a `BDIV`. -/
def State.divRejoin (s : State) (jb : BitVec 5) : BitVec 128 :=
  rejoinEntry (pcSlot s.str.pc) (pcBlk s.str.pc + jb.toNat) s.str.calls.length s.str.exm
/-- Its Deferred entry, with the packet that the other side comes to. -/
def State.divDeferred (s : State) (p : BitVec 3) (jb : BitVec 5) : BitVec 128 :=
  deferredEntry (pcSlot s.str.pc) (pcBlk s.str.pc + jb.toNat) s.str.calls.length (s.divN p) (s.nextAt s.cur.group s.str).1
    (s.nextAt s.cur.group s.str).2
/-- The limit that governs its back-edge, if it is one. -/
def State.divSkip (s : State) (disp : BitVec 16) : Option Nat :=
  if decide (disp.toInt ≤ 0) then some (s.limOf s.cur.group s.str) else none

theorem Moves.divT {u : State} (h : Moves s u s.cur.moved s.me s.myLatches) : u.divT p = s.divT p := by
  rw [State.divT, State.divT, h.str, h.seen]
theorem Moves.divN {u : State} (h : Moves s u s.cur.moved s.me s.myLatches) : u.divN p = s.divN p := by
  rw [State.divN, State.divN, h.str, h.seen]

/-- With a strand free the lowest one goes to the target, and the old one falls through. -/
theorem bdivSplit_free {u : State} (h : Moves s u s.cur.moved s.me s.myLatches) {g : Group}
    (hg : s.me.counted s.cur.strand (s.limOf s.cur.group s.str) (decide (disp.toInt ≤ 0)) = g) (room : g.liveStrands.length < 4)
    {b : Nat} (hb : branchTarget s.str.pc disp = some b) :
    bdivSplit p jb disp u = ((((u.counted disp).modMe fun g' => g'.divided s.cur.strand g.freeStrand (s.divRejoin jb :: s.str.rstack)
      (s.divT p) (s.divN p)).enterAt s.cur.group g.freeStrand (pcOf (pcSlot s.str.pc) b 0) (s.divSkip disp)).fallMe).moved := by
  have counted := h.counted disp
  rw [hg] at counted
  have count : (if disp == 0 || disp.msb then u.countBackEdge else u) = u.counted disp := rfl
  unfold bdivSplit
  simp only [h.str, h.divT, h.divN, h.cur_group, h.limOf rfl, hb, Option.getD_some, count, counted.now, State.modMe_cur,
    counted.cur_group, counted.cur_strand, if_pos room, State.divSkip, ← backward_iff]
  rfl

/-- With none free the old strand goes to the target, and its other side is deferred. -/
theorem bdivSplit_full {u : State} (h : Moves s u s.cur.moved s.me s.myLatches) {g : Group}
    (hg : s.me.counted s.cur.strand (s.limOf s.cur.group s.str) (decide (disp.toInt ≤ 0)) = g) (full : ¬ g.liveStrands.length < 4)
    {b : Nat} (hb : branchTarget s.str.pc disp = some b) :
    bdivSplit p jb disp u = (((u.counted disp).modStr fun st => { st with
      rstack := s.divDeferred p jb :: s.divRejoin jb :: st.rstack, exm := s.divT p }).enterAt s.cur.group s.cur.strand
        (pcOf (pcSlot s.str.pc) b 0) (s.divSkip disp)).moved := by
  have counted := h.counted disp
  rw [hg] at counted
  have place : g.place = s.me.place := by rw [← hg, Group.counted_rest]
  have count : (if disp == 0 || disp.msb then u.countBackEdge else u) = u.counted disp := rfl
  unfold bdivSplit
  simp only [h.str, h.divT, h.divN, h.cur_group, h.limOf rfl, hb, Option.getD_some, count, counted.now, State.modStr_cur,
    counted.cur_group, counted.cur_strand, counted.nextAt place, if_neg full, State.divSkip, State.divDeferred, ← backward_iff]
  rfl

/-! ### The word, by its sides -/

theorem exec_bdiv_outside (ready : Ready (.bdiv p jb disp) s) (h : 32 ≤ pcBlk s.str.pc + jb.toNat) :
    exec (.bdiv p jb disp) s = .next (s.trapWord .segment) :=
  (exec_bdiv _ _ _ _).trans (brWord_trap ready (bdivTrap_outside h) _)

section
variable (inside : pcBlk s.str.pc + jb.toNat < 32) (ready : Ready (.bdiv p jb disp) s)
include inside ready

theorem exec_bdiv_target (h : ¬ (0 ≤ (pcBlk s.str.pc : Int) + disp.toInt ∧ (pcBlk s.str.pc : Int) + disp.toInt < 32)) :
    exec (.bdiv p jb disp) s = .next (s.trapWord .segment) :=
  (exec_bdiv _ _ _ _).trans (brWord_trap ready (bdivTrap_branch inside (by rw [branchTrap_eq, if_pos h])) _)

theorem exec_bdiv_none_taken (empty : s.divT p = 0)
    (hb : 0 ≤ (pcBlk s.str.pc : Int) + disp.toInt ∧ (pcBlk s.str.pc : Int) + disp.toInt < 32) :
    Falls s (exec (.bdiv p jb disp) s) s.me := by
  have charged := (Moves.refl s).chargeMe eG1
  have free : bdivTrap p jb disp s = none := by
    rw [bdivTrap_one_side inside (.inl empty), empty, branchTrap_eq, if_neg (not_not.2 hb)]
    rfl
  refine ⟨_, charged, ?_⟩
  rw [exec_bdiv, brWord_go ready free, charged.divT, empty]
  rfl

/-- With every lane on the taken side it is the branch. -/
theorem exec_bdiv_all_taken (taken : s.divT p ≠ 0) (all : s.divN p = 0) : Branches s (exec (.bdiv p jb disp) s) s.me True disp := by
  have charged := (Moves.refl s).chargeMe eG1
  have same : exec (.bdiv p jb disp) s = condBranch (.bdiv p jb disp) (fun _ => true) disp s := by
    refine (exec_bdiv _ _ _ _).trans (brWord_congr ?_ ?_)
    · rw [bdivTrap_one_side inside (.inr all), bne_iff_ne.2 taken]
    · rw [charged.divT, charged.divN, all, if_neg (by simpa using taken)]
      rfl
  rw [same]
  exact condBranch_branches ready (by simp) fun _ _ => rfl

section
variable (taken : s.divT p ≠ 0) (other : s.divN p ≠ 0)
  (hb : 0 ≤ (pcBlk s.str.pc : Int) + disp.toInt ∧ (pcBlk s.str.pc : Int) + disp.toInt < 32)
include taken hb

theorem exec_bdiv_limit (back : disp.toInt ≤ 0) (spent : s.backEdgeOk s.cur.group s.str = false) :
    exec (.bdiv p jb disp) s = .next (s.trapWord .limit) := by
  refine (exec_bdiv _ _ _ _).trans (brWord_trap ready (bdivTrap_branch inside ?_) _)
  rw [branchTrap_eq, if_neg (not_not.2 hb), if_pos ⟨bne_iff_ne.2 taken, back, spent⟩]

variable (limit : disp.toInt ≤ 0 → s.backEdgeOk s.cur.group s.str = true)
include other limit

theorem exec_bdiv_depth (deep : 8 < s.str.rstack.length + (if s.seen.liveStrands.length < 4 then 1 else 2)) :
    exec (.bdiv p jb disp) s = .next (s.trapWord .depth) := by
  refine (exec_bdiv _ _ _ _).trans (brWord_trap ready ?_ _)
  rw [bdivTrap_two_sides inside taken other (branchTrap_none hb limit), if_pos deep]

theorem exec_bdiv_split (room : s.str.rstack.length + (if s.seen.liveStrands.length < 4 then 1 else 2) ≤ 8) :
    exec (.bdiv p jb disp) s = .next (bdivSplit p jb disp (s.chargeMe eG1)) := by
  have charged := (Moves.refl s).chargeMe eG1
  have free : bdivTrap p jb disp s = none := by
    rw [bdivTrap_two_sides inside taken other (branchTrap_none hb limit), if_neg (Nat.not_lt.2 room)]
  rw [exec_bdiv, brWord_go ready free, charged.divT, charged.divN, if_neg (by simpa using taken), if_neg (by simpa using other)]

end
end

end

/-- The strand that divides, and the one that it makes. -/
theorem Group.strand_divided (g : Group) {k f : Nat} (h : f ≠ k) (stack : List (BitVec 128)) (t n : LaneMask) :
    (g.divided k f stack t n).strand f = { g.strand k with rstack := stack, members := t, exm := t }
      ∧ (g.divided k f stack t n).strand k = { g.strand k with rstack := stack, members := (g.strand k).members &&& ~~~ t, exm := n }
      ∧ ∀ i, i ≠ f → i ≠ k → (g.divided k f stack t n).strand i = g.strand i :=
  ⟨Group.strand_setStrand _ _ _, (Group.strand_setStrand_ne _ h.symm _).trans (Group.strand_setStrand _ _ _),
    fun _ hf hk => (Group.strand_setStrand_ne _ hf _).trans (Group.strand_setStrand_ne _ hk _)⟩

/-- Settles O17: what stops the word by its checks in order, and its two sides by which of them is empty and whether a strand is free. -/
theorem divideWord : Obligations.DivideWord := by
  unfold Obligations.DivideWord
  intro s p jb disp ready
  dsimp only
  have charged := (Moves.refl s).chargeMe eG1
  refine ⟨exec_bdiv_outside ready, fun inside => exec_bdiv_target inside ready, fun inside => exec_bdiv_none_taken inside ready,
    fun inside => exec_bdiv_all_taken inside ready,
    fun inside taken _ hb back spent => exec_bdiv_limit inside ready taken hb (of_decide_eq_true back) spent,
    fun inside taken other hb limit => exec_bdiv_depth inside ready taken other hb (limit ∘ decide_eq_true),
    fun inside taken other hb limit room vacant mine _ => ?free, fun inside taken other hb limit room four => ?full⟩
  case free =>
    have vacant' : (s.me.counted s.cur.strand (s.limOf s.cur.group s.str) (decide (disp.toInt ≤ 0))).liveStrands.length < 4 := by
      rwa [Group.liveStrands_counted]
    obtain ⟨four, dead, lower⟩ := Group.freeStrand_spec vacant'
    rw [Group.live_counted] at dead
    have apart : Group.freeStrand _ ≠ s.cur.strand := fun e => by
      rw [e, mine] at dead
      cases dead
    obtain ⟨new, old, stand⟩ := Group.strand_divided _ apart (s.divRejoin jb :: s.str.rstack) (s.divT p) (s.divN p)
    rw [Group.strand_counted_same] at new old
    rw [exec_bdiv_split inside ready taken other hb (limit ∘ decide_eq_true) room,
      bdivSplit_free charged rfl vacant' (branchTarget_some hb)]
    refine ⟨_, _, _, (charged.counted disp).modMe _, rfl, four, apart, dead, fun i hi => ?_, ?_, new, ?_,
      fun i hf hk => (stand i hf hk).trans (Group.strand_counted_ne _ _ _ _ hk)⟩
    · rw [← lower i hi, Group.live_counted]
    · rw [Group.divided, Group.counted_rest]
      rfl
    · rw [old]
      cases decide (disp.toInt ≤ 0) <;> rfl
  case full =>
    have full : ¬ (s.me.counted s.cur.strand (s.limOf s.cur.group s.str) (decide (disp.toInt ≤ 0))).liveStrands.length < 4 := by
      rw [Group.liveStrands_counted, four]
      exact lt_irrefl 4
    rw [exec_bdiv_split inside ready taken other hb (limit ∘ decide_eq_true) room,
      bdivSplit_full charged rfl full (branchTarget_some hb)]
    refine ⟨_, ⟨_, (charged.counted disp).modStr _, rfl⟩, ?_, ?_,
      fun i hk => (Group.strand_setStrand_ne _ hk _).trans (Group.strand_counted_ne _ _ _ _ hk)⟩
    · rw [Group.counted_rest]
      rfl
    · rw [Group.strand_setStrand, Group.strand_counted_same]
      cases decide (disp.toInt ≤ 0) <;> rfl

end Sys2Proof.Machine
end

section
/-! `JOIN`, `EXIT` and `YIELD` (08 R164, R165, R174). -/

namespace Sys2Proof.Machine

theorem exec_join (bound : BitVec 16) (s : State) : exec (.join bound) s = brWord (.join bound) noTrap (fun s =>
    if s.str.exm == 0 && decide (1 < s.seen.liveStrands.length) then (s.dissolve s.cur.group s.cur.strand).moved
    else if (s.seen.missing s.cur.strand).isEmpty || bound == 0 then (s.completeJoin s.cur.group s.cur.strand).moved
    else (s.modStr fun st => { st with park := .join (s.clk s.myCluster + bound.toNat) }).moved) s := rfl

theorem exec_exit (s : State) : exec .exit s = brWord .exit noTrap (fun s =>
    (((s.modStr fun st => { st with park := .exit }).settleJoins s.cur.group).settleEnd s.cur.group).moved) s := rfl

/-- The other groups of a quarter that are ready to issue. -/
def State.readyOthers (s : State) (gk : Nat) : List Nat :=
  ((List.range 16).map (gk / 16 * 16 + ·)).filter fun x => x != gk && (s.nextStrand x).isSome

theorem exec_yield (s : State) : exec .yield s = brWord .yield noTrap (fun s =>
    (s.modMe fun g => { g with yielded := s.readyOthers s.cur.group }).fallMe.moved) s := rfl

theorem not_dissolves {s : State} (stays : s.str.exm ≠ 0 ∨ s.seen.liveStrands.length ≤ 1) :
    ¬ (s.str.exm == 0 && decide (1 < s.seen.liveStrands.length)) = true := by
  rw [Bool.and_eq_true, beq_iff_eq, decide_eq_true_eq]
  rintro ⟨empty, several⟩
  exact stays.elim (· empty) (Nat.not_le.2 several)

theorem Moves.fallMe {s t : State} {own : Bool} {g : Group} {l : Tab Latch} (h : Moves s t own g l) :
    t.fallMe = t.fallThrough s.cur.group s.cur.strand := by rw [State.fallMe, h.cur_group, h.cur_strand]

section
variable {s : State} {bound : BitVec 16} (ready : Ready (.join bound) s)
include ready

theorem exec_join_dissolve (empty : s.str.exm = 0) (several : 1 < s.seen.liveStrands.length) : ∃ u,
    Moves s u s.cur.moved s.me s.myLatches ∧ exec (.join bound) s = .next (u.dissolve s.cur.group s.cur.strand).moved := by
  have charged := (Moves.refl s).chargeMe eG1
  refine ⟨_, charged, ?_⟩
  rw [exec_join, brWord_go ready rfl, charged.str, charged.seen, charged.cur_group, charged.cur_strand]
  exact congrArg Host.Outcome.next (if_pos (by simp [empty, several]))

section
variable (stays : s.str.exm ≠ 0 ∨ s.seen.liveStrands.length ≤ 1)
include stays

theorem exec_join_goes_on (alone : s.seen.missing s.cur.strand = [] ∨ bound = 0) : Falls s (exec (.join bound) s)
    (s.me.withStrand s.cur.strand fun st => { st with park := .running, drain := s.me.openOps s.cur.strand }) := by
  have charged := (Moves.refl s).chargeMe eG1
  have runs := charged.modMe fun g => g.withStrand s.cur.strand fun st => { st with park := .running, drain := g.openOps s.cur.strand }
  refine ⟨_, runs, ?_⟩
  rw [exec_join, brWord_go ready rfl, charged.str, charged.seen, charged.cur_group, charged.cur_strand, if_neg (not_dissolves stays),
    if_pos (by simpa using alone), runs.fallMe, State.modMe, charged.cur_group]
  rfl

theorem exec_join_parks (missing : s.seen.missing s.cur.strand ≠ []) (bounded : bound ≠ 0) : Leaves s (exec (.join bound) s) true
    (s.me.withStrand s.cur.strand fun st => { st with park := .join (s.clk s.myCluster + bound.toNat) }) := by
  have charged := (Moves.refl s).chargeMe eG1
  rw [exec_join, brWord_go ready rfl, charged.str, charged.seen, charged.cur_strand, if_neg (not_dissolves stays),
    if_neg (by simpa using ⟨missing, bounded⟩), charged.clk, charged.myCluster]
  exact ⟨_, rfl, (charged.withStrand _).moved⟩

end
end

/-- A group that has no two strands to merge, and of which every live strand is at `EXIT`, ends. -/
theorem State.ended_settleEnd {s : State} {gk : Nat} (live : (s.group gk).live = true) (apart : (s.group gk).mergePair = none)
    (exits : ∀ i ∈ (s.group gk).liveStrands, ((s.group gk).strand i).park = .exit) : ((s.settleEnd gk).group gk).ended = true := by
  unfold State.settleEnd
  dsimp only
  cases ended : (s.group gk).ended with
  | true => rw [if_neg (by simp), ended]
  | false =>
    rw [if_pos (by simpa [live, apart] using exits)]
    have parts := ((Parts.abandonRdvs (s.modGroup gk fun g => { g with ended := true, approved := false }) (s.group gk)).trans
      (.endFuse _ gk 1)).kept gk
    rw [parts.rest, State.group_modGroup]

/-- Settles O18: a `JOIN` by who is missing and by its bound, the end of a group from what `settleEnd` lets go, `EXIT` and
`YIELD` as they issue. -/
theorem parkWords : Obligations.ParkWords := by
  unfold Obligations.ParkWords
  intro s bound
  dsimp only
  refine ⟨exec_join_dissolve, exec_join_goes_on, exec_join_parks, fun ready => ?exit, fun gk => State.ended_settleEnd, fun ready => ?yield⟩
  case exit =>
    have charged := (Moves.refl s).chargeMe eG1
    refine ⟨_, charged.withStrand _, ?_⟩
    rw [exec_exit, brWord_go ready rfl, charged.cur_group]
  case yield =>
    have charged := (Moves.refl s).chargeMe eG1
    refine ⟨_, charged, ?_⟩
    rw [exec_yield, brWord_go ready rfl, charged.cur_group]
    rfl

end Sys2Proof.Machine
end

section
/-! `CALL`, `RET` and `JMPF` (03 R46, R48, 08 R168 to R172). -/

namespace Sys2Proof.Machine

/-! ### CALL (R168) -/

theorem exec_call (disp : BitVec 16) (s : State) : exec (.call disp) s = execCall disp s := rfl

section
variable {s : State} {disp : BitVec 16} (ready : Ready (.call disp) s)
include ready

theorem exec_call_segment (h : ¬ (0 ≤ (pcBlk s.str.pc : Int) + disp.toInt ∧ (pcBlk s.str.pc : Int) + disp.toInt < 32)) :
    exec (.call disp) s = .next (s.trapWord .segment) :=
  (exec_call disp s).trans (brWord_trap ready (by rw [branchTarget_none h]) _)

variable (hb : 0 ≤ (pcBlk s.str.pc : Int) + disp.toInt ∧ (pcBlk s.str.pc : Int) + disp.toInt < 32)
include hb

theorem exec_call_depth (full : s.seen.place.depth ≤ s.str.calls.length) : exec (.call disp) s = .next (s.trapWord .depth) :=
  (exec_call disp s).trans (brWord_trap ready (by rw [branchTarget_some hb]; exact if_pos full) _)

theorem exec_call_jumps (room : s.str.calls.length < s.seen.place.depth) : Jumps s (exec (.call disp) s)
    (s.me.withStrand s.cur.strand fun st => { st with
      calls := { slot := pcSlot s.str.pc, blk := (s.nextAt s.cur.group s.str).1, pk := (s.nextAt s.cur.group s.str).2, seg := st.seg }
        :: st.calls })
    (pcSlot s.str.pc) ((pcBlk s.str.pc : Int) + disp.toInt).toNat 0 none := by
  have charged := (Moves.refl s).chargeMe eG1
  refine ⟨_, charged.withStrand _,
    (exec_call disp s).trans ((brWord_go ready (by rw [branchTarget_some hb]; exact if_neg (Nat.not_le.2 room)) _).trans ?_)⟩
  simp only [charged.str, State.modStr_cur, charged.cur_group, charged.cur_strand, charged.nextAt rfl, branchTarget_some hb,
    Option.getD_some, State.enterBlock]

end

/-! ### RET (R169) -/

theorem exec_ret (s : State) : exec .ret s = execRet s := rfl

section
variable {s : State} {e : RetEntry} {t : List RetEntry}

theorem retTrap_nil (h : s.str.calls = []) : retTrap s = some .depth := by
  unfold retTrap
  simp only [h]

/-- What stops a return to an entry, in order. -/
theorem retTrap_cons (h : s.str.calls = e :: t) : retTrap s =
    if 32 ≤ e.blk then some .segment
    else if s.backEdgeOk s.cur.group s.str = false then some .limit
    else if ∃ r ∈ s.str.rstack.head?, t.length < rsCD r then some .depth else none := by
  unfold retTrap
  simp only [h, List.length_cons, Nat.add_sub_cancel, Bool.not_eq_true']
  cases s.str.rstack.head? <;> simp

section
variable (ready : Ready .ret s) (entry : s.str.calls = e :: t)
include ready entry

theorem exec_ret_segment (past : 32 ≤ e.blk) : exec .ret s = .next (s.trapWord .segment) :=
  (exec_ret s).trans <| brWord_trap ready (by rw [retTrap_cons entry, if_pos past]) _

variable (within : e.blk < 32)
include within

theorem exec_ret_limit (spent : s.backEdgeOk s.cur.group s.str = false) : exec .ret s = .next (s.trapWord .limit) :=
  (exec_ret s).trans <| brWord_trap ready (by rw [retTrap_cons entry, if_neg (Nat.not_le.2 within), if_pos spent]) _

variable (left : s.backEdgeOk s.cur.group s.str = true)
include left

theorem exec_ret_depth {r : BitVec 128} {rs : List (BitVec 128)} (top : s.str.rstack = r :: rs) (deeper : t.length < rsCD r) :
    exec .ret s = .next (s.trapWord .depth) := by
  refine (exec_ret s).trans (brWord_trap ready ?_ _)
  rw [retTrap_cons entry, if_neg (Nat.not_le.2 within), if_neg (by rw [left]; decide), if_pos ⟨r, by rw [top]; rfl, deeper⟩]

theorem exec_ret_jumps (closed : ∀ r ∈ s.str.rstack.head?, rsCD r ≤ t.length) : Jumps s (exec .ret s)
    ((s.me.withStrand s.cur.strand (·.tripped (s.limOf s.cur.group s.str))).withStrand s.cur.strand fun st =>
      { st with calls := t, seg := e.seg })
    e.slot e.blk e.pk (some (s.limOf s.cur.group s.str)) := by
  have charged := (Moves.refl s).chargeMe eG1
  have free : retTrap s = none := by
    rw [retTrap_cons entry, if_neg (Nat.not_le.2 within), if_neg (by rw [left]; decide), if_neg]
    rintro ⟨r, top, deeper⟩
    exact Nat.not_lt.2 (closed r top) deeper
  refine ⟨_, charged.countBackEdge.withStrand _, (exec_ret s).trans ((brWord_go ready free _).trans ?_)⟩
  simp only [charged.str, State.modStr_cur, charged.countBackEdge.cur_group, charged.countBackEdge.cur_strand, charged.cur_group,
    charged.limOf rfl, entry]

end
end

/-! ### JMPF (R172) -/

/-- A `JMPF` that does not go forward is a back-edge. -/
def State.jumpsBack (s : State) (slot : BitVec 7) (blk : BitVec 5) : Bool :=
  decide (slot.toNat * 32 + blk.toNat ≤ pcSlot s.str.pc * 32 + pcBlk s.str.pc)

theorem exec_jmpf (slot : BitVec 7) (seg : BitVec 8) (blk : BitVec 5) (s : State) : exec (.jmpf slot seg blk) s = brWord (.jmpf slot seg blk)
    (fun s => if s.jumpsBack slot blk && !s.backEdgeOk s.cur.group s.str then some .limit else none)
    (fun s => (((if s.jumpsBack slot blk then s.countBackEdge else s).modStr fun st => { st with seg := seg.toNat }).enterBlock s.cur.group
      s.cur.strand slot.toNat blk.toNat (if s.jumpsBack slot blk then some (s.limOf s.cur.group s.str) else none)).moved) s := rfl

theorem Moves.jumpsBack {s u : State} (h : Moves s u s.cur.moved s.me s.myLatches) (slot : BitVec 7) (blk : BitVec 5) :
    u.jumpsBack slot blk = s.jumpsBack slot blk := by rw [State.jumpsBack, State.jumpsBack, h.str]

section
variable {s : State} {slot : BitVec 7} {seg : BitVec 8} {blk : BitVec 5} (ready : Ready (.jmpf slot seg blk) s)
include ready

theorem exec_jmpf_limit (back : s.jumpsBack slot blk = true)
    (spent : s.backEdgeOk s.cur.group s.str = false) : exec (.jmpf slot seg blk) s = .next (s.trapWord .limit) :=
  (exec_jmpf slot seg blk s).trans <| brWord_trap ready (if_pos (by simp [back, spent])) _

theorem exec_jmpf_back (back : s.jumpsBack slot blk = true)
    (left : s.backEdgeOk s.cur.group s.str = true) : Jumps s (exec (.jmpf slot seg blk) s)
    ((s.me.withStrand s.cur.strand (·.tripped (s.limOf s.cur.group s.str))).withStrand s.cur.strand fun st => { st with seg := seg.toNat })
    slot.toNat blk.toNat 0 (some (s.limOf s.cur.group s.str)) := by
  have charged := (Moves.refl s).chargeMe eG1
  refine ⟨_, charged.countBackEdge.withStrand _, (exec_jmpf slot seg blk s).trans ((brWord_go ready (if_neg (by simp [left])) _).trans ?_)⟩
  simp only [charged.str, charged.jumpsBack, back, if_true, charged.cur_group, charged.cur_strand, charged.limOf rfl, State.enterBlock]

theorem exec_jmpf_forward (forward : s.jumpsBack slot blk = false) :
    Jumps s (exec (.jmpf slot seg blk) s) (s.me.withStrand s.cur.strand fun st => { st with seg := seg.toNat }) slot.toNat blk.toNat 0 none := by
  have charged := (Moves.refl s).chargeMe eG1
  refine ⟨_, charged.withStrand _, (exec_jmpf slot seg blk s).trans ((brWord_go ready (if_neg (by simp [forward])) _).trans ?_)⟩
  simp only [charged.jumpsBack, forward, Bool.false_eq_true, if_false, charged.cur_group, charged.cur_strand, State.enterBlock]

end

/-- Settles O19: the traps of the three words in the order of their checks, then the jump, the strand changed before it. -/
theorem callWords : Obligations.CallWords := by
  unfold Obligations.CallWords
  intro s disp slot seg blk
  dsimp only
  exact ⟨exec_call_segment, exec_call_depth, exec_call_jumps, fun ready empty => (exec_ret s).trans (brWord_trap ready (retTrap_nil empty) _),
    fun _ _ => exec_ret_segment, fun _ _ => exec_ret_limit, fun _ _ _ _ ready entry within left => exec_ret_depth ready entry within left,
    fun _ _ => exec_ret_jumps, exec_jmpf_limit, exec_jmpf_back, exec_jmpf_forward⟩

end Sys2Proof.Machine
end

section
/-! System words: the level vote, the readings and what a pair forwards of them, the checkpoint request, `MRS` and `MSR` (08 R175, R177 to
R180, 18 R364). -/

namespace Sys2Proof.Machine

/-! ### Readings (08 R177, 18 R364) -/

section
variable {s : State} {v : Nat} {k : State → Nat → State} {p : Nat}

theorem forwarded_alone (alone : s.partner s.cur.group = none) (single : s.pairedMe = false) : forwarded s v k = k s v := by
  unfold forwarded
  rw [alone]
  exact if_neg (by rw [single]; decide)

theorem forwarded_unmatched (alone : s.partner s.cur.group = none) (paired : s.pairedMe = true) : forwarded s v k = s.missed := by
  unfold forwarded
  rw [alone]
  exact if_pos paired

section
variable (pair : s.partner s.cur.group = some p)
include pair

theorem forwarded_left (left : s.seen.place.side = 0) : forwarded s v k =
    if 256 ≤ s.me.fwd.length then s.missed else k (s.modMe fun g => { g with fwd := g.fwd ++ [{ vals := Tab.set 0 0 v [] }] }) v := by
  unfold forwarded
  rw [pair]
  exact if_pos (by rw [left]; rfl)

theorem forwarded_right_empty (right : s.seen.place.side ≠ 0) (empty : (s.group p).fwd = []) : forwarded s v k = s.missed := by
  unfold forwarded
  rw [pair]
  simp only [beq_iff_eq, right, if_false, empty]

theorem forwarded_right (right : s.seen.place.side ≠ 0) {e : Forward} {t : List Forward} (next : (s.group p).fwd = e :: t)
    (there : e.op = 0 ∧ e.wait = false) :
    forwarded s v k = k (s.modGroup p fun g => { g with fwd := t }) (e.vals.get 0 0) := by
  have closed : e.open' = false := by simp [Forward.open', there]
  unfold forwarded
  rw [pair]
  simp only [beq_iff_eq, right, if_false, next, closed, Bool.false_eq_true]

end
end

theorem Group.gpair_setGPair (g : Group) (n : Nat) (v : Dword) : (g.setGPair n v).gpair n = v := by
  have low : (g.setGPair n v).greg n = v.truncate 32 :=
    (Group.greg_setG_ne _ (by omega) _).trans (Group.greg_setG _ _ _)
  have high : (g.setGPair n v).greg (n + 1) = (v >>> 32).truncate 32 := Group.greg_setG _ _ _
  rw [Group.gpair, low, high]
  ext i hi
  simp only [BitVec.getElem_append, BitVec.truncate_eq_setWidth, BitVec.getElem_setWidth, BitVec.getLsbD_ushiftRight]
  split
  · exact BitVec.getLsbD_eq_getElem hi
  · rw [Nat.add_sub_cancel' (by omega)]
    exact BitVec.getLsbD_eq_getElem hi

section
variable {s u : State} {g : Group}

/-- A group-wide result of 64 bits of a word that has changed its group before, but for what a latch content takes from it. -/
theorem Moves.gResult64 (h : Moves s u s.cur.moved g s.myLatches) (place : g.place = s.me.place) (uid : g.uid = s.me.uid)
    (lost : g.lost = s.me.lost) (d : Nat) (v : Dword) : GroupDone s (.next (u.gResult64 false d v)) 64 v (g.setGPair d v) := by
  have latch : sharedLatch u.me 64 v = sharedLatch s.me 64 v := by
    rw [h.now, sharedLatch, place, uid, sharedLatch]
  rw [State.gResult64, latch, h.cur_group]
  exact (h.modMe fun g => g.setGPair d v).shared lost rfl _ _

/-- What a group-wide word has put into its pair of G registers, and that another group stands. -/
theorem GroupDone.gpair {o : Outcome} {w d : Nat} {v : Dword} (h : GroupDone s o w v (g.setGPair d v)) :
    ∃ t, o = .next t ∧ t.me.gpair d = v ∧ ∀ p, p ≠ s.cur.group → t.group p = s.group p := by
  obtain ⟨t, lost, lat, eq, moves, -⟩ := h
  refine ⟨t, eq, ?_, moves.others⟩
  rw [moves.now]
  exact Group.gpair_setGPair g d v

end

theorem readWord_next {i : Instr} {s : State} (ready : Ready i s) (d : BitVec 7) (f : State → Nat) : readWord i d f s =
    .next (forwarded s (f s) fun s v => (s.chargeMe eG1).gResult64 false d.toNat (BitVec.ofNat 64 v)) := by
  rw [readWord, issue_ready ready]

/-- A READING (R177): alone, in a left group, in a right group. -/
theorem readWord_reads {i : Instr} {s : State} (ready : Ready i s) (d : BitVec 7) (f : State → Nat) :
    (s.partner s.cur.group = none → s.pairedMe = false → GDone64 s (readWord i d f s) false d.toNat (BitVec.ofNat 64 (f s)))
    ∧ (s.partner s.cur.group = none → s.pairedMe = true → readWord i d f s = .next s.missed)
    ∧ (∀ p, s.partner s.cur.group = some p → s.seen.place.side = 0 → s.me.fwd.length < 256 →
        GroupDone s (readWord i d f s) 64 (BitVec.ofNat 64 (f s))
          (({ s.me with fwd := s.me.fwd ++ [{ vals := Tab.set 0 0 (f s) [] }] } : Group).setGPair d.toNat (BitVec.ofNat 64 (f s))))
    ∧ (∀ p, s.partner s.cur.group = some p → s.seen.place.side = 0 → 256 ≤ s.me.fwd.length → readWord i d f s = .next s.missed)
    ∧ (∀ p, s.partner s.cur.group = some p → s.seen.place.side ≠ 0 → (s.group p).fwd = [] → readWord i d f s = .next s.missed)
    ∧ (∀ p e t, s.partner s.cur.group = some p → s.seen.place.side ≠ 0 → (s.group p).fwd = e :: t → e.op = 0 → e.wait = false →
        p ≠ s.cur.group → ∃ u, readWord i d f s = .next u ∧ u.me.gpair d.toNat = BitVec.ofNat 64 (e.vals.get 0 0)
          ∧ u.group p = { s.group p with fwd := t }) := by
  rw [readWord_next ready]
  refine ⟨fun alone single => ?alone, fun alone paired => ?unmatched, fun p pair left room => ?left, fun p pair left full => ?full,
    fun p pair right empty => ?empty, fun p e t pair right next op wait other => ?right⟩
  case alone =>
    rw [forwarded_alone alone single]
    exact gResult64_done _ _ _ _ _
  case unmatched => rw [forwarded_unmatched alone paired]
  case left =>
    rw [forwarded_left pair left, if_neg (Nat.not_le.2 room)]
    exact (((Moves.refl s).modMe _).chargeMe _).gResult64 rfl rfl rfl _ _
  case full => rw [forwarded_left pair left, if_pos full]
  case empty => rw [forwarded_right_empty pair right empty]
  case right =>
    rw [forwarded_right pair right next ⟨op, wait⟩]
    have done := ((Moves.refl (s.modGroup p fun g => { g with fwd := t })).chargeMe eG1).gResult64 rfl rfl rfl d.toNat
      (BitVec.ofNat 64 (e.vals.get 0 0))
    obtain ⟨u, eq, value, others⟩ := done.gpair
    exact ⟨u, eq, value, (others p other).trans (State.group_modGroup _ _ _)⟩

/-! ### The other words -/

section
variable {s : State} {d : BitVec 7} {a : BitVec 8}

theorem execSetpl_eq (ready : Ready (.setpl d a) s) : ∃ u,
    Moves s u s.cur.moved (s.me.withStrand s.cur.strand fun st => { st with vote := (s.gsrc a).toNat % 4, voteAt := s.time.toNat }) s.myLatches
      ∧ execSetpl d a s = .next ((u.retarget s.myCluster).gResult false d.toNat
          (BitVec.ofNat 32 ((u.retarget s.myCluster).wantedLevel s.myCluster))) :=
  ⟨_, ((Moves.refl s).chargeMe eG1).withStrand _, issue_ready ready _⟩

theorem execCkpt_eq (ready : Ready (.ckpt d) s) : execCkpt d s = .next (
    if s.inTx then ((s.chargeMe eG1).doomMe 4).fallMe.moved
    else if (s.launch s.seen.place.launch).prot then
      { (((s.chargeMe eG1).modMe fun g => { g with wait := .ckpt d.toNat }).modStr fun st => { st with park := .ckpt }).moved with
        rel := { (s.chargeMe eG1).rel with closeDue := true } }
    else ((s.chargeMe eG1).modMe fun g => g.setG d.toNat 1).fallMe.moved) := by
  have charged := (Moves.refl s).chargeMe eG1
  rw [execCkpt, brWord_go ready rfl, charged.seen, charged.launch, State.inTx, charged.now]
  rfl

theorem execCkpt_inTx (ready : Ready (.ckpt d) s) (tx : s.inTx = true) : Falls s (execCkpt d s)
    { s.me with tx := { s.me.tx with doom := if s.me.tx.doom = 0 then 4 else s.me.tx.doom } } := by
  rw [execCkpt_eq ready, if_pos tx]
  refine ⟨_, ((Moves.refl s).chargeMe eG1).modMe fun g => { g with tx := { g.tx with doom := if g.tx.doom = 0 then 4 else g.tx.doom } }, ?_⟩
  unfold State.doomMe
  simp only [beq_iff_eq]

theorem execCkpt_unprotected (ready : Ready (.ckpt d) s) (tx : s.inTx = false) (prot : (s.launch s.seen.place.launch).prot = false) :
    Falls s (execCkpt d s) (s.me.setG d.toNat 1) := by
  rw [execCkpt_eq ready, if_neg (by rw [tx]; decide), if_neg (by rw [prot]; decide)]
  exact ⟨_, ((Moves.refl s).chargeMe eG1).modMe _, rfl⟩

theorem execCkpt_parks (ready : Ready (.ckpt d) s) (tx : s.inTx = false) (prot : (s.launch s.seen.place.launch).prot = true) : ∃ u,
    Moves s u true (({ s.me with wait := .ckpt d.toNat } : Group).withStrand s.cur.strand fun st => { st with park := .ckpt }) s.myLatches
      ∧ execCkpt d s = .next { u with rel := { u.rel with closeDue := true } } := by
  rw [execCkpt_eq ready, if_neg (by rw [tx]; decide), if_pos prot]
  exact ⟨_, ((((Moves.refl s).chargeMe eG1).modMe _).withStrand _).moved, rfl⟩

theorem execMsr_eq (ready : Ready (.msr d a) s) : ∃ u, Moves s u s.cur.moved s.me s.myLatches
    ∧ execMsr d a s = .next (u.writePriv (dieOf s.myCluster) (s.seen.greg d.toNat).toNat (s.gsrc a)) :=
  ⟨_, (Moves.refl s).chargeMe eG1, issue_ready ready _⟩

end

/-- Settles O21: the three readings that a pair forwards are one mould, and each other word is its issue. -/
theorem systemWords : Obligations.SystemWords := by
  unfold Obligations.SystemWords
  intro s d a
  dsimp only [exec]
  exact ⟨execSetpl_eq, fun ready => readWord_reads ready d _, fun ready => readWord_reads ready d _, fun ready => readWord_reads ready d _,
    fun ready => groupWord64_done ready false d _, execCkpt_inTx, execCkpt_unprotected, execCkpt_parks,
    fun ready => groupWord_done ready false d _, execMsr_eq⟩

end Sys2Proof.Machine
end

section
/-! The privileged registers (08 Table 8-3, R180, 09 R186, R187, 17 Table 17-6, 24 Table 24-1). -/

namespace Sys2Proof.Machine

section
variable {s : State} {die cl n : Nat} {v : Word}

/-! ### What a number names: behind the registers of a die come the windows of the clusters and of the operators -/

theorem State.readPriv_window (h : 4 < n) : s.readPriv die n =
    if 0x10000 ≤ n ∧ n < 0x10200 then (s.cluster (n - 0x10000)).sramsplit
    else if 0x20000 ≤ n ∧ n < 0x20200 then (s.cluster (n - 0x20000)).duty.truncate 32
    else if 0x30000 ≤ n ∧ n < 0x30018 then BitVec.ofNat 32 (s.dust.get {} (n - 0x30000)).fill
    else if 0x40000 ≤ n ∧ n < 0x40200 then (s.cluster (n - 0x40000)).inj
    else 0 := by
  have not1 : n ≠ 1 := by omega
  have not2 : n ≠ 2 := by omega
  have not3 : n ≠ 3 := by omega
  have not4 : n ≠ 4 := by omega
  unfold State.readPriv
  simp only [beq_iff_eq, not1, not2, not3, not4, if_false, Bool.and_eq_true, decide_eq_true_eq]

theorem State.writePriv_window (h : 4 < n) : s.writePriv die n v =
    if 0x10000 ≤ n ∧ n < 0x10200 then s.writeSplit (n - 0x10000) v
    else if 0x20000 ≤ n ∧ n < 0x20200 then s.writeDuty (n - 0x20000) v
    else if 0x40000 ≤ n ∧ n < 0x40200 then s.writeInj (n - 0x40000) v
    else s := by
  have not1 : n ≠ 1 := by omega
  have not3 : n ≠ 3 := by omega
  unfold State.writePriv
  simp only [beq_iff_eq, not1, not3, if_false, Bool.and_eq_true, decide_eq_true_eq]

/-- A number that names no register. -/
abbrev Unassigned (n : Nat) : Prop :=
  n = 0 ∨ 4 < n ∧ n < 0x10000 ∨ 0x10200 ≤ n ∧ n < 0x20000 ∨ 0x20200 ≤ n ∧ n < 0x30000 ∨ 0x30018 ≤ n ∧ n < 0x40000
    ∨ 0x40200 ≤ n

theorem State.readPriv_unassigned (h : Unassigned n) : s.readPriv die n = 0 := by
  rcases Nat.eq_zero_or_pos n with rfl | _
  · rfl
  · rw [State.readPriv_window (by omega), if_neg (by omega), if_neg (by omega), if_neg (by omega), if_neg (by omega)]

theorem State.writePriv_unassigned (h : Unassigned n) : s.writePriv die n v = s := by
  rcases Nat.eq_zero_or_pos n with rfl | _
  · rfl
  · rw [State.writePriv_window (by omega), if_neg (by omega), if_neg (by omega), if_neg (by omega)]

theorem State.readPriv_fill (h : n < 24) : s.readPriv die (0x30000 + n) = BitVec.ofNat 32 (s.dust.get {} n).fill := by
  rw [State.readPriv_window (by omega), if_neg (by omega), if_neg (by omega), if_pos (by omega), Nat.add_sub_cancel_left]

theorem State.writePriv_fill (h : n < 24) : s.writePriv die (0x30000 + n) v = s := by
  rw [State.writePriv_window (by omega), if_neg (by omega), if_neg (by omega), if_neg (by omega)]

section
variable (h : cl < 512)
include h

theorem State.readPriv_split : s.readPriv die (0x10000 + cl) = (s.cluster cl).sramsplit := by
  rw [State.readPriv_window (by omega), if_pos (by omega), Nat.add_sub_cancel_left]

theorem State.writePriv_split : s.writePriv die (0x10000 + cl) v = s.writeSplit cl v := by
  rw [State.writePriv_window (by omega), if_pos (by omega), Nat.add_sub_cancel_left]

theorem State.readPriv_duty : s.readPriv die (0x20000 + cl) = (s.cluster cl).duty.truncate 32 := by
  rw [State.readPriv_window (by omega), if_neg (by omega), if_pos (by omega), Nat.add_sub_cancel_left]

theorem State.writePriv_duty : s.writePriv die (0x20000 + cl) v = s.writeDuty cl v := by
  rw [State.writePriv_window (by omega), if_neg (by omega), if_pos (by omega), Nat.add_sub_cancel_left]

theorem State.readPriv_inj : s.readPriv die (0x40000 + cl) = (s.cluster cl).inj := by
  rw [State.readPriv_window (by omega), if_neg (by omega), if_neg (by omega), if_neg (by omega), if_pos (by omega),
    Nat.add_sub_cancel_left]

theorem State.writePriv_inj : s.writePriv die (0x40000 + cl) v = s.writeInj cl v := by
  rw [State.writePriv_window (by omega), if_neg (by omega), if_neg (by omega), if_pos (by omega), Nat.add_sub_cancel_left]

end

/-! ### What a write leaves -/

theorem State.sramsplit_writeSplit (fits : splitOk v = true) (empty : s.emptyCluster cl = true) :
    ((s.writeSplit cl v).cluster cl).sramsplit = v &&& 0xFFF := by
  rw [State.writeSplit, if_pos (by rw [fits, empty]; rfl), State.cluster_modCluster]

theorem State.writeSplit_refused (h : splitOk v = false ∨ s.emptyCluster cl = false) : s.writeSplit cl v = s := by
  refine if_neg ?_
  rw [Bool.and_eq_true]
  rintro ⟨fits, empty⟩
  simp [fits, empty] at h

theorem State.duty_writeDuty : ((s.writeDuty cl v).cluster cl).duty = (s.cluster cl).duty &&& ~~~ ((v &&& 0x30000000).zeroExtend 64) := by
  rw [State.writeDuty, State.cluster_modCluster]

theorem State.inj_writeInj : ((s.writeInj cl v).cluster cl).inj = v &&& 0x800FFFFC := by
  rw [State.writeInj, State.cluster_modCluster]

/-- The bits EXH and OVER are 28 and 29 (17 Table 17-6). -/
theorem getLsbD_dutyBits {k : Nat} (h : k < 32) : (0x30000000 : Word).getLsbD k = (decide (k = 28) || decide (k = 29)) := by
  revert k
  decide

/-- A 1 that is written into a bit of DUTY that may be cleared clears it. -/
theorem getLsbD_clearDuty (duty : Dword) (v : Word) {k : Nat} (h : k < 32) :
    ((duty &&& ~~~ ((v &&& 0x30000000).zeroExtend 64)).truncate 32 : Word).getLsbD k =
      ((duty.truncate 32 : Word).getLsbD k && !(v.getLsbD k && (decide (k = 28) || decide (k = 29)))) := by
  have wide : k < 64 := by omega
  simp only [BitVec.truncate_eq_setWidth, BitVec.getLsbD_setWidth, BitVec.getLsbD_and, BitVec.getLsbD_not,
    h, wide, decide_true, Bool.true_and, getLsbD_dutyBits h]

end

/-- Settles O22: each number names its register, and a write to it leaves there what `writeSplit`, `writeDuty` and `writeInj` leave. -/
theorem privilegedRegisters : Obligations.PrivilegedRegisters := by
  unfold Obligations.PrivilegedRegisters
  intro s die cl n v hcl
  refine ⟨?fepc, ?fvec, rfl, rfl, rfl, rfl, fun fits empty => ?split, fun refused => ?refused, fun k hk => ?duty,
    fun hn => ⟨State.writePriv_fill hn, State.readPriv_fill hn⟩, ?inj,
    fun none => ⟨State.writePriv_unassigned none, State.readPriv_unassigned none⟩, ?execSplit, ?execDuty, ?execInj⟩
  case fepc => exact congrArg Die.fepc (State.die_modDie s die fun d => { d with fepc := v })
  case fvec => exact congrArg Die.fvec (State.die_modDie s die fun d => { d with fvec := v })
  case split => rw [State.writePriv_split hcl, State.readPriv_split hcl, State.sramsplit_writeSplit fits empty]
  case refused => rw [State.writePriv_split hcl, State.writeSplit_refused refused]
  case duty => rw [State.writePriv_duty hcl, State.readPriv_duty hcl, State.readPriv_duty hcl, State.duty_writeDuty, getLsbD_clearDuty _ _ hk]
  case inj => rw [State.writePriv_inj hcl, State.readPriv_inj hcl, State.inj_writeInj]
  case execSplit => rw [State.writePriv_split hcl]; rfl
  case execDuty => rw [State.writePriv_duty hcl]; rfl
  case execInj => rw [State.writePriv_inj hcl]; rfl

end Sys2Proof.Machine
end

section
/-! The trap of firmware, `ERET` and `TRAP` (08 R174, R181). -/

namespace Sys2Proof.Machine

/-! ### Locks -/

/-- From s to t slices have lost locks, and nothing else has changed. -/
structure Unlocks (s t : State) : Prop where
  rest : t = { s with slices := t.slices }
  slices : ∀ key, t.slice key = { s.slice key with locks := (t.slice key).locks }

theorem Unlocks.refl (s : State) : Unlocks s s := ⟨rfl, fun _ => rfl⟩
theorem Unlocks.trans {s t u : State} (h : Unlocks s t) (k : Unlocks t u) : Unlocks s u :=
  ⟨by rw [k.rest, h.rest], fun key => by rw [k.slices, h.slices]⟩

theorem Unlocks.modSlice (s : State) (key : Nat) (f : List (Nat × Nat) → List (Nat × Nat)) :
    Unlocks s (s.modSlice key fun x => { x with locks := f x.locks }) := by
  refine ⟨rfl, fun k => ?_⟩
  by_cases h : k = key
  · subst h
    rw [State.slice_modSlice]
  · rw [State.slice_modSlice_ne _ h]

theorem Unlocks.unlock (s : State) (op : Nat) : Unlocks s (s.unlock op) :=
  foldl_keeps (Unlocks s) _ (fun t e h => by
    split
    · exact h.trans (.modSlice _ _ _)
    · exact h) s.slices s (.refl s)

/-- A transaction whose logs go loses its locks first. -/
theorem State.discardTx_unlocks (s : State) (gk : Nat) :
    ∃ u, Unlocks s u ∧ s.discardTx gk = u.modGroup gk fun g => { g with tx := g.tx.discard } := by
  refine ⟨_, foldl_keeps (Unlocks s) _ (fun t e h => ?_) s.ops s (.refl s), rfl⟩
  split
  · split
    · exact h.trans (.unlock _ _)
    · exact h
  · exact h

/-! ### A code address from data (03 R47) -/

theorem State.header_congr {s t : State} {gk : Nat} (clusters : t.clusters = s.clusters) (place : (t.group gk).place = (s.group gk).place)
    (slot blk : Nat) : t.header gk slot blk = s.header gk slot blk := by
  unfold State.header State.codeWord State.islot State.cluster
  rw [clusters, place]

/-- A strand sent to a code address whose block names a segment. -/
def Strand.sentTo (pc : Word) (seg : Nat) (st : Strand) : Strand := { st with pc := pc, seg := seg, block := [] }

theorem State.group_goData (s : State) (gk k : Nat) (pc : Word) : (s.goData gk k pc).group gk =
    (s.group gk).withStrand k (·.sentTo pc (hdrSEG (s.header gk (pcSlot pc) (pcBlk pc)))) := State.group_modGroup _ _ _

theorem State.group_goData_ne (s : State) {x gk : Nat} (h : x ≠ gk) (k : Nat) (pc : Word) : (s.goData gk k pc).group x = s.group x :=
  State.group_modGroup_ne _ h _

/-! ### A trap of firmware is noted -/

/-- A die that has noted a trap of its firmware. -/
def Die.trapped (d : Die) (r : TrapReport) : Die := { d with fepc := r.pc, fcause := BitVec.ofNat 32 r.kind.code, fev := 1 }

/-- The state in which a trap of firmware has been noted: what a transaction of the group held is gone, and its die is at it. -/
def State.noted (s : State) (gk : Nat) (r : TrapReport) : State :=
  ({ s with cur := { s.cur with trap := some r } }.discardTx gk).setDie (dieOf (clusterOf gk)) ((s.die (dieOf (clusterOf gk))).trapped r)

/-- What stands in it and what does not. -/
structure Noted (s : State) (gk : Nat) (r : TrapReport) (t : State) : Prop where
  rest : t = { s with cur := { s.cur with trap := some r }, dies := t.dies, groups := t.groups, slices := t.slices }
  slices : ∀ key, t.slice key = { s.slice key with locks := (t.slice key).locks }
  die : t.die (dieOf (clusterOf gk)) = (s.die (dieOf (clusterOf gk))).trapped r
  dies : ∀ x, x ≠ dieOf (clusterOf gk) → t.die x = s.die x
  group : t.group gk = { s.group gk with tx := (s.group gk).tx.discard }
  groups : ∀ x, x ≠ gk → t.group x = s.group x

theorem State.group_setDie (s : State) (k : Nat) (v : Die) (x : Nat) : (s.setDie k v).group x = s.group x := rfl

theorem State.noted_spec (s : State) (gk : Nat) (r : TrapReport) : Noted s gk r (s.noted gk r) := by
  obtain ⟨u, unlocks, discard⟩ := State.discardTx_unlocks { s with cur := { s.cur with trap := some r } } gk
  have same : ∀ x, u.group x = s.group x := fun x => by rw [unlocks.rest]; rfl
  unfold State.noted
  rw [discard]
  refine ⟨?_, unlocks.slices, State.die_setDie _ _ _, fun x hx => ?_, ?_, fun x hx => ?_⟩
  · rw [unlocks.rest]
    rfl
  · rw [State.die, State.setDie, Tab.get_set_ne _ hx, unlocks.rest]
    rfl
  · rw [State.group_setDie, State.group_modGroup, same]
  · rw [State.group_setDie, State.group_modGroup_ne _ hx, same]

section
variable {s : State} {gk k : Nat} {r : TrapReport} (priv : (s.group gk).place.priv = true)
include priv

theorem State.takeTrap_firmware : s.takeTrap gk k r =
    if (s.die (dieOf (clusterOf gk))).fev ≠ 0 then { s with cur := { s.cur with trap := some r } }.resetFirmware (dieOf (clusterOf gk))
    else if pcBlockStart (s.die (dieOf (clusterOf gk))).fvec = true then
      (s.noted gk r).goData gk k (s.die (dieOf (clusterOf gk))).fvec
    else (s.noted gk r).resetFirmware (dieOf (clusterOf gk)) := by
  unfold State.takeTrap
  refine (if_pos priv).trans ?_
  simp only [bne_iff_ne]
  rfl

/-- A trap during a trap, or one that FVEC takes nowhere, resets the firmware cluster. -/
theorem State.takeTrap_resets (second : (s.die (dieOf (clusterOf gk))).fev ≠ 0 ∨ pcBlockStart (s.die (dieOf (clusterOf gk))).fvec = false) :
    ∃ u : State, s.takeTrap gk k r = u.resetFirmware (dieOf (clusterOf gk))
      ∧ (u.die (dieOf (clusterOf gk))).fwSite = (s.die (dieOf (clusterOf gk))).fwSite
      ∧ (u.die (dieOf (clusterOf gk))).ready = (s.die (dieOf (clusterOf gk))).ready := by
  rw [State.takeTrap_firmware priv]
  by_cases fev : (s.die (dieOf (clusterOf gk))).fev = 0
  · have die := (s.noted_spec gk r).die
    rw [if_neg (not_not.2 fev), if_neg (by simpa [fev] using second)]
    exact ⟨_, rfl, by rw [die]; rfl, by rw [die]; rfl⟩
  · rw [if_pos fev]
    exact ⟨_, rfl, rfl, rfl⟩

end

/-! ### The reset of a firmware cluster -/

/-- The readiness word that counts a reset: bit 7 is clear, and the count in its top 16 bits goes up. -/
theorem readiness_counts (x : Dword) :
    ((x &&& ~~~ (0xFFFF000000000080 : Dword)) ||| (((x >>> 48) + 1) <<< 48)).getLsbD 7 = false
      ∧ (((x &&& ~~~ (0xFFFF000000000080 : Dword)) ||| (((x >>> 48) + 1) <<< 48)) >>> 48).toNat = ((x >>> 48).toNat + 1) % 65536 := by
  constructor
  · rw [BitVec.getLsbD_or, BitVec.getLsbD_and, BitVec.getLsbD_shiftLeft]
    simp
  · have top : (~~~ (0xFFFF000000000080 : Dword)) >>> 48 = 0#64 := by decide
    rw [BitVec.ushiftRight_or_distrib, BitVec.ushiftRight_and_distrib, top, BitVec.and_zero, BitVec.zero_or]
    have one : (1 : Dword).toNat = 1 := rfl
    simp only [BitVec.toNat_ushiftRight, BitVec.toNat_shiftLeft, BitVec.toNat_add, one, Nat.shiftLeft_eq,
      Nat.shiftRight_eq_div_pow]
    omega

theorem State.die_resetFirmware (s : State) (die : Nat) : ((s.resetFirmware die).die die).fev = 0
    ∧ ((s.resetFirmware die).die die).ready.getLsbD 7 = false
    ∧ (((s.resetFirmware die).die die).ready >>> 48).toNat = (((s.die die).ready >>> 48).toNat + 1) % 65536 := by
  unfold State.resetFirmware
  simp only [State.die_modDie]
  exact ⟨trivial, readiness_counts _⟩

/-! ### ERET -/

theorem execEret_illegal {s : State} (ready : Ready .eret s) (clear : (s.die (dieOf s.myCluster)).fev = 0) :
    execEret s = .next (s.trapWord .illegal) :=
  brWord_trap ready (if_pos (beq_iff_eq.2 clear)) _

theorem execEret_returns {s : State} (ready : Ready .eret s) (busy : (s.die (dieOf s.myCluster)).fev ≠ 0) :
    execEret s = .next (s.chargeMe eG1).returnTrap :=
  brWord_go ready (if_neg (mt beq_iff_eq.1 busy)) _

/-- The state whose firmware is no longer at a trap, its strand still to be sent back. -/
def State.clearedFev (s : State) : State :=
  { s.modDie (dieOf s.myCluster) fun d => { d with fev := 0 } with cur := { s.cur with moved := true } }

theorem State.returnTrap_eq (s : State) :
    s.returnTrap = s.clearedFev.goData s.cur.group s.cur.strand (s.die (dieOf s.myCluster)).fepc := rfl

theorem State.die_clearedFev (s : State) : s.clearedFev.die (dieOf s.myCluster) = { s.die (dieOf s.myCluster) with fev := 0 } :=
  State.die_modDie s (dieOf s.myCluster) fun d => { d with fev := 0 }

/-- A return from a trap behind the word's charge. -/
theorem Moves.returnTrap {s u : State} (h : Moves s u s.cur.moved s.me s.myLatches) {pc : Word}
    (hpc : (s.die (dieOf s.myCluster)).fepc = pc) :
    (u.returnTrap.die (dieOf s.myCluster)).fev = 0 ∧ (u.returnTrap.die (dieOf s.myCluster)).fepc = pc ∧ u.returnTrap.cur.moved = true
      ∧ u.returnTrap.me = s.me.withStrand s.cur.strand (·.sentTo pc (hdrSEG (s.header s.cur.group (pcSlot pc) (pcBlk pc)))) := by
  have dies : ∀ x, u.die x = s.die x := fun x => by rw [h.rest]; rfl
  have die := u.die_clearedFev
  rw [dies, h.myCluster] at die
  have back : u.returnTrap = u.clearedFev.goData s.cur.group s.cur.strand pc := by
    rw [State.returnTrap_eq, dies, h.myCluster, hpc, h.cur_group, h.cur_strand]
  have header : u.clearedFev.header s.cur.group (pcSlot pc) (pcBlk pc) = s.header s.cur.group (pcSlot pc) (pcBlk pc) :=
    congrFun (h.codeWord rfl s.cur.group (pcSlot pc) (pcBlk pc)) 0
  have me : u.clearedFev.group s.cur.group = s.me := h.me
  have cur : (u.clearedFev.goData s.cur.group s.cur.strand pc).cur.group = s.cur.group := h.cur_group
  rw [back]
  refine ⟨congrArg Die.fev die, (congrArg Die.fepc die).trans hpc, rfl, ?_⟩
  rw [State.me, cur, State.group_goData, header, me]

/-- Settles O24: what a trap of firmware notes stands in the state that goes to FVEC, and any other resets the firmware cluster. -/
theorem firmwareTraps : Obligations.FirmwareTraps := by
  unfold Obligations.FirmwareTraps
  dsimp only [exec]
  refine ⟨fun s gk k r priv => ⟨fun fev start => ?vector, fun second => ?second⟩, fun s => execEret_illegal, fun s ready busy => ?eret,
    fun s code ready => issue_ready ready _⟩
  case vector =>
    obtain ⟨rest, slices, die, dies, group, groups⟩ := s.noted_spec gk r
    rw [State.takeTrap_firmware priv, if_neg (not_not.2 fev), if_pos start]
    refine ⟨?_, slices, die, dies, fun x hx => (State.group_goData_ne _ hx _ _).trans (groups x hx), ?_⟩
    · rw [rest]
      rfl
    · rw [State.group_goData, State.header_congr (s := s) (by rw [rest]) (by rw [group]), group]
      rfl
  case second =>
    obtain ⟨u, eq, site, readiness⟩ := State.takeTrap_resets (k := k) (r := r) priv second
    obtain ⟨fev, seven, count⟩ := State.die_resetFirmware u (dieOf (clusterOf gk))
    rw [eq]
    refine ⟨fun x hx => ?_, fev, seven, by rw [count, readiness]⟩
    rw [State.group_resetFirmware, if_pos (by rw [site]; exact hx)]
  case eret =>
    exact ⟨_, execEret_returns ready busy, ((Moves.refl s).chargeMe eG1).returnTrap rfl⟩

end Sys2Proof.Machine
end

section
/-! Memory in canonical form: what it is to keep it, and the operations on state that everything is made of.

The lemmas of this part and of those below stand in groups between `mutual` and `end`. None refers to itself, in a circle or alone: a group is one
command, and hundreds of commands more would not fit in the memory that the check of this text has. -/

namespace Sys2Proof.Machine

/-- Memory in its canonical form. -/
structure Canonical (s : State) : Prop where
  wf : Memory.wf s.mem = true

/-- A next state, if there is one, has memory in its canonical form. -/
inductive Keeps : Outcome → Prop
  | next {t : State} (h : Canonical t) : Keeps (.next t)
  | fault {r : Fault} : Keeps (.fault r)
  | refused {r : Refusal} : Keeps (.refused r)

mutual
theorem Canonical.of_mem {s t} (h : Canonical s) (e : t.mem = s.mem) : Canonical t := ⟨by rw [e]; exact h.wf⟩

/-- Everything but memory changed. A proof below reads as the operation does: `h.a.b` is what `a`, then `b`, leave of a canonical memory, and
`frame` stands where a field other than memory is written. -/
theorem Canonical.frame {s cur groups clusters quiet teams launches ops reqs walks rdvs slices dies sectorPoison vaultPoison queues packets
      quotes resv dust rel ptp time cap staged fwVersion fwFloor outside inputs free nextUid} (h : Canonical s) :
    Canonical ⟨cur, groups, clusters, quiet, teams, launches, ops, reqs, walks, rdvs, slices, dies, s.mem, sectorPoison, vaultPoison, queues,
      packets, quotes, resv, dust, rel, ptp, time, cap, staged, fwVersion, fwFloor, outside, inputs, free, nextUid⟩ := ⟨h.wf⟩

theorem Canonical.foldl {s} {α : Type} {f : State → α → State} {l : List α} (h : Canonical s)
    (hf : ∀ u x, Canonical u → Canonical (f u x)) : Canonical (l.foldl f s) := foldl_keeps Canonical f hf l s h

theorem Canonical.foldl_fst {s} {α β : Type} {f : State × β → α → State × β} {l : List α} {x : β} (h : Canonical s)
    (hf : ∀ r y, Canonical r.1 → Canonical (f r y).1) : Canonical (l.foldl f (s, x)).1 := foldl_keeps (fun r => Canonical r.1) f hf l (s, x) h

theorem Canonical.of_eq {t} {α : Type} {p : State × α} {x : α} (h : Canonical p.1) (e : p = (t, x)) : Canonical t := by subst e; exact h
theorem Keeps.canonical {t} {o : Outcome} (h : Keeps o) (e : o = .next t) : Canonical t := by subst e; cases h; assumption

theorem Canonical.ite {s t} {p : Prop} [Decidable p] (hs : Canonical s) (ht : Canonical t) : Canonical (if p then s else t) := by
  split
  · exact hs
  · exact ht

theorem Keeps.ite {a b : Outcome} {p : Prop} [Decidable p] (ha : Keeps a) (hb : Keeps b) : Keeps (if p then a else b) := by
  split
  · exact ha
  · exact hb
end

/-! ### State, energy, bytes, traps -/

mutual
theorem Canonical.setGroup {s gk g} (h : Canonical s) : Canonical (s.setGroup gk g) := ⟨h.wf⟩
theorem Canonical.modGroup {s gk f} (h : Canonical s) : Canonical (s.modGroup gk f) := ⟨h.wf⟩
theorem Canonical.modCluster {s cl f} (h : Canonical s) : Canonical (s.modCluster cl f) := ⟨h.wf⟩
theorem Canonical.setTeam {s t v} (h : Canonical s) : Canonical (s.setTeam t v) := ⟨h.wf⟩
theorem Canonical.modTeam {s t f} (h : Canonical s) : Canonical (s.modTeam t f) := ⟨h.wf⟩
theorem Canonical.setLaunch {s l v} (h : Canonical s) : Canonical (s.setLaunch l v) := ⟨h.wf⟩
theorem Canonical.modLaunch {s l f} (h : Canonical s) : Canonical (s.modLaunch l f) := ⟨h.wf⟩
theorem Canonical.setOp {s k v} (h : Canonical s) : Canonical (s.setOp k v) := ⟨h.wf⟩
theorem Canonical.setReq {s k v} (h : Canonical s) : Canonical (s.setReq k v) := ⟨h.wf⟩
end

mutual
theorem Canonical.modSlice {s k f} (h : Canonical s) : Canonical (s.modSlice k f) := ⟨h.wf⟩
theorem Canonical.setDie {s k v} (h : Canonical s) : Canonical (s.setDie k v) := ⟨h.wf⟩
theorem Canonical.modDie {s k f} (h : Canonical s) : Canonical (s.modDie k f) := ⟨h.wf⟩
theorem Canonical.setQuote {s k v} (h : Canonical s) : Canonical (s.setQuote k v) := ⟨h.wf⟩
theorem Canonical.modQuote {s k f} (h : Canonical s) : Canonical (s.modQuote k f) := ⟨h.wf⟩
theorem Canonical.modQuarter {s cl q f} (h : Canonical s) : Canonical (s.modQuarter cl q f) := ⟨h.wf⟩
theorem Canonical.modMe {s f} (h : Canonical s) : Canonical (s.modMe f) := ⟨h.wf⟩
theorem Canonical.modStr {s f} (h : Canonical s) : Canonical (s.modStr f) := ⟨h.wf⟩
theorem Canonical.writeMem {s pa l} (h : Canonical s) : Canonical (s.writeMem pa l) := ⟨s.writeMem_wf _ _ h.wf⟩
theorem Canonical.setMemPoison {s sector b} (h : Canonical s) : Canonical (s.setMemPoison sector b) := ⟨h.wf⟩
end

mutual
theorem Canonical.charge {s cl qidx amount} (h : Canonical s) : Canonical (s.charge cl qidx amount) := h.of_mem (s.charge_mem ..)
theorem Canonical.chargeMe {s amount} (h : Canonical s) : Canonical (s.chargeMe amount) := h.of_mem (s.chargeMe_mem ..)
theorem Canonical.chargeOverhead {s die amount} (h : Canonical s) : Canonical (s.chargeOverhead die amount) := ⟨h.wf⟩
theorem Canonical.addScaled {s cl qidx amount} (h : Canonical s) : Canonical (s.addScaled cl qidx amount) := ⟨h.wf⟩
theorem Canonical.chargeWb {s cl qidx amount} (h : Canonical s) : Canonical (s.chargeWb cl qidx amount) := .ite h.addScaled h.chargeOverhead
theorem Canonical.newOp {s o} (h : Canonical s) : Canonical (s.newOp o).1 := ⟨h.wf⟩
theorem Canonical.pulse {s path} (h : Canonical s) : Canonical (s.pulse path) := ⟨h.wf⟩
theorem Canonical.endOp {s k} (h : Canonical s) : Canonical (s.endOp k) := h.of_mem (s.endOp_mem ..)
theorem Canonical.flushLine {s key l} (h : Canonical s) : Canonical (s.flushLine key l) := ⟨s.flushLine_wf _ _ h.wf⟩
theorem Canonical.allocLine {s key l qidx} (h : Canonical s) : Canonical (s.allocLine key l qidx) := ⟨s.allocLine_wf _ _ _ h.wf⟩
end

mutual
theorem Canonical.decideWait {s e code v} (h : Canonical s) : Canonical (s.decideWait e code v) := h.of_mem (s.decideWait_mem ..)
theorem Canonical.chargeEval {s key e} (h : Canonical s) : Canonical (s.chargeEval key e) := h.of_mem (s.chargeEval_mem ..)
theorem Canonical.evalMon {s key pa n} (h : Canonical s) : Canonical (s.evalMon key pa n) := h.of_mem (s.evalMon_mem ..)
theorem Canonical.dropCopy {s die l} (h : Canonical s) : Canonical (s.dropCopy die l) := h.of_mem (s.dropCopy_mem ..)

theorem Canonical.stampLine {s l mask data poison owner} (h : Canonical s) : Canonical (s.stampLine l mask data poison owner) :=
  ⟨s.stampLine_wf _ _ _ _ _ h.wf⟩

theorem Canonical.homeWrite {s l mask data poison owner} (h : Canonical s) : Canonical (s.homeWrite l mask data poison owner) :=
  ⟨s.homeWrite_wf _ _ _ _ _ h.wf⟩

theorem Canonical.vaultPut {s pa bs mark} (h : Canonical s) : Canonical (s.vaultPut pa bs mark) := ⟨s.vaultPut_wf _ _ _ h.wf⟩
theorem Canonical.vaultWrite {s pa bs mark} (h : Canonical s) : Canonical (s.vaultWrite pa bs mark) := ⟨s.vaultWrite_wf _ _ _ h.wf⟩

theorem Canonical.globalWrite {s pa bs owner poison} (h : Canonical s) : Canonical (s.globalWrite pa bs owner poison) :=
  ⟨s.globalWrite_wf _ _ _ _ h.wf⟩
end

mutual
theorem Canonical.sysWrite {s pa bs owner} (h : Canonical s) : Canonical (s.sysWrite pa bs owner) := ⟨s.sysWrite_wf _ _ _ h.wf⟩
theorem Canonical.decideScratch {s gk code v} (h : Canonical s) : Canonical (s.decideScratch gk code v) := ⟨h.wf⟩
theorem Canonical.evalScr {s team a n} (h : Canonical s) : Canonical (s.evalScr team a n) := h.of_mem (s.evalScr_mem ..)
theorem Canonical.scrPut {s team a bs poison late} (h : Canonical s) : Canonical (s.scrPut team a bs poison late) := h.of_mem (s.scrPut_mem ..)

theorem Canonical.scrWrite {s team a bs poison late} (h : Canonical s) :
    Canonical (s.scrWrite team a bs poison late) := h.of_mem (s.scrWrite_mem ..)

theorem Canonical.scrStore {s team a bs mark} (h : Canonical s) : Canonical (s.scrStore team a bs mark) := h.scrPut

theorem Canonical.scrStores {s team l} (h : Canonical s) : Canonical (s.scrStores team l) := by
  unfold State.scrStores
  extract_lets c
  cases injWord (s.cluster c) (s.team team) with
  | some _ => exact .ite (h.foldl fun _ _ hu => hu.scrPut).modTeam.modCluster (h.foldl fun _ _ hu => hu.scrPut)
  | none => exact h.foldl fun _ _ hu => hu.scrPut

theorem Canonical.barrierUpdate {s team a da db} (h : Canonical s) : Canonical (s.barrierUpdate team a da db) := h.of_mem (s.barrierUpdate_mem ..)
theorem Canonical.logCause {s qidx code} (h : Canonical s) : Canonical (s.logCause qidx code) := ⟨h.wf⟩

theorem Canonical.noteMasks {s t l} (h : Canonical s) : Canonical (s.noteMasks t l) :=
  h.foldl fun _ _ hu => .ite (hu.foldl fun _ _ hv => .ite hv.logCause hv) hu
end

mutual
theorem Canonical.checkFigures {s qidx} (h : Canonical s) : Canonical (s.checkFigures qidx) := .ite (.ite h.logCause (.ite h.logCause h)) h
theorem Canonical.foldMeter {s cl qidx} (h : Canonical s) : Canonical (s.foldMeter cl qidx) := h.of_mem (s.mem_foldMeter ..)
theorem Canonical.fall {s cl qidx} (h : Canonical s) : Canonical (s.fall cl qidx) := .ite h (h.foldl fun _ _ hu => hu.modCluster).modCluster
theorem Canonical.retarget {s cl} (h : Canonical s) : Canonical (s.retarget cl) := ⟨h.wf⟩
theorem Canonical.goData {s gk k pc} (h : Canonical s) : Canonical (s.goData gk k pc) := ⟨h.wf⟩
theorem Canonical.unlock {s op} (h : Canonical s) : Canonical (s.unlock op) := h.foldl fun _ _ hu => .ite hu.modSlice hu

theorem Canonical.discardTx {s gk} (h : Canonical s) : Canonical (s.discardTx gk) := by
  unfold State.discardTx
  refine (h.foldl fun u e hu => ?_).modGroup
  cases e.2.kind with
  | commit => exact .ite hu.unlock hu
  | _ => exact hu

theorem Canonical.sweepRdv {s k} (h : Canonical s) : Canonical (s.sweepRdv k) := .ite h.frame h
theorem Canonical.passRdv {s k off} (h : Canonical s) : Canonical (s.passRdv k off) := ⟨h.wf⟩

theorem Canonical.failRdv {s k code} (h : Canonical s) : Canonical (s.failRdv k code) := by
  unfold State.failRdv
  refine (h.foldl fun u o hu => ?_).frame.sweepRdv
  extract_lets
  cases (u.op o).kind with
  | mma => exact .endOp (.ite hu.modGroup hu)
  | _ => exact hu
end

mutual
theorem Canonical.abandonRdvs {s g} (h : Canonical s) : Canonical (s.abandonRdvs g) := by
  unfold State.abandonRdvs
  refine h.foldl fun u x hu => ?_
  extract_lets
  exact .ite (.ite hu.passRdv.failRdv hu.passRdv.sweepRdv) hu

theorem Canonical.leaveGang {s g} (h : Canonical s) : Canonical (s.leaveGang g) := by
  unfold State.leaveGang
  refine h.foldl fun u x hu => ?_
  extract_lets
  exact .ite hu.passRdv.sweepRdv hu

theorem Canonical.endFuse {s gk code} (h : Canonical s) : Canonical (s.endFuse gk code) := by
  unfold State.endFuse
  dsimp only
  cases s.buddy gk with
  | none => exact h
  | some _ => exact h.modGroup

theorem Canonical.freeWaits {s gk} (h : Canonical s) : Canonical (s.freeWaits gk) := by
  unfold State.freeWaits
  cases (s.group gk).wait with
  | monitor => exact h.modSlice
  | scratch => exact h.modCluster
  | _ => exact h

theorem Canonical.discardHeld {s gk} (h : Canonical s) : Canonical (s.discardHeld gk) := ⟨h.wf⟩

theorem Canonical.halt {s gk r} (h : Canonical s) : Canonical (s.halt gk r) := by
  unfold State.halt
  refine .logCause (.modLaunch ?_)
  exact .ite h.freeWaits.abandonRdvs.endFuse.discardHeld.discardTx.modGroup.modTeam.sysWrite <|
    h.freeWaits.abandonRdvs.endFuse.discardHeld.discardTx.modGroup.modTeam

theorem Canonical.resetFirmware {s die} (h : Canonical s) : Canonical (s.resetFirmware die) := ⟨h.wf⟩

theorem Canonical.takeTrap {s gk strand r} (h : Canonical s) : Canonical (s.takeTrap gk strand r) :=
  .ite (.ite h.frame.resetFirmware (.ite h.frame.discardTx.setDie.goData h.frame.discardTx.setDie.resetFirmware)) h.frame.halt

theorem Canonical.trapWord {s kind lane imm addr} (h : Canonical s) : Canonical (s.trapWord kind lane imm addr) := h.takeTrap
theorem Canonical.returnTrap {s} (h : Canonical s) : Canonical s.returnTrap := ⟨h.wf⟩
end

end Sys2Proof.Machine
end

section
/-! Latches and results, the flow of a strand, translation, the fabric and the fills of lines keep memory canonical. -/

namespace Sys2Proof.Machine

/-! ### Issue and results -/

mutual
theorem Canonical.issue {s i k} (h : Canonical s) (hk : ∀ u, Canonical u → Keeps (k u)) : Keeps (issue i s k) :=
  .ite (.next h.trapWord) (.ite (.next h.trapWord) (hk _ h))

theorem Canonical.enterLatch {s gk r l} (h : Canonical s) : Canonical (s.enterLatch gk r l) := ⟨h.wf⟩
theorem Canonical.laneResult {s pipe w d n f} (h : Canonical s) : Canonical (s.laneResult pipe w d n f) := .enterLatch (.ite h h.modMe)

theorem Canonical.laneWord {s i pipe w d n cost f} (h : Canonical s) : Keeps (laneWord i pipe w d n cost f s) :=
  h.issue fun _ hu => .next hu.chargeMe.laneResult

theorem Canonical.gResult {s w d v} (h : Canonical s) : Canonical (s.gResult w d v) := .enterLatch (.ite h h.modMe)
theorem Canonical.gResult64 {s w d v} (h : Canonical s) : Canonical (s.gResult64 w d v) := .enterLatch (.ite h h.modMe)
theorem Canonical.groupWord {s i w d f} (h : Canonical s) : Keeps (groupWord i w d f s) := h.issue fun _ hu => .next hu.chargeMe.gResult
theorem Canonical.groupWord64 {s i w d f} (h : Canonical s) : Keeps (groupWord64 i w d f s) := h.issue fun _ hu => .next hu.chargeMe.gResult64
end

/-! ### The flow of a strand -/

mutual
theorem Canonical.enterAt {s gk k pc skip} (h : Canonical s) : Canonical (s.enterAt gk k pc skip) := ⟨h.wf⟩
theorem Canonical.enterBlock {s gk k slot blk skip} (h : Canonical s) : Canonical (s.enterBlock gk k slot blk skip) := ⟨h.wf⟩
theorem Canonical.fallThrough {s gk k} (h : Canonical s) : Canonical (s.fallThrough gk k) := .ite h.modGroup (.ite h.enterBlock h.takeTrap)
theorem Canonical.fallMe {s} (h : Canonical s) : Canonical s.fallMe := h.fallThrough
theorem Canonical.countBackEdge {s} (h : Canonical s) : Canonical s.countBackEdge := ⟨h.wf⟩
end

mutual
theorem Canonical.missed {s} (h : Canonical s) : Canonical s.missed := ⟨h.wf⟩
theorem Canonical.moved {s} (h : Canonical s) : Canonical s.moved := ⟨h.wf⟩
theorem Canonical.branchGo {s disp} (h : Canonical s) : Canonical (branchGo s disp) := .ite h.countBackEdge.enterBlock.moved h.enterBlock.moved
theorem Canonical.completeJoin {s gk k} (h : Canonical s) : Canonical (s.completeJoin gk k) := h.modGroup.fallThrough

theorem Canonical.settleJoins {s gk} (h : Canonical s) : Canonical (s.settleJoins gk) := by
  unfold State.settleJoins
  refine h.foldl fun u k hu => ?_
  extract_lets g
  cases (g.strand k).park with
  | join => exact .ite hu.completeJoin hu
  | _ => exact hu

theorem Canonical.keepBlock {s gk k} (h : Canonical s) : Canonical (s.keepBlock gk k) := ⟨h.wf⟩
end

/-! ### Requests in the fabric -/

mutual
theorem Canonical.send {s kind cl op qidx legs} (h : Canonical s) : Canonical (s.send kind cl op qidx legs).1 := ⟨h.wf⟩
theorem Canonical.ageAt {s v} (h : Canonical s) : Canonical (s.ageAt v) := ⟨h.wf⟩
theorem Canonical.dropSectors {s die l mask} (h : Canonical s) : Canonical (s.dropSectors die l mask) := .ite h h.modSlice

theorem Canonical.hop {s k} (h : Canonical s) : Canonical (s.hop k) := by
  unfold State.hop
  extract_lets r _ _ _ u
  have hu : Canonical u := h.setReq
  clear_value u
  split
  · exact .ite hu.modCluster hu
  · exact hu.ageAt
  · cases r.kind with
    | wb => exact hu.dropSectors
    | atom => exact hu.dropSectors
    | _ => exact hu
  · exact hu
end

/-! ### Translation -/

mutual
theorem Canonical.fillHome {s l qidx ks} (h : Canonical s) : Canonical (s.fillHome l qidx ks) := .ite h.allocLine h.allocLine.modSlice

theorem Canonical.askFill {s die sector cl qidx bytes req} (h : Canonical s) : Canonical (s.askFill die sector cl qidx bytes req) := by
  unfold State.askFill
  extract_lets
  refine .ite h ?_
  cases s.fillOf die (sector / 4) with
  | some _ => exact h.setReq
  | none => exact h.send.modSlice

theorem Canonical.wantHome {s cl qidx bytes secs} (h : Canonical s) : Canonical (s.wantHome cl qidx bytes secs) := h.foldl fun _ _ hu => hu.askFill
theorem Canonical.chargeWalk {s cl qidx reads} (h : Canonical s) : Canonical (s.chargeWalk cl qidx reads) := h.foldl fun _ _ hu => hu.charge
theorem Canonical.tlbFill {s cl e} (h : Canonical s) : Canonical (s.tlbFill cl e) := ⟨h.wf⟩
theorem Canonical.dieTlbFill {s die e} (h : Canonical s) : Canonical (s.dieTlbFill die e) := ⟨h.wf⟩
theorem Canonical.handLeaf {s k e} (h : Canonical s) : Canonical (s.handLeaf k e) := h.foldl fun _ _ hu => .ite hu.modGroup hu
end

mutual
theorem Canonical.tlbUse {s cl qidx vas} (h : Canonical s) : Canonical (s.tlbUse cl qidx vas) := ⟨h.wf⟩
theorem Canonical.dieTlbUse {s die qidx va} (h : Canonical s) : Canonical (s.dieTlbUse die qidx va) := ⟨h.wf⟩

theorem Canonical.joinWalk {s cl qidx va op} (h : Canonical s) : Canonical (s.joinWalk cl qidx va op).1 := by
  unfold State.joinWalk
  extract_lets
  split <;> exact h.frame

theorem Canonical.askWalk {s va} (h : Canonical s) : Canonical (s.askWalk va) := .ite h.missed h.missed.joinWalk.modMe

theorem Canonical.engineLook {s op o va} (h : Canonical s) : Canonical (s.engineLook op o va).1 := by
  unfold State.engineLook
  extract_lets die
  split
  · exact h
  · split
    · exact h.tlbUse
    · cases List.find? (fun e => e.covers o.qidx va) (s.die die).tlb with
      | some _ => exact h.dieTlbUse.tlbFill
      | none =>
        dsimp only
        split
        · exact h
        · split
          · exact h
          · exact h.joinWalk

theorem Canonical.onAccess {s a k} (h : Canonical s) (hk : ∀ u x, Canonical u → Canonical (k u x)) : Canonical (s.onAccess a k) := by
  unfold State.onAccess
  cases a with
  | trap => exact h.trapWord
  | miss => exact h.askWalk
  | ok => exact hk _ _ h.tlbUse

theorem Canonical.endWalk {s k failed} (h : Canonical s) : Canonical (s.endWalk k failed) :=
  .foldl (.ite (h.frame.foldl fun _ _ hu => .ite hu.setOp hu) h.frame) (fun _ _ hu => .ite hu.modGroup hu)

theorem Canonical.execPageWalkComplete {s walk} (h : Canonical s) : Keeps (execPageWalkComplete walk s) := by
  unfold Machine.execPageWalkComplete
  extract_lets w fill
  refine .ite (.next h) (.ite (.next h.endWalk) ?_)
  split
  · exact .next (h.dieTlbUse.foldl fun _ _ hu => hu.tlbFill).handLeaf.endWalk
  · dsimp only
    refine .ite (.next h) (.ite (.next h.wantHome) ?_)
    split
    · exact .next h.chargeWalk.endWalk
    · exact .next (h.chargeWalk.dieTlbFill.foldl fun _ _ hu => hu.tlbFill).handLeaf.endWalk
end

end Sys2Proof.Machine
end

section
/-! Caches, control flow and system words keep memory canonical. -/

namespace Sys2Proof.Machine

/-! ### Caches and the home slice -/

mutual
theorem Canonical.setL1 {s cl l v} (h : Canonical s) : Canonical (s.setL1 cl l v) := ⟨h.wf⟩
theorem Canonical.pressGroup {s gk} (h : Canonical s) : Canonical (s.pressGroup gk) := ⟨h.wf⟩
theorem Canonical.press {s cl l} (h : Canonical s) : Canonical (s.press cl l) := h.foldl fun _ _ hu => .ite hu.pressGroup hu

theorem Canonical.dropRelease {s cl l} (h : Canonical s) : Canonical (s.dropRelease cl l) :=
  .ite (h.foldl fun _ _ hu => .ite hu.modGroup hu).frame (h.foldl fun _ _ hu => .ite hu.modGroup hu)

theorem Canonical.refill {s whose sectors} (h : Canonical s) : Canonical (s.refill whose sectors) := ⟨h.wf⟩
theorem Canonical.freshen {s cl sec} (h : Canonical s) : Canonical (s.freshen cl sec) := .refill (.ite h.setL1 h)

theorem Canonical.writeBack {s cl l op sys} (h : Canonical s) : Canonical (s.writeBack cl l op sys).1 := by
  unfold State.writeBack
  extract_lets
  split
  · exact h
  · exact h.setL1.dropRelease.refill.send

theorem Canonical.writeBacks {s cl sys l} (h : Canonical s) : Canonical (s.writeBacks cl sys l).1 := by
  induction l generalizing s with
  | nil => exact h
  | cons a l ih => exact ih h.writeBack
end

mutual
theorem Canonical.l1Alloc {s cl l} (h : Canonical s) : Canonical (s.l1Alloc cl l) := by
  unfold State.l1Alloc
  extract_lets c
  refine .ite h ?_
  refine .ite h.setL1 ?_
  cases l1Victim (c.l1Set l) with
  | none => exact h
  | some _ => exact h.writeBack.setL1.setL1

theorem Canonical.l1Store {s cl pa n v qidx held} (h : Canonical s) : Canonical (s.l1Store cl pa n v qidx held) := h.l1Alloc.setL1
theorem Canonical.acquireL1 {s cl} (h : Canonical s) : Canonical (s.acquireL1 cl) := ⟨h.wf⟩
theorem Canonical.dropL1Copies {s pa n} (h : Canonical s) : Canonical (s.dropL1Copies pa n) := ⟨h.wf⟩

theorem Canonical.takeLanes {s cl k sector} (h : Canonical s) : Canonical (s.takeLanes cl k sector) := by
  unfold State.takeLanes
  extract_lets o
  cases o.kind with
  | load => exact h.setOp
  | _ => exact h

theorem Canonical.dropOpReq {s k req} (h : Canonical s) : Canonical (s.dropOpReq k req) := .ite h.setOp h
theorem Canonical.answerFill {s k cl sec v} (h : Canonical s) : Canonical (s.answerFill k cl sec v) := ⟨h.wf⟩

theorem Canonical.execSectorFillArrival {s req} (h : Canonical s) : Keeps (execSectorFillArrival req s) := by
  unfold Machine.execSectorFillArrival
  extract_lets
  split
  · exact .ite (.next h) (.ite (.next h.charge.ageAt.answerFill) (.next h.askFill))
  · exact .ite (.next h) (.ite (.next h.press) (.next h.setReq.dropOpReq.l1Alloc.setL1.takeLanes.refill))
  · exact .next h
end

mutual
theorem Canonical.sendInvs {s l cl qidx} (h : Canonical s) : Canonical (s.sendInvs l cl qidx) := h.modSlice.foldl fun _ _ hu => hu.send

theorem Canonical.installCopy {s die sec qidx bs p} (h : Canonical s) : Canonical (s.installCopy die sec qidx bs p) := by
  unfold State.installCopy
  exact h.allocLine.modSlice

theorem Canonical.deliverFills {s die sec v} (h : Canonical s) : Canonical (s.deliverFills die sec v) := by
  unfold State.deliverFills
  refine h.foldl fun u e hu => ?_
  split
  · exact .ite hu.charge.answerFill hu
  · exact hu

theorem Canonical.endFill {s req die l} (h : Canonical s) : Canonical (s.endFill req die l) := ⟨h.wf⟩
theorem Canonical.homeFilled {s l qidx ws} (h : Canonical s) : Canonical (s.homeFilled l qidx ws) := (h.foldl fun _ _ hu => hu.charge).fillHome

theorem Canonical.remoteFilled {s die l qidx ws} (h : Canonical s) : Canonical (s.remoteFilled die l qidx ws) :=
  .ite ((h.foldl fun _ _ hu => .ite hu.charge.deliverFills.installCopy hu.charge.deliverFills).modSlice) <|
  h.foldl fun _ _ hu => .ite hu.charge.deliverFills.installCopy hu.charge.deliverFills

theorem Canonical.execL2FillArrival {s req} (h : Canonical s) : Keeps (execL2FillArrival req s) := by
  unfold Machine.execL2FillArrival
  dsimp only
  cases (s.req req).live && s.served req with
  | false => exact .next h
  | true =>
    cases (s.req req).kind with
    | l2fill =>
      refine .ite (.next (.endFill (.ite h.ageAt.homeFilled (h.ageAt.homeFilled.foldl fun _ _ hu => hu.deliverFills)))) ?_
      refine .ite (.next (h.foldl fun _ _ hu => hu.askFill)) ?_
      refine .ite ?_ ?_
      · split
        · exact .next h.sendInvs
        · exact .next h
      · exact .next h.ageAt.remoteFilled.endFill
    | _ => exact .next h

theorem Canonical.execWritebackFlitOffer {s req} (h : Canonical s) : Keeps (execWritebackFlitOffer req s) := by
  unfold Machine.execWritebackFlitOffer
  extract_lets r
  cases r.live && !r.offered && r.legs == [Leg.slice (homeSlice (r.wbLine * 256))] with
  | false => exact .next h
  | true =>
    cases r.kind with
    | wb => exact .ite (.next h.setReq) (.ite (.next h) (.next h.setReq.modSlice))
    | _ => exact .next h
end

mutual
theorem Canonical.placeWrite {s req l sys} (h : Canonical s) : Canonical (s.placeWrite req l sys) := h.sendInvs.setReq

theorem Canonical.execL1WritebackArrival {s req} (h : Canonical s) : Keeps (execL1WritebackArrival req s) := by
  unfold Machine.execL1WritebackArrival
  extract_lets r
  cases r.live && r.offered with
  | false => exact .next h
  | true =>
    cases r.kind with
    | wb => exact .ite (.next h) (.next h.chargeWb.stampLine.noteMasks.modSlice.placeWrite)
    | _ => exact .next h

theorem Canonical.execDirectoryInvalidation {s req} (h : Canonical s) : Keeps (execDirectoryInvalidation req s) := by
  unfold Machine.execDirectoryInvalidation
  extract_lets r
  cases r.live && r.legs.isEmpty with
  | false => exact .next h
  | true =>
    cases r.kind with
    | inv => exact .next h.dropCopy.setReq
    | _ => exact .next h

theorem Canonical.ackStamped {s l d} (h : Canonical s) : Canonical (s.ackStamped l d) := ⟨h.wf⟩

theorem Canonical.execInvalidationAck {s req} (h : Canonical s) : Keeps (execInvalidationAck req s) := by
  unfold Machine.execInvalidationAck
  extract_lets r
  cases r.live && r.legs.isEmpty with
  | false => exact .next h
  | true =>
    cases r.kind with
    | invAck => exact .next h.setReq.modSlice.ackStamped
    | _ => exact .next h

theorem Canonical.execRemoteEvictionNotice {s die line} (h : Canonical s) : Keeps (execRemoteEvictionNotice die line s) :=
  .ite (.next h.modSlice) (.next h)

theorem Canonical.execWriteToMemoryComplete {s req} (h : Canonical s) : Keeps (execWriteToMemoryComplete req s) := by
  unfold Machine.execWriteToMemoryComplete
  extract_lets r
  cases r.live && s.served req with
  | false => exact .next h
  | true =>
    cases r.kind with
    | memWrite => exact .next h.ageAt.flushLine.setReq
    | _ => exact .next h

theorem Canonical.execFabricPromotion {s req} (h : Canonical s) : Keeps (execFabricPromotion req s) := .ite (.next h.setReq) (.next h)
end

/-! ### Control flow -/

mutual
theorem Canonical.brWord {s i trap go} (h : Canonical s) (hgo : ∀ u, Canonical u → Canonical (go u)) : Keeps (brWord i trap go s) := by
  unfold Machine.brWord
  refine h.issue fun u hu => ?_
  cases trap u with
  | some _ => exact .next hu.trapWord
  | none => exact .next (hgo _ hu.chargeMe)

theorem Canonical.condBranch {s i taken disp} (h : Canonical s) : Keeps (condBranch i taken disp s) :=
  h.brWord fun _ hu => .ite hu.branchGo hu.fallMe.moved

theorem Canonical.execNop {s} (h : Canonical s) : Keeps (execNop s) := h.issue fun _ hu => .next hu
theorem Canonical.execBra {s disp} (h : Canonical s) : Keeps (execBra disp s) := h.condBranch
theorem Canonical.execBany {s p disp} (h : Canonical s) : Keeps (execBany p disp s) := h.condBranch
theorem Canonical.execBall {s p disp} (h : Canonical s) : Keeps (execBall p disp s) := h.condBranch
theorem Canonical.execBnone {s p disp} (h : Canonical s) : Keeps (execBnone p disp s) := h.condBranch
end

mutual
theorem Canonical.bdivSplit {s p jb disp} (h : Canonical s) : Canonical (bdivSplit p jb disp s) :=
  .ite (.moved (.fallMe (.enterBlock (.modMe (.ite h.countBackEdge h))))) (.moved (.enterBlock (.modStr (.ite h.countBackEdge h))))

theorem Canonical.execBdiv {s p jb disp} (h : Canonical s) : Keeps (execBdiv p jb disp s) :=
  h.brWord fun _ hu => .ite hu.fallMe.moved (.ite hu.branchGo hu.bdivSplit)

theorem Canonical.settleEnd {s gk} (h : Canonical s) : Canonical (s.settleEnd gk) := .ite h.modGroup.abandonRdvs.endFuse h

theorem Canonical.dissolve {s gk k} (h : Canonical s) : Canonical (s.dissolve gk k) := by
  unfold State.dissolve
  refine .retarget (.settleEnd (.settleJoins ?_))
  extract_lets
  cases List.find? (fun x => x != k) (s.group gk).liveStrands with
  | none => exact h
  | some _ => exact h.modGroup

theorem Canonical.execJoin {s bound} (h : Canonical s) : Keeps (execJoin bound s) :=
  h.brWord fun _ hu => .ite hu.dissolve.moved (.ite hu.completeJoin.moved hu.modStr.moved)

theorem Canonical.execTrap {s code} (h : Canonical s) : Keeps (execTrap code s) := h.issue fun _ hu => .next hu.trapWord
theorem Canonical.execExit {s} (h : Canonical s) : Keeps (execExit s) := h.brWord fun _ hu => hu.modStr.settleJoins.settleEnd.moved
theorem Canonical.execEret {s} (h : Canonical s) : Keeps (execEret s) := h.brWord fun _ hu => hu.returnTrap
end

mutual
theorem Canonical.execYield {s} (h : Canonical s) : Keeps (execYield s) := h.brWord fun _ hu => hu.modMe.fallMe.moved

theorem Canonical.execLoop {s g disp} (h : Canonical s) : Keeps (execLoop g disp s) := by
  unfold Machine.execLoop
  refine h.brWord fun u hu => ?_
  exact .ite hu.modMe.branchGo hu.modMe.fallMe.moved

theorem Canonical.execCall {s disp} (h : Canonical s) : Keeps (execCall disp s) := by
  unfold Machine.execCall
  refine h.brWord fun u hu => ?_
  extract_lets
  exact hu.modStr.enterBlock.moved

theorem Canonical.execRet {s} (h : Canonical s) : Keeps (execRet s) := by
  unfold Machine.execRet
  refine h.brWord fun u hu => ?_
  extract_lets
  split
  · exact hu
  · exact hu.countBackEdge.modStr.enterAt.moved

theorem Canonical.execJmpf {s slot seg blk} (h : Canonical s) : Keeps (execJmpf slot seg blk s) := by
  unfold Machine.execJmpf
  refine h.brWord fun u hu => ?_
  exact .moved (.enterBlock (.modStr (.ite hu.countBackEdge hu)))

theorem Canonical.execStrandMerge {s g lo hi} (h : Canonical s) : Keeps (execStrandMerge g lo hi s) :=
  .ite (.next h.modGroup.settleJoins.settleEnd) (.next h)

theorem Canonical.execJoinDeadline {s g st} (h : Canonical s) : Keeps (execJoinDeadline g st s) := by
  unfold Machine.execJoinDeadline
  cases ((s.group g).strand st).park with
  | join => exact .ite (.next h.completeJoin) (.next h)
  | _ => exact .next h

theorem Canonical.execSwitchHoldBreak {s cl q} (h : Canonical s) : Keeps (execSwitchHoldBreak cl q s) := by
  unfold Machine.execSwitchHoldBreak
  extract_lets
  cases (s.quarter cl q).hold with
  | some _ => exact .ite (.next h.modQuarter.modGroup) (.next h)
  | none => exact .next h
end

/-! ### System words -/

mutual
theorem Canonical.forwarded {s v k} (h : Canonical s) (hk : ∀ u x, Canonical u → Canonical (k u x)) : Canonical (forwarded s v k) := by
  unfold Machine.forwarded
  cases s.partner s.cur.group with
  | none => exact .ite h.missed (hk _ _ h)
  | some _ =>
    refine .ite (.ite h.missed (hk _ _ h.modMe)) ?_
    split
    · exact .ite h.missed (hk _ _ h.modGroup)
    · exact h.missed

theorem Canonical.doomMe {s code} (h : Canonical s) : Canonical (s.doomMe code) := ⟨h.wf⟩
theorem Canonical.unlessTx {s k} (h : Canonical s) (hk : ∀ u, Canonical u → Canonical (k u)) : Canonical (unlessTx s k) := .ite h.doomMe (hk _ h)

theorem Canonical.readWord {s i d f} (h : Canonical s) : Keeps (readWord i d f s) :=
  h.issue fun _ hu => .next (hu.forwarded fun _ _ hw => hw.chargeMe.gResult64)

theorem Canonical.execRdclk {s d} (h : Canonical s) : Keeps (execRdclk d s) := h.readWord
theorem Canonical.execRdsync {s d} (h : Canonical s) : Keeps (execRdsync d s) := h.readWord
theorem Canonical.execRdprog {s d} (h : Canonical s) : Keeps (execRdprog d s) := h.groupWord64
theorem Canonical.execRdnrg {s d} (h : Canonical s) : Keeps (execRdnrg d s) := h.readWord
theorem Canonical.execSetpl {s d a} (h : Canonical s) : Keeps (execSetpl d a s) := h.issue fun _ hu => .next hu.chargeMe.modStr.retarget.gResult

theorem Canonical.execCkpt {s d} (h : Canonical s) : Keeps (execCkpt d s) :=
  h.brWord fun _ hu => .ite hu.doomMe.fallMe.moved (.ite hu.modMe.modStr.frame.moved hu.modMe.fallMe.moved)
end

mutual
theorem Canonical.flushL1 {s cl} (h : Canonical s) : Canonical (s.flushL1 cl) := h.writeBacks.modCluster
theorem Canonical.writeSplit {s cl v} (h : Canonical s) : Canonical (s.writeSplit cl v) := .ite h.flushL1.modCluster h
theorem Canonical.writeDuty {s cl v} (h : Canonical s) : Canonical (s.writeDuty cl v) := ⟨h.wf⟩
theorem Canonical.writeInj {s cl v} (h : Canonical s) : Canonical (s.writeInj cl v) := ⟨h.wf⟩

theorem Canonical.writePriv {s die n v} (h : Canonical s) : Canonical (s.writePriv die n v) :=
  .ite h.modDie (.ite h.modDie (.ite h.writeSplit (.ite h.writeDuty (.ite h.writeInj h))))

theorem Canonical.execMrs {s d a} (h : Canonical s) : Keeps (execMrs d a s) := h.groupWord
theorem Canonical.execMsr {s n a} (h : Canonical s) : Keeps (execMsr n a s) := h.issue fun _ hu => .next hu.chargeMe.writePriv
theorem Canonical.execSramsplitWrite {s cl v} (h : Canonical s) : Keeps (execSramsplitWrite cl v s) := .next h.writeSplit
theorem Canonical.execDutyClear {s cl v} (h : Canonical s) : Keeps (execDutyClear cl v s) := .next h.writeDuty
theorem Canonical.execInjWrite {s cl v} (h : Canonical s) : Keeps (execInjWrite cl v s) := .next h.writeInj
end

/-! ### Device windows -/

mutual
theorem Canonical.setWinByte {s pa b} (h : Canonical s) : Canonical (s.setWinByte pa b) := .ite h (.ite h.modDie (.ite h.modDie h))

theorem Canonical.winWrite {s pa bs} (h : Canonical s) : Canonical (s.winWrite pa bs) := by
  induction bs generalizing s pa with
  | nil => exact h
  | cons b bs ih => exact ih h.setWinByte
end

end Sys2Proof.Machine
end

section
/-! Loads, stores and atomics keep memory canonical. -/

namespace Sys2Proof.Machine

/-! ### Loads, stores, code -/

mutual
theorem Canonical.signStore {s size l} (h : Canonical s) : Canonical (s.signStore size l) := .ite h.modMe h

theorem Canonical.askSectors {s k l} (h : Canonical s) : Canonical (s.askSectors k l) := by
  induction l generalizing s with
  | nil => exact h
  | cons sec l ih => exact ih h.send.setOp

theorem Canonical.startGlobal {s k} (h : Canonical s) : Canonical (s.startGlobal k) := by
  unfold State.startGlobal
  extract_lets o
  cases o.kind with
  | load => exact (h.setOp.chargeMe.foldl fun _ _ hu => hu.setL1).askSectors
  | _ => exact h

theorem Canonical.logRead {s gk sec} (h : Canonical s) : Canonical (s.logRead gk sec) := .ite h (.ite h.modGroup h.modGroup)

theorem Canonical.takeTx {s k} (h : Canonical s) : Canonical (s.takeTx k) := by
  unfold State.takeTx
  extract_lets
  split
  · exact h.setOp.foldl fun _ _ hu => hu.logRead.charge.freshen
  · exact h

theorem Canonical.startScratch {s k} (h : Canonical s) : Canonical (s.startScratch k) := by
  unfold State.startScratch
  extract_lets o
  cases o.kind with
  | load => exact h.setOp.chargeMe
  | _ => exact h

theorem Canonical.takeForward {s p o} (h : Canonical s) : Canonical (s.takeForward p o) := by
  unfold State.takeForward
  dsimp only
  split
  · exact .ite h.missed h.modGroup.newOp
  · exact h.missed

theorem Canonical.logPieces {s l} (h : Canonical s) : Canonical (s.logPieces l) := h.foldl fun _ _ hu => hu.logRead

theorem Canonical.issueLoad {s space path size sz d accs scales} (h : Canonical s) : Canonical (s.issueLoad space path size sz d accs scales) := by
  unfold State.issueLoad
  extract_lets
  refine .ite h.missed ?_
  cases s.partner s.cur.group with
  | none => exact .ite h.missed (.ite h.newOp h.newOp.startGlobal)
  | some _ => exact .ite (.ite h.takeForward.logPieces h.takeForward) (.ite h.missed (.modMe (.ite h.newOp h.newOp.startGlobal)))
end

mutual
theorem Canonical.pageLoad {s i vault path sz d a off} (h : Canonical s) : Keeps (pageLoad i vault path sz d a off s) :=
  h.issue fun _ hu => .next (hu.onAccess fun _ _ hv => hv.issueLoad)

theorem Canonical.execLdg {s sz d a off} (h : Canonical s) : Keeps (execLdg sz d a off s) := h.pageLoad
theorem Canonical.execLdv {s sz d a off} (h : Canonical s) : Keeps (execLdv sz d a off s) := h.pageLoad

theorem Canonical.execLds {s sz d a off} (h : Canonical s) : Keeps (execLds sz d a off s) := by
  unfold Machine.execLds
  refine h.issue fun u hu => ?_
  extract_lets size elem ea
  cases firstScrTrap u.myTeam none size elem (u.hardLanes ea) with
  | some _ => exact .next hu.trapWord
  | none => exact .ite (.next hu.missed) (.next hu.newOp.startScratch)

theorem Canonical.give {s k f} (h : Canonical s) : Canonical (s.give k f) := .ite (.modGroup (.ite h.modGroup h)) (.ite h.modGroup h)
theorem Canonical.finish {s k} (h : Canonical s) : Canonical (s.finish k) := .ite h.endOp.endOp h.endOp
theorem Canonical.landLanes {s k n wide f} (h : Canonical s) : Canonical (s.landLanes k n wide f) := ⟨h.wf⟩
theorem Canonical.poisonHalt {s k lane addr} (h : Canonical s) : Canonical (s.poisonHalt k lane addr) := h.endOp.takeTrap

theorem Canonical.takeVault {s k} (h : Canonical s) : Canonical (s.takeVault k) := by
  unfold State.takeVault
  extract_lets
  split
  · exact h.setOp.foldl fun _ _ hu => hu.charge
  · exact h
end

mutual
theorem Canonical.forwardLoad {s k o} (h : Canonical s) : Canonical (s.forwardLoad k o) := ⟨h.wf⟩

theorem Canonical.execLoadWriteback {s op} (h : Canonical s) : Keeps (execLoadWriteback op s) := by
  unfold Machine.execLoadWriteback
  extract_lets o _ _ _ o'
  cases o.live && o.reqs.isEmpty with
  | false => exact .next h
  | true =>
    cases o.kind with
    | load =>
      refine .ite (.next h.endOp) ?_
      refine .ite (.next h) ?_
      refine .ite (.next h.wantHome) ?_
      cases (lanesOf o'.poisoned).head? with
      | some _ => exact .next h.takeVault.takeTx.setOp.forwardLoad.poisonHalt
      | none => exact .next h.takeVault.takeTx.setOp.forwardLoad.landLanes.endOp
    | _ => exact .next h

theorem Canonical.shedRelease {s gk n} (h : Canonical s) : Canonical (s.shedRelease gk n) := h.foldl fun _ _ hu => hu.writeBack.modGroup
theorem Canonical.noteReleaseOf {s gk l} (h : Canonical s) : Canonical (s.noteReleaseOf gk l) := .ite h h.shedRelease.modGroup
theorem Canonical.noteRelease {s l} (h : Canonical s) : Canonical (s.noteRelease l) := h.noteReleaseOf

theorem Canonical.storeLanes {s t size held l} (h : Canonical s) (e : s.storeLanes size held l = some t) : Canonical t := by
  induction l generalizing s with
  | nil => cases e; exact h
  | cons a l ih =>
    rw [State.storeLanes] at e
    split at e
    · exact ih h.winWrite e
    · split at e
      · exact ih h.l1Store.noteRelease e
      · cases e

theorem Canonical.logWrite {s pa size v} (h : Canonical s) : Canonical (s.logWrite pa size v) := .ite h (.ite h.modMe h.modMe)
theorem Canonical.markMe {s} (h : Canonical s) : Canonical s.markMe := .ite h.modTeam h
theorem Canonical.askCompare {s} (h : Canonical s) : Canonical s.askCompare := ⟨h.wf⟩
end

mutual
theorem Canonical.issueStg {s size d accs} (h : Canonical s) : Canonical (s.issueStg size d accs) := by
  unfold State.issueStg
  extract_lets
  refine .ite h.missed ?_
  refine .ite ((h.foldl fun _ _ hu => hu.logWrite).signStore.newOp) ?_
  refine .ite (.ite h.signStore.newOp.markMe h.missed) ?_
  split
  · exact h.missed.foldl fun _ _ hu => .ite hu.press hu
  next e => exact (h.storeLanes e).chargeMe.signStore.newOp.markMe

theorem Canonical.execStg {s sz d a off} (h : Canonical s) : Keeps (execStg sz d a off s) :=
  h.issue fun _ hu => .next (hu.onAccess fun _ _ hv => hv.issueStg)

theorem Canonical.execSts {s sz d a off} (h : Canonical s) : Keeps (execSts sz d a off s) := by
  unfold Machine.execSts
  refine h.issue fun u hu => ?_
  extract_lets size lanes
  cases firstScrTrap u.myTeam (some u.myImage) size false lanes with
  | some _ => exact .next hu.trapWord
  | none => exact .ite (.next hu.missed) (.next (hu.signStore.scrStores.foldl fun _ _ hv => hv.evalScr).newOp.chargeMe)

theorem Canonical.issueStv {s size d accs} (h : Canonical s) : Canonical (s.issueStv size d accs) :=
  .ite h.missed <|
  .ite (.ite h.signStore.markMe.newOp h.missed) <|
  .ite (.ite (h.missed.foldl fun _ _ hu => .ite hu hu.pressGroup) h.signStore.markMe.modMe.newOp) h.signStore.markMe.newOp

theorem Canonical.execStv {s sz d a off} (h : Canonical s) : Keeps (execStv sz d a off s) :=
  h.issue fun _ hu => .next (hu.onAccess fun _ _ hv => hv.issueStv)

theorem Canonical.execStoreAck {s op} (h : Canonical s) : Keeps (execStoreAck op s) := by
  unfold Machine.execStoreAck
  extract_lets
  split
  · exact .next ((h.foldl fun _ _ hu => hu.vaultPut).foldl fun _ _ hu => hu.evalMon.charge).endOp
  · exact .next h.endOp
  · exact .next h

theorem Canonical.oneAccess {s n align size va k} (h : Canonical s) (hk : ∀ u x, Canonical u → Canonical (k u x)) :
    Canonical (s.oneAccess n align size va k) := by
  unfold State.oneAccess
  refine .ite h.trapWord ?_
  cases s.look va with
  | miss => exact h.askWalk
  | fail => exact h.trapWord
  | page => exact .ite (hk _ _ h.tlbUse) h.trapWord

theorem Canonical.execCfetch {s slot a} (h : Canonical s) : Keeps (execCfetch slot a s) :=
  h.issue fun _ hu => .next (hu.unlessTx fun _ hv => hv.oneAccess fun _ _ hw => .ite hw.newOp hw.trapWord)

theorem Canonical.execCfetchLanding {s op} (h : Canonical s) : Keeps (execCfetchLanding op s) := by
  unfold Machine.execCfetchLanding
  extract_lets o
  cases o.live with
  | false => exact .next h
  | true =>
    cases o.kind with
    | cfetch =>
      exact .ite (.next h.endOp) (.ite (.next h) (.ite (.next h.wantHome) (.next (.ite h.charge.modCluster.poisonHalt h.charge.modCluster.endOp))))
    | _ => exact .next h
end

/-! ### Atomics -/

mutual
theorem Canonical.once {s digest mirror go} (h : Canonical s) (hgo : ∀ u x, Canonical u → Canonical (go u x)) :
    Canonical (s.once digest mirror go) := by
  unfold State.once
  dsimp only
  cases s.partner s.cur.group with
  | none => exact .ite h.missed (hgo _ _ h)
  | some _ =>
    refine .ite h.missed.modMe ?_
    refine .ite h.markMe.newOp.modMe.modGroup ?_
    split
    · exact h.missed
    · exact hgo _ _ h.modMe

theorem Canonical.clearSectors {s secs} (h : Canonical s) : Canonical (s.clearSectors secs) :=
  h.foldl fun _ _ hu => .freshen (.ite hu hu.writeBack)

theorem Canonical.sendAtoms {s k l} (h : Canonical s) : Canonical (s.sendAtoms k l) := by
  induction l generalizing s with
  | nil => exact h
  | cons a l ih => exact ih h.send.setOp

theorem Canonical.pageAtomic {s i vault path aop sz d a off} (h : Canonical s) : Keeps (pageAtomic i vault path aop sz d a off s) := by
  unfold Machine.pageAtomic
  refine h.issue fun u hu => ?_
  refine .next (hu.unlessTx fun v hv => ?_)
  refine hv.onAccess fun w l hw => ?_
  extract_lets
  refine .ite hw.missed ?_
  refine hw.once fun y k hy => ?_
  split
  · exact hy.markMe.newOp
  · exact hy.clearSectors.markMe.newOp.sendAtoms

theorem Canonical.execAtomg {s aop sz d a off} (h : Canonical s) : Keeps (execAtomg aop sz d a off s) := h.pageAtomic
theorem Canonical.execAtomv {s aop sz d a off} (h : Canonical s) : Keeps (execAtomv aop sz d a off s) := h.pageAtomic

theorem Canonical.execAtoms {s aop sz d a off} (h : Canonical s) : Keeps (execAtoms aop sz d a off s) := by
  unfold Machine.execAtoms
  refine h.issue fun u hu => ?_
  refine .next (hu.unlessTx fun v hv => ?_)
  extract_lets size lanes
  cases firstScrTrap v.myTeam (some v.myImage) size false lanes with
  | some _ => exact hv.trapWord
  | none => exact .ite hv.missed (hv.once fun _ _ hw => hw.markMe.newOp)

theorem Canonical.pointWrite {s k space a n v req} (h : Canonical s) : Canonical (s.pointWrite k space a n v req) :=
  .ite (h.foldl fun _ _ hu => hu.scrStore.evalScr) (.ite h.vaultWrite (.ite h.winWrite h.stampLine.noteMasks.placeWrite))

theorem Canonical.execAtomicStep {s op addr} (h : Canonical s) : Keeps (execAtomicStep op addr s) := by
  unfold Machine.execAtomicStep
  extract_lets o
  cases o.live with
  | false => exact .next h
  | true =>
    cases o.kind with
    | atomic => exact .ite (.next h) (.ite (.next h) (.ite (.next h.wantHome) (.next h.ageAt.setOp.charge.pointWrite)))
    | _ => exact .next h

theorem Canonical.execAtomicReturn {s op} (h : Canonical s) : Keeps (execAtomicReturn op s) := by
  unfold Machine.execAtomicReturn
  dsimp only
  split
  · refine .next (h.foldl fun u k hu => ?_)
    refine .ite hu.endOp ?_
    cases (lanesOf (s.op op).poisoned).head? with
    | some _ => exact hu.poisonHalt
    | none => exact hu.landLanes.endOp.modGroup
  · exact .next h
end

end Sys2Proof.Machine
end

section
/-! Engines and collectives keep memory canonical. -/

namespace Sys2Proof.Machine

/-! ### Copies, gathers, collectives -/

mutual
theorem Canonical.withSlot {s copy path go} (h : Canonical s) (hgo : ∀ u x, Canonical u → Canonical (go u x)) :
    Canonical (s.withSlot copy path go) := by
  unfold State.withSlot
  extract_lets
  refine .ite (hgo _ _ h) ?_
  cases s.ticket path with
  | some _ => exact .ite (hgo _ _ h) h.missed.modMe
  | none => exact .ite (hgo _ _ h) h.frame.missed.modMe

theorem Canonical.engineServed {s cl copy qidx} (h : Canonical s) : Canonical (s.engineServed cl copy qidx) := ⟨h.wf⟩
theorem Canonical.enqueue {s copy k o} (h : Canonical s) : Canonical (s.enqueue copy k o) := ⟨h.wf⟩

theorem Canonical.execEngineQueueAdmit {s op} (h : Canonical s) : Keeps (execEngineQueueAdmit op s) :=
  .ite (.next h) (.ite (.next h.setOp.modCluster) (.ite (.next h) (.next h.modCluster.modGroup)))

theorem Canonical.pieces {s op o sp a n wr} (h : Canonical s) : Canonical (s.pieces op o sp a n wr).1 := by
  unfold State.pieces
  split
  · exact h
  · refine h.foldl_fst fun q p hq => ?_
    cases q.2 with
    | ok =>
      dsimp only
      split
      next e => exact hq.engineLook.of_eq e
      next e => exact hq.engineLook.of_eq e
      · split
        next e _ => exact hq.engineLook.of_eq e
        next e _ => exact hq.engineLook.of_eq e
    | _ => exact hq

theorem Canonical.readPiece {s o sp a n} (h : Canonical s) : Canonical (s.readPiece o sp a n).1 := by
  unfold State.readPiece
  extract_lets
  split
  · exact h.charge
  · split
    · exact h.charge
    · split
      · exact h.foldl fun _ _ hu => hu.charge
      · exact h

theorem Canonical.landGlobal {s a l owner} (h : Canonical s) : Canonical (s.landGlobal a l owner) :=
  (h.foldl fun _ _ hu => hu.homeWrite.noteMasks).dropL1Copies

theorem Canonical.landScratch {s team a l} (h : Canonical s) : Canonical (s.landScratch team a l) :=
  .ite (h.foldl fun _ _ hu => hu.scrStore).evalScr h
end

mutual
theorem Canonical.landVault {s a l} (h : Canonical s) : Canonical (s.landVault a l) := (h.foldl fun _ _ hu => hu.vaultPut).evalMon

theorem Canonical.writePiece {s o sp a l} (h : Canonical s) : Canonical (s.writePiece o sp a l) :=
  .ite ((h.foldl fun _ _ hu => hu.landScratch).charge) (.ite h.landVault.charge (.ite (h.landGlobal.foldl fun _ _ hu => hu.charge) h.winWrite))

theorem Canonical.readPieces {s o sp l} (h : Canonical s) : Canonical (s.readPieces o sp l).1 := by
  induction l generalizing s with
  | nil => exact h
  | cons a l ih => exact ih h.readPiece

theorem Canonical.writePieces {s o sp l bs} (h : Canonical s) : Canonical (s.writePieces o sp l bs) := by
  induction l generalizing s bs with
  | nil => exact h
  | cons a l ih => exact ih h.writePiece

theorem Canonical.credit {s o barrier n} (h : Canonical s) : Canonical (s.credit o barrier n) := by
  unfold State.credit
  cases barrier with
  | none => exact h
  | some _ => exact h.foldl fun _ _ hu => .ite hu.barrierUpdate hu

theorem Canonical.endEngine {s op copy reg code landed} (h : Canonical s) : Canonical (s.endEngine op copy reg code landed) :=
  h.give.modCluster.finish

theorem Canonical.execCopy {s g wup win dsp ssp} (h : Canonical s) : Keeps (execCopy g wup win dsp ssp s) := by
  unfold Machine.execCopy
  refine h.issue fun u hu => ?_
  refine .next (hu.unlessTx fun v hv => ?_)
  extract_lets
  exact .ite hv.trapWord <|
    .ite hv.trapWord <|
    .ite hv.trapWord (.ite hv.trapWord (hv.withSlot fun _ _ hw => hw.once fun _ _ hy => .chargeMe (.enqueue (.ite hy hy.markMe))))

theorem Canonical.execCopyChunkLanding {s op} (h : Canonical s) : Keeps (execCopyChunkLanding op s) := by
  unfold Machine.execCopyChunkLanding
  extract_lets
  split
  · split
    split
    next s1 src first =>
    split
    next s2 dst second =>
    have h1 : Canonical s1 := h.pieces.of_eq first
    have h2 : Canonical s2 := h1.pieces.of_eq second
    split
    · exact .next h1.endEngine
    · exact .next h.frame
    · exact .next h2.endEngine
    · exact .next h.frame
    · refine .ite (.next h) (.ite (.next h.wantHome) ?_)
      split
      next s3 data read =>
      have h3 : Canonical s3 := h2.readPieces.of_eq read
      refine .ite (.next h3.writePieces.credit.engineServed.setOp) (.next (.endEngine ?_))
      split
      · exact h3.writePieces.credit.engineServed.setOp.foldl fun _ _ hu => hu.modTeam
      · exact h3.writePieces.credit.engineServed.setOp
  · exact .next h
end

mutual
theorem Canonical.execGather {s g a sx esz vault scat} (h : Canonical s) : Keeps (execGather g a sx esz vault scat s) := by
  unfold Machine.execGather
  refine h.issue fun u hu => ?_
  refine .next (hu.unlessTx fun v hv => ?_)
  extract_lets _ e _ _ lane
  refine .ite hv.trapWord ?_
  cases lane fun x => x.1 % e != 0 with
  | some _ => exact hv.trapWord
  | none =>
    refine .ite hv.trapWord ?_
    cases lane fun x => !v.declared x.1 e || decide (v.myTeam.size < x.2 + e) with
    | some _ => exact hv.trapWord
    | none => exact hv.withSlot fun _ _ hw => hw.once fun _ _ hy => .enqueue (.ite hy.markMe hy)

theorem Canonical.execGatherElementLanding {s op} (h : Canonical s) : Keeps (execGatherElementLanding op s) := by
  unfold Machine.execGatherElementLanding
  extract_lets
  split
  · split
    · exact .next h.endEngine
    · extract_lets sp
      split
      next u r found =>
      have hu : Canonical u := h.pieces.of_eq found
      cases r with
      | fault => exact .next hu.endEngine
      | wait => exact .next h.frame
      | ok =>
        refine .ite (.next h) (.ite (.next h.wantHome) ?_)
        split
        next v data read =>
        have hv : Canonical v := by
          split at read
          · exact hu.readPiece.of_eq read
          · exact hu.readPieces.of_eq read
        exact .ite (.next (.setOp (.engineServed (.charge (.credit (.ite hv.writePieces hv.writePiece))))))
          (.next (.endEngine (.setOp (.engineServed (.charge (.credit (.ite hv.writePieces hv.writePiece)))))))
  · exact .next h

theorem Canonical.joinColl {s launch rank c} (h : Canonical s) : Canonical (s.joinColl launch rank c).1 := by
  unfold State.joinColl
  extract_lets
  split <;> exact h.setLaunch

theorem Canonical.execColl {s g n} (h : Canonical s) : Keeps (execColl g n s) := by
  unfold Machine.execColl
  refine h.issue fun u hu => ?_
  refine .next (hu.unlessTx fun v hv => ?_)
  extract_lets
  exact .ite hv.trapWord (.ite hv.trapWord (.ite hv.trapWord (.ite hv.trapWord (hv.once fun _ _ hw => hw.joinColl.markMe.newOp))))

theorem Canonical.sweepColl {s launch id} (h : Canonical s) : Canonical (s.sweepColl launch id) := .ite h.setLaunch h
theorem Canonical.endColl {s k reg code chunks} (h : Canonical s) : Canonical (s.endColl k reg code chunks) := h.give.finish.sweepColl
theorem Canonical.recordChunk {s launch id out late} (h : Canonical s) : Canonical (s.recordChunk launch id out late) := ⟨h.wf⟩

theorem Canonical.execCollChunk {s op late peers} (h : Canonical s) : Keeps (execCollChunk op late peers s) := by
  unfold Machine.execCollChunk
  extract_lets
  split
  · extract_lets ranks opOf ops m n peerNo there peerOther failAll known here reach fault places waits lack contrib
    have failed : Canonical (failAll s) := h.modLaunch.foldl fun _ _ hu => hu.endColl
    have reached {u : State} (hu : Canonical u) {e} : Canonical (reach u e).1 := hu.pieces.pieces
    have faulted {t e x} (found : fault = some (t, e, x)) : Canonical t := by
      obtain ⟨e', _, stops⟩ := List.exists_of_findSome?_eq_some found
      split at stops
      next met => cases stops; exact (reached h).of_eq met
      next met => cases stops; exact (reached h).of_eq met
      · cases stops
    clear_value fault
    refine .ite (.next failed) ?_
    refine .ite (.next h) ?_
    refine .ite ?_ ?_
    · split
      · exact .next failed
      · exact .next h
    · cases fault with
      | some _ => exact .next (faulted rfl).endColl
      | none =>
        refine .ite (.next (h.foldl fun _ _ hu => hu.frame)) ?_
        refine .ite (.next h) ?_
        refine .ite (.next (h.foldl fun _ _ hu => hu.wantHome)) ?_
        split
        extract_lets s1 s2
        have h1 : Canonical s1 := by
          dsimp only [s1]
          exact .ite (h.foldl fun _ _ hu => reached hu) ((h.foldl fun _ _ hu => (reached hu).readPieces).recordChunk)
        have h2 : Canonical s2 := h1.foldl fun _ _ hu => hu.writePieces
        refine .next (h2.foldl fun u e hu => ?_)
        extract_lets
        exact .ite hu.setOp hu.endColl
  · exact .next h
end

end Sys2Proof.Machine
end

section
/-! Matrices, messages, order and transactions keep memory canonical. -/

namespace Sys2Proof.Machine

/-! ### Matrices -/

mutual
theorem Canonical.openRdv {s r} (h : Canonical s) : Canonical (s.openRdv r) := by
  unfold State.openRdv
  extract_lets
  refine .ite ?_ ?_
  · refine (h.foldl fun u k hu => ?_).frame
    cases (s.op k).kind with
    | mma => exact hu.setOp
    | _ => exact hu
  · exact h

theorem Canonical.joinRdv {s op} (h : Canonical s) : Canonical (s.joinRdv op) := by
  unfold State.joinRdv
  split
  · extract_lets g team off
    split
    exact .ite h.setOp.frame.failRdv (.ite h.setOp.frame.failRdv (.ite h.setOp.frame.failRdv h.setOp.frame.openRdv))
  · exact h

theorem Canonical.execMma {s g a an tb} (h : Canonical s) : Keeps (execMma g a an tb s) := by
  unfold Machine.execMma
  refine h.issue fun u hu => ?_
  refine .next (hu.unlessTx fun v hv => ?_)
  extract_lets
  exact .ite hv.trapWord (.ite hv.trapWord (.ite hv.trapWord hv.newOp.joinRdv))

theorem Canonical.execMmaRendezvousOpen {s r} (h : Canonical s) : Keeps (execMmaRendezvousOpen r s) := .next h.openRdv

theorem Canonical.execMmaResultWrite {s op} (h : Canonical s) : Keeps (execMmaResultWrite op s) := by
  unfold Machine.execMmaResultWrite
  extract_lets o
  cases o.live with
  | false => exact .next h
  | true =>
    cases o.kind with
    | mma => exact .ite (.next (.frame (.endOp (.ite h.modGroup.charge h)))) (.next h)
    | _ => exact .next h

theorem Canonical.execMmaAbsentTimeout {s r} (h : Canonical s) : Keeps (execMmaAbsentTimeout r s) := by
  unfold Machine.execMmaAbsentTimeout
  extract_lets
  split
  · exact .ite (.next h.failRdv) (.next h)
  · exact .next h
end

/-! ### Child launches and messages -/

mutual
theorem Canonical.noteFree {s team} (h : Canonical s) : Canonical (s.noteFree team) := h.scrWrite
theorem Canonical.pushRec {s team r} (h : Canonical s) : Canonical (s.pushRec team r) := h.modTeam.noteFree

theorem Canonical.execLaunch {s g} (h : Canonical s) : Keeps (execLaunch g s) := by
  unfold Machine.execLaunch
  refine h.issue fun u hu => ?_
  refine .next (hu.unlessTx fun v hv => ?_)
  extract_lets _ w
  refine .ite hv.trapWord ?_
  refine .ite hv.trapWord ?_
  refine .ite hv.trapWord ?_
  refine .ite hv.trapWord ?_
  refine hv.once fun w m hw => ?_
  refine .foldl (.chargeMe ?_) (fun _ _ hy => hy.modGroup.enterLatch)
  exact .ite (.ite hw (hw.markMe.foldl fun _ _ hy => hy.pushRec)) (.endOp (.ite hw (hw.markMe.foldl fun _ _ hy => hy.pushRec)))

theorem Canonical.execMsend {s g n} (h : Canonical s) : Keeps (execMsend g n s) := by
  unfold Machine.execMsend
  refine h.issue fun u hu => ?_
  refine .next (hu.unlessTx fun v hv => ?_)
  extract_lets
  exact .ite hv.trapWord (.ite hv.trapWord (.ite hv.trapWord (.ite hv.trapWord (hv.once fun _ _ hw => hw.newOp.markMe.chargeMe))))

theorem Canonical.deliver {s team b slot tail bs marks} (h : Canonical s) : Canonical (s.deliver team b slot tail bs marks) :=
  h.landScratch.scrWrite
end

mutual
theorem Canonical.expireImage {s team} (h : Canonical s) : Canonical (s.expireImage team) := by
  unfold State.expireImage
  dsimp only
  cases s.expired team with
  | none => exact h
  | some _ => exact h.modTeam

theorem Canonical.deliverImage {s team b slot tail bs marks} (h : Canonical s) : Canonical (s.deliverImage team b slot tail bs marks) := by
  unfold State.deliverImage
  exact h.charge.modTeam

theorem Canonical.settleSend {s op team c refused} (h : Canonical s) : Canonical (s.settleSend op team c refused) := .ite h.give.finish h.setOp

theorem Canonical.trySend {s op team c tries} (h : Canonical s) : Canonical (s.trySend op team c tries) := by
  -- The search of a ring stays opaque: the kernel would unfold it.
  obtain ⟨search, any⟩ : ∃ f, ringSlot = f := ⟨_, rfl⟩
  rw [State.trySend, any]
  have again {p : Prop} [Decidable p] {o : Op} : Canonical (if p then s.settleSend op team c true else s.setOp op o) := .ite h.settleSend h.setOp
  refine .ite h.settleSend ?_
  cases (s.team team).phase with
  | discarded => exact h.settleSend
  | done => exact h.settleSend
  | saving => exact again
  | waiting => exact again
  | saved =>
    dsimp only
    cases (s.team team).image with
    | none => exact again
    | some _ =>
      dsimp only
      split
      · exact again
      · exact (h.foldl fun _ _ hu => hu.deliverImage).modTeam.charge.settleSend
  | _ =>
    dsimp only
    split
    · exact again
    · exact (h.foldl fun _ _ hu => hu.deliver).modTeam.charge.settleSend

theorem Canonical.execMsendDelivery {s op team} (h : Canonical s) : Keeps (execMsendDelivery op team s) := by
  unfold Machine.execMsendDelivery
  extract_lets o
  cases o.live with
  | false => exact .next h
  | true =>
    cases o.kind with
    | send =>
      dsimp only
      split
      · exact .ite (.next h) (.next h.trySend)
      · exact .next h
    | _ => exact .next h

theorem Canonical.execMsendRetry {s op team} (h : Canonical s) : Keeps (execMsendRetry op team s) := by
  unfold Machine.execMsendRetry
  extract_lets o
  cases o.live with
  | false => exact .next h
  | true =>
    cases o.kind with
    | send =>
      dsimp only
      split
      · exact .ite (.next h) (.next h.trySend)
      · exact .next h
    | _ => exact .next h
end

/-! ### Transactions, fences, lines of L1, pins -/

mutual
theorem Canonical.execTxb {s d n} (h : Canonical s) : Keeps (execTxb d n s) :=
  h.issue fun _ hu => .next (.ite hu.pulse.doomMe (.ite hu.missed (.ite hu.pulse.modMe (.ite hu.trapWord hu.pulse.modMe))))

theorem Canonical.execTxa {s code} (h : Canonical s) : Keeps (execTxa code s) := h.issue fun _ hu => .next (.ite hu.pulse.doomMe hu.pulse)

theorem Canonical.releaseSet {s gk sys} (h : Canonical s) : Canonical (s.releaseSet gk sys) := by
  unfold State.releaseSet
  exact (h.foldl fun _ _ hu => hu.writeBack).modGroup

theorem Canonical.execTxe {s d} (h : Canonical s) : Keeps (execTxe d s) := by
  unfold Machine.execTxe
  refine h.issue fun u hu => ?_
  dsimp only
  split
  · exact .next hu.missed
  · split
    · split
      · exact .next (hu.doomMe.once fun _ _ hv => .modMe (.newOp (.ite hv.releaseSet hv))).modMe
      · exact .next (hu.doomMe.once fun _ _ hv => .modMe (.newOp (.ite hv.releaseSet hv)))
    · split
      · exact .next (hu.once fun _ _ hv => .modMe (.newOp (.ite hv.releaseSet hv))).modMe
      · exact .next (hu.once fun _ _ hv => .modMe (.newOp (.ite hv.releaseSet hv)))

theorem Canonical.endTxe {s op d status} (h : Canonical s) : Canonical (s.endTxe op d status) := h.give.finish
theorem Canonical.setLocks {s ls op} (h : Canonical s) : Canonical (s.setLocks ls op) := h.foldl fun _ _ hu => hu.modSlice
theorem Canonical.commitWrites {s t qidx} (h : Canonical s) : Canonical (s.commitWrites t qidx) := h.foldl fun _ _ hu => hu.homeWrite.noteMasks

theorem Canonical.execTxeCommit {s op} (h : Canonical s) : Keeps (execTxeCommit op s) := by
  unfold Machine.execTxeCommit
  extract_lets o
  cases o.live with
  | false => exact .next h
  | true =>
    cases o.kind with
    | commit =>
      refine .ite (.next h.unlock.endOp) (.ite (.next h.endTxe) (.ite (.next h) (.ite (.next h.unlock.endTxe) (.ite ?_ ?_))))
      · exact .ite (.next h) (.ite (.next h.wantHome) (.next h.setLocks.setOp))
      · exact .next (.endTxe (.unlock (.ite h h.commitWrites.modTeam)))
    | _ => exact .next h
end

mutual
theorem Canonical.startFence {s scope kind paths translation} (h : Canonical s) : Canonical (s.startFence scope kind paths translation) :=
  h.chargeMe.modMe

theorem Canonical.execFence {s scope kind paths} (h : Canonical s) : Keeps (execFence scope kind paths s) :=
  h.issue fun _ hu => .next (hu.unlessTx fun _ hv => .ite hv.askCompare hv.startFence)

theorem Canonical.execTfence {s scope} (h : Canonical s) : Keeps (execTfence scope s) :=
  h.issue fun _ hu => .next (hu.unlessTx fun _ hv => .ite hv.askCompare hv.startFence)

theorem Canonical.staleWalks {s g cl scope} (h : Canonical s) : Canonical (s.staleWalks g cl scope) := ⟨h.wf⟩
theorem Canonical.dropTlbs {s g cl scope} (h : Canonical s) : Canonical (s.dropTlbs g cl scope) := ⟨h.wf⟩

theorem Canonical.fenceRelease {s gk f} (h : Canonical s) : Canonical (s.fenceRelease gk f) :=
  .ite (.modGroup (.frame (.ite (h.releaseSet.foldl fun _ _ hu => hu.send).modGroup h.releaseSet))) h.modGroup

theorem Canonical.execFenceComplete {s g} (h : Canonical s) : Keeps (execFenceComplete g s) := by
  unfold Machine.execFenceComplete
  extract_lets x
  cases x.fence with
  | none => exact .next h
  | some _ =>
    exact .ite (.ite (.next h) (.next h.fenceRelease)) <|
      .ite (.next h) <|
      .ite (.ite (.next h.staleWalks.modGroup) (.ite (.next h) (.next h.dropTlbs.modGroup))) (.next (.modGroup (.ite h.acquireL1 h)))

theorem Canonical.execWriteAckReceipt {s req} (h : Canonical s) : Keeps (execWriteAckReceipt req s) := by
  unfold Machine.execWriteAckReceipt
  extract_lets r s'
  cases r.live && r.legs.isEmpty with
  | false => exact .next h
  | true =>
    cases r.kind with
    | ack =>
      dsimp only
      cases (s'.op r.op).live with
      | false => exact .next h.setReq.dropOpReq
      | true =>
        cases (s'.op r.op).kind with
        | l1maint => exact .next h.setReq.dropOpReq.endOp
        | _ => exact .next h.setReq.dropOpReq
    | _ => exact .next h
end

mutual
theorem Canonical.l1Word {s i a inval} (h : Canonical s) : Keeps (l1Word i a inval s) := by
  unfold Machine.l1Word
  refine h.issue fun u hu => ?_
  refine .next (hu.unlessTx fun v hv => ?_)
  refine hv.oneAccess fun w pa hw => ?_
  dsimp only
  exact .ite (.endOp (.ite hw.newOp.writeBack.dropRelease.setL1 hw.newOp.writeBack.dropRelease)) <|
    .ite hw.newOp.writeBack.dropRelease.setL1 hw.newOp.writeBack.dropRelease

theorem Canonical.execL1wb {s a} (h : Canonical s) : Keeps (execL1wb a s) := h.l1Word
theorem Canonical.execL1inv {s a} (h : Canonical s) : Keeps (execL1inv a s) := h.l1Word

theorem Canonical.pinWord {s i d a un} (h : Canonical s) : Keeps (pinWord i d a un s) :=
  h.issue fun _ hu => .next (hu.unlessTx fun _ hv => hv.oneAccess fun _ _ hw => hw.newOp)

theorem Canonical.execPin {s d a} (h : Canonical s) : Keeps (execPin d a s) := h.pinWord
theorem Canonical.execUnpin {s d a} (h : Canonical s) : Keeps (execUnpin d a s) := h.pinWord

theorem Canonical.execPinResult {s op} (h : Canonical s) : Keeps (execPinResult op s) := by
  unfold Machine.execPinResult
  dsimp only
  cases (s.op op).live with
  | false => exact .next h
  | true =>
    cases (s.op op).kind with
    | pin =>
      exact .ite (.ite (.next h.modSlice.give.finish) (.next h.give.finish)) <|
        .ite (.next (h.foldl fun _ _ hu => hu.askFill).setOp) (.next (.finish (.give (.ite h.modSlice (.ite h.charge h)))))
    | _ => exact .next h

theorem Canonical.execWaitc {s path a} (h : Canonical s) : Keeps (execWaitc path a s) := h.issue fun _ hu => .next hu.chargeMe.modMe
end

end Sys2Proof.Machine
end

section
/-! Waits and the monitor keep memory canonical. -/

namespace Sys2Proof.Machine

/-! ### Waits -/

mutual
theorem Canonical.register {s key e p} (h : Canonical s) (put : s.register key e = some p) : Canonical p.1 := by
  unfold State.register at put
  extract_lets _ _ _ _ at put
  split at put
  · cases put; exact ⟨h.wf⟩
  · split at put
    · cases put; exact ⟨h.wf⟩
    · cases put

theorem Canonical.openWait {s cmp sz d a va pa} (h : Canonical s) : Canonical (s.openWait cmp sz d a va pa) := by
  unfold State.openWait
  extract_lets _ _ _ _ _ _ _ _ e _ u
  split
  have hu : Canonical u := h.chargeMe
  clear_value u
  cases u.monHit e with
  | some _ => exact hu.modMe
  | none =>
    refine .ite hu.modMe ?_
    split
    next put => exact (hu.register put).modMe
    · exact hu.modMe

theorem Canonical.takeWait {s p d va} (h : Canonical s) : Canonical (s.takeWait p d va) := by
  unfold State.takeWait
  dsimp only
  split
  · exact .ite h.missed h.modGroup.modMe
  · exact h.missed

theorem Canonical.pairWait {s d va k} (h : Canonical s) (hk : ∀ u, Canonical u → Canonical (k u)) : Canonical (s.pairWait d va k) := by
  unfold State.pairWait
  extract_lets
  cases s.partner s.cur.group with
  | none => exact .ite h.missed (hk _ h)
  | some _ => exact .ite h.takeWait (.ite h.missed (.ite (hk _ h) (hk _ h).modMe))

theorem Canonical.openScratch {s kind d a cmp sz opnd timeout op buffer} (h : Canonical s) :
    Canonical (s.openScratch kind d a cmp sz opnd timeout op buffer) := by
  unfold State.openScratch
  extract_lets _ _ _ team e
  cases scrHit (s.team team) e with
  | some _ => exact h.modMe
  | none => exact .ite h.modMe h.modCluster.modMe

theorem Canonical.execWaitu {s cmp sp sz d a} (h : Canonical s) : Keeps (execWaitu cmp sp sz d a s) := by
  unfold Machine.execWaitu
  refine h.issue fun u hu => ?_
  refine .next (hu.unlessTx fun v hv => ?_)
  extract_lets
  exact .ite (.ite hv.trapWord (.ite hv.trapWord (hv.pairWait fun _ hw => hw.chargeMe.openScratch))) <|
    hv.oneAccess fun _ _ hw => hw.pairWait fun _ hy => .ite hy.missed hy.openWait

theorem Canonical.poisonWait {s gk r} (h : Canonical s) : Canonical (s.poisonWait gk r) := h.modGroup.takeTrap

theorem Canonical.execWaituWake {s e} (h : Canonical s) : Keeps (execWaituWake e s) := by
  unfold Machine.execWaituWake
  extract_lets g
  cases g.wait with
  | monitor =>
    dsimp only
    split
    · exact .ite (.next h) (.ite (.next h.poisonWait) (.next (.enterLatch (.modGroup (.ite h.freshen h)))))
    · exact .next h
  | _ => exact .next h
end

mutual
theorem Canonical.execWaituTimeout {s e} (h : Canonical s) : Keeps (execWaituTimeout e s) := .ite (.next h.modSlice.decideWait) (.next h)

theorem Canonical.execSpillWalk {s slice} (h : Canonical s) : Keeps (execSpillWalk slice s) := by
  unfold Machine.execSpillWalk
  extract_lets _ s'
  refine .ite (.next h) ?_
  refine .next ((h.foldl fun _ _ hu => hu.chargeEval).modSlice.foldl fun u e hu => ?_)
  cases s'.walkEntry e with
  | some _ => exact hu.decideWait
  | none => exact hu

theorem Canonical.scrObject {s i a ok cost k} (h : Canonical s) (hk : ∀ u x, Canonical u → Canonical (k u x)) :
    Keeps (scrObject i a ok cost k s) :=
  h.issue fun _ hu => .next (hu.unlessTx fun _ hv => .ite hv.trapWord (.ite hv.trapWord (hk _ _ hv.chargeMe)))

theorem Canonical.portDone {s} (h : Canonical s) : Canonical s.portDone := ⟨h.wf⟩
theorem Canonical.portTrap {s} (h : Canonical s) : Canonical s.portTrap := h.trapWord
theorem Canonical.execBari {s a} (h : Canonical s) : Keeps (execBari a s) := h.scrObject fun _ _ hu => .ite hu.portTrap hu.scrWrite.portDone
theorem Canonical.execBara {s d a} (h : Canonical s) : Keeps (execBara d a s) := h.scrObject fun _ _ hu => hu.barrierUpdate.modMe.portDone

theorem Canonical.execBarx {s a} (h : Canonical s) : Keeps (execBarx a s) :=
  h.scrObject fun _ _ hu => .ite hu.portTrap hu.scrPut.barrierUpdate.portDone
end

mutual
theorem Canonical.execBarw {s d a} (h : Canonical s) : Keeps (execBarw d a s) := by
  unfold Machine.execBarw
  refine h.scrObject fun u x hu => ?_
  extract_lets
  exact hu.newOp.openScratch

theorem Canonical.execStagea {s d a} (h : Canonical s) : Keeps (execStagea d a s) := by
  unfold Machine.execStagea
  refine h.scrObject fun u x hu => ?_
  extract_lets
  exact hu.newOp.openScratch

theorem Canonical.execStager {s a} (h : Canonical s) : Keeps (execStager a s) := h.scrObject fun _ _ hu => hu.barrierUpdate.portDone

theorem Canonical.execRingadv {s k a} (h : Canonical s) : Keeps (execRingadv k a s) :=
  h.scrObject fun _ _ hu => .ite hu.portTrap hu.scrWrite.portDone

theorem Canonical.execLqrd {s d} (h : Canonical s) : Keeps (execLqrd d s) := h.issue fun _ hu => .next hu.chargeMe.modMe.enterLatch

theorem Canonical.execScratchpadMonitorWake {s g} (h : Canonical s) : Keeps (execScratchpadMonitorWake g s) := by
  unfold Machine.execScratchpadMonitorWake
  dsimp only
  cases (s.group g).wait with
  | scratch =>
    dsimp only
    split
    · exact .ite (.next (.poisonWait (.ite h h.endOp))) (.next (.ite (.enterLatch (.modGroup (.ite h h.endOp))) (.modGroup (.ite h h.endOp))))
    · exact .next h
  | _ => exact .next h

theorem Canonical.execScratchpadMonitorExpiry {s g} (h : Canonical s) : Keeps (execScratchpadMonitorExpiry g s) :=
  .ite (.next h.modCluster.decideScratch) (.next h)

theorem Canonical.execBarrierAbandonMark {s team} (h : Canonical s) : Keeps (execBarrierAbandonMark team s) := by
  unfold Machine.execBarrierAbandonMark
  extract_lets
  split
  · exact .next h
  · exact .next h.setTeam.scrWrite
end

end Sys2Proof.Machine
end

section
/-! Queues, packets, quotations and the width of groups keep memory canonical. -/

namespace Sys2Proof.Machine

/-! ### Records in memory -/

mutual
theorem Canonical.put {s pa bs} (h : Canonical s) : Canonical (s.put pa bs) := .ite h.sysWrite h
theorem Canonical.modQueue {s q f} (h : Canonical s) : Canonical (s.modQueue q f) := ⟨h.wf⟩
theorem Canonical.modPacket {s pk f} (h : Canonical s) : Canonical (s.modPacket pk f) := ⟨h.wf⟩
theorem Canonical.completion {s cpa seq status datum} (h : Canonical s) : Canonical (s.completion cpa seq status datum) := .ite h h.put.put
theorem Canonical.advanceHead {s q len} (h : Canonical s) : Canonical (s.advanceHead q len) := h.put

theorem Canonical.complete {s pk status datum} (h : Canonical s) : Canonical (s.complete pk status datum) :=
  .frame (.modQueue (.completion (.ite h.advanceHead h)))
end

mutual
theorem Canonical.dropWaiting {s qi takenOnly} (h : Canonical s) : Canonical (s.dropWaiting qi takenOnly) :=
  (h.foldl fun _ _ hu => hu.complete).frame

theorem Canonical.signed {s die body} (h : Canonical s) : Canonical (s.signed die body).1 := by
  unfold State.signed
  dsimp only
  cases (s.die die).nextLeaf with
  | none => exact h
  | some _ => exact h.setDie

theorem Canonical.signRecord {s die kind qidx mt me} (h : Canonical s) : Canonical (s.signRecord die kind qidx mt me) := h.signed.put

theorem Canonical.releaseShares {s qidx} (h : Canonical s) : Canonical (s.releaseShares qidx) :=
  (h.foldl fun _ _ hu => hu.frame).frame.foldl fun _ _ hu => hu.retarget

theorem Canonical.freeEntry {s qidx} (h : Canonical s) : Canonical (s.freeEntry qidx) := h.releaseShares.setQuote
theorem Canonical.grant {s qidx v} (h : Canonical s) : Canonical (s.grant qidx v) := ⟨h.wf⟩
end

/-! ### Packets and quotations -/

mutual
theorem Canonical.watchTail {s q} (h : Canonical s) : Canonical (s.watchTail q) := by
  unfold State.watchTail
  refine .modQueue ?_
  extract_lets
  split
  next put => exact h.modSlice.register put
  · exact h.modSlice

theorem Canonical.execQueuePacketTake {s q} (h : Canonical s) : Keeps (execQueuePacketTake q s) :=
  .ite (.next h) <|
  .ite (.next h.watchTail) <|
  .ite (.next h.modQueue.completion) (.ite (.next h.advanceHead.completion) (.ite (.next h) (.next (.modQueue (.frame (.ite h h.advanceHead))))))

theorem Canonical.dropHeld {s q} (h : Canonical s) : Canonical (s.dropHeld q) := h.foldl fun _ _ hu => .ite hu.modPacket hu
theorem Canonical.startPacket {s pk} (h : Canonical s) : Canonical (s.startPacket pk) := h.dropHeld.modPacket

theorem Canonical.whenOpen {s type pk opens k} (h : Canonical s) (hk : ∀ u x, Canonical u → Canonical (k u x)) :
    Keeps (whenOpen type pk s opens k) :=
  .ite (.next (hk _ _ h.startPacket)) (.next h)

theorem Canonical.whenTurn {s type pk k} (h : Canonical s) (hk : ∀ u x, Canonical u → Canonical (k u x)) : Keeps (whenTurn type pk s k) :=
  h.whenOpen fun _ _ hu => hk _ _ hu

theorem Canonical.quoteWork {s pk p b} (h : Canonical s) : Canonical (s.quoteWork pk p b) := by
  unfold State.quoteWork
  extract_lets _ rd f plan
  cases plan.bind fun cs => s.quoteWalk b rd f cs with
  | none => exact h.complete
  | some _ =>
    refine .ite h.complete ?_
    cases s.freeQuotes[Config.pick s.free % max 1 s.freeQuotes.length]? with
    | none => exact h.complete
    | some _ => exact h.setQuote.signRecord.complete

theorem Canonical.execQuote {s pk} (h : Canonical s) : Keeps (execQuote pk s) := h.whenOpen fun _ _ hu => .ite hu.complete hu.quoteWork

theorem Canonical.execAccept {s pk} (h : Canonical s) : Keeps (execAccept pk s) := by
  unfold Machine.execAccept
  refine h.whenTurn fun u p hu => ?_
  extract_lets
  exact .ite hu.complete <|
    .ite hu.freeEntry.complete (.ite hu.complete (((hu.foldl fun _ _ hv => hv.grant).modQuote.foldl fun _ _ hv => hv.retarget).complete))
end

mutual
theorem Canonical.execDecline {s pk} (h : Canonical s) : Keeps (execDecline pk s) :=
  h.whenTurn fun _ _ hu => .ite hu.freeEntry.dropWaiting.complete hu.complete

theorem Canonical.execQuotationExpiry {s qi} (h : Canonical s) : Keeps (execQuotationExpiry qi s) := .ite (.next h.freeEntry) (.next h)

theorem Canonical.execAcceptedValidityExpiry {s qi} (h : Canonical s) : Keeps (execAcceptedValidityExpiry qi s) :=
  .ite (.next h.freeEntry.dropWaiting) (.next h)

theorem Canonical.execLaunchPacket {s pk} (h : Canonical s) : Keeps (execLaunchPacket pk s) :=
  .ite (.next h) (.ite (.next h.complete) (.ite (.next h.complete) (.ite (.next h) (.ite (.next h) (.next h.modPacket.setLaunch)))))

theorem Canonical.spendRecords {s qidx} (h : Canonical s) : Canonical (s.spendRecords qidx) := .ite h.frame h

theorem Canonical.startLaunch {s lk} (h : Canonical s) : Canonical (s.startLaunch lk) :=
  .ite h (.modLaunch (.modDie (.ite h.dropHeld.spendRecords.modPacket.modQuote.logCause h.dropHeld.spendRecords.modPacket.modQuote)))

theorem Canonical.frontPut {s pa bs} (h : Canonical s) : Canonical (s.frontPut pa bs) := .ite h.winWrite h.sysWrite

theorem Canonical.waitAt {s pk pa} (h : Canonical s) : Canonical (s.waitAt pk pa) :=
  .ite (.ite (.complete (.ite h h.dropHeld.advanceHead.modPacket)) (.ite h h.dropHeld.advanceHead.modPacket)) <|
  .modPacket (.ite h h.dropHeld.advanceHead.modPacket)

theorem Canonical.execWaitPacket {s pk} (h : Canonical s) : Keeps (execWaitPacket pk s) := by
  unfold Machine.execWaitPacket
  extract_lets p
  refine .ite (.next h) ?_
  cases s.queueLeaf p.queue (p.num 0 8) with
  | none => exact .ite (.next h.complete) (.next h.modPacket)
  | some _ =>
    refine .ite (.next h.complete) ?_
    cases s.queueAddr p.queue (p.num 0 8) 2 with
    | none => exact .next h.complete
    | some _ => exact .next h.waitAt
end

mutual
theorem Canonical.execWaitPacketSatisfied {s pk} (h : Canonical s) : Keeps (execWaitPacketSatisfied pk s) := .ite (.next h.complete) (.next h)

theorem Canonical.execWaitPageTimeout {s pk} (h : Canonical s) : Keeps (execWaitPageTimeout pk s) := by
  unfold Machine.execWaitPageTimeout
  extract_lets p
  cases p.eventAt with
  | some _ => exact .ite (.next h.modQueue.watchTail) (.next h)
  | none => exact .next h

theorem Canonical.execTranslationEventServed {s pk mapped} (h : Canonical s) : Keeps (execTranslationEventServed pk mapped s) :=
  .ite (.next h) (.ite (.next h.complete) (.ite (.next h.modPacket) (.next h)))

theorem Canonical.execSignalPacket {s pk} (h : Canonical s) : Keeps (execSignalPacket pk s) := by
  unfold Machine.execSignalPacket
  refine h.whenOpen fun u p hu => ?_
  extract_lets
  cases u.queueAddr p.queue (p.num 0 8) 3 with
  | none => exact hu.complete
  | some _ => exact hu.frontPut.complete

theorem Canonical.piecesWrite {s l bs} (h : Canonical s) : Canonical (s.piecesWrite l bs) := by
  induction l generalizing s bs with
  | nil => exact h
  | cons a l ih =>
    refine ih (h.foldl fun u k hu => ?_)
    extract_lets
    exact .ite hu.vaultWrite (.ite hu.winWrite hu.globalWrite)

theorem Canonical.piecesFlush {s l} (h : Canonical s) : Canonical (s.piecesFlush l) :=
  h.foldl fun _ _ hu => .ite hu (hu.foldl fun _ _ hv => hv.flushLine)

theorem Canonical.execCopyPacket {s pk} (h : Canonical s) : Keeps (execCopyPacket pk s) := by
  unfold Machine.execCopyPacket
  refine h.whenOpen fun u p hu => ?_
  extract_lets
  split
  · exact .complete (.ite hu.piecesWrite.piecesFlush hu.piecesWrite)
  · exact hu.complete

theorem Canonical.execTimestampPacket {s pk} (h : Canonical s) : Keeps (execTimestampPacket pk s) := h.whenTurn fun _ _ hu => hu.complete

theorem Canonical.execQueueSlotSwap {s q slot} (h : Canonical s) : Keeps (execQueueSlotSwap q slot s) := by
  unfold Machine.execQueueSlotSwap
  extract_lets
  refine .ite (.next h) ?_
  cases slot with
  | none => exact .next h.modQueue.watchTail
  | some _ => exact .ite (.next h) (.next h.modQueue.watchTail)

theorem Canonical.execReservationRevoked {s die qi} (h : Canonical s) : Keeps (execReservationRevoked die qi s) :=
  .ite (.next h) (.next h.frame.logCause)
end

/-! ### The width of groups -/

mutual
theorem Canonical.splitGroup {s d f} (h : Canonical s) : Canonical (s.splitGroup d f) :=
  ((h.foldl fun _ _ hu => hu.setGroup.frame).foldl fun _ _ hu => hu.fallThrough).moved

theorem Canonical.widthWord {s i open' go} (h : Canonical s) (hgo : ∀ u, Canonical u → Canonical (go u)) : Keeps (widthWord i open' go s) :=
  h.issue fun _ hu => .next (.ite (hgo _ hu.chargeMe) hu.missed)

theorem Canonical.execSplit {s d f} (h : Canonical s) : Keeps (execSplit d f s) := h.widthWord fun _ hu => .ite hu.splitGroup hu.modMe.fallMe.moved
theorem Canonical.joinGroups {s d k} (h : Canonical s) : Canonical (s.joinGroups d k) := h.setGroup.setGroup.shedRelease.fallThrough.retarget.moved

theorem Canonical.execFuse {s d} (h : Canonical s) : Keeps (execFuse d s) := by
  unfold Machine.execFuse
  refine h.widthWord fun u hu => ?_
  extract_lets
  refine .ite hu.endFuse.modMe.fallMe.moved ?_
  cases u.buddy u.cur.group with
  | none => exact hu
  | some _ =>
    dsimp only
    split
    · exact hu.joinGroups
    · exact hu.modMe.moved

theorem Canonical.execFuseWaitTimeout {s g} (h : Canonical s) : Keeps (execFuseWaitTimeout g s) := by
  unfold Machine.execFuseWaitTimeout
  extract_lets x
  cases x.wait with
  | fuse => exact .ite (.next h.modGroup.fallThrough) (.next h)
  | fuseOver => exact .next h.modGroup.fallThrough
  | _ => exact .next h

theorem Canonical.execRegion {s idx} (h : Canonical s) : Keeps (execRegion idx s) := by
  unfold Machine.execRegion
  refine h.issue fun u hu => ?_
  cases u.regionSet idx.toNat with
  | none => exact .next hu.trapWord
  | some _ => exact .next hu.chargeMe.modMe
end

end Sys2Proof.Machine
end

section
/-! Launches, their ends and pairs keep memory canonical. -/

namespace Sys2Proof.Machine

/-! ### Placement, start and end of launches -/

mutual
theorem Canonical.spaceWrite {s root fuel va bs} (h : Canonical s) : Canonical (s.spaceWrite root fuel va bs) := by
  induction fuel generalizing s va bs with
  | zero => exact h
  | succ fuel ih =>
    rw [State.spaceWrite]
    refine .ite h ?_
    refine ih ?_
    cases s.spaceAddr root va with
    | none => exact h
    | some _ => exact h.sysWrite

theorem Canonical.loadImage {s lk} (h : Canonical s) : Canonical (s.loadImage lk) := (h.foldl fun _ _ hu => hu.spaceWrite).spaceWrite
theorem Canonical.bindSlots {s cl lk} (h : Canonical s) : Canonical (s.bindSlots cl lk) := h.foldl fun _ _ hu => .ite hu hu.modCluster
theorem Canonical.unbind {s cl lk} (h : Canonical s) : Canonical (s.unbind cl lk) := .ite h h.modCluster
theorem Canonical.seat {s cl q g} (h : Canonical s) : Canonical (s.seat cl q g) := ⟨h.wf⟩
theorem Canonical.acquireAt {s cl scope} (h : Canonical s) : Canonical (s.acquireAt cl scope) := .ite h.acquireL1 h

theorem Canonical.placeTeam {s lk cohort k side cl} (h : Canonical s) : Canonical (s.placeTeam lk cohort k side cl).1 := by
  unfold State.placeTeam
  refine .retarget ?_
  exact .ite ((h.setTeam.bindSlots.foldl fun _ _ hu => hu.seat).acquireAt) <|
    .ite ((h.setTeam.bindSlots.foldl fun _ _ hu => hu.seat).acquireAt) (h.setTeam.bindSlots.foldl fun _ _ hu => hu.seat)

theorem Canonical.splitIf {s cl i lay split} (h : Canonical s) : Canonical (s.splitIf cl i lay split) := by
  unfold State.splitIf
  cases split with
  | false => exact h
  | true =>
    cases splitFor i lay with
    | some => exact h.writeSplit
    | _ => exact h

theorem Canonical.placeTeams {s t lk cohort die split l} (h : Canonical s) (e : s.placeTeams lk cohort die split l = some t) : Canonical t := by
  induction l generalizing s with
  | nil => cases e; exact h
  | cons k l ih =>
    simp only [State.placeTeams] at e
    split at e
    · cases e
    · split at e
      · exact ih h.splitIf.placeTeam e
      · split at e
        · cases e
        · exact ih h.splitIf.placeTeam.splitIf.placeTeam.modTeam.modTeam e
end

mutual
theorem Canonical.placeCohort {s t lk} (h : Canonical s) (e : s.placeCohort lk = some t) : Canonical t := by
  obtain ⟨u, found, rfl⟩ := Option.map_eq_some_iff.1 e
  obtain ⟨_, _, placed⟩ := List.exists_of_findSome?_eq_some found
  exact (h.placeTeams placed).modLaunch

theorem Canonical.beginLaunch {s t lk} (h : Canonical s) (e : s.beginLaunch lk = some t) : Canonical t := by
  unfold State.beginLaunch at e
  dsimp only at e
  split at e
  · cases e; exact h
  · split at e
    · cases e
    · cases e; exact h.modLaunch.loadImage

theorem Canonical.execCohortPlacement {s launch} (h : Canonical s) : Keeps (execCohortPlacement launch s) := by
  unfold Machine.execCohortPlacement
  extract_lets
  refine .ite (.next h) ?_
  refine .ite (.next h) ?_
  split
  · exact .next h.startLaunch.logCause.modLaunch
  · split
    · exact .next h
    next e _ _ e2 => exact .next ((h.startLaunch.beginLaunch e).placeCohort e2)

theorem Canonical.execChildPlacement {s team} (h : Canonical s) : Keeps (execChildPlacement team s) := by
  unfold Machine.execChildPlacement
  extract_lets
  split
  · exact .next h
  · refine .ite (.next h) ?_
    split
    · exact .next h
    next e => exact .next ((h.setLaunch.placeCohort e).foldl fun _ _ hu => hu.modTeam.noteFree)

theorem Canonical.pauseSvc {s lk} (h : Canonical s) : Canonical (s.pauseSvc lk) := .ite h.modQuote h

theorem Canonical.leave {s gk} (h : Canonical s) : Canonical (s.leave gk) := by
  unfold State.leave
  refine .retarget ?_
  exact .ite (.ite h.setGroup.modLaunch.modTeam h.setGroup.modLaunch.modTeam.modTeam.unbind.pauseSvc) <|
    .fall (.ite h.setGroup.modLaunch.modTeam h.setGroup.modLaunch.modTeam.modTeam.unbind.pauseSvc)

theorem Canonical.execGroupEnd {s g} (h : Canonical s) : Keeps (execGroupEnd g s) := .ite (.next h.leave) (.next h)
theorem Canonical.flushTagL1 {s cls qidx sys} (h : Canonical s) : Canonical (s.flushTagL1 cls qidx sys) := h.foldl fun _ _ hu => hu.writeBacks
theorem Canonical.flushTagL2 {s cl qidx} (h : Canonical s) : Canonical (s.flushTagL2 cl qidx).1 := h.foldl_fst fun _ _ hq => hq.send
end

mutual
theorem Canonical.beginRelease {s lk scope} (h : Canonical s) : Canonical (s.beginRelease lk scope) := by
  unfold State.beginRelease
  refine .modLaunch ?_
  exact .ite (((h.foldl fun _ _ hu => hu.writeBack).foldl fun _ _ hu => hu.releaseSet).flushTagL1) <|
    (h.foldl fun _ _ hu => hu.writeBack).foldl fun _ _ hu => hu.releaseSet

theorem Canonical.release {s t lk scope} (h : Canonical s) (e : s.release lk scope = some t) : Canonical t := by
  unfold State.release at e
  dsimp only at e
  split at e
  · cases e
  · split at e
    · cases e; exact h.beginRelease
    · split at e
      · cases e; exact h
      · split at e
        · cases e; exact h.flushTagL2.modLaunch
        · cases e

theorem Canonical.dropLaunch {s lk} (h : Canonical s) : Canonical (s.dropLaunch lk) := (h.foldl fun _ _ hu => hu.leave).frame.setLaunch
theorem Canonical.dropFamily {s lk} (h : Canonical s) : Canonical (s.dropFamily lk) := (h.foldl fun _ _ hu => hu.dropLaunch).dropLaunch
theorem Canonical.endChild {s lk} (h : Canonical s) : Canonical (s.endChild lk) := .ite h.dropLaunch (h.foldl fun _ _ hu => hu.leave).modLaunch
theorem Canonical.freeMonitors {s qidx} (h : Canonical s) : Canonical (s.freeMonitors qidx) := ⟨h.wf⟩
theorem Canonical.countChild {s pa qidx} (h : Canonical s) : Canonical (s.countChild pa qidx) := .ite h.globalWrite h

theorem Canonical.execChildCompletion {s launch} (h : Canonical s) : Keeps (execChildCompletion launch s) := by
  unfold Machine.execChildCompletion
  extract_lets L
  refine .ite (.next h) ?_
  split
  next e => exact .next (h.release e)
  · refine .ite (.next h) ?_
    cases s.spaceAddr L.root L.counter with
    | none => exact .next h.endChild
    | some _ => exact .ite (.next h) (.next h.endChild.countChild)

theorem Canonical.endLaunch {s lk} (h : Canonical s) : Canonical (s.endLaunch lk) := by
  unfold State.endLaunch
  refine .freeEntry (.complete (.modQuote ?_))
  exact .ite ((h.dropFamily.foldl fun _ _ hu => hu.foldMeter).checkFigures.freeMonitors.signRecord) <|
    (h.dropFamily.foldl fun _ _ hu => hu.foldMeter).checkFigures.freeMonitors

theorem Canonical.execLaunchCompletion {s launch} (h : Canonical s) : Keeps (execLaunchCompletion launch s) := by
  unfold Machine.execLaunchCompletion
  extract_lets
  refine .ite (.next h) ?_
  split
  next released =>
    split at released
    · exact .next (h.release released)
    · cases released
  · exact .next h.endLaunch
end

/-! ### Pairs -/

mutual
theorem Canonical.unholdLines {s gk} (h : Canonical s) : Canonical (s.unholdLines gk) := h.modCluster.foldl fun _ _ hu => hu.noteReleaseOf

theorem Canonical.vaultStore {s l} (h : Canonical s) : Canonical (s.vaultStore l) := by
  unfold State.vaultStore
  refine h.foldl fun u w hu => ?_
  extract_lets mine
  cases List.mapM (fun i => Option.map Prod.snd (List.find? (fun e => e.1 == 4 * w + i) mine.reverse)) (List.range 4) with
  | some _ => exact hu.vaultWrite
  | none => exact hu.foldl fun _ _ hv => hv.vaultWrite

theorem Canonical.unhold {s gk} (h : Canonical s) : Canonical (s.unhold gk) := by
  unfold State.unhold
  exact (h.unholdLines.foldl fun _ _ hu => hu.vaultStore).modGroup

theorem Canonical.mismatch {s point a b} (h : Canonical s) : Canonical (s.mismatch point a b) := h.foldl fun _ _ hu => .ite hu.halt hu.discardHeld
theorem Canonical.settleSigs {s l r} (h : Canonical s) : Canonical (s.settleSigs l r) := h.unhold.modGroup.modGroup
theorem Canonical.approve {s l r} (h : Canonical s) : Canonical (s.approve l r) := ⟨h.wf⟩

theorem Canonical.execPairComparison {s g} (h : Canonical s) : Keeps (execPairComparison g s) := by
  unfold Machine.execPairComparison
  dsimp only
  cases s.partner g with
  | none => exact .next h
  | some _ =>
    exact .ite (.next h) <|
      .ite (.next h.mismatch) <|
      .ite (.next (.ite h.mismatch h.settleSigs)) <|
      .ite (.next h) (.ite (.next h.mismatch) (.ite (.next h.approve) (.ite (.next h.mismatch) (.next h.settleSigs.approve))))

theorem Canonical.compareStopped {s tk} (h : Canonical s) : Canonical (s.compareStopped tk) := by
  unfold State.compareStopped
  refine h.foldl fun u gk hu => ?_
  cases u.partner gk with
  | none => exact hu
  | some _ => exact .ite hu.settleSigs hu.mismatch
end

end Sys2Proof.Machine
end

section
/-! Saving, restoring, checkpoints and errors keep memory canonical. -/

namespace Sys2Proof.Machine

/-! ### Teams saved and restored -/

mutual
theorem Canonical.preemptTx {s gk} (h : Canonical s) : Canonical (s.preemptTx gk) := by
  unfold State.preemptTx
  extract_lets
  refine .ite h ?_
  refine (h.foldl fun u e hu => ?_).modGroup
  cases e.2.kind with
  | commit => exact .ite hu hu.unlock.setOp
  | _ => exact hu

theorem Canonical.beginSave {s tk} (h : Canonical s) : Canonical (s.beginSave tk) :=
  h.foldl fun _ _ hu => .ite hu (hu.modTeam.foldl fun _ _ hv => (hv.foldl fun _ _ hw => hw.endOp).preemptTx)

theorem Canonical.dropOps {s ks} (h : Canonical s) : Canonical (s.dropOps ks) := (h.foldl fun _ _ hu => hu.unlock.setOp).frame

theorem Canonical.clearTeam {s tk} (h : Canonical s) : Canonical (s.clearTeam tk) :=
  (h.foldl fun _ _ hu => hu.freeWaits.discardHeld.dropOps.modQuarter.setGroup).modCluster.frame.frame

theorem Canonical.vacate {s tk} (h : Canonical s) : Canonical (s.vacate tk) :=
  .retarget (.ite h.foldMeter.checkFigures.unbind h.foldMeter.checkFigures.unbind.fall)

theorem Canonical.moveImage {s cl} (h : Canonical s) : Canonical (s.moveImage cl) := by
  unfold State.moveImage
  extract_lets
  cases (s.cluster cl).imageArea with
  | none => exact h
  | some _ => exact h.modTeam.writeMem.modCluster

theorem Canonical.takeArea {s cl tk} (h : Canonical s) : Canonical (s.takeArea cl tk) := ⟨h.wf⟩

theorem Canonical.saveOne {s tk} (h : Canonical s) : Canonical (s.saveOne tk) := by
  unfold State.saveOne
  exact h.frame.modTeam.clearTeam.frame.takeArea.writeMem.vacate.pauseSvc
end

mutual
theorem Canonical.releaseTeam {s tk} (h : Canonical s) : Canonical (s.releaseTeam tk) := by
  unfold State.releaseTeam
  exact (h.foldl fun _ _ hu => hu.releaseSet).modTeam

theorem Canonical.execTeamSave {s team} (h : Canonical s) : Keeps (execTeamSave team s) := by
  unfold Machine.execTeamSave
  extract_lets
  exact .ite (.next h) <|
    .ite (.next ((h.foldl fun _ _ hu => hu.compareStopped).foldl fun _ _ hu => hu.releaseTeam)) <|
    .ite (.next (h.foldl fun _ _ hu => hu.saveOne)) (.next h)

theorem Canonical.discard {s tk} (h : Canonical s) : Canonical (s.discard tk) :=
  h.foldl fun _ _ hu => .pauseSvc (.vacate (.takeArea (.ite hu.clearTeam.modTeam hu.clearTeam.modTeam.moveImage)))

theorem Canonical.reloadSlots {s cl lk l} (h : Canonical s) : Canonical (s.reloadSlots cl lk l) := h.foldl fun _ _ hu => .ite hu hu.modCluster

theorem Canonical.reinstall {s gk sl e} (h : Canonical s) : Canonical (s.reinstall gk sl e) := by
  unfold State.reinstall
  extract_lets e
  cases s.monHit e with
  | some _ => exact h.modGroup
  | none =>
    dsimp only
    split
    next e => exact (h.register e).modGroup
    · exact h.modGroup

theorem Canonical.rejoin {s tk cl l m} (h : Canonical s) : Canonical (s.rejoin tk cl l m) := h.frame.foldl fun _ _ hu => .ite hu.openRdv hu

theorem Canonical.restoreImage {s tk cl im} (h : Canonical s) : Canonical (s.restoreImage tk cl im).1 := by
  unfold State.restoreImage
  dsimp only
  refine .retarget (.acquireAt (.foldl (.frame (.rejoin (.foldl (h.reloadSlots.modTeam.foldl_fst fun _ _ hr => hr.seat) ?ops))) ?waits))
  case ops =>
    intro u e hu
    cases e.2.kind with
    | copy => exact hu.setOp.modCluster
    | gather => exact hu.setOp.modCluster
    | _ => exact hu.setOp
  case waits =>
    intro u e hu
    split
    · exact .ite hu hu.reinstall
    · exact hu

theorem Canonical.refresh {s tk cl} (h : Canonical s) : Canonical (s.refresh tk cl) := by
  unfold State.refresh
  refine .retarget ?_
  exact .ite ((h.modTeam.bindSlots.foldl fun _ _ hu => hu.seat).acquireAt) <|
    .ite ((h.modTeam.bindSlots.foldl fun _ _ hu => hu.seat).acquireAt) (h.modTeam.bindSlots.foldl fun _ _ hu => hu.seat)
end

mutual
theorem Canonical.leaveArea {s tk} (h : Canonical s) : Canonical (s.leaveArea tk) := ⟨h.wf⟩

theorem Canonical.bringBack {s tk cl} (h : Canonical s) : Canonical (s.bringBack tk cl).1 := by
  unfold State.bringBack
  extract_lets s'
  cases (s'.team tk).image with
  | some _ => exact h.leaveArea.restoreImage
  | none => exact h.leaveArea.refresh

theorem Canonical.remirror {s ks m} (h : Canonical s) : Canonical (s.remirror ks m) := h.foldl fun _ _ hu => .ite hu hu.setOp

theorem Canonical.relaunched {s lk} (h : Canonical s) : Canonical (s.relaunched lk) := by
  unfold State.relaunched
  extract_lets root
  cases (s.launch root).rolledAt with
  | none => exact h
  | some _ => exact .ite h h.modLaunch.modQuote

theorem Canonical.execTeamRestore {s team} (h : Canonical s) : Keeps (execTeamRestore team s) := by
  unfold Machine.execTeamRestore
  dsimp only
  refine .ite (.next h) ?_
  cases s.homeFor team fun c => dieOf c == dieOf (s.team team).cluster with
  | none => exact .next h
  | some _ =>
    refine .ite (.next h.splitIf.bringBack.relaunched.pauseSvc) ?_
    split
    · exact .next h
    · exact .next h.splitIf.bringBack.splitIf.bringBack.remirror.remirror.relaunched.pauseSvc

theorem Canonical.preempt {s lk latest tk} (h : Canonical s) : Canonical (s.preempt lk latest tk) :=
  .ite (h.foldl fun _ _ hu => hu.modTeam).pauseSvc (.ite h.discard h.beginSave.pauseSvc)

theorem Canonical.execPreemptionDecision {s launch} (h : Canonical s) : Keeps (execPreemptionDecision launch s) := by
  unfold Machine.execPreemptionDecision
  extract_lets
  refine .ite (.next h) ?_
  refine .next (h.foldl fun u t hu => ?_)
  cases (u.team t).phase with
  | running => exact hu.preempt
  | draining => exact .ite hu hu.beginSave
  | _ => exact hu

theorem Canonical.execDrainWatchdog {s team} (h : Canonical s) : Keeps (execDrainWatchdog team s) := by
  unfold Machine.execDrainWatchdog
  cases (s.team team).phase with
  | draining => exact .ite (.next h.beginSave) (.next h)
  | _ => exact .next h
end

/-! ### Checkpoints, rollback, errors, the undercoat -/

mutual
theorem Canonical.stopLaunch {s lk out} (h : Canonical s) : Canonical (s.stopLaunch lk out) := by
  unfold State.stopLaunch
  refine ((h.foldl fun u t hu => ?_).foldl fun _ _ hu => hu.dropLaunch).freeMonitors.modLaunch
  exact .ite hu.clearTeam.modTeam.vacate hu.clearTeam.modTeam

theorem Canonical.invalidate {s qidx parts} (h : Canonical s) : Canonical (s.invalidate qidx parts) := ⟨h.wf⟩
theorem Canonical.replay {s r} (h : Canonical s) : Canonical (s.replay r) := h.homeWrite.flushLine
theorem Canonical.replayAll {s qidx} (h : Canonical s) : Canonical (s.replayAll qidx) := (h.foldl fun _ _ hu => hu.replay).frame

theorem Canonical.teamBack {s t} (h : Canonical s) : Canonical (s.teamBack t) := by
  unfold State.teamBack
  cases (s.team t).boundary with
  | none => exact h.setTeam
  | some _ => exact h.modTeam

theorem Canonical.vaultBack {s lk} (h : Canonical s) : Canonical (s.vaultBack lk) := h.vaultStore.frame

theorem Canonical.rollback {s lk} (h : Canonical s) : Canonical (s.rollback lk) := by
  unfold State.rollback
  refine .pauseSvc (.relaunched (.modLaunch (.foldl (.foldl (.foldl (.replayAll (.invalidate (.freeMonitors (.foldl h ?teams)))) ?vault)
    ?back) ?launches)))
  case teams =>
    intro u t hu
    exact .ite hu.clearTeam.modTeam.vacate hu.clearTeam.modTeam
  case vault => exact fun _ _ hu => hu.vaultBack
  case back => exact fun _ _ hu => hu.teamBack
  case launches =>
    intro u k hu
    exact .ite hu.setLaunch hu.modLaunch

theorem Canonical.execLaunchPolicyApply {s launch} (h : Canonical s) : Keeps (execLaunchPolicyApply launch s) :=
  .ite (.next h) (.ite (.next h.modLaunch) (.ite (.next h.stopLaunch) (.ite (.next h.stopLaunch) (.next h.rollback))))

theorem Canonical.execCheckpointPacket {s pk} (h : Canonical s) : Keeps (execCheckpointPacket pk s) := by
  unfold Machine.execCheckpointPacket
  refine h.whenTurn fun u p hu => ?_
  extract_lets
  cases u.protectedOn p with
  | none => exact hu.complete
  | some _ => exact hu.frame.modPacket
end

mutual
theorem Canonical.execRollbackPacket {s pk} (h : Canonical s) : Keeps (execRollbackPacket pk s) := by
  unfold Machine.execRollbackPacket
  refine .ite (.next h) ?_
  refine h.whenTurn fun u p hu => ?_
  cases u.protectedOn p with
  | none => exact hu.complete
  | some _ => exact .ite hu.stopLaunch.complete hu.rollback.complete

theorem Canonical.execCkiExpiry {s launch} (h : Canonical s) : Keeps (execCkiExpiry launch s) := .ite (.next h.frame) (.next h)

theorem Canonical.passCkpt {s gk} (h : Canonical s) : Canonical (s.passCkpt gk) := by
  unfold State.passCkpt
  dsimp only
  cases (s.group gk).wait with
  | ckpt => exact h.modGroup.foldl fun _ _ hu => hu.modGroup.fallThrough
  | _ => exact h

theorem Canonical.commitClose {s} (h : Canonical s) : Canonical s.commitClose :=
  ((h.frame.foldl fun _ _ hu => hu.passCkpt).foldl fun _ _ hu => (hu.foldl fun _ _ hv => hv.modTeam).modLaunch).foldl fun _ _ hu => hu.complete

theorem Canonical.closeWrites {s} (h : Canonical s) : Canonical s.closeWrites := by
  unfold State.closeWrites
  extract_lets
  refine .ite ((h.foldl fun _ _ hu => hu.flushTagL1).frame) ?_
  refine .frame (.foldl_fst h fun r q hr => ?_)
  exact hr.flushTagL2

theorem Canonical.execIntervalClose {s} (h : Canonical s) : Keeps (execIntervalClose s) :=
  .ite (.next h) <|
  .ite (.next h.frame) <|
  .ite (.next h) <|
  .ite (.next (.ite (h.foldl fun _ _ hu => hu.compareStopped) (h.foldl fun _ _ hu => hu.compareStopped).closeWrites)) <|
  .ite (.next h) (.next (.ite h.closeWrites h.commitClose))

theorem Canonical.execEccUncorrectable {s pa} (h : Canonical s) : Keeps (execEccUncorrectable pa s) := by
  unfold Machine.execEccUncorrectable
  refine .ite ?_ ?_
  · cases s.scrOwner (pa / 2 ^ 24 % 512) (pa % 2 ^ 24) with
    | some _ => exact .next h.modTeam
    | none => exact .next h
  · exact .ite (.next h.setMemPoison) (.ite (.next h.frame) (.next h))

/-- Entries put elsewhere in a table are written to it one by one. -/
theorem Tab.wf_moveInto {V : Type} [DecidableEq V] {d : V} {t : Tab V} (to' : Nat → Bool) (f : Nat → Option Nat) (h : Tab.wf d t) :
    Tab.wf d (moveInto d to' f t) := by
  unfold moveInto
  induction t.filterMap fun e => (f e.1).map fun k => (k, e.2) with
  | nil => exact Tab.wf_filter _ h
  | cons e l ih => exact Tab.wf_set ih

theorem Canonical.execUndercoatDone {s} (h : Canonical s) : Keeps (execUndercoatDone s) := by
  unfold Machine.execUndercoatDone
  refine .ite (.next h) ?_
  refine .next ⟨?_⟩
  dsimp only
  exact Tab.wf_moveInto _ _ h.wf

theorem Canonical.execUndercoatRestore {s} (h : Canonical s) : Keeps (execUndercoatRestore s) := by
  unfold Machine.execUndercoatRestore
  refine .ite (.next h) ?_
  refine .next ⟨?_⟩
  extract_lets
  exact Tab.wf_moveInto _ _ h.wf
end

end Sys2Proof.Machine
end

section
/-! Firmware, the outside, lane words, group-wide words and power keep memory canonical. -/

namespace Sys2Proof.Machine

/-! ### Firmware and the outside -/

mutual
theorem Canonical.answer {s die status} (h : Canonical s) : Canonical (s.answer die status) := ⟨h.wf⟩

theorem Canonical.whenAsked {s code die k} (h : Canonical s) (hk : ∀ u, Canonical u → Canonical (k u)) : Keeps (whenAsked code die s k) :=
  .ite (.next (hk _ h)) (.next h)

theorem Canonical.execCreateq {s die} (h : Canonical s) : Keeps (execCreateq die s) := h.whenAsked fun _ hu => hu.put.frame.watchTail.answer

theorem Canonical.execDestroyq {s die} (h : Canonical s) : Keeps (execDestroyq die s) := by
  unfold Machine.execDestroyq
  refine h.whenAsked fun u hu => ?_
  extract_lets
  cases u.queueAt die (u.reqOp die 0) with
  | none => exact hu.answer
  | some _ => exact (hu.foldl fun _ _ hv => hv.frame).frame.modQueue.modSlice.answer

theorem Canonical.execSetcap {s die} (h : Canonical s) : Keeps (execSetcap die s) :=
  h.whenAsked fun _ hu => .answer (.ite (hu.frame.foldl fun _ _ hv => hv.logCause) hu.frame)

theorem Canonical.execSetregions {s die} (h : Canonical s) : Keeps (execSetregions die s) :=
  h.whenAsked fun _ hu => .answer (.modDie (.ite hu.frame hu))

theorem Canonical.execUndercoat {s die} (h : Canonical s) : Keeps (execUndercoat die s) :=
  h.whenAsked fun _ hu => .ite hu.answer (hu.foldl fun _ _ hv => hv.beginSave).frame.answer

theorem Canonical.execFwupdate {s die} (h : Canonical s) : Keeps (execFwupdate die s) := h.whenAsked fun _ hu => hu.frame.answer
end

mutual
theorem Canonical.execAttest {s die} (h : Canonical s) : Keeps (execAttest die s) := by
  unfold Machine.execAttest
  refine h.whenAsked fun u hu => ?_
  dsimp only
  exact hu.signed.put.answer

theorem Canonical.execSetfilter {s die} (h : Canonical s) : Keeps (execSetfilter die s) :=
  h.whenAsked fun _ hu => .answer (.modDie (.ite hu.put.put hu))

theorem Canonical.execMailboxBadreq {s die} (h : Canonical s) : Keeps (execMailboxBadreq die s) := .ite (.next h.answer) (.next h)
theorem Canonical.execFunctionReady {s die bit} (h : Canonical s) : Keeps (execFunctionReady die bit s) := .ite (.next h) (.next h.modDie)

theorem Canonical.execFunctionReset {s die bit} (h : Canonical s) : Keeps (execFunctionReset die bit s) :=
  .ite (.next h) (.ite (.next h.resetFirmware) (.ite (.next h.modDie) (.ite (.next (.modDie (.ite h.frame h))) (.next h.modDie))))

theorem keeps_execPowerOnReset {s} : Keeps (execPowerOnReset s) := .next ⟨State.reset_mem_wf⟩

theorem Canonical.execDeviceReset {s} (h : Canonical s) : Keeps (execDeviceReset s) :=
  .next ((h.foldl fun _ _ hu => hu.logCause).foldl fun _ _ hu => hu.resetFirmware).frame

theorem Canonical.execScrub {s unit} (h : Canonical s) : Keeps (execScrub unit s) := .ite (.next h.moveImage) (.next h)
theorem Canonical.hostPut {s pa bs} (h : Canonical s) : Canonical (s.hostPut pa bs) := .ite h.sysWrite (.ite h.winWrite h)
end

mutual
theorem Canonical.execHostWrite {s pa bytes} (h : Canonical s) : Keeps (execHostWrite pa bytes s) := by
  unfold Machine.execHostWrite
  extract_lets
  cases holeIn pa bytes.length with
  | some _ => exact .fault
  | none => exact .next h.hostPut.frame

theorem Canonical.execHostRead {s pa n} (h : Canonical s) : Keeps (execHostRead pa n s) := by
  unfold Machine.execHostRead
  extract_lets
  cases holeIn pa n with
  | some _ => exact .fault
  | none => exact .next h.frame

theorem Canonical.execEthernetEgress {s port pa n} (h : Canonical s) : Keeps (execEthernetEgress port pa n s) := by
  unfold Machine.execEthernetEgress
  extract_lets
  refine .ite (.next h) ?_
  cases holeIn pa n with
  | some _ => exact .fault
  | none => exact .next h.frame

theorem Canonical.execIngressFrame {s die port mac ethertype udp frame} (h : Canonical s) :
    Keeps (execIngressFrame die port mac ethertype udp frame s) := by
  unfold Machine.execIngressFrame
  extract_lets
  refine .ite (.next h) ?_
  cases (s.die die).filterFor port mac ethertype udp with
  | none => exact .next h
  | some _ => exact .ite (.next h) (.ite (.next h.globalWrite) (.next h.globalWrite.globalWrite))

theorem Canonical.shiftTimes {s d} (h : Canonical s) : Canonical (s.shiftTimes d) := ⟨h.wf⟩

theorem Canonical.execPtpMessage {s port offset} (h : Canonical s) : Keeps (execPtpMessage port offset s) :=
  .ite (.next h) (.ite (.next h.frame) (.next h.shiftTimes.frame))

theorem Canonical.execSyncLockChange {s locked} (h : Canonical s) : Keeps (execSyncLockChange locked s) := .ite (.next h) (.next h.frame)
theorem Canonical.execNoMasterHeard {s} (h : Canonical s) : Keeps (execNoMasterHeard s) := .next h.frame

theorem Canonical.execEventMessageTransmission {s port} (h : Canonical s) : Keeps (execEventMessageTransmission port s) :=
  .ite (.next h) (.next h.frame)
end

/-! ### Predicate words -/

theorem Canonical.predWordOf {s i n f} (h : Canonical s) : Keeps (predWordOf i n f s) := h.issue fun _ hu => .next hu.chargeMe.modMe

/-! ### Lane words -/

mutual
theorem Canonical.lane1 {s i pipe cost w d a f} (h : Canonical s) : Keeps (lane1 i pipe cost w d a f s) := h.laneWord
theorem Canonical.lane2 {s i pipe cost w d a b f} (h : Canonical s) : Keeps (lane2 i pipe cost w d a b f s) := h.laneWord
theorem Canonical.lane3 {s i pipe cost w d a b f} (h : Canonical s) : Keeps (lane3 i pipe cost w d a b f s) := h.laneWord
theorem Canonical.execMov {s w d a} (h : Canonical s) : Keeps (execMov w d a s) := h.lane1
theorem Canonical.execMovi {s w d imm} (h : Canonical s) : Keeps (execMovi w d imm s) := h.laneWord
theorem Canonical.execMovhi {s w d imm} (h : Canonical s) : Keeps (execMovhi w d imm s) := h.laneWord
theorem Canonical.execIadd {s w d a b} (h : Canonical s) : Keeps (execIadd w d a b s) := h.lane2
theorem Canonical.execIaddi {s w d a imm} (h : Canonical s) : Keeps (execIaddi w d a imm s) := h.lane1
theorem Canonical.execIsub {s w d a b} (h : Canonical s) : Keeps (execIsub w d a b s) := h.lane2
end

mutual
theorem Canonical.execImul {s w d a b} (h : Canonical s) : Keeps (execImul w d a b s) := h.lane2
theorem Canonical.execImulh {s w d a b} (h : Canonical s) : Keeps (execImulh w d a b s) := h.lane2
theorem Canonical.execImulhu {s w d a b} (h : Canonical s) : Keeps (execImulhu w d a b s) := h.lane2
theorem Canonical.execImad {s w d a b} (h : Canonical s) : Keeps (execImad w d a b s) := h.lane3
theorem Canonical.execIadd64 {s w d a b} (h : Canonical s) : Keeps (execIadd64 w d a b s) := h.laneWord
theorem Canonical.execLea {s w d a b} (h : Canonical s) : Keeps (execLea w d a b s) := h.laneWord
theorem Canonical.execAnd {s w d a b} (h : Canonical s) : Keeps (execAnd w d a b s) := h.lane2
theorem Canonical.execOr {s w d a b} (h : Canonical s) : Keeps (execOr w d a b s) := h.lane2
theorem Canonical.execXor {s w d a b} (h : Canonical s) : Keeps (execXor w d a b s) := h.lane2
end

mutual
theorem Canonical.execAndn {s w d a b} (h : Canonical s) : Keeps (execAndn w d a b s) := h.lane2
theorem Canonical.execShl {s w d a b} (h : Canonical s) : Keeps (execShl w d a b s) := h.lane2
theorem Canonical.execShr {s w d a b} (h : Canonical s) : Keeps (execShr w d a b s) := h.lane2
theorem Canonical.execSar {s w d a b} (h : Canonical s) : Keeps (execSar w d a b s) := h.lane2
theorem Canonical.execShli {s w d a imm} (h : Canonical s) : Keeps (execShli w d a imm s) := h.lane1
theorem Canonical.execShri {s w d a imm} (h : Canonical s) : Keeps (execShri w d a imm s) := h.lane1
theorem Canonical.execSari {s w d a imm} (h : Canonical s) : Keeps (execSari w d a imm s) := h.lane1
theorem Canonical.execImin {s w d a b} (h : Canonical s) : Keeps (execImin w d a b s) := h.lane2
theorem Canonical.execImax {s w d a b} (h : Canonical s) : Keeps (execImax w d a b s) := h.lane2
end

mutual
theorem Canonical.execUmin {s w d a b} (h : Canonical s) : Keeps (execUmin w d a b s) := h.lane2
theorem Canonical.execUmax {s w d a b} (h : Canonical s) : Keeps (execUmax w d a b s) := h.lane2
theorem Canonical.execIabs {s w d a} (h : Canonical s) : Keeps (execIabs w d a s) := h.lane1
theorem Canonical.execBfe {s w d a b} (h : Canonical s) : Keeps (execBfe w d a b s) := h.lane2
theorem Canonical.execPopc {s w d a} (h : Canonical s) : Keeps (execPopc w d a s) := h.lane1
theorem Canonical.execClz {s w d a} (h : Canonical s) : Keeps (execClz w d a s) := h.lane1
theorem Canonical.execBrev {s w d a} (h : Canonical s) : Keeps (execBrev w d a s) := h.lane1
theorem Canonical.execBfi {s w d a} (h : Canonical s) : Keeps (execBfi w d a s) := h.laneWord
theorem Canonical.execFadd {s w d a b} (h : Canonical s) : Keeps (execFadd w d a b s) := h.lane2
end

mutual
theorem Canonical.execFsub {s w d a b} (h : Canonical s) : Keeps (execFsub w d a b s) := h.lane2
theorem Canonical.execFmul {s w d a b} (h : Canonical s) : Keeps (execFmul w d a b s) := h.lane2
theorem Canonical.execFfma {s w d a b} (h : Canonical s) : Keeps (execFfma w d a b s) := h.lane3
theorem Canonical.execFmin {s w d a b} (h : Canonical s) : Keeps (execFmin w d a b s) := h.lane2
theorem Canonical.execFmax {s w d a b} (h : Canonical s) : Keeps (execFmax w d a b s) := h.lane2
theorem Canonical.execHadd2 {s w d a b} (h : Canonical s) : Keeps (execHadd2 w d a b s) := h.lane2
theorem Canonical.execHmul2 {s w d a b} (h : Canonical s) : Keeps (execHmul2 w d a b s) := h.lane2
theorem Canonical.execHfma2 {s w d a b} (h : Canonical s) : Keeps (execHfma2 w d a b s) := h.lane3
theorem Canonical.execBadd2 {s w d a b} (h : Canonical s) : Keeps (execBadd2 w d a b s) := h.lane2
end

mutual
theorem Canonical.execBmul2 {s w d a b} (h : Canonical s) : Keeps (execBmul2 w d a b s) := h.lane2
theorem Canonical.execBfma2 {s w d a b} (h : Canonical s) : Keeps (execBfma2 w d a b s) := h.lane3
theorem Canonical.execFrcp {s w d a} (h : Canonical s) : Keeps (execFrcp w d a s) := h.lane1
theorem Canonical.execFrsq {s w d a} (h : Canonical s) : Keeps (execFrsq w d a s) := h.lane1
theorem Canonical.execFexp2 {s w d a} (h : Canonical s) : Keeps (execFexp2 w d a s) := h.lane1
theorem Canonical.execFlog2 {s w d a} (h : Canonical s) : Keeps (execFlog2 w d a s) := h.lane1
theorem Canonical.execCvt {s w d a imm} (h : Canonical s) : Keeps (execCvt w d a imm s) := h.lane1
theorem Canonical.execFscale {s w d a b} (h : Canonical s) : Keeps (execFscale w d a b s) := h.lane2
theorem Canonical.execQscale {s w d a b} (h : Canonical s) : Keeps (execQscale w d a b s) := h.lane2
end

mutual
theorem Canonical.execFrnd {s w d a imm} (h : Canonical s) : Keeps (execFrnd w d a imm s) := h.lane1
theorem Canonical.execIcmp {s cond p a b} (h : Canonical s) : Keeps (execIcmp cond p a b s) := h.predWordOf
theorem Canonical.execUcmp {s cond p a b} (h : Canonical s) : Keeps (execUcmp cond p a b s) := h.predWordOf
theorem Canonical.execFcmp {s cond p a b} (h : Canonical s) : Keeps (execFcmp cond p a b s) := h.predWordOf
theorem Canonical.execPlop {s f p a b} (h : Canonical s) : Keeps (execPlop f p a b s) := h.predWordOf
theorem Canonical.execSel {s w d a b} (h : Canonical s) : Keeps (execSel w d a b s) := h.laneWord

theorem Canonical.execVote {s w d a mode} (h : Canonical s) : Keeps (execVote w d a mode s) := by
  unfold Machine.execVote
  refine h.issue fun u hu => ?_
  extract_lets
  split
  · exact .next hu.chargeMe.gResult64
  · exact .next hu.chargeMe.gResult
  · exact .next hu.chargeMe.gResult
  · exact .next hu.chargeMe.gResult

theorem Canonical.execMset {s a mode} (h : Canonical s) : Keeps (execMset a mode s) := h.issue fun _ hu => .next hu.chargeMe.modStr
theorem Canonical.execPmovGet {s d} (h : Canonical s) : Keeps (execPmovGet d s) := h.issue fun _ hu => .next hu.chargeMe.modMe
theorem Canonical.execPmovPut {s a} (h : Canonical s) : Keeps (execPmovPut a s) := h.issue fun _ hu => .next hu.chargeMe.modMe
end

/-! ### Group-wide words -/

mutual
theorem Canonical.g1 {s i w d a f} (h : Canonical s) : Keeps (g1 i w d a f s) := h.groupWord
theorem Canonical.g2 {s i w d a b f} (h : Canonical s) : Keeps (g2 i w d a b f s) := h.groupWord
theorem Canonical.execGmov {s w d a} (h : Canonical s) : Keeps (execGmov w d a s) := h.g1
theorem Canonical.execGmovi {s w d imm} (h : Canonical s) : Keeps (execGmovi w d imm s) := h.groupWord
theorem Canonical.execGmovhi {s w d imm} (h : Canonical s) : Keeps (execGmovhi w d imm s) := h.groupWord
theorem Canonical.execGadd {s w d a b} (h : Canonical s) : Keeps (execGadd w d a b s) := h.g2
theorem Canonical.execGaddi {s w d a imm} (h : Canonical s) : Keeps (execGaddi w d a imm s) := h.g1
end

mutual
theorem Canonical.execGsub {s w d a b} (h : Canonical s) : Keeps (execGsub w d a b s) := h.g2
theorem Canonical.execGmul {s w d a b} (h : Canonical s) : Keeps (execGmul w d a b s) := h.g2
theorem Canonical.execGand {s w d a b} (h : Canonical s) : Keeps (execGand w d a b s) := h.g2
theorem Canonical.execGor {s w d a b} (h : Canonical s) : Keeps (execGor w d a b s) := h.g2
theorem Canonical.execGxor {s w d a b} (h : Canonical s) : Keeps (execGxor w d a b s) := h.g2
theorem Canonical.execGshift {s w d a b} (h : Canonical s) : Keeps (execGshift w d a b s) := h.g2
theorem Canonical.execGcmp {s cond p a b} (h : Canonical s) : Keeps (execGcmp cond p a b s) := h.issue fun _ hu => .next hu.chargeMe.modMe
end

mutual
theorem Canonical.execGminmax {s w d a b} (h : Canonical s) : Keeps (execGminmax w d a b s) := h.groupWord64
theorem Canonical.execGadd64 {s w d a b} (h : Canonical s) : Keeps (execGadd64 w d a b s) := h.groupWord64
theorem Canonical.execGbcast {s w d a b} (h : Canonical s) : Keeps (execGbcast w d a b s) := h.groupWord

theorem Canonical.execVbcast {s w d a} (h : Canonical s) : Keeps (execVbcast w d a s) :=
  h.issue fun _ hu => .next (.enterLatch (.ite hu.chargeMe hu.chargeMe.modMe))

theorem Canonical.execView {s v a} (h : Canonical s) : Keeps (execView v a s) := h.issue fun _ hu => .next hu.chargeMe.modMe
theorem Canonical.execSfmt {s k a} (h : Canonical s) : Keeps (execSfmt k a s) := h.issue fun _ hu => .next hu.chargeMe.modTeam

theorem Canonical.execGang {s d a} (h : Canonical s) : Keeps (execGang d a s) :=
  h.issue fun _ hu => .next (.gResult (.modMe (.ite hu.chargeMe hu.chargeMe.leaveGang)))
end

/-! ### Lane exchange -/

mutual
theorem Canonical.execDot8w {s w d a b} (h : Canonical s) : Keeps (execDot8w w d a b s) := h.lane3
theorem Canonical.execDot8i {s w d a b} (h : Canonical s) : Keeps (execDot8i w d a b s) := h.lane3
theorem Canonical.execDot4w {s w d a b} (h : Canonical s) : Keeps (execDot4w w d a b s) := h.lane3
theorem Canonical.execDot4i {s w d a b} (h : Canonical s) : Keeps (execDot4i w d a b s) := h.lane3
theorem Canonical.execShfl {s w d a b} (h : Canonical s) : Keeps (execShfl w d a b s) := h.laneWord
end

mutual
theorem Canonical.execShflx {s w d a imm} (h : Canonical s) : Keeps (execShflx w d a imm s) := h.laneWord
theorem Canonical.execQxch {s w d a imm} (h : Canonical s) : Keeps (execQxch w d a imm s) := h.laneWord
theorem Canonical.execLred {s w d a imm} (h : Canonical s) : Keeps (execLred w d a imm s) := h.laneWord
theorem Canonical.execRdid {s w d sel} (h : Canonical s) : Keeps (execRdid w d sel s) := h.laneWord
theorem Canonical.execMrd {s w d a b} (h : Canonical s) : Keeps (execMrd w d a b s) := h.groupWord64
theorem Canonical.execStrd {s w d} (h : Canonical s) : Keeps (execStrd w d s) := h.groupWord
end

/-! ### Power -/

mutual
theorem Canonical.execPowerCapReached {s draw} (h : Canonical s) : Keeps (execPowerCapReached draw s) :=
  .ite (.next (h.foldl fun _ _ hu => .ite hu.modCluster.retarget hu)) (.next (h.foldl fun _ _ hu => hu.modCluster.retarget))

theorem Canonical.execLevelChangeComplete {s cl} (h : Canonical s) : Keeps (execLevelChangeComplete cl s) := .ite (.next h) (.next h.modCluster)
theorem Canonical.parkings {s cl} (h : Canonical s) : Canonical (s.parkings cl) := .ite h (h.foldl fun _ _ hu => hu.fall).modCluster
theorem Canonical.execPrimerWindow {s cl} (h : Canonical s) : Keeps (execPrimerWindow cl s) := .next h.modCluster

theorem Canonical.execDroopDetect {s cl} (h : Canonical s) : Keeps (execDroopDetect cl s) :=
  .ite (.next h) (.ite (.next h.modCluster) (.next h.modCluster))

theorem Canonical.droopOver {s cl ns} (h : Canonical s) : Canonical (s.droopOver cl ns) :=
  .ite h.chargeOverhead.modCluster (.ite (.ite (h.modCluster.foldl fun _ _ hu => hu.logCause) h.modCluster) h)
end

mutual
theorem Canonical.droopDue {s cl} (h : Canonical s) : Canonical (s.droopDue cl) := .ite (.ite h.droopOver h) (.ite h.droopOver h)
theorem Canonical.execDroopRecovery {s cl ns} (h : Canonical s) : Keeps (execDroopRecovery cl ns s) := .next h.droopOver

theorem Canonical.execThermalEvent {s cl lvl} (h : Canonical s) : Keeps (execThermalEvent cl lvl s) :=
  .next (.ite (h.modCluster.retarget.foldl fun _ _ hu => .ite hu.logCause hu) h.modCluster.retarget)

theorem Canonical.execDutyWindowSlide {s cl} (h : Canonical s) : Keeps (execDutyWindowSlide cl s) := .next h.modCluster

theorem Canonical.execEnergyMeterFold {s cl} (h : Canonical s) : Keeps (execEnergyMeterFold cl s) :=
  .next (h.foldl fun _ _ hu => hu.foldMeter.checkFigures)

theorem Canonical.execTmaxCheck {s launch} (h : Canonical s) : Keeps (execTmaxCheck launch s) := .next h.checkFigures
end

end Sys2Proof.Machine
end

section
/-! Every instruction, every packet and every step keeps memory canonical: the statement of O59. -/

namespace Sys2Proof.Machine

/-! ### Every instruction -/

theorem Canonical.exec {s i} (h : Canonical s) : Keeps (exec i s) := by
  cases i with
  | nop => exact h.execNop
  | bra => exact h.execBra
  | bany => exact h.execBany
  | ball => exact h.execBall
  | bnone => exact h.execBnone
  | bdiv => exact h.execBdiv
  | join => exact h.execJoin
  | call => exact h.execCall
  | ret => exact h.execRet
  | loop => exact h.execLoop
  | jmpf => exact h.execJmpf
  | cfetch => exact h.execCfetch
  | trap => exact h.execTrap
  | exit => exact h.execExit
  | eret => exact h.execEret
  | mov => exact h.execMov
  | movi => exact h.execMovi
  | movhi => exact h.execMovhi
  | iadd => exact h.execIadd
  | iaddi => exact h.execIaddi
  | isub => exact h.execIsub
  | imul => exact h.execImul
  | imulh => exact h.execImulh
  | imulhu => exact h.execImulhu
  | imad => exact h.execImad
  | iadd64 => exact h.execIadd64
  | lea => exact h.execLea
  | and => exact h.execAnd
  | or => exact h.execOr
  | xor => exact h.execXor
  | andn => exact h.execAndn
  | shl => exact h.execShl
  | shr => exact h.execShr
  | sar => exact h.execSar
  | shli => exact h.execShli
  | shri => exact h.execShri
  | sari => exact h.execSari
  | imin => exact h.execImin
  | imax => exact h.execImax
  | umin => exact h.execUmin
  | umax => exact h.execUmax
  | iabs => exact h.execIabs
  | bfe => exact h.execBfe
  | fadd => exact h.execFadd
  | fsub => exact h.execFsub
  | fmul => exact h.execFmul
  | ffma => exact h.execFfma
  | fmin => exact h.execFmin
  | fmax => exact h.execFmax
  | hadd2 => exact h.execHadd2
  | hmul2 => exact h.execHmul2
  | hfma2 => exact h.execHfma2
  | badd2 => exact h.execBadd2
  | bmul2 => exact h.execBmul2
  | bfma2 => exact h.execBfma2
  | frcp => exact h.execFrcp
  | frsq => exact h.execFrsq
  | fexp2 => exact h.execFexp2
  | flog2 => exact h.execFlog2
  | cvt => exact h.execCvt
  | fscale => exact h.execFscale
  | qscale => exact h.execQscale
  | frnd => exact h.execFrnd
  | icmp => exact h.execIcmp
  | ucmp => exact h.execUcmp
  | fcmp => exact h.execFcmp
  | plop => exact h.execPlop
  | sel => exact h.execSel
  | vote => exact h.execVote
  | mset => exact h.execMset
  | pmovGet => exact h.execPmovGet
  | pmovPut => exact h.execPmovPut
  | dot8w => exact h.execDot8w
  | dot8i => exact h.execDot8i
  | dot4w => exact h.execDot4w
  | dot4i => exact h.execDot4i
  | shfl => exact h.execShfl
  | shflx => exact h.execShflx
  | qxch => exact h.execQxch
  | lred => exact h.execLred
  | split => exact h.execSplit
  | fuse => exact h.execFuse
  | region => exact h.execRegion
  | rdid => exact h.execRdid
  | mrd => exact h.execMrd
  | strd => exact h.execStrd
  | gmov => exact h.execGmov
  | gmovi => exact h.execGmovi
  | gmovhi => exact h.execGmovhi
  | gadd => exact h.execGadd
  | gaddi => exact h.execGaddi
  | gsub => exact h.execGsub
  | gmul => exact h.execGmul
  | gand => exact h.execGand
  | gor => exact h.execGor
  | gxor => exact h.execGxor
  | gshift => exact h.execGshift
  | gcmp => exact h.execGcmp
  | gminmax => exact h.execGminmax
  | gadd64 => exact h.execGadd64
  | gbcast => exact h.execGbcast
  | vbcast => exact h.execVbcast
  | ldg => exact h.execLdg
  | stg => exact h.execStg
  | lds => exact h.execLds
  | sts => exact h.execSts
  | ldv => exact h.execLdv
  | stv => exact h.execStv
  | atomg => exact h.execAtomg
  | atoms => exact h.execAtoms
  | atomv => exact h.execAtomv
  | txb => exact h.execTxb
  | txe => exact h.execTxe
  | txa => exact h.execTxa
  | fence => exact h.execFence
  | tfence => exact h.execTfence
  | waitu => exact h.execWaitu
  | waitc => exact h.execWaitc
  | mma => exact h.execMma
  | copy => exact h.execCopy
  | gather => exact h.execGather
  | coll => exact h.execColl
  | launch => exact h.execLaunch
  | msend => exact h.execMsend
  | popc => exact h.execPopc
  | clz => exact h.execClz
  | brev => exact h.execBrev
  | bfi => exact h.execBfi
  | yield => exact h.execYield
  | setpl => exact h.execSetpl
  | rdclk => exact h.execRdclk
  | rdsync => exact h.execRdsync
  | rdprog => exact h.execRdprog
  | rdnrg => exact h.execRdnrg
  | ckpt => exact h.execCkpt
  | view => exact h.execView
  | sfmt => exact h.execSfmt
  | gang => exact h.execGang
  | pin => exact h.execPin
  | unpin => exact h.execUnpin
  | msr => exact h.execMsr
  | mrs => exact h.execMrs
  | bari => exact h.execBari
  | bara => exact h.execBara
  | barx => exact h.execBarx
  | barw => exact h.execBarw
  | stagea => exact h.execStagea
  | stager => exact h.execStager
  | ringadv => exact h.execRingadv
  | lqrd => exact h.execLqrd
  | l1wb => exact h.execL1wb
  | l1inv => exact h.execL1inv
  | groupEnd => exact h.execGroupEnd
  | strandMerge => exact h.execStrandMerge
  | joinDeadline => exact h.execJoinDeadline
  | switchHoldBreak => exact h.execSwitchHoldBreak
  | fuseWaitTimeout => exact h.execFuseWaitTimeout
  | loadWriteback => exact h.execLoadWriteback
  | storeAck => exact h.execStoreAck
  | atomicStep => exact h.execAtomicStep
  | atomicReturn => exact h.execAtomicReturn
  | pageWalkComplete => exact h.execPageWalkComplete
  | sectorFillArrival => exact h.execSectorFillArrival
  | l2FillArrival => exact h.execL2FillArrival
  | l1WritebackArrival => exact h.execL1WritebackArrival
  | directoryInvalidation => exact h.execDirectoryInvalidation
  | invalidationAck => exact h.execInvalidationAck
  | remoteEvictionNotice => exact h.execRemoteEvictionNotice
  | writeAckReceipt => exact h.execWriteAckReceipt
  | fenceComplete => exact h.execFenceComplete
  | txeCommit => exact h.execTxeCommit
  | pinResult => exact h.execPinResult
  | cfetchLanding => exact h.execCfetchLanding
  | engineQueueAdmit => exact h.execEngineQueueAdmit
  | copyChunkLanding => exact h.execCopyChunkLanding
  | gatherElementLanding => exact h.execGatherElementLanding
  | collChunk => exact h.execCollChunk
  | msendDelivery => exact h.execMsendDelivery
  | msendRetry => exact h.execMsendRetry
  | mmaRendezvousOpen => exact h.execMmaRendezvousOpen
  | mmaResultWrite => exact h.execMmaResultWrite
  | mmaAbsentTimeout => exact h.execMmaAbsentTimeout
  | waituWake => exact h.execWaituWake
  | waituTimeout => exact h.execWaituTimeout
  | spillWalk => exact h.execSpillWalk
  | scratchpadMonitorWake => exact h.execScratchpadMonitorWake
  | scratchpadMonitorExpiry => exact h.execScratchpadMonitorExpiry
  | barrierAbandonMark => exact h.execBarrierAbandonMark
  | launchPolicyApply => exact h.execLaunchPolicyApply
  | fabricPromotion => exact h.execFabricPromotion
  | writebackFlitOffer => exact h.execWritebackFlitOffer
  | queuePacketTake => exact h.execQueuePacketTake
  | quote => exact h.execQuote
  | accept => exact h.execAccept
  | decline => exact h.execDecline
  | launchPacket => exact h.execLaunchPacket
  | waitPacket => exact h.execWaitPacket
  | waitPacketSatisfied => exact h.execWaitPacketSatisfied
  | waitPageTimeout => exact h.execWaitPageTimeout
  | signalPacket => exact h.execSignalPacket
  | copyPacket => exact h.execCopyPacket
  | timestampPacket => exact h.execTimestampPacket
  | checkpointPacket => exact h.execCheckpointPacket
  | rollbackPacket => exact h.execRollbackPacket
  | quotationExpiry => exact h.execQuotationExpiry
  | acceptedValidityExpiry => exact h.execAcceptedValidityExpiry
  | queueSlotSwap => exact h.execQueueSlotSwap
  | cohortPlacement => exact h.execCohortPlacement
  | childPlacement => exact h.execChildPlacement
  | childCompletion => exact h.execChildCompletion
  | launchCompletion => exact h.execLaunchCompletion
  | preemptionDecision => exact h.execPreemptionDecision
  | drainWatchdog => exact h.execDrainWatchdog
  | teamSave => exact h.execTeamSave
  | teamRestore => exact h.execTeamRestore
  | levelChangeComplete => exact h.execLevelChangeComplete
  | primerWindow => exact h.execPrimerWindow
  | dutyWindowSlide => exact h.execDutyWindowSlide
  | energyMeterFold => exact h.execEnergyMeterFold
  | tmaxCheck => exact h.execTmaxCheck
  | ckiExpiry => exact h.execCkiExpiry
  | intervalClose => exact h.execIntervalClose
  | pairComparison => exact h.execPairComparison
  | createq => exact h.execCreateq
  | destroyq => exact h.execDestroyq
  | setcap => exact h.execSetcap
  | setregions => exact h.execSetregions
  | undercoat => exact h.execUndercoat
  | fwupdate => exact h.execFwupdate
  | attest => exact h.execAttest
  | setfilter => exact h.execSetfilter
  | mailboxBadreq => exact h.execMailboxBadreq
  | scrub => exact h.execScrub
  | undercoatDone => exact h.execUndercoatDone
  | translationEventServed => exact h.execTranslationEventServed
  | writeToMemoryComplete => exact h.execWriteToMemoryComplete
  | hostWrite => exact h.execHostWrite
  | hostRead => exact h.execHostRead
  | ingressFrame => exact h.execIngressFrame
  | ethernetEgress => exact h.execEthernetEgress
  | ptpMessage => exact h.execPtpMessage
  | syncLockChange => exact h.execSyncLockChange
  | noMasterHeard => exact h.execNoMasterHeard
  | eventMessageTransmission => exact h.execEventMessageTransmission
  | functionReady => exact h.execFunctionReady
  | functionReset => exact h.execFunctionReset
  | powerOnReset => exact keeps_execPowerOnReset
  | deviceReset => exact h.execDeviceReset
  | eccUncorrectable => exact h.execEccUncorrectable
  | droopDetect => exact h.execDroopDetect
  | droopRecovery => exact h.execDroopRecovery
  | thermalEvent => exact h.execThermalEvent
  | powerCapReached => exact h.execPowerCapReached
  | dutyClear => exact h.execDutyClear
  | sramsplitWrite => exact h.execSramsplitWrite
  | injWrite => exact h.execInjWrite
  | reservationRevoked => exact h.execReservationRevoked
  | undercoatRestore => exact h.execUndercoatRestore

/-! ### Packets, events and time -/

mutual
theorem Canonical.runWord {s j i} (h : Canonical s) : Canonical (s.runWord j i) := by
  unfold State.runWord
  split
  next e => exact h.frame.exec.canonical e
  · exact h

theorem Canonical.withWindows {s is} (h : Canonical s) : Canonical (s.withWindows is) := by
  refine h.foldl fun u e hu => ?_
  obtain ⟨i, k⟩ := e
  cases i
  case sfmt => exact .ite hu.frame hu
  all_goals exact hu

theorem Canonical.oldWindows {s s'} (h : Canonical s) : Canonical (s.oldWindows s') := ⟨h.wf⟩

/-- Each word of a packet, tried on the state before the packet. -/
theorem Canonical.tryWords {s is} (h : Canonical s) : ∀ r ∈ s.tryWords is, Canonical r.t := by
  intro r hr
  obtain ⟨e, _, rfl⟩ := List.mem_map.1 hr
  exact h.runWord

/-- The word whose trap stands is one of those tried. -/
theorem mem_of_worst {l : List Ran} {b : Nat × Ran} (e : worst l = some b) : b.2 ∈ l := by
  induction l generalizing b with
  | nil => cases e
  | cons r l ih =>
    rw [worst] at e
    split at e
    · exact .tail _ (ih e)
    · cases e; exact .head _
    · split at e
      · cases e; exact .tail _ (ih ‹_›)
      · cases e; exact .head _

theorem Canonical.runWords {s is} (h : Canonical s) : Canonical (s.runWords is).1 := by
  unfold State.runWords
  extract_lets _ ran bad wait _ _ _ t rest
  have tried {r : Ran} (hr : r ∈ ran) : Canonical (r.t.oldWindows s) := (h.withWindows.tryWords r hr).oldWindows
  have stands {b : Nat × Ran} (e : bad = some b) : Canonical (b.2.t.oldWindows s) := tried (mem_of_worst e)
  have waits {r : Ran} (e : wait = some r) : Canonical (r.t.oldWindows s) := tried (List.mem_of_find?_eq_some e)
  have acted : Canonical t := h.withWindows.foldl fun _ _ hu => hu.runWord
  clear_value bad wait
  have hrest : Canonical (rest ()).1 := by
    dsimp only [rest]
    split
    · exact waits rfl
    · exact stands rfl
    · exact acted.foldl fun _ _ hu => hu.runWord
  cases bad with
  | some _ =>
    dsimp only
    split
    · exact stands rfl
    · exact hrest
  | none => exact hrest

theorem Canonical.letGo {s gk} (h : Canonical s) : Canonical (s.letGo gk) := h.foldl fun _ _ hu => .ite hu hu.modGroup
end

mutual
theorem Canonical.issued {s s' gk k} (h : Canonical s) : Canonical (State.issued s' s gk k) := h.charge.modGroup
theorem Canonical.holdAfter {s gk k pc us} (h : Canonical s) : Canonical (s.holdAfter gk k pc us) := ⟨h.wf⟩
theorem Canonical.turnDone {s gk} (h : Canonical s) : Canonical (s.turnDone gk) := h.letGo.modQuarter
theorem Canonical.asIssued {s gk f} (h : Canonical s) : Canonical (s.asIssued gk f) := ⟨h.wf⟩
theorem Canonical.atIssue {s gk k} (h : Canonical s) : Canonical (s.atIssue gk k) := ⟨h.wf⟩
theorem Canonical.rest {s} (h : Canonical s) : Canonical s.rest := ⟨h.wf⟩

theorem Canonical.acceptWords {s gk f is} (h : Canonical s) : Canonical (s.acceptWords gk f is) :=
  .ite h.asIssued.runWords.modGroup (.ite h.asIssued.runWords (.ite h.asIssued.runWords.issued h.asIssued.runWords.issued.fallThrough))

theorem Canonical.packet1 {s gk k} (h : Canonical s) : Canonical (s.packet1 gk k) := by
  unfold State.packet1
  extract_lets st
  cases s.fetchTrap gk k with
  | some _ => exact h.atIssue.takeTrap.turnDone.rest
  | none =>
    dsimp only
    cases packetInstrs (s.group gk) (s.packetWords gk st) with
    | error => exact h.atIssue.takeTrap.turnDone.rest
    | ok => exact .rest (.turnDone (.ite h.keepBlock.acceptWords h.keepBlock.acceptWords.holdAfter))
end

mutual
theorem Canonical.accept {s gk} (h : Canonical s) : Canonical (s.accept gk) := by
  unfold State.accept
  extract_lets
  cases (s.group gk).flight with
  | none => exact h
  | some _ =>
    dsimp only
    split
    · exact h.modGroup
    · exact h.modGroup.acceptWords.rest

theorem Canonical.addStatic {s cl qidx e} (h : Canonical s) : Canonical (s.addStatic cl qidx e) := ⟨h.wf⟩

theorem Canonical.staticTick {s n cl} (h : Canonical s) : Canonical (s.staticTick n cl) := by
  unfold State.staticTick
  refine (h.foldl fun u q hu => ?_).chargeOverhead
  extract_lets
  cases u.levelSetter cl with
  | some _ => exact .ite hu.addStatic hu.addStatic.addStatic
  | none => exact hu.addStatic

theorem Canonical.staticRest {s n d} (h : Canonical s) : Canonical (s.staticRest n d) := ⟨h.wf⟩

theorem Canonical.tick {s} (h : Canonical s) : Canonical s.tick :=
  (((h.foldl fun _ _ hu => hu.parkings.droopDue).foldl fun _ _ hu => hu.staticTick).foldl fun _ _ hu => hu.staticRest).frame

theorem Canonical.play {s a} (h : Canonical s) : Keeps (s.play a) := by
  unfold State.play
  cases a with
  | packet => exact .next h.packet1
  | accept => exact .next h.accept
  | join => exact .next h.completeJoin
  | hop => exact .next h.hop
  | expire => exact .next h.expireImage
  | event => exact h.exec
  | input =>
    dsimp only
    split
    · exact .next h
    · exact .ite h.frame.exec (.next h.frame)

theorem Canonical.spillOut {s s'} (h : Canonical s) : Canonical (s.spillOut s') := h.foldl fun _ _ hu => .ite hu hu.writeMem

theorem Canonical.advance {s} (h : Canonical s) : Keeps s.advance := by
  unfold State.advance
  cases s.chosen with
  | none => exact .next h.tick
  | some _ =>
    dsimp only
    split
    next e => exact .next (h.play.canonical e).spillOut.rest.tick
    · exact .fault
    · exact .refused
end

/-! ### The statement -/

/-- Settles O59: a step plays one move, writes the spill lists and lets time pass, and each of them keeps memory canonical. -/
theorem memoryKept : Obligations.MemoryKept := by
  unfold Obligations.MemoryKept
  intro s t hs ht
  exact ((Canonical.advance ⟨hs⟩).canonical ht).wf

end Sys2Proof.Machine
end
